-- ==== Sys2Proof/Word.lean ====
section
/-! DEFINITION. The word types of the part and their plainest arithmetic. -/

namespace Sys2Proof

/-- One byte of a memory. -/
abbrev Byte := BitVec 8

/-- One register word (R532). -/
abbrev Word := BitVec 32

/-- One Bluharok instruction word (R213). -/
abbrev IWord := BitVec 128

/-- A frame number F (48 bits in registers, spec/00_scope.md). -/
abbrev Frame := BitVec 48

end Sys2Proof
end

