-- ==== Sys2Proof/Syntax.lean ====
section
/-! DEFINITION. The commands of the part: one constructor per row of the opcode table. -/

namespace Sys2Proof

/-- The issue of one instruction word (R213): the logical spar that issues it, the channel whose bundle holds it, the cycle of
its issue as an offset from the tick of the line in progress, the word, the extension words that follow it (R218), and whether
its fetch found an uncorrectable codeword (R178). -/
structure Issue where
  spar : Fin 64
  chan : Fin 1024
  c : BitVec 16
  word : IWord
  ext : List IWord
  ue : Bool
deriving DecidableEq, Repr

/-- What the part read of a sink's capabilities at training (R383, R386). -/
structure Sink where
  maxRate : Nat
  lanes : Nat
  dsc : Bool
  adaptive : Bool
  yGran : Nat
deriving DecidableEq, Repr

/-- What the input reports of the received signal; `rev` and `pol` are the lane order and inversion found at its training. -/
structure InSignal where
  link : Bool
  video : Bool
  dsc : Bool
  rate : BitVec 4
  lanes : BitVec 2
  enc : BitVec 2
  bpc : BitVec 3
  hact : BitVec 14
  vact : BitVec 13
  rev : Bool
  pol : BitVec 4
deriving DecidableEq, Repr

/-- An AUX request of a source: native reads and writes of DPCD, and I2C-over-AUX writes and reads of a device address. -/
inductive AuxReq where
  | dpcdRead (addr : BitVec 20) (n : Fin 17)
  | dpcdWrite (addr : BitVec 20) (data : List Byte)
  | i2cWrite (dev : BitVec 7) (data : List Byte)
  | i2cRead (dev : BitVec 7) (n : Fin 17)
deriving DecidableEq, Repr

/-- A PTP timestamp: seconds and nanoseconds. -/
structure Stamp where
  sec : BitVec 48
  ns : BitVec 32
deriving DecidableEq, Repr

/-- The data set of an Announce message. -/
structure AnnounceSet where
  priority1 : BitVec 8
  clockClass : BitVec 8
  accuracy : BitVec 8
  variance : BitVec 16
  priority2 : BitVec 8
  gm : BitVec 64
  steps : BitVec 16
  src : BitVec 64
  srcPort : BitVec 16
deriving DecidableEq, Repr

/-- How a PTP message arrives and what its header holds: the transport (IEEE 802.3 or UDP), unicast, the VLAN tag, versionPTP, the domain, the
source port identity, sequenceId and correctionField; `ru` is its ingress at the balls, in raster units from the tick of the line in progress. -/
structure PtpHead where
  ether : Bool
  unicast : Bool
  tag : Option (BitVec 12)
  version : BitVec 4
  domain : BitVec 8
  src : BitVec 64
  srcPort : BitVec 16
  seq : BitVec 16
  corr : BitVec 64
  ru : BitVec 32
deriving DecidableEq, Repr

/-- A Sync, with its twoStepFlag, or a Follow_Up. -/
inductive SyncBody where
  | sync (twoStep : Bool) (origin : Stamp)
  | followUp (origin : Stamp)
deriving DecidableEq, Repr

/-- A frame to the port's MAC address that is no PTP message. -/
inductive EthFrame where
  | arp (target : Word) (mac : BitVec 48) (ip : Word)
  | echo (dst : Word) (mac : BitVec 48) (ip : Word) (data : List Byte)
  | other
deriving DecidableEq, Repr

/-- Such a frame as it arrives: its VLAN tag, none where it has none, and what it is. -/
structure EthArrival where
  tag : Option (BitVec 12)
  frame : EthFrame
deriving DecidableEq, Repr

/-- What a reference event comes from: a source as RAST_SYNC_CTL.SRC codes it and, for GENLOCK and TE, whether its edge falls. -/
structure RefSource where
  src : Fin 4
  falling : Bool
deriving DecidableEq, Repr

/-- A frame that arrives at a Wearo port: its bytes as the FEC hands them over, and how many FEC codewords were corrected since the frame before it. -/
structure Rx where
  bytes : List Byte
  fec : BitVec 16
deriving DecidableEq, Repr

/-- How the host's memory answered a read of the part: with data, with Unsupported Request or Completer Abort, or with the poisoned-data
indication. -/
inductive HostReply where
  | data
  | aborted
  | poisoned
deriving DecidableEq, Repr

/-- What a boot finds outside its own state: BOOTSEL, whether a fuse word reads uncorrectable, what the boot flash delivers of slots A and B (none: a
read failure), the physical positions that fail the boot self-test, and whether VPP_FUSE is within its limits. -/
structure BootRun where
  sel : BitVec 2
  fuseUe : Bool
  flashA : Option (List Byte)
  flashB : Option (List Byte)
  fails : List (Fin 68)
  vpp : Bool
deriving DecidableEq, Repr

/-- The instructions of the JTAG port (R606). -/
inductive TapInstr where
  | bypass
  | sample
  | extest
  | idcode
deriving DecidableEq, Repr

/-- A configuration request (R529): a read of a double word, a write of the command register's Memory Space Enable and Bus Master Enable, of a base
address register (0, 1 BAR0; 2, 3 BAR2; 4, 5 absent), of MSI-X Enable and Function Mask, or of the power state. -/
inductive CfgReq where
  | read (dw : BitVec 10)
  | command (mem bme : Bool)
  | bar (n : Fin 6) (v : Word)
  | msixCtl (en mask : Bool)
  | power (d3 : Bool)
deriving DecidableEq, Repr

/-- What the debug port reaches: registers, HBM, a loft bay, and the registers and accumulators of a spar. -/
inductive DbgTarget where
  | reg (a : BitVec 24)
  | preg (p : Fin 4) (a : BitVec 24)
  | hbm (a : BitVec 35)
  | loft (n : Fin 64) (a : BitVec 23)
  | s (n : Fin 64) (k : Fin 32)
  | b (n : Fin 64) (k : Fin 16)
  | a (n : Fin 64) (k : Fin 8)
  | gen (n : Fin 64)
  | crucible (n : Fin 64) (h : Fin 32) (e : Fin 4096)
deriving DecidableEq, Repr

/-- A debugger's access: a read of `n` bytes of HBM or the loft, or of a register, or a write. -/
inductive DbgReq where
  | read (t : DbgTarget) (n : Fin 65)
  | write (t : DbgTarget) (bs : List Byte)
deriving DecidableEq, Repr

/-- The commands of the part, one constructor per row of the opcode table, in its order. A word of a bundle carries its issue (R213). -/
inductive Instr where
  /-- HALYARD_TICK (R19): At the end of each line of P_k cycles the timing generator emits a tick that reaches every spar 12 cycles later as C = 0
  of the next line, and each spar starts issuing that line's bundles. -/
  | halyardTick
  /-- FRAME_BOUNDARY (R47): At (F, 0, 0) F increments, committed shadowed values take effect, the new reef is in force and bundle 0 issues. `nj`:
  what each of the seven meters of R576 measured since it was last read, in nJ. -/
  | frameBoundary (nj : List (BitVec 64))
  /-- UPDATE_POINT (R367): At (F, U, 0) the generator updates its phase correction and length estimate from the paired reference and runs its state
  transitions. -/
  | updatePoint
  /-- REFERENCE_EVENT (R370): A GENLOCK or TE edge, a DP input frame start or a PTP alignment point arrives and is paired with a frame or
  discarded. `e` its source and edge, `t` its raster time, `k` the number of its alignment point (PTP). -/
  | referenceEvent (e : RefSource) (t : BitVec 64) (k : BitVec 48)
  /-- DECISION_POINT (R578): At (F, L_d, 0) the governor samples T_max, updates the account and chooses the reef for F + 1. `sens`: the reading of
  each sensor, none where it has no valid one; `nj` as in FRAME_BOUNDARY. -/
  | decisionPoint (sens : List (Option (BitVec 12))) (nj : List (BitVec 64))
  /-- FLEET_REEF_VOTE (R497): At the commit cut line each fleet member casts its reef vote, gathered by maximum over the phases. -/
  | fleetReefVote
  /-- LOCKSTEP_REEF_SEND (R349): The lock-step lead sends its reef choice for F + 1 by the commit cut line. -/
  | lockstepReefSend
  /-- FLEET_REEF_FALLBACK (R498): With no agreed reef by (F, LINES_TOTAL − 1, 0), the member applies its own vote or FB_REEF. -/
  | fleetReefFallback
  /-- LEAD_CHECK (R45): At C = 0 of line L − L_lead the raster engine checks that output line L is complete. -/
  | leadCheck
  /-- SCANOUT_LINE_READ (R410): Scan-out finishes reading line L at C = 0 of line L; poison there makes the line an underrun. -/
  | scanoutLineRead
  /-- LAYER_FETCH (R428): A memory-plane layer fetches its source sectors for line L during line L − 2. `l`: the layer. -/
  | layerFetch (l : Fin 8)
  /-- SIGNATURE_PUBLISH (R444): At (F, VACT + 2, 0) region signatures, rectangle CRCs and the frame signature are published. -/
  | signaturePublish
  /-- FLIP (R417): At (F, 1, 0) the flip timestamp registers are updated and, with FLIPEV, the event is posted. -/
  | flip
  /-- WATCH_SNAPSHOT (R155): At (F + 1, 1, 0) the scale watch figures of frame F are snapshot and gathering restarts. -/
  | watchSnapshot
  /-- BEND (R229): Ends the bundle. -/
  | bend (w : Issue)
  /-- LOOP (R183): Repeats its body n times at period P. -/
  | loop (w : Issue)
  /-- SLI (R231): Loads an immediate into an S register. -/
  | sli (w : Issue)
  /-- SOP (R232): Performs a scalar ALU operation into an S register. -/
  | sop (w : Issue)
  /-- SMOVB (R231): Moves an S register into a B register. -/
  | smovb (w : Issue)
  /-- ALI (R231): Loads an immediate address into an A register. -/
  | ali (w : Issue)
  /-- AINC (R233): Increments an A register, optionally as a ring of 2^K. -/
  | ainc (w : Issue)
  /-- SGET (R234): Copies AMAX, GEN_IDX, F, L, spar number or reef into an S register. -/
  | sget (w : Issue)
  /-- GSET (R231): Sets GEN_IDX. -/
  | gset (w : Issue)
  /-- FTEST (R198): Tests an ingress pair's PENDING and, if set, toggles FRONT. -/
  | ftest (w : Issue)
  /-- FSIG (R202): Signals an egress pair, taking effect 4 cycles later. -/
  | fsig (w : Issue)
  /-- AWAIT (R209): Tests that the spar's segments of a line are spar-owned, without waiting. -/
  | await (w : Issue)
  /-- MUSTER (R203): Signals this part's arrival at a muster with a release offset r. -/
  | muster (w : Issue)
  /-- MUSTER_RELEASE (R485): At t + r the muster releases, on time or late. `id`: the muster identifier. -/
  | musterRelease (id : BitVec 12)
  /-- EMIT (R205): Declares one segment of a layer line. -/
  | emit (w : Issue)
  /-- MARK (R206): Marks the spar's segments of a layer line complete, in effect 4 cycles later. -/
  | mark (w : Issue)
  /-- MMA (R241): Multiplies A and B tiles with k-step products placed and added into a crucible slot. -/
  | mma (w : Issue)
  /-- CONV (R246): Computes a convolution tile into a crucible slot. -/
  | conv (w : Issue)
  /-- TLOAD (R248): Transposes a 64-row tile into packed k-major vectors. -/
  | tload (w : Issue)
  /-- ARLAND (R249): Lands the reduced rows of a reduction into a crucible slot, poisoning rows not arrived. -/
  | arland (w : Issue)
  /-- VADD (R160): BF16 vector add. -/
  | vadd (w : Issue)
  /-- VSUB (R160): BF16 vector subtract. -/
  | vsub (w : Issue)
  /-- VMUL (R160): BF16 vector multiply. -/
  | vmul (w : Issue)
  /-- VFMA (R160): BF16 vector fused multiply-add into DST. -/
  | vfma (w : Issue)
  /-- VMAX (R160): BF16 vector maximum. -/
  | vmax (w : Issue)
  /-- VMIN (R160): BF16 vector minimum. -/
  | vmin (w : Issue)
  /-- VIADD (R161): s16 vector add with clamp. -/
  | viadd (w : Issue)
  /-- VISUB (R161): s16 vector subtract with clamp. -/
  | visub (w : Issue)
  /-- VIMUL (R161): s16 vector multiply with clamp. -/
  | vimul (w : Issue)
  /-- VIMAX (R161): s16 vector maximum. -/
  | vimax (w : Issue)
  /-- VIMIN (R161): s16 vector minimum. -/
  | vimin (w : Issue)
  /-- VCVT (R252): Converts vectors between formats. -/
  | vcvt (w : Issue)
  /-- VUN (R253): Applies a unary or composite BF16 function. -/
  | vun (w : Issue)
  /-- VRED (R163): Reduces unmasked lanes into an S register. -/
  | vred (w : Issue)
  /-- VGEN (R255): Writes counter-based generator output and advances GEN_IDX. -/
  | vgen (w : Issue)
  /-- RESC (R142): Rescales crucible rows into an output format. -/
  | resc (w : Issue)
  /-- QUANT (R144): Quantises BF16 loft elements, optionally after Hadamard rotation. -/
  | quant (w : Issue)
  /-- ARSEND (R260): Hands crucible rows to a reduction. -/
  | arsend (w : Issue)
  /-- LDH (R262): Moves sectors from HBM into the loft. -/
  | ldh (w : Issue)
  /-- STH (R262): Moves sectors from the loft into HBM. -/
  | sth (w : Issue)
  /-- RIG (R264): Sends 256 B chunks over the rigging to one or more bays. -/
  | rig (w : Issue)
  /-- LSC (R265): Copies sectors within the spar's bay. -/
  | lsc (w : Issue)
  /-- IDXR (R266): Gathers sectors selected by loft index entries. -/
  | idxr (w : Issue)
  /-- PFIRST (R288): Planisher few-channel first layer. -/
  | pfirst (w : Issue)
  /-- PLAST (R290): Planisher few-channel last layer. -/
  | plast (w : Issue)
  /-- PSHUF (R293): Planisher pixel shuffle. -/
  | pshuf (w : Issue)
  /-- PCROP (R296): Planisher bilinear crop-and-resize from a box list. -/
  | pcrop (w : Issue)
  /-- PARGMAX (R270): Planisher argmax over channels. -/
  | pargmax (w : Issue)
  /-- INPUT_FRAME_START (R396): The display input begins storing a received frame into the bound pair's back member. -/
  | inputFrameStart
  /-- INPUT_FRAME_STORED (R396): The last write of a received frame lands in every receiving bay and PENDING sets. `px`: the received components of
  each line, in the order of the pixels. -/
  | inputFrameStored (px : List (List (BitVec 16)))
  /-- INPUT_STATE (R397): LINK, VIDEO or MATCH of the display input changes. `x`: what the input now detects. -/
  | inputState (x : InSignal)
  /-- DPCD_ACCESS (R394): A source reads or writes DPCD or EDID over AUX. `r`: the request. -/
  | dpcdAccess (r : AuxReq)
  /-- EDID_UPD (R394): A write of 1 drives IN_HPD low for 100 ms. By port `p`. -/
  | edidUpd (p : Fin 4)
  /-- IN_HPD_RELEASE (R394): After 100 ms IN_HPD is released so the source rereads EDID and DPCD. -/
  | inHpdRelease
  /-- EGRESS_RELEASE (R195): A write of REL releases the front member of an egress pair and clears PENDING. By port `p`, of pair `n`. -/
  | egressRelease (p : Fin 4) (n : Fin 16)
  /-- SINK_LOST (R384): Hot-plug deasserts or the output link fails; output stops within the line. -/
  | sinkLost
  /-- OUTPUT_TRAINING_DONE (R405): Output link training completes and output resumes at the next frame boundary. `k`: the sink's capabilities;
  `rev`, `pol`: lane order and inversion found. -/
  | outputTrainingDone (k : Sink) (rev : Bool) (pol : BitVec 4)
  /-- REGISTER_WRITE (R13): A write to a register with no step of its own stores or pends its value. Port `p` writes `w` at BAR0 offset `a` with
  byte enables `be`, landing at cycle `c`; `b`: what a boot or a fuse command that the write starts finds outside. -/
  | registerWrite (p : Fin 4) (a : BitVec 24) (w : Word) (be : BitVec 4) (c : BitVec 16) (b : BootRun)
  /-- LATCHING_READ (R643): A read of the first register of a group latches the rest for the port. Port `p` reads the word that holds BAR0 offset
  `a`, any register. -/
  | latchingRead (p : Fin 4) (a : BitVec 24)
  /-- HOST_FLUSH (R535): A read completes only after the port's earlier BAR2 writes have landed. By port `p`. -/
  | hostFlush (p : Fin 4)
  /-- BAR2_READ (R534): A host read of user HBM through the BAR2 window is served in a stack window. Port `p` reads `n` bytes at offset `o` of its
  window. -/
  | bar2Read (p : Fin 4) (o : Word) (n : Fin 4097)
  /-- BAR2_WRITE (R534): A host write to user HBM through BAR2 is served in a stack window. Port `p` writes at offset `o` of its window the bytes
  that are enabled; `psn`: with the poisoned-data indication. -/
  | bar2Write (p : Fin 4) (o : Word) (ws : List (Option Byte)) (psn : Bool)
  /-- ACCESS_TIMEOUT (R566): A register access stalled 8 µs at a crossing completes with all ones and the crossing is marked wedged. The oldest
  access of port `p` that waits; `c` and `b` as in REGISTER_WRITE, should it be served. -/
  | accessTimeout (p : Fin 4) (c : BitVec 16) (b : BootRun)
  /-- COMMIT_GO (R399): RAST_COMMIT.GO commits the port's pending writes for a target frame. By port `p`, landing at cycle `c` of the line. -/
  | commitGo (p : Fin 4) (c : BitVec 16)
  /-- CREATE (R545): Creates a channel in the lowest free slot and returns its handle. By port `p`; its arguments are in HOST_CMD_ARG. -/
  | create (p : Fin 4)
  /-- DESTROY (R551): Destroys a channel, taking effect at a frame boundary. By port `p`, landing at cycle `c` of the line. -/
  | destroy (p : Fin 4) (c : BitVec 16)
  /-- ADMIT (R545): Checks arguments and queues the admission of a sail plan or fitting image. By port `p`. -/
  | admitCmd (p : Fin 4)
  /-- ADMISSION (R553): A queued admission is performed against everything admitted before it. -/
  | admission
  /-- WITHDRAW (R551): Withdraws a channel's admitted work at a frame boundary. By port `p`, landing at cycle `c` of the line. -/
  | withdraw (p : Fin 4) (c : BitVec 16)
  /-- UNQUAR (R543): Returns a quarantined slot to FREE with generation 0. By port `p`. -/
  | unquar (p : Fin 4)
  /-- RESTART (R550): Returns a copy channel in ERROR to IN_USE at the abandoned descriptor. By port `p`. -/
  | restart (p : Fin 4)
  /-- PLAN_COPY (R177): Copying an admitted plan into the bundle and line map stores completes. `n`: the slot. -/
  | planCopy (n : Fin 1024)
  /-- RESOURCE_ZEROING (R615): Resources of a withdrawn passage or job are zeroed in slack. -/
  | resourceZeroing
  /-- HOST_FENCE_INC (R539): Increments one of the port's fence counters. By port `p`, counter `k`. -/
  | hostFenceInc (p : Fin 4) (k : Fin 16)
  /-- TAIL_WRITE (R549): The host posts copy descriptors by writing CHAN_SLOTs_TAIL. By port `p`, slot `n`, value `v`. -/
  | tailWrite (p : Fin 4) (n : Fin 1024) (v : Word)
  /-- DESCRIPTOR_START (R549): A copy descriptor starts once its fence wait is satisfied. `n`: the slot; `ok`: the host answered the read of the
  descriptor with data. -/
  | descriptorStart (n : Fin 1024) (ok : Bool)
  /-- COPY_BATCH (R549): A batch of a descriptor's sectors is moved within a stack window or slack interval. `reply`: how host memory answers the
  reads of the batch. -/
  | copyBatch (reply : HostReply)
  /-- EQ_HEAD (R556): The host advances HOST_EQ_HEAD, freeing queue space. By port `p`, value `v`. -/
  | eqHead (p : Fin 4) (v : Word)
  /-- EQ_ENABLE (R539): A write of HOST_EQ_CTL enables the event queue, delivering BOOT_DONE the first time. By port `p`, value `v`. -/
  | eqEnable (p : Fin 4) (v : Word)
  /-- EQ_INTERRUPT (R557): MSI-X vector 0 signals once new entries exist and MOD µs have passed. `p`: the port. -/
  | eqInterrupt (p : Fin 4)
  /-- PORT_RESET (R558): A Function Level Reset or PERST destroys the port's channels and clears its state. `p`: the port. -/
  | portReset (p : Fin 4)
  /-- MERGED_EVENT (R564): After an event crossing's acknowledge phase, merged pulses are delivered as one event. `k`: the crossing; `n`: the
  pulses merged; `post`: the port, code and payload of the event, where it is posted to a host. -/
  | mergedEvent (k : Fin 14) (n : BitVec 16) (post : Option (Fin 4 × BitVec 16 × List Byte))
  /-- PAUSE (R354): Requests a pause at a frame boundary. By port `p`, landing at cycle `c` of the line. -/
  | pause (p : Fin 4) (c : BitVec 16)
  /-- SAVE (R356): Requests a save image while paused. By port `p`. -/
  | save (p : Fin 4)
  /-- SAVE_DONE (R356): The save image is written and its length set. -/
  | saveDone
  /-- LOAD (R357): Requests a load of the save image while paused. By port `p`. -/
  | load (p : Fin 4)
  /-- LOAD_DONE (R357): The save image is restored into the paused part. -/
  | loadDone
  /-- RESUME (R358): Requests a resume of the paused part. By port `p`. -/
  | resume (p : Fin 4)
  /-- RESUMED (R358): The first frame start after lock delivers (P, 0, 0). `nj` as in FRAME_BOUNDARY. -/
  | resumed (nj : List (BitVec 64))
  /-- DRST_OUT (R569): Resets the OUT group. By port `p`. -/
  | drstOut (p : Fin 4)
  /-- DRST_IN (R569): Resets the IN group. By port `p`. -/
  | drstIn (p : Fin 4)
  /-- DRST_LINK (R569): Resets the LINK group. By port `p`. -/
  | drstLink (p : Fin 4)
  /-- DRST_TIME (R569): Resets the TIME group. By port `p`. -/
  | drstTime (p : Fin 4)
  /-- DRST_MEM (R569): Resets the MEM group, only while paused. By port `p`. -/
  | drstMem (p : Fin 4)
  /-- DRST_HOST (R569): Resets another port's HOSTp group. Port `p` resets the group of port `q`. -/
  | drstHost (p q : Fin 4)
  /-- DOMAIN_RESET_DONE (R571): A group reset and its crossing handshakes complete and wedged marks clear. -/
  | domainResetDone
  /-- FRAME_RECORD_WRITE (R339): The frame record of F is written to the ring in slack. -/
  | frameRecordWrite
  /-- REPLAY_FETCH (R340): The replay record of frame F is fetched in slack of F − 1. -/
  | replayFetch
  /-- LOCKSTEP_SIG_SEND (R350): At (F, L, W + 16) the part sends its line signatures to its partner. -/
  | lockstepSigSend
  /-- LOCKSTEP_FRAME (R350): The partner's line signatures arrive and are compared. On Wearo port `p`; `x`: the frame. -/
  | lockstepFrame (p : Fin 6) (x : Rx)
  /-- LOCKSTEP_DEADLINE (R350): DEPTH lines after L the partner's set is due. -/
  | lockstepDeadline
  /-- STACK_WINDOW (R513): A stack window opens and background HBM work runs in fixed order. `hard`: the sectors whose re-reads in this window are
  uncorrectable again. -/
  | stackWindow (hard : List Nat)
  /-- SLACK_INTERVAL (R38): A slack interval opens and the scheduler serves the background kinds in fixed order. `hard`: the bays whose re-reads in
  this interval are uncorrectable again. -/
  | slackInterval (hard : List Nat)
  /-- SELF_TEST_STEP (R107): An in-slack self-test step runs on every active spar. `fails`: the active spars whose signature differs; `c`: the
  offset of the step. -/
  | selfTestStep (fails : List (Fin 64)) (c : BitVec 16)
  /-- FIT_STEP_START (R310): A fitting step starts once AVAIL allows it. `n`: the job. -/
  | fitStepStart (n : Fin 8)
  /-- FIT_BUNDLE (R309): A fitting slack bundle starts in an interval of its class on every spar of the job. -/
  | fitBundle
  /-- FIT_STEP_COMPLETE (R304): The last bundle of a step completes; step watches are snapshot. `n`: the job. -/
  | fitStepComplete (n : Fin 8)
  /-- FIT_AVAIL (R310): A write of CHAN_FITn_AVAIL sets the samples available. By port `p`, job `n`, value `v`. -/
  | fitAvail (p : Fin 4) (n : Fin 8) (v : Word)
  /-- FIT_CKPT_REQUEST (R322): A write of CKPT requests a checkpoint at the next step boundary. By port `p`, job `n`. -/
  | fitCkptRequest (p : Fin 4) (n : Fin 8)
  /-- FIT_CKPT_DONE (R322): The checkpoint is written and CKPT clears. `n`: the job. -/
  | fitCkptDone (n : Fin 8)
  /-- FIT_CKPT_RESTORE (R324): With RESTORE set, the checkpoint is loaded before step 0. `n`: the job. -/
  | fitCkptRestore (n : Fin 8)
  /-- BLACK_BOX_COPY (R608): A black-box entry is copied into the HBM event log in slack. -/
  | blackBoxCopy
  /-- PTP_SYNC (R455): A Sync or Follow_Up arrives and completes an offset measurement. `h`: the message's header and arrival; `b`: its body. -/
  | ptpSync (h : PtpHead) (b : SyncBody)
  /-- PTP_DELAY_RESP (R455): A Delay_Resp completes the delay exchange. `h`: header; `recv`: receiveTimestamp; `dst`, `toPort`:
  requestingPortIdentity. -/
  | ptpDelayResp (h : PtpHead) (recv : Stamp) (dst : BitVec 64) (toPort : BitVec 16)
  /-- DELAY_REQ (R455): A Delay_Req is sent at its interval. `ru`: its egress, in raster units from the tick of the line. -/
  | delayReq (ru : BitVec 32)
  /-- SYNC_MESSAGE_SEND (R452): As master the part sends Sync and Follow_Up at its interval. `ru`: its egress, in raster units from the tick of the
  line. -/
  | syncMessageSend (ru : BitVec 32)
  /-- PTP_ANNOUNCE (R452): An Announce arrives and the best master algorithm runs. `h`: header; `d`: data set. -/
  | ptpAnnounce (h : PtpHead) (d : AnnounceSet)
  /-- ANNOUNCE_RECEIPT_TIMEOUT (R456): No Announce within the timeout puts the servo in HOLDOVER. -/
  | announceReceiptTimeout
  /-- HOLDOVER_EXPIRY (R456): After HOLD_S seconds in HOLDOVER the servo enters FREERUN. -/
  | holdoverExpiry
  /-- ACCEPT (R458): A write of ACCEPT permits the next beyond-threshold measurement to step the time. By port `p`. -/
  | accept (p : Fin 4)
  /-- TIME_ETH_EN (R453): Setting TIME_ETH_CTL.EN starts TK and the port with its addresses. By port `p`, the word `w`. -/
  | timeEthEn (p : Fin 4) (w : Word)
  /-- NON_PTP_FRAME (R453): A non-PTP frame to the port's MAC is answered (ARP, ICMP echo) or discarded by firmware. `f`: its
  tag and the frame. -/
  | nonPtpFrame (f : EthArrival)
  /-- OPTICAL_SIGNAL (R461): Optical signal on all wavelengths starts Wearo port training. On Wearo port `p`; `lanes`, `pol`: lane order and
  inversion found. -/
  | opticalSignal (p : Fin 6) (lanes : BitVec 8) (pol : BitVec 4)
  /-- TRAINING_TIMEOUT (R461): A training step exceeds its limit and training restarts. `p`: the Wearo port. -/
  | trainingTimeout (p : Fin 6)
  /-- INFO_FRAME (R463): The partner's INFO frame is checked to bring the port UP or management only. On Wearo port `p`; `x`: the frame. -/
  | infoFrame (p : Fin 6) (x : Rx)
  /-- LOSS_OF_SIGNAL (R463): Loss of optical signal takes the port down within 1 µs. `p`: the Wearo port. -/
  | lossOfSignal (p : Fin 6)
  /-- ACK_FRAME (R468): An ACK frame's fields release acknowledged frames from the replay buffer. On Wearo port `p`; `x`: the frame. -/
  | ackFrame (p : Fin 6) (x : Rx)
  /-- NAK_FRAME (R469): A NAK makes the sender resend go-back-N from the named frame. On Wearo port `p`; `x`: the frame. -/
  | nakFrame (p : Fin 6) (x : Rx)
  /-- DREQ_FRAME (R474): A DREQ is answered with a DRESP carrying t2 and t3. On Wearo port `p`; `ru2`: its ingress and `ru3`: the egress of the
  answer, in raster units; `x`: the frame. -/
  | dreqFrame (p : Fin 6) (ru2 ru3 : BitVec 32) (x : Rx)
  /-- DRESP_FRAME (R474): A DRESP completes a delay exchange and gives fleet time offset and delay. On Wearo port `p`; `ru`: its ingress, in raster
  units from the tick; `x`: the frame. -/
  | drespFrame (p : Fin 6) (ru : BitVec 32) (x : Rx)
  /-- MUSTER_FRAME (R484): A muster token is counted and forwarded, completing phases. On Wearo port `p`; `ru`: its ingress, in raster units from
  the tick; `x`: the frame. -/
  | musterFrame (p : Fin 6) (ru : BitVec 32) (x : Rx)
  /-- REEF_FRAME (R497): A reef vote token is combined by maximum and forwarded. On Wearo port `p`; `ru`: its ingress, in raster units from the
  tick; `x`: the frame. -/
  | reefFrame (p : Fin 6) (ru : BitVec 32) (x : Rx)
  /-- REDUCE_FRAME (R492): A partial row is added modulo 2^96 and forwarded. On Wearo port `p`; `ru`: its ingress, in raster units from the tick;
  `x`: the frame. -/
  | reduceFrame (p : Fin 6) (ru : BitVec 32) (x : Rx)
  /-- MGMT_FRAME (R465): A firmware management message is delivered. On Wearo port `p`; `x`: the frame. -/
  | mgmtFrame (p : Fin 6) (x : Rx)
  /-- LINK_FRAME_DISCARD (R466): A frame failing its CRC or holding a reserved value is discarded and counted. On Wearo port `p`; `x`: the frame.
  -/
  | linkFrameDiscard (p : Fin 6) (x : Rx)
  /-- ACK_TIMER (R468): Within 100 ns of acceptance an ACK frame is sent unless piggybacked. `p`: the Wearo port. -/
  | ackTimer (p : Fin 6)
  /-- RETRY_TIMEOUT (R469): The oldest unacknowledged frame waits RTO and the class is resent. `p`: the Wearo port; `c`: the class, 0 fast, 1 bulk.
  -/
  | retryTimeout (p : Fin 6) (c : Fin 2)
  /-- DELAY_EXCHANGE (R474): Every 125 µs an UP port sends a DREQ. `p`: the Wearo port; `ru`: the egress of the DREQ, in raster units from the
  tick. -/
  | delayExchange (p : Fin 6) (ru : BitVec 32)
  /-- PORT_ENABLE (R481): A write of LINK_PORTp_CTL enables or disables a Wearo port. Host port `h` writes `w` for Wearo port `p`. -/
  | portEnable (h : Fin 4) (p : Fin 6) (w : Word)
  /-- LINK_STAT_CLR (R480): Resets MARGIN and clears the late and stale counts. By host port `h`. -/
  | linkStatClr (h : Fin 4)
  /-- SPAR_CLR_SAT (R75): Clears SPAR_SAT. By port `p`, of logical spar `n`. -/
  | sparClrSat (p : Fin 4) (n : Fin 64)
  /-- SPAR_CLR_UFZ (R75): Clears SPAR_UFZ. By port `p`, of logical spar `n`. -/
  | sparClrUfz (p : Fin 4) (n : Fin 64)
  /-- SPAR_CLR_POI (R75): Clears SPAR_POI. By port `p`, of logical spar `n`. -/
  | sparClrPoi (p : Fin 4) (n : Fin 64)
  /-- HBM_CLR_CE (R526): Clears HBM_CE_CNT. By port `p`. -/
  | hbmClrCe (p : Fin 4)
  /-- HBM_CLR_UE (R526): Clears HBM_UE_CNT. By port `p`. -/
  | hbmClrUe (p : Fin 4)
  /-- HBM_CLR_MARK (R526): Clears HBM_MARK_CNT. By port `p`. -/
  | hbmClrMark (p : Fin 4)
  /-- HBM_CLR_DEFER (R526): Clears HBM_DEFER. By port `p`. -/
  | hbmClrDefer (p : Fin 4)
  /-- HBM_CLR_SCRUB (R526): Clears HBM_SCRUB_STAT. By port `p`. -/
  | hbmClrScrub (p : Fin 4)
  /-- LOFT_CLR_CE (R527): Clears LOFT_CE_CNT. By port `p`. -/
  | loftClrCe (p : Fin 4)
  /-- LOFT_CLR_UE (R527): Clears LOFT_UE_CNT. By port `p`. -/
  | loftClrUe (p : Fin 4)
  /-- LOFT_CLR_MARK (R527): Clears LOFT_MARK_CNT. By port `p`. -/
  | loftClrMark (p : Fin 4)
  /-- LOFT_CLR_SCRUB (R527): Clears LOFT_SCRUB_STAT. By port `p`. -/
  | loftClrScrub (p : Fin 4)
  /-- LOFT_CLR_BAY (R527): Clears every LOFT_BAYn_ERR. By port `p`. -/
  | loftClrBay (p : Fin 4)
  /-- PWR_CLR_CHANGES (R589): Clears PWR_CNT.CHANGES. By port `p`. -/
  | pwrClrChanges (p : Fin 4)
  /-- PWR_CLR_THERM (R589): Clears PWR_CNT.THERM. By port `p`. -/
  | pwrClrTherm (p : Fin 4)
  /-- POWER_ON_RESET (R591): VDD_AON rising into its limits resets the whole part and clears the black box. `strap`: BIFUR; `b`: what the boot
  finds. -/
  | powerOnReset (strap : BitVec 2) (b : BootRun)
  /-- COLD_RESET (R591): PORST_N low resets the part, retrains and zeroes HBM, and runs the boot stages. `b`: what the boot finds. -/
  | coldReset (b : BootRun)
  /-- WARM_RESET (R591): WRST_N low resets the part keeping HBM reserved regions and the logs. `b`: what the boot finds. -/
  | warmReset (b : BootRun)
  /-- WARM (R605): A write of SAFE_RST.WARM performs a warm reset. By port `p`; `b`: what the boot finds. -/
  | warm (p : Fin 4) (b : BootRun)
  /-- SUPPLY_FAULT (R592): A rail out of limits for more than 2 µs holds the part in warm reset. -/
  | supplyFault
  /-- BOOT_DONE (R596): The boot reaches STAGE 0xF and the event is logged. -/
  | bootDone
  /-- RECOVERY_GO (R599): In recovery a write of GO checks slot A and continues the boot if accepted. By port `p`; `b`: what the boot finds. -/
  | recoveryGo (p : Fin 4) (b : BootRun)
  /-- FABRIC (R594): A write of SAFE_RST.FABRIC requests a fabric reset, refused unless paused. By port `p`. -/
  | fabric (p : Fin 4)
  /-- FABRIC_RESET_DONE (R597): The fabric reset records failures, derives the map, clears crucibles and loft and reloads stores. `vpp`: VPP_FUSE
  is within its limits. -/
  | fabricResetDone (vpp : Bool)
  /-- DEBUG_KILL (R605): Blows the DEBUG_KILL fuse. By port `p` with ARM `arm`; `vpp`: VPP_FUSE is within its limits. -/
  | debugKill (p : Fin 4) (arm : BitVec 8) (vpp : Bool)
  /-- RAISE_SVN (R605): Blows SVN bits up to the running image's SVN. By port `p` with ARM `arm`; `vpp`: VPP_FUSE is within its limits. -/
  | raiseSvn (p : Fin 4) (arm : BitVec 8) (vpp : Bool)
  /-- REVOKE_KEY (R605): Blows the revocation fuse of a key slot. By port `p`, key slot `slot`, ARM `arm`; `vpp`: VPP_FUSE is within its limits. -/
  | revokeKey (p : Fin 4) (slot : Fin 4) (arm : BitVec 8) (vpp : Bool)
  /-- UPDATE (R605): Checks an image from BAR2 and writes it to the idle flash slot. By port `p` with ARM `arm`. -/
  | update (p : Fin 4) (arm : BitVec 8)
  /-- DEBUG_UNLOCK (R606): Setting SAFE_DBG.UNLOCK admits the debug port. By port `p`, the word `v`. -/
  | debugUnlock (p : Fin 4) (v : Word)
  /-- LOG_EXPORT (R609): A write of LOG_EXP_CTL.GO starts an export of the HBM log. By port `p`, the word `v`. -/
  | logExport (p : Fin 4) (v : Word)
  /-- LOG_EXPORT_DONE (R609): The export has written its entries to host memory. -/
  | logExportDone
  /-- THERMAL_TRIP (R613): T_max above the trip temperature for 1 ms stops the fabric and output. `sensor`, `reading`: the hottest. -/
  | thermalTrip (sensor : Fin 76) (reading : BitVec 12)
  /-- THERMAL_TRIP_CLEAR (R613): After 1 s below the clear temperature the part performs a warm reset. `b`: what the boot finds. -/
  | thermalTripClear (b : BootRun)
  /-- REFCLK_LOST (R612): No REFCLK edge for 200 ns switches AK to the internal oscillator. -/
  | refclkLost
  /-- REFCLK_RESTORED (R612): After 10 ms of good REFCLK, AK and the PLLs return to it. -/
  | refclkRestored
  /-- ENV_SYNC_STUCK (R610): GENLOCK or TE without edges for 4 × (DIV + 1) frames is flagged stuck. `input`: 0 GENLOCK, 1 TE; `level`: the level it
  is stuck at. -/
  | envSyncStuck (input : Fin 2) (level : Bool)
  /-- ENV_OUT_SHORT (R610): An output lane or AUX over its current or voltage limit has its driver turned off. `lane`: none for AUX; `level`: the
  level it is held at. -/
  | envOutShort (lane : Option (Fin 4)) (level : Bool)
  /-- OPTICS_POWERED (R622): After 1 ms with VDD_OPT and VLAS in limits the optical engines calibrate and ports train. -/
  | opticsPowered
  /-- OPTICS_UNPOWERED (R622): An optics rail leaving its limits turns the lasers off and takes every Wearo port down. -/
  | opticsUnpowered
  /-- DELAY_REQ_RECEIPT (R452): As a PTP master the part receives a Delay_Req and answers with a Delay_Resp carrying its receive timestamp. `h`:
  header. -/
  | delayReqReceipt (h : PtpHead)
  /-- ANNOUNCE_INTERVAL (R451): As a master-capable clock in MASTER state the part sends an Announce every 2^LOG_ANN seconds. -/
  | announceInterval
  /-- ETH_LINK_CHANGE (R456): The 25GBASE-R block lock and link go down or come up, changing TIME_ETH_STAT.LINK; loss of the parent link puts the
  servo in HOLDOVER. `up`: the link comes up. -/
  | ethLinkChange (up : Bool)
  /-- PCIE_LINK_TRAINED (R539): A host port's PCIe link trains, retrains or changes speed, and HOST_PORT.SPEED follows. `p`: the port; `speed` as
  HOST_PORT.SPEED codes it, 0 not trained. -/
  | pcieLinkTrained (p : Fin 4) (speed : BitVec 4)
  /-- CONFIGURATION_REQUEST (R596): A PCIe configuration request reaches a port and is answered, with Request Retry Status until boot is complete.
  On port `p`; `r`: the request. -/
  | configurationRequest (p : Fin 4) (r : CfgReq)
  /-- PORT_REFERENCE_CLOCK_LOST (R610): A port's PCIe reference clock is lost and the port's HK domain stops. `p`: the port. -/
  | portReferenceClockLost (p : Fin 4)
  /-- SINK_HOT_PLUG (R384): A DP sink asserts hot-plug detect again and the part starts retraining the output link. -/
  | sinkHotPlug
  /-- OUTPUT_TRAINING_RETRY (R610): Every 1 s output link training is retried after a shorted lane or a failed training. -/
  | outputTrainingRetry
  /-- RAILS_BACK_WITHIN_LIMITS (R592): 1 ms after every rail is back within its limits the part leaves the warm reset held by a supply fault, with
  cause 0x5. `b`: what the boot finds. -/
  | railsBackWithinLimits (b : BootRun)
  /-- VDD_AON_FALL (R592): VDD_AON falls below its limit, which is a power-on reset and loses the black box. -/
  | vddAonFall
  /-- VPP_FUSE_OUT_OF_LIMITS (R623): VPP_FUSE leaves its limits during a fuse command, which stops with RESULT 0x2. By port `p`, SAFE_CMD.OP `op` +
  1 with `slot` and `arm`; `n`: the SVN bits blown before the supply left its limits. -/
  | vppFuseOutOfLimits (p : Fin 4) (op : Fin 3) (slot : Fin 4) (arm : BitVec 8) (n : Fin 65)
  /-- LOCKSTEP_REEF_RECEIPT (R349): The lock-step follower receives the lead's reef choice for frame F + 1. On Wearo port `p`; `ru`: its ingress,
  in raster units from the tick; `x`: the frame. -/
  | lockstepReefReceipt (p : Fin 6) (ru : BitVec 32) (x : Rx)
  /-- JTAG_TAP_CLOCK (R606): A TCK edge advances the IEEE 1149.1 TAP controller and executes BYPASS, SAMPLE/PRELOAD, EXTEST or IDCODE, unless
  DEBUG_KILL holds it in reset. `tms`, `tdi`; `pins`: what the boundary cells capture. -/
  | jtagTapClock (tms tdi : Bool) (pins : List Bool)
  /-- DEBUG_PORT_ACCESS (R606): A debugger access over the debug port reads or writes internal state while UNLOCK is 1, and is ignored otherwise.
  `r`: the access. -/
  | debugPortAccess (r : DbgReq)
deriving DecidableEq, Repr

end Sys2Proof
end

