-- ==== Sys2Proof/Decode.lean ====
section
/-! DEFINITION. The command that a word of the opcode table spells. The table gives none of its rows any bits: its rows are steps of the part, not
encodings. The encodings of the words of a bundle are read by the meanings of those words. -/

namespace Sys2Proof

/-- No word of the table's numbering spells a command. -/
def decodeTableWord (_nbits _w : Nat) : Option Instr := none

end Sys2Proof
end

