-- ==== Sys2Proof/Machine/Bits.lean ====
section
/-! DEFINITION. Bit fields, byte order, signed readings and saturating counters: the helpers every register and every
instruction word is read and written with. -/

namespace Sys2Proof.Machine

/-- Bits [hi:lo] of a word, as a number. -/
def fld {n : Nat} (w : BitVec n) (hi lo : Nat) : Nat := w.toNat / 2 ^ lo % 2 ^ (hi + 1 - lo)

/-- Bit i of a word. -/
def bitAt {n : Nat} (w : BitVec n) (i : Nat) : Bool := decide (w.toNat / 2 ^ i % 2 = 1)

/-- The number `v`, of `n` bits, read in two's complement. -/
def toSigned (n v : Nat) : Int :=
  let m := v % 2 ^ n
  if m < 2 ^ (n - 1) then (m : Int) else (m : Int) - (2 : Int) ^ n

/-- Bits [hi:lo] of a word as a signed number. -/
def sfld {n : Nat} (w : BitVec n) (hi lo : Nat) : Int := toSigned (hi + 1 - lo) (fld w hi lo)

/-- The low `n` bits of an integer: assignment to a narrower variable keeps the low bits (spec/00_scope.md, Pseudocode). -/
def lowBits (n : Nat) (v : Int) : Nat := (v % (2 : Int) ^ n).toNat

/-- The register word with `v` placed in the `len` bits from `lo`. -/
def setFld (w : Word) (lo len v : Nat) : Word :=
  let old := w.toNat / 2 ^ lo % 2 ^ len
  BitVec.ofNat 32 (w.toNat - old * 2 ^ lo + v % 2 ^ len * 2 ^ lo)

/-- 1 for true, 0 for false. -/
def b2n (b : Bool) : Nat := if b then 1 else 0

/-- The `n` bytes of `v`, the least significant first. -/
def leBytes : Nat → Nat → List Byte
  | 0, _ => []
  | n + 1, v => BitVec.ofNat 8 v :: leBytes n (v / 256)

/-- The number whose bytes are given, the least significant first. -/
def fromLe : List Byte → Nat
  | [] => 0
  | b :: t => b.toNat + 256 * fromLe t

/-- `a + k`, held at `2^n - 1` (R152 and every counter called saturating). -/
def satAdd (n a k : Nat) : Nat := min (a + k) (2 ^ n - 1)

/-- The word with the counter field of `len` bits from `lo` advanced by `k`, saturating. -/
def bumpFld (w : Word) (lo len k : Nat) : Word := setFld w lo len (satAdd len (fld w (lo + len - 1) lo) k)

/-- The signed difference of two values of `n` bits: a is later than b when it is above 0 (R12). -/
def signedDiff (n : Nat) (a b : Int) : Int := toSigned n (lowBits n (a - b))

/-- ⌈a / b⌉. -/
def ceilDiv (a b : Nat) : Nat := (a + b - 1) / b

/-- Rounding of n / d to the nearest integer, ties to even (rne, spec/00_scope.md); d is positive. -/
def rneDiv (n : Int) (d : Nat) : Int :=
  let q := n / (d : Int)
  let r := 2 * (n % (d : Int))
  if r < d then q else if (d : Int) < r then q + 1 else if q % 2 = 0 then q else q + 1

/-- The lowest set bit position of a number below 2^n, if any. -/
def lowestBit (n v : Nat) : Option Nat := (List.range n).find? (fun i => v / 2 ^ i % 2 = 1)

/-- The number of set bits of the low `n` bits. -/
def popCount (n v : Nat) : Nat := ((List.range n).filter (fun i => v / 2 ^ i % 2 = 1)).length

/-- The list without repeats: each element where it first stands. -/
def uniq {α : Type} [DecidableEq α] : List α → List α
  | [] => []
  | a :: t => a :: (uniq t).filter (fun b => b ≠ a)

/-- Bit i of a number. -/
def bitOf (v i : Nat) : Bool := decide (v / 2 ^ i % 2 = 1)

end Sys2Proof.Machine
end

