-- ==== Sys2Proof/Machine/SMap.lean ====
section
/-! DEFINITION. The one canonical form of every sparse part of State: a list of (key, value) pairs with strictly rising
keys and no value equal to what an unlisted key reads as. Equal contents are then equal lists. -/

namespace Sys2Proof.Machine

/-- What key `q` reads as; `d` where it is not listed. -/
def smGet {α : Type} (d : α) : List (Nat × α) → Nat → α
  | [], _ => d
  | (k, v) :: t, q => if k = q then v else smGet d t q

/-- An entry put before the first higher key. -/
def smIns {α : Type} (q : Nat) (v : α) : List (Nat × α) → List (Nat × α)
  | [] => [(q, v)]
  | (k, w) :: t => if q < k then (q, v) :: (k, w) :: t else (k, w) :: smIns q v t

/-- Key `q` set to `v`: what was listed for it goes, and the entry is put in order unless `v` is what an unlisted key reads as. -/
def smPut {α : Type} [DecidableEq α] (d : α) (m : List (Nat × α)) (q : Nat) (v : α) : List (Nat × α) :=
  let rest := m.filter (fun e => decide (e.1 ≠ q))
  if v = d then rest else smIns q v rest

/-- Every key of the list is above `b`, keys rise, and no value is `d`. -/
def smAbove {α : Type} [DecidableEq α] (d : α) : Option Nat → List (Nat × α) → Bool
  | _, [] => true
  | b, (k, v) :: t => (match b with | none => true | some x => decide (x < k)) && decide (v ≠ d) && smAbove d (some k) t

/-- The canonical form. -/
def smWf {α : Type} [DecidableEq α] (d : α) (m : List (Nat × α)) : Bool := smAbove d none m

/-- Every key is above `b` and the keys rise strictly: what a read after a write rests on. -/
def smRise {α : Type} : Option Nat → List (Nat × α) → Prop
  | _, [] => True
  | b, (k, _) :: t => (∀ x, b = some x → x < k) ∧ smRise (some k) t

/-- Several keys set in order. -/
def smPutAll {α : Type} [DecidableEq α] (d : α) (m : List (Nat × α)) (l : List (Nat × α)) : List (Nat × α) :=
  l.foldl (fun acc p => smPut d acc p.1 p.2) m

/-- The entries whose key does not satisfy `p`: every key that satisfies it reads as the default afterwards. -/
def smDrop {α : Type} (p : Nat → Bool) (m : List (Nat × α)) : List (Nat × α) := m.filter (fun e => !p e.1)

end Sys2Proof.Machine
end

