-- ==== Sys2Proof/Machine/State.lean ====
section
/-! DEFINITION. The state of the part: plain data, everything the spec gives it, and the state after reset. -/

namespace Sys2Proof.Machine

/-! ### Memories -/

/-- A memory behind the protection code of R501: its data bytes, the mark bit M of each codeword, and the bits of each
stored codeword that have flipped since it was written. Each list is canonical (SMap.lean); an unlisted byte reads 0 with
valid check bits, no mark and no flipped bit (R100). -/
structure Mem where
  bytes : List Host.Cell
  marks : List (Nat × Nat)
  flips : List (Nat × BitVec 80)
deriving DecidableEq, Repr

/-! ### The tensor fabric -/

/-- One 48-bit half of a crucible entry: its bits, its poison bit (R79) as 0 for clear, 1 for set by invalid inputs alone, 2
for set by a word delivered poisoned, a parity mismatch or a late muster (R336), and whether its stored parity bit mismatches (R84). -/
structure Half where
  bits : BitVec 48
  poison : Nat
  perr : Bool
deriving DecidableEq, Repr

/-- A descriptor record of a compact slot number (R80). -/
structure Descr where
  compact : Bool
  anchor : Int
deriving DecidableEq, Repr

/-- The state of a segment's bay range (R207). -/
inductive SegState where
  | sparOwned
  | marked
  | scanOut
deriving DecidableEq, Repr

/-- A segment that an EMIT declared (R205): the line occurrence it belongs to, its place, its range and its ownership.
`spoiled`: the part withdrew the spar's mark of the line and ignores later ones in the frame (R208). -/
structure Seg where
  layer : Nat
  line : Nat
  frame : Frame
  spar : Nat
  base : Nat
  len : Nat
  x0 : Nat
  width : Nat
  st : SegState
  /-- The line was complete at its lead check (R206, R207). -/
  ok : Bool
  spoiled : Bool
deriving DecidableEq, Repr

/-- The figures a scale watch gathers over all spars (R153). -/
structure WatchFig where
  n : Nat
  sat : Nat
  ufz : Nat
  amax : BitVec 16
deriving DecidableEq, Repr

/-- One element, or one scale, of an operand of a tile matrix word: m × 2^e, or none with how far it is poisoned: 1 an invalid input, 2 a
word delivered poisoned beyond that (R118, R138). -/
inductive Opnd where
  | val (m e : Int)
  | bad (p : Nat)
deriving DecidableEq, Repr

/-- An entry of LOFT_RANGES (R172). -/
structure LoftRange where
  off : Nat
  len : Nat
  shared : Bool
deriving DecidableEq, Repr

/-- What an instruction word takes at its issue cycle and keeps to its end (R80, R96, R181, R186): the registers and descriptor records of that
cycle, the fitting job it belongs to, the port of its channel, whether it issues in the foreground, the declared ranges of its program, and
its frame, line and reef. `side`: the gather that its frame watches feed (R153). -/
structure Held where
  sreg : List (Nat × Word)
  breg : List (Nat × Word)
  areg : List (Nat × BitVec 40)
  gen : List (Nat × BitVec 40)
  descr : List (Nat × Descr)
  actor : Option Nat
  port : Nat
  fg : Bool
  ranges : List LoftRange
  frame : Frame
  line : Nat
  reef : Nat
  side : Nat
deriving DecidableEq, Repr

/-- One k-step of a tile matrix word on its way into the crucible (R64, R128, R131): where it goes, the anchor it is placed with, whether it
is the first of a starting word, the 64 scaled elements of A and of B, and the rows and columns that lie within the write bounds. -/
structure KStep where
  spar : Nat
  compact : Bool
  slot : Nat
  anchor : Int
  first : Bool
  rows : List Opnd
  cols : List Opnd
  liveR : List Bool
  liveC : List Bool
deriving DecidableEq, Repr

/-- What of an issued word is still to come (R64, R88, R181, R182, R224, R238).

* `issue`, `again`: a word of a loop body issues, or iteration `k` of a loop does (R183). `lead` is the leader of the spars that run the set, for the MASK
  of its words, and `place` the word's place in the store.
* `stage`: a word reads what it reads in this cycle: `k` counts its stages, `acc` is what it has read so far.
* `store`: a write through the port of `spar` is issued: byte addresses as the word forms them, with values and poison; `keep` are the bytes of
  which only one 4-bit lane is written, with the half that stays (0 low, 1 high). `land`: it updates the bank; `u` is its issue cycle.
* `hbm`: a write to HBM becomes visible.
* `setS`, `setB`, `setA`, `setGen`, `addGen`, `setDescr`: a register or a descriptor record changes.
* `kstep`, `halves`: products are added into a slot, or reduced rows replace its entries.
* `mark`, `fence`: a MARK of a layer's line, or an FSIG of a pair, takes effect; `pos` is where it issued (line · 2^16 + cycle).
* `bundleEnd`: the slack bundle that a fitting channel runs completes (R309). -/
inductive Work where
  | issue (i : Issue) (lead place : Nat)
  | again (i : Issue) (k lead place : Nat)
  | stage (i : Issue) (h : Held) (k : Nat) (acc : List (Nat × Nat))
  | store (h : Held) (spar : Nat) (ws : List (Nat × Byte × Nat)) (keep : List (Nat × Nat))
  | land (spar : Nat) (fg : Bool) (u : Nat) (ws : List (Nat × Byte × Nat)) (keep : List (Nat × Nat))
  | hbm (ws : List (Nat × Byte × Nat))
  | setS (spar n : Nat) (w : Word)
  | setB (spar n : Nat) (w : Word)
  | setA (spar n : Nat) (w : BitVec 40)
  | setGen (spar : Nat) (w : BitVec 40)
  | addGen (spar k : Nat)
  | setDescr (spar : Nat) (compact : Bool) (slot : Nat) (anchor : Int)
  | kstep (x : KStep)
  | halves (l : List (Nat × Half))
  | mark (chan spar layer line : Nat) (frame : Frame) (pos : Nat)
  | fence (chan pair port pos : Nat)
  | bundleEnd (chan : Nat)
deriving DecidableEq, Repr

/-- Work in flight: the cycle in which it comes about, as an offset from the tick of the line in progress, and its place within that cycle: 0 what
landed before it, 1 the marks and signals that take effect in it, 2 issues, 3 reads and writes, 4 reduced rows that land (R494). -/
structure Flight where
  c : Nat
  phase : Nat
  work : Work
deriving DecidableEq, Repr

/-- The tensor fabric. Keys: S registers 32·spar + n, B 16·spar + n, A 8·spar + n, GEN_IDX spar, crucible halves
(32·spar + h)·4096 + 64·i + j, descriptor records 32·spar + h, loft bytes spar·2^23 + bay address, per-spar AMAX 8·spar + w; gathers of
frame watches 8·side + w and 512·side + 8·spar + w, where `side` is that of the frame in progress. -/
structure Fabric where
  sreg : List (Nat × Word)
  breg : List (Nat × Word)
  areg : List (Nat × BitVec 40)
  gen : List (Nat × BitVec 40)
  crucible : List (Nat × Half)
  descr : List (Nat × Descr)
  loft : Mem
  /-- The physical spar of each logical spar; unlisted n reads n; 0x7F absent (R53, R54). -/
  map : List (Nat × Nat)
  /-- Logical spars failed and awaiting retirement (SPAR_IDENT.STATE 0b01, R109). -/
  failed : List Nat
  /-- Physical spars recorded for retirement at the next fabric reset (R107, R110). -/
  badPhys : List Nat
  gather : List (Nat × WatchFig)
  gatherOwn : List (Nat × BitVec 16)
  snapOwn : List (Nat × BitVec 16)
  segs : List Seg
  /-- Channels whose marks and egress signals are ignored to the end of the frame, with where the fault fell (line · 2^16 + cycle, R193). -/
  muted : List (Nat × Nat)
  /-- Layers for which event 0x0314 was posted in this frame (R208). -/
  ownerFaulted : List Nat
  /-- The (spar, channel) pairs whose bundle of this line, or slack bundle, has ended (R229). -/
  ended : List (Nat × Nat)
  /-- The fitting job whose word is issuing, within one command: its accesses of a publication alias differ (R319). -/
  actor : Option Nat
  side : Nat
  /-- The cycle that the line in progress has reached, and what each counter of a spar gained in that cycle (R76). -/
  cyc : Nat
  fresh : List (Nat × Nat)
  /-- The work in flight, in the order in which it was begun. -/
  flight : List Flight
  /-- Bits of the codewords of the bundle and line map stores that have flipped since they were written (R178); keys as `storeKey` forms them. -/
  storeFlips : List (Nat × BitVec 80)
deriving DecidableEq, Repr

/-- One 76-byte entry of a line signature (R337): the spar, the offset from the tick of the line in progress, the bank
column, the poison flag, the byte-enable mask and the data bytes with disabled bytes 0. -/
structure SigEntry where
  spar : Nat
  c : Nat
  col : Nat
  mark : Bool
  enable : Nat
  data : List Byte
deriving DecidableEq, Repr

/-! ### Channels, sail plans and passages -/

/-- A slot's state (R543). -/
inductive SlotSt where
  | free
  | inUse
  | closing
  | quarantined
  | error
deriving DecidableEq, Repr

/-- A channel's kind (R544). -/
inductive ChanKind where
  | passage
  | background
  | copy
deriving DecidableEq, Repr

/-- A bundle set as copied into the bundle and line map stores (R173, R176). -/
structure BundleSet where
  lineMap : List Word
  words : List IWord
deriving DecidableEq, Repr

/-- The header of a passage image (R172), its sets and where it lies. -/
structure Passage where
  image : Nat
  reef : Nat
  linesTotal : Nat
  linesActive : Nat
  linePeriod : Nat
  w : Nat
  layers : Nat
  sparMask : Nat
  slotUse : Nat
  sUse : Nat
  bUse : Nat
  aUse : Nat
  watchUse : Nat
  gen : Bool
  segsPerLine : List Nat
  ranges : List LoftRange
  pairUse : Nat
  setMap : List Nat
  sets : List BundleSet
deriving DecidableEq, Repr

/-- The header of a fitting image (R306) and its sections (R307); `table` is one entry per slack bundle: block class, PUB, LEN. -/
structure FitImage where
  image : Nat
  reefMask : Nat
  steps : Nat
  sparMask : Nat
  slotUse : Nat
  sUse : Nat
  bUse : Nat
  aUse : Nat
  gen : Bool
  nbund : Nat
  psteps : Nat
  wlim : List (Nat × Nat)
  reefOfs : List Nat
  ranges : List LoftRange
  setMap : List Nat
  table : List (List (Bool × Bool × Nat))
  sets : List (List BundleSet)
deriving DecidableEq, Repr

/-- A copy descriptor in progress (R548, R549): its 32 bytes and how many sectors of it have landed. -/
structure CopyRun where
  desc : List Byte
  moved : Nat
deriving DecidableEq, Repr

/-- Why a channel's work leaves. -/
inductive Leave where
  | withdraw
  | destroy
  | portReset
deriving DecidableEq, Repr

/-- One slot of the channel table (R543 to R545). `admitSt` is CHAN_SLOTs_INFO.ADMIT; `wdraw` a landed WITHDRAW or
DESTROY, or a reset of the port, each with its target frame (R551, R558). -/
structure Slot where
  st : SlotSt
  kind : ChanKind
  port : Nat
  gen : Nat
  admitSt : Nat
  pair : Option Nat
  job : Option Nat
  ringBase : Nat
  ringSize : Nat
  tail : Nat
  head : Nat
  run : Option CopyRun
  passages : List Passage
  fit : Option FitImage
  /-- The copy of R177 has completed (PLAN_LOADED). -/
  loaded : Bool
  /-- The plan runs: a frame boundary has passed since the copy completed (R177). -/
  live : Bool
  wdraw : List (Leave × Frame)
deriving DecidableEq, Repr

/-- A slot never used: FREE, generation 0 (R543, R544). -/
def Slot.unused : Slot :=
  ⟨.free, .passage, 0, 0, 0, none, none, 0, 0, 0, 0, none, [], none, false, false, []⟩

/-- The state of one fitting job (R309 to R324), beside CHAN_FITn. -/
structure Job where
  /-- Steps completed is CHAN_FITn_STEP; `inStep`: a step has started and not completed; `next` is its next slack bundle. -/
  inStep : Bool
  next : Nat
  /-- A bundle of the step is running. -/
  running : Bool
  /-- Where the running bundle started, as an offset from the tick of the line in progress, and its LEN (R307, R309). -/
  start : Int
  len : Nat
  consec : Nat
  starved : Bool
  /-- The channel was withdrawn: the job stops at its next step boundary (R551). -/
  stopping : Bool
  restored : Bool
  nextVer : Nat
  gather : List (Nat × WatchFig)
  gatherOwn : List (Nat × BitVec 16)
  snapOwn : List (Nat × BitVec 16)
deriving DecidableEq, Repr

/-- A job number that no channel has bound. -/
def Job.idle : Job := ⟨false, 0, false, 0, 0, 0, false, false, false, 0, [], [], []⟩

/-- A shadowed write of a port (R399, R400, R645): `mask` are the bits of the register that it covers. `target` is the frame that its GO gave
it. -/
structure Commit where
  port : Nat
  addr : Nat
  value : Word
  mask : Word
  target : Frame
deriving DecidableEq, Repr

/-! ### Raster time -/

/-- The time of day (R450): seconds, nanoseconds, fraction in 2^−16 ns, the remainder of it in 1/24 of that, and the frequency
correction in force (R456): none, the REFCLK rate; otherwise the number of the measurement that set it. -/
structure Tod where
  sec : Nat
  ns : Nat
  frac : Nat
  rem : Nat
  corr : Option Nat
deriving DecidableEq, Repr

/-- A reference event as it arrived (R368): its source code, the raster time of it, and the number of its alignment point
(source PTP alone). -/
structure RefEvt where
  src : Nat
  t : Nat
  k : Nat
deriving DecidableEq, Repr

/-- The state of the timing generator beside RAST_SYNC_STAT (R366 to R377). `nEst`, `c` and `frac` are in units of 2^−16 ru. -/
structure Sync where
  nEst : Nat
  c : Int
  frac : Nat
  refs : List RefEvt
  /-- Raster time of the last update point. -/
  tU : Nat
  /-- The last reference paired with a frame, and that frame. -/
  prev : Option (Frame × Nat)
  /-- Frames since the last expected reference, and whether any reference has been paired since the source took effect. -/
  age : Nat
  phased : Bool
  misses : Nat
  inWin : Nat
  holdGood : Nat
  holdCnt : Nat
  /-- The primary source watched while on the fallback (R376). -/
  watchPrev : Option (Frame × Nat)
  watchGood : Nat
  /-- A realignment by extension lines is under way (R377). -/
  jump : Bool
  /-- The last frame in follow mode reached EXT_MAX without an input frame start (R409). -/
  followMiss : Bool
  /-- LOCKED has been reached since the fabric reset and its first boundary has not come (R373). -/
  fsetArm : Bool
  fsetDone : Bool
  /-- φ of the last paired reference (R371), and the number of its alignment point. -/
  phi : Int
  kRef : Nat
  /-- Frames that the generator has started while the part is paused (R358, R416). -/
  ghost : Nat
deriving DecidableEq, Repr

/-- A retrain of the output link (R405): the frame it took effect in, whether training has completed, whether it was late. -/
structure Train where
  frame : Frame
  done : Bool
  late : Bool
deriving DecidableEq, Repr

/-- Raster time (R20), the mode in force, and the generator. `time` is the raster time counter (R364) at C = 0 of the line in
progress and `t0` at (F, 0, 0). The nominal line period is tNum / tDen ns (R365). -/
structure Raster where
  frame : Frame
  line : Nat
  reef : Nat
  linesTotal : Nat
  linesActive : Nat
  linePeriod : Nat
  tNum : Nat
  tDen : Nat
  time : BitVec 64
  t0 : BitVec 64
  /-- The time of day at (F, 0, 0). -/
  tod0 : Tod
  suspended : Bool
  /-- RPT of the halyard ticks of this frame (R199). -/
  rpt : Bool
  train : Option Train
  /-- The last line of the frame has ended and its boundary has not come. -/
  due : Bool
  /-- The first frame after a suspension (R406). -/
  resumedF : Option Frame
  /-- The halyard is stopped by a pause (R354); `pauseAt`: the frame P of a pause that is pending. -/
  paused : Bool
  pauseAt : Option Frame
  /-- The word of the last tick that the halyard delivered (R21). -/
  tick : BitVec 36
  sync : Sync
deriving DecidableEq, Repr

/-! ### Output, composition and input -/

/-- A sector a memory-plane layer fetched for a line (R428): its HBM sector number and its bytes as delivered; `skipped` sectors
delivered nothing (R440). -/
structure Fetched where
  layer : Nat
  frame : Frame
  line : Nat
  sector : Nat
  skipped : Bool
  bytes : List Byte
deriving DecidableEq, Repr

/-- The main link of the output in self-refresh (R414, R415): on, off under PSR, in its low-power state under Panel Replay, its lanes in LP-11 under DSI
hold, or waking at the cut line before the exit from PSR. -/
inductive MainLink where
  | on
  | off
  | lowPower
  | lp11
  | waking
deriving DecidableEq, Repr

/-- The sync of a line of a DP or eDP output (R380): the pixel at which horizontal sync starts, its width and polarity, whether the line lies in vertical
sync, and its polarity. -/
structure LineSync where
  hStart : Nat
  hWidth : Nat
  hPos : Bool
  vSync : Bool
  vPos : Bool
deriving DecidableEq, Repr

/-- What the part sends beside the pixels of a frame: colour signalling in the MSA and the VSC SDP, the HDR static metadata SDP (R382), the DSC picture
parameter set (R381), and the indications of a self-refresh entry (R414). -/
inductive Signal where
  | colour (cmtx tf range : Nat)
  | hdr (words : List Word)
  | pps (bytes : List Byte)
  | psrEntry
  | panelReplay
deriving DecidableEq, Repr

/-- Scan-out and composition beside their registers. `line` is what the line in progress transmits: segments of (first column, codes; with DSC the bytes of a
slice's chunk). `psn` are the fetches (layer, frame, line) that delivered poison (R410). -/
structure Output where
  sink : Option Sink
  lost : Bool
  /-- Training is under way after a lost sink, a short or a failure; it has completed and the next boundary resumes output (R384). -/
  training : Bool
  trained : Bool
  /-- A shorted lane or AUX has its driver off (R610). -/
  shorted : Bool
  fetched : List Fetched
  psn : List (Nat × Nat × Nat)
  /-- The segments that scan-out read for the line in progress. -/
  scanned : List Seg
  line : List (Nat × List Nat)
  /-- The sync of the line in progress, what was signalled with the frame, the main link, and the codes of the slices under way, by first column. -/
  sync : Option LineSync
  signals : List Signal
  link : MainLink
  slice : List (Nat × List Nat)
  /-- Signature accumulators of the regions (key n) and the whole picture (key 16); CRC-32 accumulators; whether any line of the
  frame was composed. -/
  sig : List (Nat × BitVec 64)
  crc : List (Nat × BitVec 32)
  prevSig : Option (BitVec 64)
  /-- Event 0x0243 was posted since the freeze count was last reset (R445). -/
  frozen : Bool
  /-- A dirty region set took effect in this frame (R385). -/
  dirty : Bool
  /-- A self-refresh entry waits for output to resume (R415). -/
  srWait : Bool
deriving DecidableEq, Repr

/-- The display input beside its registers (R392 to R397): whether a frame is being stored, with the split words and the pair in
force at its start (R649); IN_HPD released; EDID_UPD's pulse; the DPCD bytes a source wrote; the EDID segment pointer and offset of
I2C-over-AUX; the answer to the last AUX request. `roleTold`: event 0x0312 was posted in this frame (R97). -/
structure Input where
  storing : Bool
  xs : List Word
  ys : List Word
  pair : Nat
  hpd : Bool
  pulse : Bool
  dpcd : List (Nat × Byte)
  segment : Nat
  offset : Nat
  reply : List Byte
  roleTold : Bool
deriving DecidableEq, Repr

/-! ### Events -/

/-- One entry of the black box (R607). -/
structure LogEntry where
  seq : Nat
  code : Nat
  merged : Bool
  dropped : Bool
  ports : Nat
  frame : Frame
  line : Nat
  cyc : Nat
  boots : Nat
  ns : Nat
  sec : Nat
  payload : List Byte
deriving DecidableEq, Repr

/-- An index of the black box that nothing has been written to. -/
def LogEntry.blank : LogEntry := ⟨0, 0, false, false, 0, 0, 0, 0, 0, 0, 0, []⟩

/-- The event queues' own state beside their registers, and the black box (R556, R564, R607). Keys of `mergeOf`:
port·2^16 + code. `w1c`: of a register with W1C bits (key port·2^24 + address) the cycle in which the part last set some, as `State.stamp` numbers it, and the bits (R15). -/
structure Events where
  mergeOf : List (Nat × Bool)
  /-- Drops of a port since its last EQ_OVERFLOW. -/
  dropsSince : List (Nat × Nat)
  seq : Nat
  box : List (Nat × LogEntry)
  w1c : List (Nat × (Nat × Word))
deriving DecidableEq, Repr

/-- What the configuration space of a port holds (R529): Bus Master Enable, MSI-X Enable and Function Mask, the power state (true in D3hot),
Memory Space Enable and the addresses of BAR0 and BAR2. -/
structure PortCfg where
  bme : Bool
  msixEn : Bool
  msixMask : Bool
  d3 : Bool
  mem : Bool
  bar0 : BitVec 64
  bar2 : BitVec 64
deriving DecidableEq, Repr

/-! ### Slack -/

/-- The slack interval and the stack window in progress, and what the background kinds keep (R37, R38, R308, R513 to R522). Times of the
window are in ns from its start; `pcFree` and `bankFree` (key 16·pc + bank) are those of R512. Loft scrub: per bay the next sector of its
general rows, the sectors of this pass with correctable errors, and the passes completed. -/
structure Slack where
  isOpen : Bool
  block : Bool
  left : Nat
  /-- The end of the interval, as an offset from the tick of the line in progress. -/
  fin : Nat
  win : Bool
  winBlock : Bool
  winLen : Nat
  pcFree : List (Nat × Nat)
  bankFree : List (Nat × Nat)
  refGroup : Nat
  calDone : Bool
  lastBg : Nat
  lastPort : Nat
  lastCopy : List (Nat × Nat)
  loftPos : List (Nat × Nat)
  loftCe : List (Nat × Nat)
  loftPass : List (Nat × Nat)
  selfStep : Nat
  /-- Telemetry jobs and copy batches deferred (R37): no register shows these counters. -/
  deferTel : Nat
  deferCopy : Nat
deriving DecidableEq, Repr

/-! ### Frame records -/

/-- A frame record read from the replay ring (R336, R340). -/
structure RplyRec where
  frame : Frame
  reef : Nat
  rptMask : Nat
  fitLate : Nat
  sig : BitVec 64
deriving DecidableEq, Repr

/-- A finished frame record that waits for its slack (R336, R339). `flags` is the REEF byte. -/
structure FrameRec where
  frame : Frame
  flags : Nat
  src : Nat
  rptMask : Nat
  dropMask : Nat
  fitLate : Nat
  evt : Nat
  cycles : Nat
  sig : BitVec 64
  /-- SIG of the replay record that was applied to the frame, where LOG_RPLY_CTL.CMP asks for the comparison (R345). -/
  expect : Option (BitVec 64)
deriving DecidableEq, Repr

/-- What the record of the frame in progress gathers (R336 to R338). `lineSigs`: the line signature of spar n in line l at
key 64·l + n; `entries`: the writes of the line in progress. -/
structure Rec where
  rptMask : Nat
  dropMask : Nat
  fitLate : Nat
  evt : Nat
  cycles : Nat
  lineSigs : List (Nat × BitVec 64)
  entries : List SigEntry
  ueHbm : Bool
  ueLoft : Bool
  /-- Ports whose BAR2 violation was posted in this frame (R533). -/
  partTold : Nat
  /-- The REEF byte and SRC of the record, settled at (F, 0, 0). -/
  flags : Nat
  src : Nat
  /-- The replay record applied to the frame in progress (R340), the one fetched for the next frame, and whether replay has stopped
  since EN took effect (R341). -/
  fetchedRec : Option RplyRec
  rplyStopped : Bool
  /-- Finished records in frame order. -/
  done : List FrameRec
  applied : Option RplyRec
  /-- The low 16 bits of F in which the frame waiting in a pair's back member was completed (R195, R198). -/
  pairDone : List (Nat × Nat)
deriving DecidableEq, Repr

/-! ### Time and fleets -/

/-- A master that Announce messages name (R452): its port identity and data set, and how many Announce messages of it have arrived
since it was last forgotten. -/
structure Foreign where
  data : AnnounceSet
  n : Nat
deriving DecidableEq, Repr

/-- What the 25GBASE-R port sends: PTP messages, with two-step Syncs, and the firmware's answers. -/
inductive EthMsg where
  | sync (seq : Nat)
  | followUp (seq : Nat) (t : Stamp)
  | delayReq (seq : Nat)
  | delayResp (seq : Nat) (t : Stamp) (dst : BitVec 64) (toPort : BitVec 16) (corr : BitVec 64)
  | announce (seq : Nat) (data : AnnounceSet)
  | arpReply (mac : BitVec 48) (ip : Word)
  | echoReply (mac : BitVec 48) (ip : Word) (data : List Byte)
deriving DecidableEq, Repr

/-- The IPv4 and UDP fields of a PTP message (R453). -/
structure UdpHead where
  src : Word
  dst : Word
  port : Nat
  ttl : Nat
  dscp : BitVec 6
deriving DecidableEq, Repr

/-- The common fields of a PTP message that the part sends (R452, R453). -/
structure PtpSelf where
  version : Nat
  minor : Nat
  domain : BitVec 8
  clk : BitVec 64
  port : BitVec 16
deriving DecidableEq, Repr

/-- A frame that the 25GBASE-R port sends (R452, R453): its addresses, its tag (VID, PCP), the UDP fields of a message over IPv4, the fields of a PTP message, and
what it says. -/
structure EthOut where
  src : BitVec 48
  dst : BitVec 48
  tag : Option (BitVec 12 × BitVec 3)
  udp : Option UdpHead
  ptp : Option PtpSelf
  msg : EthMsg
deriving DecidableEq, Repr

/-- The PTP port and the servo beside their registers (R452 to R459). Times are in 2^−16 ns. `mac`, `ip`, `clk`, `dscp` (event, general) and `vlan` (VID, PCP) are
what the port read as EN was set (R453). `last`: the master last selected (R456). `syncT2`: a two-step Sync that waits for its Follow_Up (sequence number, t2, correction). `reqT3`: the last
Delay_Req (sequence number, t3). `xch`: the latest completed Delay_Req exchange (t3, t4, correction). -/
structure Ptp where
  mac : BitVec 48
  ip : Word
  clk : BitVec 64
  vlan : Option (BitVec 12 × BitVec 3)
  dscp : BitVec 6 × BitVec 6
  foreign : List Foreign
  master : Option (BitVec 64 × BitVec 16)
  last : Option (BitVec 64 × BitVec 16)
  syncT2 : Option (Nat × Int × Int)
  reqT3 : Option (Nat × Int)
  xch : Option (Int × Int × Int)
  seqSync : Nat
  seqReq : Nat
  seqAnn : Nat
  /-- Consecutive measurements within LOCK_NS in ACQUIRE (R456). -/
  good : Nat
  /-- A refused measurement of the master has been reported (R457). -/
  told : Bool
  off : Int
  /-- What the last command of the port sent. -/
  sent : List EthOut
deriving DecidableEq, Repr

/-- A link frame (R464) but for its CRC. -/
structure LinkFrame where
  type : Nat
  cls : Nat
  seq : Nat
  ackF : Nat
  ackB : Nat
  payload : List Byte
deriving DecidableEq, Repr

/-- One sequence class of a port (R467 to R469): the next number to send and to receive, a NAK sent for the number expected, the
replay buffer with how often each frame was sent, and the frames (type, payload) that wait for room in it, in the stream of crossing 11 (R563). While a NAK stands,
`last` is the number last seen and `rewinds` how often the sender has gone back since. -/
structure LinkClass where
  seq : Nat
  exp : Nat
  nak : Bool
  last : Nat
  rewinds : Nat
  buf : List (LinkFrame × Nat)
  wait : List (Nat × List Byte)
deriving DecidableEq, Repr

/-- A Wearo port beside its registers. `lanes` and `pol`: the lane on each wavelength of its signal and the inverted ones, in the form of LINK_PORTp_STAT (R462). `step`: the training step under way, 0 for none (R461); `fails` in succession; `exch`: delay exchanges
completed in step 6; `verdict`: the reason that the INFO check gave, 0 for UP; `t1`: the DREQ under way (exchange number, t1);
`delays`: d of the last 16 exchanges, newest first, in 2^−16 ns (R474). -/
structure Wearo where
  signal : Bool
  lanes : Nat
  pol : Nat
  step : Nat
  fails : Nat
  exch : Nat
  verdict : Nat
  fast : LinkClass
  bulk : LinkClass
  ackDue : Bool
  exchNo : Nat
  t1 : Option (Nat × Int)
  delays : List Int
deriving DecidableEq, Repr

/-- A class after training (R463). -/
def LinkClass.start : LinkClass := ⟨0, 0, false, 0, 0, [], []⟩

/-- A port after reset. -/
def Wearo.start : Wearo := ⟨false, 0xE4, 0, 0, 0, 0, 0, LinkClass.start, LinkClass.start, false, 0, none, []⟩

/-- What a gather over the phases of R484 combines. -/
inductive GatherKind where
  | muster
  | vote
  | row
deriving DecidableEq, Repr

/-- A gather (R483, R484, R492, R497). `id` is the muster identifier, or RID·64 + row. `f` is F[15:0]. `phase` is the dimension under way, 3
when it is complete. `val` is what has been combined: nothing, a vote, or 64 entries and then their 64 poison marks; `parts` are the values received
by phase. `got` counts this part's contributions to a row. `rel` is the release (line, cycle) of a muster and `port` its host;
`doneAt` the (line, cycle) of its completion. -/
structure Gather where
  kind : GatherKind
  id : Nat
  f : Nat
  started : Bool
  phase : Nat
  val : List Nat
  parts : List (Nat × List Nat)
  got : Nat
  rel : Option (Nat × Nat)
  port : Nat
  doneAt : Option (Nat × Nat)
deriving DecidableEq, Repr

/-- A set of line signatures of a lock-step pair (R350). -/
structure LineSet where
  f : Nat
  line : Nat
  sigs : List (BitVec 64)
deriving DecidableEq, Repr

/-- The fleet and the lock-step pair beside their registers. `staleTold`: event 0x0531 was posted in this frame; `late`: the reductions reported
late in this frame (R494). `own` and `their` are sets not yet compared; `lsReef` is the lead's choice for the next frame. `fb`: the fallback reef
of the next frame (R498). -/
structure Fleet where
  gathers : List Gather
  staleTold : Bool
  late : List Nat
  fb : Option Nat
  own : List LineSet
  their : List LineSet
  lsReef : Option Nat
deriving DecidableEq, Repr

/-! ### Power -/

/-- The governor beside its registers (R573, R577 to R588, R620). `acct` is the account in nJ; `tDec` and `eDec` are the raster time and the total meter
energy of the last decision point, `eFrame` the energy at the start of the frame. `levels`: thermal level i is set at bit i − 1. `rs`, `rth`, `ready`: of the
decision for the next frame, with `decided`. `vid` is the code on CORE_VID; `pll` is the active one of the core PLLs, `divs` their output dividers. -/
structure Gov where
  acct : Int
  tDec : BitVec 64
  eDec : Nat
  eFrame : Nat
  levels : Nat
  rs : Nat
  rth : Nat
  ready : Nat
  decided : Bool
  vid : Nat
  pll : Bool
  divs : Nat × Nat
deriving DecidableEq, Repr

/-! ### Host work that waits -/

/-- A queued admission (R545, R553). `dropped`: a WITHDRAW or DESTROY came while it was queued. -/
structure AdmReq where
  slot : Nat
  handle : Nat
  port : Nat
  addr : Nat
  dropped : Bool
deriving DecidableEq, Repr

/-- What a withdrawn passage or job declared and has to be zeroed (R615). -/
structure Zeroing where
  spars : Nat
  slots : Nat
  sUse : Nat
  aUse : Nat
  gen : Bool
  ranges : List LoftRange
deriving DecidableEq, Repr

/-- A BAR2 access that waits for its stack window (R513, R534): a read of bytes of user HBM, a write of bytes with poison, or a read of HOST_FLUSH, which
completes after the writes before it (R535). -/
inductive Bar2Op where
  | read (a n : Nat)
  | write (ws : List (Nat × Byte × Nat))
  | flush
deriving DecidableEq, Repr

/-- A register access that waits at a stopped domain (R566): the value of a write, none for a read. -/
structure Stalled where
  port : Nat
  addr : Nat
  value : Option Word
deriving DecidableEq, Repr

/-! ### Always-on domain -/

/-- The fuses (R601): KEY_REVOKE, the number of SVN bits blown, FACTORY_DEFECT and the valid RETIRE entries in order. BIT_CLASS and GRADE stand in
State. -/
structure Fuses where
  debugKill : Bool
  revoke : Nat
  svn : Nat
  defect : Nat
  retire : List Nat
deriving DecidableEq, Repr

/-- The states of the IEEE 1149.1 TAP controller. -/
inductive TapState where
  | reset | idle
  | selectDr | captureDr | shiftDr | exit1Dr | pauseDr | exit2Dr | updateDr
  | selectIr | captureIr | shiftIr | exit1Ir | pauseIr | exit2Ir | updateIr
deriving DecidableEq, Repr

/-- The TAP (R606): the shift registers with the bit next to TDO first, the boundary cells as last updated, and TDO (none: high impedance). -/
structure Jtag where
  st : TapState
  ir : TapInstr
  shift : List Bool
  cells : List Bool
  tdo : Option Bool
deriving DecidableEq, Repr

/-- The always-on domain beside its registers. `table`: retirements not fused, `journal`: the last fuse programmed (operation and slot),
`bootsel` the strap; `held`: the part holds itself in reset for a rail out of limits (R592); `optics`: the optics' rails are in limits (R622); `keySlot`: the key
slot of the running image (R605); `dbg`: what the debug port last answered; `pprUsed`: the
post-package repairs made (R520);
`faultN`: FAULT_N is asserted; `refLost`: ports without their reference clock (R610). `flash`: the slots of the boot flash that UPDATE wrote, as (slot, image).
`loaded` are the fuses as the last reset read them (R604); `fuseBad`: a fuse word then read uncorrectable, and the boot stopped (R601). -/
structure Aon where
  fuses : Fuses
  loaded : Fuses
  fuseBad : Bool
  table : List Nat
  journal : Option (Nat × Nat)
  bootsel : Nat
  held : Bool
  optics : Bool
  faultN : Bool
  refLost : List Nat
  tap : Jtag
  dbg : List Byte
  keySlot : Nat
  pprUsed : Nat
  flash : List (Nat × List Byte)
deriving DecidableEq, Repr

/-! ### Registers -/

/-- What the access rules of the registers keep: latched copies (key port·2^24 + address, R643), stalled accesses (R566), per port the TAIL at which
vector 0 last signalled (R557), the port that started the export under way (R609), the ports told of this boot (R596),
and the ports reset in this frame (R558). -/
structure Access where
  latch : List (Nat × Word)
  stalled : List Stalled
  eqSeen : List (Nat × Nat)
  exporter : Nat
  bootTold : List Nat
  portResets : List Nat
deriving DecidableEq, Repr

/-! ### The state -/

/-- The part. -/
structure State where
  pending : List Instr
  rast : Raster
  fab : Fabric
  slots : List (Nat × Slot)
  jobs : List (Nat × Job)
  regs : List (Nat × Word)
  pregs : List (Nat × Word)
  hbm : Mem
  /-- The memories of the hosts, at port·2^64 + address; and the bytes of them that were last written with PCIe's poisoned-data
  indication (R523). -/
  host : List Host.Cell
  hostBad : List (Nat × Bool)
  ev : Events
  cfg : List (Nat × PortCfg)
  tod : Tod
  rcd : Rec
  repairQ : List Nat
  slk : Slack
  /-- Rows recorded for post-package repair (R520), by a sector of each. -/
  hardRows : List Nat
  /-- The answer to a port's last read: its bytes and the poisoned-data indication (R523). -/
  answer : List (Nat × List Byte × Bool)
  bifur : Nat
  bitClass : Nat
  grade : Nat
  /-- (layer, frame, line): the layer is off from that line to the end of that frame (R411). -/
  off : List (Nat × Nat × Nat)
  out : Output
  inp : Input
  /-- Writes of shadowed registers not yet covered by a GO, and the values that GOs have committed, oldest first (R399). -/
  pends : List Commit
  commits : List Commit
  ptp : Ptp
  wearo : List (Nat × Wearo)
  fleet : Fleet
  /-- The link frames that the last command which could send any put on the ports: (port, bytes). -/
  wire : List (Nat × List Byte)
  /-- The last firmware message delivered from each Wearo port (R465). -/
  mgmt : List (Nat × List Byte)
  gov : Gov
  adm : List AdmReq
  zeroQ : List Zeroing
  /-- BAR2 accesses that wait for their stack window, in arrival order (R534): (port, access). -/
  bar2Q : List (Nat × Bar2Op)
  aon : Aon
  acc : Access
  free : Nat
deriving DecidableEq, Repr

/-- The state right after reset. Registers are at their reset values (RegMap.lean); memories list nothing; the raster stands at (0, 0, 0) of the
virtual raster's reset mode at reef 3 (R40, R574); no fuse but the factory's is blown (R56, R601). Every field that no rule gives a value is
named in log 1. -/
def State.reset : State where
  pending := []
  rast := {
    frame := 0, line := 0, reef := 3, linesTotal := 1125, linesActive := 1080, linePeriod := 14814815, tNum := 10 ^ 12, tDen := 67500000
    time := 0, t0 := 0, tod0 := ⟨0, 0, 0, 0, none⟩, suspended := false, rpt := false, train := none, due := false, resumedF := none
    paused := false, pauseAt := none, tick := 0x1A0000000
    sync := {
      nEst := 23301688889, c := 0, frac := 0, refs := [], tU := 0, prev := none, age := 0, phased := false, misses := 0, inWin := 0
      holdGood := 0, holdCnt := 0, watchPrev := none, watchGood := 0, jump := false, followMiss := false, fsetArm := false
      fsetDone := false, phi := 0, kRef := 0, ghost := 0 } }
  fab := {
    sreg := [], breg := [], areg := [], gen := [], crucible := [], descr := [], loft := ⟨[], [], []⟩, map := [], failed := [], badPhys := []
    gather := [], gatherOwn := [], snapOwn := [], segs := [], muted := [], ownerFaulted := [], ended := [], actor := none
    side := 0, cyc := 0, fresh := [], flight := [], storeFlips := [] }
  slots := []
  jobs := []
  regs := []
  pregs := []
  hbm := ⟨[], [], []⟩
  host := []
  hostBad := []
  ev := ⟨[], [], 0, [], []⟩
  cfg := []
  tod := ⟨0, 0, 0, 0, none⟩
  rcd := {
    rptMask := 0, dropMask := 0, fitLate := 0, evt := 0, cycles := 0, lineSigs := [], entries := [], ueHbm := false, ueLoft := false
    partTold := 0, flags := 3, src := 4, fetchedRec := none, rplyStopped := false, done := [], applied := none, pairDone := [] }
  repairQ := []
  slk := {
    isOpen := false, block := false, left := 0, fin := 0, win := false, winBlock := false, winLen := 0, pcFree := [], bankFree := [], refGroup := 0
    calDone := false, lastBg := 1023, lastPort := 3, lastCopy := [], loftPos := [], loftCe := [], loftPass := [], selfStep := 0
    deferTel := 0, deferCopy := 0 }
  hardRows := []
  answer := []
  bifur := 0
  bitClass := 2
  grade := 1
  off := []
  out := {
    sink := none, lost := false, training := false, trained := false, shorted := false, fetched := [], psn := [], scanned := [], line := []
    sync := none, signals := [], link := .on, slice := [], sig := [], crc := [], prevSig := none, frozen := false, dirty := false, srWait := false }
  inp := {
    storing := false, xs := [], ys := [], pair := 0, hpd := false, pulse := false, dpcd := [], segment := 0, offset := 0, reply := []
    roleTold := false }
  pends := []
  commits := []
  ptp := {
    mac := 0, ip := 0, clk := 0, vlan := none, dscp := (0, 0), foreign := [], master := none, last := none, syncT2 := none, reqT3 := none, xch := none, seqSync := 0
    seqReq := 0, seqAnn := 0, good := 0, told := false, off := 0, sent := [] }
  wearo := []
  fleet := ⟨[], false, [], none, [], [], none⟩
  wire := []
  mgmt := []
  gov := {
    acct := 10 ^ 9, tDec := 0, eDec := 0, eFrame := 0, levels := 0, rs := 3, rth := 0, ready := 3, decided := false, vid := 8, pll := false
    divs := (30, 30) }
  adm := []
  zeroQ := []
  bar2Q := []
  aon := {
    fuses := ⟨false, 0, 0, 0, []⟩, loaded := ⟨false, 0, 0, 0, []⟩, fuseBad := false, table := [], journal := none, bootsel := 0
    held := false, optics := false, faultN := false, refLost := [], tap := ⟨.reset, .idcode, [], [], none⟩, dbg := [], keySlot := 0, pprUsed := 0
    flash := [] }
  acc := ⟨[], [], [], 0, [], []⟩
  free := 0

/-! ### How a command can stop -/

/-- Why a command stops the model. -/
inductive Fault where
  /-- A command of a host port that does not exist in the strapped mode: raised by every command that names one (R530). Safe: no such command can
  reach the part. -/
  | absentPort
deriving DecidableEq, Repr

/-- Why a command has no meaning. -/
inductive Refusal where
  /-- A command that has not been given its meaning: raised by the arms of exec alone. Safe: a run stops there. -/
  | notModelled (mnemonic : String)
deriving DecidableEq, Repr

end Sys2Proof.Machine
end

