-- ==== Sys2Proof/Machine/Mem.lean ====
section
/-! DEFINITION. The protection code of R501 to R503 and one protected memory: reading a codeword, writing bytes of it.
The address space of a `Mem` is that of its user: byte `a` lies in codeword `a / 8`. -/

namespace Sys2Proof.Machine

/-! ### The code over GF(2^7) -/

/-- Multiplication by α, a root of x^7 + x^3 + 1 (R502). -/
def gfAlpha (a : Nat) : Nat :=
  let d := 2 * a
  if d / 128 % 2 = 1 then (d % 128) ^^^ 9 else d % 128

/-- Product of two elements of GF(2^7), by the bits of the second from the top. -/
def gfMulAux (a b : Nat) : Nat → Nat
  | 0 => 0
  | k + 1 =>
    -- bits 6 down to 0 of b, the bit of this step being 6 - k counted from the other end
    let acc := gfMulAux a b k
    (gfAlpha acc) ^^^ (if b / 2 ^ (6 - k) % 2 = 1 then a else 0)

/-- Product of two elements of GF(2^7). -/
def gfMul (a b : Nat) : Nat := gfMulAux a b 7

/-- α^e. -/
def gfPow : Nat → Nat
  | 0 => 1
  | e + 1 => gfAlpha (gfPow e)

/-- The inverse, a^126, by squaring: 126 = 64 + 32 + 16 + 8 + 4 + 2. -/
def gfInv (a : Nat) : Nat :=
  let a2 := gfMul a a
  let a4 := gfMul a2 a2
  let a8 := gfMul a4 a4
  let a16 := gfMul a8 a8
  let a32 := gfMul a16 a16
  let a64 := gfMul a32 a32
  gfMul (gfMul (gfMul a2 a4) (gfMul a8 a16)) (gfMul a32 a64)

/-- The e below 127 with α^e = a, for a nonzero a. -/
def gfLog (a : Nat) : Nat := ((List.range 127).find? (fun e => gfPow e = a)).getD 127

/-- The generator g(x): the product of the minimal polynomials x^7 + x^3 + 1 of α and x^7 + x^3 + x^2 + x + 1 of α^3 (R502). -/
def bchGen : Nat :=
  let m1 := 0x89
  let m3 := 0x8f
  (List.range 8).foldl (fun acc i => if bitOf m3 i then acc ^^^ (m1 * 2 ^ i) else acc) 0

/-- Remainder of a polynomial of degree at most 78 by g(x). -/
def bchRemAux (p : Nat) : Nat → Nat
  | 0 => p
  | k + 1 =>
    let q := if bitOf p (14 + k) then p ^^^ (bchGen * 2 ^ k) else p
    bchRemAux q k

/-- The 14 BCH check bits of 64 data bits and the mark bit (R502). -/
def bchBits (data : BitVec 64) (mark : Bool) : Nat :=
  bchRemAux ((data.toNat + b2n mark * 2 ^ 64) * 2 ^ 14) 65

/-- XOR of the low `n` bits. -/
def parityOf (v : Nat) : Nat → Bool
  | 0 => false
  | n + 1 => xor (bitOf v n) (parityOf v n)

/-- The codeword of R501: data, mark, check bits and overall parity. -/
def cwEncode (data : BitVec 64) (mark : Bool) : BitVec 80 :=
  let w := data.toNat + b2n mark * 2 ^ 64 + bchBits data mark * 2 ^ 65
  BitVec.ofNat 80 (w + b2n (parityOf w 79) * 2 ^ 79)

/-- The word bit that polynomial position e maps to (R502). -/
def cwBitOfPos (e : Nat) : Nat := if e < 14 then 65 + e else if e < 78 then e - 14 else 64

/-- r(α^p) for p = 1 or 3, by Horner from position 78 down; `k` counts the positions still to add. -/
def syndromeAux (w p : Nat) : Nat → Nat → Nat
  | 0, acc => acc
  | k + 1, acc =>
    let up := if p = 1 then gfAlpha acc else gfAlpha (gfAlpha (gfAlpha acc))
    syndromeAux w p k (up ^^^ b2n (bitOf w (cwBitOfPos k)))

/-- r(α^p) of a received word. -/
def syndrome (r : BitVec 80) (p : Nat) : Nat := syndromeAux r.toNat p 79 0

/-- What a codeword read finds (R503). -/
inductive CwKind where
  | clean
  | ce1
  | ce2
  | ue
deriving DecidableEq, Repr

/-- The outcome of a codeword read: its kind, the data delivered, and the mark after correction. -/
structure CwRead where
  kind : CwKind
  data : BitVec 64
  marked : Nat
deriving DecidableEq, Repr

/-- How far the codeword is delivered poisoned (R504): 0 not, 2 by an uncorrectable word or a marked read. (1 stands for the
poison of an invalid input alone, which sets no EVT.POISON: R336, R524.) -/
def CwRead.psn (r : CwRead) : Nat := if r.kind = .ue ∨ r.marked ≠ 0 then 2 else 0

/-- The word bits that R503 finds flipped; none where the word is uncorrectable. -/
def cwErrors (r : BitVec 80) : Option (List Nat) :=
  let s1 := syndrome r 1
  let s3 := syndrome r 3
  let p := parityOf r.toNat 80
  let c3 := gfMul s1 (gfMul s1 s1)
  if s1 = 0 then
    (if s3 = 0 then (if p then some [79] else some []) else none)
  else if s3 = c3 then
    let e := gfLog s1
    if e ≤ 78 then (if p then some [cwBitOfPos e] else some [cwBitOfPos e, 79]) else none
  else if p then none
  else
    let q := gfMul (s3 ^^^ c3) (gfInv s1)
    let roots := (List.range 127).filter (fun e =>
      let x := gfInv (gfPow e)
      (1 ^^^ gfMul s1 x ^^^ gfMul q (gfMul x x)) = 0)
    match roots with
    | [e1, e2] => if e1 ≤ 78 ∧ e2 ≤ 78 then some [cwBitOfPos e1, cwBitOfPos e2] else none
    | _ => none

/-- Decoding of a received word (R503, R504). -/
def cwDecode (r : BitVec 80) : CwRead :=
  match cwErrors r with
  | none => ⟨.ue, BitVec.ofNat 64 r.toNat, b2n (bitOf r.toNat 64)⟩
  | some bits =>
    let w := bits.foldl (fun acc b => acc ^^^ 2 ^ b) r.toNat
    ⟨if bits.length = 0 then .clean else if bits.length = 1 then .ce1 else .ce2, BitVec.ofNat 64 w, b2n (bitOf w 64)⟩

/-! ### One protected memory -/

/-- The data byte at an address, as written. -/
def Mem.byte (m : Mem) (a : Nat) : Byte := smGet 0 m.bytes a

/-- The eight data bytes of a codeword, as written. -/
def Mem.word (m : Mem) (cw : Nat) : BitVec 64 :=
  BitVec.ofNat 64 (fromLe ((List.range 8).map (fun i => m.byte (8 * cw + i))))

/-- The mark bit M written with a codeword. -/
def Mem.mark (m : Mem) (cw : Nat) : Nat := smGet 0 m.marks cw

/-- The codeword as it stands in the cells: as written, with the bits that have since flipped. -/
def Mem.stored (m : Mem) (cw : Nat) : BitVec 80 := cwEncode (m.word cw) (decide (m.mark cw ≠ 0)) ^^^ smGet 0 m.flips cw

/-- A read of a codeword (R503). A word with no flipped bit is clean. -/
def Mem.read (m : Mem) (cw : Nat) : CwRead :=
  if smGet 0 m.flips cw = 0 then ⟨.clean, m.word cw, m.mark cw⟩ else
    let r := cwDecode (m.stored cw)
    ⟨r.kind, r.data, r.marked⟩

/-- The data bits that a read of a codeword delivers: those received, without correction, where it is delivered poisoned (R504). -/
def Mem.carried (m : Mem) (cw : Nat) : BitVec 64 :=
  if (m.read cw).psn = 0 then (m.read cw).data else m.word cw ^^^ (smGet 0 m.flips cw).setWidth 64

/-- The byte an access delivers, and how far its codeword is delivered poisoned (R504). -/
def Mem.fetch (m : Mem) (a : Nat) : Byte × Nat :=
  (BitVec.ofNat 8 ((m.carried (a / 8)).toNat / 2 ^ (8 * (a % 8))), (m.read (a / 8)).psn)

/-- `n` bytes delivered from an address. -/
def Mem.fetchN (m : Mem) (a n : Nat) : List (Byte × Nat) := (List.range n).map (fun i => m.fetch (a + i))

/-- A write of a whole codeword (R505): fresh check bits, M as given. -/
def Mem.writeCw (m : Mem) (cw : Nat) (data : BitVec 64) (mark : Nat) : Mem where
  bytes := smPutAll 0 m.bytes ((List.range 8).map (fun i => (8 * cw + i, BitVec.ofNat 8 (data.toNat / 2 ^ (8 * i)))))
  marks := smPut 0 m.marks cw (min 1 mark)
  flips := smPut 0 m.flips cw 0

/-- A write of some bytes of one codeword (R92, R505): `ws` are the byte positions and values, `poison` how far any byte
written comes from poisoned data. A write of all eight bytes clears the mark unless it is poisoned; a partial write merges,
and carries on a mark or an uncorrectable word. -/
def Mem.merge (m : Mem) (cw : Nat) (ws : List (Nat × Byte)) (poison : Nat) : Mem :=
  let full := (List.range 8).all (fun i => ws.any (fun p => p.1 = i))
  let old := m.read cw
  let base := if full then 0 else (m.carried cw).toNat
  let put (v : Nat) (p : Nat × Byte) : Nat := v - v / 2 ^ (8 * p.1) % 256 * 2 ^ (8 * p.1) + p.2.toNat * 2 ^ (8 * p.1)
  m.writeCw cw (BitVec.ofNat 64 (ws.foldl put base)) (max poison (if full then 0 else old.psn))

/-- Byte writes of one access grouped by codeword, in order. -/
def groupByCw : List (Nat × Byte × Nat) → List (Nat × List (Nat × Byte) × Nat)
  | [] => []
  | (a, b, p) :: t =>
    match groupByCw t with
    | (cw, ws, q) :: r =>
      if cw = a / 8 then (cw, (a % 8, b) :: ws, max p q) :: r else (a / 8, [(a % 8, b)], p) :: (cw, ws, q) :: r
    | [] => [(a / 8, [(a % 8, b)], p)]

/-- The byte writes of one access, in ascending address order; a codeword is written with M = 1 where any byte written
into it is poisoned (R506). -/
def Mem.write (m : Mem) (ws : List (Nat × Byte × Nat)) : Mem :=
  (groupByCw ws).foldl (fun acc g => acc.merge g.1 g.2.1 g.2.2) m

/-- The memory of unlisted bytes: zero data with valid check bits, no mark (R100). -/
def Mem.zero : Mem := ⟨[], [], []⟩

/-- The canonical form of a memory: bytes in R502's range of keys, marks and flips canonical. -/
def Mem.wf (m : Mem) : Bool := smWf (0 : Byte) m.bytes && smWf (0 : Nat) m.marks && smWf (0 : BitVec 80) m.flips

/-- Some codeword of a memory carries a mark or a flipped bit: only such a codeword's read counts anything. -/
def Mem.tainted (m : Mem) (cw : Nat) : Bool := decide (m.mark cw ≠ 0) || decide (smGet 0 m.flips cw ≠ 0)

end Sys2Proof.Machine
end

