-- ==== Sys2Proof/Machine/RegMap.lean ====
section
/-! DEFINITION. The register map of spec/17_register_map.md (R635 to R657): one row per register or register array with
its address, its reset value and the bits of each access type, read from the register tables of the chapters; and one
named address per register. -/

namespace Sys2Proof.Machine

/-- One row of the register tables: a register, or an array of `n1` groups of `n2` words each.
`rw`, `w1c`, `w1s`, `wo` and `ro` are the bits of each access type (R13); every other bit is reserved (R14).
`shadow` are the RW bits that are shadowed (R644 and the Shadowed column). -/
structure RegRow where
  base : Nat
  stride : Nat
  n1 : Nat
  stride2 : Nat
  n2 : Nat
  reset : Nat
  rw : Nat
  w1c : Nat
  w1s : Nat
  wo : Nat
  ro : Nat
  shadow : Nat
  perPort : Bool
deriving DecidableEq, Repr

/-- The address is one of the words of the row. -/
def RegRow.holds (r : RegRow) (a : Nat) : Bool :=
  decide (r.base ≤ a) &&
    (let o := a - r.base
     let q := o % r.stride
     decide (o / r.stride < r.n1) && decide (q / r.stride2 < r.n2) && decide (q % r.stride2 = 0))

/-- Rows of the Sys block. -/
def regRowsSys : List RegRow := [
  ⟨0x0, 4, 1, 4, 1, 0x0, 0x0, 0x0, 0x0, 0x0, 0xffffffff, 0x0, false⟩, -- SYS_ID (R8)
  ⟨0x100, 4, 16, 4, 1, 0x0, 0x0, 0x0, 0x0, 0x0, 0x7f7f7f7f, 0x0, false⟩, -- SYS_SPAR_MAPk (R53)
  ⟨0x140, 4, 1, 4, 1, 0x0, 0x0, 0x0, 0x0, 0x0, 0x7f07, 0x0, false⟩, -- SYS_SPAR_SPARES (R55)
  ⟨0x400, 32, 8, 4, 1, 0x0, 0x3, 0x0, 0x0, 0x0, 0x0, 0x3, false⟩, -- SYS_WATCHn_CTL (R158)
  ⟨0x404, 32, 8, 4, 1, 0x0, 0xffffffff, 0x0, 0x0, 0x0, 0x0, 0xffffffff, false⟩, -- SYS_WATCHn_LIM (R158)
  ⟨0x408, 32, 8, 4, 1, 0x0, 0x0, 0x0, 0x0, 0x0, 0xffffffff, 0x0, false⟩, -- SYS_WATCHn_N_LO (R158)
  ⟨0x40c, 32, 8, 4, 1, 0x0, 0x0, 0x0, 0x0, 0x0, 0xffff, 0x0, false⟩, -- SYS_WATCHn_N_HI (R158)
  ⟨0x410, 32, 8, 4, 1, 0x0, 0x0, 0x0, 0x0, 0x0, 0xffffffff, 0x0, false⟩, -- SYS_WATCHn_SAT (R158)
  ⟨0x414, 32, 8, 4, 1, 0x0, 0x0, 0x0, 0x0, 0x0, 0xffffffff, 0x0, false⟩, -- SYS_WATCHn_UFZ (R158)
  ⟨0x418, 32, 8, 4, 1, 0x0, 0x0, 0x0, 0x0, 0x0, 0xffff, 0x0, false⟩, -- SYS_WATCHn_AMAX (R158)
  ⟨0x600, 4, 1, 4, 1, 0x0, 0x0, 0x0, 0xf, 0x0, 0xf0700, 0x0, false⟩, -- SYS_PAUSE_CTL (R353)
  ⟨0x604, 4, 1, 4, 1, 0x0, 0x0, 0x0, 0x0, 0x0, 0xffffffff, 0x0, false⟩, -- SYS_PAUSE_F_LO (R353)
  ⟨0x608, 4, 1, 4, 1, 0x0, 0x0, 0x0, 0x0, 0x0, 0xffff, 0x0, false⟩, -- SYS_PAUSE_F_HI (R353)
  ⟨0x60c, 4, 1, 4, 1, 0x0, 0x7fffff, 0x0, 0x0, 0x0, 0x0, 0x0, false⟩, -- SYS_SAVE_BASE (R353)
  ⟨0x610, 4, 1, 4, 1, 0x0, 0x0, 0x0, 0x0, 0x0, 0x7fffff, 0x0, false⟩, -- SYS_SAVE_LEN (R353)
  ⟨0x700, 4, 1, 4, 1, 0x0, 0x0, 0x0, 0xf1f, 0x0, 0x0, 0x0, false⟩, -- SYS_DRST (R570)
  ⟨0x704, 4, 1, 4, 1, 0x0, 0x0, 0x0, 0x0, 0x0, 0x3fff, 0x0, false⟩, -- SYS_XING_WEDGED (R570)
  ⟨0x740, 4, 14, 4, 1, 0x0, 0x0, 0x0, 0x0, 0x0, 0xffffffff, 0x0, false⟩] -- SYS_XINGi_CNT (R570)

/-- Rows of the Host block. -/
def regRowsHost : List RegRow := [
  ⟨0x100000, 4, 1, 4, 1, 0x0, 0x0, 0x0, 0x0, 0x0, 0xf0333, 0x0, true⟩, -- HOST_PORT (R539)
  ⟨0x100004, 4, 1, 4, 1, 0x0, 0x3, 0x0, 0x0, 0x0, 0x0, 0x3, true⟩, -- HOST_OWNER (R539)
  ⟨0x100008, 4, 1, 4, 1, 0x0, 0x0, 0xff, 0x0, 0x0, 0x0, 0x0, true⟩, -- HOST_ERR (R539)
  ⟨0x10000c, 4, 1, 4, 1, 0x0, 0x0, 0x0, 0x0, 0x0, 0xffff, 0x0, true⟩, -- HOST_TIMEOUT_CNT (R539)
  ⟨0x100010, 4, 1, 4, 1, 0x0, 0x7fffff, 0x0, 0x0, 0x0, 0x0, 0x0, true⟩, -- HOST_WIN (R539)
  ⟨0x100014, 4, 1, 4, 1, 0x0, 0x0, 0x0, 0x0, 0x0, 0xffffffff, 0x0, true⟩, -- HOST_FLUSH (R539)
  ⟨0x100020, 4, 1, 4, 1, 0x0, 0xffffffc0, 0x0, 0x0, 0x0, 0x0, 0x0, true⟩, -- HOST_EQ_BASE_LO (R539)
  ⟨0x100024, 4, 1, 4, 1, 0x0, 0xffffffff, 0x0, 0x0, 0x0, 0x0, 0x0, true⟩, -- HOST_EQ_BASE_HI (R539)
  ⟨0x100028, 4, 1, 4, 1, 0x0, 0xffff1, 0x0, 0x0, 0x0, 0x0, 0x0, true⟩, -- HOST_EQ_CTL (R539)
  ⟨0x10002c, 4, 1, 4, 1, 0x10000, 0x0, 0x0, 0x0, 0x0, 0x1ffff, 0x0, true⟩, -- HOST_EQ_TAIL (R539)
  ⟨0x100030, 4, 1, 4, 1, 0x0, 0xffff, 0x0, 0x0, 0x0, 0x0, 0x0, true⟩, -- HOST_EQ_HEAD (R539)
  ⟨0x100034, 4, 1, 4, 1, 0x0, 0x0, 0x0, 0x0, 0x0, 0xffffffff, 0x0, true⟩, -- HOST_EQ_DROP (R539)
  ⟨0x100040, 4, 4, 4, 1, 0x0, 0xffffffff, 0x0, 0x0, 0x0, 0x0, 0x0, true⟩, -- HOST_CMD_ARGn (R539)
  ⟨0x100050, 4, 1, 4, 1, 0x0, 0x0, 0x0, 0x0, 0xff, 0x0, 0x0, true⟩, -- HOST_CMD_GO (R539)
  ⟨0x100054, 4, 1, 4, 1, 0x0, 0x0, 0x0, 0x0, 0x0, 0xff01, 0x0, true⟩, -- HOST_CMD_STAT (R539)
  ⟨0x100058, 4, 1, 4, 1, 0x0, 0x0, 0x0, 0x0, 0x0, 0xffffffff, 0x0, true⟩, -- HOST_CMD_RES (R539)
  ⟨0x100060, 4, 1, 4, 1, 0x0, 0x0, 0x0, 0x0, 0xf, 0x0, 0x0, true⟩, -- HOST_FENCE_INC (R539)
  ⟨0x100080, 4, 16, 4, 1, 0x0, 0x0, 0x0, 0x0, 0x0, 0xffffffff, 0x0, true⟩, -- HOST_FENCEk (R539)
  ⟨0x100100, 16, 4, 4, 1, 0x0, 0x7fffff, 0x0, 0x0, 0x0, 0x0, 0x7fffff, false⟩, -- HOST_PARTp_BASE (R540)
  ⟨0x100104, 4, 1, 4, 1, 0x600000, 0x7fffff, 0x0, 0x0, 0x0, 0x0, 0x7fffff, false⟩, -- HOST_PARTp_SIZE, p = 0 (R540)
  ⟨0x100114, 16, 3, 4, 1, 0x0, 0x7fffff, 0x0, 0x0, 0x0, 0x0, 0x7fffff, false⟩, -- HOST_PARTp_SIZE, p = 1 to 3 (R540)
  ⟨0x100108, 4, 1, 4, 1, 0x400, 0x7ff, 0x0, 0x0, 0x0, 0x0, 0x7ff, false⟩, -- HOST_PARTp_QUOTA, p = 0 (R540)
  ⟨0x100118, 16, 3, 4, 1, 0x0, 0x7ff, 0x0, 0x0, 0x0, 0x0, 0x7ff, false⟩, -- HOST_PARTp_QUOTA, p = 1 to 3 (R540)
  ⟨0x100200, 4, 1, 4, 1, 0x0, 0x1, 0x0, 0x0, 0x0, 0x0, 0x0, true⟩, -- HOST_VIEW (R644)
  ⟨0x101000, 16, 1024, 4, 1, 0x0, 0x0, 0x0, 0x0, 0x0, 0xfffff0f7, 0x0, false⟩, -- CHAN_SLOTs_STAT (R544)
  ⟨0x101004, 16, 1024, 4, 1, 0x0, 0x0, 0x0, 0x0, 0x0, 0x3fff, 0x0, false⟩, -- CHAN_SLOTs_INFO (R544)
  ⟨0x101008, 16, 1024, 4, 1, 0x0, 0xffff, 0x0, 0x0, 0x0, 0x0, 0x0, false⟩, -- CHAN_SLOTs_TAIL (R544)
  ⟨0x10100c, 16, 1024, 4, 1, 0x0, 0x0, 0x0, 0x0, 0x0, 0xffff, 0x0, false⟩, -- CHAN_SLOTs_HEAD (R544)
  ⟨0x108000, 64, 8, 4, 1, 0x0, 0x7, 0x0, 0x10, 0x0, 0x0, 0x3, false⟩, -- CHAN_FITn_CTL (R318)
  ⟨0x108004, 64, 8, 4, 1, 0x0, 0xffffffff, 0x0, 0x0, 0x0, 0x0, 0x0, false⟩, -- CHAN_FITn_AVAIL (R318)
  ⟨0x108008, 64, 8, 4, 1, 0x0, 0x0, 0x0, 0x0, 0x0, 0xffffffff, 0x0, false⟩, -- CHAN_FITn_STEP (R318)
  ⟨0x10800c, 64, 8, 4, 1, 0x0, 0x0, 0x0, 0x0, 0x0, 0xffffffff, 0x0, false⟩, -- CHAN_FITn_DEFER (R318)
  ⟨0x108010, 64, 8, 4, 1, 0x0, 0x7fffff, 0x0, 0x0, 0x0, 0x0, 0x7fffff, false⟩, -- CHAN_FITn_PBASE (R318)
  ⟨0x108014, 64, 8, 4, 1, 0x0, 0x7fffff, 0x0, 0x0, 0x0, 0x0, 0x7fffff, false⟩, -- CHAN_FITn_PSIZE (R318)
  ⟨0x108018, 64, 8, 4, 1, 0x0, 0x0, 0x0, 0x0, 0x0, 0xffff0007, 0x0, false⟩, -- CHAN_FITn_PSTAT (R318)
  ⟨0x10801c, 64, 8, 4, 1, 0x0, 0xffff, 0x0, 0x0, 0x0, 0x0, 0xffff, false⟩, -- CHAN_FITn_PERIOD (R318)
  ⟨0x108020, 64, 8, 4, 1, 0x0, 0xffffffff, 0x0, 0x0, 0x0, 0x0, 0xffffffff, false⟩, -- CHAN_FITn_F0_LO (R318)
  ⟨0x108024, 64, 8, 4, 1, 0x0, 0xffff, 0x0, 0x0, 0x0, 0x0, 0xffff, false⟩, -- CHAN_FITn_F0_HI (R318)
  ⟨0x108028, 64, 8, 4, 1, 0x0, 0x7fffff, 0x0, 0x0, 0x0, 0x0, 0x0, false⟩] -- CHAN_FITn_CKBASE (R318)

/-- Rows of the Rast block. -/
def regRowsRast : List RegRow := [
  ⟨0x200000, 4, 1, 4, 1, 0x0, 0x0, 0x0, 0x0, 0x0, 0xffffffff, 0x0, false⟩, -- RAST_FRAME_LO (R418)
  ⟨0x200004, 4, 1, 4, 1, 0x0, 0x0, 0x0, 0x0, 0x0, 0xffff, 0x0, false⟩, -- RAST_FRAME_HI (R418)
  ⟨0x200008, 4, 1, 4, 1, 0x0, 0x0, 0x0, 0x0, 0x0, 0x71fff, 0x0, false⟩, -- RAST_POS (R418)
  ⟨0x200010, 4, 1, 4, 1, 0x20800, 0x400fff00, 0x0, 0x0, 0x1, 0x0, 0x400fff00, false⟩, -- RAST_COMMIT (R398)
  ⟨0x200014, 4, 1, 4, 1, 0x0, 0x0, 0x0, 0x0, 0x0, 0xffffffff, 0x0, true⟩, -- RAST_COMMIT_LATE_LO (R398)
  ⟨0x200018, 4, 1, 4, 1, 0x0, 0x0, 0x0, 0x0, 0x0, 0xffffffff, 0x0, true⟩, -- RAST_COMMIT_LATE_HI (R398)
  ⟨0x200020, 4, 1, 4, 1, 0x44, 0x37f7, 0x0, 0x0, 0x0, 0x0, 0x37f7, false⟩, -- RAST_SYNC_CTL (R374)
  ⟨0x200024, 4, 1, 4, 1, 0x0, 0xffffffff, 0x0, 0x0, 0x0, 0x0, 0xffffffff, false⟩, -- RAST_SYNC_OFS (R374)
  ⟨0x200028, 4, 1, 4, 1, 0x7800c8, 0xffffffff, 0x0, 0x0, 0x0, 0x0, 0xffffffff, false⟩, -- RAST_SYNC_WIN (R374)
  ⟨0x20002c, 4, 1, 4, 1, 0x40, 0x0, 0x0, 0x0, 0x0, 0xffffff73, 0x0, false⟩, -- RAST_SYNC_STAT (R374)
  ⟨0x200030, 4, 1, 4, 1, 0x3c, 0xffffffff, 0x0, 0x0, 0x0, 0x0, 0xffffffff, false⟩, -- RAST_SYNC_NUM (R374)
  ⟨0x200034, 4, 1, 4, 1, 0x1, 0xffffffff, 0x0, 0x0, 0x0, 0x0, 0xffffffff, false⟩, -- RAST_SYNC_DEN (R374)
  ⟨0x200040, 4, 1, 4, 1, 0x8980780, 0x3fff3fff, 0x0, 0x0, 0x0, 0x0, 0x3fff3fff, false⟩, -- RAST_MODE_H (R378)
  ⟨0x200044, 4, 1, 4, 1, 0x402c0058, 0x43ff3fff, 0x0, 0x0, 0x0, 0x0, 0x43ff3fff, false⟩, -- RAST_MODE_HS (R378)
  ⟨0x200048, 4, 1, 4, 1, 0x4650438, 0x1fff1fff, 0x0, 0x0, 0x0, 0x0, 0x1fff1fff, false⟩, -- RAST_MODE_V (R378)
  ⟨0x20004c, 4, 1, 4, 1, 0x40050004, 0x40ff1fff, 0x0, 0x0, 0x0, 0x0, 0x40ff1fff, false⟩, -- RAST_MODE_VS (R378)
  ⟨0x200050, 4, 1, 4, 1, 0x24414, 0x7fffff, 0x0, 0x0, 0x0, 0x0, 0x7fffff, false⟩, -- RAST_MODE_PCLK (R378)
  ⟨0x200054, 4, 1, 4, 1, 0x0, 0xfff07f7, 0x0, 0x0, 0x0, 0x0, 0xfff07f7, false⟩, -- RAST_OUT_CTL (R382)
  ⟨0x200058, 4, 1, 4, 1, 0x1004, 0x1f1f, 0x0, 0x0, 0x0, 0x0, 0x1f1f, false⟩, -- RAST_OUT_FMT (R382)
  ⟨0x20005c, 4, 1, 4, 1, 0x800c0, 0x1fff33ff, 0x0, 0x0, 0x0, 0x0, 0x1fff33ff, false⟩, -- RAST_DSC (R382)
  ⟨0x200060, 4, 1, 4, 1, 0x0, 0x1ffffffb, 0x0, 0x0, 0x0, 0x0, 0x1ffffffb, false⟩, -- RAST_ADAPT (R407)
  ⟨0x200064, 4, 1, 4, 1, 0x0, 0x1f, 0x0, 0x0, 0x0, 0x100, 0x1f, false⟩, -- RAST_SR_CTL (R413)
  ⟨0x200068, 4, 1, 4, 1, 0x0, 0x0, 0x0, 0x0, 0x0, 0xffffffff, 0x0, false⟩, -- RAST_FLIP_F_LO (R418)
  ⟨0x20006c, 4, 1, 4, 1, 0x0, 0x0, 0x0, 0x0, 0x0, 0x8000ffff, 0x0, false⟩, -- RAST_FLIP_F_HI (R418)
  ⟨0x200070, 4, 1, 4, 1, 0x0, 0x0, 0x0, 0x0, 0x0, 0xffffffff, 0x0, false⟩, -- RAST_FLIP_S_LO (R418)
  ⟨0x200074, 4, 1, 4, 1, 0x0, 0x0, 0x0, 0x0, 0x0, 0xffff, 0x0, false⟩, -- RAST_FLIP_S_HI (R418)
  ⟨0x200078, 4, 1, 4, 1, 0x0, 0x0, 0x0, 0x0, 0x0, 0xffffffff, 0x0, false⟩, -- RAST_FLIP_NS (R418)
  ⟨0x200080, 4, 1, 4, 1, 0x4380465, 0x1fff1fff, 0x0, 0x0, 0x0, 0x0, 0x1fff1fff, false⟩, -- RAST_VR_CFG (R39)
  ⟨0x200084, 4, 1, 4, 1, 0xea6003e8, 0xffffffff, 0x0, 0x0, 0x0, 0x0, 0xffffffff, false⟩, -- RAST_VR_RATE (R40)
  ⟨0x200088, 4, 1, 4, 1, 0x0, 0x0, 0x0, 0x0, 0x0, 0xffffffff, 0x0, false⟩, -- RAST_UNDR_F_LO (R412)
  ⟨0x20008c, 4, 1, 4, 1, 0x0, 0x0, 0x0, 0x0, 0x0, 0xffff, 0x0, false⟩, -- RAST_UNDR_F_HI (R412)
  ⟨0x200090, 4, 1, 4, 1, 0x0, 0x0, 0x0, 0x0, 0x0, 0xf1fff, 0x0, false⟩, -- RAST_UNDR_POS (R412)
  ⟨0x200094, 4, 1, 4, 1, 0x0, 0x0, 0x0, 0x0, 0x0, 0xff00ffff, 0x0, false⟩, -- RAST_UNDR_CNT (R412)
  ⟨0x200098, 4, 1, 4, 1, 0x0, 0x1f1, 0x0, 0x0, 0x0, 0x0, 0x1f1, false⟩, -- RAST_DIRTY_CTL (R385)
  ⟨0x200100, 16, 16, 4, 1, 0x0, 0x7, 0x0, 0x0, 0x10, 0x0, 0x7, false⟩, -- RAST_PAIRn_CTL (R195)
  ⟨0x200104, 16, 16, 4, 1, 0x0, 0x7fffff, 0x0, 0x0, 0x0, 0x0, 0x7fffff, false⟩, -- RAST_PAIRn_BASE (R195)
  ⟨0x200108, 16, 16, 4, 1, 0x0, 0x7fffff, 0x0, 0x0, 0x0, 0x0, 0x7fffff, false⟩, -- RAST_PAIRn_SIZE (R195)
  ⟨0x20010c, 16, 16, 4, 1, 0x0, 0x0, 0x0, 0x0, 0x0, 0xffff0003, 0x0, false⟩, -- RAST_PAIRn_STAT (R195)
  ⟨0x200200, 4, 16, 4, 1, 0x0, 0x0, 0x0, 0x0, 0x0, 0xffffffff, 0x0, false⟩, -- RAST_PAIRn_CNT (R195)
  ⟨0x200300, 4, 1, 4, 1, 0x26000, 0x3f3f1, 0x0, 0x0, 0x2, 0x0, 0x3f3f1, false⟩, -- RAST_IN_CTL (R393)
  ⟨0x200304, 4, 1, 4, 1, 0x4, 0xffffffff, 0x0, 0x0, 0x0, 0x0, 0xffffffff, false⟩, -- RAST_IN_FMT (R393)
  ⟨0x200308, 4, 1, 4, 1, 0x0, 0x0, 0x0, 0x0, 0x0, 0x7fff, 0x0, false⟩, -- RAST_IN_STAT (R393)
  ⟨0x20030c, 4, 1, 4, 1, 0x0, 0x0, 0x0, 0x0, 0x0, 0x1fff3fff, 0x0, false⟩, -- RAST_IN_MEAS (R393)
  ⟨0x200340, 4, 8, 4, 1, 0x0, 0x3fff3fff, 0x0, 0x0, 0x0, 0x0, 0x0, false⟩, -- RAST_IN_XSPLITk (R393)
  ⟨0x200360, 4, 8, 4, 1, 0x0, 0x1fff1fff, 0x0, 0x0, 0x0, 0x0, 0x0, false⟩, -- RAST_IN_YSPLITk (R393)
  ⟨0x200400, 8, 16, 4, 1, 0x0, 0x3fff3fff, 0x0, 0x0, 0x0, 0x0, 0x3fff3fff, false⟩, -- RAST_DIRTYn_X (R385)
  ⟨0x200404, 8, 16, 4, 1, 0x0, 0x1fff1fff, 0x0, 0x0, 0x0, 0x0, 0x1fff1fff, false⟩, -- RAST_DIRTYn_Y (R385)
  ⟨0x200500, 4, 128, 4, 1, 0x0, 0xffffffff, 0x0, 0x0, 0x0, 0x0, 0x0, false⟩] -- RAST_IN_EDIDw (R394)

/-- Rows of the Comp block. -/
def regRowsComp : List RegRow := [
  ⟨0x300000, 4, 1, 4, 1, 0xfac688, 0xffffff, 0x0, 0x0, 0x0, 0x0, 0xffffff, false⟩, -- COMP_ZORDER (R434)
  ⟨0x300004, 4, 1, 4, 1, 0x0, 0xffffffff, 0x0, 0x0, 0x0, 0x0, 0xffffffff, false⟩, -- COMP_BG0 (R434)
  ⟨0x300008, 4, 1, 4, 1, 0x0, 0xffff, 0x0, 0x0, 0x0, 0x0, 0xffff, false⟩, -- COMP_BG1 (R434)
  ⟨0x30000c, 4, 1, 4, 1, 0x0, 0x0, 0x0, 0x0, 0x0, 0xff, 0x0, false⟩, -- COMP_STAT (R434)
  ⟨0x300010, 4, 1, 4, 1, 0x400, 0xffff03, 0x0, 0x0, 0x0, 0x0, 0xffff03, false⟩, -- COMP_FRZ_CTL (R446)
  ⟨0x300014, 4, 1, 4, 1, 0x0, 0x0, 0x0, 0x0, 0x0, 0xffffffff, 0x0, false⟩, -- COMP_FRZ_SIG_LO (R446)
  ⟨0x300018, 4, 1, 4, 1, 0x0, 0x0, 0x0, 0x0, 0x0, 0xffffffff, 0x0, false⟩, -- COMP_FRZ_SIG_HI (R446)
  ⟨0x30001c, 4, 1, 4, 1, 0x0, 0x0, 0x0, 0x0, 0x0, 0xffff, 0x0, false⟩, -- COMP_FRZ_CNT (R446)
  ⟨0x300020, 4, 1, 4, 1, 0x0, 0xff, 0x0, 0x0, 0x0, 0x0, 0xff, false⟩, -- COMP_LCRC_CTL (R448)
  ⟨0x300024, 4, 6, 4, 1, 0x0, 0xffffffff, 0x0, 0x0, 0x0, 0x0, 0xffffffff, false⟩, -- COMP_HDRi (R438)
  ⟨0x300080, 8, 8, 4, 1, 0x0, 0xfff0fff, 0x0, 0x0, 0x0, 0x0, 0xfff0fff, false⟩, -- COMP_LCRC_Ak (R448)
  ⟨0x300084, 8, 8, 4, 1, 0x0, 0xfff0fff, 0x0, 0x0, 0x0, 0x0, 0xfff0fff, false⟩, -- COMP_LCRC_Bk (R448)
  ⟨0x3000c0, 4, 8, 4, 1, 0x0, 0x0, 0x0, 0x0, 0x0, 0xffffffff, 0x0, false⟩, -- COMP_LCRC_RESk (R448)
  ⟨0x300100, 64, 8, 4, 1, 0xffff00, 0xffff3f, 0x0, 0x0, 0x0, 0x0, 0xffff3f, false⟩, -- COMP_LAYERn_CTL (R427)
  ⟨0x300104, 64, 8, 4, 1, 0x0, 0xffff, 0x0, 0x0, 0x0, 0x0, 0xffff, false⟩, -- COMP_LAYERn_FMT (R427)
  ⟨0x300108, 64, 8, 4, 1, 0x0, 0x7fffff, 0x0, 0x0, 0x0, 0x0, 0x7fffff, false⟩, -- COMP_LAYERn_BASE (R427)
  ⟨0x30010c, 64, 8, 4, 1, 0x4380780, 0x1fff3fff, 0x0, 0x0, 0x0, 0x0, 0x1fff3fff, false⟩, -- COMP_LAYERn_SRC_SZ (R427)
  ⟨0x300110, 64, 8, 4, 1, 0x0, 0x1fff3fff, 0x0, 0x0, 0x0, 0x0, 0x1fff3fff, false⟩, -- COMP_LAYERn_DST_POS (R427)
  ⟨0x300114, 64, 8, 4, 1, 0x4380780, 0x1fff3fff, 0x0, 0x0, 0x0, 0x0, 0x1fff3fff, false⟩, -- COMP_LAYERn_DST_SZ (R427)
  ⟨0x300400, 32, 16, 4, 1, 0x0, 0x33, 0x0, 0x0, 0x0, 0x0, 0x33, false⟩, -- COMP_SIGn_CTL (R443)
  ⟨0x300404, 32, 16, 4, 1, 0x0, 0x3fff3fff, 0x0, 0x0, 0x0, 0x0, 0x3fff3fff, false⟩, -- COMP_SIGn_X (R443)
  ⟨0x300408, 32, 16, 4, 1, 0x0, 0x1fff1fff, 0x0, 0x0, 0x0, 0x0, 0x1fff1fff, false⟩, -- COMP_SIGn_Y (R443)
  ⟨0x30040c, 32, 16, 4, 1, 0x0, 0xffffffff, 0x0, 0x0, 0x0, 0x0, 0xffffffff, false⟩, -- COMP_SIGn_EXP_LO (R443)
  ⟨0x300410, 32, 16, 4, 1, 0x0, 0xffffffff, 0x0, 0x0, 0x0, 0x0, 0xffffffff, false⟩, -- COMP_SIGn_EXP_HI (R443)
  ⟨0x300414, 32, 16, 4, 1, 0x0, 0x0, 0x0, 0x0, 0x0, 0xffffffff, 0x0, false⟩, -- COMP_SIGn_RES_LO (R443)
  ⟨0x300418, 32, 16, 4, 1, 0x0, 0x0, 0x0, 0x0, 0x0, 0xffffffff, 0x0, false⟩, -- COMP_SIGn_RES_HI (R443)
  ⟨0x30041c, 32, 16, 4, 1, 0x0, 0x0, 0x0, 0x0, 0x0, 0xffff0003, 0x0, false⟩, -- COMP_SIGn_STAT (R443)
  ⟨0x301000, 2048, 4, 4, 384, 0x0, 0xffffffff, 0x0, 0x0, 0x0, 0x0, 0xffffffff, false⟩] -- scaler tables (R432)

/-- Rows of the Time block. -/
def regRowsTime : List RegRow := [
  ⟨0x400000, 4, 1, 4, 1, 0x0, 0xff1f, 0x0, 0x80000000, 0x0, 0x0, 0x0, false⟩, -- TIME_CTL (R451)
  ⟨0x400004, 4, 1, 4, 1, 0x0, 0x0, 0x0, 0x0, 0x0, 0xff7f, 0x0, false⟩, -- TIME_STAT (R451)
  ⟨0x400008, 4, 1, 4, 1, 0x0, 0x0, 0x0, 0x0, 0x0, 0xffffffff, 0x0, false⟩, -- TIME_NOW_S_LO (R451)
  ⟨0x40000c, 4, 1, 4, 1, 0x0, 0x0, 0x0, 0x0, 0x0, 0xffff, 0x0, false⟩, -- TIME_NOW_S_HI (R451)
  ⟨0x400010, 4, 1, 4, 1, 0x0, 0x0, 0x0, 0x0, 0x0, 0xffffffff, 0x0, false⟩, -- TIME_NOW_NS (R451)
  ⟨0x400014, 4, 1, 4, 1, 0x0, 0x0, 0x0, 0x0, 0x0, 0xffffffff, 0x0, false⟩, -- TIME_OFFSET (R451)
  ⟨0x400018, 4, 1, 4, 1, 0x3e8, 0xffffff, 0x0, 0x0, 0x0, 0x0, 0x0, false⟩, -- TIME_JUMP (R451)
  ⟨0x40001c, 4, 1, 4, 1, 0xf88080, 0xffffff, 0x0, 0x0, 0x0, 0x0, 0x0, false⟩, -- TIME_PRIO (R451)
  ⟨0x400020, 4, 1, 4, 1, 0x30001fd, 0xfffffff, 0x0, 0x0, 0x0, 0x0, 0x0, false⟩, -- TIME_INTV (R451)
  ⟨0x400024, 4, 1, 4, 1, 0x0, 0xffffffff, 0x0, 0x0, 0x0, 0x0, 0x0, false⟩, -- TIME_LAT_IN (R451)
  ⟨0x400028, 4, 1, 4, 1, 0x0, 0xffffffff, 0x0, 0x0, 0x0, 0x0, 0x0, false⟩, -- TIME_LAT_EG (R451)
  ⟨0x40002c, 4, 1, 4, 1, 0x0, 0xffffffff, 0x0, 0x0, 0x0, 0x0, 0x0, false⟩, -- TIME_ASYM (R451)
  ⟨0x400030, 4, 1, 4, 1, 0x64003c, 0xffffffff, 0x0, 0x0, 0x0, 0x0, 0x0, false⟩, -- TIME_HOLD (R451)
  ⟨0x400034, 4, 1, 4, 1, 0x0, 0x0, 0x0, 0x0, 0x0, 0xffffffff, 0x0, false⟩, -- TIME_PATH (R451)
  ⟨0x400038, 4, 1, 4, 1, 0x0, 0x0, 0x0, 0x0, 0x0, 0xffffffff, 0x0, false⟩, -- TIME_MASTER_LO (R451)
  ⟨0x40003c, 4, 1, 4, 1, 0x0, 0x0, 0x0, 0x0, 0x0, 0xffffffff, 0x0, false⟩, -- TIME_MASTER_HI (R451)
  ⟨0x400040, 4, 1, 4, 1, 0x0, 0x0, 0x0, 0x0, 0x0, 0xffff, 0x0, false⟩, -- TIME_EPOCH (R451)
  ⟨0x400044, 4, 1, 4, 1, 0x0, 0xfff0073, 0x0, 0x0, 0x0, 0x0, 0x0, false⟩, -- TIME_ETH_CTL (R453)
  ⟨0x400048, 4, 1, 4, 1, 0x0, 0xffffffff, 0x0, 0x0, 0x0, 0x0, 0x0, false⟩, -- TIME_MAC_LO (R453)
  ⟨0x40004c, 4, 1, 4, 1, 0x0, 0xffff, 0x0, 0x0, 0x0, 0x0, 0x0, false⟩, -- TIME_MAC_HI (R453)
  ⟨0x400050, 4, 1, 4, 1, 0x0, 0xffffffff, 0x0, 0x0, 0x0, 0x0, 0x0, false⟩, -- TIME_IPV4 (R453)
  ⟨0x400054, 4, 1, 4, 1, 0x2e2e, 0x3f3f, 0x0, 0x0, 0x0, 0x0, 0x0, false⟩, -- TIME_DSCP (R453)
  ⟨0x400058, 4, 1, 4, 1, 0x0, 0xffffffff, 0x0, 0x0, 0x0, 0x0, 0x0, false⟩, -- TIME_CLKID_LO (R453)
  ⟨0x40005c, 4, 1, 4, 1, 0x0, 0xffffffff, 0x0, 0x0, 0x0, 0x0, 0x0, false⟩, -- TIME_CLKID_HI (R453)
  ⟨0x400060, 4, 1, 4, 1, 0x0, 0x0, 0x0, 0x0, 0x0, 0x1, 0x0, false⟩] -- TIME_ETH_STAT (R453)

/-- Rows of the Link block. -/
def regRowsLink : List RegRow := [
  ⟨0x500000, 4, 1, 4, 1, 0x0, 0x1f1f1f, 0x0, 0x0, 0x0, 0x0, 0x1f1f1f, false⟩, -- LINK_FLEET_DIM (R480)
  ⟨0x500004, 4, 1, 4, 1, 0x0, 0x1f1f1f, 0x0, 0x0, 0x0, 0x0, 0x1f1f1f, false⟩, -- LINK_FLEET_ADDR (R480)
  ⟨0x500008, 4, 1, 4, 1, 0x0, 0x1f1f1f, 0x0, 0x0, 0x0, 0x0, 0x1f1f1f, false⟩, -- LINK_FLEET_ROOT (R480)
  ⟨0x50000c, 4, 1, 4, 1, 0x30, 0x33, 0x0, 0x0, 0x0, 0x0, 0x33, false⟩, -- LINK_FLEET_CTL (R480)
  ⟨0x500010, 4, 1, 4, 1, 0x0, 0xffffffff, 0x0, 0x0, 0x0, 0x0, 0xffffffff, false⟩, -- LINK_FLEET_ID (R480)
  ⟨0x500014, 4, 1, 4, 1, 0x0, 0x0, 0x0, 0x0, 0x0, 0x3f3f03, 0x0, false⟩, -- LINK_FLEET_STAT (R480)
  ⟨0x500018, 4, 1, 4, 1, 0xffff, 0x0, 0x0, 0x0, 0x0, 0xffffffff, 0x0, false⟩, -- LINK_MUSTER_STAT (R480)
  ⟨0x50001c, 4, 1, 4, 1, 0x0, 0x0, 0x0, 0x0, 0x0, 0xffffffff, 0x0, false⟩, -- LINK_RED_STAT (R480)
  ⟨0x500020, 4, 1, 4, 1, 0x0, 0x0, 0x0, 0x0, 0x1, 0x0, 0x0, false⟩, -- LINK_STAT_CLR (R480)
  ⟨0x500100, 64, 6, 4, 1, 0x100640, 0xfffff1, 0x0, 0x0, 0x0, 0x0, 0x0, false⟩, -- LINK_PORTp_CTL (R481)
  ⟨0x500104, 64, 6, 4, 1, 0xe400, 0x0, 0x0, 0x0, 0x0, 0xffff3, 0x0, false⟩, -- LINK_PORTp_STAT (R481)
  ⟨0x500108, 64, 6, 4, 1, 0x0, 0x0, 0x0, 0x0, 0x0, 0x77fff, 0x0, false⟩, -- LINK_PORTp_PARTNER (R481)
  ⟨0x50010c, 64, 6, 4, 1, 0x0, 0x0, 0x0, 0x0, 0x0, 0xffffffff, 0x0, false⟩, -- LINK_PORTp_DELAY (R481)
  ⟨0x500110, 64, 6, 4, 1, 0x0, 0xffffffff, 0x0, 0x0, 0x0, 0x0, 0x0, false⟩, -- LINK_PORTp_ASYM (R481)
  ⟨0x500114, 64, 6, 4, 1, 0x0, 0x0, 0x0, 0x0, 0x0, 0xffffffff, 0x0, false⟩, -- LINK_PORTp_RETRY (R481)
  ⟨0x500118, 64, 6, 4, 1, 0x0, 0x0, 0x0, 0x0, 0x0, 0xffffffff, 0x0, false⟩, -- LINK_PORTp_CRCERR (R481)
  ⟨0x50011c, 64, 6, 4, 1, 0x0, 0x0, 0x0, 0x0, 0x0, 0xffffffff, 0x0, false⟩, -- LINK_PORTp_FEC (R481)
  ⟨0x500120, 64, 6, 4, 1, 0x0, 0x0, 0x0, 0x0, 0x0, 0xffff, 0x0, false⟩, -- LINK_PORTp_DOWNS (R481)
  ⟨0x500800, 4, 1, 4, 1, 0x400, 0xf73, 0x0, 0x0, 0x0, 0x0, 0xf73, false⟩, -- LINK_LS_CTL (R348)
  ⟨0x500804, 4, 1, 4, 1, 0x0, 0x0, 0x0, 0x0, 0x0, 0xf03, 0x0, false⟩, -- LINK_LS_STAT (R348)
  ⟨0x500808, 4, 1, 4, 1, 0x0, 0x0, 0x0, 0x0, 0x0, 0xffffffff, 0x0, false⟩, -- LINK_LS_DIV_F_LO (R348)
  ⟨0x50080c, 4, 1, 4, 1, 0x0, 0x0, 0x0, 0x0, 0x0, 0xffff, 0x0, false⟩, -- LINK_LS_DIV_F_HI (R348)
  ⟨0x500810, 4, 1, 4, 1, 0x0, 0x0, 0x0, 0x0, 0x0, 0x3f1fff, 0x0, false⟩, -- LINK_LS_DIV_POS (R348)
  ⟨0x500814, 4, 1, 4, 1, 0x0, 0x0, 0x0, 0x0, 0x0, 0xffffffff, 0x0, false⟩, -- LINK_LS_DIV_MASK_LO (R348)
  ⟨0x500818, 4, 1, 4, 1, 0x0, 0x0, 0x0, 0x0, 0x0, 0xffffffff, 0x0, false⟩, -- LINK_LS_DIV_MASK_HI (R348)
  ⟨0x501000, 4, 256, 4, 1, 0x0, 0xffffffff, 0x0, 0x0, 0x0, 0x0, 0xffffffff, false⟩] -- LINK_REDk (R489)

/-- Rows of the Mem blocks HBM and LOFT. -/
def regRowsMem : List RegRow := [
  ⟨0x600000, 4, 1, 4, 1, 0x0, 0x0, 0x0, 0x0, 0x0, 0xffff01, 0x0, false⟩, -- HBM_STAT (R526)
  ⟨0x600004, 4, 1, 4, 1, 0x0, 0x0, 0x0, 0x0, 0x0, 0xffffffff, 0x0, false⟩, -- HBM_CE_CNT (R526)
  ⟨0x600008, 4, 1, 4, 1, 0x0, 0x0, 0x0, 0x0, 0x0, 0xffffffff, 0x0, false⟩, -- HBM_UE_CNT (R526)
  ⟨0x60000c, 4, 1, 4, 1, 0x0, 0x0, 0x0, 0x0, 0x0, 0xffffffff, 0x0, false⟩, -- HBM_MARK_CNT (R526)
  ⟨0x600010, 4, 1, 4, 1, 0x0, 0x0, 0x0, 0x0, 0x0, 0x7fffffff, 0x0, false⟩, -- HBM_LAST_CE (R526)
  ⟨0x600014, 4, 1, 4, 1, 0x0, 0x0, 0x0, 0x0, 0x0, 0xffffffff, 0x0, false⟩, -- HBM_LAST_UE (R526)
  ⟨0x600018, 4, 1, 4, 1, 0x0, 0x0, 0x0, 0x0, 0x0, 0xffffffff, 0x0, false⟩, -- HBM_LAST_UE_F_LO (R526)
  ⟨0x60001c, 4, 1, 4, 1, 0x0, 0x0, 0x0, 0x0, 0x0, 0xffff, 0x0, false⟩, -- HBM_LAST_UE_F_HI (R526)
  ⟨0x600020, 4, 1, 4, 1, 0x1001, 0x7f01, 0x0, 0x0, 0x0, 0x0, 0x0, false⟩, -- HBM_SCRUB_CTL (R526)
  ⟨0x600024, 4, 1, 4, 1, 0x0, 0x0, 0x0, 0x0, 0x0, 0x1fffffff, 0x0, false⟩, -- HBM_SCRUB_POS (R526)
  ⟨0x600028, 4, 1, 4, 1, 0x0, 0x0, 0x0, 0x0, 0x0, 0xffffffff, 0x0, false⟩, -- HBM_SCRUB_STAT (R526)
  ⟨0x60002c, 4, 1, 4, 1, 0x0, 0x0, 0x0, 0x0, 0x0, 0xffffffff, 0x0, false⟩, -- HBM_DEFER (R526)
  ⟨0x600030, 4, 1, 4, 1, 0x0, 0x0, 0x0, 0x0, 0x1f, 0x0, 0x0, false⟩, -- HBM_CNT_CLR (R526)
  ⟨0x700000, 4, 1, 4, 1, 0x0, 0x0, 0x0, 0x0, 0x0, 0xffffffff, 0x0, false⟩, -- LOFT_CE_CNT (R527)
  ⟨0x700004, 4, 1, 4, 1, 0x0, 0x0, 0x0, 0x0, 0x0, 0xffffffff, 0x0, false⟩, -- LOFT_UE_CNT (R527)
  ⟨0x700008, 4, 1, 4, 1, 0x0, 0x0, 0x0, 0x0, 0x0, 0xffffffff, 0x0, false⟩, -- LOFT_MARK_CNT (R527)
  ⟨0x70000c, 4, 1, 4, 1, 0x0, 0x0, 0x0, 0x0, 0x0, 0xffffffff, 0x0, false⟩, -- LOFT_LAST (R527)
  ⟨0x700010, 4, 1, 4, 1, 0x1000201, 0xffff0f01, 0x0, 0x0, 0x0, 0x0, 0x0, false⟩, -- LOFT_SCRUB_CTL (R527)
  ⟨0x700014, 4, 1, 4, 1, 0x0, 0x0, 0x0, 0x0, 0x0, 0xffffffff, 0x0, false⟩, -- LOFT_SCRUB_STAT (R527)
  ⟨0x700018, 4, 1, 4, 1, 0x0, 0x0, 0x0, 0x0, 0x1f, 0x0, 0x0, false⟩, -- LOFT_CNT_CLR (R527)
  ⟨0x700100, 4, 64, 4, 1, 0x0, 0xfff, 0x0, 0x0, 0x0, 0x0, 0xfff, false⟩, -- LOFT_LS_MAPn (R93)
  ⟨0x700200, 4, 64, 4, 1, 0x0, 0x0, 0x0, 0x0, 0x0, 0xffffffff, 0x0, false⟩] -- LOFT_BAYn_ERR (R527)

/-- Rows of the Spar block. -/
def regRowsSpar : List RegRow := [
  ⟨0x800000, 65536, 64, 4, 1, 0x0, 0x0, 0x0, 0x0, 0x0, 0x37f3f, 0x0, false⟩, -- SPAR_IDENT (R108)
  ⟨0x800040, 65536, 64, 4, 16, 0x0, 0xffffffff, 0x0, 0x0, 0x0, 0x0, 0xffffffff, false⟩, -- SPAR_BOUNDk (R74)
  ⟨0x800100, 65536, 64, 4, 1, 0x0, 0x0, 0x0, 0x0, 0x0, 0xffffffff, 0x0, false⟩, -- SPAR_SAT (R75)
  ⟨0x800104, 65536, 64, 4, 1, 0x0, 0x0, 0x0, 0x0, 0x0, 0xffffffff, 0x0, false⟩, -- SPAR_UFZ (R75)
  ⟨0x800108, 65536, 64, 4, 1, 0x0, 0x0, 0x0, 0x0, 0x0, 0xffffffff, 0x0, false⟩, -- SPAR_POI (R75)
  ⟨0x80010c, 65536, 64, 4, 1, 0x0, 0x0, 0x0, 0x0, 0x7, 0x0, 0x0, false⟩, -- SPAR_CNT_CLR (R75)
  ⟨0x800110, 65536, 64, 4, 1, 0x0, 0x0, 0x0, 0x0, 0x0, 0xffffffff, 0x0, false⟩, -- SPAR_CRUC_PERR (R75)
  ⟨0x800120, 65536, 64, 4, 1, 0x0, 0x0, 0x0, 0x0, 0x0, 0xffffffff, 0x0, false⟩, -- SPAR_GEN_LO (R655)
  ⟨0x800124, 65536, 64, 4, 1, 0x0, 0x0, 0x0, 0x0, 0x0, 0xff, 0x0, false⟩] -- SPAR_GEN_HI (R655)

/-- Rows of the Pwr block. -/
def regRowsPwr : List RegRow := [
  ⟨0xc00000, 4, 1, 4, 1, 0x1, 0x1331, 0x0, 0x0, 0x0, 0x0, 0x1331, false⟩, -- PWR_CTL (R589)
  ⟨0xc00004, 4, 1, 4, 1, 0xea60, 0xfffff, 0x0, 0x0, 0x0, 0x0, 0xfffff, false⟩, -- PWR_BUDGET (R589)
  ⟨0xc00008, 4, 1, 4, 1, 0x326403e8, 0xffffffff, 0x0, 0x0, 0x0, 0x0, 0xffffffff, false⟩, -- PWR_ACCT_CFG (R589)
  ⟨0xc00010, 4, 1, 4, 1, 0xea60, 0xfffff, 0x0, 0x0, 0x0, 0x0, 0x0, false⟩, -- PWR_EST0 (R589)
  ⟨0xc00014, 4, 1, 4, 1, 0xb3b0, 0xfffff, 0x0, 0x0, 0x0, 0x0, 0x0, false⟩, -- PWR_EST1 (R589)
  ⟨0xc00018, 4, 1, 4, 1, 0x80e8, 0xfffff, 0x0, 0x0, 0x0, 0x0, 0x0, false⟩, -- PWR_EST2 (R589)
  ⟨0xc0001c, 4, 1, 4, 1, 0x5208, 0xfffff, 0x0, 0x0, 0x0, 0x0, 0x0, false⟩, -- PWR_EST3 (R589)
  ⟨0xc00020, 4, 1, 4, 1, 0x35c5955, 0xfffffff, 0x0, 0x0, 0x0, 0x0, 0xfffffff, false⟩, -- PWR_THERM (R589)
  ⟨0xc00030, 4, 1, 4, 1, 0xf0003, 0x0, 0x0, 0x0, 0x0, 0x10f0f1f, 0x0, false⟩, -- PWR_STAT (R589)
  ⟨0xc00034, 4, 1, 4, 1, 0x0, 0x0, 0x0, 0x0, 0x0, 0x7f0fff, 0x0, false⟩, -- PWR_TMAX (R589)
  ⟨0xc00038, 4, 1, 4, 1, 0xf4240, 0x0, 0x0, 0x0, 0x0, 0xffffffff, 0x0, false⟩, -- PWR_ACCT (R589)
  ⟨0xc0003c, 4, 1, 4, 1, 0x0, 0x0, 0x0, 0x0, 0x0, 0xffffffff, 0x0, false⟩, -- PWR_CNT (R589)
  ⟨0xc00040, 4, 1, 4, 1, 0x0, 0x0, 0x0, 0x0, 0x0, 0xffffffff, 0x0, false⟩, -- PWR_ENERGY_LO (R589)
  ⟨0xc00044, 4, 1, 4, 1, 0x0, 0x0, 0x0, 0x0, 0x0, 0xffffffff, 0x0, false⟩, -- PWR_ENERGY_HI (R589)
  ⟨0xc00048, 4, 1, 4, 1, 0x0, 0x0, 0x0, 0x0, 0x3, 0x0, 0x0, false⟩, -- PWR_CNT_CLR (R589)
  ⟨0xc00080, 8, 7, 4, 1, 0x0, 0x0, 0x0, 0x0, 0x0, 0xffffffff, 0x0, false⟩, -- PWR_BLKk_E_LO (R589)
  ⟨0xc00084, 8, 7, 4, 1, 0x0, 0x0, 0x0, 0x0, 0x0, 0xffffffff, 0x0, false⟩, -- PWR_BLKk_E_HI (R589)
  ⟨0xc00100, 4, 76, 4, 1, 0x0, 0x0, 0x0, 0x0, 0x0, 0x1fff, 0x0, false⟩] -- PWR_SENSn (R589)

/-- Rows of the Safe block. -/
def regRowsSafe : List RegRow := [
  ⟨0xd00000, 4, 1, 4, 1, 0x0, 0x0, 0x0, 0x80000000, 0x0, 0x7f3ff, 0x0, false⟩, -- SAFE_BOOT_STAT (R605)
  ⟨0xd00004, 4, 1, 4, 1, 0x0, 0x0, 0x0, 0x3, 0x0, 0x0, 0x0, false⟩, -- SAFE_RST (R605)
  ⟨0xd00008, 4, 1, 4, 1, 0x0, 0x0, 0x0, 0x0, 0x0, 0xffff000f, 0x0, false⟩, -- SAFE_RST_CAUSE (R605)
  ⟨0xd0000c, 4, 1, 4, 1, 0x0, 0x0, 0x0, 0x0, 0x0, 0x7ff, 0x0, false⟩, -- SAFE_ENV (R605)
  ⟨0xd00010, 4, 1, 4, 1, 0x0, 0x0, 0x7ff, 0x0, 0x0, 0x0, 0x0, false⟩, -- SAFE_ENV_LATCH (R605)
  ⟨0xd00014, 4, 1, 4, 1, 0x0, 0x0, 0x0, 0x0, 0x0, 0x3ff, 0x0, false⟩, -- SAFE_LANES (R605)
  ⟨0xd00018, 4, 1, 4, 1, 0x0, 0x0, 0x0, 0x0, 0x0, 0x3ff7fff1, 0x0, false⟩, -- SAFE_FUSE (R605)
  ⟨0xd0001c, 4, 1, 4, 1, 0x0, 0x0, 0x0, 0x0, 0x0, 0xffffffff, 0x0, false⟩, -- SAFE_FUSE_DEF0 (R605)
  ⟨0xd00020, 4, 1, 4, 1, 0x0, 0x0, 0x0, 0x0, 0x0, 0xffffffff, 0x0, false⟩, -- SAFE_FUSE_DEF1 (R605)
  ⟨0xd00024, 4, 1, 4, 1, 0x0, 0x0, 0x0, 0x0, 0x0, 0xf, 0x0, false⟩, -- SAFE_FUSE_DEF2 (R605)
  ⟨0xd00028, 4, 1, 4, 1, 0x0, 0x1, 0x0, 0x0, 0x0, 0x2, 0x0, false⟩, -- SAFE_DBG (R605)
  ⟨0xd0002c, 4, 1, 4, 1, 0x0, 0x0, 0x0, 0x0, 0xff3f, 0x0, 0x0, false⟩, -- SAFE_CMD (R605)
  ⟨0xd00030, 4, 1, 4, 1, 0x0, 0x0, 0x0, 0x0, 0x0, 0xf1, 0x0, false⟩, -- SAFE_CMD_STAT (R605)
  ⟨0xd00100, 4, 1, 4, 1, 0x0, 0x0, 0x0, 0x0, 0x0, 0xffffffff, 0x0, false⟩, -- LOG_BB_WPTR (R609)
  ⟨0xd00104, 4, 1, 4, 1, 0x0, 0x0, 0x0, 0x0, 0x0, 0xffff, 0x0, false⟩, -- LOG_BB_LOST (R609)
  ⟨0xd00108, 4, 1, 4, 1, 0x0, 0x0, 0x0, 0x0, 0x0, 0xffffffff, 0x0, false⟩, -- LOG_HLOG_WPTR (R609)
  ⟨0xd0010c, 4, 1, 4, 1, 0x0, 0x0, 0x0, 0x0, 0x0, 0xffff, 0x0, false⟩, -- LOG_HLOG_LOST (R609)
  ⟨0xd00110, 4, 1, 4, 1, 0x0, 0xffffffc0, 0x0, 0x0, 0x0, 0x0, 0x0, false⟩, -- LOG_EXP_ADDR_LO (R609)
  ⟨0xd00114, 4, 1, 4, 1, 0x0, 0xffffffff, 0x0, 0x0, 0x0, 0x0, 0x0, false⟩, -- LOG_EXP_ADDR_HI (R609)
  ⟨0xd00118, 4, 1, 4, 1, 0x0, 0xfffff, 0x0, 0x0, 0x0, 0x0, 0x0, false⟩, -- LOG_EXP_IDX (R609)
  ⟨0xd0011c, 4, 1, 4, 1, 0x0, 0x1fffff, 0x0, 0x80000000, 0x0, 0x0, 0x0, false⟩, -- LOG_EXP_CTL (R609)
  ⟨0xd01000, 4, 1, 4, 1, 0x0, 0x1, 0x0, 0x0, 0x0, 0x0, 0x1, false⟩, -- LOG_RREC_CTL (R335)
  ⟨0xd01004, 4, 1, 4, 1, 0x0, 0x7fffff, 0x0, 0x0, 0x0, 0x0, 0x7fffff, false⟩, -- LOG_RREC_BASE (R335)
  ⟨0xd01008, 4, 1, 4, 1, 0x1, 0x7fffff, 0x0, 0x0, 0x0, 0x0, 0x7fffff, false⟩, -- LOG_RREC_SIZE (R335)
  ⟨0xd0100c, 4, 1, 4, 1, 0x0, 0x0, 0x0, 0x0, 0x0, 0xffffffff, 0x0, false⟩, -- LOG_RREC_WPTR (R335)
  ⟨0xd01010, 4, 1, 4, 1, 0x0, 0x1f, 0x0, 0x0, 0x0, 0x0, 0x1f, false⟩, -- LOG_RPLY_CTL (R335)
  ⟨0xd01014, 4, 1, 4, 1, 0x0, 0x7fffff, 0x0, 0x0, 0x0, 0x0, 0x7fffff, false⟩, -- LOG_RPLY_BASE (R335)
  ⟨0xd01018, 4, 1, 4, 1, 0x1, 0x7fffff, 0x0, 0x0, 0x0, 0x0, 0x7fffff, false⟩, -- LOG_RPLY_SIZE (R335)
  ⟨0xd0101c, 4, 1, 4, 1, 0x0, 0x0, 0x0, 0x0, 0x0, 0xffffffff, 0x0, false⟩, -- LOG_RPLY_RPTR (R335)
  ⟨0xd40000, 64, 4096, 4, 16, 0x0, 0x0, 0x0, 0x0, 0x0, 0xffffffff, 0x0, false⟩] -- LOG_BB_ENTRYi, 16 words (R609)

/-- Every register of the part (R646 to R657). -/
def regRows : List RegRow :=
  regRowsSys ++ regRowsHost ++ regRowsRast ++ regRowsComp ++ regRowsTime ++ regRowsLink ++ regRowsMem ++ regRowsSpar ++
    regRowsPwr ++ regRowsSafe

/-- The rows of the block that holds an address (R635). -/
def regBlock (a : Nat) : List RegRow :=
  if a < 0x100000 then regRowsSys else if a < 0x200000 then regRowsHost else if a < 0x300000 then regRowsRast
  else if a < 0x400000 then regRowsComp else if a < 0x500000 then regRowsTime else if a < 0x600000 then regRowsLink
  else if a < 0x800000 then regRowsMem else if a < 0xc00000 then regRowsSpar else if a < 0xd00000 then regRowsPwr
  else regRowsSafe

/-- The row of the register at an address; none for a reserved address (R636). -/
def regRow? (a : Nat) : Option RegRow := (regBlock a).find? (fun r => r.holds a)

/-- The bits of a register that read as a field of it (R13, R14): a WO field, and a reserved bit, reads 0. -/
def RegRow.reads (r : RegRow) : BitVec 32 := BitVec.ofNat 32 (r.rw ||| r.w1c ||| r.w1s ||| r.ro)

/-- The bits of the word at an address that are not reserved (R14). -/
def fieldBits (a : Nat) : BitVec 32 := match regRow? a with | some r => r.reads ||| BitVec.ofNat 32 r.wo | none => 0

/-- The reset value of the register word at an address (R646 to R657). A reserved address reads 0 (R636). -/
def regReset (a : Nat) : BitVec 32 :=
  match regRow? a with
  | some r => BitVec.ofNat 32 r.reset
  | none => 0

/-! ### Addresses -/

/-- SYS_ID (R8). -/
def A.sysId : Nat := 0x0
/-- SYS_SPAR_MAPk (R53). -/
def A.sysSparMap (n : Nat) : Nat := 0x100 + 4 * n
/-- SYS_SPAR_SPARES (R55). -/
def A.sysSparSpares : Nat := 0x140
/-- SYS_WATCHn_CTL (R158). -/
def A.sysWatchCtl (n : Nat) : Nat := 0x400 + 32 * n
/-- SYS_WATCHn_LIM (R158). -/
def A.sysWatchLim (n : Nat) : Nat := 0x404 + 32 * n
/-- SYS_WATCHn_N_LO (R158). -/
def A.sysWatchNLo (n : Nat) : Nat := 0x408 + 32 * n
/-- SYS_WATCHn_N_HI (R158). -/
def A.sysWatchNHi (n : Nat) : Nat := 0x40c + 32 * n
/-- SYS_WATCHn_SAT (R158). -/
def A.sysWatchSat (n : Nat) : Nat := 0x410 + 32 * n
/-- SYS_WATCHn_UFZ (R158). -/
def A.sysWatchUfz (n : Nat) : Nat := 0x414 + 32 * n
/-- SYS_WATCHn_AMAX (R158). -/
def A.sysWatchAmax (n : Nat) : Nat := 0x418 + 32 * n
/-- SYS_PAUSE_CTL (R353). -/
def A.sysPauseCtl : Nat := 0x600
/-- SYS_PAUSE_F_LO (R353). -/
def A.sysPauseFLo : Nat := 0x604
/-- SYS_PAUSE_F_HI (R353). -/
def A.sysPauseFHi : Nat := 0x608
/-- SYS_SAVE_BASE (R353). -/
def A.sysSaveBase : Nat := 0x60c
/-- SYS_SAVE_LEN (R353). -/
def A.sysSaveLen : Nat := 0x610
/-- SYS_DRST (R570). -/
def A.sysDrst : Nat := 0x700
/-- SYS_XING_WEDGED (R570). -/
def A.sysXingWedged : Nat := 0x704
/-- SYS_XINGi_CNT (R570). -/
def A.sysXingCnt (n : Nat) : Nat := 0x740 + 4 * n
/-- HOST_PORT (R539). -/
def A.hostPort : Nat := 0x100000
/-- HOST_OWNER (R539). -/
def A.hostOwner : Nat := 0x100004
/-- HOST_ERR (R539). -/
def A.hostErr : Nat := 0x100008
/-- HOST_TIMEOUT_CNT (R539). -/
def A.hostTimeoutCnt : Nat := 0x10000c
/-- HOST_WIN (R539). -/
def A.hostWin : Nat := 0x100010
/-- HOST_FLUSH (R539). -/
def A.hostFlush : Nat := 0x100014
/-- HOST_EQ_BASE_LO (R539). -/
def A.hostEqBaseLo : Nat := 0x100020
/-- HOST_EQ_BASE_HI (R539). -/
def A.hostEqBaseHi : Nat := 0x100024
/-- HOST_EQ_CTL (R539). -/
def A.hostEqCtl : Nat := 0x100028
/-- HOST_EQ_TAIL (R539). -/
def A.hostEqTail : Nat := 0x10002c
/-- HOST_EQ_HEAD (R539). -/
def A.hostEqHead : Nat := 0x100030
/-- HOST_EQ_DROP (R539). -/
def A.hostEqDrop : Nat := 0x100034
/-- HOST_CMD_ARGn (R539). -/
def A.hostCmdArg (n : Nat) : Nat := 0x100040 + 4 * n
/-- HOST_CMD_GO (R539). -/
def A.hostCmdGo : Nat := 0x100050
/-- HOST_CMD_STAT (R539). -/
def A.hostCmdStat : Nat := 0x100054
/-- HOST_CMD_RES (R539). -/
def A.hostCmdRes : Nat := 0x100058
/-- HOST_FENCE_INC (R539). -/
def A.hostFenceInc : Nat := 0x100060
/-- HOST_FENCEk (R539). -/
def A.hostFence (n : Nat) : Nat := 0x100080 + 4 * n
/-- HOST_PARTp_BASE (R540). -/
def A.hostPartBase (n : Nat) : Nat := 0x100100 + 16 * n
/-- HOST_PARTp_SIZE (R540). -/
def A.hostPartSize (n : Nat) : Nat := 0x100104 + 16 * n
/-- HOST_PARTp_QUOTA (R540). -/
def A.hostPartQuota (n : Nat) : Nat := 0x100108 + 16 * n
/-- HOST_VIEW (R644). -/
def A.hostView : Nat := 0x100200
/-- CHAN_SLOTs_STAT (R544). -/
def A.chanSlotStat (n : Nat) : Nat := 0x101000 + 16 * n
/-- CHAN_SLOTs_INFO (R544). -/
def A.chanSlotInfo (n : Nat) : Nat := 0x101004 + 16 * n
/-- CHAN_SLOTs_TAIL (R544). -/
def A.chanSlotTail (n : Nat) : Nat := 0x101008 + 16 * n
/-- CHAN_SLOTs_HEAD (R544). -/
def A.chanSlotHead (n : Nat) : Nat := 0x10100c + 16 * n
/-- CHAN_FITn_CTL (R318). -/
def A.chanFitCtl (n : Nat) : Nat := 0x108000 + 64 * n
/-- CHAN_FITn_AVAIL (R318). -/
def A.chanFitAvail (n : Nat) : Nat := 0x108004 + 64 * n
/-- CHAN_FITn_STEP (R318). -/
def A.chanFitStep (n : Nat) : Nat := 0x108008 + 64 * n
/-- CHAN_FITn_DEFER (R318). -/
def A.chanFitDefer (n : Nat) : Nat := 0x10800c + 64 * n
/-- CHAN_FITn_PBASE (R318). -/
def A.chanFitPbase (n : Nat) : Nat := 0x108010 + 64 * n
/-- CHAN_FITn_PSIZE (R318). -/
def A.chanFitPsize (n : Nat) : Nat := 0x108014 + 64 * n
/-- CHAN_FITn_PSTAT (R318). -/
def A.chanFitPstat (n : Nat) : Nat := 0x108018 + 64 * n
/-- CHAN_FITn_PERIOD (R318). -/
def A.chanFitPeriod (n : Nat) : Nat := 0x10801c + 64 * n
/-- CHAN_FITn_F0_LO (R318). -/
def A.chanFitF0Lo (n : Nat) : Nat := 0x108020 + 64 * n
/-- CHAN_FITn_F0_HI (R318). -/
def A.chanFitF0Hi (n : Nat) : Nat := 0x108024 + 64 * n
/-- CHAN_FITn_CKBASE (R318). -/
def A.chanFitCkbase (n : Nat) : Nat := 0x108028 + 64 * n
/-- RAST_FRAME_LO (R418). -/
def A.rastFrameLo : Nat := 0x200000
/-- RAST_FRAME_HI (R418). -/
def A.rastFrameHi : Nat := 0x200004
/-- RAST_POS (R418). -/
def A.rastPos : Nat := 0x200008
/-- RAST_COMMIT (R398). -/
def A.rastCommit : Nat := 0x200010
/-- RAST_COMMIT_LATE_LO (R398). -/
def A.rastCommitLateLo : Nat := 0x200014
/-- RAST_COMMIT_LATE_HI (R398). -/
def A.rastCommitLateHi : Nat := 0x200018
/-- RAST_SYNC_CTL (R374). -/
def A.rastSyncCtl : Nat := 0x200020
/-- RAST_SYNC_OFS (R374). -/
def A.rastSyncOfs : Nat := 0x200024
/-- RAST_SYNC_WIN (R374). -/
def A.rastSyncWin : Nat := 0x200028
/-- RAST_SYNC_STAT (R374). -/
def A.rastSyncStat : Nat := 0x20002c
/-- RAST_SYNC_NUM (R374). -/
def A.rastSyncNum : Nat := 0x200030
/-- RAST_SYNC_DEN (R374). -/
def A.rastSyncDen : Nat := 0x200034
/-- RAST_MODE_H (R378). -/
def A.rastModeH : Nat := 0x200040
/-- RAST_MODE_HS (R378). -/
def A.rastModeHs : Nat := 0x200044
/-- RAST_MODE_V (R378). -/
def A.rastModeV : Nat := 0x200048
/-- RAST_MODE_VS (R378). -/
def A.rastModeVs : Nat := 0x20004c
/-- RAST_MODE_PCLK (R378). -/
def A.rastModePclk : Nat := 0x200050
/-- RAST_OUT_CTL (R382). -/
def A.rastOutCtl : Nat := 0x200054
/-- RAST_OUT_FMT (R382). -/
def A.rastOutFmt : Nat := 0x200058
/-- RAST_DSC (R382). -/
def A.rastDsc : Nat := 0x20005c
/-- RAST_ADAPT (R407). -/
def A.rastAdapt : Nat := 0x200060
/-- RAST_SR_CTL (R413). -/
def A.rastSrCtl : Nat := 0x200064
/-- RAST_FLIP_F_LO (R418). -/
def A.rastFlipFLo : Nat := 0x200068
/-- RAST_FLIP_F_HI (R418). -/
def A.rastFlipFHi : Nat := 0x20006c
/-- RAST_FLIP_S_LO (R418). -/
def A.rastFlipSLo : Nat := 0x200070
/-- RAST_FLIP_S_HI (R418). -/
def A.rastFlipSHi : Nat := 0x200074
/-- RAST_FLIP_NS (R418). -/
def A.rastFlipNs : Nat := 0x200078
/-- RAST_VR_CFG (R39). -/
def A.rastVrCfg : Nat := 0x200080
/-- RAST_VR_RATE (R40). -/
def A.rastVrRate : Nat := 0x200084
/-- RAST_UNDR_F_LO (R412). -/
def A.rastUndrFLo : Nat := 0x200088
/-- RAST_UNDR_F_HI (R412). -/
def A.rastUndrFHi : Nat := 0x20008c
/-- RAST_UNDR_POS (R412). -/
def A.rastUndrPos : Nat := 0x200090
/-- RAST_UNDR_CNT (R412). -/
def A.rastUndrCnt : Nat := 0x200094
/-- RAST_DIRTY_CTL (R385). -/
def A.rastDirtyCtl : Nat := 0x200098
/-- RAST_PAIRn_CTL (R195). -/
def A.rastPairCtl (n : Nat) : Nat := 0x200100 + 16 * n
/-- RAST_PAIRn_BASE (R195). -/
def A.rastPairBase (n : Nat) : Nat := 0x200104 + 16 * n
/-- RAST_PAIRn_SIZE (R195). -/
def A.rastPairSize (n : Nat) : Nat := 0x200108 + 16 * n
/-- RAST_PAIRn_STAT (R195). -/
def A.rastPairStat (n : Nat) : Nat := 0x20010c + 16 * n
/-- RAST_PAIRn_CNT (R195). -/
def A.rastPairCnt (n : Nat) : Nat := 0x200200 + 4 * n
/-- RAST_IN_CTL (R393). -/
def A.rastInCtl : Nat := 0x200300
/-- RAST_IN_FMT (R393). -/
def A.rastInFmt : Nat := 0x200304
/-- RAST_IN_STAT (R393). -/
def A.rastInStat : Nat := 0x200308
/-- RAST_IN_MEAS (R393). -/
def A.rastInMeas : Nat := 0x20030c
/-- RAST_IN_XSPLITk (R393). -/
def A.rastInXsplit (n : Nat) : Nat := 0x200340 + 4 * n
/-- RAST_IN_YSPLITk (R393). -/
def A.rastInYsplit (n : Nat) : Nat := 0x200360 + 4 * n
/-- RAST_DIRTYn_X (R385). -/
def A.rastDirtyX (n : Nat) : Nat := 0x200400 + 8 * n
/-- RAST_DIRTYn_Y (R385). -/
def A.rastDirtyY (n : Nat) : Nat := 0x200404 + 8 * n
/-- RAST_IN_EDIDw (R394). -/
def A.rastInEdid (n : Nat) : Nat := 0x200500 + 4 * n
/-- COMP_ZORDER (R434). -/
def A.compZorder : Nat := 0x300000
/-- COMP_BG0 (R434). -/
def A.compBg0 : Nat := 0x300004
/-- COMP_BG1 (R434). -/
def A.compBg1 : Nat := 0x300008
/-- COMP_STAT (R434). -/
def A.compStat : Nat := 0x30000c
/-- COMP_FRZ_CTL (R446). -/
def A.compFrzCtl : Nat := 0x300010
/-- COMP_FRZ_SIG_LO (R446). -/
def A.compFrzSigLo : Nat := 0x300014
/-- COMP_FRZ_SIG_HI (R446). -/
def A.compFrzSigHi : Nat := 0x300018
/-- COMP_FRZ_CNT (R446). -/
def A.compFrzCnt : Nat := 0x30001c
/-- COMP_LCRC_CTL (R448). -/
def A.compLcrcCtl : Nat := 0x300020
/-- COMP_HDRi (R438). -/
def A.compHdr (n : Nat) : Nat := 0x300024 + 4 * n
/-- COMP_LCRC_Ak (R448). -/
def A.compLcrcA (n : Nat) : Nat := 0x300080 + 8 * n
/-- COMP_LCRC_Bk (R448). -/
def A.compLcrcB (n : Nat) : Nat := 0x300084 + 8 * n
/-- COMP_LCRC_RESk (R448). -/
def A.compLcrcRes (n : Nat) : Nat := 0x3000c0 + 4 * n
/-- COMP_LAYERn_CTL (R427). -/
def A.compLayerCtl (n : Nat) : Nat := 0x300100 + 64 * n
/-- COMP_LAYERn_FMT (R427). -/
def A.compLayerFmt (n : Nat) : Nat := 0x300104 + 64 * n
/-- COMP_LAYERn_BASE (R427). -/
def A.compLayerBase (n : Nat) : Nat := 0x300108 + 64 * n
/-- COMP_LAYERn_SRC_SZ (R427). -/
def A.compLayerSrcSz (n : Nat) : Nat := 0x30010c + 64 * n
/-- COMP_LAYERn_DST_POS (R427). -/
def A.compLayerDstPos (n : Nat) : Nat := 0x300110 + 64 * n
/-- COMP_LAYERn_DST_SZ (R427). -/
def A.compLayerDstSz (n : Nat) : Nat := 0x300114 + 64 * n
/-- COMP_SIGn_CTL (R443). -/
def A.compSigCtl (n : Nat) : Nat := 0x300400 + 32 * n
/-- COMP_SIGn_X (R443). -/
def A.compSigX (n : Nat) : Nat := 0x300404 + 32 * n
/-- COMP_SIGn_Y (R443). -/
def A.compSigY (n : Nat) : Nat := 0x300408 + 32 * n
/-- COMP_SIGn_EXP_LO (R443). -/
def A.compSigExpLo (n : Nat) : Nat := 0x30040c + 32 * n
/-- COMP_SIGn_EXP_HI (R443). -/
def A.compSigExpHi (n : Nat) : Nat := 0x300410 + 32 * n
/-- COMP_SIGn_RES_LO (R443). -/
def A.compSigResLo (n : Nat) : Nat := 0x300414 + 32 * n
/-- COMP_SIGn_RES_HI (R443). -/
def A.compSigResHi (n : Nat) : Nat := 0x300418 + 32 * n
/-- COMP_SIGn_STAT (R443). -/
def A.compSigStat (n : Nat) : Nat := 0x30041c + 32 * n
/-- Scaler tables H and V of layer n, word at byte offset o (R432). -/
def A.scaler (n o : Nat) : Nat := 0x301000 + 0x800 * n + o
/-- TIME_CTL (R451). -/
def A.timeCtl : Nat := 0x400000
/-- TIME_STAT (R451). -/
def A.timeStat : Nat := 0x400004
/-- TIME_NOW_S_LO (R451). -/
def A.timeNowSLo : Nat := 0x400008
/-- TIME_NOW_S_HI (R451). -/
def A.timeNowSHi : Nat := 0x40000c
/-- TIME_NOW_NS (R451). -/
def A.timeNowNs : Nat := 0x400010
/-- TIME_OFFSET (R451). -/
def A.timeOffset : Nat := 0x400014
/-- TIME_JUMP (R451). -/
def A.timeJump : Nat := 0x400018
/-- TIME_PRIO (R451). -/
def A.timePrio : Nat := 0x40001c
/-- TIME_INTV (R451). -/
def A.timeIntv : Nat := 0x400020
/-- TIME_LAT_IN (R451). -/
def A.timeLatIn : Nat := 0x400024
/-- TIME_LAT_EG (R451). -/
def A.timeLatEg : Nat := 0x400028
/-- TIME_ASYM (R451). -/
def A.timeAsym : Nat := 0x40002c
/-- TIME_HOLD (R451). -/
def A.timeHold : Nat := 0x400030
/-- TIME_PATH (R451). -/
def A.timePath : Nat := 0x400034
/-- TIME_MASTER_LO (R451). -/
def A.timeMasterLo : Nat := 0x400038
/-- TIME_MASTER_HI (R451). -/
def A.timeMasterHi : Nat := 0x40003c
/-- TIME_EPOCH (R451). -/
def A.timeEpoch : Nat := 0x400040
/-- TIME_ETH_CTL (R453). -/
def A.timeEthCtl : Nat := 0x400044
/-- TIME_MAC_LO (R453). -/
def A.timeMacLo : Nat := 0x400048
/-- TIME_MAC_HI (R453). -/
def A.timeMacHi : Nat := 0x40004c
/-- TIME_IPV4 (R453). -/
def A.timeIpv4 : Nat := 0x400050
/-- TIME_DSCP (R453). -/
def A.timeDscp : Nat := 0x400054
/-- TIME_CLKID_LO (R453). -/
def A.timeClkidLo : Nat := 0x400058
/-- TIME_CLKID_HI (R453). -/
def A.timeClkidHi : Nat := 0x40005c
/-- TIME_ETH_STAT (R453). -/
def A.timeEthStat : Nat := 0x400060
/-- LINK_FLEET_DIM (R480). -/
def A.linkFleetDim : Nat := 0x500000
/-- LINK_FLEET_ADDR (R480). -/
def A.linkFleetAddr : Nat := 0x500004
/-- LINK_FLEET_ROOT (R480). -/
def A.linkFleetRoot : Nat := 0x500008
/-- LINK_FLEET_CTL (R480). -/
def A.linkFleetCtl : Nat := 0x50000c
/-- LINK_FLEET_ID (R480). -/
def A.linkFleetId : Nat := 0x500010
/-- LINK_FLEET_STAT (R480). -/
def A.linkFleetStat : Nat := 0x500014
/-- LINK_MUSTER_STAT (R480). -/
def A.linkMusterStat : Nat := 0x500018
/-- LINK_RED_STAT (R480). -/
def A.linkRedStat : Nat := 0x50001c
/-- LINK_STAT_CLR (R480). -/
def A.linkStatClr : Nat := 0x500020
/-- LINK_PORTp_CTL (R481). -/
def A.linkPortCtl (n : Nat) : Nat := 0x500100 + 64 * n
/-- LINK_PORTp_STAT (R481). -/
def A.linkPortStat (n : Nat) : Nat := 0x500104 + 64 * n
/-- LINK_PORTp_PARTNER (R481). -/
def A.linkPortPartner (n : Nat) : Nat := 0x500108 + 64 * n
/-- LINK_PORTp_DELAY (R481). -/
def A.linkPortDelay (n : Nat) : Nat := 0x50010c + 64 * n
/-- LINK_PORTp_ASYM (R481). -/
def A.linkPortAsym (n : Nat) : Nat := 0x500110 + 64 * n
/-- LINK_PORTp_RETRY (R481). -/
def A.linkPortRetry (n : Nat) : Nat := 0x500114 + 64 * n
/-- LINK_PORTp_CRCERR (R481). -/
def A.linkPortCrcerr (n : Nat) : Nat := 0x500118 + 64 * n
/-- LINK_PORTp_FEC (R481). -/
def A.linkPortFec (n : Nat) : Nat := 0x50011c + 64 * n
/-- LINK_PORTp_DOWNS (R481). -/
def A.linkPortDowns (n : Nat) : Nat := 0x500120 + 64 * n
/-- LINK_LS_CTL (R348). -/
def A.linkLsCtl : Nat := 0x500800
/-- LINK_LS_STAT (R348). -/
def A.linkLsStat : Nat := 0x500804
/-- LINK_LS_DIV_F_LO (R348). -/
def A.linkLsDivFLo : Nat := 0x500808
/-- LINK_LS_DIV_F_HI (R348). -/
def A.linkLsDivFHi : Nat := 0x50080c
/-- LINK_LS_DIV_POS (R348). -/
def A.linkLsDivPos : Nat := 0x500810
/-- LINK_LS_DIV_MASK_LO (R348). -/
def A.linkLsDivMaskLo : Nat := 0x500814
/-- LINK_LS_DIV_MASK_HI (R348). -/
def A.linkLsDivMaskHi : Nat := 0x500818
/-- LINK_REDk (R489). -/
def A.linkRed (n : Nat) : Nat := 0x501000 + 4 * n
/-- HBM_STAT (R526). -/
def A.hbmStat : Nat := 0x600000
/-- HBM_CE_CNT (R526). -/
def A.hbmCeCnt : Nat := 0x600004
/-- HBM_UE_CNT (R526). -/
def A.hbmUeCnt : Nat := 0x600008
/-- HBM_MARK_CNT (R526). -/
def A.hbmMarkCnt : Nat := 0x60000c
/-- HBM_LAST_CE (R526). -/
def A.hbmLastCe : Nat := 0x600010
/-- HBM_LAST_UE (R526). -/
def A.hbmLastUe : Nat := 0x600014
/-- HBM_LAST_UE_F_LO (R526). -/
def A.hbmLastUeFLo : Nat := 0x600018
/-- HBM_LAST_UE_F_HI (R526). -/
def A.hbmLastUeFHi : Nat := 0x60001c
/-- HBM_SCRUB_CTL (R526). -/
def A.hbmScrubCtl : Nat := 0x600020
/-- HBM_SCRUB_POS (R526). -/
def A.hbmScrubPos : Nat := 0x600024
/-- HBM_SCRUB_STAT (R526). -/
def A.hbmScrubStat : Nat := 0x600028
/-- HBM_DEFER (R526). -/
def A.hbmDefer : Nat := 0x60002c
/-- HBM_CNT_CLR (R526). -/
def A.hbmCntClr : Nat := 0x600030
/-- LOFT_CE_CNT (R527). -/
def A.loftCeCnt : Nat := 0x700000
/-- LOFT_UE_CNT (R527). -/
def A.loftUeCnt : Nat := 0x700004
/-- LOFT_MARK_CNT (R527). -/
def A.loftMarkCnt : Nat := 0x700008
/-- LOFT_LAST (R527). -/
def A.loftLast : Nat := 0x70000c
/-- LOFT_SCRUB_CTL (R527). -/
def A.loftScrubCtl : Nat := 0x700010
/-- LOFT_SCRUB_STAT (R527). -/
def A.loftScrubStat : Nat := 0x700014
/-- LOFT_CNT_CLR (R527). -/
def A.loftCntClr : Nat := 0x700018
/-- LOFT_LS_MAPn (R93). -/
def A.loftLsMap (n : Nat) : Nat := 0x700100 + 4 * n
/-- LOFT_BAYn_ERR (R527). -/
def A.loftBayErr (n : Nat) : Nat := 0x700200 + 4 * n
/-- SPAR_IDENT of logical spar n (R108). -/
def A.sparIdent (n : Nat) : Nat := 0x800000 + 65536 * n
/-- SPAR_BOUNDk of logical spar n (R74). -/
def A.sparBound (n k : Nat) : Nat := 0x800040 + 0x10000 * n + 4 * k
/-- SPAR_SAT of logical spar n (R75). -/
def A.sparSat (n : Nat) : Nat := 0x800100 + 65536 * n
/-- SPAR_UFZ of logical spar n (R75). -/
def A.sparUfz (n : Nat) : Nat := 0x800104 + 65536 * n
/-- SPAR_POI of logical spar n (R75). -/
def A.sparPoi (n : Nat) : Nat := 0x800108 + 65536 * n
/-- SPAR_CNT_CLR of logical spar n (R75). -/
def A.sparCntClr (n : Nat) : Nat := 0x80010c + 65536 * n
/-- SPAR_CRUC_PERR of logical spar n (R75). -/
def A.sparCrucPerr (n : Nat) : Nat := 0x800110 + 65536 * n
/-- SPAR_GEN_LO of logical spar n (R655). -/
def A.sparGenLo (n : Nat) : Nat := 0x800120 + 65536 * n
/-- SPAR_GEN_HI of logical spar n (R655). -/
def A.sparGenHi (n : Nat) : Nat := 0x800124 + 65536 * n
/-- PWR_CTL (R589). -/
def A.pwrCtl : Nat := 0xc00000
/-- PWR_BUDGET (R589). -/
def A.pwrBudget : Nat := 0xc00004
/-- PWR_ACCT_CFG (R589). -/
def A.pwrAcctCfg : Nat := 0xc00008
/-- PWR_EST0 (R589). -/
def A.pwrEst0 : Nat := 0xc00010
/-- PWR_EST1 (R589). -/
def A.pwrEst1 : Nat := 0xc00014
/-- PWR_EST2 (R589). -/
def A.pwrEst2 : Nat := 0xc00018
/-- PWR_EST3 (R589). -/
def A.pwrEst3 : Nat := 0xc0001c
/-- PWR_THERM (R589). -/
def A.pwrTherm : Nat := 0xc00020
/-- PWR_STAT (R589). -/
def A.pwrStat : Nat := 0xc00030
/-- PWR_TMAX (R589). -/
def A.pwrTmax : Nat := 0xc00034
/-- PWR_ACCT (R589). -/
def A.pwrAcct : Nat := 0xc00038
/-- PWR_CNT (R589). -/
def A.pwrCnt : Nat := 0xc0003c
/-- PWR_ENERGY_LO (R589). -/
def A.pwrEnergyLo : Nat := 0xc00040
/-- PWR_ENERGY_HI (R589). -/
def A.pwrEnergyHi : Nat := 0xc00044
/-- PWR_CNT_CLR (R589). -/
def A.pwrCntClr : Nat := 0xc00048
/-- PWR_BLKk_E_LO (R589). -/
def A.pwrBlkELo (n : Nat) : Nat := 0xc00080 + 8 * n
/-- PWR_BLKk_E_HI (R589). -/
def A.pwrBlkEHi (n : Nat) : Nat := 0xc00084 + 8 * n
/-- PWR_SENSn (R589). -/
def A.pwrSens (n : Nat) : Nat := 0xc00100 + 4 * n
/-- SAFE_BOOT_STAT (R605). -/
def A.safeBootStat : Nat := 0xd00000
/-- SAFE_RST (R605). -/
def A.safeRst : Nat := 0xd00004
/-- SAFE_RST_CAUSE (R605). -/
def A.safeRstCause : Nat := 0xd00008
/-- SAFE_ENV (R605). -/
def A.safeEnv : Nat := 0xd0000c
/-- SAFE_ENV_LATCH (R605). -/
def A.safeEnvLatch : Nat := 0xd00010
/-- SAFE_LANES (R605). -/
def A.safeLanes : Nat := 0xd00014
/-- SAFE_FUSE (R605). -/
def A.safeFuse : Nat := 0xd00018
/-- SAFE_FUSE_DEF0 (R605). -/
def A.safeFuseDef0 : Nat := 0xd0001c
/-- SAFE_FUSE_DEF1 (R605). -/
def A.safeFuseDef1 : Nat := 0xd00020
/-- SAFE_FUSE_DEF2 (R605). -/
def A.safeFuseDef2 : Nat := 0xd00024
/-- SAFE_DBG (R605). -/
def A.safeDbg : Nat := 0xd00028
/-- SAFE_CMD (R605). -/
def A.safeCmd : Nat := 0xd0002c
/-- SAFE_CMD_STAT (R605). -/
def A.safeCmdStat : Nat := 0xd00030
/-- LOG_BB_WPTR (R609). -/
def A.logBbWptr : Nat := 0xd00100
/-- LOG_BB_LOST (R609). -/
def A.logBbLost : Nat := 0xd00104
/-- LOG_HLOG_WPTR (R609). -/
def A.logHlogWptr : Nat := 0xd00108
/-- LOG_HLOG_LOST (R609). -/
def A.logHlogLost : Nat := 0xd0010c
/-- LOG_EXP_ADDR_LO (R609). -/
def A.logExpAddrLo : Nat := 0xd00110
/-- LOG_EXP_ADDR_HI (R609). -/
def A.logExpAddrHi : Nat := 0xd00114
/-- LOG_EXP_IDX (R609). -/
def A.logExpIdx : Nat := 0xd00118
/-- LOG_EXP_CTL (R609). -/
def A.logExpCtl : Nat := 0xd0011c
/-- LOG_RREC_CTL (R335). -/
def A.logRrecCtl : Nat := 0xd01000
/-- LOG_RREC_BASE (R335). -/
def A.logRrecBase : Nat := 0xd01004
/-- LOG_RREC_SIZE (R335). -/
def A.logRrecSize : Nat := 0xd01008
/-- LOG_RREC_WPTR (R335). -/
def A.logRrecWptr : Nat := 0xd0100c
/-- LOG_RPLY_CTL (R335). -/
def A.logRplyCtl : Nat := 0xd01010
/-- LOG_RPLY_BASE (R335). -/
def A.logRplyBase : Nat := 0xd01014
/-- LOG_RPLY_SIZE (R335). -/
def A.logRplySize : Nat := 0xd01018
/-- LOG_RPLY_RPTR (R335). -/
def A.logRplyRptr : Nat := 0xd0101c
/-- LOG_BB_ENTRYi (R609). -/
def A.logBbEntry (n : Nat) : Nat := 0xd40000 + 64 * n

end Sys2Proof.Machine
end

