-- ==== Sys2Proof/Machine/Ops.lean ====
section
/-! DEFINITION. The named operations over registers, memories, event queues and line stores that every command is written
with. -/

namespace Sys2Proof.Machine

/-! ### Registers -/

/-- The word of a shared register, in force. -/
def State.reg (s : State) (a : Nat) : Word := smGet (regReset a) s.regs a

/-- A shared register set. -/
def State.setReg (s : State) (a : Nat) (w : Word) : State :=
  { s with regs := smPut (regReset a) s.regs a w }

/-- A field of a shared register. -/
def State.rf (s : State) (a hi lo : Nat) : Nat := fld (s.reg a) hi lo

/-- A field of a shared register set. -/
def State.setRf (s : State) (a hi lo v : Nat) : State := s.setReg a (setFld (s.reg a) lo (hi + 1 - lo) v)

/-- A counter field of a shared register advanced by `k`, saturating. -/
def State.bump (s : State) (a hi lo k : Nat) : State := s.setReg a (bumpFld (s.reg a) lo (hi + 1 - lo) k)

/-- The reset value of a per-port word: that of the register, or of the MSI-X table (R531), whose vectors are masked. -/
def pregReset (a : Nat) : Word :=
  if 0xF00000 ≤ a ∧ a < 0xF00080 then (if a % 16 = 12 then 1 else 0) else regReset a

/-- The word of port p's instance of a per-port register (R539). -/
def State.preg (s : State) (p a : Nat) : Word := smGet (pregReset a) s.pregs (p * 2 ^ 24 + a)

/-- Port p's instance of a per-port register set. -/
def State.setPreg (s : State) (p a : Nat) (w : Word) : State :=
  { s with pregs := smPut (pregReset a) s.pregs (p * 2 ^ 24 + a) w }

/-- A field of a per-port register. -/
def State.prf (s : State) (p a hi lo : Nat) : Nat := fld (s.preg p a) hi lo

/-- A field of a per-port register set. -/
def State.setPrf (s : State) (p a hi lo v : Nat) : State := s.setPreg p a (setFld (s.preg p a) lo (hi + 1 - lo) v)

/-- A 48-bit or 64-bit value written to a low and a high register, the high one keeping its bits above `hiBits`. -/
def State.setLoHi (s : State) (lo hi hiBits v : Nat) : State :=
  (s.setReg lo (BitVec.ofNat 32 v)).setReg hi (setFld (s.reg hi) 0 hiBits (v / 2 ^ 32))

/-- The value of a low and a high register. -/
def State.loHi (s : State) (lo hi hiBits : Nat) : Nat := (s.reg lo).toNat + fld (s.reg hi) (hiBits - 1) 0 * 2 ^ 32

/-- The value a shared register will have in the next frame: what GOs have committed for it, the last to land prevailing (R400), over the
value in force. -/
def State.dueReg (s : State) (a : Nat) : Word :=
  (s.commits.filter (fun c => decide (c.addr = a ∧ c.target = s.rast.frame + 1))).foldl
    (fun w c => (w &&& ~~~c.mask) ||| (c.value &&& c.mask)) (s.reg a)

/-- A register as frame `f`, this one or the next, will see it if what is committed is accepted. -/
def State.regAt (s : State) (f : Frame) (a : Nat) : Word := if f = s.rast.frame then s.reg a else s.dueReg a

/-! ### Spars, slots and jobs -/

/-- The physical spar of a logical spar (R53, R54); 0x7F where it is absent. -/
def State.phys (s : State) (n : Nat) : Nat := smGet n (s.fab.map) n

/-- The logical spar is absent (R54). -/
def State.absent (s : State) (n : Nat) : Bool := decide (s.phys n = 0x7F)

/-- The logical spars that are present. -/
def State.spars (s : State) : List Nat := (List.range 64).filter (fun n => !s.absent n)

/-- S register n of a spar. -/
def State.sReg (s : State) (spar n : Nat) : Word := smGet 0 s.fab.sreg (32 * spar + n)

/-- B register n of a spar. -/
def State.bReg (s : State) (spar n : Nat) : Word := smGet 0 s.fab.breg (16 * spar + n)

/-- The B registers as the committed SPAR_BOUND registers give them (R69). An unlisted register holds 0, as does an unlisted SPAR_BOUND. -/
def boundWords (s : State) : List (Nat × Word) :=
  smPutAll 0 [] (s.regs.filterMap (fun e =>
    let o := e.1 - 0x800000
    if 0x800000 ≤ e.1 ∧ o / 0x10000 < 64 ∧ 0x40 ≤ o % 0x10000 ∧ o % 0x10000 < 0x80 then
      some (16 * (o / 0x10000) + (o % 0x10000 - 0x40) / 4, e.2)
    else none))

/-- A register n of a spar. -/
def State.aReg (s : State) (spar n : Nat) : BitVec 40 := smGet 0 s.fab.areg (8 * spar + n)

/-- GEN_IDX of a spar (R168). -/
def State.genIdx (s : State) (spar : Nat) : BitVec 40 := smGet 0 s.fab.gen spar

def State.setS (s : State) (spar n : Nat) (w : Word) : State :=
  { s with fab := { s.fab with sreg := smPut 0 s.fab.sreg (32 * spar + n) w } }

def State.setB (s : State) (spar n : Nat) (w : Word) : State :=
  { s with fab := { s.fab with breg := smPut 0 s.fab.breg (16 * spar + n) w } }

def State.setA (s : State) (spar n : Nat) (w : BitVec 40) : State :=
  { s with fab := { s.fab with areg := smPut 0 s.fab.areg (8 * spar + n) w } }

def State.setGen (s : State) (spar : Nat) (w : BitVec 40) : State :=
  { s with fab := { s.fab with gen := smPut 0 s.fab.gen spar w } }

/-- Slot ch of the channel table. -/
def State.slot (s : State) (ch : Nat) : Slot := smGet Slot.unused s.slots ch

def State.setSlot (s : State) (ch : Nat) (x : Slot) : State := { s with slots := smPut Slot.unused s.slots ch x }

/-- Fitting job n. -/
def State.job (s : State) (n : Nat) : Job := smGet Job.idle s.jobs n

def State.setJob (s : State) (n : Nat) (x : Job) : State := { s with jobs := smPut Job.idle s.jobs n x }

/-- The handle of a slot (R541). -/
def State.handle (s : State) (ch : Nat) : Nat := (s.slot ch).port % 4 * 2 ^ 30 + ch % 1024 * 2 ^ 20 + (s.slot ch).gen % 2 ^ 20

/-! ### Host ports and events -/

/-- The ports of the strapped mode (R530). -/
def State.ports (s : State) : List Nat := if s.bifur = 0 then [0] else if s.bifur = 1 then [0, 1] else [0, 1, 2, 3]

/-- The display-owning port (R536). -/
def State.owner (s : State) : Nat := s.rf A.hostOwner 1 0

/-- The port that owns what an admitted passage declares, or the display-owning port (R638). -/
def State.passageOwner (s : State) (p : Passage → Bool) : Nat :=
  match s.slots.find? (fun e => e.2.passages.any p) with
  | some e => e.2.port
  | none => s.owner

/-- The port that may write pair n (R638). -/
def State.pairOwner (s : State) (n : Nat) : Nat := s.passageOwner (fun g => bitOf g.pairUse n)

/-- The port that may write watch n (R638). -/
def State.watchOwner (s : State) (n : Nat) : Nat := s.passageOwner (fun g => bitOf g.watchUse n)

/-- The port that may write SPAR_BOUNDn of logical spar m (R638). -/
def State.boundOwner (s : State) (m n : Nat) : Nat := s.passageOwner (fun g => bitOf g.sparMask m && bitOf g.bUse n)

/-- The configuration space of a port after a reset of it. -/
def PortCfg.reset : PortCfg := ⟨false, false, false, false, false, 0, 0⟩

/-- The configuration space of a port. -/
def State.pcfg (s : State) (p : Nat) : PortCfg := smGet PortCfg.reset s.cfg p

/-- A byte of the host memory behind port p. -/
def State.hostByte (s : State) (p a : Nat) : Byte := smGet 0 s.host (p * 2 ^ 64 + a % 2 ^ 64)

/-- Bytes written to the host memory behind port p, each with the poisoned-data indication of its write (R523). -/
def State.hostWriteP (s : State) (p a : Nat) (bs : List (Byte × Bool)) : State :=
  let at' := bs.zipIdx.map (fun b => (p * 2 ^ 64 + (a + b.2) % 2 ^ 64, b.1))
  { s with
    host := smPutAll 0 s.host (at'.map (fun b => (b.1, b.2.1)))
    hostBad := smPutAll false s.hostBad (at'.map (fun b => (b.1, b.2.2))) }

/-- Bytes written to the host memory behind port p. -/
def State.hostWrite (s : State) (p a : Nat) (bs : List Byte) : State := s.hostWriteP p a (bs.map (fun b => (b, false)))

/-- Vector v of port p's MSI-X table signals (R531, R557): its message is written to host memory, or its pending bit sets
where the vector, the function or MSI-X is masked or the port may not write host memory. -/
def State.signal (s : State) (p v : Nat) : State :=
  let c := s.pcfg p
  if c.bme ∧ c.msixEn ∧ !c.msixMask ∧ s.prf p (0xF0000C + 16 * v) 0 0 = 0 then
    s.hostWrite p ((s.preg p (0xF00000 + 16 * v)).toNat + (s.preg p (0xF00004 + 16 * v)).toNat * 2 ^ 32)
      (leBytes 4 (s.preg p (0xF00008 + 16 * v)).toNat)
  else s.setPreg p 0xF01000 (s.preg p 0xF01000 ||| BitVec.ofNat 32 (2 ^ v))

/-- Pending vectors of port p signal where nothing masks them any more (R531, R557). -/
def State.msixFlush (s : State) (p : Nat) : State :=
  let c := s.pcfg p
  if c.bme ∧ c.msixEn ∧ !c.msixMask then
    (List.range 8).foldl (fun (t : State) v =>
      if bitAt (t.preg p 0xF01000) v ∧ t.prf p (0xF0000C + 16 * v) 0 0 = 0 then
        (t.setPreg p 0xF01000 (t.preg p 0xF01000 &&& ~~~(BitVec.ofNat 32 (2 ^ v)))).signal p v
      else t) s
  else s

/-- The cycle that the line in progress has reached, numbered over all frames. -/
def State.stamp (s : State) : Nat := (s.rast.frame.toNat * 2 ^ 16 + s.rast.line) * 2 ^ 32 + s.fab.cyc

/-- The W1C bits that the part set in the cycle reached: a write in that cycle does not clear them (R15). -/
def State.w1cNow (s : State) (k : Nat) : Word :=
  let e := smGet (0, 0) s.ev.w1c k
  if e.1 = s.stamp then e.2 else 0

/-- The part sets W1C bits of a register, in the cycle reached. -/
def State.w1cSet (s : State) (k : Nat) (w : Word) : State :=
  { s with ev := { s.ev with w1c := smPut (0, 0) s.ev.w1c k (s.stamp, s.w1cNow k ||| w) } }

/-- Bit `b` of HOST_ERR of port p sets; vector 1 signals when it was clear (R539, R557). -/
def State.hostErr (s : State) (p b : Nat) : State :=
  let t := s.w1cSet (p * 2 ^ 24 + A.hostErr) (BitVec.ofNat 32 (2 ^ b))
  if bitAt (s.preg p A.hostErr) b then t
  else (t.setPreg p A.hostErr (s.preg p A.hostErr ||| BitVec.ofNat 32 (2 ^ b))).signal p 1

/-- The entries of port p's queue (R539). -/
def State.eqSize (s : State) (p : Nat) : Nat := 64 * 2 ^ s.prf p A.hostEqCtl 7 4

/-- The queue is full (R556). -/
def State.eqFull (s : State) (p : Nat) : Bool :=
  decide ((s.prf p A.hostEqTail 15 0 + 1) % s.eqSize p = s.prf p A.hostEqHead 15 0 % s.eqSize p)

/-- An entry is written at TAIL, TAIL advances, and PHASE inverts as it wraps (R556). -/
def State.eqPut (s : State) (p code : Nat) (merged : Bool) (l c : Nat) (payload : List Byte) : State :=
  let tail := s.prf p A.hostEqTail 15 0
  let phase := s.prf p A.hostEqTail 16 16
  let entry := leBytes 2 code ++ leBytes 1 (phase + 2 * b2n merged) ++ leBytes 1 0 ++ leBytes 6 s.rast.frame.toNat ++
    leBytes 2 l ++ leBytes 2 c ++ leBytes 2 0 ++ (payload ++ List.replicate 16 0).take 16
  let base := (s.preg p A.hostEqBaseLo).toNat + (s.preg p A.hostEqBaseHi).toNat * 2 ^ 32
  let s1 := s.hostWrite p (base + 32 * tail) entry
  let next := (tail + 1) % s.eqSize p
  s1.setPreg p A.hostEqTail (BitVec.ofNat 32 (next + (if next = 0 then 1 - phase else phase) * 2 ^ 16))

/-- The queue can take an entry. -/
def State.eqOpen (s : State) (p : Nat) : Bool := decide (s.prf p A.hostEqCtl 0 0 = 1) && (s.pcfg p).bme && !s.eqFull p

/-- EQ_OVERFLOW, once space exists after drops, with the drop count since the last such event (R556). -/
def State.eqFlush (s : State) (p : Nat) : State :=
  let n := smGet 0 s.ev.dropsSince p
  if n ≠ 0 ∧ s.eqOpen p then
    { s.eqPut p 0x0108 false s.rast.line 0 (leBytes 4 n) with
      ev := { s.ev with dropsSince := smPut 0 s.ev.dropsSince p 0 } }
  else s

/-- An event reaches port p's queue: written, or dropped where the queue is full, disabled, or Bus Master Enable is clear
(R556). The answer says whether it was dropped. -/
def State.eqDeliver (s : State) (p code : Nat) (merged : Bool) (l c : Nat) (payload : List Byte) : State × Bool :=
  let s0 := s.eqFlush p
  if s0.eqOpen p then (s0.eqPut p code merged l c payload, false)
  else
    let s1 := s0.setPreg p A.hostEqDrop (bumpFld (s0.preg p A.hostEqDrop) 0 32 1)
    let s2 := { s1 with ev := { s1.ev with dropsSince := smPut 0 s1.ev.dropsSince p (smGet 0 s1.ev.dropsSince p + 1) } }
    let s3 := if s0.prf p A.hostEqCtl 0 0 = 1 ∧ s0.eqFull p then s2.hostErr p 4 else s2
    (if (s0.pcfg p).bme ∨ s0.prf p A.hostEqCtl 0 0 = 0 then s3 else s3.hostErr p 7, true)

/-- An entry of the black box, written at its sequence number modulo 4,096 (R607). -/
def State.logPut (s : State) (e : LogEntry) : State :=
  { s with ev := { s.ev with seq := (s.ev.seq + 1) % 2 ^ 32,
                             box := smPut LogEntry.blank s.ev.box (s.ev.seq % 4096) { e with seq := s.ev.seq } } }

/-- Events of these codes are not recorded in the black box (R607). -/
def unloggedCode (code : Nat) : Bool := code = 0x0200 || code = 0x0104 || code = 0x0700

/-- Payload values packed in order, each little-endian at its size (R556): (size, value). -/
def packVals (vs : List (Nat × Nat)) : List Byte := (vs.flatMap (fun v => leBytes v.1 v.2)).take 16

/-- An event posted to each port of a list, at cycle c of the line (0 where it names none), and recorded in the black box. -/
def State.postAt (s : State) (ps : List Nat) (code c : Nat) (vs : List (Nat × Nat)) : State :=
  let payload := packVals vs
  let l := s.rast.line
  let run := ps.foldl (fun (acc : State × Bool × Bool) p =>
    let m := smGet false acc.1.ev.mergeOf (p * 2 ^ 16 + code)
    let r := acc.1.eqDeliver p code m l c payload
    ({ r.1 with ev := { r.1.ev with mergeOf := smPut false r.1.ev.mergeOf (p * 2 ^ 16 + code) false } },
      acc.2.1 || r.2, acc.2.2 || m)) (s, false, false)
  if unloggedCode code then run.1
  else run.1.logPut { seq := 0, code := code, merged := run.2.2, dropped := run.2.1, ports := ps.foldl (fun a p => a ||| 2 ^ p) 0,
                      frame := s.rast.frame, line := l, cyc := c, boots := s.rf A.safeRstCause 31 16, ns := s.tod.ns,
                      sec := s.tod.sec, payload := payload }

/-- An event that names no cycle. -/
def State.post (s : State) (ps : List Nat) (code : Nat) (vs : List (Nat × Nat)) : State := s.postAt ps code 0 vs

/-- The frame number as a payload value. -/
def State.vF (s : State) : Nat × Nat := (6, s.rast.frame.toNat)

/-- A state of SAFE_ENV set, with its latch (R605). -/
def State.envSet (s : State) (hi lo v : Nat) : State :=
  let s1 := (s.setRf A.safeEnv hi lo v).w1cSet A.safeEnvLatch (BitVec.ofNat 32 (v * 2 ^ lo))
  s1.setReg A.safeEnvLatch (s1.reg A.safeEnvLatch ||| BitVec.ofNat 32 (v * 2 ^ lo))

/-- An EVT bit of the frame record sets (R336). -/
def State.evt (s : State) (bit : Nat) : State := { s with rcd := { s.rcd with evt := s.rcd.evt ||| 2 ^ bit } }

/-- The fabric is held in reset and the halyard stands still: a supply fault holds the part (R592), or the thermal trip is active (R613). -/
def State.halted (s : State) : Bool := s.aon.held || decide (s.rf A.safeEnv 10 10 = 1)

/-! ### Frame pairs -/

/-- Pair n is enabled (committed EN = 1). -/
def State.pairOn (s : State) (n : Nat) : Bool := decide (s.rf (A.rastPairCtl n) 0 0 = 1)

/-- The lowest-numbered enabled pair of a location (0 HBM, 1 loft) whose M0 range holds the address (R196). -/
def State.aliasPair (s : State) (loc a : Nat) : Option Nat :=
  (List.range 16).find? (fun n => s.pairOn n && decide (s.rf (A.rastPairCtl n) 2 2 = loc ∧
    4096 * s.rf (A.rastPairBase n) 22 0 ≤ a ∧ a < 4096 * (s.rf (A.rastPairBase n) 22 0 + s.rf (A.rastPairSize n) 22 0)))

/-- Job n has a publication alias (R310, R318, R319): EN is in force, or a step that started under it is still in progress. -/
def State.aliasOn (s : State) (n : Nat) : Bool := decide (s.rf (A.chanFitCtl n) 0 0 = 1) || (s.job n).inStep

/-- Job n's publication alias holds the address (R319). -/
def State.fitAlias (s : State) (loc a : Nat) : Option Nat :=
  (List.range 8).find? (fun n => s.aliasOn n && decide (s.rf (A.chanFitCtl n) 1 1 = loc ∧
    4096 * s.rf (A.chanFitPbase n) 22 0 ≤ a ∧ a < 4096 * (s.rf (A.chanFitPbase n) 22 0 + s.rf (A.chanFitPsize n) 22 0)))

/-- The address an access reaches (R196, R319). A passage reaches the front member of an ingress pair and the back member of an
egress pair; a host, and the producer, the other one. A passage reaches the front member of a publication alias, the job itself the
back member, and a host M0 as a plain address. -/
def State.reach (s : State) (loc : Nat) (host : Bool) (a : Nat) : Nat :=
  match s.aliasPair loc a with
  | some n =>
    let front := s.rf (A.rastPairStat n) 0 0
    let egress := s.rf (A.rastPairCtl n) 1 1
    let m1 := (front + egress + b2n host) % 2
    a + m1 * 4096 * s.rf (A.rastPairSize n) 22 0
  | none =>
    match (if host then none else s.fitAlias loc a) with
    | some n =>
      let m1 := (s.rf (A.chanFitPstat n) 0 0 + b2n (decide (s.fab.actor = some n))) % 2
      a + m1 * 4096 * s.rf (A.chanFitPsize n) 22 0
    | none => a

/-! ### The loft -/

/-- The key of a byte of a spar's bay. -/
def bayKey (spar a : Nat) : Nat := spar * 2 ^ 23 + a % 2 ^ 23

/-- A byte that a passage reads in its bay, and how far its codeword is delivered poisoned. -/
def State.loftByte (s : State) (spar a : Nat) : Byte × Nat := s.fab.loft.fetch (bayKey spar (s.reach 1 false a))

/-- `n` bytes a passage reads, as a little-endian number, and how far any of them is poisoned. -/
def State.loftLe (s : State) (spar a n : Nat) : Nat × Nat :=
  let bs := (List.range n).map (fun i => s.loftByte spar (a + i))
  (fromLe (bs.map (fun b => b.1)), bs.foldl (fun m b => max m b.2) 0)

def State.setLoft (s : State) (m : Mem) : State := { s with fab := { s.fab with loft := m } }

/-- What a loft read of one codeword records (R503, R527, R528): corrections, uncorrectable and marked reads, the last one,
and the first uncorrectable read of the frame as an event to every port. -/
def State.loftReadCw (s : State) (spar cw : Nat) (scrub : Bool) : State :=
  if !s.fab.loft.tainted cw then s else
  let r := s.fab.loft.read cw
  let last (kind : Nat) (t : State) : State :=
    t.setReg A.loftLast (BitVec.ofNat 32 (cw * 8 % 2 ^ 23 / 64 * 64 + spar % 64 * 2 ^ 23 + kind * 2 ^ 29 + b2n scrub * 2 ^ 31))
  let s1 := match r.kind with
    | .clean => s
    | .ce1 => last 1 ((s.bump A.loftCeCnt 31 0 1).bump (A.loftBayErr spar) 15 0 1)
    | .ce2 => last 2 ((s.bump A.loftCeCnt 31 0 1).bump (A.loftBayErr spar) 15 0 1)
    | .ue =>
      let t := last 3 ((s.bump A.loftUeCnt 31 0 1).bump (A.loftBayErr spar) 31 16 1)
      if t.rcd.ueLoft then t
      else { (t.post t.ports 0x0602 [t.vF, (1, spar), (4, cw * 8 % 2 ^ 23)]) with rcd := { t.rcd with ueLoft := true } }
  if r.kind ≠ .ue ∧ r.marked ≠ 0 then s1.bump A.loftMarkCnt 31 0 1 else s1

/-- The codewords that some accesses (address, length) of a spar's bay touch, each access once. -/
def State.cwsOf (s : State) (spar : Nat) (accs : List (Nat × Nat)) : List Nat :=
  accs.flatMap (fun a => uniq ((List.range a.2).map (fun i => bayKey spar (s.reach 1 false (a.1 + i)) / 8)))

/-- The codewords of elements (address, size in bytes, at most 8) that are read together, each of them read once. -/
def oneRead (els : List (Nat × Nat)) : List (Nat × Nat) :=
  (uniq ((els.flatMap (fun e => [e.1 / 8, (e.1 + e.2 - 1) / 8])).eraseReps)).map (fun cw => (8 * cw, 8))

/-- The codewords that byte writes cover in part only, whose merge reads them (R92, R505). -/
def partials (ws : List (Nat × Byte × Nat)) : List Nat :=
  (groupByCw ws).filterMap (fun g => if (List.range 8).all (fun i => g.2.1.any (fun p => decide (p.1 = i))) then none else some g.1)

/-- The loft reads of a word recorded; a bay without marks and flipped bits records nothing. -/
def State.loftReads (s : State) (spar : Nat) (accs : List (Nat × Nat)) : State :=
  if s.fab.loft.marks = [] ∧ s.fab.loft.flips = [] then s
  else (s.cwsOf spar accs).foldl (fun t cw => t.loftReadCw spar cw false) s

/-- The bank's own reads of a write to a bay recorded: byte writes, addressed by their keys, that cover codewords in part (R92). -/
def State.loftMerge (s : State) (spar : Nat) (ws : List (Nat × Byte × Nat)) : State :=
  if s.fab.loft.marks = [] ∧ s.fab.loft.flips = [] then s
  else (partials ws).foldl (fun t cw => t.loftReadCw spar cw false) s

/-! ### Row roles -/

/-- The role of a bank row of a spar's bay, in force (R93, R94). -/
def rowRole (s : State) (spar row : Nat) : Nat := fld (s.reg (A.loftLsMap spar)) (2 * row + 1) (2 * row)

/-- The bank rows that some bytes of a bay reach: an alias is followed page by page (R196, R319). -/
def State.rowsOf (s : State) (a len : Nat) : List Nat :=
  if len = 0 then [] else
    uniq ((List.range ((a + len - 1) / 4096 + 1 - a / 4096)).map (fun k => s.reach 1 false (max a (4096 * (a / 4096 + k))) % 2 ^ 23 / 2 ^ 20))

/-- Some bank row of the range has the role. -/
def touchesRole (s : State) (spar a len role : Nat) : Bool :=
  (List.range 6).any (fun r => decide (len ≠ 0 ∧ a < (r + 1) * 2 ^ 20 ∧ r * 2 ^ 20 < a + len ∧ rowRole s spar r = role))

/-- Some bank row that an access of a spar port reaches has the role (R96): the row of the member that the access reaches counts. -/
def State.reachesRole (s : State) (spar a len role : Nat) : Bool := (s.rowsOf a len).any (fun r => decide (rowRole s spar r = role))

/-! ### Line stores -/

/-- The place of a line occurrence on the raster, counted in lines. -/
def State.linePos (s : State) (frame line : Nat) : Int := (frame : Int) * s.rast.linesTotal + line

/-- The raster's own place, counted in lines; extension lines do not move it (R401). -/
def State.nowPos (s : State) : Int := s.linePos s.rast.frame.toNat (min s.rast.line (s.rast.linesTotal - 1))

/-- L_lead in force. -/
def State.lead (s : State) : Nat := s.rf A.rastCommit 19 16

/-- The layer is off from a line of a frame on (R411). -/
def State.layerOff (s : State) (layer frame line : Nat) : Bool :=
  s.off.any (fun p => decide (p.1 = layer ∧ p.2.1 = frame ∧ p.2.2 ≤ line))

/-- The port that owns a layer (COMP_LAYERn_CTL.OWNER). -/
def State.layerOwner (s : State) (layer : Nat) : Nat := s.rf (A.compLayerCtl layer) 5 4

/-- Frames are composed: the output is enabled, out of self-refresh, not suspended and not paused (R444). -/
def State.composing (s : State) : Bool :=
  decide (s.rf A.rastOutCtl 0 0 = 1 ∧ s.rf A.rastSrCtl 8 8 = 0) && !s.rast.suspended && !s.rast.paused && !s.halted

/-- The link transmits: it is trained, its sink is there, and no driver is off (R384, R405, R610). -/
def State.linkLive (s : State) : Bool := s.rast.train.isNone && !s.out.lost && !s.out.shorted

/-- An underrun of line `line` of a layer in frame `frame` (R210, R411, R412): the layer is off from that line, its segments from
there on return to the spars, and the underrun is recorded and reported. `cause` is 0 not complete, 1 poison. -/
def State.underrun (s : State) (layer frame line cause : Nat) : State :=
  if s.layerOff layer frame line then s else
  let f := BitVec.ofNat 48 frame
  let segs := s.fab.segs.map (fun g =>
    if g.layer = layer ∧ g.frame = f ∧ line ≤ g.line ∧ g.st = .marked then { g with st := .sparOwned } else g)
  let s1 := { s with off := (layer, frame, line) :: s.off, fab := { s.fab with segs := segs } }
  let first := decide (s.rf A.rastUndrCnt 15 0 = 0 ∨ s.loHi A.rastUndrFLo A.rastUndrFHi 16 < frame)
  let s2 := if first then
      (s1.setLoHi A.rastUndrFLo A.rastUndrFHi 16 frame).setReg A.rastUndrPos
        (BitVec.ofNat 32 (line + layer * 2 ^ 16 + cause * 2 ^ 19))
    else s1
  let s3 := s2.bump A.rastUndrCnt 15 0 1
  let s4 := if f = s.rast.frame then s3.setRf A.rastUndrCnt (24 + layer) (24 + layer) 1 else s3
  (s4.evt 3).post (uniq [s.owner, s.layerOwner layer]) 0x020A [(6, frame), (2, line), (1, layer), (1, cause)]

/-- What follows where a spar writes into a range it does not own, or awaits it (R208, R209): event 0x0314 once per layer and
frame to the owning host of the word; a marked range loses the spar's mark for the frame, and the line underruns at once where it has
passed its lead check: that check was of an enabled line store layer's line, in a composed frame (R406, R411). -/
def State.ownerFault (s : State) (port c : Nat) (g : Seg) : State :=
  let s1 := if s.fab.ownerFaulted.contains g.layer then s
    else { (s.postAt [port] 0x0314 c [s.vF, (2, s.rast.line), (2, c), (1, g.layer), (1, g.spar)]) with
           fab := { s.fab with ownerFaulted := g.layer :: s.fab.ownerFaulted } }
  if g.st = .marked then
    let segs := s1.fab.segs.map (fun h =>
      if h.layer = g.layer ∧ h.line = g.line ∧ h.frame = g.frame ∧ h.spar = g.spar then
        { h with st := .sparOwned, spoiled := true } else h)
    let s2 := { s1 with fab := { s1.fab with segs := segs } }
    if g.ok then s2.underrun g.layer g.frame.toNat g.line 0 else s2
  else s1

/-- The segment whose range holds a byte of a bay and that the spar does not own. -/
def State.foreignSeg (s : State) (spar a : Nat) : Option Seg :=
  s.fab.segs.find? (fun g => g.spar = spar ∧ g.st ≠ .sparOwned ∧ g.base ≤ a ∧ a < g.base + g.len)

/-- The entries of the line signature for the bytes one access writes (R337): one per sector, in ascending bank column. -/
def sigEntries (spar c : Nat) (ws : List (Nat × Byte × Nat)) : List SigEntry :=
  let secs := uniq (ws.map (fun w => w.1 / 64))
  let one (sec : Nat) : SigEntry :=
    let mine := ws.filter (fun w => w.1 / 64 = sec)
    ⟨spar, c, sec % 8, mine.any (fun w => decide (w.2.2 ≠ 0)), mine.foldl (fun m w => m ||| 2 ^ (w.1 % 64)) 0,
      (List.range 64).map (fun i => ((mine.reverse.find? (fun w => w.1 % 64 = i)).map (fun w => w.2.1)).getD 0)⟩
  let es := secs.map one
  (List.range 8).flatMap (fun col => es.filter (fun e => e.col = col))

/-! ### Work in flight -/

/-- Work begun that comes about in cycle `c`. -/
def State.later (s : State) (c phase : Nat) (w : Work) : State :=
  { s with fab := { s.fab with flight := s.fab.flight ++ [⟨c, phase, w⟩] } }

/-- The state as an issued word sees it: its registers, descriptor records and job are those of its issue cycle. -/
def State.held (s : State) (h : Held) : State :=
  { s with fab := { s.fab with sreg := h.sreg, breg := h.breg, areg := h.areg, gen := h.gen, descr := h.descr, actor := h.actor } }

/-- The loft reads of an issued word in the cycle in progress, recorded. -/
def State.portReads (s : State) (h : Held) (spar : Nat) (accs : List (Nat × Nat)) : State :=
  { (s.held h).loftReads spar accs with fab := s.fab }

/-- A write of bytes through a spar's port, issued in cycle `u` (R224): nothing where no byte is written. -/
def State.storeAt (s : State) (h : Held) (u spar : Nat) (ws : List (Nat × Byte × Nat)) (keep : List (Nat × Nat)) : State :=
  if ws = [] then s else s.later u 3 (.store h spar ws keep)

/-- A write through a spar's port comes to its issue cycle `u`: bytes of a range the spar does not own are suppressed (R208), the rest
updates the bank 3 cycles later and is seen from `u + 4` on (R88, R224). The alias reached, and the ownership, are those of cycle `u`. -/
def State.storeNow (s : State) (h : Held) (u spar : Nat) (ws : List (Nat × Byte × Nat)) (keep : List (Nat × Nat)) : State :=
  let reached (a : Nat) : Nat := (s.held h).reach 1 false a % 2 ^ 23
  let at' := ws.map (fun w => (reached w.1, w.2))
  let faults := uniq (at'.filterMap (fun w => s.foreignSeg spar w.1))
  let done := at'.filter (fun w => (s.foreignSeg spar w.1).isNone)
  let s1 := if done = [] then s else s.later (u + 4) 0 (.land spar h.fg u done (keep.map (fun k => (reached k.1, k.2))))
  faults.foldl (fun t g => t.ownerFault h.port u g) s1

/-- The byte writes of a landing as the bank merges them: a byte of which one 4-bit lane is written keeps its other half (R92). -/
def State.merged (s : State) (spar : Nat) (ws : List (Nat × Byte × Nat)) (keep : List (Nat × Nat)) : List (Nat × Byte × Nat) :=
  ws.map (fun w => match keep.find? (fun k => decide (k.1 = w.1)) with
    | none => w
    | some k =>
      let old := (s.fab.loft.fetch (bayKey spar w.1)).1.toNat
      (w.1, BitVec.ofNat 8 (if k.2 = 0 then w.2.1.toNat / 16 * 16 + old % 16 else old / 16 * 16 + w.2.1.toNat % 16), w.2.2))

/-- A write that was issued in cycle `u` updates its bay; what is performed in the foreground enters the line signature (R337). -/
def State.landNow (s : State) (spar : Nat) (fg : Bool) (u : Nat) (ws : List (Nat × Byte × Nat)) (keep : List (Nat × Nat)) : State :=
  let full := s.merged spar ws keep
  let put := full.map (fun w => (bayKey spar w.1, w.2))
  let s1 := (s.loftMerge spar put).setLoft (s.fab.loft.write put)
  if fg then { s1 with rcd := { s1.rcd with entries := s1.rcd.entries ++ sigEntries spar u full } } else s1

/-- The line in progress reaches cycle `c`: what the counters gained in an earlier cycle is no longer of this one (R76). -/
def State.reachCycle (s : State) (c : Nat) : State :=
  if s.fab.cyc < c then { s with fab := { s.fab with cyc := c, fresh := [] } } else s

/-! ### Counters of a spar -/

/-- One counter of a spar advances. -/
def State.tally (s : State) (a k : Nat) : State :=
  let t := s.bump a 31 0 k
  { t with fab := { t.fab with fresh := smPut 0 t.fab.fresh a (smGet 0 t.fab.fresh a + k) } }

/-- SAT, UFZ and POI of a spar advance (R150, R152). `hard`: some of the POI goes back to an uncorrectable error, a parity
mismatch or a late muster, which sets EVT.POISON (R336). -/
def State.count (s : State) (spar sat ufz poi : Nat) (hard : Bool) : State :=
  let s1 := ((s.tally (A.sparSat spar) sat).tally (A.sparUfz spar) ufz).tally (A.sparPoi spar) poi
  if hard ∧ poi ≠ 0 then s1.evt 2 else s1

/-! ### HBM -/

/-- The end of user HBM (R509). -/
def userHbm : Nat := 24 * 2 ^ 30

/-- A range of user HBM lies inside the partition of port p (R537, R538). -/
def inPart (s : State) (p a len : Nat) : Bool :=
  let b := 4096 * s.rf (A.hostPartBase p) 22 0
  decide (b ≤ a ∧ a + len ≤ min userHbm (b + 4096 * s.rf (A.hostPartSize p) 22 0))

/-- Bytes of user HBM that a passage, or a host (`host`), reads. -/
def State.hbmByte (s : State) (host : Bool) (a : Nat) : Byte × Nat := s.hbm.fetch (s.reach 0 host a)

/-- What an HBM read of one codeword records (R503, R519, R526, R528). `src` is coded as HBM_LAST_UE.SRC. -/
def State.hbmReadCw (s : State) (src cw : Nat) : State :=
  if !s.hbm.tainted cw then s else
  let r := s.hbm.read cw
  let sec := cw / 8
  let queue (t : State) : State :=
    if src = 2 ∨ t.repairQ.contains sec then t
    else if t.repairQ.length < 64 then { t with repairQ := t.repairQ ++ [sec] } else t.bump A.hbmScrubStat 31 16 1
  let s1 := match r.kind with
    | .clean => s
    | .ce1 => queue ((s.bump A.hbmCeCnt 31 0 1).setReg A.hbmLastCe (BitVec.ofNat 32 (sec % 2 ^ 29 + 1 * 2 ^ 29)))
    | .ce2 => queue ((s.bump A.hbmCeCnt 31 0 1).setReg A.hbmLastCe (BitVec.ofNat 32 (sec % 2 ^ 29 + 2 * 2 ^ 29)))
    | .ue =>
      let t := queue (((s.bump A.hbmUeCnt 31 0 1).setReg A.hbmLastUe (BitVec.ofNat 32 (sec % 2 ^ 29 + src * 2 ^ 29))).setLoHi
        A.hbmLastUeFLo A.hbmLastUeFHi 16 s.rast.frame.toNat)
      if t.rcd.ueHbm then t
      else { (t.post t.ports 0x0600 [t.vF, (4, sec), (1, src)]) with rcd := { t.rcd with ueHbm := true } }
  if r.kind ≠ .ue ∧ r.marked ≠ 0 then s1.bump A.hbmMarkCnt 31 0 1 else s1

/-- The HBM reads of an access recorded, codeword by codeword. -/
def State.hbmReads (s : State) (src : Nat) (host : Bool) (a n : Nat) : State :=
  if s.hbm.marks = [] ∧ s.hbm.flips = [] then s
  else (uniq ((List.range n).map (fun i => s.reach 0 host (a + i) / 8))).foldl (fun t cw => t.hbmReadCw src cw) s

/-- A read of `n` bytes of HBM from `a`, an address as the memory holds it, recorded (R519, R526). -/
def State.hbmTake (s : State) (src a n : Nat) : State :=
  if s.hbm.marks = [] ∧ s.hbm.flips = [] then s
  else (uniq ((List.range n).map (fun i => (a + i) / 8))).foldl (fun t cw => t.hbmReadCw src cw) s

/-- The HBM reads of an issued word in the cycle in progress, recorded. -/
def State.hbmPortReads (s : State) (h : Held) (src a n : Nat) : State :=
  let t := (s.held h).hbmReads src false a n
  { t with fab := s.fab }

/-- The memory's own reads of a write to HBM recorded (R92, R505): byte writes at addresses as the memory holds them. -/
def State.hbmMerge (s : State) (src : Nat) (ws : List (Nat × Byte × Nat)) : State :=
  if s.hbm.marks = [] ∧ s.hbm.flips = [] then s
  else (partials ws).foldl (fun t cw => t.hbmReadCw src cw) s

/-- Bytes written to user HBM by a passage, or by a host. -/
def State.hbmWrite (s : State) (host : Bool) (ws : List (Nat × Byte × Nat)) : State :=
  { s with hbm := s.hbm.write (ws.map (fun w => (s.reach 0 host w.1, w.2))) }

end Sys2Proof.Machine
end

