-- ==== Sys2Proof/Machine/Access.lean ====
section
/-! DEFINITION. How a register access of a host port reaches its register (R560 to R567, R596, R599): the crossings it needs, the domains that
stop, and the gate that every write of a host goes through. -/

namespace Sys2Proof.Machine

/-- A command of a host port. A port that is absent in the strapped mode has no register, channel or queue (R530). -/
def fromPort (p : Fin 4) (s t : State) : Host.Outcome State Fault Refusal :=
  if s.ports.contains p.val then .next t else .fault .absentPort

/-- The stage of the boot (R595). -/
def State.stage (s : State) : Nat := s.rf A.safeBootStat 3 0

/-- The Wearo port whose LK domain holds an address. -/
def lkPort (a : Nat) : Option Nat := if 0x500100 ≤ a ∧ a < 0x500280 then some ((a - 0x500100) / 64) else none

/-- The crossing beyond the port's own that an address needs (R561, R563). -/
def homeXing (a : Nat) : Option Nat :=
  if a = A.rastInStat ∨ a = A.rastInMeas then some 9
  else if 0x400000 ≤ a ∧ a < 0x400044 then some 12
  else if (lkPort a).isSome then some 11
  else if 0xC00000 ≤ a ∧ a < 0xE00000 then some 13
  else none

/-- The domain behind an address is stopped (R560), or its group is in reset (R571). LINK_PORTp_CTL, which enables the port, is reached in
every case. -/
def State.domainStops (s : State) (a : Nat) : Bool :=
  match homeXing a with
  | some 9 => decide (s.rf A.rastInStat 0 0 = 0 ∨ s.rf A.sysDrst 1 1 = 1)
  | some 12 => decide (s.rf A.timeEthCtl 0 0 = 0 ∨ s.rf A.sysDrst 3 3 = 1)
  | some 11 =>
    match lkPort a with
    | some p =>
      decide (a ≠ A.linkPortCtl p) && (decide (s.rf (A.linkPortCtl p) 0 0 = 0 ∨ s.rf A.sysDrst 2 2 = 1) ||
        !(smGet Wearo.start s.wearo p).signal)
    | none => false
  | _ => false

/-- What becomes of a register access. `silent`: it reads 0 and ignores writes; `wedged` and `stalled` name the crossing. -/
inductive Way where
  | served
  | silent
  | wedged (k : Nat)
  | stalled (k : Nat)
deriving DecidableEq, Repr

/-- What the recovery state serves through port 0 (R599): the SAFE and LOG block, and where a fuse word is uncorrectable the black box and
SAFE_FUSE alone, for reads (R601). -/
def State.recoveryServes (s : State) (a : Nat) (read : Bool) : Bool :=
  if s.aon.fuseBad then
    read && (decide (a = A.safeFuse ∨ a = A.logBbWptr ∨ a = A.logBbLost) || decide (0xD40000 ≤ a ∧ a < 0xD80000))
  else decide (0xD00000 ≤ a ∧ a < 0xE00000)

/-- The way of an access of port p to an address. The MSI-X table lies in the port's own domain and needs no crossing (R531, R563). -/
def State.way (s : State) (p a : Nat) (read : Bool) : Way :=
  let wedged (k : Nat) : Bool := bitAt (s.reg A.sysXingWedged) k
  if 0xF00000 ≤ a then (if s.aon.refLost.contains p ∨ bitAt (s.reg A.sysDrst) (8 + p) then .stalled p else .served)
  else if wedged p then .wedged p
  else if s.aon.refLost.contains p ∨ bitAt (s.reg A.sysDrst) (8 + p) then .stalled p
  else if s.stage = 0xE ∧ p = 0 then (if s.recoveryServes a read then .served else .silent)
  else if s.stage ≠ 0xF then .stalled p
  else match homeXing a with
    | none => .served
    | some k => if wedged k then .wedged k else if s.domainStops a then .stalled k else .served

/-- A write of a host to an address: it acts as `f`, waits at a stopped domain, or is discarded. -/
def State.hostPut (s : State) (p a : Nat) (v : Word) (f : State → State) : State :=
  match s.way p a false with
  | .served => f s
  | .silent => s
  | .wedged _ => s.hostErr p 1
  | .stalled _ => { s with acc := { s.acc with stalled := s.acc.stalled ++ [⟨p, a, some v⟩] } }

/-- A write to a register that only the display-owning port may write (R638). -/
def State.ownerWrite (s : State) (p : Fin 4) (a : Nat) (v : Word) (f : State → State) : State :=
  s.hostPut p.val a v (fun t => if p.val = t.owner then f t else t)

end Sys2Proof.Machine
end

