-- ==== Sys2Proof/Machine/FitOps.lean ====
section
/-! DEFINITION. What the words and the commands share of a fitting job: its channel, its step count, and the end of a slack
bundle (R309, R320). -/

namespace Sys2Proof.Machine

/-- The slot of the background channel that holds job n (R547). -/
def State.jobSlot (s : State) (n : Nat) : Option Nat :=
  (s.slots.find? (fun e => decide (e.2.kind = .background ∧ e.2.job = some n ∧ e.2.st ≠ .free))).map (fun e => e.1)

/-- The image of job n once its copy has completed and it runs (R177). -/
def State.jobFit (s : State) (n : Nat) : Option FitImage :=
  match s.jobSlot n with
  | some ch => if (s.slot ch).live then (s.slot ch).fit else none
  | none => none

/-- The port of job n. -/
def State.jobPort (s : State) (n : Nat) : Nat :=
  match s.jobSlot n with
  | some ch => (s.slot ch).port
  | none => s.owner

/-- Steps completed (R318). -/
def State.fitStep (s : State) (n : Nat) : Nat := s.rf (A.chanFitStep n) 31 0

/-- The slack bundle table of an image for a reef level: per entry whether it is a block bundle, PUB, and LEN (R307). -/
def FitImage.rows (g : FitImage) (reef : Nat) : List (Bool × Bool × Nat) := (g.table[reef]?).getD []

/-- The bundle `k` of a step is the publishing bundle; all reef sections agree (R307). -/
def FitImage.isPub (g : FitImage) (k : Nat) : Bool :=
  (List.range 4).any (fun r => bitOf g.reefMask r && (match (g.rows r)[k]? with | some b => b.2.1 | none => false))

/-- The PUB bundle of step s is skipped (R309). -/
def FitImage.skips (g : FitImage) (step k : Nat) : Bool := g.isPub k && decide ((step + 1) % max 1 g.psteps ≠ 0)

/-- The first bundle from `k` on that the step runs; NBUND when none is left. -/
def FitImage.nextFrom (g : FitImage) (step k : Nat) : Nat :=
  ((List.range g.nbund).find? (fun j => decide (k ≤ j) && !g.skips step j)).getD g.nbund

/-- A version is complete (R320): PENDING sets and event 0x0332. -/
def fitPublish (n : Nat) (s : State) : State :=
  let v := (s.job n).nextVer
  let s1 := s.setRf (A.chanFitPstat n) 1 1 1
  (s1.setJob n { s1.job n with nextVer := (v + 1) % 2 ^ 32 }).post [s1.jobPort n] 0x0332 [(1, n), (4, v)]

/-- The running bundle of a fitting channel completes (R309, R320). -/
def fitBundleEnd (ch : Nat) (s : State) : State :=
  match (s.slot ch).job, (s.slot ch).fit with
  | some n, some g =>
    let j := s.job n
    if j.running then
      let s1 := s.setJob n { j with running := false, next := g.nextFrom (s.fitStep n) (j.next + 1) }
      if g.isPub j.next then fitPublish n s1 else s1
    else s
  | _, _ => s

end Sys2Proof.Machine
end

