-- ==== Sys2Proof/Machine/Crc.lean ====
section
/-! DEFINITION. The three CRCs of the part: CRC-64/ECMA-182 (R442), CRC-32 of IEEE 802.3 (R447), and the sorting helper of the
line signature. -/

namespace Sys2Proof.Machine

/-- CRC-64/ECMA-182: one bit at the top shifted out. -/
def crc64Step (crc : BitVec 64) : BitVec 64 :=
  if crc.toNat / 2 ^ 63 = 1 then (crc <<< 1) ^^^ 0x42F0E1EBA9EA3693#64 else crc <<< 1

/-- CRC-64/ECMA-182 carried over one byte. -/
def crc64Byte (crc : BitVec 64) (b : Byte) : BitVec 64 :=
  let x := crc ^^^ (BitVec.ofNat 64 b.toNat <<< 56)
  crc64Step (crc64Step (crc64Step (crc64Step (crc64Step (crc64Step (crc64Step (crc64Step x)))))))

/-- CRC-64/ECMA-182 carried over a byte sequence: initial value as given, no reflection, no final XOR (R442). -/
def crc64 (crc : BitVec 64) (bs : List Byte) : BitVec 64 := bs.foldl crc64Byte crc

/-- The reflected CRC-32: one bit at the bottom shifted out. -/
def crc32Step (crc : BitVec 32) : BitVec 32 :=
  if crc.toNat % 2 = 1 then (crc >>> 1) ^^^ 0xEDB88320#32 else crc >>> 1

/-- CRC-32 carried over one byte. -/
def crc32Byte (crc : BitVec 32) (b : Byte) : BitVec 32 :=
  let x := crc ^^^ BitVec.ofNat 32 b.toNat
  crc32Step (crc32Step (crc32Step (crc32Step (crc32Step (crc32Step (crc32Step (crc32Step x)))))))

/-- CRC-32 carried over a byte sequence, before the final XOR (R447). -/
def crc32Run (crc : BitVec 32) (bs : List Byte) : BitVec 32 := bs.foldl crc32Byte crc

/-- The CRC-32 of IEEE 802.3 of a byte sequence. -/
def crc32 (bs : List Byte) : BitVec 32 := crc32Run 0xFFFFFFFF#32 bs ^^^ 0xFFFFFFFF#32

/-- CRC-32C: one bit at the bottom shifted out (R466). -/
def crc32cStep (crc : BitVec 32) : BitVec 32 :=
  if crc.toNat % 2 = 1 then (crc >>> 1) ^^^ 0x82F63B78#32 else crc >>> 1

/-- CRC-32C carried over one byte. -/
def crc32cByte (crc : BitVec 32) (b : Byte) : BitVec 32 :=
  let x := crc ^^^ BitVec.ofNat 32 b.toNat
  crc32cStep (crc32cStep (crc32cStep (crc32cStep (crc32cStep (crc32cStep (crc32cStep (crc32cStep x)))))))

/-- The CRC-32C of a byte sequence (R466). -/
def crc32c (bs : List Byte) : BitVec 32 := bs.foldl crc32cByte 0xFFFFFFFF#32 ^^^ 0xFFFFFFFF#32

/-- An element put into a list in ascending order of its key, after the elements of an equal key. -/
def insertBy {α : Type} (key : α → Nat) (x : α) : List α → List α
  | [] => [x]
  | y :: t => if key x < key y then x :: y :: t else y :: insertBy key x t

/-- A list in ascending order of a key, elements of an equal key in the order they stood in. -/
def sortBy {α : Type} (key : α → Nat) (l : List α) : List α := l.foldl (fun acc x => insertBy key x acc) []

end Sys2Proof.Machine
end

