-- ==== Sys2Proof/Machine/Image.lean ====
section
/-! DEFINITION. The sections that a checkpoint (R323) and a save image (R356) share: how a spar's registers, crucible slots and loft
ranges are written as bytes and read back. The spec gives the order of the sections and of their contents; where it gives no encoding
of an item, the encoding here is the model's (DESIGN CHOICE, log 40). -/

namespace Sys2Proof.Machine

/-- A byte of an image and how far it comes from poison. -/
abbrev IByte := Byte × Nat

/-- `n` bytes of a number, clean. -/
def num (n v : Nat) : List IByte := (leBytes n v).map (fun b => (b, 0))

/-- The data bytes of an image. -/
def plain (l : List IByte) : List Byte := l.map (fun b => b.1)

/-- The bytes of an image written from `a` on; what would lie outside `lo` to `hi` is not written (R510, R538). `src` is coded as HBM_LAST_UE.SRC, for the read
of a codeword that is written in part (R505). -/
def State.putImage (s : State) (src lo hi a : Nat) (l : List IByte) : State :=
  let ws := (l.zipIdx.map (fun b => (a + b.2, b.1.1, b.1.2))).filter (fun w => decide (lo ≤ w.1 ∧ w.1 < hi))
  { s.hbmMerge src ws with hbm := s.hbm.write ws }

/-- `n` bytes of an image read back, as a number. -/
def State.imgNum (s : State) (a n : Nat) : Nat := fromLe ((List.range n).map (fun i => (s.hbm.fetch (a + i)).1))

/-- `n` bytes of an image read back. -/
def State.imgBytes (s : State) (a n : Nat) : List Byte := (List.range n).map (fun i => (s.hbm.fetch (a + i)).1)

/-! ### Crucible -/

/-- An entry's half as stored. -/
def halfOf (s : State) (spar h e : Nat) : Half := smGet ⟨0, 0, false⟩ s.fab.crucible ((32 * spar + h) * 4096 + e)

/-- A descriptor record: compact view in byte 0, the anchor in bytes 2 and 3. -/
def descrBytes (s : State) (spar h : Nat) : List IByte :=
  let d := smGet ⟨false, 0⟩ s.fab.descr (32 * spar + h)
  num 1 (b2n d.compact) ++ num 1 0 ++ num 2 (lowBits 16 d.anchor)

/-- A half of an entry as the sections hold it: nothing of it where its compact slot is none of `use`. -/
def heldHalf (s : State) (use spar h e : Nat) : Half := if bitOf use h then halfOf s spar h e else ⟨0, 0, false⟩

/-- An entry of full slot k: 96 value bits, two poison bits, 30 zero bits. A half whose parity mismatches is delivered poisoned (R84). -/
def entryBytes (s : State) (use spar k e : Nat) : List IByte :=
  let lo := heldHalf s use spar (2 * k) e
  let hi := heldHalf s use spar (2 * k + 1) e
  let bad := lo.perr || hi.perr
  let p (x : Half) : Nat := b2n (bad || decide (x.poison ≠ 0))
  num 12 (lo.bits.toNat + hi.bits.toNat * 2 ^ 48) ++ num 4 (p lo + 2 * p hi)

/-- The 4,096 entries of a full slot. -/
def slotBytes (s : State) (use spar k : Nat) : List IByte := (List.range 4096).flatMap (entryBytes s use spar k)

/-- The entries of a full slot whose parity mismatches: each read counts SPAR_CRUC_PERR (R84). -/
def slotPerr (s : State) (use spar k : Nat) : Nat :=
  ((List.range 4096).filter (fun e => (heldHalf s use spar (2 * k) e).perr || (heldHalf s use spar (2 * k + 1) e).perr)).length

/-- A descriptor record read back. -/
def readDescr (s : State) (a spar h : Nat) : State :=
  let d : Descr := ⟨decide (s.imgNum a 1 = 1), toSigned 16 (s.imgNum (a + 2) 2)⟩
  { s with fab := { s.fab with descr := smPut ⟨false, 0⟩ s.fab.descr (32 * spar + h) d } }

/-- The halves of a full slot that `use` names read back: fresh parity, poison as written. -/
def readSlot (s : State) (use a spar k : Nat) : State :=
  let put (m : List (Nat × Half)) (h e : Nat) (x : Half) : List (Nat × Half) :=
    if bitOf use h then smPut ⟨0, 0, false⟩ m ((32 * spar + h) * 4096 + e) x else m
  let one (m : List (Nat × Half)) (e : Nat) : List (Nat × Half) :=
    let v := s.imgNum (a + 16 * e) 12
    let p := s.imgNum (a + 16 * e + 12) 4
    put (put m (2 * k) e ⟨BitVec.ofNat 48 v, p % 2, false⟩) (2 * k + 1) e ⟨BitVec.ofNat 48 (v / 2 ^ 48), p / 2 % 2, false⟩
  { s with fab := { s.fab with crucible := (List.range 4096).foldl one s.fab.crucible } }

/-! ### Loft -/

/-- Bytes of a bay: an uncorrectable or marked codeword is written with the poison mark (R323, R356). -/
def bayBytes (s : State) (spar ofs len : Nat) : List IByte := s.fab.loft.fetchN (bayKey spar ofs) len

/-- Bytes of a bay read back. -/
def readBay (s : State) (a spar ofs len : Nat) : State :=
  s.setLoft (s.fab.loft.write ((List.range len).map (fun i =>
    let b := s.hbm.fetch (a + i)
    (bayKey spar (ofs + i), b.1, b.2))))

end Sys2Proof.Machine
end

