-- ==== Sys2Proof/Machine/Clear.lean ====
section
/-! DEFINITION. The clears of counters: writes of 1 to a WO bit of a clear register (R75, R76, R526, R527, R589). Each is accepted from
the display-owning port alone (R638), and those of an absent spar's instance are ignored (R112). -/

namespace Sys2Proof.Machine

/-- A counter of a spar cleared: what it gains in the cycle of the clear stays in it (R76). -/
def freshOnly (a : Nat) (t : State) : State := t.setReg a (BitVec.ofNat 32 (smGet 0 t.fab.fresh a))

/-- The counter that bit b of SPAR_CNT_CLR clears in the instance of logical spar n (R75, R76, R112). -/
def sparClear (n b : Nat) (t : State) : State :=
  if t.absent n then t
  else match b with
    | 0 => freshOnly (A.sparSat n) t
    | 1 => freshOnly (A.sparUfz n) t
    | _ => freshOnly (A.sparPoi n) t

/-- The counter that bit b of HBM_CNT_CLR clears (R526). -/
def hbmClear (b : Nat) (t : State) : State :=
  match b with
  | 0 => t.setReg A.hbmCeCnt 0
  | 1 => t.setReg A.hbmUeCnt 0
  | 2 => t.setReg A.hbmMarkCnt 0
  | 3 => t.setReg A.hbmDefer 0
  | _ => t.setReg A.hbmScrubStat 0

/-- What bit b of LOFT_CNT_CLR clears: for bit 4 every LOFT_BAYn_ERR (R527). -/
def loftClear (b : Nat) (t : State) : State :=
  match b with
  | 0 => t.setReg A.loftCeCnt 0
  | 1 => t.setReg A.loftUeCnt 0
  | 2 => t.setReg A.loftMarkCnt 0
  | 3 => t.setReg A.loftScrubStat 0
  | _ => (List.range 64).foldl (fun u n => u.setReg (A.loftBayErr n) 0) t

/-- The field of PWR_CNT that bit b of PWR_CNT_CLR clears (R589). -/
def pwrClear (b : Nat) (t : State) : State := if b = 0 then t.setRf A.pwrCnt 15 0 0 else t.setRf A.pwrCnt 31 16 0

/-- A write of bit b alone to a clear register. -/
def clearBit (p : Fin 4) (a b : Nat) (f : Nat → State → State) (s : State) : Host.Outcome State Fault Refusal :=
  fromPort p s (s.ownerWrite p a (BitVec.ofNat 32 (2 ^ b)) (f b))

def execSparClrSat (p : Fin 4) (n : Fin 64) (s : State) : Host.Outcome State Fault Refusal := clearBit p (A.sparCntClr n) 0 (sparClear n) s
def execSparClrUfz (p : Fin 4) (n : Fin 64) (s : State) : Host.Outcome State Fault Refusal := clearBit p (A.sparCntClr n) 1 (sparClear n) s
def execSparClrPoi (p : Fin 4) (n : Fin 64) (s : State) : Host.Outcome State Fault Refusal := clearBit p (A.sparCntClr n) 2 (sparClear n) s

def execHbmClrCe (p : Fin 4) (s : State) : Host.Outcome State Fault Refusal := clearBit p A.hbmCntClr 0 hbmClear s
def execHbmClrUe (p : Fin 4) (s : State) : Host.Outcome State Fault Refusal := clearBit p A.hbmCntClr 1 hbmClear s
def execHbmClrMark (p : Fin 4) (s : State) : Host.Outcome State Fault Refusal := clearBit p A.hbmCntClr 2 hbmClear s
def execHbmClrDefer (p : Fin 4) (s : State) : Host.Outcome State Fault Refusal := clearBit p A.hbmCntClr 3 hbmClear s
def execHbmClrScrub (p : Fin 4) (s : State) : Host.Outcome State Fault Refusal := clearBit p A.hbmCntClr 4 hbmClear s

def execLoftClrCe (p : Fin 4) (s : State) : Host.Outcome State Fault Refusal := clearBit p A.loftCntClr 0 loftClear s
def execLoftClrUe (p : Fin 4) (s : State) : Host.Outcome State Fault Refusal := clearBit p A.loftCntClr 1 loftClear s
def execLoftClrMark (p : Fin 4) (s : State) : Host.Outcome State Fault Refusal := clearBit p A.loftCntClr 2 loftClear s
def execLoftClrScrub (p : Fin 4) (s : State) : Host.Outcome State Fault Refusal := clearBit p A.loftCntClr 3 loftClear s
def execLoftClrBay (p : Fin 4) (s : State) : Host.Outcome State Fault Refusal := clearBit p A.loftCntClr 4 loftClear s

def execPwrClrChanges (p : Fin 4) (s : State) : Host.Outcome State Fault Refusal := clearBit p A.pwrCntClr 0 pwrClear s
def execPwrClrTherm (p : Fin 4) (s : State) : Host.Outcome State Fault Refusal := clearBit p A.pwrCntClr 1 pwrClear s

end Sys2Proof.Machine
end

