-- ==== Sys2Proof/Config.lean ====
section
/-! DEFINITION. What the spec leaves open: values that no rule states. Each is opaque: nothing in Lean can evaluate it or
prove a value of it, so every claim holds whatever it is. -/

namespace Sys2Proof

/-- The most negative finite code with which TLOAD pads elements of 8 or 16 bits (R219, R248): the word names an element size
and no format. -/
opaque Config.tloadLowPad : Nat → Nat

/-- Byte k of the data that the gathers of one IDXR write where an index entry of it is poisoned (R506): the codewords carry M = 1 and no
rule gives their data. The first argument is the spar and the gather's entries as delivered: written data depends on no history (R325). -/
opaque Config.idxrFill : List Nat → Nat → Byte

/-- How long after the cycle in which a planisher word of an occupancy completes an output, in its cycle k, it issues the write of group g of it: the
chapter gives the latency of the last one only, and the cycle enters the line signature (R227, R337). -/
opaque Config.planDelay : Nat → Nat → Nat → Nat

/-- The U16 poison code of a PLAST whose BITS field is reserved (R286, R287). -/
opaque Config.plastPoison : Nat → Nat

/-- The 8-bit poison code of a PCROP whose KIND field is reserved (R286, R287, R295). -/
opaque Config.pcropPoison : Nat → Nat

/-- Byte k of what a PSHUF with an invalid parameter block writes, by its header: a PSHUF has no output format, so no rule gives its poison
code (R286, R293). And the POI it counts where the header's ESZ is the reserved field, which leaves the number of elements unknown. -/
opaque Config.pshufByte : Nat → Nat → Byte
opaque Config.pshufPoi : Nat → Nat

/-- The rate-control bytes of the DSC picture parameter set, by bits per component and bits per pixel × 16, and the bytes of a slice's chunk of a line, by the
parameter set and the codes of the slice up to that line: DSC 1.2a gives them, and no rule does (R381). -/
opaque Config.dscRate : Nat → Nat → List Byte
opaque Config.dscChunk : List Byte → List Nat → List Byte

/-- How far the time of day advances, in 2^−16 ns, while the raster time counter advances by so many raster units under the frequency
correction of a measurement: no rule gives the servo's loop (R456). The first argument is the correction's number. -/
opaque Config.todAdvance : Nat → Nat → Nat

/-- The phase correction, in 2^−16 ns, that a measurement of the given offset makes: no rule gives it (R456). -/
opaque Config.todPhase : Nat → Int → Int

/-- How long one PHY calibration step occupies the stack, in ns: no rule gives it (R516). -/
opaque Config.calTime : Nat

/-- clockAccuracy and offsetScaledLogVariance of the part's own data set: no rule gives them (R452). -/
opaque Config.ptpAccuracy : BitVec 8
opaque Config.ptpVariance : BitVec 16

/-- The rows of the stack that post-package repair can replace: no rule gives their number (R520, R526). -/
opaque Config.pprRows : Nat

/-- KEY_HASHk, SHA-384 of root public key k: blown at the factory, and no rule gives them (R601). -/
opaque Config.keyHash : Nat → Nat

/-- The JTAG port's instruction codes, the least significant bit first, and its boundary cells: no rule gives them (R606). -/
opaque Config.tapCode : Nat → List Bool
opaque Config.tapIrLen : Nat
opaque Config.tapCells : Nat

/-- The words of a port's configuration space that no rule gives: the command and status bits but for Memory Space Enable and Bus Master Enable,
and the capability structures (R529). -/
opaque Config.cfgSpace : Nat → BitVec 32

end Sys2Proof
end

