-- ==== Sys2Proof/Machine/Raster.lean ====
section
/-! DEFINITION. The timing generator and the halyard (R19 to R27, R364 to R377, R401, R407 to R409): line lengths, ticks,
references, the update point; the lead check of line stores (R45, R206, R410). -/

namespace Sys2Proof.Machine

/-! ### Lines -/

/-- K_r: raster units in a CK cycle at a reef level (R364). -/
def ruPerCk (reef : Nat) : Nat := match reef with | 0 => 12 | 1 => 15 | 2 => 20 | _ => 30

/-- P_min of a line period in picoseconds at a reef level, from f_CK = 24 / K_r GHz (R25, R365). -/
def pMin (ps reef : Nat) : Nat := ps * 24 * 9997 / (ruPerCk reef * 1000 * 10000)

/-- The issue window W = P_min − 256. -/
def issueW (ps reef : Nat) : Nat := pMin ps reef - 256

/-- P_max of a nominal line period of num / den ns (R365). -/
def pMax (num den reef : Nat) : Nat := ceilDiv (num * 24 * 10003) (max 1 den * ruPerCk reef * 10000)

/-- n_nom in units of 2^−16 ru (R365). -/
def nNomOf (num den : Nat) : Nat := (rneDiv ((num * 24 * 65536 : Nat) : Int) (max 1 den)).toNat

/-- n_nom of the mode in force. -/
def State.nNom (s : State) : Nat := nNomOf s.rast.tNum s.rast.tDen

/-- The line in progress is an extension line (R408). -/
def State.inExt (s : State) : Bool := decide (s.rast.linesTotal ≤ s.rast.line)

/-- The line in progress is one of the four slack lines, or an extension line (R34, R408). -/
def State.slackLine (s : State) : Bool :=
  s.inExt || decide (s.rast.linesActive ≤ s.rast.line ∧ s.rast.line < s.rast.linesActive + 4)

/-- The length P_k of the line in progress and the remainder it leaves (R366). The extension lines of a jump are each P_max
cycles long (R377). -/
def lineLen (s : State) : Nat × Nat :=
  let k := ruPerCk s.rast.reef
  let x : Int := (s.rast.sync.frac : Int) + s.rast.sync.nEst + s.rast.sync.c
  let unit : Nat := k * 65536
  let lo := pMin s.rast.linePeriod s.rast.reef
  let hi := pMax s.rast.tNum s.rast.tDen s.rast.reef
  let p := min (max (x / unit).toNat lo) hi
  if s.rast.sync.jump ∧ s.inExt then (hi, s.rast.sync.frac)
  else (p, (min (max (x - (p : Int) * unit) 0) ((unit : Int) - 1)).toNat)

/-- OFFSET of RAST_SYNC_OFS in raster units (R370). -/
def State.syncOfs (s : State) : Int := sfld (s.reg A.rastSyncOfs) 31 0 * 24

/-- The signed distance of two raster times (R12). -/
def ruDiff (a b : Nat) : Int := signedDiff 64 (a : Int) (b : Int)

/-- The Adaptive-Sync mode in force: off while the virtual raster runs (R407). -/
def State.adaptMode (s : State) : Nat := if s.rf A.rastOutCtl 0 0 = 1 then s.rf A.rastAdapt 1 0 else 0

/-- An input frame start after the update point, plus OFFSET, has come by raster time `t` (R409). -/
def inputCame (s : State) (t : Nat) : Bool :=
  s.rast.sync.refs.any (fun r => decide (r.src = 2 ∧ 0 < ruDiff r.t s.rast.sync.tU ∧ ruDiff r.t t + s.syncOfs ≤ 0))

/-- The frame ends with the line in progress, whose end is at raster time `t`: at the base frame end (R401), after EXT lines, at
the first input frame start after the update point in follow mode (R409), or with the extension line during which the reference that a jump waits for, plus OFFSET,
falls (R377). -/
def frameEnds (s : State) (t : Nat) : Bool :=
  let l := s.rast.line
  let lt := s.rast.linesTotal
  let ofs := s.syncOfs
  -- a jump's extension lines are P_max cycles each: how long ago, from t, the first of them began
  let ext := (l + 1 - lt) * pMax s.rast.tNum s.rast.tDen s.rast.reef * ruPerCk s.rast.reef
  if l + 1 < lt then false
  else if s.rast.sync.jump then
    decide (8191 ≤ l) || (s.rast.sync.refs.any (fun r =>
      let d := ruDiff r.t t + ofs
      decide (r.src = s.rf A.rastSyncStat 6 4 ∧ -(ext : Int) ≤ d ∧ d < 0)))
  else match s.adaptMode with
    | 1 => decide (lt + s.rf A.rastAdapt 15 3 ≤ l + 1)
    | 2 => decide (lt + s.rf A.rastAdapt 28 16 ≤ l + 1) || inputCame s t
    | _ => true

/-- The commit cut line of the frame (R399). -/
def cutLine (s : State) : Nat := s.rast.linesTotal - s.rf A.rastCommit 15 8

/-- A landing at cycle c of the line in progress is in time for the commit cut line (R399). -/
def byCut (s : State) (c : Nat) : Bool := decide (s.rast.line < cutLine s ∨ (s.rast.line = cutLine s ∧ c = 0))

/-! ### Line signatures -/

/-- The 76 bytes of an entry of a line signature (R337). -/
def sigEntryBytes (e : SigEntry) : List Byte :=
  leBytes 2 e.c ++ leBytes 1 e.col ++ leBytes 1 (b2n e.mark) ++ leBytes 8 e.enable ++ e.data

/-- The line signature of spar n over the writes of the line in progress, whose issue window is `w` cycles (R337). -/
def lineSig (es : List SigEntry) (w n : Nat) : BitVec 64 :=
  let mine := es.filter (fun e => e.spar = n ∧ e.c < w)
  crc64 0 ((sortBy (fun e => e.c * 8 + e.col) mine).flatMap sigEntryBytes)

/-- The line in progress has ended after `p` cycles: each spar's line signature is formed, and entries of the next line carry over. -/
def closeLine (p : Nat) (s : State) : State :=
  let w := issueW s.rast.linePeriod s.rast.reef
  let es := s.rcd.entries
  let spars := uniq (es.map (fun e => e.spar))
  let sigs := spars.map (fun n => (64 * s.rast.line + n, lineSig es w n))
  let rest := (es.filter (fun e => p ≤ e.c)).map (fun e => { e with c := e.c - p })
  { s with rcd := { s.rcd with cycles := (s.rcd.cycles + p) % 2 ^ 32, lineSigs := smPutAll 0 s.rcd.lineSigs sigs, entries := rest } }

/-! ### Time of day -/

/-- The time of day as a number of 2^−16 ns. -/
def Tod.units (t : Tod) : Nat := (t.sec * 10 ^ 9 + t.ns) * 65536 + t.frac

/-- A time of day from a number of 2^−16 ns. Seconds are 48 bits (R450). -/
def Tod.ofUnits (u rem : Nat) (corr : Option Nat) : Tod :=
  ⟨u / 65536 / 10 ^ 9 % 2 ^ 48, u / 65536 % 10 ^ 9, u % 65536, rem, corr⟩

/-- The time of day after `ru` raster units: at the REFCLK rate, or under the frequency correction in force (R450, R456). -/
def Tod.advance (t : Tod) (ru : Nat) : Tod :=
  match t.corr with
  | none => let u := ru * 65536 + t.rem; Tod.ofUnits (t.units + u / 24) (u % 24) none
  | some k => Tod.ofUnits (t.units + Config.todAdvance k ru) t.rem (some k)

/-! ### References -/

/-- TIME_STAT.USABLE. -/
def State.timeUsable (s : State) : Bool := decide (s.rf A.timeStat 3 3 = 1)

/-- An edge of GENLOCK or TE clears its STUCK and LEVEL (R610). -/
def edgeSeen (src : Nat) (s : State) : State :=
  if src = 0 then s.setRf A.safeEnv 2 1 0 else if src = 1 then s.setRf A.safeEnv 4 3 0 else s

/-- The time of day at a raster time of the frame in progress, in 2^−16 ns. -/
def todUnits (s : State) (t : Nat) : Option Nat :=
  if 0 ≤ ruDiff t s.rast.time.toNat then some (s.tod.advance (ruDiff t s.rast.time.toNat).toNat).units
  else if 0 ≤ ruDiff t s.rast.t0.toNat then some (s.rast.tod0.advance (ruDiff t s.rast.t0.toNat).toNat).units
  else none

/-- NUM and DEN of the alignment points: RAST_SYNC_NUM and DEN, and RAST_VR_RATE while the raster is virtual (R372). -/
def alignRate (s : State) : Nat × Nat :=
  if s.rf A.rastOutCtl 0 0 = 1 then ((s.reg A.rastSyncNum).toNat, (s.reg A.rastSyncDen).toNat)
  else (s.rf A.rastVrRate 31 16, s.rf A.rastVrRate 15 0)

/-- Alignment point `k` falls in the raster unit that ends at `t`: at k × DEN / NUM seconds of a usable time of day (R372). -/
def aligned (s : State) (t k : Nat) : Bool :=
  let r := alignRate s
  match todUnits s t with
  | some u =>
    let p := k * r.2 * 10 ^ 9 * 65536
    s.timeUsable && decide (p ≤ u * r.1 ∧ 24 * (u * r.1 - p) < 65536 * r.1)
  | none => false

/-- A reference event of source code `src` at raster time `t` (R368, R370): of GENLOCK and TE the edge that EDGE selects; of PTP an alignment point, whose number is
`k`. An event of a source that is neither in use nor watched is not seen. -/
def referenceEvent (src : Nat) (falling : Bool) (t : BitVec 64) (k : BitVec 48) (s0 : State) : State :=
  let s := edgeSeen src s0
  let inUse := decide (src = s.rf A.rastSyncStat 6 4)
  let watched := decide (src = s.rf A.rastSyncCtl 2 0 ∧ s.rf A.rastSyncCtl 7 7 = 1)
  let comes : Bool := match src with
    | 0 => decide (s.rf A.rastSyncCtl 8 8 = b2n falling)
    | 1 => decide (s.rf A.rastSyncCtl 8 8 = b2n falling)
    | 3 => aligned s t.toNat k.toNat
    | _ => true
  if (inUse || watched) && comes then
    { s with rast := { s.rast with sync := { s.rast.sync with refs := s.rast.sync.refs ++ [⟨src, t.toNat, k.toNat⟩] } } }
  else s

def execReferenceEvent (e : RefSource) (t : BitVec 64) (k : BitVec 48) (s : State) : Host.Outcome State Fault Refusal :=
  .next (referenceEvent e.src.val e.falling t k s)

/-! ### The update point -/

/-- DIV of RAST_SYNC_CTL: one reference every so many frames (R369). -/
def State.syncDiv (s : State) : Nat := s.rf A.rastSyncCtl 13 12 + 1

/-- The number of the frame that the generator is in: while the part is paused it counts on from F (R416). -/
def State.genFrame (s : State) : Frame := s.rast.frame + BitVec.ofNat 48 s.rast.sync.ghost

/-- The candidates of a source for the frame in progress: within half a nominal frame period of t_gen(F, 0, 0) − OFFSET (R370). -/
def candidates (s : State) (src : Nat) : List RefEvt :=
  s.rast.sync.refs.filter (fun r => decide (r.src = src ∧
    2 * (ruDiff r.t s.rast.t0.toNat + s.syncOfs).natAbs * s.rast.tDen ≤ s.rast.linesTotal * s.rast.tNum * 24))

/-- n_src of two references DIV frames apart (R367). -/
def nSrc (s : State) (t : Nat) (prev : Option (Frame × Nat)) : Option Nat :=
  match prev with
  | some (f, t') =>
    if s.genFrame - f = BitVec.ofNat 48 s.syncDiv then
      some ((ruDiff t t').toNat * 65536 / (s.syncDiv * max 1 s.rast.linesTotal))
    else none
  | none => none

/-- n_src is out of tolerance (R370). -/
def outOfTol (s : State) (n : Option Nat) : Bool :=
  match n with
  | some n => decide (3 * s.nNom < ((n : Int) - s.nNom).natAbs * 10000)
  | none => false

/-- What an update finds of the reference of the frame in progress: not expected, missing (with the reference to keep, if one came, and
whether several candidates were discarded), or paired with its phase error and interval. -/
inductive RefFound where
  | idle
  | missing (keep : Option Nat) (glitch : Bool)
  | paired (t k : Nat) (phi : Int) (n : Option Nat)
deriving DecidableEq, Repr

/-- The pairing of the frame in progress with a reference of the source in use (R369, R370). In follow mode the frame before is missed
where it reached EXT_MAX, and intervals have no tolerance (R409). -/
def refFound (s : State) (src : Nat) : RefFound :=
  let y := s.rast.sync
  let follow := decide (s.adaptMode = 2)
  let expected := !y.phased || decide (s.syncDiv ≤ y.age + 1)
  let lateAge := decide (s.syncDiv ≤ y.age + 1)
  match candidates s src with
  | [r] =>
    let n := if follow then none else nSrc s r.t y.prev
    if !expected then .idle
    else if outOfTol s n then .missing (some r.t) false
    else .paired r.t r.k (ruDiff r.t s.rast.t0.toNat + s.syncOfs) n
  | [] => if follow then (if y.followMiss then .missing none false else .idle) else if lateAge then .missing none false else .idle
  | _ => if expected then .missing none true else .idle

/-- Division rounded toward zero, by a positive number. -/
def tdivNat (a : Int) (b : Nat) : Int := if 0 ≤ a then a / (b : Int) else -((-a) / (b : Int))

/-- φ saturated to s16 in units of 8 ns. -/
def phaseField (phi : Int) : Nat := lowBits 16 (max (-32768) (min 32767 (tdivNat phi 192)))

/-- The state of the generator set: STATE of RAST_SYNC_STAT. -/
def State.setSyncState (s : State) (st : Nat) : State := s.setRf A.rastSyncStat 1 0 st

def State.setSync (s : State) (y : Sync) : State := { s with rast := { s.rast with sync := y } }

/-- A source takes effect (R374, R375, R376): GLITCH clears with `clear`; FREE for free-run, otherwise ACQUIRE. Codes above 4 are not selectable (R368): one of
them leaves the source in use. -/
def takeSource (src : Nat) (clear : Bool) (s : State) : State :=
  if 4 < src then s else
  let s1 := (s.setRf A.rastSyncStat 6 4 src).setSyncState (if src < 4 then 1 else 0)
  let s2 := if clear then s1.setRf A.rastSyncStat 15 8 0 else s1
  s2.setSync { s2.rast.sync with
    nEst := if src < 4 then s2.rast.sync.nEst else s2.nNom, c := 0, prev := none, age := 0, phased := false, misses := 0, inWin := 0,
    holdGood := 0, holdCnt := 0, watchPrev := none, watchGood := 0, jump := false }

/-- Follow mode holds n_est = n_nom and c = 0 (R409). -/
def holdFollow (s : State) : State :=
  if s.adaptMode = 2 then s.setSync { s.rast.sync with nEst := s.nNom, c := 0 } else s

/-- c and n_est updated from a paired reference (R367). -/
def followRef (s : State) (phi : Int) (n : Option Nat) (y : Sync) : Sync :=
  let est := match n with
    | some v => ((y.nEst : Int) + tdivNat ((v : Int) - y.nEst) 8).toNat
    | none => y.nEst
  { y with c := tdivNat (phi * 65536) (4 * max 1 s.rast.linesTotal), nEst := est }

/-- LOCK_WIN in raster units. -/
def State.lockWin (s : State) : Nat := s.rf A.rastSyncWin 15 0 * 24

/-- The counters of a frame whose reference was paired at `t`. -/
def pairedSync (s : State) (t : Nat) (y : Sync) : Sync :=
  { y with prev := some (s.genFrame, t), age := 0, phased := true, misses := 0 }

/-- A paired reference in each state (R375, R377). -/
def onPaired (t k : Nat) (phi : Int) (n : Option Nat) (s : State) : State :=
  let s0 := s.setRf A.rastSyncStat 31 16 (phaseField phi)
  let y := { pairedSync s t s0.rast.sync with phi := phi, kRef := k }
  let src := s.rf A.rastSyncStat 6 4
  match s.rf A.rastSyncStat 1 0 with
  | 1 =>
    let near := decide (phi.natAbs ≤ s.lockWin)
    let jump := !near && !s.rast.paused && decide (s.rf A.rastSyncCtl 9 9 = 1 ∧ s.rf A.rastOutCtl 0 0 = 0)
    let y0 := followRef s phi n y
    let y1 : Sync := { y0 with
      inWin := if near then y.inWin + 1 else 0
      jump := jump
      c := if jump then 0 else y0.c }
    if 4 ≤ y1.inWin then
      ((s0.setSync { y1 with fsetArm := !y1.fsetDone }).setSyncState 2).post [s.owner] 0x0201 [s.vF, (1, src)]
    else s0.setSync y1
  | 2 =>
    let y1 := followRef s phi n y
    if 2 * s.lockWin < phi.natAbs then (s0.setSync { y1 with inWin := 0 }).setSyncState 1 else s0.setSync y1
  | 3 =>
    if 1 ≤ y.holdGood then (s0.setSync { followRef s phi n y with inWin := 0, holdGood := 0, holdCnt := 0 }).setSyncState 1
    else s0.setSync { y with holdGood := y.holdGood + 1, holdCnt := y.holdCnt + 1, c := 0 }
  | _ => s0

/-- The fallback of R376 where HOLD_FRAMES updates in HOLDOVER have passed; a code that is not selectable is none (R368). -/
def holdExpire (s : State) : State :=
  let lim := s.rf A.rastSyncWin 31 16
  if s.rf A.rastSyncStat 1 0 = 3 ∧ lim ≠ 0 ∧ lim ≤ s.rast.sync.holdCnt ∧ s.rf A.rastSyncCtl 6 4 ≤ 4 then
    let old := s.rf A.rastSyncStat 6 4
    let new := s.rf A.rastSyncCtl 6 4
    (takeSource new false s).post [s.owner] 0x0203 [s.vF, (1, old), (1, new)]
  else s

/-- A missing reference in each state (R367, R370, R375). -/
def onMissing (keep : Option Nat) (glitch : Bool) (s : State) : State :=
  let s0 := if glitch then s.bump A.rastSyncStat 15 8 1 else s
  let y := s0.rast.sync
  let src := s.rf A.rastSyncStat 6 4
  let y1 : Sync := { y with
    prev := (match keep with | some t => some (s.genFrame, t) | none => y.prev)
    age := 0, phased := y.phased || keep.isSome, c := 0, inWin := 0, misses := y.misses + 1, holdGood := 0 }
  match s.rf A.rastSyncStat 1 0 with
  | 3 => s0.setSync { y1 with holdCnt := y.holdCnt + 1 }
  | 0 => s0
  | _ =>
    if 2 ≤ y1.misses then
      ((s0.setSync { y1 with holdCnt := 0 }).setSyncState 3).post [s.owner] 0x0202 [s.vF, (1, src)]
    else s0.setSync y1

/-- A frame whose reference is not expected: c is 0 and n_est is unchanged (R367, R369). -/
def onIdle (s : State) : State :=
  let y := s.rast.sync
  s.setSync { y with age := y.age + 1, c := 0, holdCnt := if s.rf A.rastSyncStat 1 0 = 3 then y.holdCnt + 1 else y.holdCnt }

/-- The watch of the primary source while the fallback runs (R376). -/
def watchPrimary (s : State) : State :=
  let prim := s.rf A.rastSyncCtl 2 0
  if prim = s.rf A.rastSyncStat 6 4 ∨ s.rf A.rastSyncCtl 7 7 = 0 then s else
  match candidates s prim with
  | [r] =>
    let y := s.rast.sync
    let n := nSrc s r.t y.watchPrev
    let good := if outOfTol s n then 0 else if n.isSome then y.watchGood + 1 else 1
    if 2 ≤ good then (takeSource prim true s).post [s.owner] 0x0204 [s.vF, (1, prim)]
    else s.setSync { y with watchPrev := some (s.genFrame, r.t), watchGood := good }
  | _ => s

/-- Reference events that no later frame can pair are dropped, and the time of the update point is kept. -/
def dropRefs (s : State) : State :=
  let y := s.rast.sync
  let later (r : RefEvt) : Bool := decide (((s.rast.linesTotal * s.rast.tNum * 24 : Nat) : Int) <
    2 * (ruDiff r.t s.rast.t0.toNat + s.syncOfs) * s.rast.tDen)
  s.setSync { y with refs := y.refs.filter later, tU := s.rast.time.toNat }

/-- The update of R367 and the transitions of R375 to R377. -/
def updateGen (s : State) : State :=
  let src := s.rf A.rastSyncStat 6 4
  let s1 := if src = 4 then s.setSync { s.rast.sync with c := 0, nEst := s.nNom } else
    match refFound s src with
    | .idle => onIdle s
    | .missing k g => onMissing k g s
    | .paired t k phi n => onPaired t k phi n s
  dropRefs (holdFollow (watchPrimary (holdExpire s1)))

/-- The raster after a line that the generator makes without a tick. -/
def ghostLine (s : State) : State :=
  let len := lineLen s
  let ru := len.1 * ruPerCk s.rast.reef
  { s with
    tod := s.tod.advance ru
    rast := { s.rast with
      time := s.rast.time + BitVec.ofNat 64 ru
      sync := { s.rast.sync with frac := len.2 } } }

/-- `n` such lines. -/
def ghostLines : Nat → State → State
  | 0, s => s
  | n + 1, s => ghostLines n (ghostLine s)

/-- The lines from `l` to the end of the generator's frame, at most `n` (R401, R409). -/
def ghostEnd : Nat → Nat → State → State
  | 0, _, s => s
  | n + 1, l, s =>
    let t := ghostLine s
    if frameEnds { t with rast := { t.rast with line := l } } t.rast.time.toNat then t else ghostEnd n (l + 1) t

/-- U of R367. -/
def State.updLine (s : State) : Nat := ceilDiv s.rast.linesTotal 2

/-- While the part is paused: the end of the frame that the generator is in, of which the update point has passed (R358, R416). The frame in which
the pause began has ended. -/
def ghostFinish (s : State) : State :=
  if s.rast.sync.ghost = 0 then s else ghostEnd (s.rast.linesTotal + 8192) s.updLine s

/-- While the part is paused: the generator's next frame, up to its update point (R416). -/
def ghostFrame (s : State) : State :=
  let t := ghostFinish s
  ghostLines t.updLine { t with rast := { t.rast with t0 := t.rast.time, tod0 := t.tod, sync := { t.rast.sync with ghost := t.rast.sync.ghost + 1 } } }

/-- The update point (R367). While the part is paused it is the one of the generator's next frame (R416). -/
def updatePoint (s : State) : State :=
  if s.halted then s else updateGen (if s.rast.paused then ghostFrame s else s)

def execUpdatePoint (s : State) : Host.Outcome State Fault Refusal := .next (updatePoint s)

end Sys2Proof.Machine
end

