-- ==== Sys2Proof/Machine/Ptp.lean ====
section
/-! DEFINITION. The time of day (R450 to R459): PTP on the 25GBASE-R port, the servo, refused and accepted steps, and the place of the part in
its fleet's time tree (R475, R478, R479). -/

namespace Sys2Proof.Machine

/-! ### Times -/

/-- A value held as s64. -/
def s64 (v : Int) : Int := toSigned 64 (lowBits 64 v)

/-- The time of day `ru` raster units after the tick of the line in progress, in 2^−16 ns. -/
def State.todAt (s : State) (ru : Nat) : Int := ((s.tod.advance ru).units : Int)

def stampUnits (t : Stamp) : Int := ((t.sec.toNat * 10 ^ 9 + t.ns.toNat) * 65536 : Nat)

/-- The seconds and nanoseconds of a time. -/
def stampOf (u : Int) : Stamp := let t := Tod.ofUnits u.toNat 0 none; ⟨BitVec.ofNat 48 t.sec, BitVec.ofNat 32 t.ns⟩

/-- A register of picoseconds, in 2^−16 ns. -/
def State.psReg (s : State) (a : Nat) : Int := tdivNat (sfld (s.reg a) 31 0 * 65536) 1000

/-- A time in picoseconds, s32 saturating, as a register word. -/
def psWord (u : Int) : Word := BitVec.ofInt 32 (max (-2147483648) (min 2147483647 (tdivNat (u * 1000) 65536)))

/-- A time in microseconds, s32 saturating, as a payload value. -/
def usValue (u : Int) : Nat × Nat := (4, lowBits 32 (max (-2147483648) (min 2147483647 (tdivNat u 65536000))))

/-- The time of day moved by a signed time. -/
def Tod.shift (t : Tod) (d : Int) : Tod :=
  Tod.ofUnits (((t.units : Int) + d) % ((2 ^ 48 * 10 ^ 9 * 65536 : Nat) : Int)).toNat t.rem t.corr

def State.setPtp (s : State) (p : Ptp) : State := { s with ptp := p }

/-! ### The servo -/

/-- STATE of TIME_STAT: 0 FREERUN, 1 ACQUIRE, 2 LOCKED, 3 HOLDOVER. -/
def State.servo (s : State) : Nat := s.rf A.timeStat 1 0

def State.timeMode (s : State) : Nat := s.rf A.timeCtl 1 0

/-- PORT of TIME_STAT. -/
def State.ptpPort (s : State) : Nat := s.rf A.timeStat 6 4

def State.setPtpPort (s : State) (v : Nat) : State := s.setRf A.timeStat 6 4 v

/-- The servo enters a state (R456, R459), with the cause of a holdover. -/
def State.setServo (s : State) (st cause : Nat) : State :=
  let old := s.servo
  if old = st then s else
  let use := decide (2 ≤ st)
  let s1 := (s.setRf A.timeStat 1 0 st).setRf A.timeStat 3 3 (b2n use)
  let s2 := s1.setPtp { s1.ptp with good := 0 }
  let s3 := if st = 2 then s2.post s2.ports 0x0500 [s2.vF, (1, s2.timeMode)]
    else if st = 3 then s2.post s2.ports 0x0501 [s2.vF, (1, cause)] else s2
  if 2 ≤ old ∧ !use then s3.post s3.ports 0x0504 [s3.vF] else s3

/-- A master or parent is lost: ACQUIRE and LOCKED go to HOLDOVER (R456). -/
def servoLoss (s : State) : State := if s.servo = 1 ∨ s.servo = 2 then s.setServo 3 0 else s

/-- A master or parent is selected: FREERUN goes to ACQUIRE unless MODE is 0b00 (R456). -/
def servoSelect (s : State) : State := if s.servo = 0 ∧ s.timeMode ≠ 0 then s.setServo 1 0 else s

/-- A step of the time by a signed time: TIME_EPOCH.STEP becomes `step`, and event 0x0503 carries the offset (R458, R476). The measurements that count for LOCKED
begin anew (R456). -/
def timeStep (d off : Int) (step : Nat) (s : State) : State :=
  let s1 := { s with tod := s.tod.shift d }
  let s2 := (s1.setRf A.timeEpoch 15 0 step).setRf A.timeStat 2 2 1
  (s2.setPtp { s2.ptp with good := 0 }).post s2.ports 0x0503 [s2.vF, usValue off, (2, step % 65536)]

/-- A measurement applied: the phase and the frequency are corrected, by amounts no rule gives (R456). -/
def servoApply (off : Int) (s : State) : State :=
  let k := s.free
  let t := s.tod.shift (Config.todPhase k off)
  { s with tod := { t with corr := some k }, free := k + 1 }

/-- A measurement within threshold (R456). In HOLDOVER it is not applied. -/
def servoNormal (off : Int) (s : State) : State :=
  let lock : Int := s.rf A.timeHold 31 16 * 65536
  match s.servo with
  | 1 =>
    let s1 := servoApply off s
    let good := if off.natAbs ≤ lock.toNat then s1.ptp.good + 1 else 0
    let s2 := s1.setPtp { s1.ptp with good := good }
    if 8 ≤ good then s2.setServo 2 0 else s2
  | 2 =>
    let s1 := servoApply off s
    if 2 * lock.toNat < off.natAbs then s1.setServo 1 0 else s1
  | 3 => s.setServo 1 0
  | _ => s

/-- An offset measurement, local minus reference, in 2^−16 ns (R456 to R458). -/
def measure (off : Int) (s : State) : State :=
  let s0 := servoSelect ((s.setReg A.timeOffset (psWord off)).setPtp { s.ptp with off := off })
  let far := decide (s.rf A.timeJump 23 0 * 65536000 < off.natAbs)
  let accept := decide (s.rf A.timeCtl 31 31 = 1)
  let s1 := s0.setRf A.timeCtl 31 31 0
  if s.rf A.timeStat 2 2 = 0 ∨ (far ∧ accept) then
    ((timeStep (-off) off ((s.rf A.timeEpoch 15 0 + 1) % 65536) s1).evt 5).setServo 1 0
  else if far then
    let s2 := (s1.bump A.timeStat 15 8 1).evt 5
    let s3 := if s2.ptp.told then s2
      else (s2.setPtp { s2.ptp with told := true }).post s2.ports 0x0502 [s2.vF, usValue off]
    s3.setServo 3 1
  else servoNormal off (s1.setPtp { s1.ptp with told := false })

/-! ### The torus -/

/-- The size of dimension d (R480). -/
def State.dim (s : State) (d : Nat) : Nat := s.rf A.linkFleetDim (8 * d + 4) (8 * d) + 1

/-- Coordinate d of an address register. -/
def State.coord (s : State) (a d : Nat) : Nat := s.rf a (8 * d + 4) (8 * d)

/-- The port toward the parent, none at the root (R475). -/
def parentPort (s : State) : Option Nat :=
  (List.range 3).findSome? (fun d =>
    let me := s.coord A.linkFleetAddr d
    let root := s.coord A.linkFleetRoot d
    let n := s.dim d
    if me = root then none
    else
      let up := (root + n - me) % n
      some (if up < n - up then 2 * d else 2 * d + 1))

/-- The lock-step port (R347, R348): none while the pair is not enabled. -/
def State.lsPort (s : State) : Option Nat := if s.rf A.linkLsCtl 0 0 = 1 then some (s.rf A.linkLsCtl 6 4) else none

/-- The port is UP with fleet traffic; the lock-step port carries none (R347). -/
def portUp (s : State) (p : Nat) : Bool := decide (s.rf (A.linkPortStat p) 1 0 = 2 ∧ s.lsPort ≠ some p)

/-- The part is a fleet member whose parent's port is UP. -/
def parentUp (s : State) : Bool := match parentPort s with | some p => decide (s.timeMode = 3) && portUp s p | none => false

/-! ### The PTP port -/

/-- The PTP port runs: MODE, EN, a MAC address without the group bit, a clockIdentity, and the link (R452, R453). -/
def ptpOn (s : State) : Bool :=
  decide ((s.timeMode = 1 ∨ s.timeMode = 2) ∧ s.rf A.timeEthCtl 0 0 = 1 ∧ s.ptp.mac.toNat / 2 ^ 40 % 2 = 0 ∧ s.ptp.clk ≠ 0)

/-- The PTP port starts again: LISTENING, FAULTY while the link is down, or DISABLED; what it knew of masters is forgotten. -/
def ptpRestart (s : State) : State :=
  let s1 := s.setPtp { s.ptp with foreign := [], master := none, syncT2 := none, reqT3 := none, xch := none }
  s1.setPtpPort (if !ptpOn s then 0 else if s.rf A.timeEthStat 0 0 = 1 then 1 else 7)

/-- The part's own data set (R451, R452). -/
def ownSet (s : State) : AnnounceSet :=
  ⟨BitVec.ofNat 8 (s.rf A.timePrio 7 0), BitVec.ofNat 8 (s.rf A.timePrio 23 16), Config.ptpAccuracy, Config.ptpVariance,
   BitVec.ofNat 8 (s.rf A.timePrio 15 8), s.ptp.clk, 0, s.ptp.clk, 1⟩

/-- The lexicographic order of lists of numbers. -/
def lexLt : List Nat → List Nat → Bool
  | a :: t, b :: u => decide (a < b) || (decide (a = b) && lexLt t u)
  | _, _ => false

/-- The data set comparison: `a` is better than `b`. -/
def setBetter (a b : AnnounceSet) : Bool :=
  if a.gm = b.gm then lexLt [a.steps.toNat, a.src.toNat, a.srcPort.toNat] [b.steps.toNat, b.src.toNat, b.srcPort.toNat]
  else
    let key (x : AnnounceSet) : List Nat :=
      [x.priority1.toNat, x.clockClass.toNat, x.accuracy.toNat, x.variance.toNat, x.priority2.toNat, x.gm.toNat]
    lexLt (key a) (key b)

/-- The part may act as a master: a boundary clock, or a master-capable ordinary clock (R451). -/
def masterCapable (s : State) : Bool := decide (s.timeMode = 2 ∨ s.rf A.timeCtl 2 2 = 1)

/-- The best of the masters whose Announce messages have come at least twice. -/
def bestForeign (s : State) : Option AnnounceSet :=
  ((s.ptp.foreign.filter (fun f => decide (2 ≤ f.n))).map (fun f => f.data)).foldl
    (fun b x => match b with | none => some x | some y => if setBetter x y then some x else some y) none

/-- A master is selected (R456). One that is not the last selected is reported, and nothing of it has been refused yet (R457). -/
def selectMaster (b : AnnounceSet) (s : State) : State :=
  if s.ptp.master = some (b.src, b.srcPort) then s else
  let m := some (b.src, b.srcPort)
  let other := decide (s.ptp.last ≠ m)
  let s1 := s.setPtp { s.ptp with master := m, last := m, syncT2 := none, reqT3 := none, xch := none, told := s.ptp.told && !other }
  let s2 := ((s1.setReg A.timeMasterLo (BitVec.ofNat 32 b.src.toNat)).setReg A.timeMasterHi
    (BitVec.ofNat 32 (b.src.toNat / 2 ^ 32))).setPtpPort 2
  servoSelect (if other then s2.post s2.ports 0x0505 [s2.vF, (8, b.src.toNat)] else s2)

/-- The port follows no master: it is MASTER, PASSIVE or LISTENING. -/
def noMaster (port : Nat) (s : State) : State :=
  let s1 := s.setPtp { s.ptp with master := none, syncT2 := none, reqT3 := none, xch := none }
  servoLoss (s1.setPtpPort port)

/-- The best master algorithm (R452): the state of the port follows from the comparison of the part's own set with the best other one. A port that is to be MASTER
passes PRE_MASTER in no time: the qualification timeout of IEEE 1588 is 0 for a clock that is its own best master (PRESUMED, log 84). -/
def bestMaster (s : State) : State :=
  match bestForeign s with
  | none => s
  | some b =>
    if masterCapable s ∧ setBetter (ownSet s) b then noMaster 5 s
    else if masterCapable s ∧ 1 ≤ (ownSet s).clockClass.toNat ∧ (ownSet s).clockClass.toNat ≤ 127 then noMaster 6 s
    else selectMaster b s

/-- The port receives the message (R452, R453). -/
def ptpHears (s : State) (h : PtpHead) : Bool :=
  decide (h.ether = decide (s.rf A.timeCtl 4 4 = 1) ∧ h.unicast = false ∧ h.version = 2 ∧ h.domain.toNat = s.rf A.timeCtl 15 8 ∧
    h.tag = s.ptp.vlan.map (fun v => v.1) ∧ s.ptpPort ≠ 0 ∧ s.ptpPort ≠ 7)

/-- The message comes from the selected master. -/
def fromMaster (s : State) (h : PtpHead) : Bool := decide (s.ptp.master = some (h.src, h.srcPort))

/-- An ingress timestamp (R454). -/
def ingressTime (s : State) (ru : Nat) : Int := s.todAt ru - s.psReg A.timeLatIn

/-- An egress timestamp (R454). -/
def egressTime (s : State) (ru : Nat) : Int := s.todAt ru + s.psReg A.timeLatEg

/-- Half of an integer, truncated toward zero. -/
def half64 (v : Int) : Int := tdivNat v 2

/-- A completed Sync exchange gives an offset measurement with the latest Delay_Req exchange (R455). -/
def syncDone (t1 t2 cs : Int) (s : State) : State :=
  match s.ptp.xch with
  | none => s
  | some (t3, t4, cd) =>
    let mpd := half64 (s64 (s64 (t2 - t3) + s64 (t4 - t1) - cs - cd))
    let off := s64 (s64 (t2 - t1) - cs - mpd - s.psReg A.timeAsym)
    let s1 := s.setReg A.timePath (psWord mpd)
    measure off (if s1.ptpPort = 2 then s1.setPtpPort 3 else s1)

/-- PTP_SYNC: a Sync or a Follow_Up of the selected master (R452, R455). -/
def ptpSync (h : PtpHead) (b : SyncBody) (s : State) : State :=
  if !ptpHears s h || !fromMaster s h then s else
  match b with
  | .sync false origin => syncDone (stampUnits origin) (ingressTime s h.ru.toNat) h.corr.toInt s
  | .sync true _ => s.setPtp { s.ptp with syncT2 := some (h.seq.toNat, ingressTime s h.ru.toNat, h.corr.toInt) }
  | .followUp origin =>
    match s.ptp.syncT2 with
    | some (q, t2, c) =>
      if q = h.seq.toNat then syncDone (stampUnits origin) t2 (s64 (c + h.corr.toInt)) (s.setPtp { s.ptp with syncT2 := none }) else s
    | none => s

def execPtpSync (h : PtpHead) (b : SyncBody) (s : State) : Host.Outcome State Fault Refusal := .next (ptpSync h b s)

/-- PTP_DELAY_RESP: the answer to the part's last Delay_Req (R455). -/
def ptpDelayResp (h : PtpHead) (recv : Stamp) (dst : BitVec 64) (toPort : BitVec 16) (s : State) : State :=
  match s.ptp.reqT3 with
  | some (q, t3) =>
    if ptpHears s h ∧ fromMaster s h ∧ dst = s.ptp.clk ∧ toPort = 1 ∧ q = h.seq.toNat then
      s.setPtp { s.ptp with reqT3 := none, xch := some (t3, stampUnits recv, h.corr.toInt) }
    else s
  | none => s

def execPtpDelayResp (h : PtpHead) (recv : Stamp) (dst : BitVec 64) (toPort : BitVec 16) (s : State) : Host.Outcome State Fault Refusal :=
  .next (ptpDelayResp h recv dst toPort s)

/-- A frame as the port sends it, with its tag where it has one (R453). -/
def ethOut (s : State) (dst : BitVec 48) (udp : Option UdpHead) (ptp : Option PtpSelf) (m : EthMsg) : EthOut := ⟨s.ptp.mac, dst, s.ptp.vlan, udp, ptp, m⟩

/-- A PTP message as the port sends it (R452, R453): over UDP on the IPv4 multicast address, or in IEEE 802.3. `event`: an event message. -/
def ptpOut (s : State) (event : Bool) (m : EthMsg) : EthOut :=
  let own : PtpSelf := ⟨2, 1, BitVec.ofNat 8 (s.rf A.timeCtl 15 8), s.ptp.clk, 1⟩
  if s.rf A.timeCtl 4 4 = 1 then ethOut s 0x011B19000000 none (some own) m
  else
    let udp : UdpHead := ⟨s.ptp.ip, 0xE0000181, if event then 319 else 320, 1, if event then s.ptp.dscp.1 else s.ptp.dscp.2⟩
    ethOut s 0x01005E000181 (some udp) (some own) m

/-- DELAY_REQ: a slave sends a Delay_Req that leaves the balls `ru` after the tick (R454, R455). -/
def delayReq (ru : Nat) (s : State) : State :=
  if s.ptpPort = 2 ∨ s.ptpPort = 3 then
    let q := s.ptp.seqReq
    s.setPtp { s.ptp with seqReq := (q + 1) % 65536, reqT3 := some (q, egressTime s ru), sent := [ptpOut s true (.delayReq q)] }
  else s

def execDelayReq (ru : BitVec 32) (s : State) : Host.Outcome State Fault Refusal := .next (delayReq ru.toNat s)

/-- SYNC_MESSAGE_SEND: a master sends Sync and then Follow_Up with its egress timestamp (R452). -/
def syncSend (ru : Nat) (s : State) : State :=
  if s.ptpPort = 5 then
    let q := s.ptp.seqSync
    s.setPtp { s.ptp with seqSync := (q + 1) % 65536, sent := [ptpOut s true (.sync q), ptpOut s false (.followUp q (stampOf (egressTime s ru)))] }
  else s

def execSyncMessageSend (ru : BitVec 32) (s : State) : Host.Outcome State Fault Refusal := .next (syncSend ru.toNat s)

/-- DELAY_REQ_RECEIPT: a master answers with its receive timestamp, and hands the correction of the request back (R452, R454). -/
def delayReqReceipt (h : PtpHead) (s : State) : State :=
  if s.ptpPort = 5 ∧ ptpHears s h then
    s.setPtp { s.ptp with sent := [ptpOut s false (.delayResp h.seq.toNat (stampOf (ingressTime s h.ru.toNat)) h.src h.srcPort h.corr)] }
  else s

def execDelayReqReceipt (h : PtpHead) (s : State) : Host.Outcome State Fault Refusal := .next (delayReqReceipt h s)

/-- ANNOUNCE_INTERVAL: a master sends an Announce (R451). -/
def announceInterval (s : State) : State :=
  if s.ptpPort = 5 then
    let q := s.ptp.seqAnn
    s.setPtp { s.ptp with seqAnn := (q + 1) % 65536, sent := [ptpOut s false (.announce q (ownSet s))] }
  else s

def execAnnounceInterval (s : State) : Host.Outcome State Fault Refusal := .next (announceInterval s)

/-- PTP_ANNOUNCE: the data set of another clock is noted, and the best master algorithm runs (R452). -/
def ptpAnnounce (h : PtpHead) (d : AnnounceSet) (s : State) : State :=
  let d1 := { d with src := h.src, srcPort := h.srcPort }
  if !ptpHears s h || decide (h.src = s.ptp.clk ∨ 255 ≤ d.steps.toNat) then s else
  let same (f : Foreign) : Bool := decide (f.data.src = h.src ∧ f.data.srcPort = h.srcPort)
  let n := match s.ptp.foreign.find? same with | some f => f.n | none => 0
  bestMaster (s.setPtp { s.ptp with foreign := ⟨d1, n + 1⟩ :: s.ptp.foreign.filter (fun f => !same f) })

def execPtpAnnounce (h : PtpHead) (d : AnnounceSet) (s : State) : Host.Outcome State Fault Refusal := .next (ptpAnnounce h d s)

/-- ANNOUNCE_RECEIPT_TIMEOUT (R456): the masters are forgotten, and the servo goes to HOLDOVER. -/
def announceTimeout (s : State) : State :=
  if s.ptpPort = 1 ∨ s.ptpPort = 2 ∨ s.ptpPort = 3 ∨ s.ptpPort = 6 then
    noMaster (if masterCapable s then 5 else 1) (s.setPtp { s.ptp with foreign := [] })
  else s

def execAnnounceReceiptTimeout (s : State) : Host.Outcome State Fault Refusal := .next (announceTimeout s)

/-- HOLDOVER_EXPIRY: HOLD_S seconds of HOLDOVER have passed (R456). -/
def holdoverExpiry (s : State) : State := if s.servo = 3 then s.setServo 0 0 else s

def execHoldoverExpiry (s : State) : Host.Outcome State Fault Refusal := .next (holdoverExpiry s)

/-! ### Registers of the TIME block -/

/-- ACCEPT lands (R451, R458, R638). -/
def execAccept (p : Fin 4) (s : State) : Host.Outcome State Fault Refusal :=
  fromPort p s (s.ownerWrite p A.timeCtl (s.reg A.timeCtl ||| 0x80000000) (fun t => t.setRf A.timeCtl 31 31 1))

/-- A write of TIME_CTL (R451, R452, R456): MODE 0b00 puts the servo in FREERUN; another change starts the PTP port again. -/
def timeCtlWrite (w : Word) (s : State) : State :=
  if 127 < fld w 15 8 then s else
  let old := s.reg A.timeCtl
  let s1 := s.setReg A.timeCtl (BitVec.ofNat 32 (fld w 4 0 + fld w 15 8 * 2 ^ 8 + max (fld w 31 31) (fld old 31 31) * 2 ^ 31))
  if fld w 15 0 % 32 = fld old 4 0 ∧ fld w 15 8 = fld old 15 8 then s1
  else
    let s2 := ptpRestart (if fld w 1 0 = fld old 1 0 then s1 else s1.setPtp { s1.ptp with told := false })
    if s2.timeMode = 0 then s2.setServo 0 0
    else if parentUp s2 then servoSelect s2 else servoLoss s2

/-- A write of TIME_ETH_CTL (R453): as EN goes from 0 to 1 the port reads its addresses; as it goes to 0 the port stops. -/
def ethCtlWrite (w : Word) (s : State) : State :=
  if fld w 1 1 = 1 ∧ (fld w 27 16 = 0 ∨ fld w 27 16 = 4095) then s else
  let was := s.rf A.timeEthCtl 0 0
  let s1 := s.setReg A.timeEthCtl (BitVec.ofNat 32 (fld w 1 0 + fld w 6 4 * 2 ^ 4 + fld w 27 16 * 2 ^ 16))
  if was = fld w 0 0 then s1
  else if was = 0 then
    ptpRestart (s1.setPtp { s1.ptp with
      mac := BitVec.ofNat 48 ((s.reg A.timeMacLo).toNat + s.rf A.timeMacHi 15 0 * 2 ^ 32)
      ip := s.reg A.timeIpv4
      clk := BitVec.ofNat 64 ((s.reg A.timeClkidLo).toNat + (s.reg A.timeClkidHi).toNat * 2 ^ 32)
      dscp := (BitVec.ofNat 6 (s.rf A.timeDscp 5 0), BitVec.ofNat 6 (s.rf A.timeDscp 13 8))
      vlan := if fld w 1 1 = 1 then some (BitVec.ofNat 12 (fld w 27 16), BitVec.ofNat 3 (fld w 6 4)) else none })
  else servoLoss (ptpRestart (s1.setRf A.timeEthStat 0 0 0))

/-- TIME_ETH_EN: a write of TIME_ETH_CTL by port p. -/
def execTimeEthEn (p : Fin 4) (w : Word) (s : State) : Host.Outcome State Fault Refusal :=
  fromPort p s (s.ownerWrite p A.timeEthCtl w (ethCtlWrite w))

/-- ETH_LINK_CHANGE: block lock and link come up or go down (R453, R456). -/
def ethLink (up : Bool) (s : State) : State :=
  if s.rf A.timeEthCtl 0 0 = 0 ∨ s.rf A.timeEthStat 0 0 = b2n up then s else
  let s1 := ptpRestart (s.setRf A.timeEthStat 0 0 (b2n up))
  if up ∨ s.timeMode = 3 then s1 else servoLoss s1

def execEthLinkChange (up : Bool) (s : State) : Host.Outcome State Fault Refusal := .next (ethLink up s)

/-- NON_PTP_FRAME: the firmware answers ARP requests for, and echo requests to, the address of the port; a frame without the tag that the port asks for is discarded
(R453). -/
def nonPtpFrame (f : EthArrival) (s : State) : State :=
  if s.rf A.timeEthCtl 0 0 = 0 ∨ f.tag ≠ s.ptp.vlan.map (fun v => v.1) then s else
  let out := match f.frame with
    | .arp target mac ip => if target = s.ptp.ip then [ethOut s mac none none (.arpReply mac ip)] else []
    | .echo dst mac ip data => if dst = s.ptp.ip then [ethOut s mac none none (.echoReply mac ip data)] else []
    | .other => []
  s.setPtp { s.ptp with sent := out }

def execNonPtpFrame (f : EthArrival) (s : State) : Host.Outcome State Fault Refusal := .next (nonPtpFrame f s)

end Sys2Proof.Machine
end

