-- ==== Sys2Proof/Machine/Link.lean ====
section
/-! DEFINITION. The Wearo ports (R460 to R482): link frames, sequencing and retry, training, link delay and fleet time. -/

namespace Sys2Proof.Machine

/-- SYS_ID (R8): bit-class 1 is that of stepping A1, bit-class 2 that of B0. -/
def State.sysId (s : State) : Nat := 0x91600000 + (if s.bitClass = 1 then 0x11 else 0x20) * 256 + s.grade % 16 * 16 + s.bitClass % 16

/-! ### Frames -/

/-- The number in bytes `o` to `o + n − 1`. -/
def numAt (bs : List Byte) (o n : Nat) : Nat := fromLe ((bs.drop o).take n)

/-- Every byte from `o` on, up to `n` of them, is 0. -/
def zeroAt (bs : List Byte) (o n : Nat) : Bool := ((bs.drop o).take n).all (fun b => b = 0)

/-- The header and payload of a frame (R464). -/
def frameHead (f : LinkFrame) : List Byte :=
  leBytes 1 f.type ++ leBytes 1 f.cls ++ leBytes 2 (f.payload.length / 16) ++ leBytes 4 f.seq ++ leBytes 4 f.ackF ++
    leBytes 4 f.ackB ++ f.payload

/-- A frame as it is sent (R464, R466). -/
def frameBytes (f : LinkFrame) : List Byte :=
  frameHead f ++ leBytes 4 (crc32c (frameHead f)).toNat ++ List.replicate 12 0

/-- The sequence class of a type (R465, R467): none for control types. -/
def classOf (type : Nat) : Option Nat :=
  if type = 0x10 ∨ type = 0x11 ∨ type = 0x12 then some 0 else if type = 0x20 ∨ type = 0x21 then some 1 else none

/-- The payload has the length of its type, and its reserved bytes and fields are not set (R465, R483, R493). -/
def payloadOk (type : Nat) (b : List Byte) : Bool :=
  let n := b.length
  match type with
  | 0x01 => decide (n = 32) && zeroAt b 0 32
  | 0x02 => decide (n = 32 ∧ numAt b 0 1 < 2) && zeroAt b 1 3 && zeroAt b 8 24
  | 0x03 => decide (n = 32) && zeroAt b 2 30
  | 0x04 => decide (n = 32 ∧ numAt b 4 1 < 4) && zeroAt b 5 1 && zeroAt b 30 2
  | 0x05 => decide (n = 32 ∧ numAt b 4 2 < 2 ^ 15 ∧ numAt b 6 1 < 6 ∧ numAt b 12 1 < 4) && zeroAt b 7 1 && zeroAt b 13 19
  | 0x10 => decide (n = 32 ∧ numAt b 0 2 < 4096 ∧ numAt b 4 1 < 3) && zeroAt b 6 26
  | 0x11 => decide (n = 32 ∧ numAt b 4 1 < 3 ∧ numAt b 6 1 < 4) && zeroAt b 7 25
  | 0x12 => decide (n = 544 ∧ numAt b 2 2 < 2 ^ 13) && zeroAt b 516 28
  | 0x20 => decide (n = 800 ∧ numAt b 0 2 < 4096 ∧ numAt b 2 1 < 64 ∧ numAt b 5 1 < 3) && zeroAt b 7 9 && zeroAt b 792 8
  | 0x21 => decide (32 ≤ n)
  | _ => false

/-- A received frame, where its CRC passes and it holds no reserved value (R464 to R466). -/
def parseFrame (bs : List Byte) : Option LinkFrame :=
  let len := numAt bs 2 2
  let f : LinkFrame := ⟨numAt bs 0 1, numAt bs 1 1, numAt bs 4 4, numAt bs 8 4, numAt bs 12 4, (bs.drop 16).take (16 * len)⟩
  if 2 ≤ len ∧ len ≤ 64 ∧ bs.length = 32 + 16 * len ∧ numAt bs (16 + 16 * len) 4 = (crc32c (frameHead f)).toNat ∧
      zeroAt bs (20 + 16 * len) 12 ∧ f.cls < 2 ∧ (classOf f.type = none ∨ classOf f.type = some f.cls) ∧ payloadOk f.type f.payload then
    some f
  else none

/-! ### Ports -/

def State.wport (s : State) (p : Nat) : Wearo := smGet Wearo.start s.wearo p

def State.setWport (s : State) (p : Nat) (x : Wearo) : State := { s with wearo := smPut Wearo.start s.wearo p x }

/-- STATE of LINK_PORTp_STAT: 0 DOWN, 1 TRAINING, 2 UP, 3 UP management only. -/
def State.portState (s : State) (p : Nat) : Nat := s.rf (A.linkPortStat p) 1 0

/-- The state of a port set. -/
def State.setPortState (s : State) (p v : Nat) : State := s.setRf (A.linkPortStat p) 1 0 v

/-- Class c of a port. -/
def Wearo.cls (w : Wearo) (c : Nat) : LinkClass := if c = 0 then w.fast else w.bulk

def Wearo.setCls (w : Wearo) (c : Nat) (x : LinkClass) : Wearo := if c = 0 then { w with fast := x } else { w with bulk := x }

/-! ### Sending -/

/-- A frame leaves a port; it carries the acknowledgement fields (R468). -/
def putFrame (p : Nat) (f : LinkFrame) (s : State) : State :=
  let s1 := { s with wire := s.wire ++ [(p, frameBytes f)] }
  s1.setWport p { s1.wport p with ackDue := false }

/-- A control frame: its SEQ is the next fast-class number (R464, R467). -/
def sendControl (p type : Nat) (payload : List Byte) (s : State) : State :=
  let w := s.wport p
  putFrame p ⟨type, 0, w.fast.seq, w.fast.exp, w.bulk.exp, payload⟩ s

/-- Bytes of the replay buffer of a class (R469). -/
def bufCap (c : Nat) : Nat := if c = 0 then 16384 else 196608

def bufUsed (x : LinkClass) : Nat := x.buf.foldl (fun n e => n + 32 + e.1.payload.length) 0

/-- Waiting frames of a class go while its replay buffer has room, in order (R469, R472). The first argument bounds how many. -/
def pump (p c : Nat) : Nat → State → State
  | 0, s => s
  | n + 1, s =>
    let w := s.wport p
    let x := w.cls c
    match x.wait with
    | [] => s
    | (ty, pl) :: rest =>
      if bufUsed x + 32 + pl.length ≤ bufCap c then
        let f : LinkFrame := ⟨ty, c, x.seq, w.fast.exp, w.bulk.exp, pl⟩
        let y : LinkClass := { x with seq := (x.seq + 1) % 2 ^ 32, buf := x.buf ++ [(f, 1)], wait := rest }
        pump p c n (putFrame p f (s.setWport p (w.setCls c y)))
      else s

/-- The waiting frames of a port go: fast before bulk (R472). -/
def pumpPort (p : Nat) (s : State) : State :=
  let s1 := pump p 0 (s.wport p).fast.wait.length s
  pump p 1 (s1.wport p).bulk.wait.length s1

/-- A port carries frames of a type: messages whenever up; the lock-step port lock-step frames alone, with a partner of its own bit-class; another port the fleet's
frames when UP (R334, R347, R463). -/
def carries (s : State) (p type : Nat) : Bool :=
  let up := decide (2 ≤ s.portState p)
  if type = 0x21 then up
  else if s.lsPort = some p then up && decide ((type = 0x11 ∨ type = 0x12) ∧ (s.wport p).verdict ≠ 5)
  else decide (s.portState p = 2 ∧ type ≠ 0x12)

/-- The frames that wait in the stream of a port (R563). -/
def Wearo.waiting (w : Wearo) : Nat := w.fast.wait.length + w.bulk.wait.length

/-- A sequenced frame is handed to a port; a port that does not carry it sends nothing. One that finds the 256 frames of the stream full is dropped, never to be sent,
and LOST of crossing 11 counts it (R563, R565). -/
def sendSeq (p type : Nat) (payload : List Byte) (s : State) : State :=
  match classOf type with
  | none => s
  | some c =>
    if carries s p type then
      let w := s.wport p
      let x := w.cls c
      if 256 ≤ w.waiting then s.bump (A.sysXingCnt 11) 31 16 1
      else pumpPort p (s.setWport p (w.setCls c { x with wait := x.wait ++ [(type, payload)] }))
    else s

/-- A command that may send starts with nothing sent. -/
def quiet (s : State) : State := { s with wire := [] }

/-! ### Going down and training -/

/-- A lock-step pair is lost (R352). -/
def lockLost (reason : Nat) (s : State) : State :=
  if s.rf A.linkLsStat 1 0 = 1 then
    let s1 := (s.setRf A.linkLsStat 1 0 3).setRf A.linkLsStat 11 8 reason
    let s2 := { s1 with fleet := { s1.fleet with own := [], their := [] } }
    s2.post s2.ports 0x0411 [s2.vF, (1, reason)]
  else s

/-- The INFO payload of the part (R463, R465). -/
def infoPayload (s : State) (p : Nat) : List Byte :=
  let adr := s.coord A.linkFleetAddr 0 + s.coord A.linkFleetAddr 1 * 2 ^ 5 + s.coord A.linkFleetAddr 2 * 2 ^ 10
  leBytes 4 (s.reg A.linkFleetId).toNat ++ leBytes 2 adr ++ leBytes 1 p ++ [0] ++ leBytes 4 s.sysId ++
    leBytes 1 (s.rf A.linkFleetCtl 0 0 + 2 * b2n (decide (s.lsPort = some p))) ++ List.replicate 19 0

/-- Step 3 of training passes: the lane map and the inverted lanes of the signal are corrected, and reported where there is something to correct (R462). -/
def lanesFound (p : Nat) (s : State) : State :=
  let w := s.wport p
  let s1 := (s.setRf (A.linkPortStat p) 15 8 w.lanes).setRf (A.linkPortStat p) 19 16 w.pol
  if w.lanes ≠ 0xE4 ∨ w.pol ≠ 0 then s1.post s1.ports 0x0523 [(1, p), (1, w.lanes), (1, w.pol)] else s1

/-- Training starts, where the port is enabled and has signal, the optics are powered (R622) and the LINK group is out of reset; both classes restart at 0 (R461, R463). The steps before the exchange of INFO
frames pass unless TRAINING_TIMEOUT says otherwise, and the part's INFO frame is sent. -/
def startTraining (p : Nat) (s : State) : State :=
  let w := s.wport p
  if w.signal ∧ s.rf (A.linkPortCtl p) 0 0 = 1 ∧ s.aon.optics ∧ s.rf A.sysDrst 2 2 = 0 then
    let s0 := lanesFound p s
    let s1 := s0.setWport p { w with
      step := 5, exch := 0, verdict := 0, fast := LinkClass.start, bulk := LinkClass.start, ackDue := false, t1 := none, delays := [] }
    sendControl p 0x05 (infoPayload s1 p) (s1.setPortState p 1)
  else (s.setWport p { w with step := 0 }).setPortState p 0

/-- A port goes down (R463, R470, R482): what its replay buffers hold is discarded; the port trains again where it can. -/
def portDown (p reason : Nat) (s : State) : State :=
  let was := s.portState p
  let parent := decide (s.timeMode = 3 ∧ parentPort s = some p) && portUp s p
  let s1 := if was = 2 then s.bump (A.linkPortDowns p) 15 0 1 else s
  let s2 := (s1.setPortState p 0).setRf (A.linkPortStat p) 7 4 reason
  let s3 := s2.setWport p { s2.wport p with step := 0, fast := LinkClass.start, bulk := LinkClass.start, ackDue := false, t1 := none }
  let s4 := if 2 ≤ was then s3.post s3.ports 0x0521 [(1, p), (1, reason)] else s3
  let s5 := if parent then servoLoss s4 else s4
  let s6 := if s5.lsPort = some p then lockLost 5 s5 else s5
  startTraining p s6

/-- OPTICAL_SIGNAL: signal on all wavelengths, of which `lanes` is the order and `pol` the inverted ones; an enabled port trains (R461, R462). -/
def opticalSignal (p : Nat) (lanes pol : Nat) (s : State) : State :=
  let s0 := quiet s
  let w := s0.wport p
  let perm := [0, 1, 2, 3].all (fun l => (List.range 4).any (fun i => decide (lanes / 4 ^ i % 4 = l)))
  if w.signal ∨ !perm ∨ !s0.aon.optics then s0 else
  let s1 := s0.setWport p { w with signal := true, lanes := lanes, pol := pol }
  if s1.rf (A.linkPortCtl p) 0 0 = 0 then s1 else startTraining p s1

def execOpticalSignal (p : Fin 6) (lanes : BitVec 8) (pol : BitVec 4) (s : State) : Host.Outcome State Fault Refusal :=
  .next (opticalSignal p.val lanes.toNat pol.toNat s)

/-- TRAINING_TIMEOUT: a step fails or exceeds its time (R461); REASON 0x2 at the third in succession (R482). -/
def trainingTimeout (p : Nat) (s : State) : State :=
  let s0 := quiet s
  if s0.portState p = 1 then
    let w := s0.wport p
    let s1 := s0.setWport p { w with fails := w.fails + 1 }
    startTraining p (if 3 ≤ w.fails + 1 then s1.setRf (A.linkPortStat p) 7 4 2 else s1)
  else s0

def execTrainingTimeout (p : Fin 6) (s : State) : Host.Outcome State Fault Refusal := .next (trainingTimeout p.val s)

/-- LOSS_OF_SIGNAL (R463). -/
def lossOfSignal (p : Nat) (s : State) : State :=
  let s0 := quiet s
  if (s0.wport p).signal then
    let s1 := s0.setWport p { s0.wport p with signal := false }
    if s1.rf (A.linkPortCtl p) 0 0 = 1 then portDown p 1 s1 else s1
  else s0

def execLossOfSignal (p : Fin 6) (s : State) : Host.Outcome State Fault Refusal := .next (lossOfSignal p.val s)

/-- A write of LINK_PORTp_CTL (R481, R482): a reserved RTO or RETRY_MAX makes the part ignore it. -/
def linkCtlWrite (p : Nat) (w : Word) (s : State) : State :=
  if fld w 15 4 = 0 ∨ fld w 23 16 = 0 then s else
  let was := s.rf (A.linkPortCtl p) 0 0
  let s1 := s.setReg (A.linkPortCtl p) (BitVec.ofNat 32 (fld w 0 0 + fld w 23 4 * 2 ^ 4))
  if was = fld w 0 0 then s1
  else if was = 1 then portDown p 4 s1
  else startTraining p (s1.setWport p { s1.wport p with fails := 0 })

/-- PORT_ENABLE: a write of LINK_PORTp_CTL by host port h. -/
def execPortEnable (h : Fin 4) (p : Fin 6) (w : Word) (s : State) : Host.Outcome State Fault Refusal :=
  fromPort h s (s.ownerWrite h (A.linkPortCtl p) w (fun t => linkCtlWrite p.val w (quiet t)))

/-- The address the partner of port p must have (R479), and its port. -/
def expected (s : State) (p : Nat) : Nat × Nat :=
  let c (d : Nat) : Nat :=
    let me := s.coord A.linkFleetAddr d
    if d = p / 2 then (if p % 2 = 0 then (me + 1) % s.dim d else (me + s.dim d - 1) % s.dim d) else me
  (c 0 + c 1 * 2 ^ 5 + c 2 * 2 ^ 10, if p % 2 = 0 then p + 1 else p - 1)

/-- The checks of R463 on an INFO payload: 0 where all pass, else the reason of R482. -/
def infoVerdict (s : State) (p : Nat) (b : List Byte) : Nat :=
  if numAt b 8 4 % 16 ≠ s.bitClass % 16 then 5
  else if s.lsPort = some p then 8
  else if numAt b 0 4 ≠ (s.reg A.linkFleetId).toNat then 6
  else if numAt b 12 1 % 2 = 0 then 9
  else if s.dim (p / 2) = 1 ∨ (numAt b 4 2, numAt b 6 1) ≠ expected s p then 7
  else 0

/-- A port comes up with the verdict of its INFO check (R463). -/
def portUpNow (p : Nat) (s : State) : State :=
  let w := s.wport p
  let s1 := (s.setWport p { w with step := 0, fails := 0 }).setRf (A.linkPortStat p) 7 4 w.verdict
  if w.verdict = 0 then
    let s2 := s1.setPortState p 2
    let s3 := s2.post s2.ports 0x0520 [(1, p), (2, s2.rf (A.linkPortPartner p) 14 0), (1, s2.rf (A.linkPortPartner p) 18 16)]
    if s3.timeMode = 3 ∧ parentPort s3 = some p then servoSelect s3 else s3
  else
    let s2 := s1.setPortState p 3
    let s3 := s2.post s2.ports 0x0522 [(1, p), (1, w.verdict)]
    if w.verdict = 5 ∧ s3.lsPort = some p then lockLost 6 s3 else s3

/-! ### Receiving -/

/-- One NAK that names the number expected in a class (R468); `seen` is the number of the frame that draws it. -/
def sendNak (p c seen : Nat) (s : State) : State :=
  let w := s.wport p
  let x := w.cls c
  let s1 := s.setWport p (w.setCls c { x with nak := true, last := seen, rewinds := 0 })
  sendControl p 0x02 (leBytes 1 c ++ [0, 0, 0] ++ leBytes 4 x.exp ++ List.replicate 24 0) s1

/-- A frame after the number expected draws a NAK, unless one stands (R468). A sender that has a NAK goes back once for it, so the second time that its numbers go
back is the timer's doing, after which a NAK may be sent again (DESIGN CHOICE, log 82). -/
def nakAfter (p c seq : Nat) (s : State) : State :=
  let w := s.wport p
  let x := w.cls c
  if !x.nak then sendNak p c seq s
  else if 0 < signedDiff 32 (seq : Int) (x.last : Int) then s.setWport p (w.setCls c { x with last := seq })
  else if 1 ≤ x.rewinds then sendNak p c seq s
  else s.setWport p (w.setCls c { x with last := seq, rewinds := x.rewinds + 1 })

/-- A frame that fails its CRC or holds a reserved value (R466, R468). The class of its NAK is that of its class byte as received. -/
def discardFrame (p : Nat) (bs : List Byte) (s : State) : State :=
  let s1 := s.bump (A.linkPortCrcerr p) 31 0 1
  let c := numAt bs 1 1 % 2
  let x := (s1.wport p).cls c
  if 2 ≤ s1.portState p ∧ !x.nak then sendNak p c x.exp s1 else s1

/-- Frames of a class acknowledged by the next number the partner expects leave the replay buffer (R468, R469). -/
def ackClass (x : LinkClass) (next : Nat) : LinkClass :=
  { x with buf := x.buf.filter (fun e => decide (0 ≤ signedDiff 32 (e.1.seq : Int) (next : Int))) }

/-- The acknowledgement fields of a frame received. -/
def ackFields (p : Nat) (f : LinkFrame) (s : State) : State :=
  let w := s.wport p
  s.setWport p { w with fast := ackClass w.fast f.ackF, bulk := ackClass w.bulk f.ackB }

/-- What the sequence rules make of a sequenced frame (R468): whether it is delivered. -/
def accept (p c : Nat) (f : LinkFrame) (s : State) : Bool × State :=
  let w := s.wport p
  let x := w.cls c
  let d := signedDiff 32 (f.seq : Int) (x.exp : Int)
  if d = 0 then
    (true, s.setWport p { w.setCls c { x with exp := (x.exp + 1) % 2 ^ 32, nak := false } with ackDue := true })
  else if d < 0 then (false, s.setWport p { w with ackDue := true })
  else (false, nakAfter p c f.seq s)

/-- What a frame in order does, once its acknowledgement fields have been taken: where it is to be delivered, `run` is its effect. -/
def deliverFrame (p : Nat) (f : LinkFrame) (run : LinkFrame → State → State) (s : State) : State :=
  match classOf f.type with
  | none => run f s
  | some c =>
    if s.portState p < 2 then s else
    let r := accept p c f s
    if r.1 ∧ carries r.2 p f.type then run f r.2 else r.2

/-- A frame arrives at a port (R464 to R468). `type` is the frame type of the command: a frame of another type is not its business. Frames that its acknowledgement
makes room for go after what it makes the port send, control frames and resent ones first (R472). -/
def receive (p type : Nat) (x : Rx) (run : LinkFrame → State → State) (s : State) : State :=
  let s0 := quiet s
  if s0.portState p = 0 then s0 else
  let s1 := s0.bump (A.linkPortFec p) 31 0 x.fec.toNat
  match parseFrame x.bytes with
  | none => discardFrame p x.bytes s1
  | some f =>
    if f.type ≠ type then s1
    else pumpPort p (deliverFrame p f run (if 2 ≤ s1.portState p then ackFields p f s1 else s1))

/-- INFO_FRAME: the partner's values are checked (R463); training goes on with the delay exchanges. -/
def onInfo (p : Nat) (f : LinkFrame) (s : State) : State :=
  if (s.wport p).step = 5 then
    let s1 := s.setReg (A.linkPortPartner p) (BitVec.ofNat 32 (numAt f.payload 4 2 + numAt f.payload 6 1 * 2 ^ 16))
    s1.setWport p { s1.wport p with step := 6, exch := 0, verdict := infoVerdict s p f.payload }
  else s

def execInfoFrame (p : Fin 6) (x : Rx) (s : State) : Host.Outcome State Fault Refusal :=
  .next (receive p.val 0x05 x (onInfo p.val) s)

/-- ACK_FRAME: its fields do everything (R465, R468). -/
def execAckFrame (p : Fin 6) (x : Rx) (s : State) : Host.Outcome State Fault Refusal :=
  .next (receive p.val 0x01 x (fun _ t => t) s)

/-- Every unacknowledged frame of a class from a number on is sent again, bit for bit (R469 to R471). -/
def resend (p c from' : Nat) (s : State) : State :=
  let w := s.wport p
  let x := w.cls c
  let todo (e : LinkFrame × Nat) : Bool := decide (0 ≤ signedDiff 32 (e.1.seq : Int) (from' : Int))
  let again := x.buf.filter todo
  match again with
  | [] => s
  | e :: _ =>
    if s.rf (A.linkPortCtl p) 23 16 + 1 ≤ e.2 then portDown p 3 s
    else
      let y : LinkClass := { x with buf := x.buf.map (fun e => if todo e then (e.1, e.2 + 1) else e) }
      let s1 := (s.setWport p (w.setCls c y)).bump (A.linkPortRetry p) 31 0 1
      again.foldl (fun t e => putFrame p e.1 t) s1

/-- NAK_FRAME (R469). -/
def onNak (p : Nat) (f : LinkFrame) (s : State) : State :=
  let c := numAt f.payload 0 1
  let n := numAt f.payload 4 4
  if ((s.wport p).cls c).buf.any (fun e => decide (e.1.seq = n)) then resend p c n s else s

def execNakFrame (p : Fin 6) (x : Rx) (s : State) : Host.Outcome State Fault Refusal :=
  .next (receive p.val 0x02 x (onNak p.val) s)

/-- RETRY_TIMEOUT: the oldest unacknowledged frame of a class has waited RTO (R469, R470). -/
def retryTimeout (p c : Nat) (s : State) : State :=
  let s0 := quiet s
  match ((s0.wport p).cls c).buf with
  | [] => s0
  | e :: _ => resend p c e.1.seq s0

def execRetryTimeout (p : Fin 6) (c : Fin 2) (s : State) : Host.Outcome State Fault Refusal := .next (retryTimeout p.val c.val s)

/-- ACK_TIMER: an ACK frame, unless a frame of the port has carried the fields (R468). -/
def ackTimer (p : Nat) (s : State) : State :=
  let s0 := quiet s
  if (s0.wport p).ackDue then sendControl p 0x01 (List.replicate 32 0) s0 else s0

def execAckTimer (p : Fin 6) (s : State) : Host.Outcome State Fault Refusal := .next (ackTimer p.val s)

/-- LINK_FRAME_DISCARD: a frame that is in order is not discarded by it. -/
def execLinkFrameDiscard (p : Fin 6) (x : Rx) (s : State) : Host.Outcome State Fault Refusal :=
  .next (receive p.val 0x00 x (fun _ t => t) s)

/-- MGMT_FRAME: the message is delivered to the firmware (R465). -/
def execMgmtFrame (p : Fin 6) (x : Rx) (s : State) : Host.Outcome State Fault Refusal :=
  .next (receive p.val 0x21 x (fun f t => { t with mgmt := smPut [] t.mgmt p.val f.payload }) s)

/-! ### Link delay and fleet time -/

/-- A timestamp in a DRESP (R465). -/
def stamp12 (u : Int) : List Byte :=
  let t := Tod.ofUnits u.toNat 0 none
  leBytes 6 t.sec ++ leBytes 4 t.ns ++ leBytes 2 t.frac

/-- The time a DRESP holds at an offset. -/
def stampAt (b : List Byte) (o : Nat) : Int :=
  (((numAt b o 6 * 10 ^ 9 + numAt b (o + 6) 4) * 65536 + numAt b (o + 10) 2 : Nat) : Int)

/-- DELAY_EXCHANGE: a DREQ leaves the port `ru` after the tick (R474). A port runs the exchange when it is UP, and in training step 6. -/
def delayExchange (p ru : Nat) (s : State) : State :=
  let s0 := quiet s
  let w := s0.wport p
  if 2 ≤ s0.portState p ∨ w.step = 6 then
    let n := (w.exchNo + 1) % 65536
    sendControl p 0x03 (leBytes 2 n ++ List.replicate 30 0) (s0.setWport p { w with exchNo := n, t1 := some (n, s0.todAt ru) })
  else s0

def execDelayExchange (p : Fin 6) (ru : BitVec 32) (s : State) : Host.Outcome State Fault Refusal :=
  .next (delayExchange p.val ru.toNat s)

/-- DREQ_FRAME: answered with t2 and t3 (R474). -/
def onDreq (p ru2 ru3 : Nat) (f : LinkFrame) (s : State) : State :=
  sendControl p 0x04 (leBytes 2 (numAt f.payload 0 2) ++ leBytes 2 (s.rf A.timeEpoch 15 0) ++ leBytes 1 s.servo ++ [0] ++
    stamp12 (s.todAt ru2) ++ stamp12 (s.todAt ru3) ++ [0, 0]) s

def execDreqFrame (p : Fin 6) (ru2 ru3 : BitVec 32) (x : Rx) (s : State) : Host.Outcome State Fault Refusal :=
  .next (receive p.val 0x03 x (onDreq p.val ru2.toNat ru3.toNat) s)

/-- The mean of some one-way delays. -/
def meanDelay (l : List Int) : Int := tdivNat (l.foldl (fun a b => a + b) 0) (max 1 l.length)

/-- A parent's measurement `o` (R475, R476): a different STEP steps the time without refusal; otherwise local minus reference is −o. -/
def parentTime (o : Int) (step : Nat) (s : State) : State :=
  if step ≠ s.rf A.timeEpoch 15 0 then (timeStep o (-o) step s).setServo 1 0 else measure (-o) s

/-- DRESP_FRAME: completes the exchange under way (R474 to R476). -/
def onDresp (p ru : Nat) (f : LinkFrame) (s : State) : State :=
  let w := s.wport p
  match w.t1 with
  | none => s
  | some (n, t1) =>
    if n ≠ numAt f.payload 0 2 then s else
    let t2 := stampAt f.payload 6
    let t3 := stampAt f.payload 18
    let t4 := s.todAt ru
    let asym := s.psReg (A.linkPortAsym p)
    let d := half64 (s64 (s64 (t2 - t1) + s64 (t4 - t3))) - asym
    let o := half64 (s64 (s64 (t2 - t1) - s64 (t4 - t3))) - asym
    let ds := (d :: w.delays).take 16
    let s1 := (s.setWport p { w with t1 := none, delays := ds }).setReg (A.linkPortDelay p) (psWord (meanDelay ds))
    if w.step = 6 then
      let s2 := s1.setWport p { s1.wport p with exch := w.exch + 1 }
      if 16 ≤ w.exch + 1 then portUpNow p s2 else s2
    else if portUp s1 p ∧ s1.timeMode = 3 ∧ parentPort s1 = some p then parentTime o (numAt f.payload 2 2) s1
    else s1

def execDrespFrame (p : Fin 6) (ru : BitVec 32) (x : Rx) (s : State) : Host.Outcome State Fault Refusal :=
  .next (receive p.val 0x04 x (onDresp p.val ru.toNat) s)

/-- CLR resets MARGIN and clears the late and stale counts (R480). -/
def linkStatClr (s : State) : State := (s.setReg A.linkMusterStat 0xFFFF).setReg A.linkRedStat 0

/-- LINK_STAT_CLR: a write of CLR. -/
def execLinkStatClr (h : Fin 4) (s : State) : Host.Outcome State Fault Refusal :=
  fromPort h s (s.ownerWrite h A.linkStatClr 1 linkStatClr)

end Sys2Proof.Machine
end

