-- ==== Sys2Proof/Machine/Flags.lean ====
section
/-! DEFINITION. The arithmetic of spec/03_arithmetic_and_the_crucible.md on exact values: element formats and their values
(R114 to R118), block scales (R122 to R124), the output rounding rule with its SAT and UFZ flags (R119 to R121), the unary
functions (R164 to R166) and the generator (R167). An exact value is a fraction `n / d` with `d` positive. -/

namespace Sys2Proof.Machine

/-- An element format (R114), in the order of its code (R223). -/
inductive Fmt where
  | a4
  | a8
  | e4m3
  | e5m2
  | bf16
deriving DecidableEq, Repr

/-- The format of a format field (R223); none for a reserved code. -/
def Fmt.ofCode : Nat → Option Fmt
  | 0 => some .a4
  | 1 => some .a8
  | 2 => some .e4m3
  | 3 => some .e5m2
  | 4 => some .bf16
  | _ => none

/-- Bits of an element (R114). -/
def Fmt.bits : Fmt → Nat
  | .a4 => 4
  | .a8 => 8
  | .e4m3 => 8
  | .e5m2 => 8
  | .bf16 => 16

/-- Bytes of a packed vector of 64 elements (R242). -/
def Fmt.vec (f : Fmt) : Nat := 8 * f.bits

/-- The format is one of the two integer formats. -/
def Fmt.isInt : Fmt → Bool
  | .a4 => true
  | .a8 => true
  | _ => false

/-- The formats without an exponent of 16 bits: the 8-bit ones (R61). -/
def Fmt.is8 : Fmt → Bool
  | .a8 => true
  | .e4m3 => true
  | .e5m2 => true
  | _ => false

/-- The poison code of a format (R121). -/
def Fmt.poison : Fmt → Nat
  | .a4 => 0x7
  | .bf16 => 0x7FC0
  | _ => 0x7F

/-- A floating format's mantissa bits, lowest exponent e, largest exponent field of a finite code, and largest finite m at
that exponent (R114, R115). -/
structure FloatPar where
  mant : Nat
  width : Nat
  emin : Int
  xmax : Nat
  mmax : Nat
deriving DecidableEq, Repr

/-- The parameters of a floating format. -/
def Fmt.par : Fmt → FloatPar
  | .e4m3 => ⟨3, 8, -9, 15, 14⟩
  | .e5m2 => ⟨2, 8, -16, 30, 7⟩
  | _ => ⟨7, 16, -133, 254, 255⟩

/-- The value m × 2^e of a code (R115); none for a NaN or infinity code (R118). -/
def Fmt.value (f : Fmt) (code : Nat) : Option (Int × Int) :=
  if f.isInt then some (toSigned f.bits code, 0)
  else
    let p := f.par
    let t := code % 2 ^ p.mant
    let x := code / 2 ^ p.mant % 2 ^ (p.width - 1 - p.mant)
    let m : Int := if x = 0 then t else ((2 ^ p.mant + t : Nat) : Int)
    let sg : Int := if code / 2 ^ (p.width - 1) % 2 = 1 then -1 else 1
    if p.xmax < x ∨ (x = p.xmax ∧ x ≠ 0 ∧ p.mmax < 2 ^ p.mant + t) then none
    else some (sg * m, if x = 0 then p.emin else p.emin + x - 1)

/-- The code of m × 2^e with 0 ≤ m ≤ 2^(mantissa bits + 1) and e at or above the format's lowest exponent. -/
def Fmt.encode (f : Fmt) (neg : Bool) (m : Nat) (e : Int) : Nat :=
  let p := f.par
  let m' := if m = 2 ^ (p.mant + 1) then 2 ^ p.mant else m
  let e' := if m = 2 ^ (p.mant + 1) then e + 1 else e
  let s := b2n neg * 2 ^ (p.width - 1)
  if m' < 2 ^ p.mant then s + m' else s + (e' - p.emin + 1).toNat * 2 ^ p.mant + (m' - 2 ^ p.mant)

/-- The result of a conversion: its code and the counters it raises (R119). -/
structure Conv where
  code : Nat
  sat : Bool
  ufz : Bool
deriving DecidableEq, Repr

/-- ⌊log2 (n / d)⌋ for positive n and d. -/
def floorLog2 (n d : Nat) : Int :=
  let g : Int := (Nat.log2 n : Int) - (Nat.log2 d : Int)
  let below : Bool := if 0 ≤ g then decide (n < d * 2 ^ g.toNat) else decide (n * 2 ^ (-g).toNat < d)
  if below then g - 1 else g

/-- How a tie of R119 step 2 is broken: to even, or to the larger magnitude (the burnisher of bit-class 1, R333). -/
inductive Tie where
  | even
  | away
deriving DecidableEq, Repr

/-- A nonnegative fraction rounded to the nearest integer. -/
def roundNat (t : Tie) (n d : Nat) : Nat :=
  let q := n / d
  let r := 2 * (n % d)
  if r < d then q else if d < r then q + 1 else
    match t with
    | .even => if q % 2 = 0 then q else q + 1
    | .away => q + 1

/-- Conversion of n / d to a floating format (R119, R120). -/
def convFloat (f : Fmt) (t : Tie) (n : Int) (d : Nat) : Conv :=
  if n = 0 then ⟨0, false, false⟩ else
  let p := f.par
  let a := n.natAbs
  let neg : Bool := decide (n < 0)
  let e : Int := max (floorLog2 a d - p.mant) p.emin
  let m := if 0 ≤ e then roundNat t a (d * 2 ^ e.toNat) else roundNat t (a * 2 ^ (-e).toNat) d
  if m = 0 then ⟨0, false, true⟩
  else
    let emax : Int := p.emin + p.xmax - 1
    let tooBig : Bool := decide (emax < e) || (decide (e = emax) && decide (p.mmax < m)) ||
      (decide (e + 1 = emax) && decide (m = 2 ^ (p.mant + 1)) && decide (p.mmax < 2 ^ p.mant))
    if tooBig then ⟨f.encode neg p.mmax emax, true, false⟩ else ⟨f.encode neg m e, false, false⟩

/-- Conversion of n / d to an integer of `bits` bits in two's complement (R119, R161). -/
def convInt (bits : Nat) (t : Tie) (n : Int) (d : Nat) : Conv :=
  if n = 0 then ⟨0, false, false⟩ else
  let a := roundNat t n.natAbs d
  let v : Int := if n < 0 then -(a : Int) else a
  let hi : Int := 2 ^ (bits - 1) - 1
  if v = 0 then ⟨0, false, true⟩
  else if hi < v then ⟨hi.toNat, true, false⟩
  else if v < -hi - 1 then ⟨2 ^ (bits - 1), true, false⟩
  else ⟨lowBits bits v, false, false⟩

/-- convert(r, format) of R119, with the tie rule of the bit-class. -/
def convertT (t : Tie) (f : Fmt) (n : Int) (d : Nat) : Conv :=
  if f.isInt then convInt f.bits t n d else convFloat f t n d

/-- convert(r, format) of R119. -/
def convert (f : Fmt) (n : Int) (d : Nat) : Conv := convertT .even f n d

/-- The fraction m × 2^e. -/
def dyad (m e : Int) : Int × Nat := if 0 ≤ e then (m * 2 ^ e.toNat, 1) else (m, 2 ^ (-e).toNat)

/-- convert of m × 2^e. -/
def convDyad (f : Fmt) (m e : Int) : Conv := let q := dyad m e; convert f q.1 q.2

/-! ### Block scales -/

/-- The value of a scale code: E8M0 (R123), or BF16, where a negative nonzero, infinite or NaN code is invalid (R124). -/
def scaleValue (bf : Bool) (code : Nat) : Option (Int × Int) :=
  if bf then
    match Fmt.value .bf16 code with
    | some (m, e) => if m < 0 then none else some (m, e)
    | none => none
  else if code % 256 = 0xFF then none else some (1, ((code % 256 : Nat) : Int) - 127)

/-! ### AMAX -/

/-- The BF16 code of |n / d| rounded toward +∞; a magnitude above the largest finite value records 0x7F7F (R154). -/
def amaxCode (n : Int) (d : Nat) : Nat :=
  if n = 0 then 0 else
  let p := Fmt.par .bf16
  let a := n.natAbs
  let e : Int := max (floorLog2 a d - p.mant) p.emin
  let m := if 0 ≤ e then ceilDiv a (d * 2 ^ e.toNat) else ceilDiv (a * 2 ^ (-e).toNat) d
  let emax : Int := p.emin + p.xmax - 1
  if emax < e ∨ (e = emax ∧ p.mmax < m) then 0x7F7F else Fmt.encode .bf16 false m e

/-! ### BF16 operations (R160, R164 to R166) -/

/-- ⌊√n⌋ for n below 4^(k), by its bits from the top. -/
def isqrtAux (n : Nat) : Nat → Nat → Nat
  | 0, acc => acc
  | k + 1, acc => let c := acc + 2 ^ k; isqrtAux n k (if c * c ≤ n then c else acc)

/-- ⌊√n⌋ for n below 2^1400. -/
def isqrt (n : Nat) : Nat := isqrtAux n 700 0

/-- The conversion of 1 / x, for a finite nonzero x = m × 2^e (R164). -/
def bfRcp (m e : Int) : Conv :=
  let s : Int := if m < 0 then -1 else 1
  if 0 ≤ e then convert .bf16 s (m.natAbs * 2 ^ e.toNat) else convert .bf16 (s * 2 ^ (-e).toNat) m.natAbs

/-- The conversion of 1 / √x for a positive x = m × 2^e (R164). With y = ⌊2^300 / √x⌋ the exact value lies in
[y, y + 1) × 2^-300, and no BF16 value or midpoint lies strictly inside that interval, so y itself where it is exact, and
the middle of the interval otherwise, rounds as the exact value does. -/
def bfRsqrt (m e : Int) : Conv :=
  let q := dyad m e
  let num := 2 ^ 600 * q.2
  let den := q.1.natAbs
  let y := isqrt (num / den)
  if y * y * den = num then convert .bf16 y (2 ^ 300) else convert .bf16 ((2 * y + 1 : Nat) : Int) (2 ^ 301)

/-- The conversion of log2(x) for a positive x = m × 2^e (R164). ⌊2^16 log2 m⌋ is the logarithm of m^(2^16); the exact
value is that integer, or lies strictly inside the next unit, where no BF16 midpoint lies. -/
def bfLog2 (m e : Int) : Conv :=
  let mm := m.natAbs
  let k := Nat.log2 (mm ^ 65536)
  let whole : Int := (k : Int) + e * 65536
  if mm = 2 ^ Nat.log2 mm then convert .bf16 whole 65536 else convert .bf16 (2 * whole + 1) 131072

/-- The table T of R165: T[i] = rne(2^(24 + i / 64)). -/
def exp2Table : List Nat := [
  16777216, 16959908, 17144589, 17331282, 17520007, 17710787, 17903645, 18098603,
  18295684, 18494911, 18696307, 18899897, 19105703, 19313750, 19524063, 19736666,
  19951585, 20168843, 20388467, 20610483, 20834917, 21061794, 21291142, 21522987,
  21757357, 21994279, 22233781, 22475891, 22720638, 22968049, 23218155, 23470984,
  23726566, 23984932, 24246111, 24510133, 24777031, 25046835, 25319578, 25595290,
  25874004, 26155754, 26440571, 26728490, 27019544, 27313768, 27611195, 27911861,
  28215802, 28523052, 28833647, 29147625, 29465022, 29785875, 30110222, 30438101,
  30769550, 31104608, 31443315, 31785710, 32131834, 32481727, 32835430, 33192984,
  33554432]

/-- EXP2 of a finite x = m × 2^e (R164, R165). -/
def bfExp2 (m e : Int) : Conv :=
  let q := dyad m e
  if 128 * (q.2 : Int) ≤ q.1 then ⟨0x7F7F, true, false⟩
  else if q.1 ≤ -134 * (q.2 : Int) then ⟨0x0000, false, true⟩
  else
    let x : Int := q.1 * 65536 / (q.2 : Int)
    let n : Int := x / 65536
    let f : Nat := (x - n * 65536).toNat
    let i := f / 1024
    let t := f % 1024
    let t0 := exp2Table.getD i 0
    let t1 := exp2Table.getD (i + 1) 0
    let y : Int := (t0 * 1024 + (t1 - t0) * t : Nat)
    convDyad .bf16 y (n - 34)

/-- What a BF16 step gives: a code with its counters, or poison for an invalid input. -/
inductive Step16 where
  | ok (c : Conv)
  | bad
deriving DecidableEq, Repr

/-- ADD of two BF16 codes (R160). -/
def bfAdd (x y : Nat) : Step16 :=
  match Fmt.value .bf16 x, Fmt.value .bf16 y with
  | some (m1, e1), some (m2, e2) =>
    let e := min e1 e2
    .ok (convDyad .bf16 (m1 * 2 ^ (e1 - e).toNat + m2 * 2 ^ (e2 - e).toNat) e)
  | _, _ => .bad

/-- The BF16 code with its sign inverted. -/
def bfNeg (x : Nat) : Nat := if x / 32768 % 2 = 1 then x % 32768 else x % 32768 + 32768

/-- SUB of two BF16 codes (R160). -/
def bfSub (x y : Nat) : Step16 := bfAdd x (bfNeg y)

/-- MUL of two BF16 codes (R160). -/
def bfMul (x y : Nat) : Step16 :=
  match Fmt.value .bf16 x, Fmt.value .bf16 y with
  | some (m1, e1), some (m2, e2) => .ok (convDyad .bf16 (m1 * m2) (e1 + e2))
  | _, _ => .bad

/-- FMA of three BF16 codes, a × b + c exactly before its single rounding (R160). -/
def bfFma (x y z : Nat) : Step16 :=
  match Fmt.value .bf16 x, Fmt.value .bf16 y, Fmt.value .bf16 z with
  | some (m1, e1), some (m2, e2), some (m3, e3) =>
    let ep := e1 + e2
    let e := min ep e3
    .ok (convDyad .bf16 (m1 * m2 * 2 ^ (ep - e).toNat + m3 * 2 ^ (e3 - e).toNat) e)
  | _, _, _ => .bad

/-- m1 × 2^e1 < m2 × 2^e2. -/
def dyadLt (m1 e1 m2 e2 : Int) : Bool :=
  let e := min e1 e2
  decide (m1 * 2 ^ (e1 - e).toNat < m2 * 2 ^ (e2 - e).toNat)

/-- MAX or MIN of two BF16 codes: the input unchanged, a zero result as +0 (R160). -/
def bfMaxMin (isMax : Bool) (x y : Nat) : Step16 :=
  match Fmt.value .bf16 x, Fmt.value .bf16 y with
  | some (m1, e1), some (m2, e2) =>
    let takeY := if isMax then dyadLt m1 e1 m2 e2 else dyadLt m2 e2 m1 e1
    let m := if takeY then m2 else m1
    .ok ⟨if m = 0 then 0 else if takeY then y else x, false, false⟩
  | _, _ => .bad

/-- RCP, RSQRT, LOG2 and EXP2 of a BF16 code with their special inputs (R164). -/
def bfUnary (fn : Nat) (x : Nat) : Step16 :=
  match Fmt.value .bf16 x with
  | none => .bad
  | some (m, e) =>
    match fn with
    | 0 => if m = 0 then .ok ⟨0x7F7F, true, false⟩ else .ok (bfRcp m e)
    | 1 => if m = 0 then .ok ⟨0x7F7F, true, false⟩ else if m < 0 then .bad else .ok (bfRsqrt m e)
    | 2 => if m = 0 then .ok ⟨0xFF7F, true, false⟩ else if m < 0 then .bad else .ok (bfLog2 m e)
    | _ => .ok (bfExp2 m e)

/-- The code of a step that feeds another step of a composite function: only the last step counts (R166). -/
def Step16.feed (r : Step16) (k : Nat → Step16) : Step16 :=
  match r with
  | .ok c => k c.code
  | .bad => .bad

/-- SIGMOID (R166). The constant -l is 0xBFB9, 1.0 is 0x3F80. -/
def bfSigmoid (x : Nat) : Step16 :=
  (bfMul x 0xBFB9).feed (fun u => (bfUnary 3 u).feed (fun v => (bfAdd v 0x3F80).feed (fun w => bfUnary 0 w)))

/-- The functions of VUN (R253), by FUNC. -/
def vunFunc (fn : Nat) (x : Nat) : Step16 :=
  match fn with
  | 4 => (bfMul x 0x3FB9).feed (fun u => bfUnary 3 u)
  | 5 => bfSigmoid x
  | 6 => (bfAdd x x).feed (fun u => (bfSigmoid u).feed (fun v => bfFma v 0x4000 0xBF80))
  | 7 => (bfSigmoid x).feed (fun u => bfMul x u)
  | f => bfUnary f x

/-! ### The counter-based generator -/

/-- The round constants K[0..3] (R167). -/
def genK : List (BitVec 64) := [0x6A3B91D42F58C7E3, 0xB5E207A9D13C4F61, 0x2C97E54B8A06F31D, 0xD41F6C8359B20EA7]

/-- One round (R167). -/
def genRound (x k : BitVec 64) : BitVec 64 :=
  let x1 := x + k
  let x2 := (x1 ^^^ (x1 >>> 29)) * 0x8F2D5B17C6E943A5
  let x3 := (x2 ^^^ (x2 >>> 32)) * 0xE3C61B5DA794F02B
  x3 ^^^ (x3 >>> 31)

/-- The generator (R167). -/
def genValue (seed : BitVec 64) (tid idx : Nat) : BitVec 64 :=
  genK.foldl genRound (seed ^^^ BitVec.ofNat 64 (tid % 2 ^ 24 * 2 ^ 40 + idx % 2 ^ 40))

/-- The BF16 code of a nonnegative fraction n / 2^24 truncated toward zero (R169). -/
def bfTrunc24 (n : Nat) : Nat :=
  if n = 0 then 0 else
  let k := Nat.log2 n
  if 7 ≤ k then Fmt.encode .bf16 false (n / 2 ^ (k - 7)) ((k : Int) - 7 - 24)
  else Fmt.encode .bf16 false (n * 2 ^ (7 - k)) ((k : Int) - 7 - 24)

/-- What VGEN writes in a lane: U16 or UNIFORM (R169). -/
def genLane (uniform : Bool) (x : BitVec 64) : Nat :=
  if uniform then bfTrunc24 (x.toNat / 2 ^ 40) else x.toNat / 2 ^ 48

end Sys2Proof.Machine
end

