-- ==== Sys2Proof/Machine/Operands.lean ====
section
/-! DEFINITION. The operand forms of the instruction words: address operands, extension words, bounds and lane masks,
element formats in memory, and what it takes for a spar to issue a word. -/

namespace Sys2Proof.Machine

/-! ### Whether a spar issues a word -/

/-- The passage of a channel that runs in the current frame (R29, R175, R177). -/
def runningPassage (s : State) (ch : Nat) : Option Passage :=
  let sl := s.slot ch
  if (sl.st = .inUse ∨ sl.st = .closing) ∧ sl.kind = .passage ∧ sl.live ∧ !s.rast.suspended ∧ !s.rast.paused ∧ !s.halted then
    sl.passages.find? (fun p => p.reef = s.rast.reef ∧ p.linesTotal = s.rast.linesTotal ∧
      p.linesActive = s.rast.linesActive ∧ p.linePeriod = s.rast.linePeriod)
  else none

/-- The fitting image of a channel whose slack bundle is running (R309). -/
def runningFit (s : State) (ch : Nat) : Option FitImage :=
  let sl := s.slot ch
  match sl.job with
  | some n => if sl.kind = .background ∧ (s.job n).running ∧ !s.rast.paused ∧ !s.halted then sl.fit else none
  | none => none

/-- The grid position of a logical spar lies in the mask mode of a word (R215). `lead` is the lowest-numbered spar of the set. -/
def maskHas (mode spar lead : Nat) : Bool :=
  let gx := spar % 8
  let gy := spar / 8
  match mode with
  | 0 => true
  | 1 => decide (gy = 0)
  | 2 => decide (gy = 7)
  | 3 => decide (1 ≤ gy ∧ gy ≤ 6)
  | 4 => decide (gx = 0)
  | 5 => decide (gx = 7)
  | 6 => decide (1 ≤ gx ∧ gx ≤ 6)
  | _ => decide (spar = lead)

/-- The lowest-numbered spar of `mask` that runs the same set as `spar`. -/
def setLeader (mask : Nat) (setMap : List Nat) (spar : Nat) : Nat :=
  ((List.range 64).find? (fun n => bitOf mask n ∧ setMap.getD n 255 = setMap.getD spar 255)).getD spar

/-- The MASK of a word does not exclude the spar (R216). A reserved value is a decode fault, so it excludes no spar here. -/
def maskLets (w : IWord) (spar lead : Nat) : Bool := decide (8 ≤ fld w 99 96) || maskHas (fld w 99 96) spar lead

/-! ### The bundle of a spar -/

/-- OPCODE of a word. -/
def opOf (w : IWord) : Nat := fld w 111 104

/-- OFFSET of a word. -/
def offOf (w : IWord) : Nat := fld w 127 112

/-- The opcodes of BEND and LOOP (R227). -/
def opBend : Nat := 0x00
def opLoop : Nat := 0x01

/-- An extension word (R214, R218). -/
def isExt (w : IWord) : Bool := decide (fld w 103 100 = 6)

/-- The words of a run up to its BEND that stand outside every loop body in it, each with its place in the run and what follows it as its own: its
extension words, or the body of a LOOP (R179, R183, R218). The first argument bounds the recursion; the number of words is enough. -/
def topWords : Nat → Nat → List IWord → List (Nat × IWord × List IWord)
  | 0, _, _ => []
  | _ + 1, _, [] => []
  | n + 1, k, w :: t =>
    if opOf w = opBend then [(k, w, [])]
    else
      let own := if opOf w = opLoop then t.take (fld w 63 56) else t.takeWhile isExt
      (k, w, own) :: topWords n (k + 1 + own.length) (t.drop own.length)

/-- What a spar runs of a channel now: its bundle set, the line map entry of its bundle, and where the bundle began, as an offset from the tick of the
line in progress. A passage issues nothing in an extension line (R22, R173, R309, R408). -/
structure Running where
  set : BundleSet
  entry : Nat
  start : Int
  mask : Nat
  lead : Nat
  fg : Bool
  ranges : List LoftRange
deriving DecidableEq, Repr

def running (s : State) (ch spar : Nat) : Option Running :=
  match runningPassage s ch with
  | some p =>
    if !bitOf p.sparMask spar || decide (s.rast.linesTotal ≤ s.rast.line) then none
    else (p.sets[p.setMap.getD spar 255]?).map (fun b =>
      ⟨b, s.rast.line, 0, p.sparMask, setLeader p.sparMask p.setMap spar, true, p.ranges⟩)
  | none => match runningFit s ch, (s.slot ch).job with
    | some f, some n =>
      if !bitOf f.sparMask spar then none
      else match f.sets[s.rast.reef]? with
        | some l => (l[f.setMap.getD spar 255]?).map (fun b =>
            ⟨b, (s.job n).next, (s.job n).start, f.sparMask, setLeader f.sparMask f.setMap spar, false, f.ranges⟩)
        | none => none
    | _, _ => none

/-- The key of a codeword of a spar's stores (R176, R178): codeword `k` of the line map, or of the words, of the set it runs of a channel at a
reef. -/
def storeKey (ch spar reef map k : Nat) : Nat := (((ch * 64 + spar) * 4 + reef) * 2 + map) * 2 ^ 16 + k

/-- A stored codeword that holds `data` is uncorrectable as it is fetched (R178, R503). -/
def State.storeUe (s : State) (key : Nat) (data : BitVec 64) : Bool :=
  let f := smGet 0 s.fab.storeFlips key
  decide (f ≠ 0) && (cwErrors (cwEncode data false ^^^ f)).isNone

/-- The fetch of the words of a set from `k` on fails: one of their codewords, two to a word, is uncorrectable. -/
def State.wordsUe (s : State) (ch spar k : Nat) (ws : List IWord) : Bool :=
  (ws.zipIdx).any (fun w => (List.range 2).any (fun h =>
    s.storeUe (storeKey ch spar s.rast.reef 0 (2 * (k + w.2) + h)) (BitVec.ofNat 64 (w.1.toNat / 2 ^ (64 * h)))))

/-- The words that are fetched for a word to issue: itself with its extension words. The body of a LOOP is fetched word by word. -/
def fetchedFor (w : IWord) (own : List IWord) : List IWord := if opOf w = opLoop then [w] else w :: own

/-- The fetch of a line map entry fails: the codeword that holds it and its neighbour is uncorrectable. -/
def State.mapUe (s : State) (ch spar e : Nat) (b : BundleSet) : Bool :=
  let at' (k : Nat) : Nat := (b.lineMap.getD k 0).toNat
  s.storeUe (storeKey ch spar s.rast.reef 1 (e / 2)) (BitVec.ofNat 64 (at' (e / 2 * 2) + at' (e / 2 * 2 + 1) * 2 ^ 32))

/-- The place in the spar's store of the word that a command issues: it stands in the bundle that the spar runs, outside every loop body, at the
offset of its cycle from the bundle's start, with what follows it as its own (R22, R183). -/
def bundlePlace (r : Running) (i : Issue) : Option Nat :=
  match r.set.lineMap[r.entry]? with
  | none => none
  | some e =>
    if fld e 14 14 = 1 then none
    else
      let ws := r.set.words.drop (fld e 13 0)
      ((topWords (ws.length + 1) (fld e 13 0) ws).find? (fun x =>
        decide (x.2.1 = i.word ∧ x.2.2 = i.ext ∧ r.start + (offOf x.2.1 : Int) = (i.c.toNat : Int)))).map (fun x => x.1)

/-- The word as its spar fetches it, with the leader of the spars that run the set and the word's place: none where the spar does not issue it, because it is
absent, runs no bundle of the channel that holds the word at this cycle, has ended the bundle, or is excluded by MASK (R22, R175, R216, R229). An uncorrectable
codeword of the store, of the word or of its line map entry, is an uncorrectable fetch (R178). -/
def fetchWord (s : State) (i : Issue) : Option (Issue × Nat × Nat) :=
  let n := i.spar.val
  let ch := i.chan.val
  if s.absent n || s.fab.ended.contains (n, ch) then none
  else match running s ch n with
    | none => none
    | some r => match bundlePlace r i with
      | none => none
      | some k =>
        if maskLets i.word n r.lead then
          some ({ i with ue := i.ue || s.wordsUe ch n k (fetchedFor i.word i.ext) || s.mapUe ch n r.entry r.set }, r.lead, k)
        else none

/-- The spar issues the word of a command. -/
def present (s : State) (i : Issue) : Bool := (fetchWord s i).isSome

/-- The port that owns the channel of the word. -/
def wordPort (s : State) (i : Issue) : Nat := (s.slot i.chan.val).port

/-- What a word takes at its issue. -/
def State.hold (s : State) (i : Issue) : Held :=
  let r := running s i.chan.val i.spar.val
  { sreg := s.fab.sreg, breg := s.fab.breg, areg := s.fab.areg, gen := s.fab.gen, descr := s.fab.descr
    actor := (s.slot i.chan.val).job, port := wordPort s i, fg := (s.slot i.chan.val).job.isNone
    ranges := match r with | some x => x.ranges | none => []
    frame := s.rast.frame, line := s.rast.line, reef := s.rast.reef, side := s.fab.side }

/-- Where the raster is, as a number within the frame. -/
def State.posNow (s : State) (c : Nat) : Nat := s.rast.line * 2 ^ 16 + c

/-- A decode fault (R193): the word does not issue, event 0x0311 goes to the owning host, and from this cycle to the end of the frame the
passage's marks and egress signals are ignored. -/
def decodeFault (i : Issue) (s : State) : State :=
  let ch := i.chan.val
  let s1 := s.postAt [wordPort s i] 0x0311 i.c.toNat
    [s.vF, (2, s.rast.line), (2, i.c.toNat), (1, i.spar.val), (4, s.handle ch)]
  let told := s.fab.muted.any (fun m => decide (m.1 = ch ∧ m.2 ≤ s.posNow i.c.toNat))
  ({ s1 with fab := { s1.fab with muted := if told then s.fab.muted else (ch, s.posNow i.c.toNat) :: s.fab.muted } }).evt 6

/-- The marks and signals that a channel issues at a position are ignored. -/
def State.mutedAt (s : State) (ch pos : Nat) : Bool := s.fab.muted.any (fun m => decide (m.1 = ch ∧ m.2 ≤ pos))

/-- What keeps a word from issuing after it decoded: an address fault (R72, event 0x0310) or a line store role fault (R96,
event 0x0312). -/
inductive IssueFault where
  | address
  | role
deriving DecidableEq, Repr

/-- An address or role fault: the word has no effect but its event (R72, R96). -/
def issueFault (f : IssueFault) (i : Issue) (s : State) : State :=
  s.postAt [wordPort s i] (match f with | .address => 0x0310 | .role => 0x0312) i.c.toNat
    [s.vF, (2, s.rast.line), (2, i.c.toNat), (1, i.spar.val)]

/-- How every word issues: a decode fault first (R272); then an address or role fault; else what it begins. -/
def issueWord {α : Type} (dec : State → Issue → Option α) (chk : State → Issue → α → Option IssueFault)
    (run : α → Issue → Held → State → State) (i : Issue) (s : State) : State :=
  match dec s i with
  | none => decodeFault i s
  | some f =>
    let h := s.hold i
    match chk (s.held h) i f with
    | some e => issueFault e i s
    | none => run f i h s

/-- A word whose reads begin in its issue cycle: its first stage comes about in that cycle. -/
def staged {α : Type} (_ : α) (i : Issue) (h : Held) (s : State) : State := s.later i.c.toNat 3 (.stage i h 0 [])

/-- The next stage of a word in cycle `u`, where one is left. -/
def nextStage (more : Bool) (i : Issue) (h : Held) (k : Nat) (acc : List (Nat × Nat)) (u : Nat) (s : State) : State :=
  if more then s.later u 3 (.stage i h k acc) else s

/-- The check of a word that forms no address. -/
def noCheck {α : Type} (_ : State) (_ : Issue) (_ : α) : Option IssueFault := none

/-- The loft ranges declared by the passage or fitting image that issues the word. -/
def declaredRanges (s : State) (i : Issue) : List LoftRange := (s.hold i).ranges

/-- The bytes from `a` lie within one declared range. -/
def inRanges (rs : List LoftRange) (a len : Nat) : Bool :=
  rs.any (fun r => decide (r.len ≠ 0 ∧ r.off ≤ a ∧ a + len ≤ r.off + r.len))

/-! ### The word and its extensions -/

/-- Every bit of the ranges is 0 (reserved bits, R226). -/
def zeros {n : Nat} (w : BitVec n) (rs : List (Nat × Nat)) : Bool := rs.all (fun r => decide (fld w r.1 r.2 = 0))

/-- The head of a main word: it could be fetched (R178), and OPCODE, UNIT (R228) and MASK (R215) are as required. -/
def headOk (i : Issue) (opcode unit : Nat) : Bool :=
  !i.ue && decide (fld i.word 111 104 = opcode ∧ fld i.word 103 100 = unit ∧ fld i.word 99 96 < 8)

/-- The extension words of a main word, in the order CX, BX, SX, each there exactly where it is required, with the main
word's OFFSET, UNIT EXT and MASK 0 (R217, R218). An extension that is not required reads as 0. -/
def extWords (i : Issue) (cx bx sx : Bool) : Option (IWord × IWord × IWord) :=
  let want := (if cx then [0xF2] else []) ++ (if bx then [0xF0] else []) ++ (if sx then [0xF1] else [])
  let okOne (w : IWord) (op : Nat) : Bool :=
    decide (fld w 111 104 = op ∧ fld w 127 112 = fld i.word 127 112 ∧ fld w 103 100 = 6 ∧ fld w 99 96 = 0)
  if i.ext.length = want.length ∧ (i.ext.zip want).all (fun p => okOne p.1 p.2) then
    let rest1 := if cx then i.ext.drop 1 else i.ext
    let rest2 := if bx then rest1.drop 1 else rest1
    some (if cx then i.ext.headD 0 else 0, if bx then rest1.headD 0 else 0, if sx then rest2.headD 0 else 0)
  else none

/-- The bounds of a BX word (R219); without one, every bound is "none" and the origins are 0. -/
structure Bounds where
  oR : Int
  oC : Int
  wRow : Option Nat
  wCol : Option Nat
  rRow : Option Nat
  rCol : Option Nat
  padSel : Nat
  padS : Nat
deriving DecidableEq, Repr

/-- A BX word read (R219): none where PADSEL or a reserved bit is reserved. -/
def decodeBx (w : IWord) : Option Bounds :=
  if zeros w [(4, 0)] ∧ fld w 11 10 ≠ 3 then
    let b (en hi lo : Nat) : Option Nat := if fld w en en = 1 then some (fld w hi lo) else none
    some ⟨sfld w 95 64, sfld w 63 32, b 31 27 24, b 30 23 20, b 29 19 16, b 28 15 12, fld w 11 10, fld w 9 5⟩
  else none

/-- A coordinate is below a bound, the B register read as unsigned 32 bits at issue (R186). -/
def belowB (s : State) (spar : Nat) (b : Option Nat) (x : Int) : Bool :=
  match b with
  | none => true
  | some n => decide (x < ((s.bReg spar n).toNat : Int))

/-- The lane writes: both write bounds pass (R186, R221). -/
def Bounds.writes (b : Bounds) (s : State) (spar : Nat) (row col : Int) : Bool :=
  belowB s spar b.wRow row && belowB s spar b.wCol col

/-- A read bound passes: none, or the coordinate is neither negative nor at or above it (R187). -/
def readB (s : State) (spar : Nat) (b : Option Nat) (x : Int) : Bool :=
  match b with
  | none => true
  | some _ => decide (0 ≤ x) && belowB s spar b x

/-- The element is fetched: both read bounds pass (R187, R221). -/
def Bounds.reads (b : Bounds) (s : State) (spar : Nat) (row col : Int) : Bool :=
  readB s spar b.rRow row && readB s spar b.rCol col

/-- The formats an operand element or a vector lane can have: R223's codes, s16 lanes and the planisher's containers. -/
inductive Ety where
  | el (f : Fmt)
  | s16
  | u8
  | u16
deriving DecidableEq, Repr

/-- Bits of an element. -/
def Ety.bits : Ety → Nat
  | .el f => f.bits
  | .s16 => 16
  | .u8 => 8
  | .u16 => 16

/-- The pad code of R219 and R278 for an element type. -/
def padCode (s : State) (spar : Nat) (b : Bounds) (t : Ety) : Nat :=
  match b.padSel with
  | 0 => 0
  | 1 => (s.sReg spar b.padS).toNat % 2 ^ t.bits
  | _ => match t with
    | .el .a4 => 0x8
    | .el .a8 => 0x80
    | .el .e4m3 => 0xFE
    | .el .e5m2 => 0xFB
    | .el .bf16 => 0xFF7F
    | .s16 => 0x8000
    | .u8 => 0
    | .u16 => 0

/-! ### Address operands -/

/-- The effective address of a 24-bit address operand, (An + offset) mod 2^40 (R222). -/
def effAddr (s : State) (spar : Nat) (op : Nat) : Nat :=
  lowBits 40 (((s.aReg spar (op / 2 ^ 21)).toNat : Int) + toSigned 21 op)

/-- `len` bytes from `a` are loft addresses of the spar's bay (R71). -/
def loftOk (a len : Nat) : Bool := decide (a + len ≤ 0x600000)

/-- `len` bytes from `a` are user HBM addresses (R71): bit 39 set, bits [38:35] clear, below 24 GiB. -/
def hbmOk (a len : Nat) : Bool := decide (2 ^ 39 ≤ a ∧ a - 2 ^ 39 + len ≤ 0x600000000)

/-- The checks at issue of the loft ranges a word reads and writes: addresses within R71 and aligned first, then roles: a
spar port reads no output row and writes no input row, whichever member of a pair an access reaches (R72, R96, R196, R222). Each entry is (address, length, alignment). -/
def loftCheck (s : State) (spar : Nat) (rds wrs : List (Nat × Nat × Nat)) : Option IssueFault :=
  let bad (r : Nat × Nat × Nat) : Bool := !loftOk r.1 r.2.1 || decide (r.1 % r.2.2 ≠ 0)
  if (rds ++ wrs).any bad then some .address
  else if rds.any (fun r => s.reachesRole spar r.1 r.2.1 1) || wrs.any (fun r => s.reachesRole spar r.1 r.2.1 2) then some .role
  else none

/-! ### Elements in the loft -/

/-- The code of element `k` of `bits` bits at a bay address, and how far its codeword is delivered poisoned (R117). -/
def elemAt (s : State) (spar base bits k : Nat) : Nat × Nat :=
  if bits = 4 then
    let b := s.loftByte spar (base + k / 2)
    (if k % 2 = 0 then b.1.toNat % 16 else b.1.toNat / 16, b.2)
  else if bits = 8 then
    let b := s.loftByte spar (base + k)
    (b.1.toNat, b.2)
  else
    let l := s.loftByte spar (base + 2 * k)
    let h := s.loftByte spar (base + 2 * k + 1)
    (l.1.toNat + 256 * h.1.toNat, max l.2 h.2)

/-! ### What a word writes -/

/-- The byte writes of one row of lanes at a bay address: `codes` gives each lane's code and poison, none where the lane does not write. Two 4-bit lanes of
one byte are written together; where one of them writes, the byte keeps its other half. -/
def laneWrites (base bits : Nat) (codes : List (Option (Nat × Nat))) : List (Nat × Byte × Nat) × List (Nat × Nat) :=
  if bits = 4 then
    let bytes := (List.range ((codes.length + 1) / 2)).map (fun b => (base + b, codes.getD (2 * b) none, codes.getD (2 * b + 1) none))
    (bytes.filterMap (fun b => match b.2.1, b.2.2 with
      | none, none => none
      | some l, none => some (b.1, BitVec.ofNat 8 (l.1 % 16), l.2)
      | none, some h => some (b.1, BitVec.ofNat 8 (h.1 % 16 * 16), h.2)
      | some l, some h => some (b.1, BitVec.ofNat 8 (l.1 % 16 + h.1 % 16 * 16), max l.2 h.2)),
     bytes.filterMap (fun b => match b.2.1, b.2.2 with
      | some _, none => some (b.1, 1)
      | none, some _ => some (b.1, 0)
      | _, _ => none))
  else
    (codes.zipIdx.flatMap (fun ck => match ck.1 with
      | none => []
      | some c => ((leBytes (bits / 8) c.1).zipIdx).map (fun (b : Byte × Nat) => (base + ck.2 * (bits / 8) + b.2, b.1, c.2))), [])

/-- What a stage of a word counts: SAT, UFZ, POI, and whether some POI is hard (R150, R336). -/
structure Tally where
  sat : Nat
  ufz : Nat
  poi : Nat
  hard : Bool
deriving DecidableEq, Repr

end Sys2Proof.Machine
end

