-- ==== Sys2Proof/Machine/Tile.lean ====
section
/-! DEFINITION. The tile matrix words MMA, CONV and TLOAD (R241 to R248) and the crucible they write (R77 to R84, R128 to
R138). ARLAND stands with the fleet. -/

namespace Sys2Proof.Machine

/-! ### The crucible -/

/-- The key of entry (i, j) of compact slot h of a spar. -/
def crucKey (spar h r c : Nat) : Nat := (32 * spar + h) * 4096 + 64 * r + c

/-- A half entry after a fabric reset (R85). -/
def Half.zero : Half := ⟨0, 0, false⟩

/-- One half entry. -/
def State.half (s : State) (spar h r c : Nat) : Half := smGet Half.zero s.fab.crucible (crucKey spar h r c)

/-- A descriptor record after a fabric reset: full view, anchor 0 (R85). -/
def Descr.zero : Descr := ⟨false, 0⟩

/-- The descriptor record h of a spar. -/
def State.descr (s : State) (spar h : Nat) : Descr := smGet Descr.zero s.fab.descr (32 * spar + h)

/-- The records a slot uses: h for compact slot h, 2k and 2k + 1 for full slot k (R80). -/
def slotRecs (compact : Bool) (slot : Nat) : List Nat := if compact then [slot] else [2 * slot, 2 * slot + 1]

/-- The descriptor records of a slot written (R80, R132). -/
def State.setDescr (s : State) (spar : Nat) (compact : Bool) (slot : Nat) (anchor : Int) : State :=
  let l : List (Nat × Descr) := (slotRecs compact slot).map (fun h => (32 * spar + h, ⟨compact, anchor⟩))
  { s with fab := { s.fab with descr := smPutAll Descr.zero s.fab.descr l } }

/-- The slot exists and its descriptor holds the view named (R81, R191). -/
def viewOk (s : State) (spar : Nat) (compact : Bool) (slot : Nat) : Bool :=
  (compact || decide (slot < 16)) && (slotRecs compact slot).all (fun h => (s.descr spar h).compact = compact)

/-- Bits of an entry of a view (R78). -/
def viewBits (compact : Bool) : Nat := if compact then 48 else 96

/-- An entry as stored: its bits, how far it is poisoned (either half of a full entry, R79), and whether a half that a read
checks mismatches (R84). -/
structure Entry where
  bits : Nat
  poison : Nat
  perr : Bool
deriving DecidableEq, Repr

/-- Entry (r, c) of a slot (R78, R79). -/
def State.entry (s : State) (spar : Nat) (compact : Bool) (slot r c : Nat) : Entry :=
  if compact then
    let a := s.half spar slot r c
    ⟨a.bits.toNat, a.poison, a.perr⟩
  else
    let a := s.half spar (2 * slot) r c
    let b := s.half spar (2 * slot + 1) r c
    ⟨a.bits.toNat + b.bits.toNat * 2 ^ 48, max a.poison b.poison, a.perr || b.perr⟩

/-- What an entry is written with: its bits, and its poison state in each half that it has; fresh parity (R79, R84). -/
def halvesOf (spar : Nat) (compact : Bool) (slot r c bits p : Nat) : List (Nat × Half) :=
  if compact then [(crucKey spar slot r c, ⟨BitVec.ofNat 48 bits, p, false⟩)]
  else [(crucKey spar (2 * slot) r c, ⟨BitVec.ofNat 48 bits, p, false⟩),
        (crucKey spar (2 * slot + 1) r c, ⟨BitVec.ofNat 48 (bits / 2 ^ 48), p, false⟩)]

def State.setHalves (s : State) (l : List (Nat × Half)) : State :=
  { s with fab := { s.fab with crucible := smPutAll Half.zero s.fab.crucible l } }

/-- The product limit, and the window limit of a read (R130, R133). -/
def windowMax (compact : Bool) : Int := if compact then 2 ^ 40 - 1 else 2 ^ 88 - 1

/-- A value clamped to ± a limit, and whether it was. -/
def clampTo (lim v : Int) : Int × Bool := if lim < v then (lim, true) else if v < -lim then (-lim, true) else (v, false)

/-! ### Operands of a tile matrix word -/

/-- The element of a code and the poison its codeword was delivered with. -/
def elOpnd (f : Fmt) (cp : Nat × Nat) : Opnd :=
  if cp.2 ≠ 0 then .bad cp.2 else match f.value cp.1 with
  | some (m, e) => .val m e
  | none => .bad 1

/-- The scale of a code (R122 to R124). -/
def scOpnd (bf : Bool) (cp : Nat × Nat) : Opnd :=
  if cp.2 ≠ 0 then .bad cp.2 else match scaleValue bf cp.1 with
  | some (m, e) => .val m e
  | none => .bad 1

/-- An element with its scale: the integers multiply and the exponents add (R128). -/
def Opnd.mul : Opnd → Opnd → Opnd
  | .val m e, .val m' e' => .val (m * m') (e + e')
  | .bad p, .bad q => .bad (max p q)
  | .bad p, _ => .bad p
  | _, .bad p => .bad p

/-- A product placed in the window of an anchor: its integer, its poison, and whether it was clamped (R129, R130). A poisoned
product places 0 (R138). -/
def place (anchor lim : Int) : Opnd → Int × Nat × Bool
  | .bad p => (0, p, false)
  | .val m e =>
    let d := e - anchor
    let v := if 0 ≤ d then m * 2 ^ d.toNat else m.sign * ((m.natAbs / 2 ^ (-d).toNat : Nat) : Int)
    let c := clampTo lim v
    (c.1, 0, c.2)

/-- What a k-step does to an entry: the bits and the poison it is written with, and whether the product clamped and a half mismatched. -/
structure CellOut where
  bits : Nat
  poison : Nat
  sat : Bool
  perr : Bool
deriving DecidableEq, Repr

/-- One k-step of a cell: the first of a starting word writes, every other reads, checks parity and adds (R84, R131). A half that mismatches, or
that was poisoned, poisons the entry: a full-slot write sets both poison bits to the entry's state (R79; DESIGN CHOICE, log 72). -/
def cellStep (n : Nat) (anchor lim : Int) (first : Bool) (e : Entry) (p : Opnd) : CellOut :=
  let q := place anchor lim p
  if first then ⟨lowBits n q.1, q.2.1, q.2.2, false⟩
  else ⟨lowBits n ((e.bits : Int) + q.1), max (max e.poison q.2.1) (if e.perr then 2 else 0), q.2.2, e.perr⟩

/-- A k-step's products land in the crucible (R64, R131): every cell of the slot adds its own; clamps and parity mismatches count where the write bounds pass
(R84, R137, R151). -/
def kstepLand (x : KStep) (s : State) : State :=
  let n := viewBits x.compact
  let lim := windowMax x.compact
  let outs := ((x.rows.zip x.liveR).zipIdx).flatMap (fun a => ((x.cols.zip x.liveC).zipIdx).map (fun b =>
    (a.2, b.2, a.1.2 && b.1.2, cellStep n x.anchor lim x.first (s.entry x.spar x.compact x.slot a.2 b.2) (a.1.1.mul b.1.1))))
  let live := outs.filter (fun o => o.2.2.1)
  let s1 := s.setHalves (outs.flatMap (fun o => halvesOf x.spar x.compact x.slot o.1 o.2.1 o.2.2.2.bits o.2.2.2.poison))
  (s1.count x.spar (live.filter (fun o => o.2.2.2.sat)).length 0 0 false).bump (A.sparCrucPerr x.spar) 31 0
    (live.filter (fun o => o.2.2.2.perr)).length

/-! ### MMA and CONV -/

/-- The main word of MMA and CONV, decoded (R241). -/
structure TileF where
  slot : Nat
  compact : Bool
  start : Bool
  fa : Fmt
  fb : Fmt
  sca : Nat
  scb : Nat
  grp : Nat
  ksteps : Nat
  a : Nat
  b : Nat
  ancSrc : Bool
  anchor : Nat
  cx : IWord
  bnd : Bounds
  sa : Nat
  sb : Nat
deriving DecidableEq, Repr

/-- The pairing of formats the array accepts (R61, R62), and a compact slot (R81). -/
def pairOk (fa fb : Fmt) (compact : Bool) : Bool :=
  decide (fa = fb ∨ (fa.is8 = true ∧ fb.is8 = true)) && (!compact || decide (fa = fb ∧ (fa = .a4 ∨ fa = .a8)))

/-- No bounds: every bound is "none" and the origins are 0 (R186). -/
def Bounds.none : Bounds := ⟨0, 0, Option.none, Option.none, Option.none, Option.none, 0, 0⟩

/-- Decoding of MMA and CONV (R62, R81, R122, R127, R191, R218, R220, R226, R241, R245). -/
def decTile (conv : Bool) (s : State) (i : Issue) : Option TileF :=
  let w := i.word
  let bxf := bitAt w 15
  let sca := fld w 82 81
  let scb := fld w 80 79
  match extWords i conv bxf (decide (sca ≠ 0 ∨ scb ≠ 0)), Fmt.ofCode (fld w 88 86), Fmt.ofCode (fld w 85 83) with
  | some (cx, bx, sx), some fa, some fb =>
    match (if bxf then decodeBx bx else some Bounds.none) with
    | none => none
    | some bnd =>
      let compact := bitAt w 90
      let start := bitAt w 89
      let slot := fld w 95 91
      let sa := fld sx 95 72
      let sb := fld sx 71 48
      let kst := fld w 76 64
      let scaleOk (f : Fmt) (sc adr : Nat) : Bool :=
        decide (sc < 3 ∧ (sc = 0 → adr = 0) ∧ (sc ≠ 0 → f ≠ .bf16) ∧ (compact = true → sc ≠ 2))
      let geomOk := !conv || decide (fld cx 55 48 ≠ 0 ∧ fld cx 47 40 ≠ 0 ∧ fld cx 39 36 ≠ 0 ∧ fld cx 35 32 ≠ 0 ∧
        fld cx 31 30 < 2 ∧ fld cx 29 16 ≠ 0 ∧ fld cx 10 0 = 0 ∧ kst = fld cx 35 32 * fld cx 39 36 * fld cx 29 16)
      if headOk i (if conv then 0x41 else 0x40) 1 ∧ pairOk fa fb compact ∧ scaleOk fa sca sa ∧ scaleOk fb scb sb ∧
          (decide (sca ≠ 0 ∨ scb ≠ 0) = true → fld sx 47 0 = 0) ∧ fld w 78 77 < 3 ∧ kst ≠ 0 ∧ zeros w [(13, 12)] ∧ geomOk ∧
          (compact ∨ slot < 16) ∧ (start ∨ (viewOk s i.spar.val compact slot ∧ fld w 14 14 = 0 ∧ fld w 11 0 = 0)) ∧
          (fld w 14 14 = 0 ∨ fld w 11 5 = 0) then
        some ⟨slot, compact, start, fa, fb, sca, scb, 32 * 2 ^ fld w 78 77, kst, fld w 63 40, fld w 39 16, bitAt w 14,
          fld w 11 0, cx, bnd, sa, sb⟩
      else none
  | _, _, _ => none

/-- The bytes of a scale vector (R125). -/
def scaleVec (sc : Nat) : Nat := if sc = 2 then 128 else 64

/-- The scale groups of a word (R126). -/
def TileF.groups (f : TileF) : Nat := ceilDiv f.ksteps f.grp

/-- The address of the run of 64 A elements that CONV reads in k-step k, before its format's element size: tap (dy, dx) and
channel c (R246). Answers (byte address of lane 0's whole-byte part, dy, dx). -/
def convTap (f : TileF) (k : Nat) : Nat × Nat × Nat :=
  let cin := fld f.cx 29 16
  let kw := fld f.cx 39 36
  (k % cin, k / cin / kw, k / cin % kw)

/-- The address of CONV's element (i, k) in half bytes from the loft base (R246). -/
def convHalf (f : TileF) (base i k : Nat) : Nat :=
  let t := convTap f k
  let s := 1 + fld f.cx 31 30
  2 * (base + t.1 * fld f.cx 95 72 + t.2.1 * fld f.cx 47 40 * fld f.cx 71 56) +
    (i * s + t.2.2 * fld f.cx 55 48) * (f.fa.bits / 4)

/-- The bytes a run of CONV reads in k-step k: (address, length). -/
def convRun (f : TileF) (base k : Nat) : Nat × Nat :=
  let lo := convHalf f base 0 k / 2
  let hi := (convHalf f base 63 k + f.fa.bits / 4 - 1) / 2
  (lo, hi + 1 - lo)

/-- The loft ranges that MMA or CONV reads: (address, length, alignment). -/
def tileReads (conv : Bool) (s : State) (spar : Nat) (f : TileF) : List (Nat × Nat × Nat) :=
  let ea := effAddr s spar f.a
  let aR : List (Nat × Nat × Nat) :=
    if conv then (ea, 0, 64) :: (List.range f.ksteps).map (fun k => ((convRun f ea k).1, (convRun f ea k).2, 1))
    else [(ea, f.ksteps * f.fa.vec, 64)]
  aR ++ [(effAddr s spar f.b, f.ksteps * f.fb.vec, if f.fb = .a4 then 32 else 64)] ++
    (if f.sca ≠ 0 then [(effAddr s spar f.sa, f.groups * scaleVec f.sca, 1)] else []) ++
    (if f.scb ≠ 0 then [(effAddr s spar f.sb, f.groups * scaleVec f.scb, 1)] else [])

def chkTile (conv : Bool) (s : State) (i : Issue) (f : TileF) : Option IssueFault :=
  loftCheck s i.spar.val (tileReads conv s i.spar.val f) []

/-- Element (i, k) of A: the pad value where a read bound does not pass (R187, R221). -/
def tileA (conv : Bool) (s : State) (spar : Nat) (f : TileF) (i k : Nat) : Opnd :=
  let ea := effAddr s spar f.a
  let pad := elOpnd f.fa (padCode s spar f.bnd (.el f.fa), 0)
  if conv then
    let t := convTap f k
    let x := f.bnd.oR + ((i * (1 + fld f.cx 31 30) + t.2.2 * fld f.cx 55 48 : Nat) : Int)
    let y := toSigned 32 (s.bReg spar (fld f.cx 14 11)).toNat + ((t.2.1 * fld f.cx 47 40 : Nat) : Int)
    if readB s spar f.bnd.rCol x && (fld f.cx 15 15 = 0 || readB s spar f.bnd.rRow y) then
      let hb := convHalf f ea i k
      elOpnd f.fa (if f.fa = .a4 then elemAt s spar (hb / 2) 4 (hb % 2) else elemAt s spar (hb / 2) f.fa.bits 0)
    else pad
  else if readB s spar f.bnd.rRow (f.bnd.oR + (i : Int)) then elOpnd f.fa (elemAt s spar (ea + k * f.fa.vec) f.fa.bits i)
  else pad

/-- Element (k, j) of B. MMA tests its column against the read column bound (R221). -/
def tileB (conv : Bool) (s : State) (spar : Nat) (f : TileF) (k j : Nat) : Opnd :=
  if conv || readB s spar f.bnd.rCol (f.bnd.oC + (j : Int)) then
    elOpnd f.fb (elemAt s spar (effAddr s spar f.b + k * f.fb.vec) f.fb.bits j)
  else elOpnd f.fb (padCode s spar f.bnd (.el f.fb), 0)

/-- A scale vector of an operand, as codes with the poison they were delivered with (R125); nothing without scales. -/
def scaleCodes (s : State) (spar sc adr g : Nat) : List (Nat × Nat) :=
  if sc = 0 then []
  else (List.range 64).map (fun i => elemAt s spar (effAddr s spar adr + g * scaleVec sc) (if sc = 2 then 16 else 8) i)

/-- The scale of row or column i, from the codes of its group (R122 to R124); 1 without scales. -/
def scaleOpnd (sc : Nat) (codes : List (Nat × Nat)) (i : Nat) : Opnd :=
  if sc = 0 then .val 1 0 else scOpnd (decide (sc = 2)) (codes.getD i (0, 0))

/-- The anchor that a word places its products with (R132): its own where it starts, else the descriptor's. -/
def tileAnchor (s : State) (spar : Nat) (f : TileF) : Int :=
  if f.start then (if f.ancSrc then toSigned 12 (s.sReg spar (f.anchor % 32)).toNat else toSigned 12 f.anchor)
  else (s.descr spar ((slotRecs f.compact f.slot).headD 0)).anchor

/-- The codewords that a k-step reads: those of its A and B vectors that hold an element it fetches. -/
def tileAccs (conv : Bool) (s : State) (spar : Nat) (f : TileF) (k : Nat) : List (Nat × Nat) :=
  let ea := effAddr s spar f.a
  let eb := effAddr s spar f.b
  oneRead (if conv then
      (List.range 64).filterMap (fun (i : Nat) =>
        let t := convTap f k
        let x := f.bnd.oR + ((i * (1 + fld f.cx 31 30) + t.2.2 * fld f.cx 55 48 : Nat) : Int)
        let y := toSigned 32 (s.bReg spar (fld f.cx 14 11)).toNat + ((t.2.1 * fld f.cx 47 40 : Nat) : Int)
        if readB s spar f.bnd.rCol x && (fld f.cx 15 15 = 0 || readB s spar f.bnd.rRow y) then
          some (convHalf f ea i k / 2, if f.fa.bits = 16 then 2 else 1) else none)
    else (List.range 64).filterMap (fun (i : Nat) =>
      if readB s spar f.bnd.rRow (f.bnd.oR + (i : Int)) then
        some (ea + k * f.fa.vec + i * f.fa.bits / 8, if f.fa.bits = 16 then 2 else 1) else none)) ++
  oneRead ((List.range 64).filterMap (fun (j : Nat) =>
    if conv || readB s spar f.bnd.rCol (f.bnd.oC + (j : Int)) then
      some (eb + k * f.fb.vec + j * f.fb.bits / 8, if f.fb.bits = 16 then 2 else 1) else none))

/-- The k-steps the array takes in one read cycle, and the cycles from one read to the next (R61, R243). -/
def TileF.rate (f : TileF) : Nat × Nat := if f.fa = .a4 then (2, 1) else if f.fa = .bf16 then (1, 4) else (1, 1)

/-- A read cycle of a tile matrix word, in cycle `u`: the scale vectors at the start of a group (R65), then the A and B vectors of its k-steps (R243, R246),
whose products land 8 cycles after the array has taken them (R64, R128 to R132). -/
def tileStage (conv : Bool) (f : TileF) (i : Issue) (h : Held) (k : Nat) (acc : List (Nat × Nat)) (u : Nat) (s : State) : State :=
  let v := s.held h
  let spar := i.spar.val
  let k0 := k * f.rate.1
  let ks := (List.range f.rate.1).map (fun d => k0 + d) |>.filter (fun x => decide (x < f.ksteps))
  let start := decide (k0 % f.grp = 0)
  let acc1 := if start then scaleCodes v spar f.sca f.sa (k0 / f.grp) ++ scaleCodes v spar f.scb f.sb (k0 / f.grp) else acc
  let sa := if f.sca = 0 then [] else acc1.take 64
  let sb := if f.sca = 0 then acc1 else acc1.drop 64
  let step (x : Nat) : KStep := {
    spar := spar, compact := f.compact, slot := f.slot, anchor := tileAnchor v spar f, first := f.start && decide (x = 0)
    rows := (List.range 64).map (fun r => (tileA conv v spar f r x).mul (scaleOpnd f.sca sa r))
    cols := (List.range 64).map (fun c => (tileB conv v spar f x c).mul (scaleOpnd f.scb sb c))
    liveR := (List.range 64).map (fun (r : Nat) => belowB v spar f.bnd.wRow (if conv then (r : Int) else f.bnd.oR + (r : Int)))
    liveC := (List.range 64).map (fun (c : Nat) => belowB v spar f.bnd.wCol (f.bnd.oC + (c : Int))) }
  let s1 := ks.foldl (fun t x => t.later (u + f.rate.2 + 8) 0 (.kstep (step x))) s
  let scs := if start then
      (if f.sca ≠ 0 then [(effAddr v spar f.sa + k0 / f.grp * scaleVec f.sca, scaleVec f.sca)] else []) ++
      (if f.scb ≠ 0 then [(effAddr v spar f.sb + k0 / f.grp * scaleVec f.scb, scaleVec f.scb)] else [])
    else []
  let s2 := s1.portReads h spar (ks.flatMap (tileAccs conv v spar f) ++ scs)
  if k0 + f.rate.1 < f.ksteps then s2.later (u + f.rate.2) 3 (.stage i h (k + 1) acc1) else s2

/-- A tile matrix word issues: one that starts an accumulation writes the slot's descriptor (R80, R132), which words that issue later see. -/
def tileIssue (f : TileF) (i : Issue) (h : Held) (s : State) : State :=
  let s1 := staged f i h s
  if f.start then s1.later (i.c.toNat + 1) 0 (.setDescr i.spar.val f.compact f.slot (tileAnchor (s.held h) i.spar.val f)) else s1

/-- MMA issues (R241 to R243). -/
def wordMma : Issue → State → State := issueWord (decTile false) (chkTile false) tileIssue

/-- CONV issues (R245, R246). -/
def wordConv : Issue → State → State := issueWord (decTile true) (chkTile true) tileIssue

/-! ### TLOAD -/

/-- The fields of TLOAD (R248). -/
structure TloadF where
  dst : Nat
  src : Nat
  pitch : Nat
  bits : Nat
  bnd : Bounds
deriving DecidableEq, Repr

def decTload (_ : State) (i : Issue) : Option TloadF :=
  let w := i.word
  match extWords i false (bitAt w 29) false with
  | none => none
  | some (_, bx, _) =>
    match (if bitAt w 29 then decodeBx bx else some Bounds.none) with
    | none => none
    | some bnd =>
      if headOk i 0x42 1 ∧ fld w 31 30 < 3 ∧ zeros w [(28, 0)] then
        some ⟨fld w 95 72, fld w 71 48, fld w 47 32, 4 * 2 ^ fld w 31 30, bnd⟩
      else none

def chkTload (s : State) (i : Issue) (f : TloadF) : Option IssueFault :=
  let spar := i.spar.val
  let src := effAddr s spar f.src
  loftCheck s spar ((List.range 64).map (fun r => (src + r * f.pitch, 8 * f.bits, 1)))
    [(effAddr s spar f.dst, 64 * 8 * f.bits, 1)]

/-- The pad code of TLOAD (R219). An element of 8 or 16 bits has no format here, so its most negative finite code is a free
value. -/
def tloadPad (s : State) (spar : Nat) (f : TloadF) : Nat :=
  if f.bnd.padSel = 2 ∧ f.bits ≠ 4 then Config.tloadLowPad f.bits % 2 ^ f.bits
  else padCode s spar f.bnd (if f.bits = 4 then .el .a4 else if f.bits = 8 then .el .a8 else .el .bf16)

/-- TLOAD in cycle `u` reads row r of its 64 rows of 64 elements; after the last it writes them as packed vectors, one per column, codes unchanged
(R248). A destination codeword carries the poison of the codewords its bytes come from (R506). -/
def tloadStage (f : TloadF) (i : Issue) (h : Held) (r : Nat) (acc : List (Nat × Nat)) (u : Nat) (s : State) : State :=
  let v := s.held h
  let spar := i.spar.val
  let src := effAddr v spar f.src + r * f.pitch
  let ok (c : Nat) : Bool := f.bnd.reads v spar (f.bnd.oR + (r : Int)) (f.bnd.oC + (c : Int))
  let acc1 := acc ++ (List.range 64).map (fun c => if ok c then elemAt v spar src f.bits c else (tloadPad v spar f, 0))
  let s1 := s.portReads h spar (oneRead ((List.range 64).filterMap (fun (c : Nat) =>
    if ok c then some (src + c * f.bits / 8, if f.bits = 16 then 2 else 1) else none)))
  if r < 63 then s1.later (u + 1) 3 (.stage i h (r + 1) acc1)
  else
    let dst := effAddr v spar f.dst
    let col (c : Nat) : List (Option (Nat × Nat)) := (List.range 64).map (fun (q : Nat) =>
      if f.bnd.writes v spar (f.bnd.oR + (q : Int)) (f.bnd.oC + (c : Int)) then some (acc1.getD (64 * q + c) (0, 0)) else none)
    (List.range 64).foldl (fun t c =>
      let w := laneWrites (dst + c * 8 * f.bits) f.bits (col c)
      t.storeAt h (u + 5 + c) spar w.1 w.2) s1

/-- TLOAD issues. -/
def wordTload : Issue → State → State := issueWord decTload chkTload staged

end Sys2Proof.Machine
end

