-- ==== Sys2Proof/Machine/Vector.lean ====
section
/-! DEFINITION. The vector words (R159 to R170, R250 to R255). -/

namespace Sys2Proof.Machine

/-! ### The vector word -/

/-- A vector word, decoded (R250). `src2` is the field [47:24]. -/
structure VecF where
  dst : Nat
  src1 : Nat
  src2 : Nat
  s2k : Nat
  nvec : Nat
  func : Nat
  ers : Bool
  bnd : Bounds
deriving DecidableEq, Repr

/-- The fields every vector word shares, with the checks every one shares. -/
def decVec (opcode : Nat) (i : Issue) : Option VecF :=
  let w := i.word
  match extWords i false (bitAt w 7) false with
  | none => none
  | some (_, bx, _) =>
    match (if bitAt w 7 then decodeBx bx else some Bounds.none) with
    | none => none
    | some bnd =>
      if headOk i opcode 2 ∧ fld w 23 22 < 3 ∧ fld w 21 12 ≠ 0 ∧ zeros w [(5, 0)] then
        some ⟨fld w 95 72, fld w 71 48, fld w 47 24, fld w 23 22, fld w 21 12, fld w 11 8, bitAt w 6, bnd⟩
      else none

/-- A binary word: FUNC and ERS 0, and the bits of SRC2 that its kind does not use 0 (R250). -/
def decBin (opcode : Nat) (_ : State) (i : Issue) : Option VecF :=
  match decVec opcode i with
  | some f => if f.func = 0 ∧ f.ers = false ∧ (f.s2k = 1 → f.src2 < 32) ∧ (f.s2k = 2 → f.src2 < 65536) then some f else none
  | none => none

/-- VCVT and VUN: no second operand (R250). -/
def decUn (opcode maxFunc : Nat) (_ : State) (i : Issue) : Option VecF :=
  match decVec opcode i with
  | some f => if f.func ≤ maxFunc ∧ f.ers = false ∧ f.s2k = 0 ∧ f.src2 = 0 then some f else none
  | none => none

/-- What one lane writes: its code, how far its codeword is marked, its counters, and how far it is poisoned. -/
structure Lane where
  code : Nat
  mark : Nat
  sat : Bool
  ufz : Bool
  poi : Nat
deriving DecidableEq, Repr

/-- A poisoned lane (R162). -/
def Lane.bad (code p : Nat) : Lane := ⟨code, 0, false, false, p⟩

/-- A BF16 result, or the poison code of an invalid input; `p` is the poison the inputs were delivered with. -/
def laneBf (p : Nat) (r : Step16) : Lane :=
  if p ≠ 0 then Lane.bad 0x7FC0 p else match r with
  | .ok c => ⟨c.code, 0, c.sat, c.ufz, 0⟩
  | .bad => Lane.bad 0x7FC0 1

/-- An s16 result clamped (R161). -/
def laneS16 (p : Nat) (v : Int) : Lane :=
  if p ≠ 0 then Lane.bad 0x7FFF p
  else if 32767 < v then ⟨0x7FFF, 0, true, false, 0⟩
  else if v < -32768 then ⟨0x8000, 0, true, false, 0⟩
  else ⟨lowBits 16 v, 0, false, false, 0⟩

/-- The elements of vector `v` of a loft operand: the pad value where a read bound does not pass (R187, R221). -/
def vecEls (s : State) (spar : Nat) (b : Bounds) (base bits : Nat) (ty : Ety) (v : Nat) : List (Nat × Nat) :=
  (List.range 256).map (fun (l : Nat) =>
    if b.reads s spar (b.oR + (v : Int)) (b.oC + (l : Int)) then elemAt s spar (base + v * 32 * bits) bits l
    else (padCode s spar b ty, 0))

/-- The codewords that a read of vector `v` reads: those that hold an element a read bound passes. -/
def vecAccs (s : State) (spar : Nat) (b : Bounds) (base bits v : Nat) : List (Nat × Nat) :=
  oneRead ((List.range 256).filterMap (fun (l : Nat) =>
    if b.reads s spar (b.oR + (v : Int)) (b.oC + (l : Int)) then some (base + v * 32 * bits + l * (bits / 8), bits / 8) else none))

/-- The lanes of vector `v` written where the write bounds pass, with the write issued in cycle `wr`; masked lanes write and count nothing
(R151, R188). -/
def vecWrite (s : State) (i : Issue) (h : Held) (b : Bounds) (dst bits v wr : Nat) (lanes : List Lane) : State :=
  let spar := i.spar.val
  let view := s.held h
  let row := (lanes.zipIdx).map (fun (x : Lane × Nat) =>
    if b.writes view spar (b.oR + (v : Int)) (b.oC + (x.2 : Int)) then some x.1 else none)
  let done := row.filterMap (fun o => o)
  let w := laneWrites (dst + v * 32 * bits) bits (row.map (fun o => o.map (fun x => (x.code, x.mark))))
  (s.storeAt h wr spar w.1 w.2).count spar (done.filter (fun x => x.sat)).length (done.filter (fun x => x.ufz)).length
    (done.filter (fun x => decide (x.poi ≠ 0))).length (done.any (fun x => decide (x.poi = 2)))

/-! ### Binary words -/

/-- The loft ranges a binary word reads and writes. -/
def chkBin (fma : Bool) (s : State) (i : Issue) (f : VecF) : Option IssueFault :=
  let n := i.spar.val
  let len := f.nvec * 512
  loftCheck s n ([(effAddr s n f.src1, len, 64)] ++ (if f.s2k = 0 then [(effAddr s n f.src2, len, 64)] else []) ++
    (if fma then [(effAddr s n f.dst, len, 64)] else [])) [(effAddr s n f.dst, len, 64)]

/-- The number of loft vectors a binary word reads per result vector (R251). -/
def binReads (fma : Bool) (f : VecF) : Nat := 1 + b2n (decide (f.s2k = 0)) + b2n fma

/-- The operand in memory that a binary word reads as number `j` for a result vector (R251): SRC1, then SRC2 where it is a loft vector, then DST for
VFMA (DESIGN CHOICE of the order, log 73). -/
def binSrc (s : State) (spar : Nat) (f : VecF) (j : Nat) : Nat :=
  effAddr s spar (if j = 0 then f.src1 else if j = 1 ∧ f.s2k = 0 then f.src2 else f.dst)

/-- The second operand in every lane where it is no loft vector: the low half of an S register, or the immediate (R250). -/
def binScalar (s : State) (spar : Nat) (f : VecF) : Nat := if f.s2k = 1 then (s.sReg spar f.src2).toNat % 65536 else f.src2 % 65536

/-- A binary word in cycle `u` reads one vector; with the last of a result vector, `op` of the codes goes to every lane, written 5 cycles later, or 6 for
VFMA (R160 to R162, R251). -/
def binStage (fma : Bool) (ty : Ety) (op : Nat → Nat → Nat → Nat → Lane) (f : VecF) (i : Issue) (h : Held) (k : Nat)
    (acc : List (Nat × Nat)) (u : Nat) (s : State) : State :=
  let n := i.spar.val
  let view := s.held h
  let nl := binReads fma f
  let v := k / nl
  let src := binSrc view n f (k % nl)
  let acc1 := acc ++ vecEls view n f.bnd src 16 ty v
  let s1 := s.portReads h n (vecAccs view n f.bnd src 16 v)
  let last := decide (k % nl + 1 = nl)
  let more := decide (k + 1 < f.nvec * nl)
  if last then
    let ys := if f.s2k = 0 then (acc1.drop 256).take 256 else List.replicate 256 (binScalar view n f, 0)
    let zs := if fma then acc1.drop (256 * (nl - 1)) else List.replicate 256 (0, 0)
    let lanes := (((acc1.take 256).zip ys).zip zs).map (fun x =>
      op (max (max x.1.1.2 x.1.2.2) x.2.2) x.1.1.1 x.1.2.1 x.2.1)
    nextStage more i h (k + 1) [] (u + 1) (vecWrite s1 i h f.bnd (effAddr view n f.dst) 16 v (u + (if fma then 6 else 5)) lanes)
  else nextStage more i h (k + 1) acc1 (u + 1) s1

/-- The stages of a BF16 binary word (R160, R162). -/
def bfStage (op : Nat → Nat → Step16) : VecF → Issue → Held → Nat → List (Nat × Nat) → Nat → State → State :=
  binStage false (.el .bf16) (fun p x y _ => laneBf p (op x y))

/-- The stages of an s16 binary word (R161, R162). -/
def s16Stage (op : Int → Int → Int) : VecF → Issue → Held → Nat → List (Nat × Nat) → Nat → State → State :=
  binStage false .s16 (fun p x y _ => laneS16 p (op (toSigned 16 x) (toSigned 16 y)))

/-- The stages of VFMA: dst ← src1 × src2 + dst (R160, R251). -/
def fmaStage : VecF → Issue → Held → Nat → List (Nat × Nat) → Nat → State → State :=
  binStage true (.el .bf16) (fun p x y z => laneBf p (bfFma x y z))

/-- A binary word issues. -/
def wordBin (opcode : Nat) (fma : Bool) : Issue → State → State := issueWord (decBin opcode) (chkBin fma) staged

/-! ### VCVT -/

/-- Bits of the elements VCVT reads and writes, and the element type it pads with (R252). -/
def cvtShape (func : Nat) : Nat × Nat × Ety :=
  match func with
  | 0 => (16, 16, .el .bf16)
  | 1 => (16, 16, .s16)
  | 2 => (8, 16, .el .a8)
  | 3 => (16, 8, .s16)
  | 4 => (8, 16, .el .e4m3)
  | _ => (8, 16, .el .e5m2)

/-- The conversions of R252. -/
def cvtLane (func p x : Nat) : Lane :=
  match func with
  | 0 =>
    if p ≠ 0 then Lane.bad 0x7FFF p else
    match Fmt.value .bf16 x with
    | none => Lane.bad 0x7FFF 1
    | some (m, e) =>
      let q := dyad m e
      let v := rneDiv q.1 q.2
      let r := laneS16 0 v
      { r with ufz := decide (m ≠ 0 ∧ v = 0) }
  | 1 => laneBf p (.ok (convert .bf16 (toSigned 16 x) 1))
  | 2 => laneS16 p (toSigned 8 x)
  | 3 =>
    if p ≠ 0 then ⟨0x7F, p, false, false, p⟩
    else let c := convert .a8 (toSigned 16 x) 1; ⟨c.code, 0, c.sat, c.ufz, 0⟩
  | _ =>
    let f := if func = 4 then Fmt.e4m3 else Fmt.e5m2
    match f.value x with
    | none => Lane.bad 0x7FC0 (max 1 p)
    | some (m, e) => laneBf p (.ok (convDyad .bf16 m e))

def chkUn (inBits outBits : Nat) (s : State) (i : Issue) (f : VecF) : Option IssueFault :=
  let n := i.spar.val
  loftCheck s n [(effAddr s n f.src1, f.nvec * 32 * inBits, 64)] [(effAddr s n f.dst, f.nvec * 32 * outBits, 64)]

def chkVcvt (s : State) (i : Issue) (f : VecF) : Option IssueFault :=
  chkUn (cvtShape f.func).1 (cvtShape f.func).2.1 s i f

/-- VCVT in cycle `u` reads vector v and writes it 5 cycles later (R251, R252). -/
def cvtStage (f : VecF) (i : Issue) (h : Held) (v : Nat) (_ : List (Nat × Nat)) (u : Nat) (s : State) : State :=
  let n := i.spar.val
  let view := s.held h
  let sh := cvtShape f.func
  let src := effAddr view n f.src1
  let lanes := (vecEls view n f.bnd src sh.1 sh.2.2 v).map (fun x => cvtLane f.func x.2 x.1)
  nextStage (decide (v + 1 < f.nvec)) i h (v + 1) [] (u + 1)
    (vecWrite (s.portReads h n (vecAccs view n f.bnd src sh.1 v)) i h f.bnd (effAddr view n f.dst) sh.2.1 v (u + 5) lanes)

def wordVcvt : Issue → State → State := issueWord (decUn 0x5B 5) chkVcvt staged

/-! ### VUN -/

/-- Steps per vector (R253). -/
def vunSteps (func : Nat) : Nat := match func with | 4 => 2 | 5 => 4 | 6 => 6 | 7 => 5 | _ => 1

/-- VUN in the first cycle `u` of the block of vector v reads it, and writes it 8 cycles after the block (R251, R253). -/
def vunStage (f : VecF) (i : Issue) (h : Held) (v : Nat) (_ : List (Nat × Nat)) (u : Nat) (s : State) : State :=
  let n := i.spar.val
  let view := s.held h
  let src := effAddr view n f.src1
  let lanes := (vecEls view n f.bnd src 16 (.el .bf16) v).map (fun x => laneBf x.2 (vunFunc f.func x.1))
  nextStage (decide (v + 1 < f.nvec)) i h (v + 1) [] (u + vunSteps f.func)
    (vecWrite (s.portReads h n (vecAccs view n f.bnd src 16 v)) i h f.bnd (effAddr view n f.dst) 16 v (u + vunSteps f.func + 8) lanes)

def wordVun : Issue → State → State := issueWord (decUn 0x5C 7) (chkUn 16 16) staged

/-! ### VRED -/

/-- VRED: Sd in [95:91], the anchor in SRC2 (R250, R254). -/
def decVred (_ : State) (i : Issue) : Option VecF :=
  match decVec 0x5D i with
  | some f =>
    if f.func < 4 ∧ f.s2k = 0 ∧ fld i.word 90 72 = 0 ∧ (if f.ers then f.src2 < 32 else f.src2 < 4096) then some f else none
  | none => none

def chkVred (s : State) (i : Issue) (f : VecF) : Option IssueFault :=
  loftCheck s i.spar.val [(effAddr s i.spar.val f.src1, f.nvec * 512, 64)] []

/-- The result of a reduction over the finite elements of its unmasked lanes: the code and the SAT and UFZ it raises (R163). -/
def redResult (func : Nat) (er : Int) (codes : List Nat) : Nat × Nat × Nat :=
  match func with
  | 2 => (match codes with
    | [] => 0xFF7F
    | c :: t => t.foldl (fun a x => match bfMaxMin true a x with | .ok r => r.code | .bad => a)
        (match bfMaxMin true c c with | .ok r => r.code | .bad => c), 0, 0)
  | 3 => (codes.foldl (fun a x => max a (x % 32768)) 0, 0, 0)
  | _ =>
    let lim : Int := 2 ^ 56 - 1
    let terms := codes.filterMap (fun x => match Fmt.value .bf16 x with
      | some (m, e) => some (place er lim (if func = 0 then .val m e else .val (m * m) (2 * e)))
      | none => none)
    let sum := toSigned 64 (lowBits 64 (terms.foldl (fun a t => a + t.1) 0))
    let c := clampTo lim sum
    let r := convDyad .bf16 c.1 er
    (r.code, (terms.filter (fun t => t.2.2)).length + b2n c.2 + b2n r.sat, b2n r.ufz)

/-- The code that VRED writes, and its SAT, UFZ and POI, of the unmasked lanes (R163): any invalid or poisoned lane poisons it. -/
def vredOut (func : Nat) (er : Int) (lanes : List (Nat × Nat)) : Nat × Tally :=
  let bad : Nat := lanes.foldl (fun p x => max p (if x.2 ≠ 0 then x.2 else if (Fmt.value .bf16 x.1).isNone then 1 else 0)) 0
  if bad ≠ 0 then (0x7FC0, ⟨0, 0, 1, decide (bad = 2)⟩)
  else
    let r := redResult func er (lanes.map (fun x => x.1))
    (r.1, ⟨r.2.1, r.2.2, 0, false⟩)

/-- VRED in cycle `u` reads vector v; after the last, the reduction of all unmasked lanes goes to Sd, seen 15 cycles later (R163, R227, R254). -/
def vredStage (f : VecF) (i : Issue) (h : Held) (v : Nat) (acc : List (Nat × Nat)) (u : Nat) (s : State) : State :=
  let n := i.spar.val
  let view := s.held h
  let src := effAddr view n f.src1
  let els := ((vecEls view n f.bnd src 16 (.el .bf16) v).zipIdx).filterMap (fun (x : (Nat × Nat) × Nat) =>
    if f.bnd.writes view n (f.bnd.oR + (v : Int)) (f.bnd.oC + (x.2 : Int)) then some x.1 else none)
  let acc1 := els.reverse ++ acc
  let s1 := s.portReads h n (vecAccs view n f.bnd src 16 v)
  if v + 1 < f.nvec then s1.later (u + 1) 3 (.stage i h (v + 1) acc1)
  else
    let er := if f.ers then toSigned 12 (view.sReg n (f.src2 % 32)).toNat else toSigned 12 f.src2
    let r := vredOut f.func er acc1.reverse
    (s1.count n r.2.sat r.2.ufz r.2.poi r.2.hard).later (u + 15) 0 (.setS n (fld i.word 95 91) (BitVec.ofNat 32 r.1))

def wordVred : Issue → State → State := issueWord decVred chkVred staged

/-! ### VGEN -/

/-- VGEN: TID in SRC1, the seed pair (even) and the output in SRC2 (R255). -/
def decVgen (_ : State) (i : Issue) : Option VecF :=
  match decVec 0x5E i with
  | some f =>
    if f.func = 0 ∧ f.ers = false ∧ f.s2k = 0 ∧ fld i.word 43 43 = 0 ∧ fld i.word 41 24 = 0 then some f else none
  | none => none

def chkVgen (s : State) (i : Issue) (f : VecF) : Option IssueFault :=
  loftCheck s i.spar.val [] [(effAddr s i.spar.val f.dst, f.nvec * 512, 64)]

/-- VGEN in cycle `u` forms vector v of its output from the index of its issue cycle, written 7 cycles later (R168, R169, R235, R251, R255). -/
def vgenStage (f : VecF) (i : Issue) (h : Held) (v : Nat) (_ : List (Nat × Nat)) (u : Nat) (s : State) : State :=
  let n := i.spar.val
  let view := s.held h
  let k := fld i.word 47 43
  let seed := BitVec.ofNat 64 ((view.sReg n k).toNat + (view.sReg n (k + 1)).toNat * 2 ^ 32)
  let idx := (view.genIdx n).toNat
  let lanes : List Lane := (List.range 256).map (fun (l : Nat) =>
    ⟨genLane (bitAt i.word 42) (genValue seed f.src1 ((idx + v * 256 + l) % 2 ^ 40)), 0, false, false, 0⟩)
  nextStage (decide (v + 1 < f.nvec)) i h (v + 1) [] (u + 1) (vecWrite s i h f.bnd (effAddr view n f.dst) 16 v (u + 7) lanes)

/-- VGEN issues: GEN_IDX advances by NVEC × 256, which words of the next cycle see (R168, R235). -/
def wordVgen : Issue → State → State := issueWord decVgen chkVgen (fun f i h s =>
  (staged f i h s).later (i.c.toNat + 1) 0 (.addGen i.spar.val (f.nvec * 256)))

end Sys2Proof.Machine
end

