-- ==== Sys2Proof/Machine/Quant.lean ====
section
/-! DEFINITION. The quantise and rescale words RESC and QUANT (R133, R139 to R149, R256 to R259) and the scale watches they
feed (R153, R154, R303). ARSEND stands with the fleet. -/

namespace Sys2Proof.Machine

/-! ### Scale watches -/

/-- What one watched output element adds to a watch: its SAT and UFZ increments, and the AMAX code of |r| where it is not
poisoned (R153). -/
structure WatchEl where
  sat : Nat
  ufz : Nat
  amax : Nat
deriving DecidableEq, Repr

/-- A watch before any element. -/
def WatchFig.zero : WatchFig := ⟨0, 0, 0, 0⟩

/-- The figures with some elements added (R153, R154). -/
def WatchFig.add (w : WatchFig) (es : List WatchEl) : WatchFig :=
  ⟨w.n + es.length, w.sat + es.foldl (fun a e => a + e.sat) 0, w.ufz + es.foldl (fun a e => a + e.ufz) 0,
    BitVec.ofNat 16 (es.foldl (fun a e => max a e.amax) w.amax.toNat)⟩

/-- Elements of a word feed watch `wid`: the frame watch of the frame in which the word issued, or the job's step watch in a fitting bundle (R153,
R303). -/
def feedWatch (h : Held) (spar wid : Nat) (es : List WatchEl) (s : State) : State :=
  let top (m : Nat) : BitVec 16 := BitVec.ofNat 16 (es.foldl (fun a e => max a e.amax) m)
  match h.actor with
  | some n =>
    let j := s.job n
    let key := 8 * spar + wid
    s.setJob n { j with gather := smPut WatchFig.zero j.gather wid ((smGet WatchFig.zero j.gather wid).add es),
                        gatherOwn := smPut 0 j.gatherOwn key (top (smGet 0 j.gatherOwn key).toNat) }
  | none =>
    let w := 8 * h.side + wid
    let key := 512 * h.side + 8 * spar + wid
    { s with fab := { s.fab with
        gather := smPut WatchFig.zero s.fab.gather w ((smGet WatchFig.zero s.fab.gather w).add es),
        gatherOwn := smPut 0 s.fab.gatherOwn key (top (smGet 0 s.fab.gatherOwn key).toNat) } }

/-! ### Reading an entry -/

/-- A read of a crucible entry (R79, R84, R133): the value clamped to the window, how far it is poisoned, whether it clamped,
and whether a half mismatched. -/
structure EntryRead where
  v : Int
  poison : Nat
  clamped : Bool
  perr : Bool
deriving DecidableEq, Repr

def readEntry (s : State) (spar : Nat) (compact : Bool) (slot r c : Nat) : EntryRead :=
  let e := s.entry spar compact slot r c
  let v := clampTo (windowMax compact) (toSigned (viewBits compact) e.bits)
  ⟨v.1, if e.perr then 2 else e.poison, v.2, e.perr⟩

/-! ### RESC -/

/-- The fields of RESC (R256). -/
structure RescF where
  slot : Nat
  compact : Bool
  ofmt : Fmt
  shift : Nat
  msrc : Nat
  wen : Bool
  wid : Nat
  row0 : Nat
  nrows : Nat
  dst : Nat
  m : Nat
  bnd : Bounds
deriving DecidableEq, Repr

/-- Decoding of RESC (R141, R191, R226, R256). -/
def decResc (s : State) (i : Issue) : Option RescF :=
  let w := i.word
  match extWords i false (bitAt w 4) false, Fmt.ofCode (fld w 89 87) with
  | some (_, bx, _), some ofmt =>
    match (if bitAt w 4 then decodeBx bx else some Bounds.none) with
    | none => none
    | some bnd =>
      let compact := bitAt w 90
      let slot := fld w 95 91
      let row0 := fld w 73 68
      let nrows := fld w 67 61
      let ms := fld w 79 78
      let m := fld w 36 5
      if headOk i 0x70 3 ∧ viewOk s i.spar.val compact slot ∧ fld w 86 80 ≤ 95 ∧ ms < 3 ∧ 1 ≤ nrows ∧ nrows ≤ 64 ∧
          row0 + nrows ≤ 64 ∧ (ms = 1 → m < 32) ∧ (ms = 2 → m < 2 ^ 24) ∧ zeros w [(3, 0)] then
        some ⟨slot, compact, ofmt, fld w 86 80, ms, bitAt w 77, fld w 76 74, row0, nrows, fld w 60 37, m, bnd⟩
      else none
  | _, _ => none

def chkResc (s : State) (i : Issue) (f : RescF) : Option IssueFault :=
  let n := i.spar.val
  loftCheck s n (if f.msrc = 2 then [(effAddr s n f.m, 256, 1)] else []) [(effAddr s n f.dst, f.nrows * f.ofmt.vec, 64)]

/-- The multipliers of the 64 columns where a loft vector holds them, as read in the word's first cycle (R141, R257). -/
def rescVector (s : State) (spar : Nat) (f : RescF) : List (Nat × Nat) :=
  if f.msrc = 2 then (List.range 64).map (fun j => s.loftLe spar (effAddr s spar f.m + 4 * j) 4) else []

/-- The multiplier of column j (R141), and how far its word was delivered poisoned. -/
def rescMul (s : State) (spar : Nat) (f : RescF) (vec : List (Nat × Nat)) (j : Nat) : Int × Nat :=
  match f.msrc with
  | 0 => (toSigned 32 f.m, 0)
  | 1 => (toSigned 32 (s.sReg spar (f.m % 32)).toNat, 0)
  | _ => let x := vec.getD j (0, 0); (toSigned 32 x.1, x.2)

/-- One output element of a read or computed value (R119, R121, R139): its lane, and what it adds to a watch. `extra` is the SAT
of the read itself. -/
def outEl (f : Fmt) (tie : Tie) (p : Nat) (extra : Bool) (num : Int) (den : Nat) : Lane × Nat × WatchEl :=
  if p ≠ 0 then (⟨f.poison, if f.isInt then p else 0, false, false, p⟩, 0, ⟨0, 0, 0⟩)
  else
    let c := convertT tie f num den
    let sat := b2n extra + b2n c.sat
    (⟨c.code, 0, c.sat, c.ufz, 0⟩, sat, ⟨sat, b2n c.ufz, amaxCode num den⟩)

/-- The exact value r of an entry (R142) as a fraction. -/
def rescValue (f : RescF) (v m anchor : Int) : Int × Nat :=
  if f.ofmt.isInt then (v * m, 2 ^ f.shift)
  else if 0 ≤ anchor then (v * m * 2 ^ anchor.toNat, 2 ^ f.shift)
  else (v * m, 2 ^ (f.shift + (-anchor).toNat))

/-- One output vector of RESC or QUANT: what each lane writes where the write bounds pass, the write issued in cycle `wr`, its counters, and what feeds a
watch (R143, R150, R151, R153). -/
def outWrite (i : Issue) (h : Held) (dst bits wr : Nat) (wen : Bool) (wid : Nat) (row : List (Option (Lane × Nat × WatchEl)))
    (s : State) : State :=
  let n := i.spar.val
  let done := row.filterMap (fun o => o)
  let w := laneWrites dst bits (row.map (fun o => o.map (fun x => (x.1.code, x.1.mark))))
  let s1 := (s.storeAt h wr n w.1 w.2).count n (done.foldl (fun a o => a + o.2.1) 0) ((done.filter (fun o => o.1.ufz)).length)
    ((done.filter (fun o => decide (o.1.poi ≠ 0))).length) (done.any (fun o => decide (o.1.poi = 2)))
  if wen then feedWatch h n wid (done.map (fun o => o.2.2)) s1 else s1

/-- RESC in cycle `u` reads row ROW0 + k of a slot, rescales each entry with one rounding, and writes the row 5 cycles later (R139, R142, R257). A parity
mismatch counts where the entry is written (R84, R137, R151). A multiplier delivered poisoned poisons the outputs of its column and counts POI, as a
poisoned entry does (DESIGN CHOICE, log 74). -/
def rescStage (f : RescF) (i : Issue) (h : Held) (k : Nat) (acc : List (Nat × Nat)) (u : Nat) (s : State) : State :=
  let n := i.spar.val
  let v := s.held h
  let anchor := (v.descr n ((slotRecs f.compact f.slot).headD 0)).anchor
  let vec := if k = 0 then rescVector v n f else acc
  let r := f.row0 + k
  let row := (List.range 64).map (fun (j : Nat) =>
    let e := readEntry v n f.compact f.slot r j
    let m := rescMul v n f vec j
    let q := rescValue f e.v m.1 anchor
    let o := outEl f.ofmt .even (max e.poison m.2) e.clamped q.1 q.2
    let live := f.bnd.writes v n (f.bnd.oR + (r : Int)) (f.bnd.oC + (j : Int))
    (e.perr && live, if live then some o else none))
  let s1 := s.portReads h n (if f.msrc = 2 ∧ k = 0 then [(effAddr v n f.m, 256)] else [])
  let s2 := outWrite i h (effAddr v n f.dst + k * f.ofmt.vec) f.ofmt.bits (u + 5) f.wen f.wid (row.map (fun x => x.2)) s1
  nextStage (decide (k + 1 < f.nrows)) i h (k + 1) vec (u + 1)
    (s2.bump (A.sparCrucPerr n) 31 0 (row.filter (fun x => x.1)).length)

/-- RESC issues. -/
def wordResc : Issue → State → State := issueWord decResc chkResc staged

/-! ### QUANT -/

/-- The fields of QUANT (R258). -/
structure QuantF where
  dst : Nat
  src : Nat
  scale : Nat
  sfmt : Nat
  grp : Nat
  ofmt : Fmt
  burn : Nat
  nvec : Nat
  wen : Bool
  wid : Nat
  bnd : Bounds
deriving DecidableEq, Repr

/-- Decoding of QUANT (R226, R258). BURN is kept as the block size n, 0 for off. -/
def decQuant (_ : State) (i : Issue) : Option QuantF :=
  let w := i.word
  match extWords i false (bitAt w 0) false, Fmt.ofCode (fld w 19 17) with
  | some (_, bx, _), some ofmt =>
    match (if bitAt w 0 then decodeBx bx else some Bounds.none) with
    | none => none
    | some bnd =>
      if headOk i 0x71 3 ∧ fld w 23 22 < 3 ∧ fld w 21 20 < 3 ∧ ofmt ≠ .bf16 ∧ fld w 14 5 ≠ 0 then
        some ⟨fld w 95 72, fld w 71 48, fld w 47 24, fld w 23 22, 32 * 2 ^ fld w 21 20, ofmt,
          if fld w 16 15 = 0 then 0 else 16 * 2 ^ fld w 16 15, fld w 14 5, bitAt w 4, fld w 3 1, bnd⟩
      else none
  | _, _ => none

/-- The scale sectors QUANT reads, 64 B each (R259). -/
def quantScaleSecs (f : QuantF) : Nat :=
  if f.sfmt = 0 then 0 else if f.sfmt = 1 then ceilDiv (ceilDiv (f.nvec * 256) f.grp) 64 else ceilDiv (ceilDiv (f.nvec * 256) f.grp) 32

/-- Bytes of scales: one scale per group of elements in order (R144). -/
def quantScaleLen (f : QuantF) : Nat := ceilDiv (f.nvec * 256) f.grp * (if f.sfmt = 2 then 2 else 1)

def chkQuant (s : State) (i : Issue) (f : QuantF) : Option IssueFault :=
  let n := i.spar.val
  loftCheck s n ([(effAddr s n f.src, f.nvec * 512, 64)] ++
    (if f.sfmt ≠ 0 then [(effAddr s n f.scale, quantScaleLen f, 1)] else []))
    [(effAddr s n f.dst, f.nvec * 32 * f.ofmt.bits, 64)]

/-- The codes of scale sector `j`, as read into the scale buffer (R259). -/
def quantSector (s : State) (spar : Nat) (f : QuantF) (j : Nat) : List (Nat × Nat) :=
  let a := effAddr s spar f.scale + 64 * j
  if f.sfmt = 2 then (List.range 32).map (fun k => elemAt s spar a 16 k) else (List.range 64).map (fun k => elemAt s spar a 8 k)

/-- The scale of element e from the codes of the scale buffer: m × 2^e, or how far its group is poisoned; an invalid scale and ±0 poison (R144, R145).
Groups are runs of elements in the word's order, whose axis is the reduction axis (R146, R147), and their scales follow one another. -/
def quantScale (f : QuantF) (buf : List (Nat × Nat)) (e : Nat) : Opnd :=
  if f.sfmt = 0 then .val 1 0
  else match scOpnd (decide (f.sfmt = 2)) (buf.getD (e / f.grp) (0, 0)) with
    | .val m x => if m = 0 then .bad 1 else .val m x
    | b => b

/-- The exact quotient (m × 2^e) / (sm × 2^se) as a fraction, sm positive. -/
def dyadDiv (m e sm se : Int) : Int × Nat :=
  let d := e - se
  if 0 ≤ d then (m * 2 ^ d.toNat, sm.natAbs) else (m, sm.natAbs * 2 ^ (-d).toNat)

/-- The sum of a block's elements with the signs of row `r` of the Sylvester matrix (R146): h(r, j) = (−1)^popcount(r and j).
The elements are m × 2^e; the sum is exact, over the lowest exponent. -/
def burnSum (r : Nat) (xs : List (Int × Int)) : Int × Int :=
  let e0 := xs.foldl (fun a x => min a x.2) 127
  let sum := (xs.zipIdx).foldl (fun (a : Int) x =>
    let t := x.1.1 * 2 ^ (x.1.2 - e0).toNat
    if popCount 8 (r &&& x.2) % 2 = 1 then a - t else a + t) 0
  (sum, e0)

/-- The tie rule of the burnisher: to even from bit-class 2 on, away from zero in bit-class 1 (R149, R333). -/
def burnTie (s : State) : Tie := if s.bitClass = 1 then .away else .even

/-- The input of lane l of vector v as the quantiser takes it: an element outside a read bound is the pad, and 0 inside a
burnisher block (R147, R275). -/
def quantIn (s : State) (spar : Nat) (f : QuantF) (v l : Nat) : Nat × Nat :=
  let row := f.bnd.oR + (v : Int)
  let col := f.bnd.oC + (l : Int)
  if f.burn ≠ 0 ∧ !f.bnd.reads s spar row col then (0, 0)
  else if f.bnd.reads s spar row col then elemAt s spar (effAddr s spar f.src + v * 512) 16 l
  else (padCode s spar f.bnd (.el .bf16), 0)

/-- One vector quantised with the scales of a buffer: per lane what it writes, its SAT, and its watch element (R144 to R148). -/
def quantVec (s : State) (spar : Nat) (f : QuantF) (buf : List (Nat × Nat)) (v : Nat) : List (Lane × Nat × WatchEl) :=
  let xs := (List.range 256).map (fun l => elOpnd .bf16 (quantIn s spar f v l))
  (List.range 256).map (fun l =>
    let y : Opnd :=
      if f.burn = 0 then xs.getD l (.val 0 0)
      else
        let blk := (xs.drop (l / f.burn * f.burn)).take f.burn
        let p := blk.foldl (fun (a : Nat) x => match x with | .bad q => max a q | .val _ _ => a) 0
        if p ≠ 0 then .bad p
        else
          let r := burnSum (l % f.burn) (blk.filterMap (fun x => match x with | .val m e => some (m, e) | .bad _ => none))
          .val r.1 r.2
    match y, quantScale f buf (v * 256 + l) with
    | .val m e, .val sm se =>
      let q := dyadDiv m e sm se
      outEl f.ofmt (if f.burn = 0 then .even else burnTie s) 0 false q.1 q.2
    | .bad p, .bad q => outEl f.ofmt .even (max p q) false 0 1
    | .bad p, _ => outEl f.ofmt .even p false 0 1
    | _, .bad q => outEl f.ofmt .even q false 0 1)

/-- QUANT in cycle `u`: its scale cycles fill the scale buffer, one sector each; then it reads vector v, converts each element by the scale of its group,
after the rotation where the burnisher is on, and writes 6 or 13 cycles later (R144 to R148, R259). -/
def quantStage (f : QuantF) (i : Issue) (h : Held) (k : Nat) (acc : List (Nat × Nat)) (u : Nat) (s : State) : State :=
  let n := i.spar.val
  let view := s.held h
  let sc := quantScaleSecs f
  if k < sc then
    (s.portReads h n [(effAddr view n f.scale + 64 * k, 64)]).later (u + 1) 3 (.stage i h (k + 1) (acc ++ quantSector view n f k))
  else
    let v := k - sc
    let row := ((quantVec view n f acc v).zipIdx).map (fun (o : (Lane × Nat × WatchEl) × Nat) =>
      if f.bnd.writes view n (f.bnd.oR + (v : Int)) (f.bnd.oC + (o.2 : Int)) then some o.1 else none)
    nextStage (decide (v + 1 < f.nvec)) i h (k + 1) acc (u + 1)
      (outWrite i h (effAddr view n f.dst + v * 32 * f.ofmt.bits) f.ofmt.bits (u + (if f.burn = 0 then 6 else 13)) f.wen f.wid row
        (s.portReads h n (vecAccs view n f.bnd (effAddr view n f.src) 16 v)))

/-- QUANT issues. -/
def wordQuant : Issue → State → State := issueWord decQuant chkQuant staged

end Sys2Proof.Machine
end

