-- ==== Sys2Proof/Machine/Walk.lean ====
section
/-! DEFINITION. The words of a bundle in the order and multiplicity in which they issue (R173, R179, R183, R215, R218, R229, R230). -/

namespace Sys2Proof.Machine

/-- A main word of a bundle: its extension words, its offset from the bundle's tick in the first iteration of each loop around it, and those
loops, outermost first, as (count, period). -/
structure Occ where
  word : IWord
  ext : List IWord
  off : Nat
  reps : List (Nat × Nat)
deriving DecidableEq, Repr

/-- The main words of a run of words up to its BEND, loops opened. The first argument bounds the recursion; the number of words plus one
is enough. -/
def occs : Nat → List IWord → Nat → List (Nat × Nat) → List Occ
  | 0, _, _, _ => []
  | _ + 1, [], _, _ => []
  | n + 1, w :: t, base, reps =>
    if opOf w = opBend then [⟨w, [], base + offOf w, reps⟩]
    else if opOf w = opLoop then
      let b := fld w 63 56
      ⟨w, [], base + offOf w, reps⟩ ::
        (occs n (t.take b) (base + offOf w) (reps ++ [(fld w 95 80, fld w 79 64)]) ++ occs n (t.drop b) base reps)
    else
      let e := t.takeWhile isExt
      ⟨w, e, base + offOf w, reps⟩ :: occs n (t.drop e.length) base reps

/-- The main words of the bundle that a line map entry names; none where the line is EMPTY. -/
def bundleOccs (b : BundleSet) (line : Nat) : List Occ :=
  match b.lineMap[line]? with
  | some e => if fld e 14 14 = 1 then [] else
      let ws := b.words.drop (fld e 13 0)
      occs (ws.length + 1) ws 0 []
  | none => []

/-- How often a word issues: the product of the counts around it. -/
def Occ.times (o : Occ) : Nat := o.reps.foldl (fun a r => a * r.1) 1

/-- The offsets at which a word issues. -/
def Occ.offs (o : Occ) : List Nat :=
  o.reps.foldl (fun (l : List Nat) r => l.flatMap (fun x => (List.range r.1).map (fun i => x + i * r.2))) [o.off]

/-- The last offset at which a word issues. -/
def Occ.last (o : Occ) : Nat := o.reps.foldl (fun a r => a + (r.1 - 1) * r.2) o.off

/-- The words that spar n issues of a passage in a line. -/
def Passage.occsOf (g : Passage) (n line : Nat) : List Occ :=
  if bitOf g.sparMask n then
    match g.sets[g.setMap.getD n 255]? with
    | some b => (bundleOccs b line).filter (fun o => maskHas (fld o.word 99 96) n (setLeader g.sparMask g.setMap n))
    | none => []
  else []

/-- Every word of the sets of a passage or image. -/
def setOccs (sets : List BundleSet) : List Occ := sets.flatMap (fun b => (List.range b.lineMap.length).flatMap (bundleOccs b))

/-- Some word of the passage has the opcode and passes a test. -/
def Passage.names (g : Passage) (op : Nat) (t : IWord → Bool) : Bool :=
  (setOccs g.sets).any (fun o => decide (opOf o.word = op) && t o.word)

end Sys2Proof.Machine
end

