-- ==== Sys2Proof/Machine/Fleet.lean ====
section
/-! DEFINITION. Musters and exact all-reduce (R203, R240, R249, R260, R483 to R495): the words MUSTER, ARSEND and ARLAND, and the tokens of a fleet.
Reef votes (R497) are gathered by the same phases. -/

namespace Sys2Proof.Machine

/-! ### Gathers -/

/-- F[15:0]. -/
def State.f16 (s : State) : Nat := s.rast.frame.toNat % 65536

/-- The size of a dimension as a gather sees it: a part outside a fleet is a fleet of one (R484). -/
def fleetDim (s : State) (d : Nat) : Nat := if s.rf A.linkFleetCtl 0 0 = 1 then s.dim d else 1

def State.setFleet (s : State) (x : Fleet) : State := { s with fleet := x }

/-- The gather of a kind, identifier and frame. -/
def findGather (s : State) (k : GatherKind) (id f : Nat) : Option Gather :=
  s.fleet.gathers.find? (fun g => decide (g.kind = k ∧ g.id = id ∧ g.f = f))

/-- A gather not yet started. -/
def Gather.fresh (k : GatherKind) (id f : Nat) : Gather := ⟨k, id, f, false, 0, [], [], 0, none, 0, none⟩

def dropGather (g : Gather) (s : State) : State :=
  s.setFleet { s.fleet with gathers := s.fleet.gathers.filter (fun h => decide (¬(h.kind = g.kind ∧ h.id = g.id ∧ h.f = g.f))) }

/-- A gather kept: a muster that is complete and already released is not. -/
def putGather (g : Gather) (s : State) : State :=
  let s1 := dropGather g s
  if g.kind = .muster ∧ 3 ≤ g.phase ∧ g.rel = none then s1
  else s1.setFleet { s1.fleet with gathers := s1.fleet.gathers ++ [g] }

/-- The gathers of a kind, and how many can be held (R483, R490). -/
def gatherRoom (s : State) (k : GatherKind) : Bool :=
  decide ((s.fleet.gathers.filter (fun g => decide (g.kind = k))).length < (match k with | .row => 4096 | _ => 256))

/-! ### Values -/

/-- Entry-wise combination: nothing, the larger vote, or sums modulo 2^96 and poison marks ORed (R134, R492, R497). -/
def combine (k : GatherKind) (a b : List Nat) : List Nat :=
  match k with
  | .muster => []
  | .vote => [max (a.headD 0) (b.headD 0)]
  | .row => (((a.take 64).zip (b.take 64)).map (fun e => (e.1 + e.2) % 2 ^ 96)) ++
      (((a.drop 64).zip (b.drop 64)).map (fun e => max e.1 e.2))

/-- A row of zeros. -/
def zeroRow : List Nat := List.replicate 128 0

/-- The payload of a token or partial (R465, R493). -/
def tokenPayload (g : Gather) (phase hops : Nat) (v : List Nat) : List Byte :=
  match g.kind with
  | .muster => leBytes 2 g.id ++ leBytes 2 g.f ++ leBytes 1 phase ++ leBytes 1 hops ++ List.replicate 26 0
  | .vote => leBytes 2 0 ++ leBytes 2 g.f ++ leBytes 1 phase ++ leBytes 1 hops ++ leBytes 1 (v.headD 0) ++ List.replicate 25 0
  | .row =>
    leBytes 2 (g.id / 64) ++ leBytes 1 (g.id % 64) ++ leBytes 2 g.f ++ leBytes 1 phase ++ leBytes 1 hops ++ List.replicate 9 0 ++
      (v.take 64).flatMap (leBytes 12) ++
      leBytes 8 ((v.drop 64).zipIdx.foldl (fun m e => if e.1 = 0 then m else m + 2 ^ e.2) 0) ++ List.replicate 8 0

def tokenType (k : GatherKind) : Nat := match k with | .muster => 0x10 | .vote => 0x11 | .row => 0x20

/-- The value a REDUCE payload holds: its poison carries no reason. -/
def rowOfPayload (b : List Byte) : List Nat :=
  (List.range 64).map (fun j => numAt b (16 + 12 * j) 12) ++ (List.range 64).map (fun j => b2n (bitOf (numAt b 784 8) j))

/-! ### Phases -/

/-- The tokens of a phase as it starts: k+ hops on the + port, k− on the − port; none with 0 hops (R484). -/
def sendTokens (g : Gather) (s : State) : State :=
  let d := fleetDim s g.phase
  let one (p hops : Nat) (t : State) : State :=
    if hops = 0 then t else sendSeq p (tokenType g.kind) (tokenPayload g g.phase hops g.val) t
  one (2 * g.phase + 1) ((d - 1) / 2) (one (2 * g.phase) (d / 2) s)

/-- The values received of the phase under way. -/
def partsNow (g : Gather) : List (List Nat) := (g.parts.filter (fun x => decide (x.1 = g.phase))).map (fun x => x.2)

/-- A phase that has started is complete: its values are combined, and the next phase is next. -/
def nextPhase (g : Gather) : Gather := { g with val := (partsNow g).foldl (combine g.kind) g.val, phase := g.phase + 1 }

/-- A phase starts, and those after it as far as they complete (R484). The first argument bounds the recursion. `line` and `c` are where the raster is. -/
def beginPhase (line c : Nat) : Nat → Gather → State → State
  | 0, g, s => putGather g s
  | n + 1, g, s =>
    if 3 ≤ g.phase then putGather { g with doneAt := some (line, c) } s
    else if fleetDim s g.phase = 1 then beginPhase line c n { g with phase := g.phase + 1 } s
    else
      let s1 := sendTokens g s
      if fleetDim s g.phase - 1 ≤ (partsNow g).length then beginPhase line c n (nextPhase g) s1 else putGather g s1

/-- A gather starts. -/
def startGather (c : Nat) (g : Gather) (s : State) : State := beginPhase s.rast.line c 8 { g with started := true, phase := 0 } s

/-- A value arrives for a phase of a gather. -/
def addPart (c : Nat) (g : Gather) (phase : Nat) (v : List Nat) (s : State) : State :=
  let g1 := { g with parts := g.parts ++ [(phase, v)] }
  if g1.started ∧ g1.phase = phase ∧ fleetDim s phase - 1 ≤ (partsNow g1).length then
    beginPhase s.rast.line c 8 (nextPhase g1) s
  else putGather g1 s

/-! ### Tokens that arrive -/

/-- The port that owns the passage which names a muster or a reduction (R500). -/
def namingPort (s : State) (op : Nat) (t : IWord → Bool) : Nat := s.passageOwner (fun g => g.names op t)

/-- A stale frame (R483): STALE, and event 0x0531 once per frame. -/
def staleFrame (port : Nat) (s : State) : State :=
  let s1 := s.bump A.linkRedStat 31 16 1
  if s1.fleet.staleTold then s1
  else (s1.setFleet { s1.fleet with staleTold := true }).post [port] 0x0531 [s1.vF]

/-- A token goes on out of the opposite port of its dimension with one hop less (R484, R492). -/
def forwardToken (p type hopsAt : Nat) (f : LinkFrame) (s : State) : State :=
  let hops := numAt f.payload hopsAt 1
  if 1 < hops then
    sendSeq (if p % 2 = 0 then p + 1 else p - 1) type
      (f.payload.take hopsAt ++ leBytes 1 (hops - 1) ++ f.payload.drop (hopsAt + 1)) s
  else s

/-- A token or partial of a gather (R483, R484, R492, R497). A vote of another frame than this one and the next is not held. -/
def onToken (p c type fAt phaseAt id port : Nat) (k : GatherKind) (v : List Nat) (f : LinkFrame) (s : State) : State :=
  let fr := numAt f.payload fAt 2
  let d := signedDiff 16 (fr : Int) (s.f16 : Int)
  let g := findGather s k id fr
  if ¬(d = 0 ∨ d = 1) ∨ (g = none ∧ !gatherRoom s k) then (if k = .vote then s else staleFrame port s)
  else
    let s1 := forwardToken p type (phaseAt + 1) f s
    addPart c (g.getD (Gather.fresh k id fr)) (numAt f.payload phaseAt 1) v s1

/-- The offset in CK cycles of a time of so many raster units after the tick. -/
def ckOf (s : State) (ru : Nat) : Nat := ru / ruPerCk s.rast.reef

/-- MUSTER_FRAME (R484). -/
def onMuster (p ru : Nat) (f : LinkFrame) (s : State) : State :=
  let id := numAt f.payload 0 2
  onToken p (ckOf s ru) 0x10 2 4 id (namingPort s 0x23 (fun w => decide (fld w 95 84 = id))) .muster [] f s

/-- REDUCE_FRAME (R492). -/
def onReduce (p ru : Nat) (f : LinkFrame) (s : State) : State :=
  let rid := numAt f.payload 0 2
  onToken p (ckOf s ru) 0x20 3 5 (rid * 64 + numAt f.payload 2 1) (namingPort s 0x72 (fun w => decide (fld w 76 65 = rid))) .row
    (rowOfPayload f.payload) f s

/-! ### MUSTER -/

/-- MUSTER: ID and R (R239, R240). -/
def decMuster (_ : State) (i : Issue) : Option (Nat × Nat) :=
  if headOk i 0x23 0 ∧ zeros i.word [(67, 0)] ∧ i.ext = [] ∧ fld i.word 83 68 ≠ 0 then some (fld i.word 95 84, fld i.word 83 68)
  else none

/-- The arrival of the part at a muster (R203, R240, R483). -/
def musterArrive (f : Nat × Nat) (i : Issue) (h : Held) (s : State) : State :=
  let c := i.c.toNat
  let g := (findGather s .muster f.1 s.f16).getD (Gather.fresh .muster f.1 s.f16)
  let g1 := { g with rel := some (s.rast.line, c + f.2), port := h.port }
  if g1.started then putGather (if 3 ≤ g1.phase then { g1 with doneAt := some (s.rast.line, c) } else g1) s
  else startGather c g1 s

def wordMuster : Issue → State → State := issueWord decMuster noCheck musterArrive

/-- MUSTER_RELEASE: the release cycle of a muster of this frame comes (R203, R485). -/
def musterRelease (id : Nat) (s : State) : State :=
  match findGather s .muster id s.f16 with
  | none => s
  | some g => match g.rel with
    | none => s
    | some (line, r) =>
      let onTime := match g.doneAt with
        | some (l, c) => decide (3 ≤ g.phase ∧ (l < line ∨ (l = line ∧ c ≤ r)))
        | none => false
      if onTime then
        let margin := match g.doneAt with | some (l, c) => if l = line then r - c else 65535 | none => 65535
        (if margin < s.rf A.linkMusterStat 15 0 then s.setRf A.linkMusterStat 15 0 margin else s) |> dropGather g
      else
        let s1 := putGather { g with rel := none } s
        ((s1.bump A.linkMusterStat 31 16 1).evt 1).postAt [g.port] 0x0530 r [s1.vF, (2, line), (2, r), (2, id), (1, 0)]

/-! ### Reductions -/

/-- The mode of a reduction in force (R489). -/
def redMode (s : State) (rid : Nat) : Nat := s.rf (A.linkRed (rid / 16)) (2 * (rid % 16) + 1) (2 * (rid % 16))

/-- How many ARSEND rows of a passage contribute to a row of a reduction in a frame (R490). -/
def Passage.contribs (g : Passage) (rid row : Nat) : Nat :=
  (List.range g.linesTotal).foldl (fun n line =>
    (List.range 64).foldl (fun m spar =>
      (g.occsOf spar line).foldl (fun k o =>
        let w := o.word
        if opOf w = 0x72 ∧ fld w 76 65 = rid ∧ fld w 89 84 ≤ row ∧ row < fld w 89 84 + fld w 83 77 then k + o.times else k) m) n) 0

/-- The fields of ARLAND and ARSEND (R249, R260): slot, view, ROW0, NROWS and RID. -/
structure ReduceF where
  slot : Nat
  compact : Bool
  row0 : Nat
  nrows : Nat
  rid : Nat
deriving DecidableEq, Repr

def decReduce (opcode unit : Nat) (s : State) (i : Issue) : Option ReduceF :=
  let w := i.word
  let f : ReduceF := ⟨fld w 95 91, bitAt w 90, fld w 89 84, fld w 83 77, fld w 76 65⟩
  if headOk i opcode unit ∧ zeros w [(64, 0)] ∧ i.ext = [] ∧ viewOk s i.spar.val f.compact f.slot ∧ 1 ≤ f.nrows ∧ f.nrows ≤ 64 ∧
      f.row0 + f.nrows ≤ 64 then some f else none

/-- A contribution of frame `f` to a row (R491, R492): when the last one has been added, the row is locally complete. -/
def contribute (f c want : Nat) (rid row : Nat) (v : List Nat) (s : State) : State :=
  let id := rid * 64 + row
  let g := (findGather s .row id f).getD (Gather.fresh .row id f)
  if g.started then s else
  let g1 := { g with val := combine .row (if g.got = 0 then zeroRow else g.val) v, got := g.got + 1 }
  if want ≤ g1.got then
    if redMode s rid = 2 then startGather c g1 s
    else putGather { g1 with started := true, phase := 3, doneAt := some (s.rast.line, c) } s
  else putGather g1 s

/-- F[15:0] of the frame in which a word issued. -/
def Held.f16 (h : Held) : Nat := h.frame.toNat % 65536

/-- ARSEND in cycle `u` reads row ROW0 + k and hands it to a reduction (R133, R260, R491). A reduction that is disabled takes nothing. Kept is how many
contributions each of its rows waits for. -/
def arsendStage (f : ReduceF) (i : Issue) (h : Held) (k : Nat) (acc : List (Nat × Nat)) (u : Nat) (s : State) : State :=
  let n := i.spar.val
  let want := if k = 0 then (List.range f.nrows).map (fun r =>
      ((match runningPassage s i.chan.val with | some g => g.contribs f.rid (f.row0 + r) | none => 0), 0)) else acc
  let row := (List.range 64).map (fun c => readEntry (s.held h) n f.compact f.slot (f.row0 + k) c)
  let s1 := (s.count n (row.filter (fun e => e.clamped)).length 0 0 false).bump (A.sparCrucPerr n) 31 0 (row.filter (fun e => e.perr)).length
  let s2 := if redMode s f.rid = 1 ∨ redMode s f.rid = 2 then
      contribute h.f16 u (want.getD k (0, 0)).1 f.rid (f.row0 + k) (row.map (fun e => lowBits 96 e.v) ++ row.map (fun e => e.poison)) s1
    else s1
  nextStage (decide (k + 1 < f.nrows)) i h (k + 1) want (u + 1) s2

def wordArsend : Issue → State → State := issueWord (decReduce 0x72 3) noCheck staged

/-- A row of a reduction of frame `f`, where it is complete in cycle `u` of the line in progress or earlier (R494). -/
def rowDone (s : State) (f u rid row : Nat) : Option (List Nat) :=
  match findGather s .row (rid * 64 + row) f with
  | some g =>
    let came : Bool := match g.doneAt with
      | some (l, c) => decide (f ≠ s.f16 ∨ l < s.rast.line ∨ (l = s.rast.line ∧ c ≤ u))
      | none => false
    if g.started && decide (3 ≤ g.phase) && came then some g.val else none
  | none => none

/-- A late reduction (R494): once for each instance and frame. -/
def lateReduction (port c rid : Nat) (s : State) : State :=
  if s.fleet.late.contains rid then s
  else
    let s1 := ((s.setFleet { s.fleet with late := rid :: s.fleet.late }).bump A.linkRedStat 15 0 1).evt 1
    s1.postAt [port] 0x0530 c [s1.vF, (2, s1.rast.line), (2, c), (2, rid), (1, 1)]

/-- ARLAND in cycle `u` lands reduced row ROW0 + k, seen from `u + 3` on (R227, R249, R494): a row not complete by `u` is written as 0 with poison. -/
def arlandStage (f : ReduceF) (i : Issue) (h : Held) (k : Nat) (_ : List (Nat × Nat)) (u : Nat) (s : State) : State :=
  let r := f.row0 + k
  let land (v : Nat → Nat × Nat) : List (Nat × Half) :=
    (List.range 64).flatMap (fun c => halvesOf i.spar.val f.compact f.slot r c (v c).1 (v c).2)
  let s1 := match rowDone s h.f16 u f.rid r with
    | some v => s.later (u + 3) 0 (.halves (land (fun c => (v.getD c 0, (v.drop 64).getD c 0))))
    | none => lateReduction h.port u f.rid (s.later (u + 3) 0 (.halves (land (fun _ => (0, 2)))))
  if k + 1 < f.nrows then s1.later (u + 1) 4 (.stage i h (k + 1) []) else s1

/-- ARLAND issues. Its rows land after what the cycle's reads hand to the reduction (R494). -/
def wordArland : Issue → State → State :=
  issueWord (decReduce 0x43 1) noCheck (fun _ i h s => s.later i.c.toNat 4 (.stage i h 0 []))

/-! ### TIGHT -/

/-- LINK_FLEET_STAT.TIGHT (R477, R488). -/
def fleetTight (s : State) : Bool :=
  let root := (parentPort s).isNone
  let dims := (List.range 3).all (fun d => decide (s.dim d = 1) || (portUp s (2 * d) && portUp s (2 * d + 1)))
  let near := root || decide (s.ptp.off.natAbs * 1000 ≤ 5 * 65536)
  let steered := root || decide (s.timeMode = 3)
  decide (s.rf A.linkFleetCtl 0 0 = 1) && dims && decide (s.servo = 2) && near && steered &&
    decide (s.rf A.rastSyncStat 1 0 = 2 ∧ s.rf A.rastSyncStat 6 4 = 3 ∧ s.rast.sync.phi.natAbs ≤ 24) &&
    (decide (s.rf A.linkFleetCtl 1 1 = 0) || decide (s.rf A.linkFleetStat 1 1 = 1))

end Sys2Proof.Machine
end

