-- ==== Sys2Proof/Machine/Gov.lean ====
section
/-! DEFINITION. The governor (R572 to R590): the energy account, the choice of the reef, the thermal limit, the reef applied at a frame boundary and the
core voltage; fleet reef votes (R497, R498). -/

namespace Sys2Proof.Machine

/-- The code on CORE_VID at a reef level (R572, R620). -/
def reefVid (r : Nat) : Nat := match r with | 0 => 30 | 1 => 24 | 2 => 16 | _ => 8

def State.setGov (s : State) (g : Gov) : State := { s with gov := g }

/-! ### Meters and sensors -/

/-- Total meter energy in nJ (R576). -/
def State.energy (s : State) : Nat := s.loHi A.pwrEnergyLo A.pwrEnergyHi 32

/-- The seven meters, and the total, advance by the energies measured since they were last read (R576). They wrap. -/
def addEnergy (nj : List (BitVec 64)) (s : State) : State :=
  let s1 := nj.take 7 |>.zipIdx.foldl (fun (t : State) e =>
    t.setLoHi (A.pwrBlkELo e.2) (A.pwrBlkEHi e.2) 32 ((t.loHi (A.pwrBlkELo e.2) (A.pwrBlkEHi e.2) 32 + e.1.toNat) % 2 ^ 64)) s
  s1.setLoHi A.pwrEnergyLo A.pwrEnergyHi 32 ((s1.energy + (nj.take 7).foldl (fun n e => n + e.toNat) 0) % 2 ^ 64)

/-- The grade's maximum junction temperature in 0.25 °C (R580, R629). -/
def State.tjMax (s : State) : Int := if s.grade = 2 then 420 else 380

/-- Sensor n has a reading, and it (R575). -/
def State.sensor (s : State) (n : Nat) : Option Int :=
  if s.rf (A.pwrSens n) 12 12 = 1 then some (sfld (s.reg (A.pwrSens n)) 11 0) else none

/-- Sensors 69 to 74 count only while the optics are powered (R622). -/
def sensorCounts (s : State) (n : Nat) : Bool := !(decide (69 ≤ n ∧ n ≤ 74)) || s.aon.optics

/-- The sensors that enter T_max (R575): active physical spars, the stack, the control region, and powered optical engines. -/
def tmaxSensors (s : State) : List Nat :=
  (List.range 76).filter (fun n => if n < 68 then (s.spars.map s.phys).contains n else sensorCounts s n)

/-- Sensor readings arrive. -/
def readSensors (sens : List (Option (BitVec 12))) (s : State) : State :=
  (sens.take 76).zipIdx.foldl (fun (t : State) e =>
    t.setReg (A.pwrSens e.2) (match e.1 with
      | some v => BitVec.ofNat 32 (v.toNat + (if sensorCounts t e.2 then 4096 else 0))
      | none => 0)) s

/-- The sensors without a valid reading (R580). -/
def badSensors (s : State) : List Nat := (List.range 76).filter (fun n => sensorCounts s n && (s.sensor n).isNone)

/-- T_max and the sensor that gives it, the lowest-numbered of the hottest; a sensor without a reading counts as being at the grade's maximum. -/
def tmax (s : State) : Int × Nat :=
  let val (n : Nat) : Option Int := match s.sensor n with
    | some v => some v
    | none => some s.tjMax
  let best := (tmaxSensors s).foldl (fun (b : Option (Int × Nat)) n => match val n, b with
    | some v, some x => if x.1 < v then some (v, n) else some x
    | some v, none => some (v, n)
    | none, x => x) none
  let bad := badSensors s
  match best with
  | some x => if bad ≠ [] ∧ x.1 < s.tjMax then (s.tjMax, bad.headD 0) else x
  | none => (s.tjMax, bad.headD 0)

/-! ### The thermal limit -/

/-- The thermal levels after a sample: bit i − 1 for level i (R580). -/
def thermLevels (s : State) (t : Int) : Nat :=
  let hyst : Int := s.rf A.pwrTherm 27 24
  (List.range 3).foldl (fun n i =>
    let th : Int := s.rf A.pwrTherm (8 * i + 7) (8 * i)
    let on := if 4 * th ≤ t then true else if t < 4 * (th - hyst) then false else bitOf s.gov.levels i
    n + b2n on * 2 ^ i) 0

/-- r_th (R580). -/
def thermLimit (s : State) (t : Int) (levels : Nat) : Nat :=
  if s.tjMax ≤ t ∨ badSensors s ≠ [] then 3 else popCount 3 levels

/-! ### The choice -/

/-- Slots that hold an admitted sail plan. -/
def admittedPlans (s : State) : List (Nat × Slot) := s.slots.filter (fun e => decide (e.2.kind = .passage) && !e.2.passages.isEmpty)

/-- REEFS of a slot (R552). -/
def Slot.reefs (x : Slot) : Nat := x.passages.foldl (fun m g => m ||| 2 ^ g.reef) 0

/-- OK: the levels at which every admitted plan holds a passage; all four where there is no plan, or none left (R579, R582). -/
def okLevels (s : State) : Nat :=
  let m := (admittedPlans s).foldl (fun m e => m &&& e.2.reefs) 15
  if m = 0 then 15 else m

/-- est[r] in mW. -/
def State.est (s : State) (r : Nat) : Nat := s.rf (A.pwrEst0 + 4 * r) 19 0

/-- The energy choice re (R579). -/
def energyChoice (s : State) : Nat :=
  let cur := s.rast.reef
  let tf : Int := (s.rast.linesTotal * s.rast.tNum / max 1 s.rast.tDen : Nat)
  let mw : Int := s.rf A.pwrBudget 19 0
  let need (r : Nat) : Int :=
    ((s.rf A.pwrAcctCfg 23 16 * 10 ^ 6 + (if r < cur then s.rf A.pwrAcctCfg 31 24 * 10 ^ 6 else 0) : Nat) : Int)
  ((List.range 4).find? (fun r => decide (need r ≤ s.gov.acct + tdivNat ((mw - s.est r) * tf) 1000))).getD 3

/-- re, r_g and r_s under a thermal limit (R579). -/
def reefChoice (s : State) (rth : Nat) : Nat × Nat × Nat :=
  let re := if s.rf A.pwrCtl 0 0 = 0 then s.rf A.pwrCtl 5 4 else energyChoice s
  let ok := okLevels s
  let maxOk := (List.range 4).foldl (fun m r => if bitOf ok r then r else m) 0
  let rc := max re (s.rf A.pwrCtl 9 8)
  let pick (lo : Nat) : Option Nat := (List.range 4).find? (fun r => bitOf ok r && decide (lo ≤ r))
  let rg := (pick (min rc maxOk)).getD 3
  (re, rg, (pick (max rg rth)).getD rth)

/-- Replay runs in the next frame unless its record is found wanting: EN will be in force, and replay has not stopped since EN took effect (R341). -/
def replayNext (s : State) : Bool :=
  decide (fld (s.dueReg A.logRplyCtl) 0 0 = 1) && (decide (s.rf A.logRplyCtl 0 0 = 0) || !s.rcd.rplyStopped)

/-- The reef a replay record forces on the next frame (R342). -/
def replayReef (s : State) : Option Nat :=
  let ctl := s.dueReg A.logRplyCtl
  match s.rcd.fetchedRec with
  | some r =>
    if replayNext s ∧ fld ctl 1 1 = 1 ∧ r.frame = s.rast.frame + 1 then some r.reef else none
  | none => none

/-- The fleet's agreement applies (R497). -/
def agreeing (s : State) : Bool := decide (s.rf A.linkFleetCtl 0 0 = 1 ∧ s.rf A.linkFleetCtl 1 1 = 1)

/-- The part follows a lock-step lead's choice (R349, R497). -/
def lockFollower (s : State) : Bool :=
  decide (s.rf A.linkLsCtl 0 0 = 1 ∧ s.rf A.linkLsCtl 1 1 = 1 ∧ s.rf A.linkLsStat 1 0 = 1) && !agreeing s

/-- The level by the first row of R583 and the last: a member's vote (R497). -/
def ownReef (s : State) : Nat :=
  match replayReef s with
  | some r => if s.gov.rth ≤ r then r else s.gov.rs
  | none => s.gov.rs

/-- The dividers of the core PLLs with the standby one's set for a reef (R586). -/
def standbyFor (g : Gov) (r : Nat) : Nat × Nat := if g.pll then (ruPerCk r, g.divs.2) else (g.divs.1, ruPerCk r)

/-- PWR_STAT.NEXT becomes known (R583), and the standby PLL takes the divider of a new reef; it is not touched where the reef stays (R586). -/
def setNext (r : Nat) (s : State) : State :=
  let t := (s.setRf A.pwrStat 3 2 r).setRf A.pwrStat 4 4 1
  if r = s.rast.reef then t else t.setGov { t.gov with divs := standbyFor t.gov r }

/-- The account in µJ, s32 saturating. -/
def acctWord (a : Int) : Word := BitVec.ofInt 32 (max (-2147483648) (min 2147483647 (tdivNat a 1000)))

/-- The account at a decision point (R577). -/
def updateAccount (s : State) : State :=
  let dt : Int := (s.rast.time - s.gov.tDec).toNat / 24
  let de : Int := ((s.energy + 2 ^ 64 - s.gov.eDec) % 2 ^ 64 : Nat)
  let cap : Int := s.rf A.pwrAcctCfg 15 0 * 10 ^ 6
  let a := s.gov.acct + tdivNat ((s.rf A.pwrBudget 19 0 : Int) * dt) 1000 - de
  let a1 := min (max a (-cap)) cap
  (s.setGov { s.gov with acct := a1, tDec := s.rast.time, eDec := s.energy }).setReg A.pwrAcct (acctWord a1)

/-- The choice for the next frame made and its consequences at the decision point (R579, R581, R583, R585). -/
def decideReef (rth : Nat) (t : Int) (s : State) : State :=
  let c := reefChoice s rth
  let f1 := (s.rast.frame + 1).toNat
  let s1 := ((s.setRf A.pwrStat 9 8 c.1).setRf A.pwrStat 11 10 rth).setGov { s.gov with rs := c.2.2, rth := rth, decided := true }
  let s2 := if c.2.1 < rth then
      (s1.bump A.pwrCnt 31 16 1).post s1.ports 0x0701 [(6, f1), (1, c.2.1), (1, rth), (2, lowBits 16 t)]
    else s1
  let s3 := (admittedPlans s2).foldl (fun (u : State) e =>
    if bitOf e.2.reefs c.2.2 then u else u.post u.ports 0x0702 [(6, f1), (1, c.2.2), (4, u.handle e.1)]) s2
  let ready := match replayReef s3 with
    | some r => if rth ≤ r then r else c.2.2
    | none => if lockFollower s3 then rth else c.2.2
  let s4 := s3.setGov { s3.gov with ready := ready, vid := if ready < s3.rast.reef then reefVid ready else s3.gov.vid }
  if (replayReef s4).isSome ∨ (!lockFollower s4 ∧ !agreeing s4) then setNext (ownReef s4) s4 else s4

/-- The sample of a decision point (R578, R580). -/
def sampleHeat (s : State) : State :=
  let t := tmax s
  let bad := badSensors s
  let lv := thermLevels s t.1
  let s1 := (s.setGov { s.gov with levels := lv }).setReg A.pwrTmax (BitVec.ofNat 32 (lowBits 12 t.1 + t.2 % 128 * 2 ^ 16))
  let s2 := s1.setRf A.pwrStat 24 24 (b2n (!bad.isEmpty))
  if s.tjMax ≤ t.1 ∨ bad ≠ [] then s2.post s2.ports 0x0704 [s2.vF, (1, t.2), (2, lowBits 16 t.1)] else s2

/-- DECISION_POINT (R578): the sensors and meters are sampled, the account is updated, and the choice for the next frame is made. A stopped halyard
reaches no decision point. -/
def decisionPoint (sens : List (Option (BitVec 12))) (nj : List (BitVec 64)) (s : State) : State :=
  if s.rast.paused then s else
  let s1 := sampleHeat (updateAccount (addEnergy nj (readSensors sens s)))
  let t := (tmax s1).1
  decideReef (thermLimit s1 t s1.gov.levels) t s1

def execDecisionPoint (sens : List (Option (BitVec 12))) (nj : List (BitVec 64)) (s : State) : Host.Outcome State Fault Refusal :=
  .next (decisionPoint sens nj s)

/-! ### Fleet votes -/

/-- The reef the fleet has agreed for the next frame (R497). -/
def agreedReef (s : State) : Option Nat :=
  match findGather s .vote 0 s.f16 with
  | some g => if g.started ∧ 3 ≤ g.phase then some (g.val.headD 0) else none
  | none => none

/-- NEXT is known once the agreed reef is. -/
def noteAgreed (s : State) : State :=
  match agreedReef s with
  | some r => if agreeing s ∧ s.fleet.fb = none ∧ (replayReef s).isNone then setNext r s else s
  | none => s

/-- FLEET_REEF_VOTE: the member's vote starts its gather (R497). -/
def fleetVote (s : State) : State :=
  if agreeing s then
    let s0 := quiet s
    let g := (findGather s0 .vote 0 s0.f16).getD (Gather.fresh .vote 0 s0.f16)
    if g.started then s0 else noteAgreed (startGather 0 { g with val := [ownReef s0] } s0)
  else s

def execFleetReefVote (s : State) : Host.Outcome State Fault Refusal := .next (fleetVote s)

/-- REEF_FRAME: a vote of another member (R497); on the lock-step port it is none. -/
def onReef (p ru : Nat) (f : LinkFrame) (s : State) : State :=
  if s.lsPort = some p then s
  else noteAgreed (onToken p (ckOf s ru) 0x11 2 4 0 s.owner .vote [numAt f.payload 6 1] f s)

def execReefFrame (p : Fin 6) (ru : BitVec 32) (x : Rx) (s : State) : Host.Outcome State Fault Refusal :=
  .next (receive p.val 0x11 x (onReef p.val ru.toNat) s)

/-- FLEET_REEF_FALLBACK: no reef has been agreed in time (R498). -/
def fleetFallback (s : State) : State :=
  if agreeing s ∧ (agreedReef s).isNone ∧ s.fleet.fb = none then
    let r := max (ownReef s) (s.rf A.linkFleetCtl 5 4)
    let s1 := s.setFleet { s.fleet with fb := some r }
    let applied := match replayReef s1 with
      | some v => if s1.gov.rth ≤ v then v else s1.gov.rs
      | none => r
    (if (replayReef s1).isNone then setNext r s1 else s1).post s1.ports 0x0533 [(6, (s1.rast.frame + 1).toNat), (1, applied)]
  else s

def execFleetReefFallback (s : State) : Host.Outcome State Fault Refusal := .next (fleetFallback s)

/-! ### The reef of the next frame -/

/-- A forced reef that the thermal limit forbids: the governor's choice is applied, and event 0x0402 names both (R342, R349). -/
def reefOverride (r rs : Nat) (s : State) : State := s.post s.ports 0x0402 [(6, (s.rast.frame + 1).toNat), (1, r), (1, rs)]

/-- The reef applied at a frame boundary, and the REEF byte's FORCED and OVERRIDE bits of the frame that starts (R342, R349, R583). REEF_OK says whether the
fleet agreed in time (R497, R498), whatever replay forces. A pair whose follower cannot take the lead's choice is lost. -/
def applyReef (s0 : State) : Nat × Bool × Bool × State :=
  let rs := if s0.gov.decided then s0.gov.rs else s0.rast.reef
  let rth := s0.gov.rth
  let agreed := if agreeing s0 ∧ s0.fleet.fb = none then agreedReef s0 else none
  let s := s0.setRf A.linkFleetStat 1 1 (b2n agreed.isSome)
  match replayReef s with
  | some r => if rth ≤ r then (r, true, false, s) else (rs, false, true, reefOverride r rs s)
  | none =>
    if lockFollower s then
      match s.fleet.lsReef with
      | some r => if rth ≤ r then (r, false, false, s) else (rs, false, true, lockLost 4 (reefOverride r rs s))
      | none => (rs, false, false, lockLost 3 s)
    else if agreeing s then
      (match s.fleet.fb, agreed with
        | some r, _ => r
        | none, some r => r
        | none, none => max rs (s.rf A.linkFleetCtl 5 4), false, false, s)
    else (rs, false, false, s)

/-- The estimate of the level that the ended frame ran at (R577). -/
def updateEst (t1 : BitVec 64) (s : State) : State :=
  let r := s.rast.reef
  let e := (s.energy + 2 ^ 64 - s.gov.eFrame) % 2 ^ 64
  let ns := (t1 - s.rast.t0).toNat / 24
  let p : Int := (e * 1000 / max 1 ns : Nat)
  let s1 := s.setRf (A.pwrEst0 + 4 * r) 19 0 (lowBits 20 ((s.est r : Int) + tdivNat (p - s.est r) 8))
  s1.setGov { s1.gov with eFrame := s1.energy }

/-- The switch to a reef at a frame boundary (R585, R586, R589): the standby PLL takes its divider and drives CK; a slower level lowers the core voltage. -/
def switchReef (r : Nat) (s : State) : State :=
  let old := s.rast.reef
  let s1 := s.setRf A.pwrStat 4 4 0
  let s2 := { s1 with rast := { s1.rast with reef := r }, gov := { s1.gov with decided := false } }
  if r = old then s2 else
  let g := s2.gov
  let s3 := (s2.setGov { g with pll := !g.pll, divs := standbyFor g r, vid := reefVid r }).bump A.pwrCnt 15 0 1
  if s3.rf A.pwrCtl 12 12 = 1 then s3.post s3.ports 0x0700 [(6, (s3.rast.frame + 1).toNat), (1, old), (1, r)] else s3

end Sys2Proof.Machine
end

