-- ==== Sys2Proof/Machine/Stack.lean ====
section
/-! DEFINITION. The stack model (R511, R512): when accesses of HBM sectors complete within a stack window. -/

namespace Sys2Proof.Machine

/-- The pseudo-channel of a sector. -/
def sectorPc (x : Nat) : Nat := (x % 64) ^^^ (x / 64 % 64) ^^^ (x / 2 ^ 12 % 64) ^^^ (x / 2 ^ 18 % 64)

/-- The bank of a sector within its pseudo-channel. -/
def sectorBank (x : Nat) : Nat := (x / 64 % 16) ^^^ (x / 2 ^ 22 % 16)

/-- When a sector's access can begin in the window in progress, in ns from its start. -/
def Slack.begins (w : Slack) (x : Nat) : Nat :=
  max (smGet 0 w.pcFree (sectorPc x)) (smGet 0 w.bankFree (16 * sectorPc x + sectorBank x))

/-- A sector's access placed in the window. -/
def Slack.play (w : Slack) (x : Nat) : Slack :=
  let b := w.begins x
  { w with pcFree := smPut 0 w.pcFree (sectorPc x) (b + 4), bankFree := smPut 0 w.bankFree (16 * sectorPc x + sectorBank x) (b + 40) }

/-- Sectors placed in order; the answer says whether each of them completes within the window. -/
def Slack.playAll (w : Slack) (l : List Nat) : Slack × Bool :=
  l.foldl (fun acc x => (acc.1.play x, acc.2 && decide (acc.1.begins x + 40 ≤ acc.1.winLen))) (w, true)

/-- The sectors of the stack (R509). -/
def stackSectors : Nat := 429496729

/-- A background job of the stack that needs some sectors (R37, R513): it runs where they complete within the open window, else `defer` counts it; without a
window it waits. -/
def State.stackJob (s : State) (l : List Nat) (run defer : State → State) : State :=
  if !s.slk.win ∨ s.rast.paused then s
  else
    let w := s.slk.playAll l
    if w.2 then run { s with slk := w.1 } else defer s

/-- HBM requests of a fitting job occupy the open stack window (R513). -/
def State.stackUse (s : State) (h : Held) (a n : Nat) : State :=
  if h.fg then s
  else
    let v := s.held h
    { s with slk := (s.slk.playAll (uniq ((List.range (ceilDiv n 64)).map (fun k => v.reach 0 false (a + 64 * k) / 64)))).1 }

end Sys2Proof.Machine
end

