-- ==== Sys2Proof/Machine/Move.lean ====
section
/-! DEFINITION. The move words LDH, STH, RIG, LSC and IDXR (R101 to R105, R261 to R266, R506). -/

namespace Sys2Proof.Machine

/-- Bytes delivered by reads, as writes at consecutive addresses, each with the poison of the codeword it comes from (R506). -/
def moved (dst : Nat) (bs : List (Byte × Nat)) : List (Nat × Byte × Nat) :=
  (bs.zipIdx).map (fun (x : (Byte × Nat) × Nat) => (dst + x.2, x.1.1, x.1.2))

/-! ### LDH and STH -/

/-- The operands of LDH, STH and LSC: two address operands, a sector count and a rate (R261). -/
structure MoveF where
  x : Nat
  y : Nat
  nsec : Nat
  rate : Nat
deriving DecidableEq, Repr

def decMove (opcode : Nat) (_ : State) (i : Issue) : Option MoveF :=
  let w := i.word
  if headOk i opcode 4 ∧ fld w 47 32 ≠ 0 ∧ 1 ≤ fld w 31 28 ∧ fld w 31 28 ≤ 8 ∧ zeros w [(27, 0)] ∧ i.ext = [] then
    some ⟨fld w 95 72, fld w 71 48, fld w 47 32, fld w 31 28⟩
  else none

/-- The HBM latency H of LDH by reef (R262). -/
def hbmH (reef : Nat) : Nat := match reef with | 0 => 480 | 1 => 384 | 2 => 288 | _ => 192

/-- The check of an HBM operand and a loft operand: the HBM range within R71 and aligned, then the loft range. `load` writes the
loft, else it is read. -/
def chkHbm (load : Bool) (s : State) (i : Issue) (f : MoveF) : Option IssueFault :=
  let n := i.spar.val
  let l := [(effAddr s n f.x, 64 * f.nsec, 64)]
  let h := effAddr s n f.y
  if !hbmOk h (64 * f.nsec) || decide (h % 64 ≠ 0) then some .address
  else if load then loftCheck s n [] l else loftCheck s n l []

/-- The sectors of a move in its cycle k: how far into the move they lie, and their bytes (R262, R265). -/
def MoveF.part (f : MoveF) (k : Nat) : Nat × Nat := (64 * k * f.rate, 64 * min f.rate (f.nsec - k * f.rate))

/-- The cycles a move takes. -/
def MoveF.occ (f : MoveF) : Nat := ceilDiv f.nsec f.rate

/-- Bytes `len` of a bay as a word reads them. -/
def State.bayRead (s : State) (spar a len : Nat) : List (Byte × Nat) := (List.range len).map (fun b => s.loftByte spar (a + b))

/-- LDH in cycle `u` requests RATE sectors of HBM; their loft writes are issued H − 3 cycles later (R262). -/
def ldhStage (f : MoveF) (i : Issue) (h : Held) (k : Nat) (_ : List (Nat × Nat)) (u : Nat) (s : State) : State :=
  let n := i.spar.val
  let v := s.held h
  let p := f.part k
  let a := effAddr v n f.y - 2 ^ 39 + p.1
  let bs := (List.range p.2).map (fun b => v.hbmByte false (a + b))
  nextStage (decide (k + 1 < f.occ)) i h (k + 1) [] (u + 1)
    (((s.stackUse h a p.2).hbmPortReads h (if h.fg then 0 else 4) a p.2).storeAt h (u + hbmH h.reef - 3) n (moved (effAddr v n f.x + p.1) bs) [])

/-- LDH issues. -/
def wordLdh : Issue → State → State := issueWord (decMove 0x80) (chkHbm true) staged

/-- Hw by reef: what LDH requests see of an STH's sectors read in cycle u from u + Hw on (R262). -/
def hbmHw (reef : Nat) : Nat := match reef with | 0 => 400 | 1 => 320 | 2 => 240 | _ => 160

/-- STH in cycle `u` reads RATE sectors of the loft; HBM requests see them Hw cycles later (R262). The member of a pair that they reach is that of the
cycle in which they are read. -/
def sthStage (f : MoveF) (i : Issue) (h : Held) (k : Nat) (_ : List (Nat × Nat)) (u : Nat) (s : State) : State :=
  let n := i.spar.val
  let v := s.held h
  let p := f.part k
  let a := effAddr v n f.y - 2 ^ 39 + p.1
  let src := effAddr v n f.x + p.1
  let ws := (moved a (v.bayRead n src p.2)).map (fun w => (v.reach 0 false w.1, w.2))
  nextStage (decide (k + 1 < f.occ)) i h (k + 1) [] (u + 1) (((s.stackUse h a p.2).portReads h n [(src, p.2)]).later (u + hbmHw h.reef) 0 (.hbm ws))

/-- STH issues. -/
def wordSth : Issue → State → State := issueWord (decMove 0x81) (chkHbm false) staged

/-! ### RIG -/

/-- The operands of RIG (R261). -/
structure RigF where
  src : Nat
  dst : Nat
  dmode : Nat
  dspar : Nat
  nchunk : Nat
deriving DecidableEq, Repr

def decRig (_ : State) (i : Issue) : Option RigF :=
  let w := i.word
  if headOk i 0x82 4 ∧ fld w 39 24 ≠ 0 ∧ zeros w [(23, 0)] ∧ i.ext = [] then
    some ⟨fld w 95 72, fld w 71 48, fld w 47 46, fld w 45 40, fld w 39 24⟩
  else none

/-- The present receivers of a move (R103). -/
def rigDests (s : State) (f : RigF) : List Nat :=
  (s.spars).filter (fun d => match f.dmode with
    | 0 => d = f.dspar
    | 1 => d / 8 = f.dspar / 8
    | 2 => d % 8 = f.dspar % 8
    | _ => true)

/-- RIG faults on a bad source or destination, an absent unicast destination (R72), an output row it reads, or an input row in
any receiver's bay (R96, R264). -/
def chkRig (s : State) (i : Issue) (f : RigF) : Option IssueFault :=
  let n := i.spar.val
  let len := 256 * f.nchunk
  let dst := effAddr s n f.dst
  if !loftOk dst len || decide (dst % 64 ≠ 0) || (decide (f.dmode = 0) && s.absent f.dspar) then some .address
  else match loftCheck s n [(effAddr s n f.src, len, 64)] [] with
    | some e => some e
    | none => if (rigDests s f).any (fun d => s.reachesRole d dst len 2) then some .role else none

/-- RIG in cycle `u` sends chunk k, 256 B, to every receiver, where it is written 32 cycles later (R102, R264). -/
def rigStage (f : RigF) (i : Issue) (h : Held) (k : Nat) (_ : List (Nat × Nat)) (u : Nat) (s : State) : State :=
  let n := i.spar.val
  let v := s.held h
  let src := effAddr v n f.src + 256 * k
  let ws := moved (effAddr v n f.dst + 256 * k) (v.bayRead n src 256)
  nextStage (decide (k + 1 < f.nchunk)) i h (k + 1) [] (u + 1)
    ((rigDests s f).foldl (fun t d => t.storeAt h (u + 32) d ws []) (s.portReads h n [(src, 256)]))

/-- RIG issues. -/
def wordRig : Issue → State → State := issueWord decRig chkRig staged

/-! ### LSC -/

def chkLsc (s : State) (i : Issue) (f : MoveF) : Option IssueFault :=
  let n := i.spar.val
  loftCheck s n [(effAddr s n f.y, 64 * f.nsec, 64)] [(effAddr s n f.x, 64 * f.nsec, 64)]

/-- LSC in cycle `u` reads RATE sectors of the spar's bay and writes them 4 cycles later (R265). -/
def lscStage (f : MoveF) (i : Issue) (h : Held) (k : Nat) (_ : List (Nat × Nat)) (u : Nat) (s : State) : State :=
  let n := i.spar.val
  let v := s.held h
  let p := f.part k
  let src := effAddr v n f.y + p.1
  nextStage (decide (k + 1 < f.occ)) i h (k + 1) [] (u + 1)
    ((s.portReads h n [(src, p.2)]).storeAt h (u + 4) n (moved (effAddr v n f.x + p.1) (v.bayRead n src p.2)) [])

/-- LSC issues. -/
def wordLsc : Issue → State → State := issueWord (decMove 0x83) chkLsc staged

/-! ### IDXR -/

/-- IDXR: destination, index address, NG (R261). -/
def decIdxr (_ : State) (i : Issue) : Option (Nat × Nat × Nat) :=
  let w := i.word
  if headOk i 0x84 4 ∧ fld w 47 32 ≠ 0 ∧ zeros w [(31, 0)] ∧ i.ext = [] then some (fld w 95 72, fld w 71 48, fld w 47 32)
  else none

/-- Index entry e of gather g: its value, and how far its codeword is poisoned. -/
def idxEntry (s : State) (spar idx g e : Nat) : Nat × Nat := s.loftLe spar (idx + 16 * g + 2 * e) 2

/-- The sector an entry selects (R86, R266). -/
def idxSector (e entry : Nat) : Nat := entry / 2 ^ 11 % 8 * 2 ^ 20 + entry % 2 ^ 11 * 512 + e * 64

/-- The sectors that the entries of a word select, those taken from a poisoned codeword apart. -/
def idxSectors (s : State) (spar idx ng : Nat) : List (Nat × Nat) :=
  (List.range ng).flatMap (fun g => (List.range 8).filterMap (fun e =>
    let x := idxEntry s spar idx g e
    if x.2 = 0 then some (e, x.1) else none))

/-- IDXR: the ranges it names, then every index entry: bits [15:14], bank rows 6 and 7, and a sector outside the declared ranges
are address faults of the whole word (R266). -/
def chkIdxr (s : State) (i : Issue) (f : Nat × Nat × Nat) : Option IssueFault :=
  let n := i.spar.val
  let idx := effAddr s n f.2.1
  let secs := idxSectors s n idx f.2.2
  match loftCheck s n [(idx, 16 * f.2.2, 64)] [(effAddr s n f.1, 512 * f.2.2, 64)] with
  | some e => some e
  | none =>
    if secs.any (fun x => decide (x.2 / 2 ^ 14 ≠ 0) || decide (6 ≤ x.2 / 2 ^ 11 % 8) ||
        !inRanges (declaredRanges s i) (idxSector x.1 x.2) 64) then some .address
    else if secs.any (fun x => s.reachesRole n (idxSector x.1 x.2) 64 1) then some .role else none

/-- IDXR in cycle `u`: an index sector is read in a cycle of its own before its four gathers; a gather reads the 8 sectors that its entries select and writes
them 4 cycles later (R266). Stage k is the index sector of block k / 5, or its gather k % 5 − 1. A gather with a poisoned entry reads nothing and writes
its sectors with M = 1 (R506). -/
def idxrStage (f : Nat × Nat × Nat) (i : Issue) (h : Held) (k : Nat) (acc : List (Nat × Nat)) (u : Nat) (s : State) : State :=
  let n := i.spar.val
  let v := s.held h
  let blk := k / 5
  let idx := effAddr v n f.2.1 + 64 * blk
  if k % 5 = 0 then
    let es := (List.range 32).map (fun e => v.loftLe n (idx + 2 * e) 2)
    (s.portReads h n [(idx, 16 * min 4 (f.2.2 - 4 * blk))]).later (u + 1) 3 (.stage i h (k + 1) es)
  else
    let g := 4 * blk + k % 5 - 1
    let es := (acc.drop (8 * (k % 5 - 1))).take 8
    let poison := es.foldl (fun a x => max a x.2) 0
    let secs := es.zipIdx.map (fun (x : (Nat × Nat) × Nat) => idxSector x.2 x.1.1)
    let bs := if poison ≠ 0 then (List.range 512).map (fun b => (Config.idxrFill (n :: (es.map (fun x => x.1))) (512 * g + b), poison))
      else secs.flatMap (fun a => v.bayRead n a 64)
    let s1 := if poison ≠ 0 then s else s.portReads h n (secs.map (fun a => (a, 64)))
    let s2 := s1.storeAt h (u + 4) n (moved (effAddr v n f.1 + 512 * g) bs) []
    if g + 1 < f.2.2 then s2.later (u + 1) 3 (.stage i h (k + 1) acc) else s2

/-- IDXR issues. -/
def wordIdxr : Issue → State → State := issueWord decIdxr chkIdxr staged

end Sys2Proof.Machine
end

