-- ==== Sys2Proof/Machine/Planisher.lean ====
section
/-! DEFINITION. The planisher words (R267 to R270, R285 to R298). -/

namespace Sys2Proof.Machine

/-! ### What the words share -/

/-- The three address operands and the operand bits [23:0] of a planisher word, with its bounds (R267). -/
structure PlanF where
  dst : Nat
  src : Nat
  par : Nat
  low : BitVec 24
  bnd : Bounds
deriving DecidableEq, Repr

/-- The fields every planisher word shares; `bxf` says whether the word has a BXF bit. -/
def decPlan (opcode : Nat) (bxf : Bool) (i : Issue) : Option PlanF :=
  let w := i.word
  let bx := bxf && bitAt w 0
  match extWords i false bx false with
  | none => none
  | some (_, x, _) =>
    match (if bx then decodeBx x else some Bounds.none) with
    | none => none
    | some bnd =>
      if headOk i opcode 5 then some ⟨fld w 95 72, fld w 71 48, fld w 47 24, BitVec.ofNat 24 w.toNat, bnd⟩ else none

/-- The three effective addresses of a word. -/
def PlanF.ea (f : PlanF) (s : State) (spar : Nat) : Nat × Nat × Nat :=
  (effAddr s spar f.dst, effAddr s spar f.src, effAddr s spar f.par)

/-- The three operands are 64 B aligned bay addresses (R267). -/
def planBase (s : State) (spar : Nat) (f : PlanF) (parLen : Nat) : Option IssueFault :=
  let e := f.ea s spar
  loftCheck s spar [(e.2.1, 0, 64), (e.2.2, parLen, 64)] [(e.1, 0, 64)]

/-- One output element: its address and size in bytes, what it writes, and SAT beyond that of its conversion. -/
structure PlanEl where
  addr : Nat
  size : Nat
  lane : Lane
  sat : Nat
deriving DecidableEq, Repr

/-- The cycle in which a word of occupancy `occ` issues the write of group g that its cycle k, cycle `u`, completes: that of the last cycle is seen at
occ + 12 from the issue (R227), and no other is later. -/
def planWhen (occ k u g : Nat) : Nat :=
  if k + 1 = occ then u + 9 else min (u + 1 + Config.planDelay occ k g) (u + (occ - k) + 8)

/-- The byte writes of output elements. -/
def planBytes (els : List PlanEl) : List (Nat × Byte × Nat) :=
  els.flatMap (fun e => ((leBytes e.size e.lane.code).zipIdx).map (fun (b : Byte × Nat) => (e.addr + b.2, b.1, e.lane.mark)))

/-- Output elements that a word completes in its cycle k written, one group to one write, and counted (R275). -/
def planWrite (occ k u : Nat) (groups : List (List PlanEl)) (i : Issue) (h : Held) (s : State) : State :=
  let n := i.spar.val
  let els := groups.flatMap (fun g => g)
  ((groups.zipIdx).foldl (fun (t : State) (g : List PlanEl × Nat) => t.storeAt h (planWhen occ k u g.2) n (planBytes g.1) []) s).count n
    (els.foldl (fun a e => a + e.sat + b2n e.lane.sat) 0) ((els.filter (fun e => e.lane.ufz)).length)
    ((els.filter (fun e => decide (e.lane.poi ≠ 0))).length) (els.any (fun e => decide (e.lane.poi = 2)))

/-- Event 0x0315 of an invalid parameter block (R286), with the place where the word issued. -/
def planInvalid (i : Issue) (h : Held) (s : State) : State :=
  s.postAt [h.port] 0x0315 i.c.toNat [(6, h.frame.toNat), (2, h.line), (2, i.c.toNat), (1, i.spar.val)]

/-- Bytes of the parameter block that hold the header, as (offset, length): its value as one number, each part at its offset, and whether any of them is
delivered poisoned. -/
def planHead (s : State) (spar a : Nat) (parts : List (Nat × Nat)) : Nat × Nat :=
  parts.foldl (fun (x : Nat × Nat) p =>
    let r := s.loftLe spar (a + p.1) p.2
    (x.1 + r.1 * 2 ^ (8 * p.1), max x.2 (min 1 r.2))) (0, 0)

/-- The first cycle of a word reads its header (R285); an invalid one posts its event. -/
def planBegin (i : Issue) (h : Held) (par : Nat) (parts : List (Nat × Nat)) (ok : Bool) (s : State) : State :=
  let t := s.portReads h i.spar.val (parts.map (fun p => (par + p.1, p.2)))
  if ok then t else planInvalid i h t

/-- How far the outputs of an invalid block are poisoned: by invalid data, or by a header delivered poisoned (DESIGN CHOICE, log 75: no rule states what a
header delivered poisoned does; it counts as invalid). -/
def badHead (hd : Nat × Nat) : Nat := if hd.2 = 0 then 1 else 2

/-- Byte field of a header: `n` bytes at offset o. -/
def hdr (h o n : Nat) : Nat := h / 2 ^ (8 * o) % 2 ^ (8 * n)

/-- A signed 32-bit parameter, and how far it was delivered poisoned. -/
def parS32 (s : State) (spar a : Nat) : Int × Nat := let x := s.loftLe spar a 4; (toSigned 32 x.1, x.2)

/-- A poisoned output element of a format (R287). U8, U16 and A8 codewords are marked (R506, R523). -/
def planPoison (code : Nat) (marked : Bool) (p : Nat) : Lane := ⟨code, if marked then p else 0, false, false, p⟩

/-- The bytes from `a`, an integer, are bay addresses. -/
def bayOk (a : Int) (len : Nat) : Bool := decide (0 ≤ a) && loftOk a.toNat len

/-! ### PFIRST and PLAST: the accumulation -/

/-- Tap (dy, dx) of lane x is fetched (R221, R285). -/
def planFetch (s : State) (spar : Nat) (b : Bounds) (ks dy dx x : Nat) : Bool :=
  let k : Int := ((ks - 1) / 2 : Nat)
  b.reads s spar (b.oR + (dy : Int) - k) (b.oC + (x : Int) + (dx : Int) - k)

/-- All (dy, dx, c) of a kernel in order. -/
def kernel (ks cin : Nat) : List (Nat × Nat × Nat) :=
  (List.range ks).flatMap (fun dy => (List.range ks).flatMap (fun dx => (List.range cin).map (fun c => (dy, dx, c))))

/-- An integer kept as a natural number between the cycles of a word, and back. -/
def keepInt (x : Int) : Nat := if 0 ≤ x then 2 * x.toNat else 2 * (-x).toNat - 1
def keptInt (n : Nat) : Int := if n % 2 = 0 then (n / 2 : Nat) else -((n / 2 + 1 : Nat) : Int)

/-- An A8 weight, and how far it was delivered poisoned. -/
def weight (s : State) (spar a : Nat) : Int × Nat := let b := s.loftByte spar a; (toSigned 8 b.1.toNat, b.2)

/-- What a convolving word of the planisher is: its kernel, its input channels and how many of them one cycle takes, its output channels, the width, and where its
weights (rows of `wRow` bytes per channel), bias and multipliers lie in the parameter block (R288, R290). -/
structure TapWord where
  ks : Nat
  cin : Nat
  per : Nat
  cout : Nat
  width : Nat
  wOff : Nat
  wRow : Nat
  bOff : Nat
  mOff : Nat
deriving DecidableEq, Repr

/-- The cycles of one 64-lane block, and of the word (R268). -/
def TapWord.steps (d : TapWord) : Nat := d.ks * d.ks * (d.cin / d.per)
def TapWord.occ (d : TapWord) : Nat := ceilDiv d.width 64 * d.steps

/-- The lanes of the blocks that a word begins: lanes at or beyond WIDTH compute too (R275). -/
def lanesBegun (width : Nat) : List Nat := List.range (64 * ceilDiv width 64)

/-- Tap of cycle k of a block: (dy, dx, first channel). Taps follow each other in the order of R288's loop, with its channels together (log 75). -/
def TapWord.tap (d : TapWord) (k : Nat) : Nat × Nat × Nat :=
  let t := k % d.steps
  let g := d.cin / d.per
  (t / g / d.ks, t / g % d.ks, t % g * d.per)

/-- An element's sum after the taps of one cycle: inputs with their poison and whether they were clamped, and weights with theirs. The kept pair is
the sum, and the poison plus 4 times the clamps (R288). -/
def tapAdd (old : Nat × Nat) (ts : List ((Int × Nat × Bool) × (Int × Nat))) : Nat × Nat :=
  (keepInt (ts.foldl (fun a t => a + t.1.1 * t.2.1) (keptInt old.1)),
    ts.foldl (fun p t => max p (max t.1.2.1 t.2.2)) (old.2 % 4) + 4 * (old.2 / 4 + (ts.filter (fun t => t.1.2.2)).length))

/-- One cycle of a convolving word: the taps of a 64-lane block are fetched, or read as pad, and accumulated; the cycle that completes the block reads bias and
multipliers and writes its outputs. `addr` gives the address of (dy, dx, c, x), `inp` an input's integer, `out` the write groups of block b from each output's
poison, clamps and the numerator of its r. The first kept pair is the header. -/
def tapStage (d : TapWord) (f : PlanF) (ty : Ety) (ok : Bool) (addr : Nat → Nat → Nat → Nat → Int) (inp : Nat × Nat → Int × Nat × Bool)
    (out : Nat → (Nat → Nat → Nat × Nat × Int) → List (List PlanEl)) (i : Issue) (h : Held) (hd : Nat × Nat) (k : Nat)
    (acc : List (Nat × Nat)) (u : Nat) (s : State) : State :=
  let n := i.spar.val
  let v := s.held h
  let par := (f.ea v n).2.2
  let blk := k / d.steps
  let done := decide ((k + 1) % d.steps = 0)
  let more := decide (k + 1 < d.occ)
  if !ok then
    nextStage more i h (k + 1) [hd] (u + 1)
      (if done then planWrite d.occ k u (out blk (fun _ _ => (badHead hd, 0, 0))) i h s else s)
  else
    let t := d.tap k
    let cs := (List.range d.per).map (fun c => t.2.2 + c)
    let lanes := (List.range 64).map (fun l => 64 * blk + l)
    let got (x : Nat) : Bool := planFetch v n f.bnd d.ks t.1 t.2.1 x
    let ins := lanes.map (fun x => cs.map (fun c => inp (if got x then elemAt v n (addr t.1 t.2.1 c x).toNat ty.bits 0
      else (padCode v n f.bnd ty, 0))))
    let wAt := par + d.wOff + ((t.1 * d.ks + t.2.1) * d.cin + t.2.2) * d.wRow
    let ws := (List.range d.cout).map (fun j => (List.range d.per).map (fun c => weight v n (wAt + c * d.wRow + j)))
    let old := if k % d.steps = 0 then List.replicate (64 * d.cout) (0, 0) else acc
    let sums := (old.zip (ins.flatMap (fun xs => ws.map (fun w => xs.zip w)))).map (fun e => tapAdd e.1 e.2)
    let s1 := s.portReads h n ((wAt, d.per * d.wRow) :: oneRead ((lanes.filter got).flatMap (fun x => cs.map (fun c =>
      ((addr t.1 t.2.1 c x).toNat, ty.bits / 8)))))
    if done then
      let bias := (List.range d.cout).map (fun j => parS32 v n (par + d.bOff + 4 * j))
      let mult := (List.range d.cout).map (fun j => parS32 v n (par + d.mOff + 4 * j))
      let res (x j : Nat) : Nat × Nat × Int :=
        let a := sums.getD ((x - 64 * blk) * d.cout + j) (0, 0)
        let b := bias.getD j (0, 0)
        let m := mult.getD j (0, 0)
        (max (a.2 % 4) (max b.2 m.2), a.2 / 4, (b.1 + keptInt a.1) * m.1)
      nextStage more i h (k + 1) [hd] (u + 1)
        (planWrite d.occ k u (out blk res) i h (s1.portReads h n [(par + d.bOff, 4 * d.cout), (par + d.mOff, 4 * d.cout)]))
    else nextStage more i h (k + 1) (hd :: sums) (u + 1) s1

/-! ### PFIRST -/

/-- PFIRST's bits [23:0] (R267): CIN, KS, COUT, WIDTH, IFMT. -/
structure PfirstF where
  f : PlanF
  cin : Nat
  ks : Nat
  cout : Nat
  width : Nat
  ifmt : Ety
deriving DecidableEq, Repr

/-- The input element type of a code: U8, U16 or BF16. -/
def planTy (code : Nat) : Option Ety := match code with | 0 => some .u8 | 1 => some .u16 | 2 => some (.el .bf16) | _ => none

def decPfirst (_ : State) (i : Issue) : Option PfirstF :=
  match decPlan 0x90 true i with
  | some f => match planTy (fld f.low 4 3) with
    | some ty =>
      if fld f.low 17 5 ≠ 0 ∧ fld f.low 2 1 = 0 then
        some ⟨f, fld f.low 23 22 + 1, 2 * fld f.low 21 20 + 1, 16 * (fld f.low 19 18 + 1), fld f.low 17 5, ty⟩
      else none
    | none => none
  | none => none

/-- The header of PFIRST is valid (R286, R288): OFMT, FRAC, SHIFT and the reserved bytes. -/
def pfirstOk (f : PfirstF) (hd : Nat × Nat) : Bool :=
  decide (hd.2 = 0 ∧ 1 ≤ hdr hd.1 8 1 ∧ hdr hd.1 8 1 ≤ 3 ∧ hdr hd.1 10 1 ≤ 63 ∧ hdr hd.1 11 53 = 0 ∧
    (if f.ifmt = .el .bf16 then hdr hd.1 9 1 ≤ 24 else hdr hd.1 9 1 = 0))

/-- The header of PFIRST is the block's first 64 bytes. -/
def pfirstHead : List (Nat × Nat) := [(0, 64)]

/-- What a PFIRST convolves: one tap of one channel in a cycle (R268). -/
def PfirstF.word (f : PfirstF) : TapWord := ⟨f.ks, f.cin, 1, f.cout, f.width, 0x240, 64, 0x40, 0x140⟩

/-- The input address of tap (dy, dx), channel c, lane x of PFIRST (R288). -/
def pfirstAddr (f : PfirstF) (src : Nat) (h dy dx c x : Nat) : Int :=
  let k : Int := ((f.ks - 1) / 2 : Nat)
  (src : Int) + ((c * hdr h 4 4 : Nat) : Int) + ((dy : Int) - k) * (hdr h 0 4 : Nat) + ((x : Int) + dx - k) * ((f.ifmt.bits / 8 : Nat) : Int)

/-- The check at issue of a convolving word: its parameter block, every input that a lane of a begun block fetches, and its outputs. -/
def chkTaps (d : TapWord) (f : PlanF) (parLen : Nat) (ok : Bool) (size : Nat) (addr : Nat → Nat → Nat → Nat → Int)
    (outs : List (Nat × Nat × Nat)) (s : State) (n : Nat) : Option IssueFault :=
  match planBase s n f parLen with
  | some x => some x
  | none =>
    let ins : List (Int × Nat) := if !ok then [] else (lanesBegun d.width).flatMap (fun x => (kernel d.ks d.cin).filterMap (fun t =>
      if planFetch s n f.bnd d.ks t.1 t.2.1 x then some (addr t.1 t.2.1 t.2.2 x, size) else none))
    if ins.any (fun a => !bayOk a.1 a.2) then some .address
    else loftCheck s n (ins.map (fun a => (a.1.toNat, a.2, 1))) outs

def chkPfirst (s : State) (i : Issue) (f : PfirstF) : Option IssueFault :=
  let n := i.spar.val
  let e := f.f.ea s n
  let hd := planHead s n e.2.2 pfirstHead
  chkTaps f.word f.f (0x240 + f.ks * f.ks * f.cin * 64) (pfirstOk f hd) (f.ifmt.bits / 8) (pfirstAddr f e.2.1 hd.1)
    [(e.1, f.width * f.cout, 1)] s n

/-- The input of a tap as an integer (R288): U8 and U16 as they stand, BF16 by rne(v × 2^FRAC) clamped to ±(2^31 − 1). -/
def pfirstIn (ty : Ety) (frac : Nat) (cp : Nat × Nat) : Int × Nat × Bool :=
  if cp.2 ≠ 0 then (0, cp.2, false) else
  match ty with
  | .el _ => match Fmt.value .bf16 cp.1 with
    | none => (0, 1, false)
    | some (m, e) =>
      let q := dyad m (e + frac)
      let c := clampTo (2 ^ 31 - 1) (rneDiv q.1 q.2)
      (c.1, 0, c.2)
  | _ => ((cp.1 : Int), 0, false)

/-- The output format of a header of PFIRST. -/
def pfirstFmt (hd : Nat) : Fmt := match hdr hd 8 1 with | 2 => .e4m3 | 3 => .e5m2 | _ => .a8

/-- Output (x, j) of PFIRST from its poison, clamps and numerator (R288). The clamps of a poisoned output count no SAT (DESIGN CHOICE, log 76). -/
def pfirstEl (f : PfirstF) (dst hd x j : Nat) (r : Nat × Nat × Int) : PlanEl :=
  let a := dst + x * f.cout + j
  let fmt := pfirstFmt hd
  if r.1 ≠ 0 then ⟨a, 1, planPoison 0x7F (decide (fmt = .a8)) r.1, 0⟩
  else let c := convert fmt r.2.2 (2 ^ hdr hd 10 1); ⟨a, 1, ⟨c.code, 0, c.sat, c.ufz, 0⟩, r.2.1⟩

/-- PFIRST, a few-channel first layer with pixel-major output, in its cycle k (R285, R288). -/
def pfirstStage (f : PfirstF) (i : Issue) (h : Held) (k : Nat) (acc : List (Nat × Nat)) (u : Nat) (s : State) : State :=
  let n := i.spar.val
  let v := s.held h
  let e := f.f.ea v n
  let hd := if k = 0 then planHead v n e.2.2 pfirstHead else acc.headD (0, 0)
  let ok := pfirstOk f hd
  let out (blk : Nat) (r : Nat → Nat → Nat × Nat × Int) : List (List PlanEl) := [(List.range 64).flatMap (fun l =>
    let x := 64 * blk + l
    if x < f.width ∧ f.f.bnd.writes v n f.f.bnd.oR (f.f.bnd.oC + (x : Int)) then
      (List.range f.cout).map (fun j => pfirstEl f e.1 hd.1 x j (r x j)) else [])]
  tapStage f.word f.f f.ifmt ok (pfirstAddr f e.2.1 hd.1) (pfirstIn f.ifmt (hdr hd.1 9 1)) out i h hd k (acc.drop 1) u
    (if k = 0 then planBegin i h e.2.2 pfirstHead ok s else s)

def wordPfirst : Issue → State → State := issueWord decPfirst chkPfirst staged

/-! ### PLAST -/

/-- PLAST's bits [23:0] (R267): CIN, KS, COUT, WIDTH, OFMT. -/
structure PlastF where
  f : PlanF
  cin : Nat
  ks : Nat
  cout : Nat
  width : Nat
  ofmt : Ety
deriving DecidableEq, Repr

def decPlast (_ : State) (i : Issue) : Option PlastF :=
  match decPlan 0x91 true i with
  | some f => match planTy (fld f.low 2 1) with
    | some ty =>
      if fld f.low 15 3 ≠ 0 then
        some ⟨f, 16 * (fld f.low 23 20 + 1), 2 * fld f.low 19 18 + 1, fld f.low 17 16 + 1, fld f.low 15 3, ty⟩
      else none
    | none => none
  | none => none

/-- The header of PLAST is valid (R286, R290): SHIFT, BITS and the reserved bytes. -/
def plastOk (f : PlastF) (hd : Nat × Nat) : Bool :=
  decide (hd.2 = 0 ∧ hdr hd.1 12 1 ≤ 63 ∧ hdr hd.1 14 2 = 0 ∧ hdr hd.1 48 16 = 0 ∧
    (if f.ofmt = .u16 then hdr hd.1 13 1 = 10 ∨ hdr hd.1 13 1 = 12 ∨ hdr hd.1 13 1 = 16 else hdr hd.1 13 1 = 0))

/-- The header of PLAST lies before its BIAS and after its MULT (R290). -/
def plastHead : List (Nat × Nat) := [(0, 16), (48, 16)]

/-- What a PLAST convolves: one tap of 16 channels in a cycle (R268). -/
def PlastF.word (f : PlastF) : TapWord := ⟨f.ks, f.cin, 16, f.cout, f.width, 0x40, 4, 0x10, 0x20⟩

/-- The input address of tap (dy, dx), channel c, lane x of PLAST: pixel-major with P = 64 (R274, R290). -/
def plastAddr (f : PlastF) (src hd dy dx c x : Nat) : Int :=
  let k : Int := ((f.ks - 1) / 2 : Nat)
  (src : Int) + ((dy : Int) - k) * (hdr hd 0 4 : Nat) + ((c / 64 * hdr hd 4 4 : Nat) : Int) + ((x : Int) + dx - k) * 64 + (c % 64 : Nat)

/-- Bytes of an output element. -/
def Ety.bytes (t : Ety) : Nat := (t.bits + 7) / 8

def chkPlast (s : State) (i : Issue) (f : PlastF) : Option IssueFault :=
  let n := i.spar.val
  let e := f.f.ea s n
  let hd := planHead s n e.2.2 plastHead
  chkTaps f.word f.f (0x40 + f.ks * f.ks * f.cin * 4) (plastOk f hd) 1 (plastAddr f e.2.1 hd.1)
    ((List.range f.cout).map (fun j => (e.1 + j * hdr hd.1 8 4, f.width * f.ofmt.bytes, 1))) s n

/-- PLAST's conversion to U8 or U16: ties to even, clamped to 0 and the maximum with SAT, UFZ for a nonzero r that rounds to 0
(R291). -/
def convUns (maxv num : Int) (den : Nat) : Lane :=
  let v := rneDiv num den
  if maxv < v then ⟨maxv.toNat, 0, true, false, 0⟩
  else if v < 0 then ⟨0, 0, true, false, 0⟩
  else ⟨v.toNat, 0, false, decide (v = 0 ∧ num ≠ 0), 0⟩

/-- The largest code of an unsigned output: 255, or 2^BITS − 1 (R287). -/
def unsMax (t : Ety) (bits : Nat) : Nat := if t = .u8 then 255 else 2 ^ bits - 1

/-- The poison code of PLAST's output (R286, R287). -/
def plastCode (t : Ety) (bits : Nat) : Nat :=
  if t = .el .bf16 then 0x7FC0 else if t = .u8 then 0xFF
  else if bits = 10 ∨ bits = 12 ∨ bits = 16 then 2 ^ bits - 1 else Config.plastPoison bits % 65536

/-- Output (x, j) of PLAST from its poison and numerator (R290, R291). -/
def plastEl (f : PlastF) (dst hd x j : Nat) (r : Nat × Nat × Int) : PlanEl :=
  let a := dst + j * hdr hd 8 4 + x * f.ofmt.bytes
  let bits := hdr hd 13 1
  let den := 2 ^ hdr hd 12 1
  if r.1 ≠ 0 then ⟨a, f.ofmt.bytes, planPoison (plastCode f.ofmt bits) (decide (f.ofmt ≠ .el .bf16)) r.1, 0⟩
  else ⟨a, f.ofmt.bytes, if f.ofmt = .el .bf16 then laneBf 0 (.ok (convert .bf16 r.2.2 den))
    else convUns (unsMax f.ofmt bits) r.2.2 den, 0⟩

/-- PLAST, a few-channel last layer with planar output, in its cycle k (R285, R290, R291). -/
def plastStage (f : PlastF) (i : Issue) (h : Held) (k : Nat) (acc : List (Nat × Nat)) (u : Nat) (s : State) : State :=
  let n := i.spar.val
  let v := s.held h
  let e := f.f.ea v n
  let hd := if k = 0 then planHead v n e.2.2 plastHead else acc.headD (0, 0)
  let ok := plastOk f hd
  let out (blk : Nat) (r : Nat → Nat → Nat × Nat × Int) : List (List PlanEl) := (List.range f.cout).map (fun j =>
    (List.range 64).filterMap (fun l =>
      let x := 64 * blk + l
      if x < f.width ∧ f.f.bnd.writes v n f.f.bnd.oR (f.f.bnd.oC + (x : Int)) then some (plastEl f e.1 hd.1 x j (r x j)) else none))
  tapStage f.word f.f (.el .a8) ok (plastAddr f e.2.1 hd.1) (fun cp => (toSigned 8 cp.1, cp.2, false)) out i h hd k (acc.drop 1) u
    (if k = 0 then planBegin i h e.2.2 plastHead ok s else s)

def wordPlast : Issue → State → State := issueWord decPlast chkPlast staged

/-! ### PSHUF -/

/-- PSHUF: r and NSEC (R267). -/
structure PshufF where
  f : PlanF
  r : Nat
  nsec : Nat
deriving DecidableEq, Repr

def decPshuf (_ : State) (i : Issue) : Option PshufF :=
  match decPlan 0x92 false i with
  | some f =>
    if fld f.low 23 22 < 3 ∧ fld f.low 21 6 ≠ 0 ∧ fld f.low 5 0 = 0 then some ⟨f, fld f.low 23 22 + 2, fld f.low 21 6⟩ else none
  | none => none

/-- The header of the parameter blocks of PSHUF and PARGMAX is all of their 64 bytes. -/
def planHead64 : List (Nat × Nat) := [(0, 64)]

/-- The header of PSHUF is valid (R286, R293): ESZ and the reserved bytes. -/
def pshufOk (hd : Nat × Nat) : Bool := decide (hd.2 = 0 ∧ (hdr hd.1 8 1 = 1 ∨ hdr hd.1 8 1 = 2) ∧ hdr hd.1 9 55 = 0)

/-- Bytes each input plane supplies (R293). -/
def pshufPlane (f : PshufF) : Nat := 64 * f.nsec / (f.r * f.r)

def chkPshuf (s : State) (i : Issue) (f : PshufF) : Option IssueFault :=
  let n := i.spar.val
  let e := f.f.ea s n
  match planBase s n f.f 64 with
  | some x => some x
  | none =>
    let hd := planHead s n e.2.2 planHead64
    loftCheck s n (if pshufOk hd then (List.range (f.r * f.r)).map (fun p => (e.2.1 + p * hdr hd.1 0 4, pshufPlane f, 1)) else [])
      ((List.range f.r).map (fun a => (e.1 + a * hdr hd.1 4 4, f.r * pshufPlane f, 1)))

/-- Where output byte k of PSHUF, row after row, goes, and where it comes from (R293). -/
def pshufByte (f : PshufF) (dst src hd k : Nat) : Nat × Nat :=
  let row := f.r * pshufPlane f
  let a := k / row
  let esz := hdr hd 8 1
  let px := k % row / esz
  (dst + a * hdr hd 4 4 + k % row, src + (a * f.r + px % f.r) * hdr hd 0 4 + px / f.r * esz + k % row % esz)

/-- PSHUF in its cycle k moves 256 bytes of the planes of a pixel shuffle, codes unchanged; destination codewords carry poison (R293, R506). The output bytes
follow each other row after row (DESIGN CHOICE, log 75). With an invalid parameter block it writes free bytes, and counts one POI per element where ESZ gives the
elements (R286). -/
def pshufStage (f : PshufF) (i : Issue) (h : Held) (k : Nat) (acc : List (Nat × Nat)) (u : Nat) (s : State) : State :=
  let n := i.spar.val
  let v := s.held h
  let e := f.f.ea v n
  let hd := if k = 0 then planHead v n e.2.2 planHead64 else acc.headD (0, 0)
  let ok := pshufOk hd
  let occ := ceilDiv f.nsec 4
  let s0 := if k = 0 then planBegin i h e.2.2 planHead64 ok s else s
  let ks := (List.range 256).map (fun b => 256 * k + b) |>.filter (fun b => decide (b < f.r * f.r * pshufPlane f))
  let at' := ks.map (fun b => pshufByte f e.1 e.2.1 hd.1 b)
  let s1 := if ok then
      (s0.portReads h n (oneRead (at'.map (fun x => (x.2, 1))))).storeAt h (planWhen occ k u 0) n
        (at'.map (fun x => let b := v.loftByte n x.2; (x.1, b.1, b.2))) []
    else
      let esz := hdr hd.1 8 1
      let poi := if esz = 1 ∨ esz = 2 then (ks.filter (fun b => decide (b % (f.r * pshufPlane f) % esz = 0))).length
        else if k + 1 = occ then Config.pshufPoi hd.1 else 0
      (s0.storeAt h (planWhen occ k u 0) n ((ks.zip at').map (fun x => (x.2.1, Config.pshufByte hd.1 x.1, badHead hd))) []).count n 0 0 poi
        (decide (hd.2 ≠ 0))
  nextStage (decide (k + 1 < occ)) i h (k + 1) [hd] (u + 1) s1

def wordPshuf : Issue → State → State := issueWord decPshuf chkPshuf staged

/-! ### PCROP -/

/-- PCROP's bits [23:0] (R267): NBOX, OH, OW, C and FMT (BF16 or 8-bit). -/
structure PcropF where
  f : PlanF
  nbox : Nat
  oh : Nat
  ow : Nat
  ch : Nat
  bf : Bool
deriving DecidableEq, Repr

def decPcrop (_ : State) (i : Issue) : Option PcropF :=
  match decPlan 0x93 true i with
  | some f =>
    if fld f.low 23 16 ≠ 0 then
      some ⟨f, fld f.low 23 16, fld f.low 15 10 + 1, fld f.low 9 4 + 1, [1, 3, 4, 16].getD (fld f.low 3 2) 1, bitAt f.low 1⟩
    else none
  | none => none

/-- The header of a box list is valid (R286, R295): KIND and the reserved bytes. -/
def pcropOk (f : PcropF) (hd : Nat × Nat) : Bool :=
  decide (hd.2 = 0 ∧ hdr hd.1 13 19 = 0 ∧ (if f.bf then hdr hd.1 12 1 = 0 else hdr hd.1 12 1 ≤ 1))

/-- The header of a box list is its first 32 bytes. -/
def pcropHead : List (Nat × Nat) := [(0, 32)]

/-- A box: Y0, X0, Y1, X1, or the poison its entry was delivered with (R295, R506). -/
structure Box where
  y0 : Int
  x0 : Int
  y1 : Int
  x1 : Int
  p : Nat
deriving DecidableEq, Repr

/-- The four words of a box as read. -/
def boxWords (s : State) (spar par b : Nat) : List (Nat × Nat) :=
  (List.range 4).map (fun k => s.loftLe spar (par + 0x20 + 16 * b + 4 * k) 4)

/-- The box that four words as read give. -/
def boxOf (l : List (Nat × Nat)) : Box :=
  let v (k : Nat) : Int := toSigned 32 (l.getD k (0, 0)).1
  ⟨v 0, v 1, v 2, v 3, l.foldl (fun p x => max p x.2) 0⟩

def boxAt (s : State) (spar par b : Nat) : Box := boxOf (boxWords s spar par b)

/-- The source position of output coordinate o of `n` along an axis, from lo to hi (R296): its integer part and its 8 fraction
bits. -/
def cropPos (lo hi : Int) (o n : Nat) : Int × Nat :=
  let p := lo + (2 * (o : Int) + 1) * (hi - lo) / (2 * (n : Int)) - 2 ^ 15
  (p / 2 ^ 16, (p / 2 ^ 8 % 256).toNat)

/-- Bytes of an element. -/
def PcropF.e (f : PcropF) : Nat := if f.bf then 2 else 1

/-- The address of source element (y, x, c) (R295). -/
def cropAddr (f : PcropF) (src h : Nat) (y x : Int) (c : Nat) : Int :=
  (src : Int) + y * (hdr h 0 4 : Nat) + (x * (f.ch : Int) + c) * (f.e : Int)

/-- The lowest tap address of source row `y` of a box: over every output column and both of its taps (R297). -/
def cropLow (f : PcropF) (src h : Nat) (bx : Box) (y : Int) : Int :=
  let xs := (List.range f.ow).flatMap (fun ox => let ix := (cropPos bx.x0 bx.x1 ox f.ow).1; [ix, ix + 1])
  match xs with
  | [] => cropAddr f src h y 0 0
  | x :: t => cropAddr f src h y (t.foldl min x) 0

/-- How a tap of PCROP is read (R297): fetched, or as pad by a bound or range, or as pad by its span. A tap that fails both counts as read as pad by its bound
or range and posts no event (DESIGN CHOICE, log 77). -/
inductive CropTap where
  | fetched
  | pad
  | span
deriving DecidableEq, Repr

def cropTap (s : State) (n : Nat) (rs : List LoftRange) (f : PcropF) (src h : Nat) (bx : Box) (y x : Int) (c : Nat) : CropTap :=
  let a := cropAddr f src h y x c
  if !f.f.bnd.reads s n y x then .pad
  else if !bayOk a f.e || !inRanges rs a.toNat f.e then .pad
  else
    let low := cropLow f src h bx y
    if a < low ∨ low + ((192 * ceilDiv (f.ow * f.ch) 64 : Nat) : Int) < a + (f.e : Int) then .span else .fetched

/-- The four taps of an output element, with their weights (R296): (y, x, weight). -/
def cropTaps (f : PcropF) (bx : Box) (oy ox : Nat) : List (Int × Int × Nat) :=
  let y := cropPos bx.y0 bx.y1 oy f.oh
  let x := cropPos bx.x0 bx.x1 ox f.ow
  [(y.1, x.1, (256 - y.2) * (256 - x.2)), (y.1, x.1 + 1, (256 - y.2) * x.2),
   (y.1 + 1, x.1, y.2 * (256 - x.2)), (y.1 + 1, x.1 + 1, y.2 * x.2)]

/-- The outputs (oy, ox, c) of one box. -/
def cropGrid (f : PcropF) : List (Nat × Nat × Nat) :=
  (List.range f.oh).flatMap (fun oy => (List.range (f.ow * f.ch)).map (fun m => (oy, m / f.ch, m % f.ch)))

/-- The fetched taps of some outputs (box, oy, ox, channel), as accesses. -/
def cropFetched (s : State) (n : Nat) (rs : List LoftRange) (f : PcropF) (src hd : Nat) (bx : Box) (outs : List (Nat × Nat × Nat)) : List (Nat × Nat) :=
  if bx.p ≠ 0 then [] else outs.flatMap (fun g => (cropTaps f bx g.1 g.2.1).filterMap (fun t =>
    if cropTap s n rs f src hd bx t.1 t.2.1 g.2.2 = .fetched then some ((cropAddr f src hd t.1 t.2.1 g.2.2).toNat, f.e) else none))

/-- The output address of (b, oy, ox, c) (R295). -/
def cropOut (f : PcropF) (dst h b oy ox c : Nat) : Nat := dst + b * hdr h 8 4 + oy * hdr h 4 4 + (ox * f.ch + c) * f.e

def chkPcrop (s : State) (i : Issue) (f : PcropF) : Option IssueFault :=
  let n := i.spar.val
  let e := f.f.ea s n
  match planBase s n f.f (0x20 + 16 * f.nbox) with
  | some x => some x
  | none =>
    let hd := planHead s n e.2.2 pcropHead
    let outs := (List.range f.nbox).flatMap (fun b => (List.range f.oh).map (fun oy =>
      (cropOut f e.1 hd.1 b oy 0 0, f.ow * f.ch * f.e, 1)))
    match loftCheck s n [] outs with
    | some x => some x
    | none =>
      if pcropOk f hd ∧ (List.range f.nbox).any (fun b =>
          (cropFetched s n (declaredRanges s i) f e.2.1 hd.1 (boxAt s n e.2.2 b) (cropGrid f)).any (fun a => s.reachesRole n a.1 a.2 1)) then
        some .role else none

/-- The exact value, as n / 2^24 scaled by the lowest exponent, of the weighted taps (R296); the poison of any fetched tap. -/
def cropSum (ts : List (Nat × Opnd)) : Opnd :=
  let p := ts.foldl (fun (a : Nat) t => match t.2 with | .bad q => max a q | .val _ _ => a) 0
  if p ≠ 0 then .bad p
  else
    let e0 := ts.foldl (fun (a : Int) t => match t.2 with | .val _ e => min a e | .bad _ => a) 127
    .val (ts.foldl (fun (a : Int) t => match t.2 with
      | .val m e => a + (t.1 : Int) * m * 2 ^ (e - e0).toNat
      | .bad _ => a) 0) (e0 - 16)

/-- The cycles of one output row of a box, and of the word (R268). -/
def PcropF.per (f : PcropF) : Nat := ceilDiv (f.ow * f.ch) 64
def pcropOcc (f : PcropF) : Nat := f.nbox * f.oh * f.per

/-- The element type that KIND gives a box list's data. -/
def pcropTy (f : PcropF) (hd : Nat) : Ety := if f.bf then .el .bf16 else if hdr hd 12 1 = 0 then .u8 else .el .a8

/-- The poison code of PCROP's output (R286, R287). -/
def pcropCode (f : PcropF) (hd : Nat) : Nat :=
  if f.bf then 0x7FC0 else if 2 ≤ hdr hd 12 1 then Config.pcropPoison (hdr hd 12 1) % 256 else if hdr hd 12 1 = 0 then 0xFF else 0x7F

/-- Output (oy, ox, c) of a box (R296, R506). -/
def pcropLane (s : State) (n : Nat) (rs : List LoftRange) (f : PcropF) (src : Nat) (hd : Nat × Nat) (bx : Box) (g : Nat × Nat × Nat) : Lane :=
  let ty := pcropTy f hd.1
  let bad (p : Nat) : Lane := planPoison (pcropCode f hd.1) (!f.bf) p
  if !pcropOk f hd then bad (badHead hd)
  else if bx.p ≠ 0 then bad bx.p
  else
    let ts := (cropTaps f bx g.1 g.2.1).map (fun t =>
      let cp := if cropTap s n rs f src hd.1 bx t.1 t.2.1 g.2.2 = .fetched then
          elemAt s n (cropAddr f src hd.1 t.1 t.2.1 g.2.2).toNat (8 * f.e) 0
        else (padCode s n f.f.bnd ty, 0)
      (t.2.2, if cp.2 ≠ 0 then Opnd.bad cp.2 else if ty = .u8 then Opnd.val (cp.1 : Int) 0
        else elOpnd (if f.bf then .bf16 else .a8) cp))
    match cropSum ts with
    | .bad p => bad p
    | .val m x =>
      let q := dyad m x
      if ty = .u8 then convUns 255 q.1 q.2
      else let r := convert (if f.bf then .bf16 else .a8) q.1 q.2; ⟨r.code, 0, r.sat, r.ufz, 0⟩

/-- PCROP, bilinear crop-and-resize from a box list, in its cycle k: 64 outputs of one output row of a box, whose entry the first cycle of the box reads
(R285, R295 to R297). Kept are the header, the box's words, and whether the event of a span has been posted. -/
def pcropStage (f : PcropF) (i : Issue) (h : Held) (k : Nat) (acc : List (Nat × Nat)) (u : Nat) (s : State) : State :=
  let n := i.spar.val
  let v := s.held h
  let e := f.f.ea v n
  let hd := if k = 0 then planHead v n e.2.2 pcropHead else acc.headD (0, 0)
  let ok := pcropOk f hd
  let bi := k / (f.oh * f.per)
  let first := decide (k % (f.oh * f.per) = 0)
  let words := if first then boxWords v n e.2.2 bi else (acc.drop 1).take 4
  let told := (acc.getD 5 (0, 0)).1
  let bx := boxOf words
  let oy := k / f.per % f.oh
  let outs := ((List.range 64).map (fun m => 64 * (k % f.per) + m)).filterMap (fun m =>
    if m < f.ow * f.ch then some (oy, m / f.ch, m % f.ch) else none)
  let s0 := if k = 0 then planBegin i h e.2.2 pcropHead ok s else s
  let s1 := if !ok then s0 else s0.portReads h n ((if first then [(e.2.2 + 0x20 + 16 * bi, 16)] else []) ++
    oneRead (cropFetched v n h.ranges f e.2.1 hd.1 bx outs))
  let span := ok && decide (told = 0 ∧ bx.p = 0) && outs.any (fun g => (cropTaps f bx g.1 g.2.1).any (fun t =>
    cropTap v n h.ranges f e.2.1 hd.1 bx t.1 t.2.1 g.2.2 = .span))
  let s2 := if span then s1.postAt [h.port] 0x0316 i.c.toNat [(6, h.frame.toNat), (2, h.line), (2, i.c.toNat), (1, bi)] else s1
  let els := (outs.filter (fun g => f.f.bnd.writes v n (f.f.bnd.oR + (bi : Int)) (f.f.bnd.oC + (g.2.1 : Int)))).map (fun g =>
    (⟨cropOut f e.1 hd.1 bi g.1 g.2.1 g.2.2, f.e, pcropLane v n h.ranges f e.2.1 hd bx g, 0⟩ : PlanEl))
  nextStage (decide (k + 1 < pcropOcc f)) i h (k + 1) (hd :: (words ++ [(max told (b2n span), 0)])) (u + 1)
    (planWrite (pcropOcc f) k u [els] i h s2)

def wordPcrop : Issue → State → State := issueWord decPcrop chkPcrop staged

/-! ### PARGMAX -/

/-- PARGMAX's bits [23:0] (R267): C, WIDTH and FMT. -/
structure PargF where
  f : PlanF
  ch : Nat
  width : Nat
  bf : Bool
deriving DecidableEq, Repr

def decParg (_ : State) (i : Issue) : Option PargF :=
  match decPlan 0x94 true i with
  | some f => if fld f.low 14 2 ≠ 0 then some ⟨f, fld f.low 23 15 + 1, fld f.low 14 2, bitAt f.low 1⟩ else none
  | none => none

/-- The header of PARGMAX is valid (R286, R298): KIND and the reserved bytes. -/
def pargOk (f : PargF) (hd : Nat × Nat) : Bool :=
  decide (hd.2 = 0 ∧ hdr hd.1 9 55 = 0 ∧ (if f.bf then hdr hd.1 8 1 = 0 else hdr hd.1 8 1 ≤ 3))

/-- The element type of KIND (R298). -/
def pargTy (f : PargF) (h : Nat) : Ety :=
  if f.bf then .el .bf16 else match hdr h 8 1 with | 0 => .u8 | 1 => .el .a8 | 2 => .el .e4m3 | _ => .el .e5m2

/-- The address of element (c, x) (R298). -/
def pargAddr (f : PargF) (src h c x : Nat) : Nat :=
  src + x / 64 * hdr h 4 4 + c * hdr h 0 4 + x % 64 * (if f.bf then 2 else 1)

def chkParg (s : State) (i : Issue) (f : PargF) : Option IssueFault :=
  let n := i.spar.val
  let e := f.f.ea s n
  let b := f.f.bnd
  match planBase s n f.f 64 with
  | some x => some x
  | none =>
    let hd := planHead s n e.2.2 planHead64
    loftCheck s n (if !pargOk f hd then [] else (lanesBegun f.width).flatMap (fun (x : Nat) =>
        if b.reads s n b.oR (b.oC + (x : Int)) then
          (List.range f.ch).map (fun c => (pargAddr f e.2.1 hd.1 c x, if f.bf then 2 else 1, 1)) else []))
      [(e.1, 2 * f.width, 1)]

/-- The cycles of one 64-lane block, and the channels that one cycle compares (R268). -/
def PargF.steps (f : PargF) : Nat := ceilDiv f.ch 4 * (if f.bf then 2 else 1)
def PargF.per (f : PargF) : Nat := if f.bf then 2 else 4

/-- The number that a code of the input represents. -/
def pargVal (ty : Ety) (cp : Nat × Nat) : Opnd :=
  if cp.2 ≠ 0 then .bad cp.2 else match ty with | .el k => elOpnd k cp | _ => .val (cp.1 : Int) 0

/-- The largest so far, as 2^16 · index + code with the poison met, after channel c (R270): the lowest index among equals. -/
def pargAdd (ty : Ety) (best : Nat × Nat) (c : Nat) (cp : Nat × Nat) : Nat × Nat :=
  match pargVal ty cp with
  | .bad p => (best.1, max best.2 p)
  | .val m e =>
    let more : Bool := match pargVal ty (best.1 % 2 ^ 16, 0) with | .val m0 e0 => dyadLt m0 e0 m e | .bad _ => true
    (if decide (c = 0) || more then c * 2 ^ 16 + cp.1 else best.1, best.2)

/-- PARGMAX in its cycle k compares 4 channels of a 64-lane block, or 2 of BF16; the last of a block writes, at each pixel, the index of the channel with the largest
value (R270, R298). Kept are the header and each lane's largest so far. -/
def pargStage (f : PargF) (i : Issue) (h : Held) (k : Nat) (acc : List (Nat × Nat)) (u : Nat) (s : State) : State :=
  let n := i.spar.val
  let v := s.held h
  let e := f.f.ea v n
  let b := f.f.bnd
  let hd := if k = 0 then planHead v n e.2.2 planHead64 else acc.headD (0, 0)
  let ok := pargOk f hd
  let ty := pargTy f hd.1
  let occ := ceilDiv f.width 64 * f.steps
  let blk := k / f.steps
  let cs := ((List.range f.per).map (fun c => k % f.steps * f.per + c)).filter (fun c => decide (c < f.ch))
  let lanes := (List.range 64).map (fun l => 64 * blk + l)
  let got (x : Nat) : Bool := b.reads v n b.oR (b.oC + (x : Int))
  let old := if k % f.steps = 0 then List.replicate 64 (0, 0) else acc.drop 1
  let best := (lanes.zip old).map (fun x => cs.foldl (fun a c => pargAdd ty a c
    (if got x.1 then elemAt v n (pargAddr f e.2.1 hd.1 c x.1) ty.bits 0 else (padCode v n b ty, 0))) x.2)
  let s0 := if k = 0 then planBegin i h e.2.2 planHead64 ok s else s
  let s1 := if !ok then s0 else s0.portReads h n (oneRead ((lanes.filter got).flatMap (fun x => cs.map (fun c =>
    (pargAddr f e.2.1 hd.1 c x, if f.bf then 2 else 1)))))
  let els := (lanes.zip best).filterMap (fun x =>
    if x.1 < f.width ∧ b.writes v n b.oR (b.oC + (x.1 : Int)) then
      let p := if ok then x.2.2 else badHead hd
      some (⟨e.1 + 2 * x.1, 2, if p ≠ 0 then planPoison 0xFFFF true p else ⟨x.2.1 / 2 ^ 16, 0, false, false, 0⟩, 0⟩ : PlanEl)
    else none)
  nextStage (decide (k + 1 < occ)) i h (k + 1) (hd :: best) (u + 1)
    (if (k + 1) % f.steps = 0 then planWrite occ k u [els] i h s1 else s1)

def wordPargmax : Issue → State → State := issueWord decParg chkParg staged

end Sys2Proof.Machine
end

