-- ==== Sys2Proof/Machine/Scalar.lean ====
section
/-! DEFINITION. The scalar words (R231 to R235) and the bundle end (R229). A register written by a word that issues in cycle t is
seen by words that issue at t + 1 or later (R181). -/

namespace Sys2Proof.Machine

/-! ### BEND -/

/-- BEND: all operand bits reserved, MASK 0 (R217, R229). -/
def decBend (_ : State) (i : Issue) : Option Unit :=
  if headOk i 0x00 0 ∧ fld i.word 99 96 = 0 ∧ zeros i.word [(95, 0)] ∧ i.ext = [] then some () else none

/-- BEND ends the bundle on the spar: no later word of it issues in this line or slack bundle (R179, R229). -/
def wordBend : Issue → State → State := issueWord decBend noCheck (fun _ i _ s =>
  { s with fab := { s.fab with ended := (i.spar.val, i.chan.val) :: s.fab.ended } })

/-! ### SLI -/

/-- SLI: Sd and IMM32. -/
def decSli (_ : State) (i : Issue) : Option (Nat × Nat) :=
  if headOk i 0x10 0 ∧ zeros i.word [(90, 64), (31, 0)] ∧ i.ext = [] then some (fld i.word 95 91, fld i.word 63 32) else none

/-- Sd ← IMM32 (R231). -/
def wordSli : Issue → State → State := issueWord decSli noCheck (fun f i _ s =>
  s.later (i.c.toNat + 1) 0 (.setS i.spar.val f.1 (BitVec.ofNat 32 f.2)))

/-! ### SOP -/

/-- The fields of SOP. -/
structure SopF where
  d : Nat
  a : Nat
  b : Nat
  imm : Bool
  func : Nat
  val : Nat
deriving DecidableEq, Repr

def decSop (_ : State) (i : Issue) : Option SopF :=
  let w := i.word
  if headOk i 0x11 0 ∧ zeros w [(75, 64), (31, 0)] ∧ fld w 79 76 ≤ 12 ∧ (fld w 80 80 = 1 ∨ fld w 63 32 = 0) ∧ i.ext = [] then
    some ⟨fld w 95 91, fld w 90 86, fld w 85 81, bitAt w 80, fld w 79 76, fld w 63 32⟩
  else none

/-- The operations of R232, modulo 2^32; shifts use bits [4:0] of the second operand. -/
def sopFunc (func : Nat) (a b : Word) : Word :=
  let sh := b.toNat % 32
  match func with
  | 0 => a + b
  | 1 => a - b
  | 2 => a &&& b
  | 3 => a ||| b
  | 4 => a ^^^ b
  | 5 => a <<< sh
  | 6 => a >>> sh
  | 7 => a.sshiftRight sh
  | 8 => a * b
  | 9 => if a.toInt ≤ b.toInt then a else b
  | 10 => if a.toInt ≤ b.toInt then b else a
  | 11 => if a.toNat ≤ b.toNat then a else b
  | _ => if a.toNat ≤ b.toNat then b else a

/-- Sd ← FUNC(Sa, IMM = 1 ? IMM32 : Sb) (R231). -/
def wordSop : Issue → State → State := issueWord decSop noCheck (fun f i _ s =>
  let n := i.spar.val
  s.later (i.c.toNat + 1) 0 (.setS n f.d (sopFunc f.func (s.sReg n f.a) (if f.imm then BitVec.ofNat 32 f.val else s.sReg n f.b))))

/-! ### SMOVB -/

def decSmovb (_ : State) (i : Issue) : Option (Nat × Nat) :=
  if headOk i 0x12 0 ∧ zeros i.word [(86, 0)] ∧ i.ext = [] then some (fld i.word 95 92, fld i.word 91 87) else none

/-- Bd ← Sa (R231). -/
def wordSmovb : Issue → State → State := issueWord decSmovb noCheck (fun f i _ s =>
  s.later (i.c.toNat + 1) 0 (.setB i.spar.val f.1 (s.sReg i.spar.val f.2)))

/-! ### ALI and AINC -/

def decAli (_ : State) (i : Issue) : Option (Nat × Nat) :=
  if headOk i 0x13 0 ∧ zeros i.word [(92, 40)] ∧ i.ext = [] then some (fld i.word 95 93, fld i.word 39 0) else none

/-- An ← IMM40 (R231). -/
def wordAli : Issue → State → State := issueWord decAli noCheck (fun f i _ s =>
  s.later (i.c.toNat + 1) 0 (.setA i.spar.val f.1 (BitVec.ofNat 40 f.2)))

/-- AINC: An, K (0 or 6 to 23) and INC (R231, R233). -/
def decAinc (_ : State) (i : Issue) : Option (Nat × Nat × Int) :=
  let k := fld i.word 92 88
  if headOk i 0x14 0 ∧ zeros i.word [(87, 64), (31, 0)] ∧ (k = 0 ∨ 6 ≤ k ∧ k ≤ 23) ∧ i.ext = [] then
    some (fld i.word 95 93, k, sfld i.word 63 32)
  else none

/-- The ring increment (R233). -/
def ringInc (a : BitVec 40) (k : Nat) (inc : Int) : BitVec 40 :=
  let v := a.toNat
  if k = 0 then BitVec.ofNat 40 (lowBits 40 ((v : Int) + inc))
  else BitVec.ofNat 40 (v / 2 ^ k * 2 ^ k + lowBits k ((v : Int) + inc))

/-- AINC steps An, on a ring of 2^K bytes where K is not 0 (R233). -/
def wordAinc : Issue → State → State := issueWord decAinc noCheck (fun f i _ s =>
  s.later (i.c.toNat + 1) 0 (.setA i.spar.val f.1 (ringInc (s.aReg i.spar.val f.1) f.2.1 f.2.2)))

/-! ### SGET and GSET -/

def decSget (_ : State) (i : Issue) : Option (Nat × Nat × Nat) :=
  if headOk i 0x15 0 ∧ zeros i.word [(83, 0)] ∧ fld i.word 90 87 ≤ 6 ∧ i.ext = [] then
    some (fld i.word 95 91, fld i.word 90 87, fld i.word 86 84)
  else none

/-- The spar's AMAX of a watch in the most recent snapshot: a frame watch for a passage (R155), the job's step watch in a
fitting bundle (R304). -/
def snapAmax (s : State) (i : Issue) (wid : Nat) : Nat :=
  let key := 8 * i.spar.val + wid
  match (s.slot i.chan.val).job with
  | some n => (smGet 0 (s.job n).snapOwn key).toNat
  | none => (smGet 0 s.fab.snapOwn key).toNat

/-- The sources of SGET (R234). -/
def sgetSrc (s : State) (i : Issue) (src wid : Nat) : Nat :=
  match src with
  | 0 => snapAmax s i wid
  | 1 => (s.genIdx i.spar.val).toNat % 2 ^ 32
  | 2 => (s.genIdx i.spar.val).toNat / 2 ^ 32
  | 3 => s.rast.frame.toNat % 2 ^ 16
  | 4 => s.rast.line
  | 5 => i.spar.val
  | _ => s.rast.reef

/-- Sd ← source (R234). -/
def wordSget : Issue → State → State := issueWord decSget noCheck (fun f i _ s =>
  s.later (i.c.toNat + 1) 0 (.setS i.spar.val f.1 (BitVec.ofNat 32 (sgetSrc s i f.2.1 f.2.2))))

def decGset (_ : State) (i : Issue) : Option (Nat × Nat × Bool × Nat) :=
  let w := i.word
  if headOk i 0x16 0 ∧ zeros w [(84, 40)] ∧ (fld w 85 85 = 1 ∨ fld w 39 0 = 0) ∧ i.ext = [] then
    some (fld w 95 91, fld w 90 86, bitAt w 85, fld w 39 0)
  else none

/-- GEN_IDX ← IMM = 1 ? IMM40 : Sb[7:0] ∥ Sa (R231). It is written after the advance of a VGEN of the same cycle, and stands (R235). -/
def wordGset : Issue → State → State := issueWord decGset noCheck (fun f i _ s =>
  let n := i.spar.val
  s.later (i.c.toNat + 1) 1 (.setGen n (BitVec.ofNat 40 (if f.2.2.1 then f.2.2.2
    else (s.sReg n f.2.1).toNat % 256 * 2 ^ 32 + (s.sReg n f.1).toNat))))

end Sys2Proof.Machine
end

