-- ==== Sys2Proof/Machine/Planes.lean ====
section
/-! DEFINITION. Plane formats (R387 to R391): the plane format word, the planes of a packed image and of a segment. -/

namespace Sys2Proof.Machine

/-- Bits of a sample: field BITS (R387). -/
def fmtBits (w : Word) : Nat := match fld w 3 2 with | 0 => 8 | 1 => 10 | 2 => 12 | _ => 16

/-- Bytes of a container (R387). -/
def fmtE (w : Word) : Nat := 1 + fld w 4 4

/-- The word is invalid (R387): BITS above 8 in an 8-bit container, a reserved value, or RGB without 4:4:4. -/
def fmtInvalid (w : Word) : Bool :=
  decide ((8 < fmtBits w ∧ fld w 4 4 = 0) ∨ (fld w 4 4 = 0 ∧ fld w 5 5 = 1) ∨ fld w 8 7 = 3 ∨ 2 ≤ fld w 12 11 ∨
    fld w 31 16 ≠ 0 ∨ (fld w 10 10 = 1 ∧ fld w 1 0 ≠ 0))

/-- The planes a format stores, in order (R388): 0 Y or G, 1 and 2 chroma or B and R, 3 alpha. -/
def fmtPlanes (w : Word) : List Nat :=
  [0] ++ (if fld w 1 0 = 3 then [] else [1, 2]) ++ (if fld w 9 9 = 1 then [3] else [])

/-- Width of a plane of an image `width` pixels wide (R388). -/
def planeW (w : Word) (p width : Nat) : Nat :=
  if (p = 1 ∨ p = 2) ∧ (fld w 1 0 = 1 ∨ fld w 1 0 = 2) then ceilDiv width 2 else width

/-- Height of a plane of an image `h` pixels high (R388). -/
def planeH (w : Word) (p h : Nat) : Nat := if (p = 1 ∨ p = 2) ∧ fld w 1 0 = 2 then ceilDiv h 2 else h

/-- Pitch of a plane in packed planar layout (R388). -/
def planePitch (w : Word) (p width : Nat) : Nat := ceilDiv (planeW w p width * fmtE w) 64 * 64

/-- The offset of plane p from the base of a packed image: each plane begins at a 4 KiB boundary after the one before (R388). -/
def planeOfs (w : Word) (p width h : Nat) : Nat :=
  ((fmtPlanes w).filter (fun q => q < p)).foldl
    (fun a q => ceilDiv (a + planePitch w q width * planeH w q h) 4096 * 4096) 0

/-- The bytes of a packed image, to the end of its last plane (R388). -/
def imageLen (w : Word) (width h : Nat) : Nat :=
  let last := (fmtPlanes w).getLastD 0
  planeOfs w last width h + planePitch w last width * planeH w last h

/-- The offset of plane p's run in a segment (R391). -/
def segPlaneOfs (w : Word) (p width : Nat) : Nat :=
  ((fmtPlanes w).filter (fun q => q < p)).foldl (fun a q => a + planePitch w q width) 0

/-- The bytes of a segment (R391). -/
def segLen (w : Word) (width : Nat) : Nat := (fmtPlanes w).foldl (fun a q => a + planePitch w q width) 0

end Sys2Proof.Machine
end

