-- ==== Sys2Proof/Machine/Sync.lean ====
section
/-! DEFINITION. The fence words on frame pairs (R195 to R202, R239), the line store words EMIT, MARK and AWAIT (R205 to R209,
R237, R238), and the release of an egress pair. MUSTER stands with the fleet. -/

namespace Sys2Proof.Machine

/-! ### FTEST -/

/-- FTEST and FSIG: the pair number. -/
def decPair (opcode : Nat) (_ : State) (i : Issue) : Option Nat :=
  if headOk i opcode 0 ∧ zeros i.word [(91, 0)] ∧ i.ext = [] then some (fld i.word 95 92) else none

/-- Replay forces the recorded ingress repeats of this frame (R343). -/
def replayRpt (s : State) (n : Nat) : Option Bool :=
  match s.rcd.applied with
  | some r => if s.rf A.logRplyCtl 2 2 = 1 then some (bitOf r.rptMask n) else none
  | none => none

/-- An ingress repeat of pair n (R199): MISS, RPT on the following ticks of the frame, the record's RPT_MASK, and event 0x0220. -/
def ingressRepeat (port n : Nat) (s : State) : State :=
  let s1 := s.bump (A.rastPairCnt n) 15 0 1
  let s2 := { s1 with rast := { s1.rast with rpt := true }, rcd := { s1.rcd with rptMask := s1.rcd.rptMask ||| 2 ^ n } }
  s2.post [port] 0x0220 [s.vF, (1, n)]

/-- Event 0x0224 of a fence word on a disabled or wrong pair (R239). -/
def pairMisuse (port n : Nat) (s : State) : State := s.post [port] 0x0224 [s.vF, (1, n)]

/-- A fence test of an ingress pair (R198, R199, R343). -/
def fenceTest (n : Nat) (_ : Issue) (h : Held) (s : State) : State :=
  let port := h.port
  if !s.pairOn n || decide (s.rf (A.rastPairCtl n) 1 1 = 1) then pairMisuse port n s
  else
    let pending := decide (s.rf (A.rastPairStat n) 1 1 = 1)
    let forced := replayRpt s n
    if forced = some true then ingressRepeat port n s
    else if pending then
      let front := 1 - s.rf (A.rastPairStat n) 0 0
      s.setReg (A.rastPairStat n) (BitVec.ofNat 32 (front + smGet 0 s.rcd.pairDone n * 2 ^ 16))
    else
      let s1 := ingressRepeat port n s
      if forced = some false then s1.post s1.ports 0x0403 [s.vF, (1, n)] else s1

def wordFtest : Issue → State → State := issueWord (decPair 0x20) noCheck fenceTest

/-! ### FSIG -/

/-- A fence signal of an egress pair takes effect (R202, R239), 4 cycles after its issue. One that a passage issued from a decode fault of the frame on is
ignored (R193). -/
def fenceLand (ch n port pos : Nat) (s : State) : State :=
  if !s.pairOn n || decide (s.rf (A.rastPairCtl n) 1 1 = 0) then pairMisuse port n s
  else if s.mutedAt ch pos then s
  else if s.rf (A.rastPairStat n) 1 1 = 0 then
    (s.setReg (A.rastPairStat n) (BitVec.ofNat 32
      (1 - s.rf (A.rastPairStat n) 0 0 + 2 + s.rast.frame.toNat % 2 ^ 16 * 2 ^ 16))).post [port] 0x0223 [s.vF, (1, n)]
  else (s.bump (A.rastPairCnt n) 15 0 1).post [port] 0x0222 [s.vF, (1, n)]

/-- FSIG takes effect 4 cycles after its issue (R238). -/
def wordFsig : Issue → State → State := issueWord (decPair 0x21) noCheck (fun n i h s =>
  s.later (i.c.toNat + 4) 1 (.fence i.chan.val n h.port (s.posNow i.c.toNat)))

/-! ### Line occurrences -/

/-- The frame of the first occurrence of a line whose lead check falls at or after the issue cycle (R237). -/
def occFrame (s : State) (line c : Nat) : Frame :=
  let now := s.nowPos
  let ok (f : Nat) : Bool :=
    let chk := s.linePos f line - s.lead
    decide (now < chk ∨ (now = chk ∧ c = 0))
  let f0 := s.rast.frame.toNat
  BitVec.ofNat 48 (if ok f0 then f0 else if ok (f0 + 1) then f0 + 1 else f0 + 2)

/-- The line a line field names (R237). -/
def namedLine (s : State) (w : IWord) : Nat :=
  if fld w 68 68 = 0 then fld w 67 55
  else (((s.rast.line : Int) + sfld w 67 55) % (max 1 s.rast.linesTotal : Nat)).toNat

/-- The segments of a line occurrence that a spar holds. -/
def mySegs (s : State) (spar layer line : Nat) (f : Frame) : List Seg :=
  s.fab.segs.filter (fun g => g.spar = spar ∧ g.layer = layer ∧ g.line = line ∧ g.frame = f)

/-! ### AWAIT -/

def decLine (opcode : Nat) (_ : State) (i : Issue) : Option Nat :=
  if headOk i opcode 0 ∧ zeros i.word [(95, 72), (54, 0)] ∧ i.ext = [] then some (fld i.word 71 69) else none

/-- AWAIT tests whether the ranges of its spar's segments of the named line are spar-owned, and does not wait (R209). -/
def awaitLine (layer : Nat) (i : Issue) (h : Held) (s : State) : State :=
  let line := namedLine s i.word
  let mine := mySegs s i.spar.val layer line (occFrame s line i.c.toNat)
  let held := s.fab.segs.filter (fun g => g.spar = i.spar.val ∧ g.st ≠ .sparOwned ∧
    mine.any (fun m => decide (g.base < m.base + m.len ∧ m.base < g.base + g.len)))
  held.foldl (fun t g => t.ownerFault h.port i.c.toNat g) s

def wordAwait : Issue → State → State := issueWord (decLine 0x22) noCheck awaitLine

/-! ### EMIT -/

/-- The fields of EMIT (R236). -/
structure EmitF where
  addr : Nat
  layer : Nat
  x0 : Nat
  width : Nat
deriving DecidableEq, Repr

def decEmit (_ : State) (i : Issue) : Option EmitF :=
  let w := i.word
  if headOk i 0x30 0 ∧ zeros w [(26, 0)] ∧ fld w 40 27 ≠ 0 ∧ i.ext = [] then
    some ⟨fld w 95 72, fld w 71 69, fld w 54 41, fld w 40 27⟩
  else none

/-- The bytes of a segment in the plane format of its layer in force (R205, R391). -/
def emitLen (s : State) (f : EmitF) : Nat := segLen (s.reg (A.compLayerFmt f.layer)) f.width

/-- An EMIT whose address lies outside the bay declares no segment (R72). -/
def chkEmit (s : State) (i : Issue) (f : EmitF) : Option IssueFault :=
  if loftOk (effAddr s i.spar.val f.addr) (emitLen s f) then none else some .address

/-- EMIT declares one segment of a line of a layer, spar-owned (R205, R207). -/
def emitSeg (f : EmitF) (i : Issue) (_ : Held) (s : State) : State :=
  let line := namedLine s i.word
  let fr := occFrame s line i.c.toNat
  let g : Seg := { layer := f.layer, line := line, frame := fr, spar := i.spar.val,
                   base := effAddr s i.spar.val f.addr, len := emitLen s f, x0 := f.x0, width := f.width,
                   st := .sparOwned, ok := false, spoiled := (mySegs s i.spar.val f.layer line fr).any (fun h => h.spoiled) }
  { s with fab := { s.fab with segs := s.fab.segs ++ [g] } }

def wordEmit : Issue → State → State := issueWord decEmit chkEmit emitSeg

/-! ### MARK -/

/-- A mark of a line of frame `f` finds its layer on: EN is 1, and the owner does not change before (R425, R426). -/
def State.markable (s : State) (f : Frame) (layer : Nat) : Bool :=
  let w := s.regAt f (A.compLayerCtl layer)
  decide (fld w 0 0 = 1 ∧ fld w 5 4 = s.layerOwner layer)

/-- A mark takes effect, 4 cycles after its issue: every segment of the line that the spar holds is marked (R206). It is ignored after a decode fault of
the passage in the frame (R193), for a layer that is off (R426), for a line of this frame of a layer that an underrun switched off (R210), and where the
spar's mark was withdrawn (R208). -/
def markLand (ch spar layer line : Nat) (f : Frame) (pos : Nat) (s : State) : State :=
  if s.mutedAt ch pos ∨ !s.markable f layer ∨ s.layerOff layer f.toNat line then s
  else
    let mark (g : Seg) : Seg :=
      if g.spar = spar ∧ g.layer = layer ∧ g.line = line ∧ g.frame = f ∧ g.st = .sparOwned ∧ !g.spoiled then
        { g with st := .marked } else g
    { s with fab := { s.fab with segs := s.fab.segs.map mark } }

/-- MARK takes effect 4 cycles after its issue, which names the line (R237, R238). -/
def wordMark : Issue → State → State := issueWord (decLine 0x31) noCheck (fun layer i _ s =>
  let line := namedLine s i.word
  s.later (i.c.toNat + 4) 1 (.mark i.chan.val i.spar.val layer line (occFrame s line i.c.toNat) (s.posNow i.c.toNat)))

/-! ### EGRESS_RELEASE -/

/-- A write of REL by port p releases the front member of an enabled egress pair: PENDING clears. On an ingress pair or a disabled
pair it is ignored, as is a write from a port that may not write the pair (R195, R202, R638). -/
def egressRelease (p n : Nat) (s : State) : State :=
  if s.pairOn n ∧ s.rf (A.rastPairCtl n) 1 1 = 1 ∧ p = s.pairOwner n then s.setRf (A.rastPairStat n) 1 1 0 else s

def execEgressRelease (p : Fin 4) (n : Fin 16) (s : State) : Host.Outcome State Fault Refusal :=
  fromPort p s (s.hostPut p (A.rastPairCtl n) (s.reg (A.rastPairCtl n) ||| 0x10) (egressRelease p.val n.val))

end Sys2Proof.Machine
end

