-- ==== Sys2Proof/Machine/Control.lean ====
section
/-! DEFINITION. Static control: LOOP (R183, R230). BEND stands with the scalar words. -/

namespace Sys2Proof.Machine

/-- A reserved opcode: a decode fault (R193, R227). -/
def wordReserved : Issue → State → State :=
  issueWord (fun _ _ => (none : Option Unit)) noCheck (fun _ _ _ s => s)

/-- The binary words by opcode: what each makes of a pair of lanes (R160, R161). -/
def binOf (op : Nat) : VecF → Issue → Held → Nat → List (Nat × Nat) → Nat → State → State :=
  match op with
  | 0x50 => bfStage bfAdd
  | 0x51 => bfStage bfSub
  | 0x52 => bfStage bfMul
  | 0x53 => fmaStage
  | 0x54 => bfStage (bfMaxMin true)
  | 0x55 => bfStage (bfMaxMin false)
  | 0x56 => s16Stage (fun a b => a + b)
  | 0x57 => s16Stage (fun a b => a - b)
  | 0x58 => s16Stage (fun a b => a * b)
  | 0x59 => s16Stage (fun a b => max a b)
  | _ => s16Stage (fun a b => min a b)

/-- The issue of a main word by its OPCODE (R227), a LOOP apart. -/
def wordOf (i : Issue) (s : State) : State :=
  match opOf i.word with
  | 0x00 => wordBend i s
  | 0x10 => wordSli i s
  | 0x11 => wordSop i s
  | 0x12 => wordSmovb i s
  | 0x13 => wordAli i s
  | 0x14 => wordAinc i s
  | 0x15 => wordSget i s
  | 0x16 => wordGset i s
  | 0x20 => wordFtest i s
  | 0x21 => wordFsig i s
  | 0x22 => wordAwait i s
  | 0x23 => wordMuster i s
  | 0x30 => wordEmit i s
  | 0x31 => wordMark i s
  | 0x40 => wordMma i s
  | 0x41 => wordConv i s
  | 0x42 => wordTload i s
  | 0x43 => wordArland i s
  | 0x50 => wordBin 0x50 false i s
  | 0x51 => wordBin 0x51 false i s
  | 0x52 => wordBin 0x52 false i s
  | 0x53 => wordBin 0x53 true i s
  | 0x54 => wordBin 0x54 false i s
  | 0x55 => wordBin 0x55 false i s
  | 0x56 => wordBin 0x56 false i s
  | 0x57 => wordBin 0x57 false i s
  | 0x58 => wordBin 0x58 false i s
  | 0x59 => wordBin 0x59 false i s
  | 0x5A => wordBin 0x5A false i s
  | 0x5B => wordVcvt i s
  | 0x5C => wordVun i s
  | 0x5D => wordVred i s
  | 0x5E => wordVgen i s
  | 0x70 => wordResc i s
  | 0x71 => wordQuant i s
  | 0x72 => wordArsend i s
  | 0x80 => wordLdh i s
  | 0x81 => wordSth i s
  | 0x82 => wordRig i s
  | 0x83 => wordLsc i s
  | 0x84 => wordIdxr i s
  | 0x90 => wordPfirst i s
  | 0x91 => wordPlast i s
  | 0x92 => wordPshuf i s
  | 0x93 => wordPcrop i s
  | 0x94 => wordPargmax i s
  | _ => wordReserved i s

/-- One stage of a word in cycle `u`: the word is decoded as it was at its issue. -/
def stageWith {α : Type} (dec : State → Issue → Option α) (run : α → Issue → Held → Nat → List (Nat × Nat) → Nat → State → State)
    (i : Issue) (h : Held) (k : Nat) (acc : List (Nat × Nat)) (u : Nat) (s : State) : State :=
  match dec (s.held h) i with
  | some f => run f i h k acc u s
  | none => s

/-- A stage of a word by its OPCODE. -/
def stageOf (i : Issue) (h : Held) (k : Nat) (acc : List (Nat × Nat)) (u : Nat) (s : State) : State :=
  match opOf i.word with
  | 0x40 => stageWith (decTile false) (tileStage false) i h k acc u s
  | 0x41 => stageWith (decTile true) (tileStage true) i h k acc u s
  | 0x42 => stageWith decTload tloadStage i h k acc u s
  | 0x43 => stageWith (decReduce 0x43 1) arlandStage i h k acc u s
  | 0x5B => stageWith (decUn 0x5B 5) cvtStage i h k acc u s
  | 0x5C => stageWith (decUn 0x5C 7) vunStage i h k acc u s
  | 0x5D => stageWith decVred vredStage i h k acc u s
  | 0x5E => stageWith decVgen vgenStage i h k acc u s
  | 0x70 => stageWith decResc rescStage i h k acc u s
  | 0x71 => stageWith decQuant quantStage i h k acc u s
  | 0x72 => stageWith (decReduce 0x72 3) arsendStage i h k acc u s
  | 0x80 => stageWith (decMove 0x80) ldhStage i h k acc u s
  | 0x81 => stageWith (decMove 0x81) sthStage i h k acc u s
  | 0x82 => stageWith decRig rigStage i h k acc u s
  | 0x83 => stageWith (decMove 0x83) lscStage i h k acc u s
  | 0x84 => stageWith decIdxr idxrStage i h k acc u s
  | 0x90 => stageWith decPfirst pfirstStage i h k acc u s
  | 0x91 => stageWith decPlast plastStage i h k acc u s
  | 0x92 => stageWith decPshuf pshufStage i h k acc u s
  | 0x93 => stageWith decPcrop pcropStage i h k acc u s
  | 0x94 => stageWith decParg pargStage i h k acc u s
  | op => stageWith (decBin op) (binOf op) i h k acc u s

/-! ### LOOP -/

/-- LOOP: N, P and B not zero, bits [55:0] reserved, MASK 0; its body is the B words that follow it (R217, R230). -/
def decLoop (_ : State) (i : Issue) : Option Unit :=
  let w := i.word
  if headOk i 0x01 0 ∧ fld w 99 96 = 0 ∧ zeros w [(55, 0)] ∧ fld w 95 80 ≠ 0 ∧ fld w 79 64 ≠ 0 ∧ fld w 63 56 ≠ 0 ∧
      i.ext.length = fld w 63 56 then some ()
  else none

/-- Iteration `k` of a LOOP begins in cycle `u`: the words of its body that MASK does not exclude issue at their offsets from it, and the next iteration begins
P cycles later (R183, R230). An inner LOOP issues as a word of the body. -/
def loopIter (i : Issue) (k lead place u : Nat) (s : State) : State :=
  let n := i.spar.val
  let body := (topWords (i.ext.length + 1) 0 i.ext).filter (fun x => maskLets x.2.1 n lead)
  let s1 := body.foldl (fun (t : State) x =>
    t.later (u + offOf x.2.1) 2 (.issue { i with word := x.2.1, ext := x.2.2, ue := false } lead (place + 1 + x.1))) s
  if k + 1 < fld i.word 95 80 then s1.later (u + fld i.word 79 64) 2 (.again i (k + 1) lead place) else s1

/-- LOOP issues its body N times at period P. One that has a decode fault does not issue, and every word of its body still issues as compiled (R193): as
often as its N and P say, and once where N is 0 (DESIGN CHOICE, log 78). -/
def wordLoop (lead place : Nat) (i : Issue) (s : State) : State :=
  loopIter i 0 lead place i.c.toNat (issueWord decLoop noCheck (fun _ _ _ t => t) i s)

/-- A word that its spar has fetched issues. -/
def issueAt (lead place : Nat) (i : Issue) (s : State) : State :=
  if opOf i.word = opLoop then wordLoop lead place i s else wordOf i s

end Sys2Proof.Machine
end

