-- ==== Sys2Proof/Machine/Issue.lean ====
section
/-! DEFINITION. How the words of a bundle come about in time (R19, R22, R64, R88, R181, R182, R224, R238): work in flight, and the words as commands. -/

namespace Sys2Proof.Machine

/-! ### What is in flight -/

/-- What one piece of work does in cycle `u`. A word of a loop body does not issue once its spar has ended the bundle (R229). -/
def runWork (u : Nat) (w : Work) (s : State) : State :=
  match w with
  | .issue i lead place =>
    let n := i.spar.val
    let ch := i.chan.val
    if s.fab.ended.contains (n, ch) then s
    else issueAt lead place { i with c := BitVec.ofNat 16 u, ue := s.wordsUe ch n place (fetchedFor i.word i.ext) } s
  | .again i k lead place => if s.fab.ended.contains (i.spar.val, i.chan.val) then s else loopIter i k lead place u s
  | .stage i h k acc => stageOf i h k acc u s
  | .store h spar ws keep => s.storeNow h u spar ws keep
  | .land spar fg v ws keep => s.landNow spar fg v ws keep
  | .hbm ws => { s.hbmMerge 0 ws with hbm := s.hbm.write ws }
  | .setS spar n x => s.setS spar n x
  | .setB spar n x => s.setB spar n x
  | .setA spar n x => s.setA spar n x
  | .setGen spar x => s.setGen spar x
  | .addGen spar k => s.setGen spar (s.genIdx spar + BitVec.ofNat 40 k)
  | .setDescr spar compact slot anchor => s.setDescr spar compact slot anchor
  | .kstep x => kstepLand x s
  | .halves l => s.setHalves l
  | .mark ch spar layer line f pos => markLand ch spar layer line f pos s
  | .fence ch n port pos => fenceLand ch n port pos s
  | .bundleEnd ch => fitBundleEnd ch s

/-- Work comes before a place in time, or at it. -/
def Flight.by (x : Flight) (c phase : Nat) : Bool := decide (x.c < c ∨ (x.c = c ∧ x.phase ≤ phase))

/-- The first place in time of some work. -/
def firstOf : List Flight → Option (Nat × Nat)
  | [] => none
  | x :: t => match firstOf t with
    | some m => if x.by m.1 m.2 then some (x.c, x.phase) else some m
    | none => some (x.c, x.phase)

/-- Everything of one place in time comes about, in the order in which it was begun. -/
def runPlace (c phase : Nat) (s : State) : State :=
  let now := s.fab.flight.filter (fun x => decide (x.c = c ∧ x.phase = phase))
  let rest := s.fab.flight.filter (fun x => decide (¬(x.c = c ∧ x.phase = phase)))
  now.foldl (fun t x => runWork x.c x.work t) ({ s with fab := { s.fab with flight := rest } }.reachCycle c)

/-- Work in flight up to a place in time comes about, place after place. The first argument bounds the number of places. -/
def settle : Nat → Nat → Nat → State → State
  | 0, _, _, s => s
  | n + 1, c, phase, s =>
    match firstOf (s.fab.flight.filter (fun x => x.by c phase)) with
    | none => s
    | some m => settle n c phase (runPlace m.1 m.2 s)

/-- The part as it stands at a place in time of the line in progress. -/
def settleTo (c phase : Nat) (s : State) : State := (settle (2 ^ 40) c phase { s with wire := [] }).reachCycle c

/-- All work in flight comes about. -/
def settleAll (s : State) : State := settle (2 ^ 40) (2 ^ 64) 4 { s with wire := [] }

/-! ### Words as commands -/

/-- The command of a word: what comes about before its cycle does so, and it issues where its spar fetches it. -/
def commandAt (word : Nat → Nat → Issue → State → State) (i : Issue) (s : State) : State :=
  let t := settleTo i.c.toNat 2 s
  match fetchWord t i with
  | none => t
  | some x => word x.2.1 x.2.2 x.1 t

/-- The command of a word other than LOOP. -/
def commandWord (word : Issue → State → State) (i : Issue) (s : State) : Host.Outcome State Fault Refusal :=
  .next (commandAt (fun _ _ => word) i s)

def execBend (i : Issue) (s : State) : Host.Outcome State Fault Refusal := commandWord wordBend i s
def execSli (i : Issue) (s : State) : Host.Outcome State Fault Refusal := commandWord wordSli i s
def execSop (i : Issue) (s : State) : Host.Outcome State Fault Refusal := commandWord wordSop i s
def execSmovb (i : Issue) (s : State) : Host.Outcome State Fault Refusal := commandWord wordSmovb i s
def execAli (i : Issue) (s : State) : Host.Outcome State Fault Refusal := commandWord wordAli i s
def execAinc (i : Issue) (s : State) : Host.Outcome State Fault Refusal := commandWord wordAinc i s
def execSget (i : Issue) (s : State) : Host.Outcome State Fault Refusal := commandWord wordSget i s
def execGset (i : Issue) (s : State) : Host.Outcome State Fault Refusal := commandWord wordGset i s
def execFtest (i : Issue) (s : State) : Host.Outcome State Fault Refusal := commandWord wordFtest i s
def execFsig (i : Issue) (s : State) : Host.Outcome State Fault Refusal := commandWord wordFsig i s
def execAwait (i : Issue) (s : State) : Host.Outcome State Fault Refusal := commandWord wordAwait i s
def execMuster (i : Issue) (s : State) : Host.Outcome State Fault Refusal := commandWord wordMuster i s
def execEmit (i : Issue) (s : State) : Host.Outcome State Fault Refusal := commandWord wordEmit i s
def execMark (i : Issue) (s : State) : Host.Outcome State Fault Refusal := commandWord wordMark i s
def execMma (i : Issue) (s : State) : Host.Outcome State Fault Refusal := commandWord wordMma i s
def execConv (i : Issue) (s : State) : Host.Outcome State Fault Refusal := commandWord wordConv i s
def execTload (i : Issue) (s : State) : Host.Outcome State Fault Refusal := commandWord wordTload i s
def execArland (i : Issue) (s : State) : Host.Outcome State Fault Refusal := commandWord wordArland i s
def execLoop (i : Issue) (s : State) : Host.Outcome State Fault Refusal := .next (commandAt wordLoop i s)
def execVadd (i : Issue) (s : State) : Host.Outcome State Fault Refusal := commandWord (wordBin 0x50 false) i s
def execVsub (i : Issue) (s : State) : Host.Outcome State Fault Refusal := commandWord (wordBin 0x51 false) i s
def execVmul (i : Issue) (s : State) : Host.Outcome State Fault Refusal := commandWord (wordBin 0x52 false) i s
def execVfma (i : Issue) (s : State) : Host.Outcome State Fault Refusal := commandWord (wordBin 0x53 true) i s
def execVmax (i : Issue) (s : State) : Host.Outcome State Fault Refusal := commandWord (wordBin 0x54 false) i s
def execVmin (i : Issue) (s : State) : Host.Outcome State Fault Refusal := commandWord (wordBin 0x55 false) i s
def execViadd (i : Issue) (s : State) : Host.Outcome State Fault Refusal := commandWord (wordBin 0x56 false) i s
def execVisub (i : Issue) (s : State) : Host.Outcome State Fault Refusal := commandWord (wordBin 0x57 false) i s
def execVimul (i : Issue) (s : State) : Host.Outcome State Fault Refusal := commandWord (wordBin 0x58 false) i s
def execVimax (i : Issue) (s : State) : Host.Outcome State Fault Refusal := commandWord (wordBin 0x59 false) i s
def execVimin (i : Issue) (s : State) : Host.Outcome State Fault Refusal := commandWord (wordBin 0x5A false) i s
def execVcvt (i : Issue) (s : State) : Host.Outcome State Fault Refusal := commandWord wordVcvt i s
def execVun (i : Issue) (s : State) : Host.Outcome State Fault Refusal := commandWord wordVun i s
def execVred (i : Issue) (s : State) : Host.Outcome State Fault Refusal := commandWord wordVred i s
def execVgen (i : Issue) (s : State) : Host.Outcome State Fault Refusal := commandWord wordVgen i s
def execResc (i : Issue) (s : State) : Host.Outcome State Fault Refusal := commandWord wordResc i s
def execQuant (i : Issue) (s : State) : Host.Outcome State Fault Refusal := commandWord wordQuant i s
def execArsend (i : Issue) (s : State) : Host.Outcome State Fault Refusal := commandWord wordArsend i s
def execLdh (i : Issue) (s : State) : Host.Outcome State Fault Refusal := commandWord wordLdh i s
def execSth (i : Issue) (s : State) : Host.Outcome State Fault Refusal := commandWord wordSth i s
def execRig (i : Issue) (s : State) : Host.Outcome State Fault Refusal := commandWord wordRig i s
def execLsc (i : Issue) (s : State) : Host.Outcome State Fault Refusal := commandWord wordLsc i s
def execIdxr (i : Issue) (s : State) : Host.Outcome State Fault Refusal := commandWord wordIdxr i s
def execPfirst (i : Issue) (s : State) : Host.Outcome State Fault Refusal := commandWord wordPfirst i s
def execPlast (i : Issue) (s : State) : Host.Outcome State Fault Refusal := commandWord wordPlast i s
def execPshuf (i : Issue) (s : State) : Host.Outcome State Fault Refusal := commandWord wordPshuf i s
def execPcrop (i : Issue) (s : State) : Host.Outcome State Fault Refusal := commandWord wordPcrop i s
def execPargmax (i : Issue) (s : State) : Host.Outcome State Fault Refusal := commandWord wordPargmax i s

/-! ### Musters and frames of a fleet -/

/-- The line and cycle of the release of a muster of this frame that has been issued. -/
def releaseOf (id : Nat) (s : State) : Option (Nat × Nat) := (findGather s .muster id s.f16).bind Gather.rel

/-- Work in flight comes about, place after place, until a muster has been issued. The first argument bounds the number of places. -/
def settleMuster (id : Nat) : Nat → State → State
  | 0, s => s
  | n + 1, s =>
    if (releaseOf id s).isSome then s
    else match firstOf s.fab.flight with
      | none => s
      | some m => settleMuster id n (runPlace m.1 m.2 s)

/-- The part in the release cycle of a muster, which a LOOP in flight may still have to issue; as it stands where nothing issues the muster. -/
def atRelease (id : Nat) (s : State) : State :=
  let t := settleMuster id (2 ^ 40) { s with wire := [] }
  match releaseOf id t with
  | none => { s with wire := [] }
  | some (line, r) => if line = t.rast.line then (settle (2 ^ 40) r 1 t).reachCycle r else t

def execMusterRelease (id : BitVec 12) (s : State) : Host.Outcome State Fault Refusal := .next (musterRelease id.toNat (atRelease id.toNat s))

def execMusterFrame (p : Fin 6) (ru : BitVec 32) (x : Rx) (s : State) : Host.Outcome State Fault Refusal :=
  .next (receive p.val 0x10 x (onMuster p.val ru.toNat) (settleTo (ckOf s ru.toNat) 1 s))

def execReduceFrame (p : Fin 6) (ru : BitVec 32) (x : Rx) (s : State) : Host.Outcome State Fault Refusal :=
  .next (receive p.val 0x20 x (onReduce p.val ru.toNat) (settleTo (ckOf s ru.toNat) 1 s))

end Sys2Proof.Machine
end

