-- ==== Sys2Proof/Machine/Halyard.lean ====
section
/-! DEFINITION. The halyard (R19 to R27, R401, R407 to R409): the ticks, and the lead check of line stores (R45, R206, R410). -/

namespace Sys2Proof.Machine

/-! ### Ticks -/

/-- The sync that a line carries on a DP or eDP link (R380). -/
def lineSync (s : State) : Option LineSync :=
  let vs := s.rf A.rastModeV 12 0 + s.rf A.rastModeVs 12 0
  if s.composing ∧ s.linkLive ∧ s.rf A.rastOutCtl 2 1 ≠ 2 then
    some ⟨s.rf A.rastModeH 13 0 + s.rf A.rastModeHs 13 0, s.rf A.rastModeHs 25 16, decide (s.rf A.rastModeHs 30 30 = 1),
      decide (vs ≤ s.rast.line ∧ s.rast.line < vs + s.rf A.rastModeVs 23 16), decide (s.rf A.rastModeVs 30 30 = 1)⟩
  else none

/-- The ownership of line stores at C = 0 of the line in progress (R207): its own segments return to the spars, those scan-out has
read being kept for composition; a complete line whose turn is next passes to scan-out. The poison of the line before is looked for after that, so a line that enters Scan-out
in the cycle in which an underrun is detected is already in it, and returns at C = 0 of its own line (R210; DESIGN CHOICE, log 80). -/
def tickSegs (s : State) : State :=
  let now := s.nowPos
  let pos (g : Seg) : Int := s.linePos g.frame.toNat g.line
  let read := s.fab.segs.filter (fun g => g.ok ∧ g.st ≠ .sparOwned ∧ pos g = now)
  let left := s.fab.segs.filter (fun g => decide (now < pos g))
  let turn := left.map (fun g => if g.ok ∧ g.st = .marked ∧ pos g = now + 1 then { g with st := .scanOut } else g)
  let ended := s.fab.ended.filter (fun e => decide ((s.slot e.2).kind = .background))
  { s with fab := { s.fab with segs := turn, ended := ended }, out := { s.out with scanned := read, line := [], sync := lineSync s } }

/-- Lines fetched for lines that have passed are dropped. -/
def dropFetched (s : State) : State :=
  let now := s.nowPos
  { s with out := { s.out with
      fetched := s.out.fetched.filter (fun f => decide (now ≤ s.linePos f.frame.toNat f.line)),
      psn := s.out.psn.filter (fun f => decide (now ≤ s.linePos f.2.1 f.2.2)) } }

/-- The tick after a line of `len` cycles: the slack interval and the stack window of the line before close, but for those of a block interval in lines A to
A + 3, of which as much is left as lies ahead (R308). -/
def closeSlack (len : Nat) (s : State) : State :=
  let inBlock := decide (s.rast.linesActive ≤ s.rast.line ∧ s.rast.line < s.rast.linesActive + 4)
  let stays := s.slk.isOpen && s.slk.block && inBlock
  { s with slk := { s.slk with
      isOpen := stays
      fin := s.slk.fin - len
      left := if stays then min s.slk.left (s.slk.fin - len) else s.slk.left
      win := s.slk.win && s.slk.winBlock && inBlock } }

/-- Work in flight and the slack bundles under way as offsets from the next tick, `len` cycles later. A write that was issued before it is none of the
next line's signature, and marks and signals that a decode fault silences end with the frame (R193). -/
def shiftFlight (len : Nat) (s : State) : State :=
  let move (x : Flight) : Flight :=
    { x with c := x.c - len
             work := match x.work with
              | .land spar fg u ws keep => .land spar (fg && decide (len ≤ u)) (u - len) ws keep
              | w => w }
  let mute (x : Flight) : Bool := match x.work with
    | .mark ch _ _ _ _ pos => s.rast.due && s.mutedAt ch pos
    | .fence ch _ _ pos => s.rast.due && s.mutedAt ch pos
    | _ => false
  { s with
    fab := { s.fab with flight := (s.fab.flight.filter (fun x => !mute x)).map move, cyc := 0, fresh := [] }
    jobs := s.jobs.map (fun e => (e.1, if e.2.running then { e.2 with start := e.2.start - len } else e.2)) }

/-- The word of the tick of the line in progress (R21). -/
def tickWord (s : State) : BitVec 36 :=
  BitVec.ofNat 36 (s.rast.line % 2 ^ 13 + s.rast.frame.toNat % 2 ^ 16 * 2 ^ 13 + b2n (decide (s.rast.line = 0)) * 2 ^ 29 +
    b2n s.slackLine * 2 ^ 30 + s.rast.reef % 4 * 2 ^ 31 + b2n s.rast.rpt * 2 ^ 33)

/-- The halyard delivers the tick of the line in progress. -/
def deliver (s : State) : State := { s with rast := { s.rast with tick := tickWord s } }

/-- Event 0x0210 where a jump ends with the line in progress (R377). -/
def jumpEnd (s : State) : State :=
  if s.rast.sync.jump then
    let n := s.rast.line + 1 - s.rast.linesTotal
    ({ s with rast := { s.rast with sync := { s.rast.sync with jump := false } } }).post [s.owner] 0x0210 [s.vF, (4, n)]
  else s

/-- Whether the frame that ends reached EXT_MAX without an input frame start (R409). -/
def followMissed (s : State) (t : Nat) : Bool :=
  decide (s.adaptMode = 2) && !inputCame s t

/-- The cut line ends and no choice of the lead has come by it: the pair is lost (R349). -/
def lockCut (s : State) : State :=
  if s.rast.line = cutLine s ∧ lockFollower s ∧ s.fleet.lsReef = none ∧ !s.rast.due then lockLost 3 s else s

/-- At the cut line before an exit from PSR the main link starts to wake (R415). -/
def psrWake (s : State) : State :=
  if s.rast.line = cutLine s ∧ s.out.link = .off ∧ fld (s.dueReg A.rastSrCtl) 1 1 = 0 then { s with out := { s.out with link := .waking } } else s

/-- The line in progress has run its `len` cycles: what comes about by then has, its signatures are formed, and time has advanced (R337, R366, R450). -/
def lineEnd (s0 : State) : State :=
  let len := lineLen s0
  let s := settleTo len.1 0 s0
  let s1 := closeLine len.1 (psrWake (lockCut s))
  { s1 with
    tod := s1.tod.advance (len.1 * ruPerCk s.rast.reef)
    rast := { s1.rast with time := s.rast.time + BitVec.ofNat 64 (len.1 * ruPerCk s.rast.reef), sync := { s1.rast.sync with frac := len.2 } } }

/-- The end of the line in progress and the tick of the next one (R19, R20, R366). The tick that follows the last line of a frame is
the frame boundary's: until it comes the raster stands at the frame's end. -/
def halyardTick (s : State) : State :=
  if s.rast.due ∨ s.rast.paused ∨ s.halted then s else
  let len := (lineLen s).1
  let t := s.rast.time + BitVec.ofNat 64 (len * ruPerCk s.rast.reef)
  let s2 := lineEnd s
  if frameEnds s t.toNat then
    let s3 := { jumpEnd s2 with rast := { (jumpEnd s2).rast with due := true } }
    shiftFlight len { s3 with rast := { s3.rast with sync := { s3.rast.sync with followMiss := followMissed s t.toNat } } }
  else deliver <| closeSlack len <| dropFetched <| tickSegs <| shiftFlight len ({ s2 with rast := { s2.rast with line := s2.rast.line + 1 } })

def execHalyardTick (s : State) : Host.Outcome State Fault Refusal := .next (halyardTick s)

/-! ### The lead check -/

/-- The layer is an enabled line store layer, in the registers of a state. -/
def storeLayerOn (v : State) (l : Nat) : Bool :=
  let w := v.reg (A.compLayerCtl l)
  decide (fld w 0 0 = 1 ∧ fld w 1 1 = 1)

/-- The line occurrence whose lead check falls at C = 0 of the line in progress (R401); none in an extension line. -/
def checkedLine (s : State) : Option (Frame × Nat) :=
  let n := s.rast.line + s.lead
  if s.inExt then none
  else if n < s.rast.linesTotal then some (s.rast.frame, n)
  else some (s.rast.frame + 1, n - s.rast.linesTotal)

/-- The check of one layer's line (R45, R206, R410): complete where it has a segment and every segment is marked. -/
def checkLayer (v : State) (f : Frame) (n : Nat) (s : State) (l : Nat) : State :=
  if !storeLayerOn v l || s.layerOff l f.toNat n then s else
  let mine := s.fab.segs.filter (fun g => decide (g.layer = l ∧ g.frame = f ∧ g.line = n))
  if mine ≠ [] ∧ mine.all (fun g => decide (g.st = .marked)) then
    let turn := decide (s.linePos f.toNat n = s.nowPos + 1)
    { s with fab := { s.fab with segs := s.fab.segs.map (fun g =>
        if g.layer = l ∧ g.frame = f ∧ g.line = n then { g with ok := true, st := if turn then .scanOut else g.st } else g) } }
  else s.underrun l f.toNat n 0

/-- The lead check of line n of frame f, of which `v` is the state that it runs in. The first frame after a suspension leaves lines 0 to L_lead unchecked (R406), and a
frame that is not composed has no checks (R414). -/
def leadCheck (v : State) (f : Frame) (n : Nat) (s : State) : State :=
  if !v.composing ∨ v.rast.linesActive ≤ n ∨ (v.rast.resumedF = some f ∧ n ≤ s.lead) then s
  else (List.range 8).foldl (checkLayer v f n) s

end Sys2Proof.Machine
end

