-- ==== Sys2Proof/Machine/Slack.lean ====
section
/-! DEFINITION. Background work (R34 to R38): stack windows with refresh, repair, scrub and PHY calibration (R508 to R520), slack
intervals with loft scrub (R98, R521, R522), and the in-slack self-test (R107 to R109). -/

namespace Sys2Proof.Machine

/-! ### Windows and intervals (R308, R513) -/

/-- The lengths of `n` lines from the one in progress on. -/
def lensFrom : Nat → State → List Nat
  | 0, _ => []
  | n + 1, s =>
    let l := lineLen s
    l.1 :: lensFrom n { s with rast := { s.rast with line := s.rast.line + 1, sync := { s.rast.sync with frac := l.2 } } }

/-- The line in progress opens a block interval: line A − 1. -/
def opensBlock (s : State) : Bool := decide (s.rast.line + 1 = s.rast.linesActive)

/-- The line in progress lies inside a block interval that an earlier line opened. -/
def insideBlock (s : State) : Bool := decide (s.rast.linesActive ≤ s.rast.line ∧ s.rast.line < s.rast.linesActive + 4)

/-- The cycles of the slack interval that the line in progress opens (R308, R408). -/
def intervalLen (s : State) : Nat :=
  let p := (lineLen s).1
  let w := issueW s.rast.linePeriod s.rast.reef
  if opensBlock s then (lensFrom 5 s).foldl (fun a x => a + x) 0 - w else if s.inExt then p else p - w

/-- The stack window of the line in progress in ns: from 100 ns after its last foreground cycle to 40 ns after its end (R513); while the
part is paused, one nominal frame period (R515). -/
def windowLen (s : State) : Nat :=
  if s.rast.paused then s.rast.linesTotal * s.rast.tNum / max 1 s.rast.tDen
  else (intervalLen s + 1) * ruPerCk s.rast.reef / 24 - 60

/-! ### Refresh, repair and scrub -/

/-- The refresh commands of one window go to one group of 16 pseudo-channels, whose banks they hold for 60 ns (R514). -/
def refreshOnce (s : State) : State :=
  let g := s.slk.refGroup
  let pcs := (List.range 16).map (fun k => 16 * g + k)
  { s with slk := { s.slk with
      refGroup := (g + 1) % 4
      pcFree := smPutAll 0 s.slk.pcFree (pcs.map (fun c => (c, smGet 0 s.slk.pcFree c + 60)))
      bankFree := smPutAll 0 s.slk.bankFree (pcs.flatMap (fun c => (List.range 16).map (fun b =>
        (16 * c + b, smGet 0 s.slk.bankFree (16 * c + b) + 60)))) } }

/-- Refresh of one window. While the part is paused it keeps the interval of service: as many commands in a frame period as a frame has windows (R515). -/
def refresh (s : State) : State :=
  if s.rast.paused then (List.range (s.rast.linesTotal - 4)).foldl (fun t _ => refreshOnce t) s else refreshOnce s

/-- A codeword that scrub or repair read, written back: corrected, or with M = 1 (R518). -/
def scrubWrite (m : Mem) (cw : Nat) : Mem :=
  let r := m.read cw
  match r.kind with
  | .clean => m
  | .ue => m.writeCw cw r.data 1
  | _ => m.writeCw cw r.data r.marked

/-- Some codeword of a sector is uncorrectable. -/
def sectorUe (m : Mem) (x : Nat) : Bool := (List.range 8).any (fun i => decide ((m.read (8 * x + i)).kind = .ue))

/-- Some codeword of a sector is correctable. -/
def sectorCe (m : Mem) (x : Nat) : Bool :=
  (List.range 8).any (fun i => decide ((m.read (8 * x + i)).kind = .ce1 ∨ (m.read (8 * x + i)).kind = .ce2))

/-- The codewords of a sector written back by scrub or repair: correctable ones corrected, uncorrectable ones with M = 1 and their data as received (R518).
Where the sector has failed hard, what was uncorrectable is so again as it is re-read: the same bits fail (DESIGN CHOICE, log 65). -/
def writeBack (m : Mem) (x : Nat) (hard : Bool) : Mem :=
  (List.range 8).foldl (fun t i =>
    let cw := 8 * x + i
    let w := scrubWrite t cw
    if hard ∧ (m.read cw).kind = .ue then { w with flips := smPut 0 w.flips cw (smGet 0 m.flips cw) } else w) m

/-- A sector read by scrub or repair (R518, R520), written back, and read again where it was uncorrectable; the re-read is not counted (R526). `hard`: it is
then again uncorrectable; its row is recorded and event 0x0601 goes to every port. -/
def scrubSector (hard : List Nat) (s : State) (x : Nat) : State :=
  let bad := sectorUe s.hbm x && hard.contains x
  let s1 := { (List.range 8).foldl (fun t i => t.hbmReadCw 2 (8 * x + i)) s with hbm := writeBack s.hbm x bad }
  if bad then ({ s1 with hardRows := uniq (s1.hardRows ++ [x]) }).post s1.ports 0x0601 [s1.vF, (4, x)] else s1

/-- A scrub batch deferred whole (R37, R518). -/
def deferScrub (s : State) : State := s.bump A.hbmDefer 15 0 1

/-- The repair queue served before the scrub batch (R519), as one batch. -/
def repair (hard : List Nat) (s : State) : State :=
  if s.repairQ = [] then s else
  let w := s.slk.playAll s.repairQ
  if w.2 then s.repairQ.foldl (scrubSector hard) { s with slk := w.1, repairQ := [] } else deferScrub s

/-- The sectors of the next scrub batch (R515, R518). -/
def scrubBatch (s : State) : List Nat :=
  let rate := s.rf A.hbmScrubCtl 14 8
  let n := if s.rast.paused then (s.rast.linesTotal - 5 + 64) * rate else if opensBlock s then 64 * rate else rate
  (List.range n).map (fun i => (s.rf A.hbmScrubPos 28 0 + i) % stackSectors)

/-- Scrub of HBM (R518). -/
def scrub (hard : List Nat) (s : State) : State :=
  if s.rf A.hbmScrubCtl 0 0 = 0 then s else
  let l := scrubBatch s
  let w := s.slk.playAll l
  if w.2 then
    let s1 := l.foldl (scrubSector hard) { s with slk := w.1 }
    let next := s.rf A.hbmScrubPos 28 0 + l.length
    let s2 := s1.setReg A.hbmScrubPos (BitVec.ofNat 32 (next % stackSectors))
    if stackSectors ≤ next then s2.bump A.hbmScrubStat 15 0 1 else s2
  else deferScrub s

/-- One PHY calibration step in a block window, at most one per frame (R515, R516). -/
def calibrate (s : State) : State :=
  if s.slk.calDone ∨ !(s.slk.winBlock || s.rast.paused) then s
  else
    let busy := (s.slk.bankFree.map (fun e => e.2)).foldl max 0
    if busy + Config.calTime ≤ s.slk.winLen then
      { s with slk := { s.slk with calDone := true, winLen := s.slk.winLen - Config.calTime } }
    else s.bump A.hbmDefer 31 16 1

/-! ### Telemetry (R36 to R38, R339, R608) -/

/-- A telemetry job deferred (R37). -/
def deferTel (s : State) : State := { s with slk := { s.slk with deferTel := min (2 ^ 32 - 1) (s.slk.deferTel + 1) } }

/-- The frame records written, and the entries of the replay ring: SIZE × 128 of them. A reserved SIZE of 0 counts as 1 (DESIGN CHOICE, log 79). -/
def ringRecs (size : Nat) : Nat := max 1 size * 128

/-- The place in HBM of the next record of the ring (R339). -/
def recPlace (s : State) : Nat :=
  4096 * s.rf A.logRrecBase 22 0 + 32 * ((s.reg A.logRrecWptr).toNat % ringRecs (s.rf A.logRrecSize 22 0))

/-- The record that a slack line of the frame after it may write (R339): the oldest one, in lines A to A + 3 of that frame, or in any slack that
follows. -/
def recDue (s : State) : Option FrameRec :=
  match s.rcd.done with
  | r :: _ => if s.rast.linesActive ≤ s.rast.line ∨ r.frame + 1 ≠ s.rast.frame then some r else none
  | [] => none

/-- The base of the HBM event log (R509). -/
def hlogBase : Nat := 0x600000000

/-- Where the next entry of the black box goes in the HBM event log: its SEQ, and how many entries before it were overwritten (R608); none where every entry
has been copied. -/
def hlogNext (s : State) : Option (Nat × Nat) :=
  let w := (s.reg A.logHlogWptr).toNat
  let behind := (s.ev.seq + 2 ^ 32 - w) % 2 ^ 32
  if behind = 0 then none else some ((w + (behind - 4096)) % 2 ^ 32, behind - 4096)

/-- A telemetry job waits that completes within the open window: the kinds below it take what it leaves (R38). -/
def telemetryWaits (s : State) : Bool :=
  let fits (x : Nat) : Bool := (s.slk.playAll [x]).2
  (match recDue s with | some _ => fits (recPlace s / 64) | none => false) ||
    (match hlogNext s with | some x => fits (hlogBase / 64 + x.1 % 1048576) | none => false)

/-! ### BAR2 accesses (R513, R534, R535) -/

/-- The answer to a read of port p: bytes with their poison; none where it is answered with Unsupported Request. -/
def answer (p : Nat) (bs : List (Byte × Nat)) (s : State) : State :=
  { s with answer := smPut ([], false) s.answer p (bs.map (fun b => b.1), bs.any (fun b => decide (b.2 ≠ 0))) }

/-- The sectors that an access of a host occupies, by its byte addresses. -/
def Bar2Op.sectors (s : State) : Bar2Op → List Nat
  | .read a n => uniq ((List.range n).map (fun i => s.reach 0 true (a + i) / 64))
  | .write ws => uniq (ws.map (fun w => s.reach 0 true w.1 / 64))
  | .flush => []

/-- An access of port p takes effect (R196, R523, R534, R535). -/
def bar2Run (p : Nat) (op : Bar2Op) (s : State) : State :=
  match op with
  | .read a n => answer p ((List.range n).map (fun i => s.hbmByte true (a + i))) (s.hbmReads 3 true a n)
  | .write ws => ((s.hbmMerge 3 (ws.map (fun w => (s.reach 0 true w.1, w.2)))).hbmWrite true ws).setPreg p A.hostFlush (s.preg p A.hostFlush + 1)
  | .flush => answer p ((leBytes 4 (s.preg p A.hostFlush).toNat).map (fun b => (b, 0))) s

/-- The accesses that wait, in order, while they complete within the open window: those of a port behind one that does not complete wait with it. -/
def bar2Serve : List (Nat × Bar2Op) → State → State
  | [], s => s
  | (p, op) :: t, s =>
    let w := s.slk.playAll (op.sectors s)
    if s.bar2Q.any (fun e => decide (e.1 = p)) || !w.2 then bar2Serve t { s with bar2Q := s.bar2Q ++ [(p, op)] }
    else bar2Serve t (bar2Run p op { s with slk := w.1 })

/-- The MEM group is in reset: the stack is held in self-refresh, and what needs it waits (R566, R569). -/
def State.memStopped (s : State) : Bool := decide (s.rf A.sysDrst 4 4 = 1)

/-- BAR2 accesses are served in arrival order: in an open stack window, after the telemetry that waits for it (R38, R534); while the part is paused as they come
(R515). While the MEM group is in reset they wait (R571). -/
def serveBar2 (s : State) : State :=
  if s.memStopped then s
  else if s.rast.paused then s.bar2Q.foldl (fun t e => bar2Run e.1 e.2 t) { s with bar2Q := [] }
  else if s.slk.win ∧ !telemetryWaits s then bar2Serve s.bar2Q { s with bar2Q := [] }
  else s

/-- An access of port p arrives behind those that wait. -/
def bar2Take (p : Nat) (op : Bar2Op) (s : State) : State := serveBar2 { s with bar2Q := s.bar2Q ++ [(p, op)] }

/-- The accesses of a port that wait are gone with its link. -/
def bar2Drop (p : Nat) (s : State) : State := { s with bar2Q := s.bar2Q.filter (fun e => decide (e.1 ≠ p)) }

/-- The line in progress reaches its slack: everything before comes about (R34, R408). -/
def reachSlack (s : State) : State := settleTo (if s.inExt then 0 else issueW s.rast.linePeriod s.rast.reef) 1 s

/-- A stack window opens, and the background kinds of the stack run in order (R38, R513 to R520). `hard` are the sectors whose re-reads in
this window are again uncorrectable. While the MEM group is in reset there is none (R569). Inside a block interval the window that line A − 1 opened is still open. -/
def stackWindow (hard : List Nat) (s : State) : State :=
  if s.memStopped ∨ (!s.rast.paused ∧ insideBlock s) then s else
  let s1 := if s.rast.paused then s else reachSlack s
  let s2 := { s1 with slk := { s1.slk with
      win := true, winBlock := opensBlock s && !s.rast.paused, winLen := windowLen s, pcFree := [], bankFree := []
      calDone := !s.rast.paused && s1.slk.calDone } }
  serveBar2 (calibrate (scrub hard (repair hard (refresh s2))))

def execStackWindow (hard : List Nat) (s : State) : Host.Outcome State Fault Refusal := .next (stackWindow hard s)

/-! ### Slack intervals and loft scrub -/

/-- The general rows of a bay. -/
def generalRows (s : State) (n : Nat) : List Nat := (List.range 6).filter (fun r => decide (rowRole s n r = 0))

/-- The bay address of the k-th sector of the general rows. -/
def generalSector (s : State) (n k : Nat) : Nat :=
  ((generalRows s n)[k / 16384]?).getD 0 * 2 ^ 20 + k % 16384 * 64

/-- The spar below a bay fails (R109): it awaits retirement, and event 0x0301 goes to every port. -/
def sparFails (c : Nat) (s : State) (n : Nat) : State :=
  if s.fab.failed.contains n ∨ s.absent n then s
  else
    let s1 := { s with fab := { s.fab with failed := s.fab.failed ++ [n], badPhys := uniq (s.fab.badPhys ++ [s.phys n]) } }
    s1.postAt s1.ports 0x0301 c [(1, n), (1, s.phys n), s1.vF, (2, s1.rast.line), (2, c)]

/-- A failing bay (R522). Cause 1 threshold, 2 hard. -/
def bayFails (n cause : Nat) (s : State) : State :=
  if s.fab.failed.contains n then s
  else (sparFails (issueW s.rast.linePeriod s.rast.reef) s n).post s.ports 0x0603 [s.vF, (1, n), (1, cause)]

/-- One sector of a bay read by loft scrub (R518, R521, R522). `hard` are the bays whose re-reads are again uncorrectable. -/
def loftScrubSector (hard : List Nat) (n : Nat) (s : State) : State :=
  let rows := generalRows s n
  if rows = [] then s else
  let total := 16384 * rows.length
  let k := smGet 0 s.slk.loftPos n % total
  let x := bayKey n (generalSector s n k) / 64
  let m := s.fab.loft
  let bad := sectorUe m x && hard.contains n
  let s1 := ((List.range 8).foldl (fun t i => t.loftReadCw n (8 * x + i) true) s).setLoft (writeBack m x bad)
  let s2 := if bad then bayFails n 2 s1 else s1
  let ce := smGet 0 s2.slk.loftCe n + b2n (sectorCe m x)
  let th := s.rf A.loftScrubCtl 31 16
  let s3 := { s2 with slk := { s2.slk with loftCe := smPut 0 s2.slk.loftCe n ce } }
  let s4 := if th ≠ 0 ∧ th < ce then bayFails n 1 s3 else s3
  if k + 1 = total then
    { s4 with slk := { s4.slk with loftPos := smPut 0 s4.slk.loftPos n 0, loftCe := smPut 0 s4.slk.loftCe n 0,
                                   loftPass := smPut 0 s4.slk.loftPass n (smGet 0 s4.slk.loftPass n + 1) } }
  else { s4 with slk := { s4.slk with loftPos := smPut 0 s4.slk.loftPos n (k + 1) } }

/-- A pass that every active bay has completed counts (R527). -/
def loftPasses (s : State) : State :=
  if s.spars ≠ [] ∧ s.spars.all (fun n => decide (0 < smGet 0 s.slk.loftPass n)) then
    let t := s.bump A.loftScrubStat 15 0 1
    { t with slk := { t.slk with loftPass := s.spars.foldl (fun l n => smPut 0 l n (smGet 0 s.slk.loftPass n - 1)) t.slk.loftPass } }
  else s

/-- The loft scrub batch of a slack interval, in every active bay in parallel (R521). -/
def loftScrub (hard : List Nat) (s : State) : State :=
  if s.rf A.loftScrubCtl 0 0 = 0 then s else
  let n := if s.slk.block then 64 * s.rf A.loftScrubCtl 11 8 else s.rf A.loftScrubCtl 11 8
  if ceilDiv n 8 ≤ s.slk.left then
    let s1 := s.spars.foldl (fun t b => (List.range n).foldl (fun u _ => loftScrubSector hard b u) t) s
    loftPasses { s1 with slk := { s1.slk with left := s1.slk.left - ceilDiv n 8 } }
  else s.bump A.loftScrubStat 31 16 1

/-- A slack interval opens, and loft scrub runs in it (R36 to R38, R308, R521). What is left is offered to the kinds below by their own
commands. While the part is paused no line runs and there is none (R355). -/
def slackInterval (hard : List Nat) (s : State) : State :=
  if s.rast.paused ∨ insideBlock s then s else
  let s1 := reachSlack s
  let from' := if s.inExt then 0 else issueW s.rast.linePeriod s.rast.reef
  loftScrub hard { s1 with slk := { s1.slk with isOpen := true, block := opensBlock s, left := intervalLen s, fin := from' + intervalLen s } }

def execSlackInterval (hard : List Nat) (s : State) : Host.Outcome State Fault Refusal := .next (slackInterval hard s)

/-! ### Self-test -/

/-- A self-test step on every active spar (R107, R109): it takes 240 cycles of the open interval, or is deferred whole. `fails` are the
active spars whose signature differs, `c` the offset of the step. -/
def selfTestStep (fails : List (Fin 64)) (c : BitVec 16) (s : State) : State :=
  if s.slk.isOpen ∧ 240 ≤ s.slk.left ∧ !s.rast.paused then
    let s1 := { s with slk := { s.slk with left := s.slk.left - 240, selfStep := (s.slk.selfStep + 1) % 2048 } }
    fails.foldl (fun t n => sparFails c.toNat t n.val) s1
  else s

def execSelfTestStep (fails : List (Fin 64)) (c : BitVec 16) (s : State) : Host.Outcome State Fault Refusal :=
  .next (selfTestStep fails c s)

end Sys2Proof.Machine
end

