-- ==== Sys2Proof/Machine/Record.lean ====
section
/-! DEFINITION. Frame records and replay (R335 to R346), and the copying of the black box into the HBM event log (R607, R608). -/

namespace Sys2Proof.Machine

/-- Bytes the part itself writes to user HBM; what would lie above the user region is not written (R510).
A codeword that is written in part is merged, and its read recorded (R505, R519). -/
def State.userWrite (s : State) (a : Nat) (bs : List Byte) : State := s.putImage 5 0 userHbm a (bs.map (fun b => (b, 0)))

/-! ### Frame records -/

/-- The 32 bytes of a frame record (R336). -/
def frameRecBytes (r : FrameRec) : List Byte :=
  leBytes 6 r.frame.toNat ++ leBytes 1 r.flags ++ leBytes 1 r.src ++ leBytes 2 r.rptMask ++ leBytes 2 r.dropMask ++
    leBytes 1 r.fitLate ++ leBytes 1 r.evt ++ leBytes 2 0 ++ leBytes 4 r.cycles ++ leBytes 8 r.sig.toNat ++ leBytes 4 0

/-- The frame signature: the CRC-64 over the line signatures of every line, spars in order (R338). -/
def frameSig (s : State) : BitVec 64 :=
  (List.range s.rast.linesTotal).foldl (fun c l =>
    (List.range 64).foldl (fun c n => crc64 c (leBytes 8 (smGet 0 s.rcd.lineSigs (64 * l + n)).toNat)) c) 0

/-- The sync source in force, as the record's SRC: 5 in holdover (R336). -/
def recSrc (s : State) : Nat := if s.rf A.rastSyncStat 1 0 = 3 then 5 else s.rf A.rastSyncStat 6 4

/-- The record of the frame that ends (R336, R345). -/
def closeRecord (s : State) : FrameRec :=
  ⟨s.rast.frame, s.rcd.flags, s.rcd.src, s.rcd.rptMask, s.rcd.dropMask, s.rcd.fitLate, s.rcd.evt, s.rcd.cycles, frameSig s,
    match s.rcd.applied with
    | some r => if s.rf A.logRplyCtl 4 4 = 1 then some r.sig else none
    | none => none⟩

/-- The oldest finished record leaves the queue: written to the ring (R339), and its SIG compared where replay asks for it (R345). With EN = 0 in force at its write
it is dropped, and WPTR stands (DESIGN CHOICE, log 79). -/
def recordOut (r : FrameRec) (s : State) : State :=
  let s0 := { s with rcd := { s.rcd with done := s.rcd.done.drop 1 } }
  let s1 := if s.rf A.logRrecCtl 0 0 = 1 then
      (s0.userWrite (recPlace s) (frameRecBytes r)).setReg A.logRrecWptr (s.reg A.logRrecWptr + 1)
    else s0
  match r.expect with
  | some x => if x = r.sig then s1 else s1.post s1.ports 0x0404 [(6, r.frame.toNat)]
  | none => s1

/-- FRAME_RECORD_WRITE: a record is written as telemetry, where its sector completes within the open stack window (R37, R38, R339). -/
def frameRecordWrite (s : State) : State :=
  match recDue s with
  | some r => serveBar2 (s.stackJob [recPlace s / 64] (recordOut r) deferTel)
  | none => s

def execFrameRecordWrite (s : State) : Host.Outcome State Fault Refusal := .next (frameRecordWrite s)

/-! ### Replay -/

/-- A record read from the replay ring. One that is delivered poisoned counts as no record found in time (DESIGN CHOICE, log 79). -/
def readReplay (s : State) (a : Nat) : Option RplyRec :=
  let bs := s.hbm.fetchN a 32
  if bs.any (fun b => decide (b.2 ≠ 0)) then none
  else
    let v (o n : Nat) : Nat := fromLe ((bs.drop o).take n |>.map (fun b => b.1))
    some ⟨BitVec.ofNat 48 (v 0 6), v 6 1 % 4, v 8 2, v 12 1, BitVec.ofNat 64 (v 20 8)⟩

/-- The replay record of the next frame is fetched, at ring index RPTR, which counts from the frame in which EN takes effect (R340). -/
def replayFetch (s : State) : State :=
  if replayNext s then
    let n := if s.rf A.logRplyCtl 0 0 = 0 then 0 else (s.reg A.logRplyRptr).toNat
    let a := 4096 * fld (s.dueReg A.logRplyBase) 22 0 + 32 * n
    if n < ringRecs (fld (s.dueReg A.logRplySize) 22 0) then
      let t := s.hbmTake 5 a 32
      { t with rcd := { t.rcd with fetchedRec := readReplay s a } }
    else { s with rcd := { s.rcd with fetchedRec := none } }
  else s

def execReplayFetch (s : State) : Host.Outcome State Fault Refusal := .next (replayFetch s)

/-! ### The HBM event log -/

/-- The 64 bytes of a black-box entry (R607). -/
def logEntryBytes (e : LogEntry) : List Byte :=
  leBytes 4 e.seq ++ leBytes 2 e.code ++ leBytes 1 (b2n e.merged + 2 * b2n e.dropped) ++ leBytes 1 e.ports ++ leBytes 6 e.frame.toNat ++
    leBytes 2 e.line ++ leBytes 2 e.cyc ++ leBytes 2 e.boots ++ leBytes 4 e.ns ++ leBytes 6 e.sec ++ leBytes 2 0 ++
    (e.payload ++ List.replicate 16 0).take 16 ++ List.replicate 12 0 ++ leBytes 4 e.seq

/-- An entry is copied into the HBM event log (R608). -/
def hlogCopy (q gap : Nat) (s : State) : State :=
  let s1 := s.bump A.logHlogLost 15 0 gap
  let e := smGet LogEntry.blank s.ev.box (q % 4096)
  let ws := (logEntryBytes e).zipIdx.map (fun b => (hlogBase + 64 * (q % 1048576) + b.2, b.1, 0))
  ({ s1 with hbm := s1.hbm.write ws }).setReg A.logHlogWptr (BitVec.ofNat 32 (q + 1))

/-- BLACK_BOX_COPY: the next entry is copied as telemetry, where its sector completes within the open stack window (R37, R38, R608). -/
def blackBoxCopy (s : State) : State :=
  match hlogNext s with
  | some x => serveBar2 (s.stackJob [hlogBase / 64 + x.1 % 1048576] (hlogCopy x.1 x.2) deferTel)
  | none => s

def execBlackBoxCopy (s : State) : Host.Outcome State Fault Refusal := .next (blackBoxCopy s)

end Sys2Proof.Machine
end

