-- ==== Sys2Proof/Machine/Fit.lean ====
section
/-! DEFINITION. Fitting jobs (spec/07): steps, slack bundles, samples, publication of versions, checkpoints. -/

namespace Sys2Proof.Machine

/-! ### FIT_STEP_START -/

/-- A checkpoint is requested (CHAN_FITn_CTL.CKPT). -/
def State.ckptAsked (s : State) (n : Nat) : Bool := decide (s.rf (A.chanFitCtl n) 4 4 = 1)

/-- Step s of job n may start (R309, R310, R318, R322, R324): the image runs, EN is set, a sample is available, steps are left, no
checkpoint is waited for, and a checkpoint to restore has been loaded. -/
def fitMayStart (s : State) (n : Nat) : Bool :=
  match s.jobFit n with
  | none => false
  | some g =>
    let j := s.job n
    let step := s.fitStep n
    !j.inStep && !j.stopping && !s.rast.paused && decide (s.rf (A.chanFitCtl n) 0 0 = 1) &&
      decide (0 < signedDiff 32 (s.rf (A.chanFitAvail n) 31 0 : Nat) (step : Nat)) &&
      decide (g.steps = 0 ∨ step < g.steps) && !s.ckptAsked n &&
      (decide (s.rf (A.chanFitCtl n) 2 2 = 0) || j.restored)

/-- A step starts. -/
def fitStepStart (n : Nat) (s : State) : State :=
  match s.jobFit n with
  | none => s
  | some g =>
    if fitMayStart s n then s.setJob n { s.job n with inStep := true, running := false, next := g.nextFrom (s.fitStep n) 0 } else s

def execFitStepStart (n : Fin 8) (s : State) : Host.Outcome State Fault Refusal := .next (fitStepStart n.val s)

/-! ### FIT_BUNDLE -/

/-- Job n waits for the slack of its next bundle: an offer to it counts (R309, R311). A PUB bundle that waits for a swap is not
offered (R320). -/
def fitWaits (s : State) (n : Nat) : Bool :=
  match s.jobFit n with
  | none => false
  | some g =>
    let j := s.job n
    j.inStep && !j.running && decide (j.next < g.nbund) &&
      !(g.isPub j.next && decide (s.rf (A.chanFitPstat n) 1 1 = 1))

/-- The next bundle of job n fits the interval in progress: a reef of the image, the interval's class, and LEN within what is left
(R309, R311). -/
def fitFits (s : State) (n : Nat) : Bool :=
  match s.jobFit n with
  | none => false
  | some g => match (g.rows s.rast.reef)[(s.job n).next]? with
    | some b => bitOf g.reefMask s.rast.reef && decide (b.1 = s.slk.block) && decide (b.2.2 ≤ s.slk.left)
    | none => false

/-- An offer deferred: CHAN_FITn_DEFER, and event 0x0331 at the 65,536th in a row, once (R311). -/
def fitDefer (n : Nat) (s : State) : State :=
  let j := s.job n
  let s1 := (s.bump (A.chanFitDefer n) 31 0 1).setJob n { j with consec := j.consec + 1 }
  if j.consec + 1 = 65536 ∧ !j.starved then
    (s1.setJob n { s1.job n with starved := true }).post [s1.jobPort n] 0x0331 [(1, n), (1, j.next)]
  else s1

/-- The next bundle of job n starts on every spar of the job in the same cycle, the first that is offered (R309, R311); it completes after LEN cycles, and the
interval keeps what is left. -/
def fitBundleStart (ch n : Nat) (s : State) : State :=
  match s.jobFit n with
  | none => s
  | some g =>
    let len := match (g.rows s.rast.reef)[(s.job n).next]? with | some b => b.2.2 | none => 0
    let start := s.slk.fin - s.slk.left
    let s1 := s.setJob n { s.job n with running := true, start := (start : Int), len := len, consec := 0, starved := false }
    let s2 := { s1 with fab := { s1.fab with ended := s1.fab.ended.filter (fun e => decide (e.2 ≠ ch)) },
                        slk := { s1.slk with left := s1.slk.left - len, lastBg := ch } }
    s2.later (start + len) 0 (.bundleEnd ch)

/-- The background channels with a job that waits, in rotating order of slot after the one that last started (R311). -/
def bgOrder (s : State) : List (Nat × Nat) :=
  let all := s.slots.filterMap (fun e => match e.2.job with
    | some n => if e.2.kind = .background ∧ fitWaits s n then some (e.1, n) else none
    | none => none)
  all.filter (fun e => decide (s.slk.lastBg < e.1)) ++ all.filter (fun e => decide (e.1 ≤ s.slk.lastBg))

/-- The offers of the rest of the interval, until one starts. -/
def fitOffer : List (Nat × Nat) → State → State
  | [], s => s
  | (ch, n) :: t, s => if fitFits s n then fitBundleStart ch n s else fitOffer t (fitDefer n s)

/-! ### FIT_STEP_COMPLETE -/

/-- The verdict of step watch w (R305): a limit of 0 disables its test. -/
def fitVerdict (n step : Nat) (g : FitImage) (s : State) (w : Nat) : State :=
  let f := smGet (⟨0, 0, 0, 0⟩ : WatchFig) (s.job n).gather w
  let lim := (g.wlim[w]?).getD (0, 0)
  let sat := decide (lim.1 ≠ 0 ∧ lim.1 * f.n < f.sat * 65536)
  let ufz := decide (lim.2 ≠ 0 ∧ lim.2 * f.n < f.ufz * 65536)
  if f.n ≠ 0 ∧ (sat ∨ ufz) then
    s.post [s.jobPort n] 0x0330 [(1, n), (4, step), (1, w), (1, b2n sat + 2 * b2n ufz)]
  else s

/-- The last bundle of a step has completed (R304, R305, R309): the step counts, its watches are snapshot and gathering restarts. -/
def fitStepComplete (n : Nat) (s : State) : State :=
  match s.jobFit n with
  | none => s
  | some g =>
    let j := s.job n
    if j.inStep ∧ !j.running ∧ g.nbund ≤ j.next then
      let step := s.fitStep n
      let s1 := (List.range 8).foldl (fitVerdict n step g) s
      let j1 := s1.job n
      let s2 := (s1.setReg (A.chanFitStep n) (BitVec.ofNat 32 (step + 1))).setJob n
        { j1 with inStep := false, next := 0, snapOwn := j1.gatherOwn, gather := [], gatherOwn := [] }
      s2
    else s

/-- The running bundle of job n reaches its end. -/
def fitReachEnd (n : Nat) (s : State) : State :=
  let j := s.job n
  if j.running then settleTo (j.start + j.len).toNat 0 s else s

def execFitStepComplete (n : Fin 8) (s : State) : Host.Outcome State Fault Refusal := .next (fitStepComplete n.val (fitReachEnd n.val s))

/-! ### FIT_AVAIL and FIT_CKPT_REQUEST -/

/-- A write of AVAIL by port p (R310, R318, R638). -/
def fitAvail (p n : Nat) (v : Word) (s : State) : State :=
  if (s.jobSlot n).isSome ∧ p = s.jobPort n then s.setReg (A.chanFitAvail n) v else s

def execFitAvail (p : Fin 4) (n : Fin 8) (v : Word) (s : State) : Host.Outcome State Fault Refusal :=
  fromPort p s (s.hostPut p (A.chanFitAvail n) v (fitAvail p.val n.val v))

/-- A write of CKPT by port p: it takes effect at the next step boundary (R322). -/
def fitCkptRequest (p n : Nat) (s : State) : State :=
  if (s.jobSlot n).isSome ∧ p = s.jobPort n then s.setRf (A.chanFitCtl n) 4 4 1 else s

def execFitCkptRequest (p : Fin 4) (n : Fin 8) (s : State) : Host.Outcome State Fault Refusal :=
  fromPort p s (s.hostPut p (A.chanFitCtl n) (s.reg (A.chanFitCtl n) ||| 0x10) (fitCkptRequest p.val n.val))

/-! ### Checkpoints (R322 to R324) -/

/-- The 16 entries of LOFT_RANGES as the image lays them out (R172). -/
def rangeBytes (rs : List LoftRange) : List Byte :=
  (List.range 16).flatMap (fun i => match rs[i]? with
    | some r => leBytes 4 r.off ++ leBytes 4 (r.len + b2n r.shared * 2 ^ 31)
    | none => leBytes 8 0)

/-- The CRC-32C of the declaration (R323). -/
def declCrc (g : FitImage) : Nat :=
  (crc32c (leBytes 8 g.sparMask ++ leBytes 4 g.slotUse ++ leBytes 4 g.sUse ++ leBytes 1 g.aUse ++ rangeBytes g.ranges)).toNat

/-- The spars of the job that are present. -/
def jobSpars (s : State) (g : FitImage) : List Nat := (List.range 64).filter (fun n => bitOf g.sparMask n && !s.absent n)

/-- The declared registers of a spar: S, A and, with GEN, GEN_IDX. -/
def ckptRegs (s : State) (g : FitImage) (m : Nat) : List IByte :=
  ((List.range 32).filter (bitOf g.sUse)).flatMap (fun n => num 4 (s.sReg m n).toNat) ++
    ((List.range 8).filter (bitOf g.aUse)).flatMap (fun n => num 5 (s.aReg m n).toNat) ++
    (if g.gen then num 5 (s.genIdx m).toNat else [])

/-- The full slots of which the job declares a half. -/
def ckptSlots (g : FitImage) : List Nat := (List.range 16).filter (fun k => bitOf g.slotUse (2 * k) || bitOf g.slotUse (2 * k + 1))

/-- The descriptor record of a compact slot that the job declares; nothing of another. -/
def ckptDescr (s : State) (g : FitImage) (m h : Nat) : List IByte := if bitOf g.slotUse h then descrBytes s m h else num 4 0

/-- The crucible section of a spar: each declared slot's two descriptor records and its entries; a half that the job does not declare is zero (DESIGN CHOICE,
log 40). -/
def ckptCrucible (s : State) (g : FitImage) (m : Nat) : List IByte :=
  (ckptSlots g).flatMap (fun k => ckptDescr s g m (2 * k) ++ ckptDescr s g m (2 * k + 1) ++ slotBytes s g.slotUse m k)

/-- The declared ranges of the job that are not SHARED. -/
def ckptRanges (g : FitImage) : List LoftRange := g.ranges.filter (fun r => !r.shared && decide (r.len ≠ 0))

/-- Both members of the publication alias where it lies in the loft: in every active bay (R318, R323). -/
def ckptAlias (s : State) (n : Nat) : List (Nat × Nat × Nat) :=
  if s.rf (A.chanFitCtl n) 1 1 = 1 then
    s.spars.map (fun m => (m, 4096 * s.rf (A.chanFitPbase n) 22 0, 8192 * s.rf (A.chanFitPsize n) 22 0))
  else []

/-- The sections between the header and the trailer, each in the order of R323. -/
def ckptSections (s : State) (n : Nat) (g : FitImage) : List (List IByte) :=
  let sp := jobSpars s g
  [sp.flatMap (ckptRegs s g),
   sp.flatMap (fun m => (List.range 8).flatMap (fun w => num 2 (smGet 0 (s.job n).snapOwn (8 * m + w)).toNat)),
   sp.flatMap (ckptCrucible s g),
   sp.flatMap (fun m => (ckptRanges g).flatMap (fun r => bayBytes s m r.off r.len)),
   (ckptAlias s n).flatMap (fun a => bayBytes s a.1 a.2.1 a.2.2)]

/-- The 64-byte header, its items in the order of R323. -/
def ckptHeader (s : State) (n : Nat) (g : FitImage) (lens : List Nat) : List IByte :=
  num 2 0x9160 ++ num 1 0x81 ++ num 1 0 ++ num 4 (s.fitStep n) ++ num 4 (s.job n).nextVer ++ num 4 (s.rf (A.chanFitPstat n) 1 0) ++
    num 4 (declCrc g) ++ lens.flatMap (num 8) ++ num 4 0

/-- The whole checkpoint. -/
def ckptImage (s : State) (n : Nat) (g : FitImage) : List IByte :=
  let secs := ckptSections s n g
  let body := ckptHeader s n g (secs.map (fun l => l.length)) ++ secs.flatten
  body ++ num 4 (crc32c (plain body)).toNat ++ num 4 0

/-- The base of the partition of job n's port, and the end of what it reaches (R538). -/
def jobPart (s : State) (n : Nat) : Nat × Nat :=
  let p := s.jobPort n
  let b := 4096 * s.rf (A.hostPartBase p) 22 0
  (b, min userHbm (b + 4096 * s.rf (A.hostPartSize p) 22 0))

/-- The checkpoint is written at CKBASE in a block interval: CKPT clears and event 0x0334 (R322). Its port reaches its own partition alone (R538), and each entry read
with a parity mismatch counts (R84). -/
def fitCkptDone (n : Nat) (s : State) : State :=
  match s.jobFit n with
  | none => s
  | some g =>
    if s.ckptAsked n ∧ !(s.job n).inStep ∧ s.slk.isOpen ∧ s.slk.block then
      let s1 := s.putImage 4 (jobPart s n).1 (jobPart s n).2 (4096 * s.rf (A.chanFitCkbase n) 22 0) (ckptImage s n g)
      let s2 := (jobSpars s g).foldl (fun t m =>
        t.bump (A.sparCrucPerr m) 31 0 ((ckptSlots g).foldl (fun a k => a + slotPerr s g.slotUse m k) 0)) s1
      (s2.setRf (A.chanFitCtl n) 4 4 0).post [s.jobPort n] 0x0334 [(1, n), (4, s.fitStep n)]
    else s

def execFitCkptDone (n : Fin 8) (s : State) : Host.Outcome State Fault Refusal := .next (fitCkptDone n.val s)

/-- The registers of a spar read back; the answer is the address after them. -/
def readCkptRegs (g : FitImage) (m a : Nat) (s : State) : State × Nat :=
  let s1 := ((List.range 32).filter (bitOf g.sUse)).foldl (fun (acc : State × Nat) n =>
    (acc.1.setS m n (BitVec.ofNat 32 (s.imgNum acc.2 4)), acc.2 + 4)) (s, a)
  let s2 := ((List.range 8).filter (bitOf g.aUse)).foldl (fun (acc : State × Nat) n =>
    (acc.1.setA m n (BitVec.ofNat 40 (s.imgNum acc.2 5)), acc.2 + 5)) s1
  if g.gen then (s2.1.setGen m (BitVec.ofNat 40 (s.imgNum s2.2 5)), s2.2 + 5) else s2

/-- The crucible slots of a spar read back: the halves that the job declares. -/
def readCkptCrucible (g : FitImage) (m a : Nat) (s : State) : State × Nat :=
  let descr (t : State) (b h : Nat) : State := if bitOf g.slotUse h then readDescr t b m h else t
  (ckptSlots g).foldl (fun (acc : State × Nat) k =>
    let t := descr (descr acc.1 acc.2 (2 * k)) (acc.2 + 4) (2 * k + 1)
    (readSlot t g.slotUse (acc.2 + 8) m k, acc.2 + 8 + 65536)) (s, a)

/-- Ranges of bays (spar, offset, length) read back. -/
def readBays (rs : List (Nat × Nat × Nat)) (a : Nat) (s : State) : State × Nat :=
  rs.foldl (fun (acc : State × Nat) r => (readBay acc.1 acc.2 r.1 r.2.1 r.2.2, acc.2 + r.2.2)) (s, a)

/-- The length of a checkpoint of job n up to its trailer: the declaration of the image fixes the lengths of its sections. -/
def ckptLen (s : State) (n : Nat) (g : FitImage) : Nat :=
  let spar := 4 * popCount 32 g.sUse + 5 * popCount 8 g.aUse + (if g.gen then 5 else 0) + 16 + (8 + 65536) * (ckptSlots g).length +
    (ckptRanges g).foldl (fun t r => t + r.len) 0
  64 + (jobSpars s g).length * spar + (ckptAlias s n).foldl (fun t x => t + x.2.2) 0

/-- The checkpoint at `a` has the declaration of the image and a good trailer (R324); what does not lie in the port's partition has none (R538). -/
def ckptGood (s : State) (n a : Nat) (g : FitImage) : Bool :=
  let total := ckptLen s n g
  inPart s (s.jobPort n) a (total + 8) && decide (s.imgNum (a + 16) 4 = declCrc g) &&
    decide (s.imgNum (a + total) 4 = (crc32c (s.imgBytes a total)).toNat)

/-- The contents of a good checkpoint loaded (R324). -/
def ckptLoad (n a : Nat) (g : FitImage) (s : State) : State :=
  let sp := jobSpars s g
  let r1 := sp.foldl (fun (acc : State × Nat) m => readCkptRegs g m acc.2 acc.1) (s, a + 64)
  let snap := sp.zipIdx.foldl (fun (l : List (Nat × BitVec 16)) e =>
    (List.range 8).foldl (fun l w => smPut 0 l (8 * e.1 + w) (BitVec.ofNat 16 (s.imgNum (r1.2 + 16 * e.2 + 2 * w) 2))) l) []
  let r2 := sp.foldl (fun (acc : State × Nat) m => readCkptCrucible g m acc.2 acc.1) (r1.1, r1.2 + 16 * sp.length)
  let r3 := readBays (sp.flatMap (fun m => (ckptRanges g).map (fun r => (m, r.off, r.len)))) r2.2 r2.1
  let r4 := readBays (ckptAlias s n) r3.2 r3.1
  let t := r4.1
  let ver := s.imgNum (a + 8) 4
  let front := s.imgNum (a + 12) 4 % 4
  ((t.setReg (A.chanFitStep n) (BitVec.ofNat 32 (s.imgNum (a + 4) 4))).setReg (A.chanFitPstat n)
    (BitVec.ofNat 32 (front + (ver - front / 2) % 65536 * 65536))).setJob n
    { t.job n with restored := true, nextVer := ver, snapOwn := snap }

/-- With RESTORE set, the checkpoint at CKBASE is loaded in slack before step 0, or refused with event 0x0335 (R324). -/
def fitCkptRestore (n : Nat) (s : State) : State :=
  match s.jobFit n with
  | none => s
  | some g =>
    let j := s.job n
    if s.rf (A.chanFitCtl n) 2 2 = 1 ∧ !j.restored ∧ !j.inStep ∧ s.fitStep n = 0 ∧ s.slk.isOpen then
      let a := 4096 * s.rf (A.chanFitCkbase n) 22 0
      let s1 := s.hbmTake 4 a (ckptLen s n g + 8)
      if ckptGood s n a g then ckptLoad n a g s1 else s1.post [s.jobPort n] 0x0335 [(1, n)]
    else s

def execFitCkptRestore (n : Fin 8) (s : State) : Host.Outcome State Fault Refusal := .next (fitCkptRestore n.val s)

/-! ### Publication at frame boundaries (R321) -/

/-- The frame in which version v of job n is due. -/
def fitDue (s : State) (n v : Nat) : Frame :=
  BitVec.ofNat 48 ((s.rf (A.chanFitF0Lo n) 31 0 + s.rf (A.chanFitF0Hi n) 15 0 * 2 ^ 32) + v * (s.rf (A.chanFitPeriod n) 15 0 + 1))

/-- Replay forces a recorded late publication of this frame (R344). -/
def replayLate (s : State) (n : Nat) : Option Bool :=
  match s.rcd.applied with
  | some r => if s.rf A.logRplyCtl 3 3 = 1 then some (bitOf r.fitLate n) else none
  | none => none

/-- A due version that is not complete, or that replay holds back: an ingress repeat (R321, R344). -/
def fitLatePub (n v : Nat) (s : State) : State :=
  let s1 := s.setRf (A.chanFitPstat n) 2 2 1
  let s2 := { s1 with rast := { s1.rast with rpt := true }, rcd := { s1.rcd with fitLate := s1.rcd.fitLate ||| 2 ^ n } }
  let s3 := s2.post [s2.jobPort n] 0x0333 [(1, n), (4, v), s2.vF]
  if replayLate s n = some false then s3.post s3.ports 0x0403 [s3.vF, (1, 0x10 + n)] else s3

/-- The publication of job n at (F, 0, 0), F compared by magnitude (R360): a due version swaps, or is late (R321). The version waited for is the front one plus one.
EN does not come into it. An image without a PUB bundle has no version that could be due: nothing happens (DESIGN CHOICE, log 76). -/
def fitPubBoundary (s : State) (n : Nat) : State :=
  let st := s.reg (A.chanFitPstat n)
  let pend := decide (fld st 1 1 = 1)
  let v := if pend then (s.job n).nextVer - 1 else (s.job n).nextVer
  match s.jobFit n with
  | none => s
  | some g =>
    if !((List.range g.nbund).any g.isPub) ∨ s.rast.frame < fitDue s n v then s
    else if pend ∧ replayLate s n ≠ some true then
      s.setReg (A.chanFitPstat n) (BitVec.ofNat 32 (1 - fld st 0 0 + (v + 1) % 65536 * 65536))
    else fitLatePub n v s

end Sys2Proof.Machine
end

