-- ==== Sys2Proof/Machine/Compose.lean ====
section
/-! DEFINITION. Composition (spec/10): the fetch of memory-plane layers, the composed pixel of a line, output conversion,
signatures, the freeze detector and the rectangle CRC. -/

namespace Sys2Proof.Machine

/-! ### Samples -/

/-- A sample normalised to 16 bits (R389). -/
def normSample (bits s : Nat) : Nat := s * 2 ^ (16 - bits) + s / 2 ^ (2 * bits - 16)

/-- The normalised sample of a container's bytes (R389). -/
def readSample (w : Word) (bs : List Byte) : Nat :=
  let bits := fmtBits w
  let v := fromLe bs
  let s := if fmtE w = 2 ∧ fld w 5 5 = 0 then v / 2 ^ (16 - bits) else v % 2 ^ bits
  normSample bits s

/-- The taps of a subsampled chroma position: (index, weight), weights summing to 4. Siting 0 co-sited, 1 midway, 2 bottom (R390). -/
def chromaTaps (siting pos : Nat) : List (Int × Nat) :=
  let k : Int := (pos / 2 : Nat)
  let odd := pos % 2 = 1
  match siting with
  | 0 => if odd then [(k, 2), (k + 1, 2)] else [(k, 4)]
  | 1 => if odd then [(k, 3), (k + 1, 1)] else [(k - 1, 1), (k, 3)]
  | _ => if odd then [(k, 4)] else [(k - 1, 2), (k, 2)]

/-- An index clamped to 0 .. n − 1. -/
def clampIdx (i : Int) (n : Nat) : Nat := (max 0 (min i ((n : Int) - 1))).toNat

/-- The taps of plane p at luma position x, in columns of the plane `wp` wide: one tap of weight 4 where it is not subsampled. -/
def colTaps (w : Word) (p x wp : Nat) : List (Nat × Nat) :=
  if (p = 1 ∨ p = 2) ∧ (fld w 1 0 = 1 ∨ fld w 1 0 = 2) then
    (chromaTaps (fld w 6 6) x).map (fun t => (clampIdx t.1 wp, t.2))
  else [(clampIdx x wp, 4)]

/-- The taps of plane p at luma row y, in rows of the plane `hp` high. -/
def rowTaps (w : Word) (p y hp : Nat) : List (Nat × Nat) :=
  if (p = 1 ∨ p = 2) ∧ fld w 1 0 = 2 then (chromaTaps (fld w 8 7) y).map (fun t => (clampIdx t.1 hp, t.2))
  else [(clampIdx y hp, 4)]

/-- The sum of products of an optional list: none where any is none. -/
def sumTaps : List (Option Nat × Nat) → Option Nat
  | [] => some 0
  | (v, k) :: t => match v, sumTaps t with | some a, some b => some (a * k + b) | _, _ => none

/-- The value of plane p at luma position (x, y), from a sampler (plane, column, row) (R389, R390); absent planes read as mid-scale
chroma or full alpha. -/
def planeValue (w : Word) (smp : Nat → Nat → Nat → Option Nat) (width h p x y : Nat) : Option Nat :=
  if (p = 1 ∨ p = 2) ∧ fld w 1 0 = 3 then some (normSample (fmtBits w) (2 ^ (fmtBits w - 1)))
  else if p = 3 ∧ fld w 9 9 = 0 then some 65535
  else
    let taps := (rowTaps w p y (planeH w p h)).flatMap (fun r =>
      (colTaps w p x (planeW w p width)).map (fun c => (smp p c.1 r.1, c.2 * r.2)))
    (sumTaps taps).map (fun v => (rneDiv (v : Int) 16).toNat)

/-! ### Scaling (R431) -/

/-- An s16 coefficient of the scaler tables of a video layer (R432). -/
def coef (s : State) (layer ofs : Nat) : Int :=
  toSigned 16 ((s.reg (A.scaler layer (ofs / 4 * 4))).toNat / 2 ^ (8 * (ofs % 4)) % 65536)

/-- The source index and phase of a destination position. -/
def scalePos (src dst x : Nat) : Int × Nat :=
  let step : Nat := src * 65536 / max 1 dst
  let p : Int := (((2 * x + 1) * step / 2 : Nat) : Int) - 32768
  (p / 65536, (p / 1024 % 64).toNat)

/-- An FIR of taps: rounded, divided by 16,384 and clamped to 16 bits. -/
def firTaps (l : List (Option Nat × Int)) : Option Nat :=
  let go := l.foldl (fun (acc : Option Int) t => match acc, t.1 with
    | some a, some v => some (a + t.2 * v)
    | _, _ => none) (some 0)
  go.map (fun a => (max 0 (min (rneDiv a 16384) 65535)).toNat)

/-- The source columns that the horizontal taps of a destination column reach. -/
def hCols (sw dw x : Nat) : List Nat :=
  if dw = sw then [x] else (List.range 8).map (fun (t : Nat) => clampIdx ((scalePos sw dw x).1 - 3 + (t : Int)) sw)

/-- The source rows that the vertical taps of a destination row reach. -/
def vRows (sh dh y : Nat) : List Nat :=
  if dh = sh then [y] else (List.range 4).map (fun (t : Nat) => clampIdx ((scalePos sh dh y).1 - 1 + (t : Int)) sh)

/-- The horizontal pass at a source row. -/
def hPass (s : State) (layer sw dw x : Nat) (v : Nat → Option Nat) : Option Nat :=
  if dw = sw then v x else
    let ph := (scalePos sw dw x).2
    firTaps ((hCols sw dw x).zipIdx.map (fun c => (v c.1, coef s layer (16 * ph + 2 * c.2))))

/-- The vertical pass over horizontally filtered rows. -/
def vPass (s : State) (layer sh dh y : Nat) (h : Nat → Option Nat) : Option Nat :=
  if dh = sh then h y else
    let ph := (scalePos sh dh y).2
    firTaps ((vRows sh dh y).zipIdx.map (fun r => (h r.1, coef s layer (0x400 + 8 * ph + 2 * r.2))))

/-! ### Conversion to RGB (R430) -/

/-- kRCr, kGCb, kGCr, kBCb of a matrix. -/
def rgbCoef (mtx : Nat) : Int × Int × Int × Int :=
  if mtx = 0 then (25802, 3069, 7670, 30402) else (24160, 2696, 9361, 30825)

/-- A composition value: rounded once and clamped to 16 bits. -/
def compVal (num : Int) (den : Nat) : Nat := (max 0 (min (rneDiv num den) 65535)).toNat

/-- The composition RGB of three plane values. -/
def toRgb (w : Word) (v0 v1 v2 : Nat) : Nat × Nat × Nat :=
  let full := fld w 15 15 = 1
  if fld w 10 10 = 1 then
    let one (v : Nat) : Nat := if full then v else compVal (((v : Int) - 4096) * 65535) 56064
    (one v2, one v0, one v1)
  else
    let k := rgbCoef (fld w 12 11)
    -- numerators over the denominator 16384 · dy · dc
    let dy : Nat := if full then 1 else 56064
    let dc : Nat := if full then 1 else 57344
    let sc : Int := if full then 1 else 65535
    let y : Int := ((if full then (v0 : Int) else (v0 : Int) - 4096) * sc) * 16384 * dc
    let cb : Int := ((v1 : Int) - 32768) * sc * dy
    let cr : Int := ((v2 : Int) - 32768) * sc * dy
    let den := 16384 * dy * dc
    (compVal (y + k.1 * cr) den, compVal (y - k.2.1 * cb - k.2.2.1 * cr) den, compVal (y + k.2.2.2 * cb) den)

/-! ### Memory-plane layers -/

/-- A memory-plane layer's placement (R422, R427). -/
structure Place where
  fmt : Word
  base : Nat
  sw : Nat
  sh : Nat
  dx : Nat
  dy : Nat
  dw : Nat
  dh : Nat
deriving DecidableEq, Repr

def placeOf (s : State) (l : Nat) : Place :=
  let sz := s.reg (A.compLayerSrcSz l)
  let dp := s.reg (A.compLayerDstPos l)
  let ds := s.reg (A.compLayerDstSz l)
  ⟨s.reg (A.compLayerFmt l), fld (s.reg (A.compLayerBase l)) 22 0 * 4096, fld sz 13 0, fld sz 28 16,
    fld dp 13 0, fld dp 28 16, fld ds 13 0, fld ds 28 16⟩

/-- The layer is an enabled memory-plane layer, not off at line `n` of frame `f`. -/
def memLayerOn (s : State) (f : Frame) (l n : Nat) : Bool :=
  let w := s.reg (A.compLayerCtl l)
  decide (fld w 0 0 = 1 ∧ fld w 1 1 = 0) && !s.layerOff l f.toNat n

/-- The active size of the mode in force. -/
def State.hact (s : State) : Nat := s.rf A.rastModeH 13 0

/-- HBM sectors of plane p's row r of an image, and the sector that column c lies in. -/
def planeSector (pl : Place) (p r c : Nat) : Nat :=
  (pl.base + planeOfs pl.fmt p pl.sw pl.sh + r * planePitch pl.fmt p pl.sw + c * fmtE pl.fmt) / 64

/-- The rows of plane p that destination row y needs. -/
def planeRows (pl : Place) (p y : Nat) : List Nat :=
  uniq ((vRows pl.sh pl.dh y).flatMap (fun r => (rowTaps pl.fmt p r (planeH pl.fmt p pl.sh)).map (fun t => t.1)))

/-- The sectors of the fetch of destination row y (R428). -/
def fetchSectors (pl : Place) (y : Nat) : List Nat :=
  (fmtPlanes pl.fmt).flatMap (fun p => (planeRows pl p y).flatMap (fun r =>
    (List.range (planePitch pl.fmt p pl.sw / 64)).map (fun j => planeSector pl p r 0 + j)))

/-- The stack position of a layer (R433, R434). -/
def zPos (s : State) (l : Nat) : Nat := ((List.range 8).find? (fun p => (s.reg A.compZorder).toNat / 8 ^ p % 8 = l)).getD l

/-- Column x of line n lies in an occluding rectangle above a layer (R439). -/
def occluded (s : State) (f : Frame) (l n x : Nat) : Bool :=
  (List.range 8).any (fun o => decide (zPos s l < zPos s o) && memLayerOn s f o n &&
    decide (fld (s.reg (A.compLayerCtl o)) 3 2 = 0) &&
    (let q := placeOf s o
     decide (q.dx ≤ x ∧ x < q.dx + q.dw ∧ q.dy ≤ n ∧ n < q.dy + q.dh)))

/-- The sectors of row y that some visible destination column of line n reaches (R439). -/
def seenSectors (s : State) (f : Frame) (l n : Nat) (pl : Place) : List Nat :=
  let cols := (List.range pl.dw).filter (fun x => decide (pl.dx + x < s.hact) && !occluded s f l n (pl.dx + x))
  uniq (cols.flatMap (fun x => (hCols pl.sw pl.dw x).flatMap (fun c => (fmtPlanes pl.fmt).flatMap (fun p =>
    (planeRows pl p (n - pl.dy)).flatMap (fun r =>
      (colTaps pl.fmt p c (planeW pl.fmt p pl.sw)).map (fun t => planeSector pl p r t.1))))))

/-- Some layer above could occlude the layer on line n. -/
def hasOccluder (s : State) (f : Frame) (l n : Nat) : Bool := (List.range s.hact).any (occluded s f l n)

/-- The line whose fetch falls in the line in progress: two lines on, counted from the base frame end (R428). -/
def fetchedLine (s : State) : Option (Frame × Nat) :=
  let n := s.rast.line + 2
  if s.inExt then none
  else if n < s.rast.linesTotal then some (s.rast.frame, n)
  else some (s.rast.frame + 1, n - s.rast.linesTotal)

/-- Lines are read for the picture: frames are composed, or a dirty set is sent in self-refresh (R414). -/
def State.reading (s : State) : Bool :=
  s.composing || decide (s.rf A.rastSrCtl 8 8 = 1 ∧ s.rf A.rastSrCtl 3 2 ≠ 0 ∧ s.out.dirty = true ∧ s.rf A.rastOutCtl 0 0 = 1)

/-- One sector fetched, or skipped, for a line. -/
def fetchSector (l : Nat) (f : Frame) (n sec : Nat) (skip : Bool) (s : State) : State :=
  if skip then { s with out := { s.out with fetched := s.out.fetched ++ [⟨l, f, n, sec, true, []⟩] } }
  else
    let bs := (List.range 64).map (fun i => s.hbmByte false (64 * sec + i))
    let s1 := s.hbmReads 1 false (64 * sec) 64
    let bad := bs.any (fun b => decide (b.2 ≠ 0))
    { s1 with out := { s1.out with
        fetched := s1.out.fetched ++ [⟨l, f, n, sec, false, bs.map (fun b => b.1)⟩]
        psn := if bad then (l, f.toNat, n) :: s1.out.psn else s1.out.psn } }

/-- A memory-plane layer's fetch for line n of frame f, of which `v` is the state that it runs in (R428, R439, R440). -/
def layerFetch (v : State) (f : Frame) (n l : Nat) (s : State) : State :=
  let pl := placeOf v l
  if !v.reading || !memLayerOn v f l n || decide (v.rast.linesActive ≤ n ∨ n < pl.dy ∨ pl.dy + pl.dh ≤ n) then s
  else
    let seen := if hasOccluder v f l n then some (seenSectors v f l n pl) else none
    (uniq (fetchSectors pl (n - pl.dy))).foldl (fun t sec =>
      fetchSector l f n sec (match seen with | none => false | some x => !x.contains sec) t) s

/-! ### The pixel of a layer -/

/-- What a layer gives a pixel: composition RGB and α_pix; none where it is transparent there. -/
abbrev LayerPix := Option (Nat × Nat × Nat × Nat)

/-- The pixel of four plane values. -/
def pixOf (w : Word) (v : Nat → Option Nat) : LayerPix :=
  match v 0, v 1, v 2, v 3 with
  | some a, some b, some c, some d => let p := toRgb w a b c; some (p.1, p.2.1, p.2.2, d)
  | _, _, _, _ => none

/-- A sample of a fetched image: none where its sector was skipped or not fetched (R440, R441). -/
def memSample (s : State) (l n : Nat) (pl : Place) (p c r : Nat) : Option Nat :=
  let sec := planeSector pl p r c
  let e := fmtE pl.fmt
  match s.out.fetched.find? (fun g => decide (g.layer = l ∧ g.frame = s.rast.frame ∧ g.line = n ∧ g.sector = sec)) with
  | some g => if g.skipped then none else some (readSample pl.fmt ((g.bytes.drop (c * e % 64)).take e))
  | none => none

/-- A memory-plane layer at output pixel (x, n) (R422, R431): the planes present are scaled. -/
def memPixel (s : State) (l n x : Nat) : LayerPix :=
  let pl := placeOf s l
  if x < pl.dx ∨ pl.dx + pl.dw ≤ x ∨ n < pl.dy ∨ pl.dy + pl.dh ≤ n then none
  else
    let value (p c r : Nat) : Option Nat := planeValue pl.fmt (memSample s l n pl) pl.sw pl.sh p c r
    pixOf pl.fmt (fun p =>
      if (fmtPlanes pl.fmt).contains p then
        vPass s l pl.sh pl.dh (n - pl.dy) (fun r => hPass s l pl.sw pl.dw (x - pl.dx) (fun c => value p c r))
      else value p 0 0)

/-- A byte of a scanned segment. -/
def segByte (s : State) (g : Seg) (o : Nat) : Byte := (s.fab.loft.fetch (bayKey g.spar (g.base + o))).1

/-- A sample of a line store layer's line: the segment that covers the sample's first luma position holds it (R391). -/
def segSample (s : State) (w : Word) (g : Seg) (p c : Nat) : Nat :=
  let e := fmtE w
  let o := segPlaneOfs w p g.width + c * e
  readSample w ((List.range e).map (fun i => segByte s g (o + i)))

/-- Column c of plane p of a layer's line, `near` being the segment of the pixel in question, whose own edge stands in where no
segment holds the column. -/
def storeSample (s : State) (w : Word) (segs : List Seg) (near : Seg) (p c : Nat) : Nat :=
  let sub := (p = 1 ∨ p = 2) ∧ fld w 1 0 = 1
  let luma := if sub then 2 * c else c
  let col (g : Seg) : Nat := if sub then c - g.x0 / 2 else c - g.x0
  match segs.find? (fun g => decide (g.x0 ≤ luma ∧ luma < g.x0 + g.width)) with
  | some g => segSample s w g p (col g)
  | none => segSample s w near p (clampIdx ((c : Int) - (if sub then near.x0 / 2 else near.x0 : Nat)) (planeW w p near.width))

/-- A line store layer at output column x of the line in progress (R421). -/
def storePixel (s : State) (l x : Nat) : LayerPix :=
  let w := s.reg (A.compLayerFmt l)
  let segs := s.out.scanned.filter (fun g => decide (g.layer = l))
  match segs.find? (fun g => decide (g.x0 ≤ x ∧ x < g.x0 + g.width)) with
  | none => none
  | some g => pixOf w (fun p => planeValue w (fun p c _ => some (storeSample s w segs g p c)) 16384 1 p x 0)

/-- A layer at output pixel (x, n): nothing where it does not contribute (R406, R423). -/
def layerPixel (s : State) (l n x : Nat) : LayerPix :=
  let w := s.reg (A.compLayerCtl l)
  if fld w 0 0 = 0 ∨ s.layerOff l s.rast.frame.toNat n then none
  else if fld w 1 1 = 0 then memPixel s l n x
  else if s.rast.resumedF = some s.rast.frame ∧ n ≤ s.lead then none
  else storePixel s l x

/-! ### Blending (R433) -/

/-- One component blended. `mode` is BLEND, `a` the combined alpha, `pa` PALPHA. -/
def blend1 (mode a pa src d : Nat) : Nat :=
  match mode with
  | 0 => src
  | 1 => (rneDiv ((src * a + d * (65535 - a) : Nat) : Int) 65535).toNat
  | _ => compVal ((src * pa + d * (65535 - a) : Nat) : Int) 65535

/-- A layer's pixel put over D. -/
def blendLayer (s : State) (l : Nat) (px : LayerPix) (d : Nat × Nat × Nat) : Nat × Nat × Nat :=
  match px with
  | none => d
  | some (r, g, b, alpha) =>
    let w := s.reg (A.compLayerCtl l)
    let pa := fld w 23 8
    let a := (rneDiv ((alpha * pa : Nat) : Int) 65535).toNat
    let m := fld w 3 2
    (blend1 m a pa r d.1, blend1 m a pa g d.2.1, blend1 m a pa b d.2.2)

/-- The background colour. -/
def State.background (s : State) : Nat × Nat × Nat :=
  (s.rf A.compBg0 15 0, s.rf A.compBg0 31 16, s.rf A.compBg1 15 0)

/-- The composed pixel. -/
def composePixel (s : State) (n x : Nat) : Nat × Nat × Nat :=
  (List.range 8).foldl (fun d p =>
    let l := (s.reg A.compZorder).toNat / 8 ^ p % 8
    blendLayer s l (layerPixel s l n x) d) s.background

/-! ### Output conversion (R436) -/

/-- The output depth B_o. -/
def outDepth (s : State) : Nat := match s.rf A.rastOutFmt 4 2 with | 0 => 6 | 1 => 8 | 2 => 10 | 3 => 12 | _ => 16

/-- The luma and chroma coefficients of an output matrix. -/
def yccCoef (m : Nat) : (Int × Int × Int) × (Int × Int × Int) × (Int × Int × Int) :=
  if m = 0 then ((3483, 11718, 1183), (-1877, -6315, 8192), (8192, -7441, -751))
  else ((4304, 11108, 972), (-2288, -5904, 8192), (8192, -7533, -659))

/-- A code rounded once and clamped to the depth. -/
def outCode (bo : Nat) (num : Int) (den : Nat) : Nat := (max 0 (min (rneDiv num den) ((2 : Int) ^ bo - 1))).toNat

/-- The three output codes of a composed pixel. -/
def outCodes (s : State) (px : Nat × Nat × Nat) : Nat × Nat × Nat :=
  let bo := outDepth s
  let q : Int := (2 ^ (bo - 8) : Nat)
  let top : Int := (2 : Int) ^ bo - 1
  let mid : Int := (2 : Int) ^ (bo - 1)
  let full := s.rf A.rastOutFmt 12 12 = 1
  let r : Int := px.1
  let g : Int := px.2.1
  let b : Int := px.2.2
  if s.rf A.rastOutFmt 1 0 = 0 then
    let one (v : Int) : Nat := if full then outCode bo (v * top) 65535 else outCode bo (16 * q * 65535 + v * 219 * q) 65535
    (one r, one g, one b)
  else
    let k := yccCoef (s.rf A.rastOutFmt 9 8)
    let dot (c : Int × Int × Int) : Int := c.1 * r + c.2.1 * g + c.2.2 * b
    let den := 16384 * 65535
    let y := if full then outCode bo (dot k.1 * top) den else outCode bo (16 * q * den + dot k.1 * 219 * q) den
    let chr (c : Int × Int × Int) : Nat :=
      if full then outCode bo (mid * den + dot c * top) den else outCode bo (mid * den + dot c * 224 * q) den
    (y, chr k.2.1, chr k.2.2)

/-- The codes that one pixel sends after chroma subsampling (R436). -/
def sentCodes (s : State) (n x : Nat) (c : Nat × Nat × Nat) : List Nat :=
  match s.rf A.rastOutFmt 1 0 with
  | 2 => if x % 2 = 0 then [c.1, c.2.1, c.2.2] else [c.1]
  | 3 => if x % 2 = 0 ∧ n % 2 = 0 then [c.1, c.2.1, c.2.2] else [c.1]
  | _ => [c.1, c.2.1, c.2.2]

/-! ### What is transmitted (R385, R386) -/

/-- Dirty region n is valid: nonempty and inside the active area. -/
def dirtyValid (s : State) (n : Nat) : Bool :=
  let x := s.reg (A.rastDirtyX n)
  let y := s.reg (A.rastDirtyY n)
  decide (fld x 13 0 < fld x 29 16 ∧ fld y 12 0 < fld y 28 16 ∧ fld x 29 16 ≤ s.hact ∧ fld y 28 16 ≤ s.rast.linesActive)

/-- The valid regions of the set, in ascending order. -/
def dirtySet (s : State) : List Nat := (List.range (min 16 (s.rf A.rastDirtyCtl 8 4))).filter (dirtyValid s)

/-- A region's columns, widened outward to slice boundaries with DSC (R386). -/
def dirtyCols (s : State) (n : Nat) : Nat × Nat :=
  let x := s.reg (A.rastDirtyX n)
  if s.rf A.rastOutCtl 10 10 = 1 then
    let sw := max 1 (ceilDiv s.hact (2 ^ s.rf A.rastDsc 13 12))
    (fld x 13 0 / sw * sw, min s.hact (ceilDiv (fld x 29 16) sw * sw))
  else (fld x 13 0, fld x 29 16)

/-- A region's lines, widened outward to slice boundaries with DSC (R386). -/
def dirtyRows (s : State) (n : Nat) : Nat × Nat :=
  let y := s.reg (A.rastDirtyY n)
  if s.rf A.rastOutCtl 10 10 = 1 then
    let sh := max 1 (s.rf A.rastDsc 28 16)
    (fld y 12 0 / sh * sh, min s.rast.linesActive (ceilDiv (fld y 28 16) sh * sh))
  else (fld y 12 0, fld y 28 16)

/-- The column ranges that line n transmits (R386). -/
def sentRanges (s : State) (n : Nat) : List (Nat × Nat) :=
  if !s.linkLive then []
  else if s.rf A.rastDirtyCtl 0 0 = 0 ∨ s.rf A.rastOutCtl 2 1 = 0 then [(0, s.hact)]
  else if !s.out.dirty then []
  else if s.rf A.rastOutCtl 2 1 = 2 then
    ((dirtySet s).filter (fun k => decide ((dirtyRows s k).1 ≤ n ∧ n < (dirtyRows s k).2))).map (dirtyCols s)
  else
    let g := match s.out.sink with | some k => max 1 k.yGran | none => 1
    let lo := (dirtySet s).foldl (fun m k => min m (fld (s.reg (A.rastDirtyY k)) 12 0)) s.rast.linesActive
    let hi := (dirtySet s).foldl (fun m k => max m (fld (s.reg (A.rastDirtyY k)) 28 16)) 0
    if lo / g * g ≤ n ∧ n < min s.rast.linesActive (ceilDiv hi g * g) then [(0, s.hact)] else []

/-! ### The line (R410, R411, R442, R447) -/

/-- Some codeword of a segment is delivered poisoned, or the segment touches a row that is not an output row (R97). -/
def segPoisoned (s : State) (g : Seg) : Bool :=
  [0, 2, 3].any (fun r => touchesRole s g.spar g.base g.len r) ||
  (uniq ((List.range g.len).map (fun i => bayKey g.spar (g.base + i) / 8))).any (fun cw => decide ((s.fab.loft.read cw).psn ≠ 0))

/-- What the scan of a segment records of its codewords. -/
def scanReads (s : State) (g : Seg) : State :=
  if s.fab.loft.marks = [] ∧ s.fab.loft.flips = [] then s
  else (uniq ((List.range g.len).map (fun i => bayKey g.spar (g.base + i) / 8))).foldl (fun t cw => t.loftReadCw g.spar cw false) s

/-- The poison of a layer's line, found at C = 0 of the line (R410, R411); no underrun occurs in self-refresh (R414). -/
def poisonCheck (n : Nat) (s : State) (l : Nat) : State :=
  let w := s.reg (A.compLayerCtl l)
  let store := s.out.scanned.any (fun g => decide (g.layer = l) && segPoisoned s g)
  let mem := s.out.psn.contains (l, s.rast.frame.toNat, n)
  if s.composing ∧ fld w 0 0 = 1 ∧ (if fld w 1 1 = 1 then store else mem) then s.underrun l s.rast.frame.toNat n 1 else s

/-- Region n of the signatures is valid (R444). -/
def sigValid (s : State) (n : Nat) : Bool :=
  let x := s.reg (A.compSigX n)
  let y := s.reg (A.compSigY n)
  decide (fld x 13 0 < fld x 29 16 ∧ fld y 12 0 < fld y 28 16 ∧ fld x 29 16 ≤ s.hact ∧ fld y 28 16 ≤ s.rast.linesActive)

/-- The bytes that some pixels add to a signature (R442). -/
def sigBytes (codes : List (Nat × Nat × Nat)) : List Byte :=
  codes.flatMap (fun c => leBytes 2 c.1 ++ leBytes 2 c.2.1 ++ leBytes 2 c.2.2)

/-- The signatures and rectangle CRCs carried over line n of composed pixels. -/
def foldSignatures (n : Nat) (px codes : List (Nat × Nat × Nat)) (s : State) : State :=
  let one (acc : List (Nat × BitVec 64)) (k : Nat) : List (Nat × BitVec 64) :=
    let x := s.reg (A.compSigX k)
    let y := s.reg (A.compSigY k)
    if s.rf (A.compSigCtl k) 0 0 = 1 ∧ sigValid s k ∧ fld y 12 0 ≤ n ∧ n < fld y 28 16 then
      smPut 0 acc k (crc64 (smGet 0 acc k) (sigBytes ((codes.drop (fld x 13 0)).take (fld x 29 16 - fld x 13 0))))
    else acc
  let sig := (List.range 16).foldl one s.out.sig
  let whole := smPut 0 sig 16 (crc64 (smGet 0 sig 16) (sigBytes codes))
  let rect (acc : List (Nat × BitVec 32)) (k : Nat) : List (Nat × BitVec 32) :=
    let a := s.reg (A.compLcrcA k)
    let b := s.reg (A.compLcrcB k)
    if bitAt (s.reg A.compLcrcCtl) k ∧ fld a 27 16 ≤ n ∧ n ≤ fld b 27 16 ∧ fld a 11 0 ≤ fld b 11 0 then
      smPut 0xFFFFFFFF#32 acc k (crc32Run (smGet 0xFFFFFFFF#32 acc k)
        (((px.drop (fld a 11 0)).take (fld b 11 0 + 1 - fld a 11 0)).flatMap (fun p =>
          [BitVec.ofNat 8 (p.1 / 256), BitVec.ofNat 8 (p.2.1 / 256), BitVec.ofNat 8 (p.2.2 / 256)])))
    else acc
  { s with out := { s.out with sig := whole, crc := (List.range 8).foldl rect s.out.crc } }

/-- The DSC picture parameter set (R381): version, depth and rate, block prediction and encoding, the sizes of the picture and of a slice, and the
rate-control bytes that DSC 1.2a recommends. -/
def dscPps (s : State) : List Byte :=
  let bpp := s.rf A.rastDsc 9 0
  let enc := s.rf A.rastOutFmt 1 0
  let sw := ceilDiv s.hact (2 ^ s.rf A.rastDsc 13 12)
  [0x12#8, 0#8, 0#8, BitVec.ofNat 8 (outDepth s * 16),
    BitVec.ofNat 8 (0x20 + b2n (decide (enc = 0)) * 0x10 + bpp / 256), BitVec.ofNat 8 bpp] ++
    [s.rast.linesActive, s.hact, s.rf A.rastDsc 28 16, sw, ceilDiv (sw * bpp) 128].flatMap (fun v => (leBytes 2 v).reverse) ++
    [BitVec.ofNat 8 (b2n (decide (enc = 2)) + 2 * b2n (decide (enc = 3)))] ++ Config.dscRate (outDepth s) bpp

/-- The codes of a range of columns of line n, as they go to the link or to the encoder. -/
def rangeCodes (s : State) (n : Nat) (codes : List (Nat × Nat × Nat)) (r : Nat × Nat) : List Nat :=
  (((codes.drop r.1).take (r.2 - r.1)).zipIdx).flatMap (fun c => sentCodes s n (r.1 + c.2) c.1)

/-- The slices of a range of columns, with DSC. -/
def slicesOf (s : State) (r : Nat × Nat) : List (Nat × Nat) :=
  let sw := max 1 (ceilDiv s.hact (2 ^ s.rf A.rastDsc 13 12))
  (List.range (ceilDiv (r.2 - r.1) sw)).map (fun k => (r.1 + k * sw, min r.2 (r.1 + (k + 1) * sw)))

/-- What line n transmits of its codes: with DSC the chunks of its slices, each over what the encoder has had of its slice. -/
def transmit (n : Nat) (codes : List (Nat × Nat × Nat)) (s : State) : State :=
  if s.rf A.rastOutCtl 10 10 = 0 then
    { s with out := { s.out with line := (sentRanges s n).map (fun r => (r.1, rangeCodes s n codes r)) } }
  else
    let first := decide (n % max 1 (s.rf A.rastDsc 28 16) = 0)
    let had (x : Nat) : List Nat := if first then [] else ((s.out.slice.find? (fun e => decide (e.1 = x))).map (fun e => e.2)).getD []
    let now := ((sentRanges s n).flatMap (slicesOf s)).map (fun r => (r.1, had r.1 ++ rangeCodes s n codes r))
    { s with out := { s.out with
        slice := now
        line := now.map (fun e => (e.1, (Config.dscChunk (dscPps s) e.2).map (fun (b : Byte) => b.toNat))) } }

/-- What is signalled with a frame (R381, R382): DP and eDP carry the colour, and the HDR metadata for PQ and HLG; a DSC stream has its parameter set. -/
def frameSignals (s : State) : List Signal :=
  if !(s.composing && s.linkLive) then [] else
  let tf := s.rf A.rastOutFmt 11 10
  (if s.rf A.rastOutCtl 2 1 = 2 then [] else
    Signal.colour (s.rf A.rastOutFmt 9 8) tf (s.rf A.rastOutFmt 12 12) ::
      (if tf = 1 ∨ tf = 2 then [Signal.hdr ((List.range 6).map (fun i => s.reg (A.compHdr i)))] else [])) ++
    (if s.rf A.rastOutCtl 10 10 = 1 then [Signal.pps (dscPps s)] else [])

/-- Scan-out's read of the line in progress has completed: its poison is found, it is composed, converted, signed and sent (R410,
R411, R430 to R436, R442). While the part is paused the raster's line stands, and an active line of the link's timing sends the background colour (R416): the line is taken as an
even one, which carries chroma in every encoding. -/
def scanoutLineRead (s : State) : State :=
  let n := s.rast.line
  if s.rast.paused then
    if s.rf A.rastOutCtl 0 0 = 1 ∧ s.rf A.rastSrCtl 8 8 = 0 ∧ !s.rast.suspended ∧ s.linkLive then
      transmit 0 (List.replicate s.hact (outCodes s s.background)) s
    else s
  else if s.rast.linesActive ≤ n ∨ !s.reading then s
  else
    let s1 := s.out.scanned.foldl scanReads s
    let s2 := (List.range 8).foldl (poisonCheck n) s1
    let px := (List.range s2.hact).map (composePixel s2 n)
    let codes := px.map (outCodes s2)
    let s3 := if s2.composing then foldSignatures n px codes s2 else s2
    transmit n codes s3

def execScanoutLineRead (s : State) : Host.Outcome State Fault Refusal := .next (scanoutLineRead s)

/-! ### Publication (R444 to R447) -/

/-- Region n's result of this frame published: an invalid region publishes RES = 0 in any frame; a composed frame compares where CMP asks for it (R444). -/
def publishRegion (comp : Bool) (s : State) (n : Nat) : State :=
  let c := s.reg (A.compSigCtl n)
  let valid := sigValid s n
  let ok := comp && valid && decide (fld c 0 0 = 1)
  let res := if ok then smGet 0 s.out.sig n else 0
  let exp := (s.reg (A.compSigExpLo n)).toNat + (s.reg (A.compSigExpHi n)).toNat * 2 ^ 32
  let old := s.rf (A.compSigStat n) 1 1
  let cmp := comp && decide (fld c 1 1 = 1)
  let bad := !valid || decide (res.toNat ≠ exp)
  let mis := if cmp then b2n bad else old
  let s1 := if comp || !valid then
      (s.setReg (A.compSigResLo n) (BitVec.ofNat 32 res.toNat)).setReg (A.compSigResHi n) (BitVec.ofNat 32 (res.toNat / 2 ^ 32))
    else s
  let s2 := s1.setReg (A.compSigStat n) (BitVec.ofNat 32 (b2n ok + 2 * mis + s.rast.frame.toNat % 65536 * 65536))
  if cmp && bad then s2.post (uniq [fld c 5 4, s.owner]) 0x0242 [s.vF, (1, n), (8, res.toNat)] else s2

/-- The freeze count after a publication: event 0x0243 as it reaches N, once until it is reset (R445). -/
def freezeCount (same : Bool) (sig : BitVec 64) (s : State) : State :=
  if same then
    let s1 := s.bump A.compFrzCnt 15 0 1
    if s.rf A.compFrzCtl 23 8 ≤ s.rf A.compFrzCnt 15 0 + 1 ∧ !s.out.frozen then
      ({ s1 with out := { s1.out with frozen := true } }).post [s.owner] 0x0243 [s.vF, (8, sig.toNat)]
    else s1
  else { s.setRf A.compFrzCnt 15 0 0 with out := { s.out with frozen := false } }

/-- The freeze detector (R445). -/
def freezeCheck (comp : Bool) (s : State) : State :=
  let sig := smGet 0 s.out.sig 16
  let s0 := if comp then
      (s.setReg A.compFrzSigLo (BitVec.ofNat 32 sig.toNat)).setReg A.compFrzSigHi (BitVec.ofNat 32 (sig.toNat / 2 ^ 32))
    else s
  let same := comp && decide (s.rf A.compFrzCtl 1 1 = 1 ∧ s.out.prevSig = some sig)
  let s1 := if comp then { s0 with out := { s0.out with prevSig := some sig } } else s0
  if s.rf A.compFrzCtl 0 0 = 0 then s1 else freezeCount same sig s1

/-- The rectangle CRCs published (R447). -/
def publishRects (s : State) : State :=
  (List.range 8).foldl (fun t k =>
    if bitAt (s.reg A.compLcrcCtl) k then t.setReg (A.compLcrcRes k) (smGet 0xFFFFFFFF#32 s.out.crc k ^^^ 0xFFFFFFFF#32) else t) s

/-- The publication at (F, VACT + 2, 0). -/
def signaturePublish (s : State) : State :=
  let comp := s.composing
  let s1 := (List.range 16).foldl (publishRegion comp) s
  let s2 := freezeCheck comp s1
  let s3 := if comp then publishRects s2 else s2
  { s3 with out := { s3.out with sig := [], crc := [] } }

def execSignaturePublish (s : State) : Host.Outcome State Fault Refusal := .next (signaturePublish s)

end Sys2Proof.Machine
end

