-- ==== Sys2Proof/Machine/LockStep.lean ====
section
/-! DEFINITION. Lock-step pairs (R347 to R352): the exchange of line signatures and of the lead's reef choice. -/

namespace Sys2Proof.Machine

/-- The pair compares. -/
def comparing (s : State) : Bool := decide (s.rf A.linkLsCtl 0 0 = 1 ∧ s.rf A.linkLsStat 1 0 = 1)

/-- The frame, this one or an earlier one, whose low 16 bits are given. -/
def frameOf16 (s : State) (f : Nat) : Frame := s.rast.frame - BitVec.ofNat 48 ((s.f16 + 65536 - f) % 65536)

/-- The part diverged from its partner (R351). -/
def diverged (a : LineSet) (bad : List Nat) (s : State) : State :=
  let f := (frameOf16 s a.f).toNat
  let n := bad.headD 0
  let mask := bad.foldl (fun m i => m + 2 ^ i) 0
  let s1 := (s.setLoHi A.linkLsDivFLo A.linkLsDivFHi 16 f).setReg A.linkLsDivPos (BitVec.ofNat 32 (a.line + n * 2 ^ 16))
  let s2 := (s1.setReg A.linkLsDivMaskLo (BitVec.ofNat 32 mask)).setReg A.linkLsDivMaskHi (BitVec.ofNat 32 (mask / 2 ^ 32))
  let s3 := (s2.setRf A.linkLsStat 1 0 2).setFleet { s2.fleet with own := [], their := [] }
  s3.post s3.ports 0x0410 [(6, f), (2, a.line), (1, n)]

/-- Sets of which both sides are present are compared in order (R350). The first argument bounds the recursion. -/
def compareSets : Nat → State → State
  | 0, s => s
  | n + 1, s =>
    match s.fleet.own, s.fleet.their with
    | a :: own, b :: their =>
      if a.f ≠ b.f ∨ a.line ≠ b.line then lockLost 2 s
      else
        let bad := (List.range 64).filter (fun i => decide (a.sigs.getD i 0 ≠ b.sigs.getD i 0))
        if bad = [] then compareSets n (s.setFleet { s.fleet with own := own, their := their }) else diverged a bad s
    | _, _ => s

def compareNow (s : State) : State := compareSets (s.fleet.own.length + 1) s

/-- LOCKSTEP_SIG_SEND: at cycle W + 16 the signatures of the line in progress are sent and compared (R350). -/
def lockSigSend (s0 : State) : State :=
  let s := settleTo (issueW s0.rast.linePeriod s0.rast.reef + 16) 1 s0
  match s.lsPort with
  | some p =>
    if comparing s then
      let w := issueW s.rast.linePeriod s.rast.reef
      let sigs := (List.range 64).map (fun n => lineSig s.rcd.entries w n)
      let s1 := s.setFleet { s.fleet with own := s.fleet.own ++ [⟨s.f16, s.rast.line, sigs⟩] }
      compareNow (sendSeq p 0x12 (leBytes 2 s.f16 ++ leBytes 2 s.rast.line ++ sigs.flatMap (fun g => leBytes 8 g.toNat) ++
        List.replicate 28 0) s1)
    else s
  | none => s

def execLockstepSigSend (s : State) : Host.Outcome State Fault Refusal := .next (lockSigSend s)

/-- LOCKSTEP_FRAME: the partner's set of a line (R350). -/
def onLockSet (f : LinkFrame) (s : State) : State :=
  if comparing s then
    let b : LineSet := ⟨numAt f.payload 0 2, numAt f.payload 2 2, (List.range 64).map (fun n => BitVec.ofNat 64 (numAt f.payload (4 + 8 * n) 8))⟩
    compareNow (s.setFleet { s.fleet with their := s.fleet.their ++ [b] })
  else s

def execLockstepFrame (p : Fin 6) (x : Rx) (s : State) : Host.Outcome State Fault Refusal :=
  .next (receive p.val 0x12 x onLockSet s)

/-- LOCKSTEP_DEADLINE: at C = 0 of the line in progress a set of DEPTH lines ago is still missing (R350). -/
def lockDeadline (s : State) : State :=
  let depth := s.rf A.linkLsCtl 11 8
  if comparing s ∧ s.fleet.own.any (fun a => decide (s.linePos (frameOf16 s a.f).toNat a.line + depth ≤ s.nowPos)) then lockLost 1 s
  else s

def execLockstepDeadline (s : State) : Host.Outcome State Fault Refusal := .next (lockDeadline s)

/-- LOCKSTEP_REEF_SEND: the lead's choice for the next frame (R349). -/
def lockReefSend (s : State) : State :=
  match s.lsPort with
  | some p =>
    if comparing s ∧ s.rf A.linkLsCtl 1 1 = 0 ∧ !agreeing s then
      sendSeq p 0x11 (leBytes 2 0 ++ leBytes 2 s.f16 ++ leBytes 1 0 ++ leBytes 1 1 ++ leBytes 1 (ownReef s) ++ List.replicate 25 0) (quiet s)
    else s
  | none => s

def execLockstepReefSend (s : State) : Host.Outcome State Fault Refusal := .next (lockReefSend s)

/-- LOCKSTEP_REEF_RECEIPT: the lead's choice arrives (R349); after the cut line the pair is lost. -/
def onLockReef (p ru : Nat) (f : LinkFrame) (s : State) : State :=
  if s.lsPort = some p ∧ lockFollower s ∧ numAt f.payload 2 2 = s.f16 then
    if byCut s (ckOf s ru) then
      let r := numAt f.payload 6 1
      let s1 := s.setFleet { s.fleet with lsReef := some r }
      if (replayReef s1).isNone ∧ s1.gov.rth ≤ r then setNext r s1 else s1
    else lockLost 3 s
  else s

def execLockstepReefReceipt (p : Fin 6) (ru : BitVec 32) (x : Rx) (s : State) : Host.Outcome State Fault Refusal :=
  .next (receive p.val 0x11 x (onLockReef p.val ru.toNat) s)

end Sys2Proof.Machine
end

