-- ==== Sys2Proof/Machine/Channel.lean ====
section
/-! DEFINITION. Channels: the channel table, its commands, fences and ring tails (R541 to R547, R551). -/

namespace Sys2Proof.Machine

/-! ### Handles (R541, R542) -/

/-- Where something that lands at cycle c takes effect: the next frame where it lands by the commit cut line or while the part is paused, else the
one after (R355, R399, R551). -/
def landTarget (s : State) (c : Nat) : Frame := if s.rast.paused ∨ byCut s c then s.rast.frame + 1 else s.rast.frame + 2

def hSlot (h : Word) : Nat := fld h 29 20
def hPort (h : Word) : Nat := fld h 31 30
def hGen (h : Word) : Nat := fld h 19 0

/-- The handle is valid: its slot is IN_USE or ERROR, and port and generation agree (R542). -/
def validHandle (s : State) (h : Word) : Bool :=
  let x := s.slot (hSlot h)
  decide ((x.st = .inUse ∨ x.st = .error) ∧ x.port = hPort h ∧ x.gen = hGen h)

/-- The result with which a command of port p naming a handle is turned away, 0 where it is not (R542, R546). `onError`: the command is accepted
of a slot in ERROR. -/
def handleResult (s : State) (p : Nat) (h : Word) (onError : Bool) : Nat :=
  if !validHandle s h then 2
  else if hPort h ≠ p then 5
  else if (s.slot (hSlot h)).st = .error ∧ !onError then 6
  else 0

/-- RESULT is placed, and BUSY is clear (R545). -/
def cmdDone (p result : Nat) (s : State) : State := s.setPreg p A.hostCmdStat (BitVec.ofNat 32 (result * 2 ^ 8))

/-- Argument n of the command of port p. -/
def cmdArg (s : State) (p n : Nat) : Word := s.preg p (A.hostCmdArg n)

/-! ### CREATE -/

/-- The channels that a port holds. -/
def heldBy (s : State) (p : Nat) : Nat :=
  (s.slots.filter (fun e => decide (e.2.port = p ∧ (e.2.st = .inUse ∨ e.2.st = .closing ∨ e.2.st = .error)))).length

/-- The lowest-numbered FREE slot (R543). -/
def freeSlot (s : State) : Option Nat := (List.range 1024).find? (fun n => decide ((s.slot n).st = .free))

/-- The lowest job number that no channel has bound (R547). -/
def freeJob (s : State) : Option Nat := (List.range 8).find? (fun n => (s.jobSlot n).isNone)

/-- The arguments of CREATE hold no reserved value (R545). -/
def createArgs (s : State) (p : Nat) : Bool :=
  let a0 := cmdArg s p 0
  let a3 := cmdArg s p 3
  decide (a0.toNat < 3) &&
    (decide (a0.toNat ≠ 2) || decide (fld (cmdArg s p 1) 5 0 = 0 ∧ fld a3 3 0 ≤ 10 ∧ fld a3 31 9 = 0))

/-- The slot that CREATE makes of slot n. -/
def createSlot (s : State) (p n : Nat) (job : Option Nat) : Slot :=
  let a0 := (cmdArg s p 0).toNat
  let a3 := cmdArg s p 3
  let kind : ChanKind := match a0 with | 0 => .passage | 1 => .background | _ => .copy
  { Slot.unused with
    st := .inUse
    kind := kind
    port := p
    gen := (s.slot n).gen
    job := job
    pair := if kind = .copy ∧ bitAt a3 8 then some (fld a3 7 4) else none
    ringBase := if kind = .copy then (cmdArg s p 1).toNat + (cmdArg s p 2).toNat * 2 ^ 32 else 0
    ringSize := if kind = .copy then 64 * 2 ^ fld a3 3 0 else 0 }

/-- CREATE (R545 to R547). A job that a channel binds starts from nothing: its counts and its publication registers clear. -/
def createCmd (p : Nat) (s : State) : State :=
  if !createArgs s p then cmdDone p 4 s else
  let back := decide ((cmdArg s p 0).toNat = 1)
  match freeSlot s with
  | none => cmdDone p 3 s
  | some n =>
    if s.rf (A.hostPartQuota p) 10 0 ≤ heldBy s p ∨ (back ∧ freeJob s = none) then cmdDone p 3 s
    else
      let job := if back then freeJob s else none
      let s1 := s.setSlot n (createSlot s p n job)
      let s2 := match job with
        | some j => ((((s1.setJob j Job.idle).setReg (A.chanFitStep j) 0).setReg (A.chanFitDefer j) 0).setReg (A.chanFitAvail j) 0).setReg
            (A.chanFitPstat j) 0
        | none => s1
      let h := s2.handle n
      let s3 := (cmdDone p 0 s2).setPreg p A.hostCmdRes (BitVec.ofNat 32 h)
      s3.post [p] 0x0100 [(4, h), (1, (cmdArg s p 0).toNat), (1, job.getD 0)]

/-! ### DESTROY and WITHDRAW (R545, R551) -/

/-- Queued admissions of a slot are withdrawn when they complete. -/
def dropQueued (n : Nat) (s : State) : State :=
  { s with adm := s.adm.map (fun r => if r.slot = n ∧ r.handle = s.handle n then { r with dropped := true } else r) }

/-- DESTROY of the channel that argument 0 names, landing at cycle c. -/
def destroyCmd (p c : Nat) (s : State) : State :=
  let h := cmdArg s p 0
  let r := handleResult s p h true
  if r ≠ 0 then cmdDone p r s else
  let n := hSlot h
  let s1 := dropQueued n s
  cmdDone p 0 (s1.setSlot n { s1.slot n with
    st := .closing
    wdraw := (s1.slot n).wdraw.filter (fun e => decide (e.2 ≠ landTarget s c)) ++ [(.destroy, landTarget s c)] })

/-- WITHDRAW. -/
def withdrawCmd (p c : Nat) (s : State) : State :=
  let h := cmdArg s p 0
  let r := handleResult s p h false
  if r ≠ 0 then cmdDone p r s else
  let n := hSlot h
  let x := s.slot n
  let queued := s.adm.any (fun q => decide (q.slot = n ∧ q.handle = s.handle n))
  if x.kind = .copy ∨ (x.passages = [] ∧ x.fit = none ∧ !queued) then cmdDone p 6 s
  else if x.wdraw ≠ [] then cmdDone p 0 s
  else
    let s1 := dropQueued n s
    if x.passages = [] ∧ x.fit = none then cmdDone p 0 s1
    else cmdDone p 0 (s1.setSlot n { x with wdraw := [(.withdraw, landTarget s c)] })

/-! ### ADMIT, UNQUAR, RESTART -/

/-- ADMIT: the arguments are checked and the admission is queued (R545, R546). -/
def admitCmd (p : Nat) (s : State) : State :=
  let h := cmdArg s p 0
  let r := handleResult s p h false
  if r ≠ 0 then cmdDone p r s else
  let n := hSlot h
  let a := (cmdArg s p 1).toNat + (cmdArg s p 2).toNat * 2 ^ 32
  if a % 4096 ≠ 0 then cmdDone p 4 s
  else if (s.slot n).kind = .copy then cmdDone p 6 s
  else if 16 ≤ (s.adm.filter (fun q => decide (q.port = p))).length then cmdDone p 7 s
  else
    let s1 := { s with adm := s.adm ++ [(⟨n, s.handle n, p, a, false⟩ : AdmReq)] }
    cmdDone p 1 (s1.setSlot n { s1.slot n with admitSt := if (s.slot n).admitSt = 2 then 2 else 1 })

/-- UNQUAR of the slot that argument 0 names, by its last port (R543). -/
def unquarCmd (p : Nat) (s : State) : State :=
  let a := cmdArg s p 0
  let n := fld a 9 0
  if fld a 31 10 ≠ 0 then cmdDone p 4 s
  else if (s.slot n).st ≠ .quarantined then cmdDone p 6 s
  else if (s.slot n).port ≠ p then cmdDone p 5 s
  else cmdDone p 0 (s.setSlot n { Slot.unused with port := p })

/-- RESTART of a copy channel in ERROR (R550): HEAD is unchanged, and the abandoned descriptor will be fetched anew. -/
def restartCmd (p : Nat) (s : State) : State :=
  let h := cmdArg s p 0
  let r := handleResult s p h true
  if r ≠ 0 then cmdDone p r s else
  let n := hSlot h
  let x := s.slot n
  if x.kind ≠ .copy ∨ x.st ≠ .error then cmdDone p 6 s
  else cmdDone p 0 (s.setSlot n { x with st := .inUse, run := none })

/-- A write of HOST_CMD_GO with a code, landing at cycle c (R545). Every command is answered as it lands, so BUSY is never found set. -/
def cmdGo (p op c : Nat) (s : State) : State :=
  match op with
  | 1 => createCmd p s
  | 2 => destroyCmd p c s
  | 3 => admitCmd p s
  | 4 => withdrawCmd p c s
  | 5 => unquarCmd p s
  | 6 => restartCmd p s
  | _ => cmdDone p 4 s

/-- The write of HOST_CMD_GO by port p. -/
def goWrite (p : Fin 4) (op c : Nat) (s : State) : Host.Outcome State Fault Refusal :=
  fromPort p s (s.hostPut p A.hostCmdGo (BitVec.ofNat 32 op) (cmdGo p op c))

def execCreate (p : Fin 4) (s : State) : Host.Outcome State Fault Refusal := goWrite p 1 0 s
def execDestroy (p : Fin 4) (c : BitVec 16) (s : State) : Host.Outcome State Fault Refusal := goWrite p 2 c.toNat s
def execAdmit (p : Fin 4) (s : State) : Host.Outcome State Fault Refusal := goWrite p 3 0 s
def execWithdraw (p : Fin 4) (c : BitVec 16) (s : State) : Host.Outcome State Fault Refusal := goWrite p 4 c.toNat s
def execUnquar (p : Fin 4) (s : State) : Host.Outcome State Fault Refusal := goWrite p 5 0 s
def execRestart (p : Fin 4) (s : State) : Host.Outcome State Fault Refusal := goWrite p 6 0 s

/-! ### Fences and ring tails -/

/-- Fence counter k of port p increments, modulo 2^32 (R539). -/
def fenceInc (p k : Nat) (s : State) : State := s.setPreg p (A.hostFence k) (s.preg p (A.hostFence k) + 1)

def execHostFenceInc (p : Fin 4) (k : Fin 16) (s : State) : Host.Outcome State Fault Refusal :=
  fromPort p s (s.hostPut p A.hostFenceInc (BitVec.ofNat 32 k) (fenceInc p k))

/-- A write of CHAN_SLOTs_TAIL by port p: accepted from the slot's port alone (R544, R638). -/
def tailWrite (p n : Nat) (v : Word) (s : State) : State :=
  let x := s.slot n
  if x.port = p ∧ x.st ≠ .free then s.setSlot n { x with tail := fld v 15 0 } else s

def execTailWrite (p : Fin 4) (n : Fin 1024) (v : Word) (s : State) : Host.Outcome State Fault Refusal :=
  fromPort p s (s.hostPut p (A.chanSlotTail n) v (tailWrite p n v))

/-! ### The event queue's own writes (R539, R556, R557, R596) -/

/-- BOOT_DONE reaches the queue of port p when it is first enabled after the boot (R596). -/
def tellBoot (p : Nat) (s : State) : State :=
  if s.prf p A.hostEqCtl 0 0 = 1 ∧ !s.acc.bootTold.contains p ∧ s.stage = 0xF then
    let v := s.reg A.safeBootStat
    let r := s.eqDeliver p 0x0800 false s.rast.line 0 (packVals [(1, fld v 8 8), (1, fld v 18 12), (1, s.rf A.safeRstCause 3 0)])
    { r.1 with acc := { r.1.acc with bootTold := r.1.acc.bootTold ++ [p] } }
  else s

/-- A write of HOST_EQ_CTL: one that holds a reserved SIZE is ignored as a whole (R539). -/
def eqCtlWrite (p : Nat) (v : Word) (s : State) : State :=
  if 10 < fld v 7 4 then s
  else tellBoot p ((s.setPreg p A.hostEqCtl (BitVec.ofNat 32 (fld v 0 0 + fld v 19 4 * 2 ^ 4))).eqFlush p)

def execEqEnable (p : Fin 4) (v : Word) (s : State) : Host.Outcome State Fault Refusal :=
  fromPort p s (s.hostPut p A.hostEqCtl v (eqCtlWrite p v))

/-- A write of HOST_EQ_HEAD frees the entries before it (R556). -/
def eqHeadWrite (p : Nat) (v : Word) (s : State) : State := (s.setPreg p A.hostEqHead (BitVec.ofNat 32 (fld v 15 0))).eqFlush p

def execEqHead (p : Fin 4) (v : Word) (s : State) : Host.Outcome State Fault Refusal :=
  fromPort p s (s.hostPut p A.hostEqHead v (eqHeadWrite p v))

/-- MOD µs have passed since vector 0 last signalled: it signals where a new entry exists (R557). -/
def eqInterrupt (p : Nat) (s : State) : State :=
  let t := s.prf p A.hostEqTail 16 0
  if t ≠ smGet 0x10000 s.acc.eqSeen p then
    { s with acc := { s.acc with eqSeen := smPut 0x10000 s.acc.eqSeen p t } }.signal p 0
  else s

def execEqInterrupt (p : Fin 4) (s : State) : Host.Outcome State Fault Refusal := fromPort p s (eqInterrupt p s)

/-- MERGED_EVENT: after the acknowledge phase of crossing k, the n pulses that merged in it are delivered as one event, and MERGE counts those beyond it.
Where the event is posted to a host, `post` names the port, the code and the payload, and its entry carries MERGED (R564). -/
def mergedEvent (k n : Nat) (post : Option (Fin 4 × BitVec 16 × List Byte)) (s : State) : State :=
  let s1 := s.bump (A.sysXingCnt k) 15 0 (n - 1)
  match post with
  | none => s1
  | some (p, code, bs) =>
    if s.ports.contains p.val then
      { s1 with ev := { s1.ev with mergeOf := smPut false s1.ev.mergeOf (p.val * 2 ^ 16 + code.toNat) true } }.post [p.val] code.toNat
        (bs.map (fun (b : Byte) => (1, b.toNat)))
    else s1

def execMergedEvent (k : Fin 14) (n : BitVec 16) (post : Option (Fin 4 × BitVec 16 × List Byte)) (s : State) :
    Host.Outcome State Fault Refusal := .next (mergedEvent k.val n.toNat post s)

end Sys2Proof.Machine
end

