-- ==== Sys2Proof/Machine/Display.lean ====
section
/-! DEFINITION. The output link (R380 to R384, R405, R416, R417, R610, R611), the flip timestamp, the watch snapshot (R155 to R157) and
the display input (R392 to R397). -/

namespace Sys2Proof.Machine

/-! ### FLIP -/

/-- D of R380 in raster units: from (F, 0, 0) to the first symbol of line 0 at the output balls. -/
def outDelay (s : State) : Nat :=
  let pers := s.rf A.rastOutCtl 2 1
  let rate := s.rf A.rastOutCtl 7 4
  let base := if pers = 2 then 1600 else if 4 ≤ rate ∧ rate ≤ 6 then 1280 else 1120
  base * 24 + (if s.rf A.rastOutCtl 10 10 = 1 then s.rast.tNum * 24 / max 1 s.rast.tDen else 0)

/-- Some pixel of the frame in progress is transmitted (R386, R417). -/
def pixelsSent (s : State) : Bool := s.reading && (List.range s.rast.linesActive).any (fun n => !(sentRanges s n).isEmpty)

/-- The flip timestamp of the frame in progress (R417): its registers are updated, VIRT where no pixel of the frame is transmitted, and
event 0x0200 with FLIPEV. -/
def flip (s : State) : State :=
  let t := s.rast.tod0.advance (outDelay s)
  let virt := !pixelsSent s
  let f := s.rast.frame.toNat
  let s1 := (s.setReg A.rastFlipFLo (BitVec.ofNat 32 f)).setReg A.rastFlipFHi (BitVec.ofNat 32 (f / 2 ^ 32 + b2n virt * 2 ^ 31))
  let s2 := ((s1.setReg A.rastFlipSLo (BitVec.ofNat 32 t.sec)).setReg A.rastFlipSHi (BitVec.ofNat 32 (t.sec / 2 ^ 32))).setReg
    A.rastFlipNs (BitVec.ofNat 32 t.ns)
  if s.rf A.rastCommit 30 30 = 1 then s2.post [s.owner] 0x0200 [s.vF, (6, t.sec), (4, t.ns)] else s2

def execFlip (s : State) : Host.Outcome State Fault Refusal := .next (flip s)

/-! ### WATCH_SNAPSHOT -/

/-- No figures gathered. -/
def WatchFig.none : WatchFig := ⟨0, 0, 0, 0⟩

/-- What watch n gathered in the frame before (R153). -/
def lastFig (s : State) (n : Nat) : WatchFig := smGet WatchFig.none s.fab.gather (8 * (1 - s.fab.side) + n)

/-- The snapshot of watch n (R155, R158). -/
def snapWatch (s : State) (n : Nat) : State :=
  let g := lastFig s n
  ((((s.setLoHi (A.sysWatchNLo n) (A.sysWatchNHi n) 16 g.n).setReg (A.sysWatchSat n) (BitVec.ofNat 32 (min g.sat (2 ^ 32 - 1)))).setReg
    (A.sysWatchUfz n) (BitVec.ofNat 32 (min g.ufz (2 ^ 32 - 1))))).setReg (A.sysWatchAmax n) (BitVec.ofNat 32 g.amax.toNat)

/-- The verdict of watch n on the figures of the frame before (R157). -/
def watchVerdict (s : State) (n : Nat) : State :=
  let g := lastFig s n
  let sat := decide (s.rf (A.sysWatchLim n) 15 0 * g.n < g.sat * 65536)
  let ufz := decide (s.rf (A.sysWatchLim n) 31 16 * g.n < g.ufz * 65536)
  if s.rf (A.sysWatchCtl n) 0 0 = 1 ∧ g.n ≠ 0 ∧ (sat ∨ ufz ∨ s.rf (A.sysWatchCtl n) 1 1 = 1) then
    s.post [s.watchOwner n] 0x0320 [(1, n), (6, (s.rast.frame - 1).toNat), (1, b2n sat + 2 * b2n ufz)]
  else s

/-- The snapshot at (F + 1, 1, 0): registers, the spars' own AMAX, verdicts, and the gathering of the frame before ends (R153, R155, R157). -/
def watchSnapshot (s : State) : State :=
  let s1 := (List.range 8).foldl snapWatch s
  let s2 := (List.range 8).foldl watchVerdict s1
  let last := 1 - s.fab.side
  let own := (s2.fab.gatherOwn.filter (fun e => decide (e.1 / 512 = last))).map (fun e => (e.1 % 512, e.2))
  { s2 with fab := { s2.fab with
      snapOwn := own
      gather := smDrop (fun k => decide (k / 8 = last)) s2.fab.gather
      gatherOwn := smDrop (fun k => decide (k / 512 = last)) s2.fab.gatherOwn } }

def execWatchSnapshot (s : State) : Host.Outcome State Fault Refusal := .next (watchSnapshot s)

/-! ### The output link -/

/-- The sink is lost: output stops within the line and event 0x020D (R384). The raster, passages and composition continue. A training that has completed since is void. -/
def sinkLost (s : State) : State :=
  let trained : Bool := s.out.trained || (match s.rast.train with | some t => t.done | none => false)
  if s.rf A.rastOutCtl 0 0 = 0 ∨ (s.out.lost ∧ !trained) then s
  else
    let tr : Option Train := s.rast.train.map (fun (t : Train) => { t with done := false })
    ({ s with
      out := { s.out with lost := true, line := [], training := false, trained := false }
      rast := { s.rast with train := tr } }).post [s.owner] 0x020D [s.vF]

def execSinkLost (s : State) : Host.Outcome State Fault Refusal := .next (sinkLost s)

/-- A sink asserts hot-plug: with the output enabled the part starts training (R384). -/
def sinkHotPlug (s : State) : State :=
  if s.rf A.rastOutCtl 0 0 = 1 ∧ s.out.lost then { s with out := { s.out with training := true } } else s

def execSinkHotPlug (s : State) : Host.Outcome State Fault Refusal := .next (sinkHotPlug s)

/-- The retry of output training after a short or a failed training (R405, R610): the shorted driver is tried again. -/
def outputTrainingRetry (s : State) : State :=
  let failed : Bool := match s.rast.train with | some t => t.late && !t.done | none => false
  if s.rf A.rastOutCtl 0 0 = 1 ∧ (s.out.shorted ∨ failed) then { s with out := { s.out with training := true } } else s

def execOutputTrainingRetry (s : State) : Host.Outcome State Fault Refusal := .next (outputTrainingRetry s)

/-- Output training completes: what the part read of the sink, and the lane order and polarity it found (R383, R405, R611). Output
resumes at the next frame boundary. It has no effect where no training is under way. -/
def outputTrainingDone (k : Sink) (rev : Bool) (pol : BitVec 4) (s : State) : State :=
  let waits : Bool := match s.rast.train with | some t => !t.done && (!s.out.lost || s.out.training) | none => false
  if waits ∨ (s.rf A.rastOutCtl 0 0 = 1 ∧ s.out.training) then
    let tr : Option Train := s.rast.train.map (fun (t : Train) => { t with done := true })
    let s1 := { s with
      out := { s.out with sink := some k, training := false, trained := true }
      rast := { s.rast with train := tr } }
    let s2 := if s1.out.shorted then (s1.setRf A.safeEnv 8 5 0).setRf A.safeEnv 9 9 0 else s1
    let s3 := (s2.setRf A.safeLanes 0 0 (b2n rev)).setRf A.safeLanes 4 1 pol.toNat
    if rev ∨ pol ≠ 0 then s3.post [s3.owner] 0x0807 [(1, 0), (1, b2n rev), (1, pol.toNat)] else s3
  else s

def execOutputTrainingDone (k : Sink) (rev : Bool) (pol : BitVec 4) (s : State) : Host.Outcome State Fault Refusal :=
  .next (outputTrainingDone k rev pol s)

/-! ### The display input -/

/-- The bits per component of a RXBPC code, and of RAST_OUT_FMT.BPC. -/
def bpcBits (c : Nat) : Nat := match c with | 0 => 6 | 1 => 8 | 2 => 10 | 3 => 12 | _ => 16

/-- A word of two halves whose first and second are even. -/
def evenSplit (w : Word) : Bool := decide (w.toNat % 2 = 0 ∧ w.toNat / 65536 % 2 = 0)

/-- MATCH: the received format is storable under FMT, and the splits in force are even where it needs them to be (R395, R396). -/
def inputMatch (s : State) : Bool :=
  let w := s.reg A.rastInFmt
  let st := s.reg A.rastInStat
  let enc := fld st 11 10
  let same := if enc = 0 then decide (fld w 10 10 = 1) else decide (fld w 10 10 = 0 ∧ fld w 1 0 = enc - 1)
  let sub := fld w 1 0
  same && decide (fld st 14 12 ≤ 4) && !fmtInvalid w && (decide (sub ≠ 1 ∧ sub ≠ 2) || s.inp.xs.all evenSplit) &&
    (decide (sub ≠ 2) || s.inp.ys.all evenSplit)

/-- MATCH follows the registers; a change of LINK, VIDEO or MATCH from `old` is reported, and a frame partly received when the input
fails is discarded (R397). -/
def inputRefresh (old : Word) (s : State) : State :=
  let s1 := s.setRf A.rastInStat 2 2 (b2n (decide (s.rf A.rastInStat 1 0 = 3) && inputMatch s))
  let st := s1.reg A.rastInStat
  let s2 := if fld st 2 0 ≠ 7 then { s1 with inp := { s1.inp with storing := false } } else s1
  if fld st 2 0 ≠ fld old 2 0 then s2.post [s2.owner] 0x020E [s2.vF, (4, st.toNat)] else s2

/-- What the input takes of a signal (R383, R392): it trains at RBR to UHBR20 on 1, 2 or 4 lanes, and receives video of 6 to 16 bits within the timing limits. -/
def acceptable (x : InSignal) : InSignal :=
  let link := x.link && decide (x.rate.toNat ≤ 6 ∧ x.lanes.toNat ≤ 2)
  let video := x.video && link && decide (x.bpc.toNat ≤ 4 ∧ 640 ≤ x.hact.toNat ∧ x.hact.toNat ≤ 7680 ∧ 480 ≤ x.vact.toNat ∧ x.vact.toNat ≤ 4320)
  { x with link := link, video := video }

/-- The received signal changes (R393, R397). At training of the input the lane order and polarity are corrected (R610). -/
def inputState (x' : InSignal) (s : State) : State :=
  let x := acceptable x'
  let old := s.reg A.rastInStat
  let v := b2n x.link + 2 * b2n x.video + fld old 2 2 * 4 + 8 * b2n x.dsc + x.rate.toNat * 16 + x.lanes.toNat * 256 +
    x.enc.toNat * 1024 + x.bpc.toNat * 4096
  let s1 := (s.setReg A.rastInStat (BitVec.ofNat 32 v)).setReg A.rastInMeas (BitVec.ofNat 32 (x.hact.toNat + x.vact.toNat * 65536))
  let s2 := if x.link ∧ fld old 0 0 = 0 then
      let t := (s1.setRf A.safeLanes 5 5 (b2n x.rev)).setRf A.safeLanes 9 6 x.pol.toNat
      if x.rev ∨ x.pol ≠ 0 then t.post [t.owner] 0x0807 [(1, 1), (1, b2n x.rev), (1, x.pol.toNat)] else t
    else s1
  inputRefresh old s2

def execInputState (x : InSignal) (s : State) : Host.Outcome State Fault Refusal := .next (inputState x s)

/-- A producer starts a new frame in the back member of pair n (R200): a frame still pending is lost. -/
def ingressStart (n : Nat) (s : State) : State :=
  if s.rf (A.rastPairStat n) 1 1 = 1 then
    let s1 := (s.setRf (A.rastPairStat n) 1 1 0).bump (A.rastPairCnt n) 31 16 1
    let s2 := { s1 with rcd := { s1.rcd with dropMask := s1.rcd.dropMask ||| 2 ^ n } }
    s2.post [s2.pairOwner n] 0x0221 [s2.vF, (1, n)]
  else s

/-- The frame in pair n's back member is complete (R197): PENDING sets, and the frame of completion is kept for TAG. -/
def ingressDone (n : Nat) (s : State) : State :=
  let s1 := s.setRf (A.rastPairStat n) 1 1 1
  { s1 with rcd := { s1.rcd with pairDone := smPut 0 s1.rcd.pairDone n (s.rast.frame.toNat % 65536) } }

/-- Pair n is an enabled ingress pair. -/
def State.ingressOn (s : State) (n : Nat) : Bool := s.pairOn n && decide (s.rf (A.rastPairCtl n) 1 1 = 0)

/-- The splits written take effect, and MATCH follows them (R396, R649). -/
def takeSplits (s : State) : State :=
  inputRefresh (s.reg A.rastInStat) { s with inp := { s.inp with
    xs := (List.range 8).map (fun k => s.reg (A.rastInXsplit k))
    ys := (List.range 8).map (fun k => s.reg (A.rastInYsplit k)) } }

/-- A received frame starts: the input begins to store it where MATCH is 1 (R395, R396, R649). -/
def inputFrameStart (s0 : State) : State :=
  let s := if s0.rf A.rastInStat 1 0 = 3 then takeSplits s0 else s0
  let n := s.rf A.rastInCtl 7 4
  if s.rf A.rastInCtl 0 0 = 1 ∧ s.rf A.rastInStat 2 0 = 7 ∧ s.ingressOn n then
    let s1 := ingressStart n s
    { s1 with inp := { s1.inp with storing := true, pair := n } }
  else s

def execInputFrameStart (s : State) : Host.Outcome State Fault Refusal := .next (inputFrameStart s)

/-- A received component of b bits in BITS bits (R395). -/
def storeSampleBits (b bits v : Nat) : Nat :=
  if b ≤ bits then v * 2 ^ (bits - b) else min (rneDiv (v : Int) (2 ^ (b - bits))).toNat (2 ^ bits - 1)

/-- The container bytes of a stored sample (R387, R389). -/
def sampleBytes (w : Word) (v : Nat) : List Byte :=
  leBytes (fmtE w) (if fmtE w = 2 ∧ fld w 5 5 = 0 then v * 2 ^ (16 - fmtBits w) else v)

/-- A rectangle of a received frame in packed planar layout: (offset, byte). `px` holds each plane's samples in raster order, of a
frame `width` pixels wide; the rectangle is x0 to x1 − 1 by y0 to y1 − 1 (R388, R396). -/
def packRect (w : Word) (b : Nat) (px : List (List (BitVec 16))) (width height x0 x1 y0 y1 : Nat) : List (Nat × Byte) :=
  (px.zipIdx.take 3).flatMap (fun pl =>
    let p := pl.2
    let fullW := planeW w p width
    let sub (v : Nat) : Nat := if (p = 1 ∨ p = 2) ∧ (fld w 1 0 = 1 ∨ fld w 1 0 = 2) then ceilDiv v 2 else v
    let subY (v : Nat) : Nat := if (p = 1 ∨ p = 2) ∧ fld w 1 0 = 2 then ceilDiv v 2 else v
    let rows := (List.range (subY (min y1 height) - subY y0)).map (fun r => r + subY y0)
    let cols := (List.range (sub (min x1 width) - sub x0)).map (fun c => c + sub x0)
    let base := planeOfs w p (x1 - x0) (y1 - y0)
    rows.flatMap (fun r => cols.flatMap (fun c =>
      match pl.1[r * fullW + c]? with
      | none => []
      | some v => ((sampleBytes w (storeSampleBits b (fmtBits w) v.toNat)).zipIdx).map (fun q =>
          (base + (r - subY y0) * planePitch w p (x1 - x0) + (c - sub x0) * fmtE w + q.2, q.1)))))

/-- The base of the back member of pair n. -/
def backBase (s : State) (n : Nat) : Nat :=
  let m1 := 1 - s.rf (A.rastPairStat n) 0 0
  4096 * (s.rf (A.rastPairBase n) 22 0 + m1 * s.rf (A.rastPairSize n) 22 0)

/-- The rectangle of a spar's bay written by the input: bytes in rows that are not input rows are discarded, the first of them in a
frame with event 0x0312 (R97, R396). -/
def inputBay (base : Nat) (w : Word) (b : Nat) (px : List (List (BitVec 16))) (s : State) (spar : Nat) : State :=
  if s.absent spar then s else
  let x := (s.inp.xs[spar % 8]?).getD 0
  let y := (s.inp.ys[spar / 8]?).getD 0
  let ws := packRect w b px (s.rf A.rastInMeas 13 0) (s.rf A.rastInMeas 28 16) (fld x 13 0) (fld x 29 16) (fld y 12 0) (fld y 28 16)
  let at' := ws.map (fun q => (base + q.1, q.2))
  let good := at'.filter (fun q => touchesRole s spar q.1 1 2)
  let put := good.map (fun q => (bayKey spar q.1, q.2, 0))
  let s1 := (s.loftMerge spar put).setLoft (s.fab.loft.write put)
  if good.length < at'.length ∧ !s1.inp.roleTold then
    ({ s1 with inp := { s1.inp with roleTold := true } }).post [s1.owner] 0x0312 [s1.vF, (1, spar)]
  else s1

/-- The last write of a received frame lands (R396): its samples stand in the back member and PENDING sets. -/
def inputFrameStored (px : List (List (BitVec 16))) (s : State) : State :=
  if !s.inp.storing then s else
  let n := s.inp.pair
  let w := s.reg A.rastInFmt
  let b := bpcBits (s.rf A.rastInStat 14 12)
  let width := s.rf A.rastInMeas 13 0
  let height := s.rf A.rastInMeas 28 16
  let base := backBase s n
  let s1 := if s.rf (A.rastPairCtl n) 2 2 = 0 then
      let ws := ((packRect w b px width height 0 width 0 height).filter (fun q => base + q.1 < userHbm)).map (fun q => (base + q.1, q.2, 0))
      { s.hbmMerge 3 ws with hbm := s.hbm.write ws }
    else (List.range 64).foldl (inputBay base w b px) s
  ingressDone n { s1 with inp := { s1.inp with storing := false } }

def execInputFrameStored (px : List (List (BitVec 16))) (s : State) : Host.Outcome State Fault Refusal := .next (inputFrameStored px s)

/-! ### AUX: DPCD and EDID (R394) -/

/-- MAX_LINK_RATE of DPCD for a MAXRATE code: the 8b/10b rates. -/
def dpcdRate (r : Nat) : Nat := match r with | 0 => 0x06 | 1 => 0x0A | 2 => 0x14 | _ => 0x1E

/-- The status of a trained lane: clock recovery and equalisation done, symbols locked. -/
def laneStatus (s : State) (n : Nat) : Nat :=
  let lanes : Nat := match s.rf A.rastInStat 9 8 with | 0 => 1 | 1 => 2 | _ => 4
  if s.rf A.rastInStat 0 0 = 1 ∧ n < lanes then 7 else 0

/-- A byte of DPCD as the part presents it (R394): capabilities, and the status of the link as it has trained; fields that a source writes read as written, every
other capability as not supported. The places and codes of the fields are DisplayPort's (PRESUMED, log 45). -/
def dpcdByte (s : State) (a : Nat) : Byte :=
  let c := s.reg A.rastInCtl
  let lanes : Nat := match fld c 17 16 with | 0 => 1 | 1 => 2 | _ => 4
  let v : Option Nat := match a with
    | 0x000 => some 0x14
    | 0x001 => some (dpcdRate (fld c 15 12))
    | 0x002 => some (lanes + 0x40)
    | 0x003 => some 0x80
    | 0x006 => some (if 4 ≤ fld c 15 12 then 0x03 else 0x01)
    | 0x007 => some (b2n (decide (fld c 9 9 = 1)) * 0x40)
    | 0x021 => some 0
    | 0x060 => some (fld c 8 8)
    | 0x061 => some (fld c 8 8 * 0x21)
    | 0x064 => some (fld c 8 8 * 0x2B)
    | 0x066 => some (fld c 8 8)
    | 0x069 => some (fld c 8 8 * 0x1B)
    | 0x06A => some (fld c 8 8 * 0x0E)
    | 0x200 => some 1
    | 0x202 => some (laneStatus s 0 + 16 * laneStatus s 1)
    | 0x203 => some (laneStatus s 2 + 16 * laneStatus s 3)
    | 0x204 => some (s.rf A.rastInStat 0 0)
    | 0x205 => some (s.rf A.rastInStat 1 1)
    | 0x2215 => some (match fld c 15 12 with | 4 => 1 | 5 => 5 | 6 => 7 | _ => 0)
    | _ => none
  match v with
  | some v => BitVec.ofNat 8 v
  | none => smGet 0 s.inp.dpcd a

/-- An EDID byte: of the 512 B held in the registers (R394). -/
def edidByte (s : State) (a : Nat) : Byte :=
  BitVec.ofNat 8 ((s.reg (A.rastInEdid (a % 512 / 4))).toNat / 2 ^ (8 * (a % 4)))

/-- The fields of DPCD that a source writes: link configuration and training. -/
def dpcdWritable (a : Nat) : Bool := decide (0x100 ≤ a ∧ a < 0x200) || decide (a = 0x600)

/-- An AUX request served (R394): the EDID at device 0x50, its segment pointer at 0x30. -/
def auxRequest (r : AuxReq) (s : State) : State :=
  match r with
  | .dpcdRead a n => { s with inp := { s.inp with reply := (List.range n.val).map (fun i => dpcdByte s (a.toNat + i)) } }
  | .dpcdWrite a d =>
    let ws := (d.zipIdx.map (fun q => (a.toNat + q.2, q.1))).filter (fun q => dpcdWritable q.1)
    { s with inp := { s.inp with dpcd := smPutAll 0 s.inp.dpcd ws, reply := [] } }
  | .i2cWrite dev d =>
    match d with
    | [] => { s with inp := { s.inp with reply := [] } }
    | b :: _ =>
      if dev = 0x30 then { s with inp := { s.inp with segment := b.toNat, reply := [] } }
      else if dev = 0x50 then { s with inp := { s.inp with offset := b.toNat, reply := [] } }
      else { s with inp := { s.inp with reply := [] } }
  | .i2cRead dev n =>
    if dev = 0x50 then
      let base := s.inp.segment * 256
      { s with inp := { s.inp with
          reply := (List.range n.val).map (fun i => edidByte s (base + (s.inp.offset + i) % 256))
          offset := (s.inp.offset + n.val) % 256 } }
    else { s with inp := { s.inp with reply := [] } }

/-- A source's AUX request; while IN_HPD is low no source is served. -/
def dpcdAccess (r : AuxReq) (s : State) : State := if s.inp.hpd then auxRequest r s else s

def execDpcdAccess (r : AuxReq) (s : State) : Host.Outcome State Fault Refusal := .next (dpcdAccess r s)

/-- A write of 1 to EDID_UPD by port p drives IN_HPD low (R394, R638). -/
def edidUpd (p : Nat) (s : State) : State :=
  if p = s.owner then { s with inp := { s.inp with hpd := false, pulse := true, segment := 0, offset := 0 } } else s

def execEdidUpd (p : Fin 4) (s : State) : Host.Outcome State Fault Refusal :=
  fromPort p s (s.hostPut p A.rastInCtl (s.reg A.rastInCtl ||| 2) (edidUpd p.val))

/-- After 100 ms the pulse of EDID_UPD ends: IN_HPD is released while the input is enabled (R394, R625). -/
def inHpdRelease (s : State) : State :=
  if s.inp.pulse then { s with inp := { s.inp with hpd := decide (s.rf A.rastInCtl 0 0 = 1), pulse := false } } else s

def execInHpdRelease (s : State) : Host.Outcome State Fault Refusal := .next (inHpdRelease s)

end Sys2Proof.Machine
end

