-- ==== Sys2Proof/Machine/Copy.lean ====
section
/-! DEFINITION. Copy channels (R548 to R550), the BAR2 window (R533 to R535), and the copy and zeroing of what was admitted or withdrawn
(R177, R615). -/

namespace Sys2Proof.Machine

/-! ### Partitions -/

/-- Event 0x0107 of a BAR2 access, once per port and frame (R533). -/
def partViolation (p ofs : Nat) (s : State) : State :=
  let s1 := s.hostErr p 2
  if bitOf s.rcd.partTold p then s1
  else ({ s1 with rcd := { s1.rcd with partTold := s1.rcd.partTold ||| 2 ^ p } }).post [p] 0x0107 [(4, ofs)]

/-! ### BAR2 -/

/-- The user HBM address of an offset of port p's BAR2 window (R533). -/
def bar2Addr (s : State) (p o : Nat) : Nat := 4096 * s.rf (A.hostPartBase p) 22 0 + 4096 * s.prf p A.hostWin 22 0 + o

/-- Firmware slot A (R509, R598). -/
def slotABase : Nat := 0x604000000

/-- The BAR2 window of port p is served: the boot is complete, its clock runs, its group is out of reset and its data path is not wedged. -/
def bar2Served (s : State) (p : Nat) : Bool :=
  decide (s.stage = 0xF) && !s.aon.refLost.contains p && !bitAt (s.reg A.sysDrst) (8 + p) && !bitAt (s.reg A.sysXingWedged) (4 + p)

/-- The offset reaches firmware slot A, in the recovery state of port 0 (R599). -/
def bar2Slot (s : State) (p o n : Nat) : Bool := decide (s.stage = 0xE ∧ p = 0 ∧ o + n ≤ 2 ^ 25) && !s.aon.fuseBad

/-- A read of n bytes at offset o of the BAR2 window (R533, R534): it waits for its stack window. -/
def bar2Read (p o n : Nat) (s : State) : State :=
  let a := bar2Addr s p o
  if bar2Slot s p o n then answer p (s.hbm.fetchN (slotABase + o) n) (s.hbmTake 3 (slotABase + o) n)
  else if !bar2Served s p then answer p [] s
  else if inPart s p a n then bar2Take p (.read a n) s
  else answer p [] (partViolation p o s)

def execBar2Read (p : Fin 4) (o : Word) (n : Fin 4097) (s : State) : Host.Outcome State Fault Refusal :=
  fromPort p s (bar2Read p.val o.toNat n.val s)

/-- A write at offset o of the BAR2 window: bytes with their enables; `psn` is PCIe's poisoned-data indication, and each codeword written is then
stored with M = 1 (R523, R533). It waits for its stack window (R534). -/
def bar2Write (p o : Nat) (ws : List (Option Byte)) (psn : Bool) (s : State) : State :=
  let a := bar2Addr s p o
  let put (b : Nat) : List (Nat × Byte × Nat) := ws.zipIdx.filterMap (fun w => w.1.map (fun v => (b + w.2, v, 2 * b2n psn)))
  let s0 := if psn then s.hostErr p 5 else s
  if bar2Slot s p o ws.length then { s0 with hbm := s.hbm.write (put (slotABase + o)) }
  else if !bar2Served s p then s0
  else if inPart s p a ws.length then bar2Take p (.write (put a)) s0
  else partViolation p o s0

def execBar2Write (p : Fin 4) (o : Word) (ws : List (Option Byte)) (psn : Bool) (s : State) : Host.Outcome State Fault Refusal :=
  fromPort p s (bar2Write p.val o.toNat ws psn s)

/-! ### Descriptors -/

/-- A field of a descriptor: `n` bytes from byte `o`. -/
def descNum (d : List Byte) (o n : Nat) : Nat := fromLe ((d.drop o).take n)

def descH (d : List Byte) : Nat := descNum d 0 8
def descD (d : List Byte) : Nat := descNum d 8 5
def descLen (d : List Byte) : Nat := descNum d 0x10 4
/-- Part to host. -/
def descOut (d : List Byte) : Bool := bitOf (descNum d 0x14 2) 0
def descLoft (d : List Byte) : Bool := bitOf (descNum d 0x14 2) 1
def descAll (d : List Byte) : Bool := bitOf (descNum d 0x14 2) 2
def descSpar (d : List Byte) : Nat := descNum d 0x14 2 / 8 % 64

/-- The bays a descriptor reaches. -/
def descBays (s : State) (d : List Byte) : List Nat := if descAll d then s.spars else [descSpar d]

/-- An admitted image of port p declares a loft range that holds [a, a + len) of a spar's bay (R548). -/
def portDeclares (s : State) (p spar a len : Nat) : Bool :=
  let holds (mask : Nat) (rs : List LoftRange) : Bool :=
    bitOf mask spar && rs.any (fun r => decide (r.len ≠ 0 ∧ r.off ≤ a ∧ a + len ≤ r.off + r.len))
  s.slots.any (fun e => decide (e.2.port = p) &&
    (e.2.passages.any (fun g => holds g.sparMask g.ranges) || (match e.2.fit with | some g => holds g.sparMask g.ranges | none => false)))

/-- The loft range of a descriptor may be copied on a spar. -/
def descBayOk (s : State) (p : Nat) (d : List Byte) (spar : Nat) : Bool :=
  let a := descD d
  let len := descLen d
  !s.absent spar && portDeclares s p spar a len && !touchesRole s spar a len (if descOut d then 1 else 2)

/-- A descriptor is valid (R548). -/
def descValid (s : State) (p : Nat) (d : List Byte) : Bool :=
  let f := descNum d 0x14 2
  let len := descLen d
  decide (descH d % 64 = 0 ∧ descD d % 64 = 0 ∧ descNum d 0x0D 3 = 0 ∧ 64 ≤ len ∧ len ≤ 2 ^ 24 ∧ len % 64 = 0 ∧ f / 2 ^ 11 = 0 ∧
      descNum d 0x16 2 / 2 ^ 12 = 0) &&
    (if descLoft d then decide (descD d < 2 ^ 23) && (descBays s d).all (descBayOk s p d) else !descAll d && inPart s p (descD d) len)

/-- The fence wait of a descriptor is satisfied (R549). -/
def descReady (s : State) (d : List Byte) : Bool :=
  let f := descNum d 0x16 2
  !bitOf f 11 || decide (0 ≤ signedDiff 32 (s.preg (f / 32 % 4) (A.hostFence (f / 128 % 16))).toNat (descNum d 0x18 4))

/-- A copy channel enters ERROR with a cause (R550): the descriptor in progress is abandoned. -/
def copyError (n cause : Nat) (s : State) : State :=
  let x := s.slot n
  (s.setSlot n { x with st := .error, run := none }).post [x.port] 0x0105 [(4, s.handle n), (2, x.head), (1, cause)]

/-- The channel's port can reach its host. -/
def hostReached (s : State) (p : Nat) : Bool := (s.pcfg p).bme && !s.aon.refLost.contains p && !bitAt (s.reg A.sysDrst) (8 + p)

/-- DESCRIPTOR_START on the channel of slot n: its next descriptor is fetched, and starts once its fence wait is satisfied (R548 to R550). `ok`: the
fetch succeeded. -/
def descriptorStart (n : Nat) (ok : Bool) (s : State) : State :=
  let x := s.slot n
  if x.st ≠ .inUse ∨ x.kind ≠ .copy ∨ x.run ≠ none ∨ x.head = x.tail ∨ s.rast.paused ∨ !hostReached s x.port then s
  else if !ok then copyError n 3 s
  else
    let d := (List.range 32).map (fun i => s.hostByte x.port (x.ringBase + 32 * x.head + i))
    if !descValid s x.port d then copyError n 2 s
    else if descReady s d then s.setSlot n { x with run := some ⟨d, 0⟩ }
    else s

def execDescriptorStart (n : Fin 1024) (ok : Bool) (s : State) : Host.Outcome State Fault Refusal := .next (descriptorStart n.val ok s)

/-! ### Batches -/

/-- The sectors of HBM of a descriptor's range from sector k on. -/
def descSectors (s : State) (d : List Byte) (k n : Nat) : List Nat :=
  (List.range n).map (fun i => s.reach 0 true (descD d + 64 * (k + i)) / 64)

/-- How many of the next `left` sectors, at most 64, complete within what remains of the stack window or, their writes landed (R224), of the slack interval
(R549); none where it is not open. -/
def batchLen (s : State) (c : CopyRun) : Nat :=
  let left := min 64 (descLen c.desc / 64 - c.moved)
  if descLoft c.desc then (if s.slk.isOpen then min left (8 * (s.slk.left - 3)) else 0)
  else if s.slk.win ∧ !telemetryWaits s then
    ((List.range left).filter (fun k => (s.slk.playAll (descSectors s c.desc c.moved (k + 1))).2)).length
  else 0

/-- A batch of a descriptor of port p is due and completes: its port's BAR2 accesses come first (R534, R549). -/
def copyFits (s : State) (p : Nat) (c : CopyRun) : Bool :=
  (descLoft c.desc || !s.bar2Q.any (fun e => decide (e.1 = p))) && decide (batchLen s c ≠ 0)

/-- The copy channels in service order: ports rotating after the one last served, and in each its channels rotating after the one that last
started a batch (R549). -/
def copyOrder (s : State) : List Nat :=
  let rot (n last : Nat) : List Nat := (List.range n).map (fun i => (last + 1 + i) % n)
  (rot 4 s.slk.lastPort).flatMap (fun p => (rot 1024 (smGet 1023 s.slk.lastCopy p)).filter (fun n =>
    let x := s.slot n
    decide (x.port = p ∧ x.st = .inUse ∧ x.kind = .copy) && (match x.run with | some c => copyFits s p c | none => false)))

/-- The pair whose producer the channel is: an enabled ingress pair bound to it that the display input does not produce (R197). -/
def copyPair (s : State) (x : Slot) : Option Nat :=
  match x.pair with
  | some n => if s.ingressOn n ∧ !(decide (s.rf A.rastInCtl 0 0 = 1 ∧ s.rf A.rastInCtl 7 4 = n)) then some n else none
  | none => none

/-- A write of the producer into the alias starts a new frame where one is waiting (R200). -/
def producerWrites (x : Slot) (d : List Byte) (a len : Nat) (s : State) : State :=
  match copyPair s x with
  | some n =>
    let b := 4096 * s.rf (A.rastPairBase n) 22 0
    let e := b + 4096 * s.rf (A.rastPairSize n) 22 0
    if decide (s.rf (A.rastPairCtl n) 2 2 = b2n (descLoft d) ∧ a < e ∧ b < a + len) then ingressStart n s else s
  | none => s

/-- Bytes of the part that a host reads. -/
def partBytes (s : State) (d : List Byte) (spar a n : Nat) : List (Byte × Nat) :=
  (List.range n).map (fun i => if descLoft d then s.fab.loft.fetch (bayKey spar (s.reach 1 true (a + i))) else s.hbmByte true (a + i))

/-- A host's reads of loft bytes, recorded: those of the members that it reaches (R196, R527). -/
def hostLoftReads (s : State) (spar a n : Nat) : State :=
  if s.fab.loft.marks = [] ∧ s.fab.loft.flips = [] then s
  else (uniq ((List.range n).map (fun i => bayKey spar (s.reach 1 true (a + i)) / 8))).foldl (fun t cw => t.loftReadCw spar cw false) s

/-- Part to host: a batch of n sectors from sector k (R548, R523). A write finds Bus Master Enable clear: it is dropped (R539). -/
def moveOut (x : Slot) (d : List Byte) (k n : Nat) (s : State) : State :=
  let a := descD d + 64 * k
  let put (t : State) (spar h : Nat) : State :=
    if (t.pcfg x.port).bme then
      t.hostWriteP x.port (h + 64 * k) ((partBytes t d spar a (64 * n)).map (fun b => (b.1, decide (b.2 ≠ 0))))
    else t.hostErr x.port 7
  if descLoft d then
    (descBays s d).foldl (fun t spar =>
      put (hostLoftReads t spar a (64 * n)) spar (descH d + (if descAll d then spar * descLen d else 0))) s
  else put (s.hbmReads 3 true a (64 * n)) 0 (descH d)

/-- Host to part: a batch of n sectors from sector k (R548). `psn`: the completion carried the poisoned-data indication (R523, R550). -/
def moveIn (x : Slot) (d : List Byte) (k n : Nat) (psn : Bool) (s : State) : State :=
  let a := descD d + 64 * k
  let ws := (List.range (64 * n)).map (fun i => (a + i, s.hostByte x.port (descH d + 64 * k + i), 2 * b2n psn))
  let s1 := producerWrites x d a (64 * n) (if psn then s.hostErr x.port 5 else s)
  if descLoft d then
    (descBays s d).foldl (fun (t : State) spar =>
      t.setLoft (t.fab.loft.write (ws.map (fun w => (bayKey spar (t.reach 1 true w.1), w.2))))) s1
  else s1.hbmWrite true ws

/-- A descriptor whose last write has landed completes (R549). -/
def descriptorDone (n : Nat) (d : List Byte) (s : State) : State :=
  let x := s.slot n
  let f := descNum d 0x16 2
  let s1 := s.setSlot n { x with run := none, head := (x.head + 1) % x.ringSize }
  let s2 := if bitOf (descNum d 0x14 2) 9 then (match copyPair s1 x with | some q => ingressDone q s1 | none => s1) else s1
  let s3 := if bitOf f 4 then fenceInc x.port (f % 16) s2 else s2
  if bitOf (descNum d 0x14 2) 10 then s3.post [x.port] 0x0104 [(4, s3.handle n), (4, descNum d 0x1C 4)] else s3

/-- The next batch of slot n moves (R549, R550). -/
def copyBatch (n : Nat) (c : CopyRun) (reply : HostReply) (s : State) : State :=
  let x := s.slot n
  let k := batchLen s c
  let w := if descLoft c.desc then { s.slk with left := s.slk.left - ceilDiv k 8 }
    else (s.slk.playAll (descSectors s c.desc c.moved k)).1
  let s1 := { s with slk := { w with lastPort := x.port, lastCopy := smPut 1023 w.lastCopy x.port n } }
  if !descOut c.desc ∧ reply = .aborted then copyError n 1 s1 else
  let s2 := if descOut c.desc then moveOut x c.desc c.moved k s1 else moveIn x c.desc c.moved k (decide (reply = .poisoned)) s1
  if descLen c.desc / 64 ≤ c.moved + k then descriptorDone n c.desc s2
  else s2.setSlot n { s2.slot n with run := some { c with moved := c.moved + k } }

/-- Copy channels with a descriptor in progress. -/
def copyWaits (s : State) : Bool := s.slots.any (fun e => decide (e.2.kind = .copy ∧ e.2.st = .inUse) && e.2.run.isSome)

/-- A batch that cannot complete within the open window or interval is deferred, and counts (R37). -/
def deferCopy (s : State) : State :=
  if copyWaits s ∧ (s.slk.win || s.slk.isOpen) then
    { s with slk := { s.slk with deferCopy := min (2 ^ 32 - 1) (s.slk.deferCopy + 1) } }
  else s

/-- COPY_BATCH: the scheduler serves the next copy channel whose batch fits (R38, R549). While the part is paused no copy channel issues (R355).
`reply` is how the host's memory answered the batch's reads. -/
def copyServe (reply : HostReply) (s : State) : State :=
  if s.rast.paused then s else
  match copyOrder s with
  | n :: _ => match (s.slot n).run with
    | some c => copyBatch n c reply s
    | none => s
  | [] => deferCopy s

/-- What comes about before the first cycle of the open interval that is offered has done so. -/
def reachOffer (s : State) : State := if s.slk.isOpen then settleTo (s.slk.fin - s.slk.left) 1 s else s

def execCopyBatch (reply : HostReply) (s : State) : Host.Outcome State Fault Refusal := .next (copyServe reply (reachOffer s))

/-! ### PLAN_COPY -/

/-- Firmware has slack to work in: an interval is open, and the part is not paused (R36, R355). -/
def State.slackOpen (s : State) : Bool := s.slk.isOpen && !s.rast.paused

/-- The copy of an admitted plan or image into the bundle and line map stores completes, in slack (R177, R553): event 0x010D. The boundary after makes it
run. -/
def planCopy (n : Nat) (s : State) : State :=
  let x := s.slot n
  if (x.passages = [] ∧ x.fit = none) ∨ x.loaded ∨ !s.slackOpen then s
  else (s.setSlot n { x with loaded := true }).post [x.port] 0x010D [(4, s.handle n)]

def execPlanCopy (n : Fin 1024) (s : State) : Host.Outcome State Fault Refusal := .next (planCopy n.val s)

/-! ### RESOURCE_ZEROING -/

/-- n bytes of a memory from a are zero with valid check bits and no mark; bytes beside them in a codeword are kept (R615). -/
def Mem.clearRange (m : Mem) (a n : Nat) : Mem :=
  let inner (cw : Nat) : Bool := decide (a ≤ 8 * cw ∧ 8 * cw + 8 ≤ a + n)
  let m1 : Mem := ⟨smDrop (fun b => decide (a ≤ b ∧ b < a + n) && inner (b / 8)) m.bytes, smDrop inner m.marks, smDrop inner m.flips⟩
  let edge := if n = 0 then [] else uniq [a / 8, (a + n - 1) / 8]
  m1.write ((edge.filter (fun cw => !inner cw)).flatMap (fun cw =>
    ((List.range 8).filter (fun i => decide (a ≤ 8 * cw + i ∧ 8 * cw + i < a + n))).map (fun i => (8 * cw + i, (0 : Byte), 0))))

/-- The resources that a withdrawn passage or job declared on one spar are zeroed (R615). -/
def zeroSpar (z : Zeroing) (s : State) (n : Nat) : State :=
  let hs := (List.range 32).filter (fun h => bitOf z.slots h)
  let cells (k : Nat) : Bool := decide (k / 4096 / 32 = n) && bitOf z.slots (k / 4096 % 32)
  let f := s.fab
  { s with fab := { f with
      crucible := smDrop cells f.crucible
      descr := hs.foldl (fun m h => smPut ⟨false, 0⟩ m (32 * n + h) ⟨false, 0⟩) f.descr
      sreg := smDrop (fun k => decide (k / 32 = n) && bitOf z.sUse (k % 32)) f.sreg
      areg := smDrop (fun k => decide (k / 8 = n) && bitOf z.aUse (k % 8)) f.areg
      gen := if z.gen then smPut 0 f.gen n 0 else f.gen
      loft := (z.ranges.filter (fun r => !r.shared)).foldl (fun m r => m.clearRange (bayKey n r.off) r.len) f.loft } }

/-- RESOURCE_ZEROING: the oldest of what waits to be zeroed, in slack (R615). -/
def resourceZeroing (s : State) : State :=
  match s.zeroQ with
  | z :: t =>
    if s.slackOpen then ((List.range 64).filter (fun n => bitOf z.spars n && !s.absent n)).foldl (zeroSpar z) { s with zeroQ := t }
    else s
  | [] => s

def execResourceZeroing (s : State) : Host.Outcome State Fault Refusal := .next (resourceZeroing (reachOffer s))

end Sys2Proof.Machine
end

