-- ==== Sys2Proof/Machine/Analyze.lean ====
section
/-! DEFINITION. What admission works out of the words of a program: what each issue occupies, claims, touches and names (R225 to R270),
the expanded schedule of a frame (R184), and the per-cycle checks over it (R32, R59, R89, R104, R263, R512, R658). -/

namespace Sys2Proof.Machine

/-! ### What one issue of a word takes -/

/-- A range that a word reaches: HBM or the bay, written or read, address, length in bytes, alignment. -/
structure Span where
  hbm : Bool
  wr : Bool
  a : Nat
  len : Nat
  al : Nat
deriving DecidableEq, Repr

/-- One issue of a word (R225): its unit (R214), occupancy and λ; the spar port sectors it reads and writes as (offset from the issue, first
sector, sectors); the chunks it sends over the rigging as (offset of the arrival, first sector), with DMODE and DSPAR; its HBM requests as (offset,
sector); the ranges it reaches; and the crucible records, S, B and A registers, watches and pairs it names. `watched`: its output feeds a
watch. -/
structure Wd where
  unit : Nat
  occ : Nat
  lat : Nat
  rd : List (Nat × Nat × Nat)
  wr : List (Nat × Nat × Nat)
  rig : List (Nat × Nat)
  dmode : Nat
  dspar : Nat
  req : List (Nat × Nat)
  spans : List Span
  slots : List Nat
  sRegs : List Nat
  bRd : List Nat
  bWr : List Nat
  aRegs : List Nat
  watch : List Nat
  pairs : List Nat
  watched : Bool
deriving DecidableEq, Repr

/-- A word that holds a unit and takes nothing else. -/
def Wd.plain (unit occ lat : Nat) : Wd := ⟨unit, occ, lat, [], [], [], 0, 0, [], [], [], [], [], [], [], [], [], false⟩

/-- The address registers that address operands name (R222). -/
def opRegs (ops : List Nat) : List Nat := ops.map (fun o => o / 2 ^ 21)

/-- The B registers and the pad register of a word's bounds (R219). -/
def Bounds.bRegs (b : Bounds) : List Nat := [b.wRow, b.wCol, b.rRow, b.rCol].filterMap (fun x => x)
def Bounds.sRegs (b : Bounds) : List Nat := if b.padSel = 1 then [b.padS] else []

/-- The sector of an address within its memory. -/
def secOf (a : Nat) : Nat := a % 2 ^ 35 / 64

/-- A span of the bay read, and one written. -/
def rdSpan (a len al : Nat) : Span := ⟨false, false, a, len, al⟩
def wrSpan (a len al : Nat) : Span := ⟨false, true, a, len, al⟩

/-- MMA and CONV (R63, R65, R243 to R247). -/
def wdTile (conv : Bool) (s : State) (n : Nat) (f : TileF) : Wd :=
  let ea := effAddr s n f.a
  let eb := effAddr s n f.b
  let at' (k : Nat) : Nat := if f.fa = .a4 then k / 2 else if f.fa = .bf16 then 4 * k else k
  let occ := if f.fa = .a4 then (f.ksteps + 1) / 2 else if f.fa = .bf16 then 4 * f.ksteps else f.ksteps
  let wide := if f.fa = .bf16 then 2 else 1
  let two := fld f.cx 31 30 = 1
  let aSecs : List (Nat × Nat × Nat) := (List.range f.ksteps).filterMap (fun (k : Nat) =>
    if conv then
      let cnt : Nat := if f.fa = .a4 then 2 else if f.fa = .bf16 then (if two then 5 else 3) else (if two then 3 else 2)
      some (at' k, secOf (convHalf f ea 0 k / 2), cnt)
    else if f.fa = .a4 ∧ k % 2 = 1 then none
    else some (at' k, secOf (ea + k * f.fa.vec), wide))
  let bSecs : List (Nat × Nat × Nat) := (List.range f.ksteps).filterMap (fun (k : Nat) =>
    if f.fa = .a4 ∧ k % 2 = 1 then none else some (at' k, secOf (eb + k * f.fb.vec), wide))
  let sc (code adr : Nat) : List (Nat × Nat × Nat) :=
    if code = 0 then [] else
      (List.range f.groups).map (fun (g : Nat) => (at' (g * f.grp), secOf (effAddr s n adr + g * scaleVec code), scaleVec code / 64))
  { Wd.plain 1 occ (occ + 8) with
    rd := aSecs ++ bSecs ++ sc f.sca f.sa ++ sc f.scb f.sb
    spans := (tileReads conv s n f).map (fun r => rdSpan r.1 r.2.1 r.2.2)
    slots := slotRecs f.compact f.slot
    sRegs := f.bnd.sRegs ++ (if f.start && f.ancSrc then [f.anchor % 32] else [])
    bRd := f.bnd.bRegs ++ (if conv && decide (fld f.cx 15 15 = 1) then [fld f.cx 14 11] else [])
    aRegs := opRegs ([f.a, f.b] ++ (if f.sca ≠ 0 then [f.sa] else []) ++ (if f.scb ≠ 0 then [f.sb] else [])) }

/-- TLOAD (R248). -/
def wdTload (s : State) (n : Nat) (f : TloadF) : Wd :=
  let src := effAddr s n f.src
  let dst := effAddr s n f.dst
  { Wd.plain 1 128 135 with
    rd := (List.range 64).map (fun (r : Nat) => (r, secOf (src + r * f.pitch), if f.bits = 16 then 3 else 2))
    wr := (List.range 64).map (fun (c : Nat) => (68 + c, secOf (dst + c * 8 * f.bits), if f.bits = 16 then 2 else 1))
    spans := (List.range 64).map (fun r => rdSpan (src + r * f.pitch) (8 * f.bits) 1) ++ [wrSpan dst (512 * f.bits) 1]
    sRegs := f.bnd.sRegs
    bRd := f.bnd.bRegs
    aRegs := opRegs [f.dst, f.src] }

/-- Reads and writes of whole vectors: `n` times, at offsets `off v`, `cnt` sectors from an address with `step` bytes a vector. -/
def vecSecs (n : Nat) (off : Nat → Nat) (a step cnt : Nat) : List (Nat × Nat × Nat) :=
  (List.range n).map (fun (v : Nat) => (off v, secOf (a + v * step), cnt))

/-- A binary vector word (R251). -/
def wdBin (fma : Bool) (s : State) (n : Nat) (f : VecF) : Wd :=
  let nl := binReads fma f
  let len := f.nvec * 512
  let x := effAddr s n f.src1
  let y := effAddr s n f.src2
  let d := effAddr s n f.dst
  let l2 := decide (f.s2k = 0)
  { Wd.plain 2 (f.nvec * nl) (f.nvec * nl + (if fma then 9 else 8)) with
    rd := vecSecs f.nvec (fun v => v * nl) x 512 8 ++ (if l2 then vecSecs f.nvec (fun v => v * nl + 1) y 512 8 else []) ++
      (if fma then vecSecs f.nvec (fun v => v * nl + nl - 1) d 512 8 else [])
    wr := vecSecs f.nvec (fun v => (v + 1) * nl - 1 + (if fma then 6 else 5)) d 512 8
    spans := [rdSpan x len 64] ++ (if l2 then [rdSpan y len 64] else []) ++ (if fma then [rdSpan d len 64] else []) ++ [wrSpan d len 64]
    sRegs := f.bnd.sRegs ++ (if f.s2k = 1 then [f.src2] else [])
    bRd := f.bnd.bRegs
    aRegs := opRegs ([f.dst, f.src1] ++ (if l2 then [f.src2] else [])) }

/-- VCVT and VUN (R251 to R253). -/
def wdUn (vun : Bool) (s : State) (n : Nat) (f : VecF) : Wd :=
  let sh := if vun then (16, 16) else ((cvtShape f.func).1, (cvtShape f.func).2.1)
  let st := if vun then vunSteps f.func else 1
  let x := effAddr s n f.src1
  let d := effAddr s n f.dst
  { Wd.plain 2 (f.nvec * st) (f.nvec * st + (if vun then 12 else 8)) with
    rd := vecSecs f.nvec (fun v => v * st) x (32 * sh.1) (sh.1 / 2)
    wr := vecSecs f.nvec (fun v => if vun then (v + 1) * st + 8 else v + 5) d (32 * sh.2) (sh.2 / 2)
    spans := [rdSpan x (f.nvec * 32 * sh.1) 64, wrSpan d (f.nvec * 32 * sh.2) 64]
    sRegs := f.bnd.sRegs
    bRd := f.bnd.bRegs
    aRegs := opRegs [f.dst, f.src1] }

/-- VRED (R254). -/
def wdVred (s : State) (n : Nat) (w : IWord) (f : VecF) : Wd :=
  let x := effAddr s n f.src1
  { Wd.plain 2 f.nvec (f.nvec + 14) with
    rd := vecSecs f.nvec (fun v => v) x 512 8
    spans := [rdSpan x (f.nvec * 512) 64]
    sRegs := f.bnd.sRegs ++ [fld w 95 91] ++ (if f.ers then [f.src2 % 32] else [])
    bRd := f.bnd.bRegs
    aRegs := opRegs [f.src1] }

/-- VGEN (R251, R255). -/
def wdVgen (s : State) (n : Nat) (w : IWord) (f : VecF) : Wd :=
  let d := effAddr s n f.dst
  { Wd.plain 2 f.nvec (f.nvec + 10) with
    wr := vecSecs f.nvec (fun v => v + 7) d 512 8
    spans := [wrSpan d (f.nvec * 512) 64]
    sRegs := f.bnd.sRegs ++ [fld w 47 43, fld w 47 43 + 1]
    bRd := f.bnd.bRegs
    aRegs := opRegs [f.dst] }

/-- RESC (R257). -/
def wdResc (s : State) (n : Nat) (f : RescF) : Wd :=
  let d := effAddr s n f.dst
  let m := effAddr s n f.m
  { Wd.plain 3 f.nrows (f.nrows + 8) with
    rd := if f.msrc = 2 then [(0, secOf m, 4)] else []
    wr := vecSecs f.nrows (fun v => v + 5) d f.ofmt.vec (if f.ofmt = .bf16 then 2 else 1)
    spans := (if f.msrc = 2 then [rdSpan m 256 1] else []) ++ [wrSpan d (f.nrows * f.ofmt.vec) 64]
    slots := slotRecs f.compact f.slot
    sRegs := f.bnd.sRegs ++ (if f.msrc = 1 then [f.m % 32] else [])
    bRd := f.bnd.bRegs
    aRegs := opRegs ([f.dst] ++ (if f.msrc = 2 then [f.m] else []))
    watch := if f.wen then [f.wid] else []
    watched := f.wen }

/-- QUANT (R259). -/
def wdQuant (s : State) (n : Nat) (f : QuantF) : Wd :=
  let sc := quantScaleSecs f
  let d := effAddr s n f.dst
  let x := effAddr s n f.src
  let q := effAddr s n f.scale
  let occ := sc + f.nvec
  { Wd.plain 3 occ (occ + (if f.burn = 0 then 9 else 16)) with
    rd := vecSecs sc (fun v => v) q 64 1 ++ vecSecs f.nvec (fun v => sc + v) x 512 8
    wr := vecSecs f.nvec (fun v => sc + v + (if f.burn = 0 then 6 else 13)) d (32 * f.ofmt.bits) (f.ofmt.bits / 2)
    spans := [rdSpan x (f.nvec * 512) 64, wrSpan d (f.nvec * 32 * f.ofmt.bits) 64] ++
      (if f.sfmt ≠ 0 then [rdSpan q (quantScaleLen f) 1] else [])
    sRegs := f.bnd.sRegs
    bRd := f.bnd.bRegs
    aRegs := opRegs ([f.dst, f.src] ++ (if f.sfmt ≠ 0 then [f.scale] else []))
    watch := if f.wen then [f.wid] else []
    watched := f.wen }

/-- RATE sectors a cycle of a move, as (offset, first sector, sectors). -/
def moveSecs (f : MoveF) (off a : Nat) : List (Nat × Nat × Nat) :=
  (List.range (ceilDiv f.nsec f.rate)).map (fun (k : Nat) => (off + k, secOf (a + 64 * k * f.rate), min f.rate (f.nsec - k * f.rate)))

/-- The HBM requests of a move (R262). -/
def moveReqs (f : MoveF) (h : Nat) : List (Nat × Nat) := (List.range f.nsec).map (fun (j : Nat) => (j / f.rate, secOf h + j))

/-- LDH and STH (R262). -/
def wdHbm (load : Bool) (s : State) (n reef : Nat) (f : MoveF) : Wd :=
  let x := effAddr s n f.x
  let h := effAddr s n f.y
  let occ := ceilDiv f.nsec f.rate
  { Wd.plain 4 occ (if load then occ + hbmH reef else occ + hbmHw reef - 1) with
    rd := if load then [] else moveSecs f 0 x
    wr := if load then moveSecs f (hbmH reef - 3) x else []
    req := moveReqs f h
    spans := [⟨true, !load, h, 64 * f.nsec, 64⟩, ⟨false, load, x, 64 * f.nsec, 64⟩]
    aRegs := opRegs [f.x, f.y] }

/-- RIG (R102, R264). -/
def wdRig (s : State) (n : Nat) (f : RigF) : Wd :=
  let x := effAddr s n f.src
  let d := effAddr s n f.dst
  { Wd.plain 4 f.nchunk (f.nchunk + 35) with
    rd := vecSecs f.nchunk (fun v => v) x 256 4
    rig := (List.range f.nchunk).map (fun (k : Nat) => (k + 32, secOf (d + 256 * k)))
    dmode := f.dmode
    dspar := f.dspar
    spans := [rdSpan x (256 * f.nchunk) 64, wrSpan d (256 * f.nchunk) 64]
    aRegs := opRegs [f.src, f.dst] }

/-- LSC (R265). -/
def wdLsc (s : State) (n : Nat) (f : MoveF) : Wd :=
  let d := effAddr s n f.x
  let x := effAddr s n f.y
  let occ := ceilDiv f.nsec f.rate
  { Wd.plain 4 occ (occ + 7) with
    rd := moveSecs f 0 x
    wr := moveSecs f 4 d
    spans := [rdSpan x (64 * f.nsec) 64, wrSpan d (64 * f.nsec) 64]
    aRegs := opRegs [f.x, f.y] }

/-- IDXR (R266): the sectors that its entries select are claimed, not known. -/
def wdIdxr (s : State) (n : Nat) (f : Nat × Nat × Nat) : Wd :=
  let d := effAddr s n f.1
  let x := effAddr s n f.2.1
  let at' (g : Nat) : Nat := g / 4 * 5 + 1 + g % 4
  let occ := f.2.2 + ceilDiv f.2.2 4
  { Wd.plain 4 occ (occ + 7) with
    rd := (List.range (ceilDiv f.2.2 4)).map (fun (k : Nat) => (5 * k, secOf (x + 64 * k), 1)) ++
      (List.range f.2.2).map (fun (g : Nat) => (at' g, 0, 8))
    wr := (List.range f.2.2).map (fun (g : Nat) => (at' g + 4, secOf (d + 512 * g), 8))
    spans := [rdSpan x (16 * f.2.2) 64, wrSpan d (512 * f.2.2) 64]
    aRegs := opRegs [f.1, f.2.1] }

/-- A planisher word (R268, R269): it claims all sectors in every cycle of its occupancy. `spans` are the ranges fixed by its fields. -/
def wdPlan (f : PlanF) (occ : Nat) (spans : List Span) : Wd :=
  { Wd.plain 5 occ (occ + 12) with
    rd := (List.range occ).map (fun (k : Nat) => (k, 0, 8))
    wr := (List.range occ).map (fun (k : Nat) => (k, 0, 8))
    spans := spans
    sRegs := f.bnd.sRegs
    bRd := f.bnd.bRegs
    aRegs := opRegs [f.dst, f.src, f.par] }

/-- The base addresses and the parameter block of a planisher word. -/
def planSpans (s : State) (n : Nat) (f : PlanF) (parLen : Nat) : List Span :=
  let e := f.ea s n
  [rdSpan e.2.1 0 64, rdSpan e.2.2 parLen 64, wrSpan e.1 0 64]

/-- PARGMAX's occupancy (R268). -/
def pargOcc (f : PargF) : Nat := ceilDiv f.width 64 * ceilDiv f.ch 4 * (if f.bf then 2 else 1)

/-- What an issue takes, the address registers of the spar being those of `s`; none for a word that faults at decode (R226). -/
def wordWd (s : State) (reef : Nat) (i : Issue) : Option Wd :=
  let n := i.spar.val
  let w := i.word
  let sq : Wd := Wd.plain 0 1 1
  match opOf w with
  | 0x00 => (decBend s i).map (fun _ => Wd.plain 0 0 0)
  | 0x01 => (decLoop s { i with ext := List.replicate (fld w 63 56) 0 }).map (fun _ => sq)
  | 0x10 => (decSli s i).map (fun f => { sq with sRegs := [f.1] })
  | 0x11 => (decSop s i).map (fun f => { sq with sRegs := [f.d, f.a] ++ (if f.imm then [] else [f.b]) })
  | 0x12 => (decSmovb s i).map (fun f => { sq with sRegs := [f.2], bWr := [f.1] })
  | 0x13 => (decAli s i).map (fun f => { sq with aRegs := [f.1] })
  | 0x14 => (decAinc s i).map (fun f => { sq with aRegs := [f.1] })
  | 0x15 => (decSget s i).map (fun f => { sq with sRegs := [f.1], watch := if f.2.1 = 0 then [f.2.2] else [] })
  | 0x16 => (decGset s i).map (fun f => { sq with sRegs := if f.2.2.1 then [] else [f.1, f.2.1] })
  | 0x20 => (decPair 0x20 s i).map (fun n => { Wd.plain 0 1 0 with pairs := [n] })
  | 0x21 => (decPair 0x21 s i).map (fun n => { Wd.plain 0 1 4 with pairs := [n] })
  | 0x22 => (decLine 0x22 s i).map (fun _ => Wd.plain 0 1 0)
  | 0x23 => (decMuster s i).map (fun f => Wd.plain 0 1 f.2)
  | 0x30 => (decEmit s i).map (fun f => { Wd.plain 0 1 0 with spans := [rdSpan (effAddr s n f.addr) 0 1], aRegs := opRegs [f.addr] })
  | 0x31 => (decLine 0x31 s i).map (fun _ => Wd.plain 0 1 4)
  | 0x40 => (decTile false s i).map (wdTile false s n)
  | 0x41 => (decTile true s i).map (wdTile true s n)
  | 0x42 => (decTload s i).map (wdTload s n)
  | 0x43 => (decReduce 0x43 1 s i).map (fun f => { Wd.plain 1 f.nrows (f.nrows + 2) with slots := slotRecs f.compact f.slot })
  | 0x72 => (decReduce 0x72 3 s i).map (fun f => { Wd.plain 3 f.nrows f.nrows with slots := slotRecs f.compact f.slot })
  | 0x53 => (decBin 0x53 s i).map (wdBin true s n)
  | 0x5B => (decUn 0x5B 5 s i).map (wdUn false s n)
  | 0x5C => (decUn 0x5C 7 s i).map (wdUn true s n)
  | 0x5D => (decVred s i).map (wdVred s n w)
  | 0x5E => (decVgen s i).map (wdVgen s n w)
  | 0x70 => (decResc s i).map (wdResc s n)
  | 0x71 => (decQuant s i).map (wdQuant s n)
  | 0x80 => (decMove 0x80 s i).map (wdHbm true s n reef)
  | 0x81 => (decMove 0x81 s i).map (wdHbm false s n reef)
  | 0x82 => (decRig s i).map (wdRig s n)
  | 0x83 => (decMove 0x83 s i).map (wdLsc s n)
  | 0x84 => (decIdxr s i).map (wdIdxr s n)
  | 0x90 => (decPfirst s i).map (fun f => wdPlan f.f f.word.occ
      (planSpans s n f.f (0x240 + f.ks * f.ks * f.cin * 64) ++ [wrSpan (f.f.ea s n).1 (f.width * f.cout) 1]))
  | 0x91 => (decPlast s i).map (fun f => wdPlan f.f f.word.occ (planSpans s n f.f (0x40 + f.ks * f.ks * f.cin * 4)))
  | 0x92 => (decPshuf s i).map (fun f => wdPlan f.f (ceilDiv f.nsec 4) (planSpans s n f.f 64))
  | 0x93 => (decPcrop s i).map (fun f => wdPlan f.f (pcropOcc f) (planSpans s n f.f (0x20 + 16 * f.nbox)))
  | 0x94 => (decParg s i).map (fun f => wdPlan f.f (pargOcc f)
      (planSpans s n f.f 64 ++ [wrSpan (f.f.ea s n).1 (2 * f.width) 1]))
  | op => if 0x50 ≤ op ∧ op ≤ 0x5A then (decBin op s i).map (wdBin false s n) else none

/-! ### The expanded schedule -/

/-- One issue of the expanded schedule: its spar, line, offset and word, what it takes (none: it does not decode), and whether every address
register it names was written earlier in the schedule (R72). -/
structure Use where
  spar : Nat
  line : Nat
  c : Nat
  word : IWord
  wd : Option Wd
  known : Bool
deriving DecidableEq, Repr

/-- The address registers as the schedule leaves them: value and whether it was written earlier, and the writes not yet seen (R72, R181). -/
structure ARegs where
  cur : List (BitVec 40 × Bool)
  pend : List (Nat × BitVec 40 × Bool)
  at' : Nat
deriving DecidableEq, Repr

/-- Before a schedule: no register written. A carried-over value is not known, and stands as 0. -/
def ARegs.start : ARegs := ⟨List.replicate 8 (0, false), [], 0⟩

/-- The writes of an earlier cycle are seen. -/
def ARegs.seen (r : ARegs) (t : Nat) : ARegs :=
  if r.at' = t then r
  else ⟨r.pend.foldl (fun l p => l.set p.1 p.2) r.cur, [], t⟩

/-- The state in which admission reads a word of a spar: its address registers, and the view that the word names in the descriptors (R191). -/
def readIn (s : State) (spar : Nat) (r : ARegs) (w : IWord) : State :=
  let s1 := (r.cur.zipIdx).foldl (fun (t : State) x => t.setA spar x.2 x.1.1) s
  s1.setDescr spar (bitAt w 90) (if bitAt w 90 then fld w 95 91 else fld w 95 91 % 16) 0

/-- An issue read, and the address registers after it. -/
def useStep (s : State) (reef spar line : Nat) (acc : ARegs × List Use) (x : Nat × Nat × Occ) : ARegs × List Use :=
  let r := acc.1.seen x.1
  let o := x.2.2
  let i : Issue := ⟨Fin.ofNat 64 spar, 0, BitVec.ofNat 16 x.2.1, o.word, o.ext, false⟩
  let wd := wordWd (readIn s spar r o.word) reef i
  let known := match wd with
    | some d => d.aRegs.all (fun a => (r.cur.getD a (0, false)).2)
    | none => false
  let wrs : List (Nat × BitVec 40 × Bool) := match opOf o.word, decAli s i, decAinc s i with
    | 0x13, some f, _ => [(f.1, BitVec.ofNat 40 f.2, true)]
    | 0x14, _, some f => let a := r.cur.getD f.1 (0, false); [(f.1, ringInc a.1 f.2.1 f.2.2, a.2)]
    | _, _, _ => []
  (⟨r.cur, r.pend ++ wrs, r.at'⟩, acc.2 ++ [⟨spar, line, x.2.1, o.word, wd, known⟩])

/-- The issues of a line in cycle order, words of one cycle as they stand. -/
def lineIssues (os : List Occ) : List (Nat × Occ) := sortBy (fun x => x.1) (os.flatMap (fun o => o.offs.map (fun c => (c, o))))

/-- The schedule of a spar over a frame of a passage, all its loops expanded (R184). -/
def sparUses (s : State) (g : Passage) (n : Nat) : List Use :=
  ((List.range g.linesTotal).foldl (fun (acc : ARegs × List Use) l =>
    (lineIssues (g.occsOf n l)).foldl (fun a x => useStep s g.reef n l a (l * 2 ^ 40 + x.1 + 1, x.1, x.2)) acc) (ARegs.start, [])).2

/-- The schedule of a passage. -/
def passageUses (s : State) (g : Passage) : List Use := (s.spars.filter (bitOf g.sparMask)).flatMap (sparUses s g)

/-- The schedule of slack bundle k of a fitting image at a reef level; offsets count from the bundle's start. -/
def bundleUses (s : State) (g : FitImage) (reef k : Nat) : List Use :=
  (s.spars.filter (bitOf g.sparMask)).flatMap (fun n =>
    match ((g.sets[reef]?).getD [])[g.setMap.getD n 255]? with
    | some b =>
      let os := (bundleOccs b k).filter (fun o => maskHas (fld o.word 99 96) n (setLeader g.sparMask g.setMap n))
      ((lineIssues os).foldl (fun a x => useStep s reef n 0 a (x.1 + 1, x.1, x.2)) (ARegs.start, [])).2
    | none => [])

/-! ### Checks of a schedule -/

/-- A check that fails: the spar, line and cycle of the refusal, and SHORT (R553, R554). -/
structure Fail where
  spar : Nat
  line : Nat
  c : Nat
  short : Nat
deriving DecidableEq, Repr

/-- The room that a schedule has: its lines, those of slack, the issue window, and the line lengths it must hold for (R658). A slack bundle has one
line, of LEN cycles. -/
structure Room where
  lines : Nat
  slack : Nat → Bool
  w : Nat
  lens : List Nat

/-- The room of a frame in a mode at a reef level (R25, R34, R365). -/
def frameRoom (lt la ps reef : Nat) : Room :=
  let lo := pMin ps reef
  ⟨lt, fun l => decide (la ≤ l ∧ l < la + 4), lo - 256, (List.range (max lo (pMax ps 1000 reef) + 1 - lo)).map (fun k => lo + k)⟩

/-- The room of a slack bundle (R312). -/
def bundleRoom (len : Nat) : Room := ⟨1, fun _ => false, len, [len]⟩

/-- The place of an effect at offset c of line l under line length p (R658); none where it falls in slack or after the last line. -/
def Room.place (r : Room) (p l c : Nat) : Option (Nat × Nat) :=
  if c < r.w then some (l, c)
  else if p ≤ c ∧ c - p < r.w ∧ l + 1 < r.lines ∧ !r.slack (l + 1) then some (l + 1, c - p) else none

/-- A place as one number, lines in order. -/
def placeKey (x : Nat × Nat) : Nat := x.1 * 2 ^ 20 + x.2

/-- An effect of a schedule: whose resource it takes (a spar, or 64 for the planisher), its line and offset, which resource, and the spar named where a
check of it fails. -/
structure Effect where
  of : Nat
  line : Nat
  c : Nat
  what : Nat
  spar : Nat
deriving DecidableEq, Repr

/-- List Effect that fall in slack or beyond the frame for some line length. -/
def misplaced (r : Room) (es : List Effect) : List Fail :=
  es.filterMap (fun e => if r.lens.all (fun p => (r.place p e.line e.c).isSome) then none else some ⟨e.spar, e.line, e.c, 0⟩)

/-- Two effects on one resource in one cycle, for some line length. Neighbours in order of resource and place are compared. -/
def collide (r : Room) (es : List Effect) : List Fail :=
  r.lens.flatMap (fun p =>
    let ks := es.filterMap (fun e => (r.place p e.line e.c).map (fun x => ((e.of * 2 ^ 34 + placeKey x) * 16 + e.what, (⟨e.spar, x.1, x.2, 0⟩ : Fail))))
    let o := sortBy (fun x => x.1) ks
    ((o.zip (o.drop 1)).filter (fun x => decide (x.1.1 = x.2.1))).map (fun x => x.2.2))

/-- The occupied cycles of each unit; the planisher is one unit of the part, so its cycles are nobody's own (R59, R269). -/
def unitCycles (us : List Use) : List Effect :=
  us.flatMap (fun u => match u.wd with
    | some d => (List.range d.occ).map (fun k => ⟨if d.unit = 5 then 64 else u.spar, u.line, u.c + k, d.unit, u.spar⟩)
    | none => [])

/-- The receivers of a rigging move (R103). -/
def receivers (s : State) (d : Wd) : List Nat := rigDests s ⟨0, 0, d.dmode, d.dspar, 0⟩

/-- The bank columns of a run of sectors (R225). -/
def columns (first n : Nat) : List Nat := (List.range n).map (fun j => (first + j) % 8)

/-- The claims of spar port columns: reads are columns 0 to 7, writes 8 to 15, each with the rigging's arrivals (R89, R104). -/
def portClaims (s : State) (us : List Use) : List Effect :=
  us.flatMap (fun u => match u.wd with
    | some d =>
      d.rd.flatMap (fun x => (columns x.2.1 x.2.2).map (fun k => ⟨u.spar, u.line, u.c + x.1, k, u.spar⟩)) ++
      d.wr.flatMap (fun x => (columns x.2.1 x.2.2).map (fun k => ⟨u.spar, u.line, u.c + x.1, 8 + k, u.spar⟩)) ++
      (receivers s d).flatMap (fun q => d.rig.flatMap (fun x => (columns x.2 4).map (fun k => ⟨q, u.line, u.c + x.1, 8 + k, q⟩)))
    | none => [])

/-- The arrivals at each receiver, 256 B each: two in one cycle exceed the receive port (R104). -/
def arrivals (s : State) (us : List Use) : List Effect :=
  us.flatMap (fun u => match u.wd with
    | some d => (receivers s d).flatMap (fun q => d.rig.map (fun x => ⟨q, u.line, u.c + x.1, 0, q⟩))
    | none => [])

/-- Issues at or beyond W (R28, R184), with the shortfall of R554. -/
def lateIssues (r : Room) (us : List Use) : List Fail :=
  let occ (u : Use) : Nat := match u.wd with | some d => max 1 d.occ | none => 1
  let over' := us.foldl (fun (m : Nat) u => max m (u.c + occ u - r.w)) 0
  us.filterMap (fun u => if r.w ≤ u.c then some ⟨u.spar, u.line, u.c, over'⟩ else none)

/-- Conflicts of unit occupancy (R59, R269, R658). -/
def unitFails (r : Room) (us : List Use) : List Fail := misplaced r (unitCycles us) ++ collide r (unitCycles us)

/-- Loft sectors (R89, R90, R244). -/
def portFails (s : State) (r : Room) (us : List Use) : List Fail := misplaced r (portClaims s us) ++ collide r (portClaims s us)

/-- Rigging arrivals (R104). -/
def rigFails (s : State) (r : Room) (us : List Use) : List Fail := misplaced r (arrivals s us) ++ collide r (arrivals s us)

/-- The occupied cycles of a unit of a spar in a frame. -/
def unitLoad (us : List Use) (spar unit : Nat) : Nat :=
  us.foldl (fun (a : Nat) u => match u.wd with
    | some d => if d.unit = unit ∧ (unit = 5 ∨ u.spar = spar) then a + d.occ else a
    | none => a) 0

/-- The ceiling of R32 and R33 on each unit of each spar, in units of 1/200,000 cycle; the planisher is one unit (R269). -/
def ceilingFails (lt ps reef : Nat) (us : List Use) : List Fail :=
  let fg := (pMin ps reef - 256) * (lt - 4)
  -- cycles of the frame are ps · lt · 24 / (1000 · K_r)
  let den := 100000 * ruPerCk reef
  let lim := min (93 * ps * lt * 24) (fg * den)
  let units := (uniq (us.map (fun u => u.spar))).flatMap (fun n => (List.range 6).map (fun k => (n, k)))
  let worst := units.foldl (fun (m : Nat) x => max m (unitLoad us x.1 x.2)) 0
  units.filterMap (fun x => if lim < unitLoad us x.1 x.2 * den then
    some ⟨x.1, 0, 0, ceilDiv (worst * den - lim) (den * max 1 (lt - 4))⟩ else none)

/-! ### The HBM request model -/

/-- A request: its line, cycle, source order (a composition fetch before every spar), sector. -/
structure Req where
  line : Nat
  c : Nat
  ord : Nat
  sector : Nat
deriving DecidableEq, Repr

/-- The requests of a schedule (R262). -/
def useReqs (us : List Use) : List Req :=
  us.flatMap (fun u => match u.wd with
    | some d => d.req.map (fun x => ⟨u.line, u.c + x.1, u.spar + 1, x.2⟩)
    | none => [])

/-- N_f of a memory-plane layer (R428). -/
def fetchSlots (pl : Place) : Nat :=
  let row (p : Nat) : Nat := planePitch pl.fmt p pl.sw / 64 * (if (p = 1 ∨ p = 2) ∧ fld pl.fmt 1 0 = 2 then 2 else 1)
  (if pl.dh = pl.sh then 1 else 4) * (fmtPlanes pl.fmt).foldl (fun a p => a + row p) 0

/-- The slots that a memory-plane layer claims in a frame of `lt` lines, `la` of them active, as (line, cycle), and the requests made in them: sectors in
the order of the fetch (R428). -/
def layerSlots (lt la : Nat) (pl : Place) : List (Nat × Nat × Option Nat) :=
  (List.range la).flatMap (fun (l : Nat) =>
    if pl.dy ≤ l ∧ l < pl.dy + pl.dh then
      let secs := fetchSectors pl (l - pl.dy)
      (List.range (fetchSlots pl)).map (fun (k : Nat) => ((l + lt - 2) % lt, k, secs[k]?))
    else [])

/-- The requests of the layers. -/
def layerReqs (lt la : Nat) (pls : List Place) : List Req :=
  pls.flatMap (fun pl => (layerSlots lt la pl).filterMap (fun x => x.2.2.map (fun q => ⟨x.1, x.2.1, 0, q⟩)))

/-- HBM sector slots in a cycle (R262). -/
def hbmSlots (reef : Nat) : Nat := match reef with | 0 => 8 | 1 => 10 | 2 => 13 | _ => 20

/-- Slots claimed, as (place, spar), by a schedule and the layers (R263, R428). -/
def slotClaims (lt la : Nat) (us : List Use) (pls : List Place) : List (Nat × Nat × Nat) :=
  (useReqs us).map (fun q => (placeKey (q.line, q.c), q.ord - 1, q.line)) ++
    pls.flatMap (fun pl => (layerSlots lt la pl).map (fun x => (placeKey (x.1, x.2.1), 0, x.1)))

/-- Runs of equal keys of a sorted list, with their lengths. -/
def runs : List Nat → List (Nat × Nat)
  | [] => []
  | a :: t => match runs t with
    | (b, n) :: r => if a = b then (b, n + 1) :: r else (a, 1) :: (b, n) :: r
    | [] => [(a, 1)]

/-- The slot count of R263, exceeded in some cycle. SHORT is that of the worst cycle (R554). -/
def slotFails (lt la reef : Nat) (us : List Use) (pls : List Place) : List Fail :=
  let cl := slotClaims lt la us pls
  let cnt := (runs ((sortBy (fun k => k) (cl.map (fun x => x.1))))).filter (fun x => decide (hbmSlots reef < x.2))
  let worst := cnt.foldl (fun (m : Nat) x => max m x.2) 0
  cnt.map (fun x => ⟨((cl.find? (fun y => decide (y.1 = x.1))).map (fun y => y.2.1)).getD 0, x.1 / 2 ^ 20, x.1 % 2 ^ 20,
    ceilDiv (worst - hbmSlots reef) (hbmSlots reef)⟩)

/-- The stack of R512, times in raster units: when each pseudo-channel and bank (key 16·pc + bank) is free. -/
structure Stack where
  pc : List (Nat × Nat)
  bank : List (Nat × Nat)
deriving DecidableEq, Repr

/-- A request at time t: the stack after it, and the delay beyond its limit where it is refused. -/
def Stack.req (k : Stack) (t sec : Nat) : Stack × Nat :=
  let a := t + 960
  let b := 16 * sectorPc sec + sectorBank sec
  let st := max a (max (smGet 0 k.pc (sectorPc sec)) (smGet 0 k.bank b))
  (⟨smPut 0 k.pc (sectorPc sec) (st + 96), smPut 0 k.bank b (st + 960)⟩, st - (a + 480))

/-- Requests of a frame that begins at raster time t0, at a reef level, played in the order of R512; refused requests are answered. -/
def Stack.play (lp reef t0 : Nat) (qs : List Req) (k : Stack) : Stack × List Fail :=
  let kr := ruPerCk reef
  let o := sortBy (fun (q : Req) => ((q.line * lp + q.c) * 128 + q.ord) * 2 ^ 30 + q.sector) qs
  o.foldl (fun (acc : Stack × List Fail) q =>
    let r := acc.1.req (t0 + (q.line * lp + q.c) * kr) q.sector
    (r.1, if r.2 = 0 then acc.2 else acc.2 ++ [⟨q.ord - 1, q.line, q.c, ceilDiv r.2 kr⟩])) (k, [])

/-- The model of R512 over a frame at reef r1 and the next at each reef of `rs`, requests by reef level; every line at P_min. Refusals stand under the
reef of their frame. -/
def stackFails (lt ps r1 : Nat) (qs : Nat → List Req) (rs : List Nat) : List (Nat × Fail) :=
  let p (r : Nat) : Nat := pMin ps r
  let first := Stack.play (p r1) r1 0 (qs r1) ⟨[], []⟩
  first.2.map (fun x => (r1, x)) ++ rs.flatMap (fun r2 =>
    ((Stack.play (p r2) r2 (lt * p r1 * ruPerCk r1) (qs r2) first.1).2).map (fun x => (r2, x)))

end Sys2Proof.Machine
end

