-- ==== Sys2Proof/Machine/Header.lean ====
section
/-! DEFINITION. Sail plan tables, passage images and fitting images in HBM (R171 to R173, R306, R307, R552): how admission reads them, and what
makes a header, a directory or a bundle malformed (R174, R179, R183, R217, R226, R230). -/

namespace Sys2Proof.Machine

/-- A refusal of an admission (R553): code, reef level, and the check that fails. -/
structure Refused where
  code : Nat
  reef : Nat
  at' : Fail
deriving DecidableEq, Repr

/-- A refusal that names no place. -/
def refuse (code reef : Nat) : Refused := ⟨code, reef, ⟨0, 0, 0, 0⟩⟩

/-- Some codeword of a range is delivered poisoned (R504, R553). -/
def State.hbmPoisoned (s : State) (a n : Nat) : Bool :=
  if s.hbm.marks = [] ∧ s.hbm.flips = [] then false else (List.range n).any (fun i => decide ((s.hbm.fetch (a + i)).2 ≠ 0))

/-- A range that admission reads: inside the partition of the port, and not poisoned. -/
def readable (s : State) (p reef a n : Nat) : Option Refused :=
  if !inPart s p a n then some (refuse 0x16 reef) else if s.hbmPoisoned a n then some (refuse 0x19 reef) else none

/-- The first refusal of some steps, the later ones worked out only where the earlier pass. -/
def orElse (a : Option Refused) (b : Unit → Option Refused) : Option Refused := match a with | some r => some r | none => b ()

/-! ### Sail plan table (R552) -/

/-- The fields of a table: REEFS and the four image addresses. -/
def tableReefs (s : State) (a : Nat) : Nat := s.imgNum (a + 3) 1
def tableImage (s : State) (a r : Nat) : Nat := s.imgNum (a + 8 + 8 * r) 8

/-- A table that is refused: reserved values, no passage, or an image address where none belongs. -/
def tableBad (s : State) (a : Nat) : Bool :=
  let reefs := tableReefs s a
  let storm := s.imgNum (a + 4) 1
  decide (reefs = 0 ∨ 16 ≤ reefs ∨ storm ||| reefs ≠ reefs ∨ s.imgNum (a + 5) 3 ≠ 0 ∨ s.imgNum (a + 0x28) 24 ≠ 0) ||
    (List.range 4).any (fun r => !bitOf reefs r && decide (tableImage s a r ≠ 0))

/-! ### Bundles -/

/-- The words of a bundle from its first, or of a loop body (R179, R183, R218, R230): offsets do not decrease, loops nest to a depth of 4 within one
another, a bundle ends at a BEND and a body holds none. The first argument bounds the recursion. -/
def bundleOk : Nat → List IWord → Nat → Nat → Bool
  | 0, _, _, _ => false
  | _ + 1, [], depth, _ => decide (depth ≠ 0)
  | n + 1, w :: t, depth, last =>
    if offOf w < last then false
    else if opOf w = opBend then decide (depth = 0)
    else if opOf w = opLoop then
      let b := fld w 63 56
      decide (depth < 4 ∧ b ≤ t.length) && bundleOk n (t.take b) (depth + 1) 0 && bundleOk n (t.drop b) depth (offOf w)
    else bundleOk n (t.drop (t.takeWhile isExt).length) depth (offOf w)

/-- A word of a set decodes (R226). An extension word counts with its main word. -/
def setWordsOk (s : State) : Nat → List IWord → Bool
  | 0, _ => true
  | _ + 1, [] => true
  | n + 1, w :: t =>
    let e := if opOf w = opBend ∨ opOf w = opLoop then [] else t.takeWhile isExt
    (wordWd (readIn s 0 ARegs.start w) 0 ⟨0, 0, 0, w, e, false⟩).isSome && setWordsOk s n (t.drop e.length)

/-- A set is well formed (R173, R179): its line map and every bundle and word. -/
def setOk (s : State) (b : BundleSet) : Bool :=
  setWordsOk s (b.words.length + 1) b.words &&
    (uniq (b.lineMap.map (fun e => e.toNat))).all (fun e =>
      decide (e < 2 ^ 15) && (decide (2 ^ 14 ≤ e) ||
        (decide (e < b.words.length) && bundleOk (b.words.length + 1) (b.words.drop e) 0 0)))

/-- A set as its directory entry at `d` names it, `n` line map entries long, in the image at `a`. -/
def readSet (s : State) (a d n : Nat) : BundleSet :=
  let o := a + s.imgNum d 8
  ⟨(List.range n).map (fun l => BitVec.ofNat 32 (s.imgNum (o + 4 * l) 4)),
    (List.range (s.imgNum (d + 8) 4)).map (fun k => BitVec.ofNat 128 (s.imgNum (o + 4 * n + 16 * k) 16))⟩

/-- The set of a directory entry can be read (R173). -/
def setReadable (s : State) (p reef a d n : Nat) : Option Refused :=
  if s.imgNum (d + 12) 4 ≠ 0 then some (refuse 1 reef)
  else readable s p reef (a + s.imgNum d 8) (4 * n + 16 * s.imgNum (d + 8) 4)

/-- The first refusal over a directory of `k` entries at `d`. -/
def dirReadable (s : State) (p reef a d k n : Nat) : Option Refused :=
  orElse (readable s p reef d (16 * k)) (fun _ => (List.range k).findSome? (fun j => setReadable s p reef a (d + 16 * j) n))

/-! ### Declarations that passages and fitting images share -/

/-- LOFT_RANGES at an address (R172). -/
def readRanges (s : State) (a : Nat) : List LoftRange :=
  (List.range 16).map (fun k =>
    let l := s.imgNum (a + 8 * k + 4) 4
    ⟨s.imgNum (a + 8 * k) 4 % 2 ^ 23, l % 2 ^ 24, bitOf l 31⟩)

/-- The reserved bits of LOFT_RANGES are 0. -/
def rangesOk (s : State) (a : Nat) : Bool :=
  (List.range 16).all (fun k => decide (s.imgNum (a + 8 * k) 4 < 2 ^ 23 ∧ s.imgNum (a + 8 * k + 4) 4 % 2 ^ 31 < 2 ^ 24))

/-- SET_MAP at an address: a set below the count for every spar of the mask, 0xFF elsewhere (R172, R174). -/
def readSetMap (s : State) (a : Nat) : List Nat := (List.range 64).map (fun n => s.imgNum (a + n) 1)
def setMapOk (m : List Nat) (mask count : Nat) : Bool :=
  (List.range 64).all (fun n => if bitOf mask n then decide (m.getD n 255 < count) else decide (m.getD n 255 = 255))

/-! ### Passage images -/

/-- A passage image at `a` (R172, R173). -/
def readPassage (s : State) (a : Nat) : Passage :=
  let lt := s.imgNum (a + 4) 2
  { image := a
    reef := s.imgNum (a + 3) 1
    linesTotal := lt
    linesActive := s.imgNum (a + 6) 2
    linePeriod := s.imgNum (a + 8) 4
    w := s.imgNum (a + 0xC) 2
    layers := s.imgNum (a + 0xF) 1
    sparMask := s.imgNum (a + 0x10) 8
    slotUse := s.imgNum (a + 0x18) 4
    sUse := s.imgNum (a + 0x1C) 4
    bUse := s.imgNum (a + 0x20) 2
    aUse := s.imgNum (a + 0x22) 1
    watchUse := s.imgNum (a + 0x23) 1
    gen := bitOf (s.imgNum (a + 0x24) 4) 0
    segsPerLine := (List.range 8).map (fun l => s.imgNum (a + 0x28 + l) 1)
    ranges := readRanges s (a + 0x30)
    pairUse := s.imgNum (a + 0xB0) 2
    setMap := readSetMap s (a + 0xC0)
    sets := (List.range (s.imgNum (a + 0xE) 1)).map (fun k => readSet s a (a + 0x100 + 16 * k) lt) }

/-- A header field of a passage image holds a reserved value, or the image is of another reef (R172, R174, R552). -/
def passageHeadBad (s : State) (a r : Nat) : Bool :=
  let lt := s.imgNum (a + 4) 2
  let k := s.imgNum (a + 0xE) 1
  decide (a % 4096 ≠ 0 ∨ s.imgNum (a + 3) 1 ≠ r ∨ lt < 2 ∨ 8191 < lt ∨ k = 0 ∨ 64 < k ∨ 2 ≤ s.imgNum (a + 0x24) 4 ∨
      s.imgNum (a + 0xB2) 14 ≠ 0) ||
    (List.range 8).any (fun l => decide (64 < s.imgNum (a + 0x28 + l) 1)) || !rangesOk s (a + 0x30) ||
    !setMapOk (readSetMap s (a + 0xC0)) (s.imgNum (a + 0x10) 8) k

/-- What refuses the image of reef r before its words are analysed (codes 0x0016, 0x0019, 0x0002, 0x0001). -/
def passageUnread (s : State) (p a r : Nat) : Option Refused :=
  orElse (readable s p r a 0x100) fun _ =>
    if s.imgNum a 2 ≠ 0x9160 ∨ s.imgNum (a + 2) 1 ≠ 1 then some (refuse 2 r)
    else if passageHeadBad s a r then some (refuse 1 r)
    else orElse (dirReadable s p r a (a + 0x100) (s.imgNum (a + 0xE) 1) (s.imgNum (a + 4) 2)) fun _ =>
      if (readPassage s a).sets.all (setOk s) then none else some (refuse 1 r)

/-! ### Fitting images -/

/-- The reef section of reef r of a fitting image at `a` (R307). -/
def fitSection (s : State) (a r : Nat) : Nat := a + s.imgNum (a + 0x40 + 4 * r) 4

/-- The sections present. -/
def fitReefs (s : State) (a : Nat) : List Nat := (List.range 4).filter (bitOf (s.imgNum (a + 3) 1))

/-- A fitting image at `a` (R306, R307). -/
def readFit (s : State) (a : Nat) : FitImage :=
  let nb := s.imgNum (a + 0x1C) 1
  let here (r : Nat) : Bool := bitOf (s.imgNum (a + 3) 1) r
  { image := a
    reefMask := s.imgNum (a + 3) 1
    steps := s.imgNum (a + 4) 4
    sparMask := s.imgNum (a + 8) 8
    slotUse := s.imgNum (a + 0x10) 4
    sUse := s.imgNum (a + 0x14) 4
    bUse := s.imgNum (a + 0x18) 2
    aUse := s.imgNum (a + 0x1A) 1
    gen := bitOf (s.imgNum (a + 0x1B) 1) 0
    nbund := nb
    psteps := s.imgNum (a + 0x1E) 2
    wlim := (List.range 8).map (fun k => (s.imgNum (a + 0x20 + 4 * k) 2, s.imgNum (a + 0x22 + 4 * k) 2))
    reefOfs := (List.range 4).map (fun r => s.imgNum (a + 0x40 + 4 * r) 4)
    ranges := readRanges s (a + 0x50)
    setMap := readSetMap s (a + 0xD0)
    table := (List.range 4).map (fun r => if here r then (List.range nb).map (fun k =>
      let e := fitSection s a r + 8 + 8 * k
      (bitOf (s.imgNum e 2) 0, bitOf (s.imgNum e 2) 1, s.imgNum (e + 2) 2)) else [])
    sets := (List.range 4).map (fun r => if here r then
      (List.range (s.imgNum (fitSection s a r) 1)).map (fun k => readSet s a (fitSection s a r + 8 + 8 * nb + 16 * k) nb) else []) }

/-- A header field of a fitting image holds a reserved value (R306). -/
def fitHeadBad (s : State) (a : Nat) : Bool :=
  let nb := s.imgNum (a + 0x1C) 1
  decide (16 ≤ s.imgNum (a + 3) 1 ∨ 2 ≤ s.imgNum (a + 0x1B) 1 ∨ nb = 0 ∨ 32 < nb ∨ s.imgNum (a + 0x1D) 1 ≠ 0 ∨
      s.imgNum (a + 0x1E) 2 = 0 ∨ s.imgNum (a + 0x110) 240 ≠ 0) || !rangesOk s (a + 0x50) ||
    (List.range 4).any (fun r => !bitOf (s.imgNum (a + 3) 1) r && decide (s.imgNum (a + 0x40 + 4 * r) 4 ≠ 0))

/-- The head of a reef section holds a reserved value (R307). -/
def fitSectionBad (s : State) (a r : Nat) : Bool :=
  let b := fitSection s a r
  let nb := s.imgNum (a + 0x1C) 1
  let k := s.imgNum b 1
  let es := (List.range nb).map (fun j => b + 8 + 8 * j)
  decide (k = 0 ∨ 64 < k ∨ s.imgNum (b + 1) 7 ≠ 0) || !setMapOk (readSetMap s (a + 0xD0)) (s.imgNum (a + 8) 8) k ||
    es.any (fun e => decide (4 ≤ s.imgNum e 2 ∨ s.imgNum (e + 2) 2 = 0 ∨ s.imgNum (e + 4) 4 ≠ 0)) ||
    decide (1 < (es.filter (fun e => bitOf (s.imgNum e 2) 1)).length)

/-- What refuses a reef section before its words are analysed. -/
def fitSectionUnread (s : State) (p a r : Nat) : Option Refused :=
  let b := fitSection s a r
  let nb := s.imgNum (a + 0x1C) 1
  orElse (readable s p r b (8 + 8 * nb)) fun _ =>
    if fitSectionBad s a r then some (refuse 1 r)
    else dirReadable s p r a (b + 8 + 8 * nb) (s.imgNum b 1) nb

/-- What refuses a fitting image before its words are analysed. -/
def fitUnread (s : State) (p a : Nat) : Option Refused :=
  orElse (readable s p 0 a 0x200) fun _ =>
    if s.imgNum a 2 ≠ 0x9160 ∨ s.imgNum (a + 2) 1 ≠ 0x81 then some (refuse 2 0)
    else if fitHeadBad s a then some (refuse 1 0)
    else orElse ((fitReefs s a).findSome? (fitSectionUnread s p a)) fun _ =>
      (fitReefs s a).findSome? (fun r => if (((readFit s a).sets[r]?).getD []).all (setOk s) then none else some (refuse 1 r))

end Sys2Proof.Machine
end

