-- ==== Sys2Proof/Machine/Admission.lean ====
section
/-! DEFINITION. Admission (R553): the checks of a sail plan or a fitting image against what is in force and admitted, and the command ADMISSION. -/

namespace Sys2Proof.Machine

/-! ### What a passage or job declares -/

/-- A range of a bay that a program may reach: the spars, offset, length, and whether it is shared (R172, R192, R264). -/
structure Area where
  spars : Nat
  off : Nat
  len : Nat
  shared : Bool
deriving DecidableEq, Repr

/-- What admission holds against other programs (R156, R192, R201, R313): `job` is the job number of a fitting image. `writes` are the bay ranges
that its words are known to write. -/
structure Decl where
  job : Option Nat
  spars : Nat
  slots : Nat
  s : Nat
  b : Nat
  a : Nat
  watch : Nat
  gen : Bool
  pairs : Nat
  areas : List Area
  writes : List Area
deriving DecidableEq, Repr

/-- A mask of numbers. -/
def maskOf (l : List Nat) : Nat := l.foldl (fun m n => m ||| 2 ^ n) 0

/-- The spars on which a span of a use falls: its own, or the receivers of a rigging move's destination (R264). -/
def spanSpars (s : State) (u : Use) (d : Wd) (x : Span) : Nat :=
  if d.rig ≠ [] ∧ x.wr then maskOf (receivers s d) else 2 ^ u.spar

/-- The known spans of a schedule. -/
def knownSpans (us : List Use) : List (Use × Wd × Span) :=
  us.flatMap (fun u => match u.wd with
    | some d => if u.known then d.spans.map (fun x => (u, d, x)) else []
    | none => [])

/-- The bay ranges that a schedule is known to write. -/
def writtenAreas (s : State) (us : List Use) : List Area :=
  (knownSpans us).filterMap (fun x =>
    if x.2.2.wr ∧ !x.2.2.hbm ∧ x.2.2.len ≠ 0 then some ⟨spanSpars s x.1 x.2.1 x.2.2, x.2.2.a, x.2.2.len, false⟩ else none)

/-- The destinations of rigging moves, as accesses on every receiver's spar (R192, R264). -/
def rigAreas (s : State) (rs : List LoftRange) (us : List Use) : List Area :=
  (knownSpans us).filterMap (fun x =>
    if x.2.1.rig ≠ [] ∧ x.2.2.wr then
      some ⟨maskOf (receivers s x.2.1), x.2.2.a, x.2.2.len, inRanges (rs.filter (fun r => r.shared)) x.2.2.a x.2.2.len⟩ else none)

/-- The declared ranges on the spars of a mask. -/
def rangeAreas (mask : Nat) (rs : List LoftRange) : List Area :=
  (rs.filter (fun r => decide (r.len ≠ 0))).map (fun r => ⟨mask, r.off, r.len, r.shared⟩)

def declOf (s : State) (g : Passage) : Decl :=
  let us := passageUses s g
  ⟨none, g.sparMask, g.slotUse, g.sUse, g.bUse, g.aUse, g.watchUse, g.gen, g.pairUse,
    rangeAreas g.sparMask g.ranges ++ rigAreas s g.ranges us, writtenAreas s us⟩

/-- The schedules of all bundles of a fitting image. -/
def fitUses (s : State) (g : FitImage) : List Use :=
  (List.range 4).flatMap (fun r => if bitOf g.reefMask r then (List.range g.nbund).flatMap (bundleUses s g r) else [])

def declOfFit (s : State) (n : Nat) (g : FitImage) : Decl :=
  let us := fitUses s g
  ⟨some n, g.sparMask, g.slotUse, g.sUse, g.bUse, g.aUse, 0, g.gen, 0,
    rangeAreas g.sparMask g.ranges ++ rigAreas s g.ranges us, writtenAreas s us⟩

/-- M0 of job n's publication alias where it lies in the loft, and in either memory (R319). -/
def aliasM0 (s : State) (n : Nat) : Nat × Nat := (4096 * s.rf (A.chanFitPbase n) 22 0, 4096 * s.rf (A.chanFitPsize n) 22 0)

/-- Two areas overlap on some spar. -/
def Area.meets (x y : Area) : Bool := decide (x.spars &&& y.spars ≠ 0 ∧ x.off < y.off + y.len ∧ y.off < x.off + x.len ∧ x.len ≠ 0 ∧ y.len ≠ 0)

/-- The part of two areas that both hold. -/
def Area.common (x y : Area) : Area :=
  let lo := max x.off y.off
  ⟨x.spars &&& y.spars, lo, min (x.off + x.len) (y.off + y.len) - lo, false⟩

/-- Bay ranges that a program is known to write meet an area. -/
def Decl.writesIn (d : Decl) (z : Area) : Bool := d.writes.any (fun w => w.meets z)

/-- The part lies in the publication alias of p, a job, and q is a passage that only reads it (R313, R319). -/
def aliasShare (s : State) (p q : Decl) (z : Area) : Bool :=
  match p.job with
  | some n =>
    let m := aliasM0 s n
    decide (q.job = none ∧ s.rf (A.chanFitCtl n) 1 1 = 1 ∧ m.1 ≤ z.off ∧ z.off + z.len ≤ m.1 + m.2) && !q.writesIn z
  | none => false

/-- An overlap of declared ranges is allowed: both mark it SHARED, and with a job neither writes it, or it is the alias of a job, which passages only read (R192,
R313). -/
def mayShare (s : State) (p q : Decl) (x y : Area) : Bool :=
  let z := x.common y
  aliasShare s p q z || aliasShare s q p z ||
    (x.shared && y.shared && ((p.job.isNone && q.job.isNone) || !(p.writesIn z || q.writesIn z)))

/-- The lowest spar on which two programs' declarations conflict (R192); a watch conflicts on the whole part (R156). -/
def declConflict (s : State) (p q : Decl) : Option Nat :=
  let c := p.spars &&& q.spars
  let regs := p.slots &&& q.slots ≠ 0 ∨ p.s &&& q.s ≠ 0 ∨ p.b &&& q.b ≠ 0 ∨ p.a &&& q.a ≠ 0 ∨ (p.gen ∧ q.gen)
  let low (m : Nat) : Nat := (lowestBit 64 m).getD 0
  if c ≠ 0 ∧ regs then some (low c)
  else if p.watch &&& q.watch ≠ 0 then some (low p.spars)
  else (p.areas.flatMap (fun x => (q.areas.filter (fun y => x.meets y && !mayShare s p q x y)).map (fun y => low (x.spars &&& y.spars)))).head?

/-! ### Checks of one passage -/

/-- A failing check with its code. -/
abbrev Fails := List (Nat × Fail)

/-- Failing checks under one code. -/
def under (code : Nat) (l : List Fail) : Fails := l.map (fun f => (code, f))

/-- The place of a use. -/
def Use.at' (u : Use) : Fail := ⟨u.spar, u.line, u.c, 0⟩

/-- The mode, W and limits (R26, R174). -/
def modeFails (g : Passage) : Fails :=
  if g.linesActive = 0 ∨ g.linesTotal < g.linesActive + 8 ∨ g.linePeriod = 0 ∨ g.w + 256 ≠ pMin g.linePeriod g.reef ∨
      pMin g.linePeriod g.reef < 1024 ∨ 65536 * 12 * 1000 * 10000 < g.linePeriod * 24 * 10003 then [(3, ⟨0, 0, 0, 0⟩)] else []

/-- Absent spars, and absent rigging destinations (R112, R174). -/
def absentFails (s : State) (mask : Nat) (us : List Use) : Fails :=
  ((List.range 64).filter (fun n => bitOf mask n && s.absent n)).map (fun n => (4, (⟨n, 0, 0, 0⟩ : Fail))) ++
    us.filterMap (fun u => match u.wd with
      | some d => if d.rig ≠ [] ∧ d.dmode = 0 ∧ s.absent d.dspar then some (4, u.at') else none
      | none => none)

/-- Bundles in slack lines (R35). -/
def slackFails (g : Passage) : Fails :=
  ((List.range 64).filter (bitOf g.sparMask)).flatMap (fun n => (List.range 4).filterMap (fun (k : Nat) =>
    let l := g.linesActive + k
    match g.sets[g.setMap.getD n 255]? with
    | some b => if fld (b.lineMap.getD l 0) 14 14 = 0 then some (6, (⟨n, l, 0, 0⟩ : Fail)) else none
    | none => none))

/-- What the words name and reach beyond the declarations, the bay, and the port's partition (R72, R192, R538). -/
def nameFails (s : State) (p : Nat) (slots sM bM aM watch : Nat) (rs : List LoftRange) (us : List Use) : Fails :=
  us.flatMap (fun u => match u.wd with
    | none => [(1, u.at')]
    | some d =>
      (if d.slots.any (fun h => !bitOf slots h) ∨ d.sRegs.any (fun k => !bitOf sM k) ∨ d.bWr.any (fun k => !bitOf bM k) ∨
          d.aRegs.any (fun k => !bitOf aM k) ∨ d.watch.any (fun k => !bitOf watch k) then [(0xC, u.at')] else []) ++
      (if u.known then d.spans.flatMap (fun x =>
        (if x.a % x.al ≠ 0 then [(1, u.at')] else []) ++
        (if x.hbm then (if hbmOk x.a x.len ∧ inPart s p (x.a - 2 ^ 39) x.len then [] else [(0x16, u.at')])
         else if loftOk x.a x.len ∧ (x.len = 0 ∨ inRanges rs x.a x.len) then [] else [(0xC, u.at')])) else []))

/-- A range reaches the M0 range of an enabled pair (R201). -/
def reachesPair (s : State) (n : Nat) (x : Span) : Bool :=
  let a := if x.hbm then x.a - 2 ^ 39 else x.a
  let b := 4096 * s.rf (A.rastPairBase n) 22 0
  decide (s.pairOn n = true ∧ (s.rf (A.rastPairCtl n) 2 2 = 1 ↔ x.hbm = false) ∧ a < b + 4096 * s.rf (A.rastPairSize n) 22 0 ∧ b < a + x.len ∧
    x.len ≠ 0)

/-- The fence tests of a pair. -/
def testsOf (us : List Use) (n : Nat) : List Use := us.filter (fun u => decide (opOf u.word = 0x20 ∧ fld u.word 95 92 = n))

/-- Frame pair use (R201): undeclared pairs, tests more than once, and accesses of an ingress alias without or before its test. -/
def pairFails (s : State) (g : Passage) (us : List Use) : Fails :=
  let undecl := us.filterMap (fun u => match u.wd with
    | some d => if d.pairs.any (fun n => !bitOf g.pairUse n) then some (0xD, u.at') else none
    | none => none)
  let twice := (List.range 16).flatMap (fun n => ((testsOf us n).drop 1).map (fun u => (0xD, u.at')))
  let early := (List.range 16).flatMap (fun n => (knownSpans us).filterMap (fun x =>
    if reachesPair s n x.2.2 then
      let u := x.1
      let tested := (testsOf us n).any (fun v => decide (v.line < u.line ∨ (v.line = u.line ∧ v.c ≤ u.c)))
      if !bitOf g.pairUse n ∨ (s.rf (A.rastPairCtl n) 1 1 = 0 ∧ !tested) then some (0xD, u.at') else none
    else none))
  undecl ++ twice ++ early

/-- The line that an EMIT, MARK or AWAIT names (R237). -/
def usesLine (lt : Nat) (u : Use) : Nat :=
  if fld u.word 68 68 = 0 then fld u.word 67 55 else (((u.line : Int) + sfld u.word 67 55) % (max 1 lt : Nat)).toNat

/-- A segment that an EMIT of a passage declares: layer, line, first pixel, width, its use, and its bay offset where it is known. -/
structure SegUse where
  layer : Nat
  line : Nat
  x0 : Nat
  width : Nat
  use : Use
  base : Option Nat
deriving DecidableEq, Repr

/-- The segments of a schedule (R205), their bay offsets worked out as the other addresses are. -/
def segUses (lt : Nat) (us : List Use) : List SegUse :=
  us.filterMap (fun u => if opOf u.word = 0x30 then
    some ⟨fld u.word 71 69, usesLine lt u, fld u.word 54 41, fld u.word 40 27, u,
      match u.wd with
      | some d => if u.known then (d.spans.head?).map (fun x => x.a) else none
      | none => none⟩ else none)

/-- Segments of a passage against a plane format (R205, R391): odd places under 4:2:2, and bay extents outside the declared ranges. -/
def segFmtFails (rs : List LoftRange) (fmt : Word) (x : SegUse) : Bool :=
  decide (fld fmt 1 0 = 1 ∧ (x.x0 % 2 = 1 ∨ x.width % 2 = 1)) ||
    (match x.base with | some b => !inRanges rs b (segLen fmt x.width) | none => false)

/-- Segments (R205, R237, R391). -/
def segFails (s : State) (g : Passage) (us : List Use) : Fails :=
  let segs := segUses g.linesTotal us
  let named := us.filter (fun u => decide ((opOf u.word = 0x22 ∨ opOf u.word = 0x30 ∨ opOf u.word = 0x31) ∧ g.linesActive ≤ usesLine g.linesTotal u))
  let fmts := segs.filter (fun x => segFmtFails g.ranges (s.reg (A.compLayerFmt x.layer)) x)
  let lines (l : Nat) : Fails := (List.range g.linesActive).filterMap (fun (n : Nat) =>
    let mine := segs.filter (fun x => decide (x.layer = l ∧ x.line = n))
    let o := sortBy (fun (x : SegUse) => x.x0) mine
    match ((o.zip (o.drop 1)).find? (fun x => decide (x.2.x0 < x.1.x0 + x.1.width))).map (fun x => x.2.use) with
    | some u => some (0xE, u.at')
    | none => if mine.length ≠ g.segsPerLine.getD l 0 then
        some (0xE, ⟨match mine with | x :: _ => x.use.spar | [] => (lowestBit 64 g.sparMask).getD 0, n, 0, 0⟩) else none)
  under 0xE (named.map (fun u => u.at')) ++ under 0xE (fmts.map (fun x => x.use.at')) ++ (List.range 8).flatMap lines

/-- Planisher words beyond the limits of R289, R292 and R294. -/
def planFails (us : List Use) : Fails :=
  under 0x12 ((us.filter (fun u =>
    let w := u.word
    let ks (hi : Nat) : Nat := 2 * fld w hi (hi - 1) + 1
    match opOf w with
    | 0x90 => decide (8 * (ks 21 * ks 21) * (fld w 23 22 + 1) < 16 * (fld w 19 18 + 1))
    | 0x91 => let cin := 16 * (fld w 23 20 + 1); decide (7 * ks 19 * cin < 16 * (63 + ks 19) * ceilDiv cin 64)
    | 0x92 => decide (fld w 23 22 = 1 ∧ fld w 21 6 % 9 ≠ 0)
    | _ => false)).map (fun u => u.at'))

/-- A range reaches M0 of job n's publication alias. -/
def reachesAlias (s : State) (n : Nat) (x : Span) : Bool :=
  let m := aliasM0 s n
  let a := if x.hbm then x.a - 2 ^ 39 else x.a
  decide ((s.rf (A.chanFitCtl n) 1 1 = 1 ↔ x.hbm = false) ∧ a < m.1 + m.2 ∧ m.1 < a + x.len)

/-- The jobs that have a publication alias: an image of one is admitted, or its EN is in force (R319). -/
def aliasJobs (s : State) : List Nat :=
  (List.range 8).filter (fun n => s.aliasOn n || s.slots.any (fun e => decide (e.2.job = some n) && e.2.fit.isSome))

/-- Words of a passage that write the publication alias of one of some jobs (R319). -/
def aliasFails (s : State) (jobs : List Nat) (us : List Use) : Fails :=
  under 0x14 (((knownSpans us).filter (fun x => x.2.2.wr && jobs.any (fun n => reachesAlias s n x.2.2))).map (fun x => x.1.at'))

/-- Watched words that complete too late (R156), musters (R240), planisher limits, layers (R426), publication aliases. -/
def ruleFails (s : State) (p : Nat) (g : Passage) (us : List Use) : Fails :=
  let lp := pMin g.linePeriod g.reef
  let late := us.filter (fun u => match u.wd with
    | some d => d.watched && decide (g.linesTotal * lp + g.w - 1 < u.line * lp + u.c + d.lat - 1)
    | none => false)
  let ms := us.filter (fun u => decide (opOf u.word = 0x23))
  let musters := ms.filter (fun u => decide (g.w - 1 < u.c + fld u.word 83 68) ||
    ms.any (fun v => decide (v.spar < u.spar ∧ v.line = u.line ∧ fld v.word 95 84 = fld u.word 95 84)))
  let layers := decide (16 ≤ g.layers) || (List.range 4).any (fun l => bitOf g.layers l && decide (s.layerOwner l ≠ p))
  under 0x10 (late.map (fun u => u.at')) ++ under 0x11 (musters.map (fun u => u.at')) ++ planFails us ++
    (if layers then [(0x13, ⟨0, 0, 0, 0⟩)] else []) ++ aliasFails s (aliasJobs s) us

/-- The bay of an absent spar that LOFT_LS_MAP gives a part in what the passage does (R112): output rows where it drives layers, input rows where it takes an
ingress pair (DEDUCED, log 81). -/
def mapFails (s : State) (g : Passage) : Fails :=
  ((List.range 64).filter (fun n => s.absent n && (List.range 6).any (fun r =>
    decide ((rowRole s n r = 1 ∧ g.layers ≠ 0) ∨ (rowRole s n r = 2 ∧ g.pairUse ≠ 0))))).map (fun n => (4, ⟨n, 0, 0, 0⟩))

/-- The reductions a schedule names: (RID, use). -/
def ridUses (us : List Use) : List (Nat × Use) :=
  us.filterMap (fun u => if opOf u.word = 0x43 ∨ opOf u.word = 0x72 then some (fld u.word 76 65, u) else none)

/-- The rows of the reductions of a schedule, as RID · 64 + row (R490). -/
def redRows (us : List Use) : List Nat :=
  uniq (us.flatMap (fun u => if opOf u.word = 0x72 then
    (List.range (fld u.word 83 77)).map (fun k => fld u.word 76 65 * 64 + fld u.word 89 84 + k) else []))

/-- The checks of a passage of port p on its own. -/
def passageFails (s : State) (p : Nat) (g : Passage) : Fails :=
  let us := passageUses s g
  let r := frameRoom g.linesTotal g.linesActive g.linePeriod g.reef
  modeFails g ++ absentFails s g.sparMask us ++ mapFails s g ++ under 5 (lateIssues r us) ++ slackFails g ++
    nameFails s p g.slotUse g.sUse g.bUse g.aUse g.watchUse g.ranges us ++ pairFails s g us ++ segFails s g us ++ ruleFails s p g us ++
    (ridUses us).filterMap (fun x => if redMode s x.1 = 0 ∨ redMode s x.1 = 3 then some (0x15, x.2.at') else none)

/-! ### Checks against what is admitted -/

/-- The passages of every other slot. -/
def State.otherPassages (s : State) (ch : Nat) : List Passage := (s.slots.filter (fun e => decide (e.1 ≠ ch))).flatMap (fun e => e.2.passages)

/-- The fitting images of every other slot, with their job numbers. -/
def State.otherFits (s : State) (ch : Nat) : List (Nat × FitImage) :=
  (s.slots.filter (fun e => decide (e.1 ≠ ch))).filterMap (fun e => match e.2.fit, e.2.job with | some g, some n => some (n, g) | _, _ => none)

/-- The timing mode of a passage (R175). -/
def Passage.mode (g : Passage) : Nat × Nat × Nat := (g.linesTotal, g.linesActive, g.linePeriod)

/-- The declarations of everything admitted on other slots. -/
def otherDecls (s : State) (ch : Nat) : List Decl :=
  (s.otherPassages ch).map (declOf s) ++ (s.otherFits ch).map (fun x => declOfFit s x.1 x.2)

/-- The memory-plane layers in force (R428). -/
def State.fetchLayers (s : State) : List Place :=
  ((List.range 8).filter (fun l => decide (s.rf (A.compLayerCtl l) 0 0 = 1 ∧ s.rf (A.compLayerCtl l) 1 1 = 0))).map (placeOf s)

/-- Passages of the same mode and reef level run in one frame: the checks over their combined schedule (R32, R59, R89, R104, R180, R263, R490). -/
def togetherFails (s : State) (g : Passage) (others : List Passage) : Fails :=
  let us := (g :: others.filter (fun h => decide (h.mode = g.mode ∧ h.reef = g.reef))).flatMap (passageUses s)
  let r := frameRoom g.linesTotal g.linesActive g.linePeriod g.reef
  under 7 (unitFails r us) ++ under 8 (ceilingFails g.linesTotal g.linePeriod g.reef us) ++ under 9 (portFails s r us) ++
    under 0xA (rigFails s r us) ++ under 0xB (slotFails g.linesTotal g.linesActive g.reef us s.fetchLayers) ++
    (if 2048 < (redRows us).length then [(0x15, ⟨0, 0, 0, 0⟩)] else [])

/-- The stack model over every pair of reef levels of a mode (R512, R587), with the reef of each refusal. -/
def modelFails (s : State) (mode : Nat × Nat × Nat) (ps : List Passage) (pls : List Place) : List (Nat × Fail) :=
  let mine := ps.filter (fun h => decide (h.mode = mode))
  let reefs := uniq (mine.map (fun h => h.reef))
  let qs (r : Nat) : List Req := useReqs ((mine.filter (fun h => decide (h.reef = r))).flatMap (passageUses s)) ++ layerReqs mode.1 mode.2.1 pls
  reefs.flatMap (fun r1 => stackFails mode.1 mode.2.2 r1 qs reefs)

/-- The words and line map entries that a spar stores (R176, R313). -/
def sparWords (gs : List Passage) (fs : List FitImage) (n : Nat) : Nat × Nat :=
  let p := gs.filter (fun g => bitOf g.sparMask n)
  let f := fs.filter (fun g => bitOf g.sparMask n)
  let w (b : Option BundleSet) : Nat := match b with | some x => x.words.length | none => 0
  (p.foldl (fun a g => a + w (g.sets[g.setMap.getD n 255]?)) 0 +
      f.foldl (fun a g => a + g.sets.foldl (fun c l => c + w (l[g.setMap.getD n 255]?)) 0) 0,
    p.foldl (fun a g => a + g.linesTotal) 0 + f.foldl (fun a g => a + popCount 4 g.reefMask * g.nbund) 0)

/-- Store capacity (R176). -/
def storeFails (mask : Nat) (gs : List Passage) (fs : List FitImage) : Fails :=
  ((List.range 64).filter (fun n => bitOf mask n && (decide (16384 < (sparWords gs fs n).1) || decide (32768 < (sparWords gs fs n).2)))).map
    (fun n => (0xF, ⟨n, 0, 0, 0⟩))

/-- The checks of a passage against everything else admitted: declarations, pairs, reductions, the combined schedule. -/
def againstFails (s : State) (ch : Nat) (g : Passage) : Fails :=
  let others := s.otherPassages ch
  let d := declOf s g
  let rids := uniq ((others.flatMap (fun h => ridUses (passageUses s h))).map (fun x => x.1))
  (otherDecls s ch).filterMap (fun e => (declConflict s d e).map (fun n => (0xC, (⟨n, 0, 0, 0⟩ : Fail)))) ++
    (if others.any (fun h => decide (h.pairUse &&& g.pairUse ≠ 0)) then [(0xD, ⟨0, 0, 0, 0⟩)] else []) ++
    (ridUses (passageUses s g)).filterMap (fun x => if rids.contains x.1 then some (0x15, x.2.at') else none) ++
    togetherFails s g others

/-- The first of some failing checks: the lowest code, then reef level, spar, line and cycle. -/
def firstFail (l : List (Nat × Nat × Fail)) : Option Refused :=
  let key (x : Nat × Nat × Fail) : Nat := (((x.1 * 4 + x.2.1) * 64 + x.2.2.spar) * 2 ^ 13 + x.2.2.line) * 2 ^ 40 + x.2.2.c
  match sortBy key l with
  | x :: _ => some ⟨x.1, x.2.1, x.2.2⟩
  | [] => none

/-! ### Sail plans -/

/-- The passages of a table (R552). -/
def planPassages (s : State) (a : Nat) : List Passage :=
  ((List.range 4).filter (bitOf (tableReefs s a))).map (fun r => readPassage s (tableImage s a r))

/-- What refuses a sail plan table of port p for slot ch (R553). -/
def planRefused (s : State) (p ch a : Nat) : Option Refused :=
  orElse (readable s p 0 a 64) fun _ =>
    if s.imgNum a 2 ≠ 0x9160 ∨ s.imgNum (a + 2) 1 ≠ 1 then some (refuse 2 0)
    else if tableBad s a then some (refuse 1 0)
    else orElse (((List.range 4).filter (bitOf (tableReefs s a))).findSome? (fun r => passageUnread s p (tableImage s a r) r)) fun _ =>
      let gs := planPassages s a
      let all := gs ++ s.otherPassages ch
      let fits := (s.otherFits ch).map (fun x => x.2)
      firstFail (gs.flatMap (fun g => (passageFails s p g ++ againstFails s ch g ++ storeFails g.sparMask all fits).map (fun x => (x.1, g.reef, x.2))) ++
        (uniq (gs.map (fun g => g.mode))).flatMap (fun m => (modelFails s m all s.fetchLayers).map (fun x => (0xB, x.1, x.2))))

/-! ### Fitting images -/

/-- The opcodes that a slack bundle may not hold (R313). -/
def fitForbidden : List Nat := [0x20, 0x21, 0x22, 0x23, 0x30, 0x31, 0x72, 0x43]

/-- A bundle names an undeclared B register, or reads a declared one that no earlier cycle of it has written (R181, R313, R314): uses of one spar. -/
def bUnset (bM : Nat) (us : List Use) : List Use :=
  us.filter (fun u => match u.wd with
    | some d => (d.bRd ++ d.bWr).any (fun k => !bitOf bM k) || d.bRd.any (fun k => !us.any (fun v => decide (v.c < u.c) &&
        (match v.wd with | some e => e.bWr.contains k | none => false)))
    | none => false)

/-- The constraints of R313 on slack bundle k at a reef level. -/
def bundleFails (s : State) (g : FitImage) (reef k : Nat) : Fails :=
  let us := bundleUses s g reef k
  let row := ((g.rows reef)[k]?).getD (false, false, 0)
  let r := bundleRoom row.2.2
  let ends (u : Use) : Nat := match u.wd with | some d => u.c + max (max 1 d.occ) d.lat | none => u.c + 1
  let cap := if row.1 then 256 + 4 * pMin s.rast.linePeriod reef else 256
  under 0x17 ((if cap < row.2.2 then [(⟨0, 0, 0, 0⟩ : Fail)] else []) ++
    (us.filter (fun u => decide (row.2.2 < ends u) || fitForbidden.contains (opOf u.word))).map (fun u => u.at') ++
    unitFails r us ++ portFails s r us ++ rigFails s r us ++
    (uniq (us.map (fun u => u.spar))).flatMap (fun n => (bUnset g.bUse (us.filter (fun u => decide (u.spar = n)))).map (fun u => u.at')))

/-- What refuses a fitting image of port p for slot ch and job n (R313, R553). -/
def fitRefused (s : State) (p ch n a : Nat) : Option Refused :=
  orElse (fitUnread s p a) fun _ =>
    let g := readFit s a
    let reefs := (List.range 4).filter (bitOf g.reefMask)
    let d := declOfFit s n g
    let decls : Fails := (otherDecls s ch).filterMap (fun e => (declConflict s d e).map (fun k => (0xC, (⟨k, 0, 0, 0⟩ : Fail))))
    let words (r : Nat) : Fails := (List.range g.nbund).flatMap (fun k =>
      let us := bundleUses s g r k
      absentFails s 0 us ++ planFails us ++ nameFails s p g.slotUse g.sUse g.bUse g.aUse 0xFF g.ranges us ++ bundleFails s g r k)
    let pubs := aliasFails s [n] ((s.otherPassages ch).flatMap (passageUses s))
    firstFail ((absentFails s g.sparMask [] ++ decls ++ pubs ++
        storeFails g.sparMask (s.otherPassages ch) (g :: (s.otherFits ch).map (fun x => x.2))).map (fun x => (x.1, 0, x.2)) ++
      reefs.flatMap (fun r => (words r).map (fun x => (x.1, r, x.2))))

/-! ### ADMISSION -/

/-- Event 0x0102 of an admission (R553). -/
def admitDone (q : AdmReq) (r : Refused) (s : State) : State :=
  s.post [q.port] 0x0102 [(4, q.handle), (2, r.code), (1, r.reef), (1, r.at'.spar), (2, r.at'.line), (2, r.at'.c), (4, r.at'.short)]

/-- An admission refused: what the slot then shows is whether more of it is queued or admitted. -/
def admitRefuse (q : AdmReq) (r : Refused) (s : State) : State :=
  let x := s.slot q.slot
  let more := s.adm.any (fun e => decide (e.slot = q.slot ∧ e.handle = s.handle q.slot))
  let st := if x.passages ≠ [] ∨ x.fit.isSome then 2 else if more then 1 else 0
  admitDone q r (s.setSlot q.slot { x with admitSt := if x.st = .free ∨ x.st = .quarantined then x.admitSt else st })

/-- Resources that wait to be zeroed are among those declared (R615). -/
def needsZeroed (s : State) (ds : List Decl) : Bool :=
  ds.any (fun d => s.zeroQ.any (fun z => decide (d.spars &&& z.spars ≠ 0 ∧ (d.slots &&& z.slots ≠ 0 ∨ d.s &&& z.sUse ≠ 0 ∨ d.a &&& z.aUse ≠ 0 ∨
      (d.gen = true ∧ z.gen = true))) ||
    d.areas.any (fun x => z.ranges.any (fun r => !r.shared && x.meets ⟨z.spars, r.off, r.len, false⟩))))

/-- No reef level is common to all admitted plans (R582). -/
def reefSetEmpty (s : State) : Bool := decide ((admittedPlans s).foldl (fun m e => m &&& e.2.reefs) 15 = 0) && !(admittedPlans s).isEmpty

/-- An admission takes effect: the slot holds the program, copied next (R177). One withdrawn while it was queued leaves at the next boundary (R545).
A job starts anew. -/
def admitTake (q : AdmReq) (gs : List Passage) (fit : Option FitImage) (s : State) : State :=
  let x := s.slot q.slot
  let s1 := s.setSlot q.slot { x with
    passages := gs, fit := fit, admitSt := 2, loaded := false, live := false
    wdraw := if q.dropped then x.wdraw ++ [(.withdraw, s.rast.frame + 1)] else x.wdraw }
  let s2 := match fit, x.job with
    | some _, some n => (((s1.setJob n Job.idle).setReg (A.chanFitStep n) 0).setReg (A.chanFitDefer n) 0).setReg (A.chanFitPstat n) 0
    | _, _ => s1
  let s3 := if gs = [] then s2 else s2.setSync { s2.rast.sync with fsetDone := true }
  let s4 := admitDone q (refuse 0 0) s3
  if gs ≠ [] ∧ reefSetEmpty s4 then s4.post s4.ports 0x0703 [(4, q.handle)] else s4

/-- The channel may take an admission: the handle still names it, it is IN_USE, and it holds nothing admitted (R545). -/
def admitOpen (s : State) (q : AdmReq) : Bool :=
  let x := s.slot q.slot
  decide (x.st = .inUse ∧ s.handle q.slot = q.handle ∧ x.passages = [] ∧ x.fit = none ∧ x.kind ≠ .copy)

/-- Reads of HBM by admission, inside the port's partition (R519, R526, R553). -/
def takeIf (p a n : Nat) (s : State) : State := if inPart s p a n then s.hbmTake 5 a n else s

/-- The reads of a directory of k entries and of the sets that they name, n line map entries long. -/
def takeDir (p a d k n : Nat) (s : State) : State :=
  (List.range k).foldl (fun t j => takeIf p (a + s.imgNum (d + 16 * j) 8) (4 * n + 16 * s.imgNum (d + 16 * j + 8) 4) t) (takeIf p d (16 * k) s)

/-- The reads of a passage image of reef r. -/
def takePassage (p a r : Nat) (s : State) : State :=
  let t := takeIf p a 0x100 s
  if (readable s p r a 0x100).isSome ∨ s.imgNum a 2 ≠ 0x9160 ∨ s.imgNum (a + 2) 1 ≠ 1 ∨ passageHeadBad s a r then t
  else takeDir p a (a + 0x100) (s.imgNum (a + 0xE) 1) (s.imgNum (a + 4) 2) t

/-- The reads of a sail plan table and its images. -/
def takePlan (p a : Nat) (s : State) : State :=
  let t := takeIf p a 64 s
  if (readable s p 0 a 64).isSome ∨ s.imgNum a 2 ≠ 0x9160 ∨ s.imgNum (a + 2) 1 ≠ 1 ∨ tableBad s a then t
  else ((List.range 4).filter (bitOf (tableReefs s a))).foldl (fun t r => takePassage p (tableImage s a r) r t) t

/-- The reads of a fitting image. -/
def takeFit (p a : Nat) (s : State) : State :=
  let t := takeIf p a 0x200 s
  if (readable s p 0 a 0x200).isSome ∨ s.imgNum a 2 ≠ 0x9160 ∨ s.imgNum (a + 2) 1 ≠ 0x81 ∨ fitHeadBad s a then t
  else (fitReefs s a).foldl (fun (t : State) r =>
    let b := fitSection s a r
    let nb := s.imgNum (a + 0x1C) 1
    let u := takeIf p b (8 + 8 * nb) t
    if (readable s p r b (8 + 8 * nb)).isSome ∨ fitSectionBad s a r then u else takeDir p a (b + 8 + 8 * nb) (s.imgNum b 1) nb u) t

/-- ADMISSION: the oldest queued admission is performed (R553). One that needs resources still to be zeroed waits (R615). -/
def admission (s : State) : State :=
  match s.adm with
  | [] => s
  | q :: t =>
    let s1 := { s with adm := t }
    if !admitOpen s q then admitRefuse q (refuse 0x18 0) s1
    else match (s.slot q.slot).job with
      | some n => match fitRefused s q.port q.slot n q.addr with
        | some r => admitRefuse q r (takeFit q.port q.addr s1)
        | none =>
          let g := readFit s q.addr
          if needsZeroed s [declOfFit s n g] then s else admitTake q [] (some g) (takeFit q.port q.addr s1)
      | none => match planRefused s q.port q.slot q.addr with
        | some r => admitRefuse q r (takePlan q.port q.addr s1)
        | none =>
          let gs := planPassages s q.addr
          if needsZeroed s (gs.map (declOf s)) then s else admitTake q gs none (takePlan q.port q.addr s1)

def execAdmission (s : State) : Host.Outcome State Fault Refusal := .next (admission s)

end Sys2Proof.Machine
end

