-- ==== Sys2Proof/Machine/Mode.lean ====
section
/-! DEFINITION. Committed values at a frame boundary; timing modes: the virtual raster (R39 to R42), the display mode group (R378 to R383, R402 to
R406, R437), self-refresh (R413 to R415) and dirty regions (R385, R386). -/

namespace Sys2Proof.Machine

/-! ### Committed values -/

/-- A register word with a committed value merged in (R400, R645). -/
def merged (w : Word) (c : Commit) : Word := (w &&& ~~~c.mask) ||| (c.value &&& c.mask)

/-- A register as some committed values leave it; the last to land prevails (R400). -/
def after (cs : List Commit) (s : State) (a : Nat) : Word := (cs.filter (fun c => decide (c.addr = a))).foldl merged (s.reg a)

/-- Committed values taken. -/
def takeAll (cs : List Commit) (s : State) : State := cs.foldl (fun t c => t.setReg c.addr (merged (t.reg c.addr) c)) s

/-- What is validated as one at a boundary. `plain` registers are taken as they are. -/
inductive Group where
  | owner
  | parts
  | fit (n : Nat)
  | sync
  | mode
  | selfRefresh
  | virtual
  | dirty
  | pair (n : Nat)
  | input
  | zorder
  | layer (n : Nat)
  | fleet
  | lockStep
  | reds (k : Nat)
  | roles (n : Nat)
  | power (a : Nat)
  | rrec
  | rply
  | plain
deriving DecidableEq, Repr

/-- The group of a shadowed register. -/
def groupOf (a : Nat) : Group :=
  if a = A.hostOwner then .owner
  else if 0x100100 ≤ a ∧ a < 0x100140 then .parts
  else if 0x108000 ≤ a ∧ a < 0x108200 then
    (if a % 64 = 0 ∨ a % 64 = 0x10 ∨ a % 64 = 0x14 then .fit ((a - 0x108000) / 64) else .plain)
  else if a = A.rastSyncCtl then .sync
  else if 0x200040 ≤ a ∧ a ≤ 0x200060 then .mode
  else if a = A.rastSrCtl then .selfRefresh
  else if a = A.rastVrCfg ∨ a = A.rastVrRate then .virtual
  else if a = A.rastDirtyCtl ∨ (0x200400 ≤ a ∧ a < 0x200480) then .dirty
  else if 0x200100 ≤ a ∧ a < 0x200200 then .pair ((a - 0x200100) / 16)
  else if a = A.rastInCtl ∨ a = A.rastInFmt then .input
  else if a = A.compZorder then .zorder
  else if 0x300100 ≤ a ∧ a < 0x300300 then .layer ((a - 0x300100) / 64)
  else if 0x301000 ≤ a ∧ a < 0x303000 then .layer ((a - 0x301000) / 0x800)
  else if 0x500000 ≤ a ∧ a < 0x500014 then .fleet
  else if a = A.linkLsCtl then .lockStep
  else if 0x501000 ≤ a ∧ a < 0x501400 then .reds ((a - 0x501000) / 4)
  else if 0x700100 ≤ a ∧ a < 0x700200 then .roles ((a - 0x700100) / 4)
  else if 0xC00000 ≤ a ∧ a < 0xC00024 then .power a
  else if 0xD01000 ≤ a ∧ a < 0xD0100C then .rrec
  else if 0xD01010 ≤ a ∧ a < 0xD0101C then .rply
  else .plain

/-- The committed values of a group. -/
def ofGroup (g : Group) (cs : List Commit) : List Commit := cs.filter (fun c => decide (groupOf c.addr = g))

/-! ### Timing -/

/-- A timing mode: its lines, the period in ps that headers hold (R379), and the exact line period num / den ns. -/
structure Timing where
  lt : Nat
  la : Nat
  ps : Nat
  num : Nat
  den : Nat
deriving DecidableEq, Repr

/-- The display mode of a register group (R379). -/
def displayTiming (g : Nat → Word) : Timing :=
  let htot := fld (g A.rastModeH) 29 16
  let khz := fld (g A.rastModePclk) 22 0
  ⟨fld (g A.rastModeV) 28 16, fld (g A.rastModeV) 12 0, (rneDiv ((htot * 10 ^ 9 : Nat) : Int) (max 1 khz)).toNat, htot * 10 ^ 6, khz⟩

/-- The virtual raster (R40, R379). -/
def virtualTiming (g : Nat → Word) : Timing :=
  let lt := fld (g A.rastVrCfg) 12 0
  let den := fld (g A.rastVrRate) 15 0
  let num := fld (g A.rastVrRate) 31 16
  ⟨lt, fld (g A.rastVrCfg) 28 16, (rneDiv ((den * 10 ^ 12 : Nat) : Int) (max 1 (num * lt))).toNat, den * 10 ^ 9, num * lt⟩

/-- Two timings have equal totals and line periods. -/
def Timing.same (x y : Timing) : Bool := decide (x.lt = y.lt ∧ x.la = y.la ∧ x.num * y.den = y.num * x.den)

/-- The limits of R26 on a line period. -/
def periodOk (s : State) (t : Timing) : Bool :=
  decide (t.den ≠ 0 ∧ t.num * 2 * 10003 ≤ 65536 * 10000 * t.den) &&
    s.slots.all (fun e => !e.2.loaded || e.2.passages.all (fun g => decide (g.mode ≠ (t.lt, t.la, t.ps) ∨ 1024 ≤ pMin t.ps g.reef)))

/-- The raster runs a timing from this boundary on; n_est starts from a new n_nom. -/
def setTiming (t : Timing) (s : State) : State :=
  let y := s.rast.sync
  let n := nNomOf t.num t.den
  { s with rast := { s.rast with
      linesTotal := t.lt, linesActive := t.la, linePeriod := t.ps, tNum := t.num, tDen := t.den
      sync := if n = s.nNom then y else { y with nEst := n } } }

/-! ### The virtual raster -/

/-- A virtual raster configuration is valid (R41). -/
def virtualOk (s : State) (g : Nat → Word) : Bool :=
  let t := virtualTiming g
  let den := fld (g A.rastVrRate) 15 0
  let num := fld (g A.rastVrRate) 31 16
  decide (den ≤ num ∧ 1 ≤ den ∧ num ≤ 240 * den ∧ 1 ≤ t.la ∧ t.la + 8 ≤ t.lt) && periodOk s t

/-- Committed virtual raster registers are taken, or discarded as one (R42). -/
def virtualCommit (cs : List Commit) (s : State) : State :=
  let mine := ofGroup .virtual cs
  if mine = [] then s
  else if virtualOk s (after mine s) then takeAll mine s
  else s.post [s.owner] 0x0211 [s.vF]

/-! ### The display mode group -/

/-- A lane rate in kb/s of a RATE code (R381, R382); 0 for a reserved one. -/
def rateKbs (r : Nat) : Nat :=
  [1620000, 2700000, 5400000, 8100000, 10000000, 13500000, 20000000, 2160000, 2430000, 3240000, 4320000].getD r 0

/-- Lanes of a LANES code. -/
def lanesOf (c : Nat) : Nat := match c with | 0 => 1 | 1 => 2 | _ => 4

/-- The values and limits of R383, R407 and R437, but for the line period; `src` is the sync source that the boundary leaves selected. -/
def fieldsOk (g : Nat → Word) (src : Nat) : Bool :=
  let h := g A.rastModeH
  let hs := g A.rastModeHs
  let v := g A.rastModeV
  let vs := g A.rastModeVs
  let khz := fld (g A.rastModePclk) 22 0
  let o := g A.rastOutCtl
  let f := g A.rastOutFmt
  let d := g A.rastDsc
  let a := g A.rastAdapt
  let pers := fld o 2 1
  let rate := fld o 7 4
  let bpc := fld f 4 2
  let dsi := fld o 27 16
  decide (640 ≤ fld h 13 0 ∧ fld h 13 0 ≤ 7680 ∧ fld h 13 0 + fld hs 13 0 + fld hs 25 16 < fld h 29 16) &&
  decide (480 ≤ fld v 12 0 ∧ fld v 12 0 ≤ 4320 ∧ fld v 28 16 ≤ 8191 ∧ fld v 12 0 + 8 ≤ fld v 28 16 ∧
    fld v 12 0 + fld vs 12 0 + fld vs 23 16 < fld v 28 16) &&
  decide (1 ≤ khz ∧ khz ≤ 4400000 ∧ pers ≠ 3 ∧ fld o 9 8 ≠ 3 ∧ bpc ≤ 4 ∧ fld f 9 8 ≤ 1 ∧ fld f 11 10 ≠ 3 ∧ 96 ≤ fld d 9 0 ∧ fld d 9 0 ≤ 384 ∧
    fld a 1 0 ≠ 3) &&
  decide (fld v 28 16 + fld a 28 16 ≤ 8192 ∧ fld a 15 3 ≤ fld a 28 16 ∧ (fld a 1 0 = 2 → src = 2)) &&
  decide (bpc = 0 → fld f 12 12 = 1 ∧ fld f 1 0 = 0) &&
  decide (fld o 10 10 = 1 → fld d 28 16 ≠ 0 ∧ fld v 12 0 % max 1 (fld d 28 16) = 0 ∧ bpc ≠ 0 ∧ bpc ≠ 4) &&
  (if pers = 2 then decide (rate = 0 ∧ fld o 9 8 = 2 ∧ 8 ≤ dsi ∧ dsi ≤ 450 ∧ fld a 1 0 = 0)
   else decide (dsi = 0 ∧ (if pers = 0 then rate ≤ 6 else rate ≤ 3 ∨ (7 ≤ rate ∧ rate ≤ 10))))

/-- The bandwidth condition of R383, with bits in sixteenths and rates in kb/s. -/
def bandOk (g : Nat → Word) : Bool :=
  let o := g A.rastOutCtl
  let f := g A.rastOutFmt
  let n := match fld f 4 2 with | 0 => 6 | 1 => 8 | 2 => 10 | 3 => 12 | _ => 16
  let b := if fld o 10 10 = 1 then fld (g A.rastDsc) 9 0 else
    n * (match fld f 1 0 with | 2 => 32 | 3 => 24 | _ => 48)
  let pers := fld o 2 1
  let e := if pers = 2 then (1, 1) else if 4 ≤ fld o 7 4 ∧ fld o 7 4 ≤ 6 then (128, 132) else (4, 5)
  let rate := if pers = 2 then fld o 27 16 * 10000 else rateKbs (fld o 7 4)
  decide (b * fld (g A.rastModeH) 13 0 * fld (g A.rastModePclk) 22 0 * 100 * e.2 ≤
    16 * fld (g A.rastModeH) 29 16 * 97 * lanesOf (fld o 9 8) * rate * e.1)

/-- The sink supports what the group asks of it (R383); a sink not yet read, and a DSI panel, are not judged. -/
def sinkOk (s : State) (g : Nat → Word) : Bool :=
  let o := g A.rastOutCtl
  match s.out.sink with
  | none => true
  | some k =>
    decide (fld o 2 1 = 2) ||
      (decide (rateKbs (fld o 7 4) ≤ rateKbs k.maxRate ∧ lanesOf (fld o 9 8) ≤ k.lanes) && (k.dsc || decide (fld o 10 10 = 0)) &&
        (k.adaptive || decide (fld (g A.rastAdapt) 1 0 = 0)))

/-- Every enabled line store layer has an admitted passage for the mode (R403). `ctl` gives each layer's CTL. -/
def layersFed (s : State) (ctl : Nat → Word) (t : Timing) : Bool :=
  (List.range 8).all (fun l => !decide (fld (ctl l) 1 0 = 3) ||
    s.slots.any (fun e => e.2.passages.any (fun p => bitOf p.layers l && decide (p.mode = (t.lt, t.la, t.ps)))))

/-- The reason a mode group is refused with, 0 for none (R403). Reasons 3 and 4 are looked for where EN is 1 after the boundary. -/
def modeReason (s : State) (cs : List Commit) (g : Nat → Word) : Nat :=
  let src := fld (after cs s A.rastSyncCtl) 2 0
  let on := decide (fld (g A.rastOutCtl) 0 0 = 1)
  if !fieldsOk g src || !periodOk s (displayTiming g) then 1
  else if !bandOk g then 2
  else if on && !layersFed s (fun l => after cs s (A.compLayerCtl l)) (displayTiming g) then 3
  else if on && !sinkOk s g then 4
  else 0

/-- The registers of the mode group (R378). -/
def modeRegs : List Nat :=
  [A.rastModeH, A.rastModeHs, A.rastModeV, A.rastModeVs, A.rastModePclk, A.rastOutCtl, A.rastOutFmt, A.rastDsc, A.rastAdapt]

/-- Only VTOTAL, VFP, VSW, VPOL or RAST_ADAPT differ between the groups of two states (R402). -/
def seamlessDiff (s t : State) : Bool :=
  modeRegs.all (fun a =>
    if a = A.rastAdapt ∨ a = A.rastModeVs then true
    else if a = A.rastModeV then decide (s.rf a 12 0 = t.rf a 12 0)
    else decide (s.reg a = t.reg a))

/-- A retrain change takes effect (R405). -/
def retrain (s : State) : State :=
  let s1 := { s with
    rast := { s.rast with suspended := true, train := some ⟨s.rast.frame, false, false⟩ }
    out := { s.out with line := [], trained := false } }
  (s1.evt 4).post [s1.owner] 0x0207 [s1.vF]

/-- The mode group of a boundary: refused, or taken; then the change that results takes effect (R402 to R405). The answer says whether the group
took a value. -/
def modeCommit (cs : List Commit) (s : State) : Bool × State :=
  let mine := ofGroup .mode cs
  let why := if mine = [] then 0 else modeReason s cs (after mine s)
  let t := if mine = [] then s else if why = 0 then takeAll mine s else s.post [s.owner] 0x0206 [s.vF, (1, why)]
  let en0 := s.rf A.rastOutCtl 0 0
  let en1 := t.rf A.rastOutCtl 0 0
  let vr := virtualTiming t.reg
  let same := modeRegs.all (fun a => decide (s.reg a = t.reg a))
  let onlyEn := (modeRegs.filter (fun a => decide (a ≠ A.rastOutCtl))).all (fun a => decide (s.reg a = t.reg a)) &&
    decide (s.rf A.rastOutCtl 31 1 = t.rf A.rastOutCtl 31 1)
  let u :=
    if en0 = 0 ∧ en1 = 0 then setTiming vr t
    else if same then t
    else if en1 = 1 then
      let d := setTiming (displayTiming t.reg) t
      if en0 = 1 ∧ seamlessDiff s t then d else retrain d
    else
      let d := setTiming vr { t with out := { t.out with lost := false, training := false } }
      if onlyEn ∧ vr.same (displayTiming s.reg) then d else retrain d
  (decide (mine ≠ []) && decide (why = 0), u)

/-- What becomes of a suspension at a boundary (R405, R406): output and passages resume once training has completed; three frames after the change
passages resume without output. A lost or shorted link that has trained resumes (R384, R610). -/
def trainProgress (s : State) : State :=
  let f := s.rast.frame
  let freed (t : State) : State := { t with out := { t.out with lost := false, shorted := false, trained := false, training := false } }
  match s.rast.train with
  | some (t : Train) =>
    if t.frame = f then s
    else if t.done then
      let s1 := freed { s with rast := { s.rast with
        suspended := false, train := none, resumedF := if s.rast.suspended then some f else s.rast.resumedF } }
      s1.post [s1.owner] 0x0208 [s1.vF]
    else if s.rast.suspended ∧ f = t.frame + 3 then
      let s1 := { s with rast := { s.rast with suspended := false, train := some { t with late := true }, resumedF := some f } }
      s1.post [s1.owner] 0x0209 [s1.vF, (1, s1.rf A.rastOutCtl 2 1)]
    else if s.rast.suspended then s.evt 4 else s
  | none => if s.out.trained then freed s else s

/-! ### Self-refresh and dirty regions -/

/-- KIND suits the personality (R413). -/
def srSuits (s : State) (kind : Nat) : Bool :=
  let pers := s.rf A.rastOutCtl 2 1
  decide ((pers = 1 ∧ kind ≤ 1) ∨ (pers = 2 ∧ kind = 2))

/-- The link in self-refresh of a KIND, and the indication that entry sends (R414). -/
def srLink (kind : Nat) : MainLink × List Signal :=
  match kind with
  | 0 => (.off, [.psrEntry])
  | 1 => (.lowPower, [.panelReplay])
  | _ => (.lp11, [])

/-- Self-refresh is entered (R414). -/
def srEnter (s : State) : State :=
  let k := srLink (s.rf A.rastSrCtl 3 2)
  let s1 := { s.setRf A.rastSrCtl 8 8 1 with
    out := { s.out with srWait := false, line := [], link := k.1, signals := s.out.signals ++ k.2 } }
  s1.post [s1.owner] 0x020B [s1.vF]

/-- Self-refresh is left (R415). -/
def srExit (s : State) : State :=
  let s1 := { s.setRf A.rastSrCtl 8 8 0 with out := { s.out with link := .on } }
  s1.post [s1.owner] 0x020C [s1.vF]

/-- A request of entry is ignored and reported where EN is 0 or KIND does not suit the personality (R413). -/
def srRefused (s : State) : State := { s with out := { s.out with srWait := false } }.post [s.owner] 0x0206 [s.vF, (1, 4)]

/-- Entry is permitted, with the registers in force (R413). -/
def srAllowed (s : State) : Bool := decide (s.rf A.rastSrCtl 0 0 = 1) && srSuits s (s.rf A.rastSrCtl 3 2)

/-- An entry asked for takes effect once a frame has been transmitted (R414, R415); `sent`: the frame before was. The personality may have changed since it was
committed, so it is judged as it takes effect (R413). -/
def srTry (sent : Bool) (s : State) : State :=
  if !srAllowed s then srRefused s
  else if sent ∧ !s.rast.suspended then srEnter s
  else { s with out := { s.out with srWait := true } }

/-- The self-refresh register at a boundary (R413 to R415). An unsuitable request is discarded. The answer says whether this is an exit. -/
def srCommit (sent : Bool) (cs : List Commit) (s : State) : Bool × State :=
  let mine := ofGroup .selfRefresh cs
  let w := after mine s A.rastSrCtl
  let inSr := decide (fld w 8 8 = 1)
  let ask := decide (fld w 1 1 = 1)
  if mine = [] then (false, if s.out.srWait then srTry sent s else s)
  else if !inSr && ask then
    if fld w 0 0 = 1 ∧ srSuits s (fld w 3 2) then (false, srTry sent (takeAll mine s)) else (false, srRefused s)
  else
    let t := takeAll mine s
    if inSr && !ask then (true, srExit t) else (false, { t with out := { t.out with srWait := t.out.srWait && ask } })

/-- The dirty registers at a boundary (R385, R386): a set that takes effect applies to this frame; one committed with an exit from self-refresh is
discarded. -/
def dirtyCommit (exits : Bool) (cs : List Commit) (s : State) : State :=
  let mine := ofGroup .dirty cs
  if mine = [] ∨ exits then { s with out := { s.out with dirty := false } }
  else
    let t := takeAll mine s
    let on := decide (t.rf A.rastDirtyCtl 0 0 = 1)
    let u := { t with out := { t.out with dirty := on } }
    if on then ((List.range (min 16 (u.rf A.rastDirtyCtl 8 4))).filter (fun n => !dirtyValid u n)).foldl
      (fun (v : State) n => v.post [v.owner] 0x020F [v.vF, (1, n)]) u
    else u

end Sys2Proof.Machine
end

