-- ==== Sys2Proof/Machine/Commit.lean ====
section
/-! DEFINITION. What a frame boundary does with the committed values of each group of registers (R46, R95, R348, R425, R429, R435, R480, R489, R536 to
R538, R589). -/

namespace Sys2Proof.Machine

/-! ### Ownership and partitions -/

/-- HOST_OWNER.NEXT (R536). An absent port cannot own the display. -/
def ownerCommit (cs : List Commit) (s : State) : State :=
  let mine := ofGroup .owner cs
  let new := fld (after mine s A.hostOwner) 1 0
  let old := s.owner
  if new = old ∨ !s.ports.contains new then s
  else
    let t := s.setRf A.hostOwner 1 0 new
    t.post t.ports 0x010B [(1, old), (1, new)]

/-- A set of partitions and quotas is valid (R537). -/
def partsOk (g : Nat → Word) : Bool :=
  decide ((List.range 4).foldl (fun n p => n + fld (g (A.hostPartQuota p)) 10 0) 0 ≤ 1024) &&
    (List.range 4).all (fun p => decide (fld (g (A.hostPartBase p)) 22 0 + fld (g (A.hostPartSize p)) 22 0 ≤ 0x600000))

/-- Event 0x0107 with a register's offset, and HOST_ERR.PART (R537 to R539). -/
def partRefused (p a : Nat) (s : State) : State := (s.hostErr p 2).post [p] 0x0107 [(4, a)]

/-- The partition registers, taken or discarded whole (R537). -/
def partsCommit (cs : List Commit) (s : State) : State :=
  let mine := ofGroup .parts cs
  if mine = [] then s
  else if partsOk (after mine s) then takeAll mine s
  else partRefused s.owner (A.hostPartBase 0) s

/-- The port whose committed values a group holds: that of the last. -/
def portOf (cs : List Commit) (s : State) : Nat := (cs.getLast?.map (fun c => c.port)).getD s.owner

/-- Values that name a range of user HBM, taken or discarded as one (R538); `inHbm`: the location is HBM. -/
def rangeCommit (mine : List Commit) (inHbm : Bool) (base len : Nat) (a : Nat) (s : State) : State :=
  let p := portOf mine s
  if inHbm && !inPart s p (4096 * base) (4096 * len) then partRefused p a s else takeAll mine s

/-- The registers of frame pair n (R538): both members of an HBM pair lie in the partition. -/
def pairCommit (cs : List Commit) (s : State) (n : Nat) : State :=
  let mine := ofGroup (.pair n) cs
  if mine = [] then s else
  let g := after mine s
  rangeCommit mine (decide (fld (g (A.rastPairCtl n)) 2 2 = 0)) (fld (g (A.rastPairBase n)) 22 0) (2 * fld (g (A.rastPairSize n)) 22 0)
    (A.rastPairBase n) s

/-- The publication alias of job n (R318, R319, R538). -/
def fitCommit (cs : List Commit) (s : State) (n : Nat) : State :=
  let mine := ofGroup (.fit n) cs
  if mine = [] then s else
  let g := after mine s
  rangeCommit mine (decide (fld (g (A.chanFitCtl n)) 1 1 = 0)) (fld (g (A.chanFitPbase n)) 22 0) (2 * fld (g (A.chanFitPsize n)) 22 0)
    (A.chanFitPbase n) s

/-! ### Record and replay rings -/

/-- LOG_RREC_CTL; the write pointer counts from the frame in which EN takes effect (R335). The ring lies in the partition (R538). -/
def rrecCommit (cs : List Commit) (s : State) : State :=
  let mine := ofGroup .rrec cs
  if mine = [] then s else
  let ring := mine.filter (fun c => decide (c.addr ≠ A.logRrecCtl))
  let g := after mine s
  let t := if ring = [] then s else
    rangeCommit ring true (fld (g A.logRrecBase) 22 0) (max 1 (fld (g A.logRrecSize) 22 0)) A.logRrecBase s
  let u := takeAll (mine.filter (fun c => decide (c.addr = A.logRrecCtl))) t
  if s.rf A.logRrecCtl 0 0 = 0 ∧ u.rf A.logRrecCtl 0 0 = 1 then u.setReg A.logRrecWptr 0 else u

/-- LOG_RPLY_CTL (R335, R341): replay starts anew as EN takes effect. -/
def rplyCommit (cs : List Commit) (s : State) : State :=
  let mine := ofGroup .rply cs
  if mine = [] then s else
  let ring := mine.filter (fun c => decide (c.addr ≠ A.logRplyCtl))
  let g := after mine s
  let t := if ring = [] then s else
    rangeCommit ring true (fld (g A.logRplyBase) 22 0) (max 1 (fld (g A.logRplySize) 22 0)) A.logRplyBase s
  let u := takeAll (mine.filter (fun c => decide (c.addr = A.logRplyCtl))) t
  if s.rf A.logRplyCtl 0 0 = 0 ∧ u.rf A.logRplyCtl 0 0 = 1 then
    { u.setReg A.logRplyRptr 0 with rcd := { u.rcd with rplyStopped := false } }
  else u

/-! ### Sources, input -/

/-- RAST_SYNC_CTL: a new SRC takes effect (R374). -/
def syncCommit (cs : List Commit) (s : State) : State :=
  let mine := ofGroup .sync cs
  if mine = [] then s else
  let t := takeAll mine s
  let new := t.rf A.rastSyncCtl 2 0
  if new = s.rf A.rastSyncCtl 2 0 then t else takeSource new true t

/-- RAST_IN_CTL and RAST_IN_FMT (R393, R394): IN_HPD follows EN, but for a pulse of EDID_UPD. -/
def inputCommit (cs : List Commit) (s : State) : State :=
  let mine := ofGroup .input cs
  if mine = [] then s else
  let t := takeAll mine s
  let on := decide (t.rf A.rastInCtl 0 0 = 1)
  { t with inp := { t.inp with hpd := on && !t.inp.pulse, storing := t.inp.storing && on } }

/-! ### Fleet and lock-step -/

/-- An address lies inside the dimensions of LINK_FLEET_DIM (R480). -/
def inDims (dim w : Word) : Bool := decide (fld w 4 0 ≤ fld dim 4 0 ∧ fld w 12 8 ≤ fld dim 12 8 ∧ fld w 20 16 ≤ fld dim 20 16)

def fleetRegs : List Nat := [A.linkFleetDim, A.linkFleetAddr, A.linkFleetRoot, A.linkFleetCtl, A.linkFleetId]

/-- The neighbour that gives this part its time is another one from here on (R457, R475): nothing of it has been refused yet, and where its port is not UP it is lost. -/
def parentMoved (s : State) : State :=
  let t := { s with ptp := { s.ptp with told := false } }
  if t.rf A.timeCtl 3 2 = 3 ∧ !(match parentPort t with | some p => portUp t p | none => true) then servoLoss t else t

/-- The fleet registers (R480): discarded whole where an address lies outside the dimensions; a change takes every port but the lock-step port through
training. -/
def fleetCommit (cs : List Commit) (s : State) : State :=
  let mine := ofGroup .fleet cs
  if mine = [] then s else
  let g := after mine s
  let refuse (k : Nat) : State := s.post s.ports 0x0532 [s.vF, (1, k)]
  if !inDims (g A.linkFleetDim) (g A.linkFleetAddr) then refuse 1
  else if !inDims (g A.linkFleetDim) (g A.linkFleetRoot) then refuse 2
  else
    let t := takeAll mine s
    if fleetRegs.all (fun a => decide (s.reg a = t.reg a)) then t
    else
      let u := ((List.range 6).filter (fun p => decide (t.lsPort ≠ some p))).foldl (fun (u : State) p => portDown p 0 u) (quiet t)
      if parentPort s = parentPort t then u else parentMoved u

/-- The reductions that admitted passages name. -/
def namedRids (s : State) : List Nat :=
  uniq ((s.slots.flatMap (fun e => e.2.passages)).flatMap (fun g => (ridUses (passageUses s g)).map (fun x => x.1)))

/-- Field i of a LINK_RED register (R489): a reserved mode, and a change for a reduction in use, is discarded and reported. -/
def redField (named : List Nat) (k : Nat) (w : Word) (s : State) (i : Nat) : State :=
  let new := fld w (2 * i + 1) (2 * i)
  let old := s.rf (A.linkRed k) (2 * i + 1) (2 * i)
  if new = 3 ∨ (new ≠ old ∧ named.contains (16 * k + i)) then s.post s.ports 0x0532 [s.vF, (1, k)]
  else s.setRf (A.linkRed k) (2 * i + 1) (2 * i) new

/-- The modes of sixteen reductions (R489). -/
def redCommit (cs : List Commit) (s : State) (k : Nat) : State :=
  let mine := ofGroup (.reds k) cs
  if mine = [] then s else
  (List.range 16).foldl (redField (namedRids s) k (after mine s (A.linkRed k))) s

/-- What gave the part its time before a boundary, `s`, may no longer do so after it: then the parent is lost (R475). -/
def parentKept (s t : State) : State := if parentUp s ∧ !parentUp t then servoLoss t else t

/-- LINK_LS_CTL (R348, R352): comparison starts in the frame in which EN takes effect as 1, and stops as it takes effect as 0. A port that has come up with a partner
of another bit-class carries no comparison: the pair is lost at once (R334). The port carries nothing else, and no fleet time, from here on (R347). -/
def lockCommit (cs : List Commit) (s : State) : State :=
  let mine := ofGroup .lockStep cs
  if mine = [] then s else
  let t := takeAll mine s
  let en0 := s.rf A.linkLsCtl 0 0
  let en1 := t.rf A.linkLsCtl 0 0
  if en0 = en1 then t
  else
    let u := (t.setReg A.linkLsStat (BitVec.ofNat 32 en1)).setFleet { t.fleet with own := [], their := [], lsReef := none }
    match u.lsPort with
    | some p => parentKept s (if u.portState p = 3 ∧ (u.wport p).verdict = 5 then lockLost 6 u else u)
    | none => u

/-! ### Loft roles, power -/

/-- LOFT_LS_MAPn (R95). -/
def rolesCommit (cs : List Commit) (s : State) (n : Nat) : State :=
  let mine := ofGroup (.roles n) cs
  if mine = [] then s else
  let w := after mine s (A.loftLsMap n)
  if (List.range 6).any (fun r => decide (fld w (2 * r + 1) (2 * r) = 3)) then s.post [s.owner] 0x0313 [s.vF, (1, n)]
  else takeAll mine s

/-- The fused PWR_THERM of the part's grade (R589). -/
def fusedTherm (s : State) : Word := if s.grade = 2 then 0x0366635F else 0x035C5955

/-- A committed PWR value as it takes effect, none where it is discarded (R589). -/
def powerWord (s : State) (a : Nat) (w : Word) : Option Word :=
  if a = A.pwrBudget then (if 1000 ≤ fld w 19 0 ∧ fld w 19 0 ≤ 80000 then some w else none)
  else if a = A.pwrAcctCfg then (if fld w 15 0 = 0 then none else some w)
  else if a = A.pwrTherm then
    let th (i : Nat) : Nat := min (fld w (8 * i + 7) (8 * i)) (fld (fusedTherm s) (8 * i + 7) (8 * i))
    if fld w 27 24 = 0 ∨ th 1 ≤ th 0 ∨ th 2 ≤ th 1 then none
    else some (BitVec.ofNat 32 (th 0 + th 1 * 2 ^ 8 + th 2 * 2 ^ 16 + fld w 27 24 * 2 ^ 24))
  else some w

/-- A PWR register (R589). -/
def powerCommit (cs : List Commit) (s : State) (a : Nat) : State :=
  let mine := ofGroup (.power a) cs
  if mine = [] then s else
  match powerWord s a (after mine s a) with
  | some w => s.setReg a w
  | none => s

/-! ### Composition -/

/-- COMP_ZORDER names each layer exactly once, or is discarded (R435). -/
def zorderCommit (cs : List Commit) (s : State) : State :=
  let mine := ofGroup .zorder cs
  if mine = [] then s else
  let w := after mine s A.compZorder
  let l := (List.range 8).map (fun p => fld w (3 * p + 2) (3 * p))
  if (List.range 8).all (fun k => l.contains k) then takeAll mine s
  else s.post [s.owner] 0x0241 [s.vF]

/-- FMT against the output's colour (R429, reason 3). -/
def colourBad (s : State) (fmt : Word) : Bool :=
  decide (fld fmt 14 13 ≠ s.rf A.rastOutFmt 11 10 ∨ fld fmt 14 13 = 3 ∨ fld fmt 12 11 ≠ s.rf A.rastOutFmt 9 8)

/-- The destination and source sizes of a memory-plane layer (R429, reason 2). -/
def sizesBad (l : Nat) (p : Place) : Bool :=
  decide (p.dx + p.dw > 16383 ∨ p.dy + p.dh > 8191 ∨ p.dw = 0 ∨ p.dh = 0) ||
    (if 4 ≤ l then decide (p.dw ≠ p.sw ∨ p.dh ≠ p.sh)
     else decide (4 * p.dw < p.sw ∨ 16 * p.sw < p.dw ∨ 4 * p.dh < p.sh ∨ 16 * p.sh < p.dh))

/-- The format of a line store layer against the segments of the admitted passages that feed it (R391, R429, reason 1). -/
def storeFmtBad (s : State) (l : Nat) (fmt : Word) : Bool :=
  decide (fld fmt 1 0 = 2) ||
    (s.slots.flatMap (fun e => e.2.passages)).any (fun g => bitOf g.layers l &&
      (segUses g.linesTotal (passageUses s g)).any (fun x => decide (x.layer = l) && segFmtFails g.ranges fmt x))

/-- The slot limit of R263, and the stack model, with the fetches of the layers in force (R428, R429, R512, reason 4): over the passages of the mode in force at
each reef level. -/
def slotsExceeded (s : State) : Bool :=
  let mode := (s.rast.linesTotal, s.rast.linesActive, s.rast.linePeriod)
  let ps := (s.slots.flatMap (fun e => e.2.passages)).filter (fun g => decide (g.mode = mode))
  (List.range 4).any (fun r =>
    !(slotFails mode.1 mode.2.1 r ((ps.filter (fun g => decide (g.reef = r))).flatMap (passageUses s)) s.fetchLayers).isEmpty) ||
  !(modelFails s mode ps s.fetchLayers).isEmpty

/-- The reason layer l's configuration in a state is refused with, 0 for none (R429). -/
def layerReason (s : State) (l : Nat) : Nat :=
  let ctl := s.reg (A.compLayerCtl l)
  let p := placeOf s l
  let store := decide (fld ctl 1 1 = 1)
  if fmtInvalid p.fmt || (store && storeFmtBad s l p.fmt) then 1
  else if !store && sizesBad l p then 2
  else if colourBad s p.fmt then 3
  else if !store && decide (fld ctl 0 0 = 1) && slotsExceeded s then 4
  else if store && decide (4 ≤ l) then 5
  else if fld ctl 3 2 = 3 then 6
  else 0

/-- Event 0x0240 to the layer's owner and the display-owning host (R429). -/
def layerRefused (l why : Nat) (s : State) : State := s.post (uniq [s.layerOwner l, s.owner]) 0x0240 [s.vF, (1, l), (1, why)]

/-- The image of an enabled memory-plane layer, or the base alone of another, lies in its owner's partition (R538). -/
def layerInPart (t : State) (l : Nat) : Bool :=
  let p := placeOf t l
  inPart t (t.layerOwner l) p.base (if t.rf (A.compLayerCtl l) 1 0 = 1 then imageLen p.fmt p.sw p.sh else 0)

/-- A configuration that stays in force while the mode group changes (`moded`) is switched off where its colour no longer fits (R429). -/
def keepLayer (moded : Bool) (l : Nat) (s : State) : State :=
  if moded ∧ s.rf (A.compLayerCtl l) 0 0 = 1 ∧ colourBad s (s.reg (A.compLayerFmt l)) then
    layerRefused l 3 (s.setRf (A.compLayerCtl l) 0 0 0)
  else s

/-- The committed values of layer l that count: an EN = 1 that another port than the owner in force committed does not (R425). -/
def layerCommits (cs : List Commit) (s : State) (l : Nat) : List Commit :=
  (ofGroup (.layer l) cs).map (fun c =>
    if c.addr = A.compLayerCtl l ∧ bitAt (c.value &&& c.mask) 0 ∧ c.port ≠ s.layerOwner l then { c with mask := c.mask &&& ~~~1#32 } else c)

/-- A layer's committed configuration: validated against the mode in force, and taken or discarded whole (R425, R429, R538). A change of OWNER makes EN
take effect as 0. `moded`: the mode group took a value at this boundary. -/
def layerCommit (cs : List Commit) (moded : Bool) (s : State) (l : Nat) : State :=
  let mine := layerCommits cs s l
  if mine = [] then keepLayer moded l s
  else
    let t0 := takeAll mine s
    let t := if t0.layerOwner l = s.layerOwner l then t0 else t0.setRf (A.compLayerCtl l) 0 0 0
    let why := layerReason t l
    if why ≠ 0 then keepLayer moded l (layerRefused l why (s.setRf A.compStat l l 1))
    else if (mine.any (fun c => decide (c.addr = A.compLayerBase l)) ∨ t.rf (A.compLayerCtl l) 1 0 = 1) ∧ !layerInPart t l then
      keepLayer moded l (partRefused (t.layerOwner l) (A.compLayerBase l) s)
    else t.setRf A.compStat l l 0

/-! ### All of them -/

/-- The committed values of the frame that starts take effect (R46, R47); `sent`: the frame before was transmitted. Every register that is not
validated is taken as it is. -/
def commitAll (sent : Bool) (cs : List Commit) (s : State) : State :=
  let s1 := takeAll (ofGroup .plain cs) (partsCommit cs (ownerCommit cs s))
  let m := modeCommit cs (virtualCommit cs (syncCommit cs s1))
  let r := srCommit sent cs m.2
  let s2 := dirtyCommit r.1 cs r.2
  let s3 := (List.range 8).foldl (fitCommit cs) ((List.range 16).foldl (pairCommit cs) s2)
  let s4 := rplyCommit cs (rrecCommit cs s3)
  let s5 := lockCommit cs (fleetCommit cs s4)
  let s6 := (uniq (cs.filterMap (fun c => match groupOf c.addr with | .reds k => some k | _ => none))).foldl (redCommit cs) s5
  let s7 := (List.range 64).foldl (rolesCommit cs) s6
  let s8 := [A.pwrCtl, A.pwrBudget, A.pwrAcctCfg, A.pwrTherm].foldl (powerCommit cs) s7
  let s9 := zorderCommit cs (inputCommit cs s8)
  (List.range 8).foldl (fun t l => layerCommit cs m.1 t l) s9

end Sys2Proof.Machine
end

