-- ==== Sys2Proof/Machine/Firmware.lean ====
section
/-! DEFINITION. The check of a firmware image (R600): SHA-384 (FIPS 180-4) and ECDSA over P-384 (FIPS 186), which the rule names, and the
tests of the header. -/

namespace Sys2Proof.Machine

/-! ### SHA-384 -/

/-- The first eighty primes, from which the constants of SHA-384 come. -/
def shaPrimes : List Nat := ((List.range 410).drop 2).filter (fun n => ((List.range n).drop 2).all (fun d => decide (n % d ≠ 0)))

/-- The largest number whose k-th power is at most v, given the bits above the lowest b of it in r. -/
def rootBelow (k v : Nat) : Nat → Nat → Nat
  | 0, r => r
  | b + 1, r => rootBelow k v b (if (r + 2 ^ b) ^ k ≤ v then r + 2 ^ b else r)

/-- The first 64 bits of the fractional part of the k-th root of p. -/
def rootFraction (k p : Nat) : Nat := rootBelow k (p * 2 ^ (64 * k)) 69 0 % 2 ^ 64

/-- The word that is added in each round. -/
def shaRoundWords : List Nat := shaPrimes.map (rootFraction 3)

/-- The two halves of the hash before the first block. -/
def shaStart : List Nat × List Nat :=
  let l := ((shaPrimes.drop 8).take 8).map (rootFraction 2)
  (l.take 4, l.drop 4)

/-- The number whose bytes are given, the most significant first. -/
def fromBe (bs : List Byte) : Nat := bs.foldl (fun a b => 256 * a + b.toNat) 0

/-- The n bytes of a number, the most significant first. -/
def beBytes (n v : Nat) : List Byte := (leBytes n v).reverse

/-- The XOR of a 64-bit word turned right by each of some numbers of bits. -/
def turned (x : Nat) (ks : List Nat) : Nat := ks.foldl (fun acc k => acc ^^^ ((x + 2 ^ 64 * x) / 2 ^ k % 2 ^ 64)) 0

/-- The message schedule with n words more than the list holds; the newest word stands first. -/
def shaSchedule : Nat → List Nat → List Nat
  | 0, w => w
  | n + 1, w =>
    let near := w.getD 1 0
    let far := w.getD 14 0
    let word := w.getD 15 0 + (turned far [1, 8] ^^^ far / 2 ^ 7) + w.getD 6 0 + (turned near [19, 61] ^^^ near / 2 ^ 6)
    shaSchedule n (word % 2 ^ 64 :: w)

/-- One round. The working variables are two rows of four, in each of which a new word enters in front and the last leaves. -/
def shaRound (v : List Nat × List Nat) (x : Nat) : List Nat × List Nat :=
  match v with
  | ([a, b, c, d], [e, f, g, h]) =>
    let mix := h + x + (g ^^^ (e &&& (f ^^^ g))) + turned e [14, 18, 41]
    let sum := mix + ((a &&& b) ||| (c &&& (a ||| b))) + turned a [28, 34, 39]
    ([sum % 2 ^ 64, a, b, c], [(d + mix) % 2 ^ 64, e, f, g])
  | _ => v

/-- A block of 128 bytes taken into the hash. -/
def shaBlock (v : List Nat × List Nat) (block : List Byte) : List Nat × List Nat :=
  let given := (List.range 16).map (fun i => fromBe ((block.drop (8 * (15 - i))).take 8))
  let out := (List.zipWith (fun w k => w + k) (shaSchedule 64 given).reverse shaRoundWords).foldl shaRound v
  let add (x y : List Nat) : List Nat := List.zipWith (fun m n => (m + n) % 2 ^ 64) x y
  (add v.1 out.1, add v.2 out.2)

/-- The hash of n blocks. -/
def shaBlocks : Nat → List Byte → List Nat × List Nat → List Nat × List Nat
  | 0, _, v => v
  | n + 1, m, v => shaBlocks n (m.drop 128) (shaBlock v (m.take 128))

/-- SHA-384 of a message, as a number of 384 bits: the message, a 1 bit, zeros and its length in 128 bits make whole blocks. -/
def sha384 (m : List Byte) : Nat :=
  let n := (m.length + 17 + 127) / 128
  let padded := m ++ 0x80 :: List.replicate (128 * n - m.length - 17) 0 ++ beBytes 16 (8 * m.length)
  let v := shaBlocks n padded shaStart
  (v.1 ++ v.2.take 2).foldl (fun acc w => 2 ^ 64 * acc + w) 0

/-! ### ECDSA over P-384 -/

def ecP : Nat := 2 ^ 384 - 2 ^ 128 - 2 ^ 96 + 2 ^ 32 - 1
def ecB : Nat := 0xb3312fa7e23ee7e4988e056be3f82d19181d9c6efe8141120314088f5013875ac656398d8a2ed19d2a85c8edd3ec2aef
def ecN : Nat := 0xffffffffffffffffffffffffffffffffffffffffffffffffc7634d81f4372ddf581a0db248b0a77aecec196accc52973
def ecG : Nat × Nat :=
  (0xaa87ca22be8b05378eb1c71ef320ad746e1d3b628ba79b9859f741e082542a385502f25dbf55296c3a545e3872760ab7,
   0x3617de4a96262c6f5d9e98bf9292dc29f8f41dbd289a147ce9da3113b5f0b8c00a60b1ce1d7e819d7a431d7c90ea0e5f)

/-- a^e modulo m, by the k low bits of e from the top. -/
def powMod (a m e : Nat) : Nat → Nat
  | 0 => 1
  | k + 1 =>
    -- the k + 1 bits from the top: those above first
    let r := powMod a m (e / 2) k
    if e % 2 = 1 then r * r % m * a % m else r * r % m

/-- The inverse modulo a prime. -/
def invMod (a m : Nat) : Nat := powMod (a % m) m (m - 2) 384

/-- Addition on the curve; none is the point at infinity. -/
def ecAdd (p q : Option (Nat × Nat)) : Option (Nat × Nat) :=
  match p, q with
  | none, q => q
  | p, none => p
  | some a, some b =>
    if a.1 = b.1 ∧ (a.2 + b.2) % ecP = 0 then none
    else
      let l := if a.1 = b.1 then (3 * a.1 * a.1 + (ecP - 3)) * invMod (2 * a.2) ecP % ecP
        else (b.2 + ecP - a.2) * invMod (b.1 + ecP - a.1) ecP % ecP
      let x := (l * l + 2 * ecP - a.1 - b.1) % ecP
      some (x, (l * (a.1 + ecP - x) + ecP - a.2) % ecP)

/-- Multiplication by the k low bits of a number. -/
def ecMul (e : Nat) (p : Option (Nat × Nat)) : Nat → Option (Nat × Nat)
  | 0 => none
  | k + 1 =>
    let r := ecMul (e / 2) p k
    let d := ecAdd r r
    if e % 2 = 1 then ecAdd d p else d

/-- The point lies on the curve. -/
def onCurve (p : Nat × Nat) : Bool :=
  decide (p.1 < ecP ∧ p.2 < ecP ∧ p.2 * p.2 % ecP = (p.1 * p.1 * p.1 + (ecP - 3) * p.1 + ecB) % ecP)

/-- (r, s) is a valid signature of a digest under a public key. -/
def ecdsaOk (q : Nat × Nat) (z r s : Nat) : Bool :=
  if r = 0 ∨ ecN ≤ r ∨ s = 0 ∨ ecN ≤ s ∨ !onCurve q then false else
  let w := invMod s ecN
  match ecAdd (ecMul (z * w % ecN) (some ecG) 384) (ecMul (r * w % ecN) (some q) 384) with
  | none => false
  | some x => decide (x.1 % ecN = r)

/-! ### The image (R600) -/

/-- Bytes o to o + n − 1 of an image. -/
def imgPart (m : List Byte) (o n : Nat) : List Byte := (m.drop o).take n

/-- A little-endian field of the header. -/
def imgField (m : List Byte) (o n : Nat) : Nat := fromLe (imgPart m o n)

/-- MAGIC, VERSION and the reserved bytes, and the limits of SVN, KEY_SLOT, BODY_LEN and ENTRY. -/
def imgFormat (m : List Byte) : Bool :=
  let len := imgField m 8 4
  let zero (o n : Nat) : Bool := (imgPart m o n).all (fun b => decide (b = 0))
  decide (512 ≤ m.length ∧ imgPart m 0 4 = [0x41, 0x5A, 0x46, 0x57] ∧ imgField m 4 1 = 1 ∧ imgField m 5 1 ≤ 64 ∧ imgField m 6 1 ≤ 3 ∧
      len % 4096 = 0 ∧ len ≤ 33550336 ∧ imgField m 0xC 4 < max 1 len ∧ 512 + len ≤ m.length ∧ imgField m 0x40 1 = 4) &&
    zero 7 1 && zero 0xA1 95 && zero 0x160 160

/-- The reason for which an image is rejected, 0 where it is accepted: the tests in the order of their reasons. `keyHash`, `revoked` and `svn`
are the fused values. -/
def imgReason (keyHash : Nat → Nat) (revoked svn : Nat) (m : List Byte) : Nat :=
  let key := imgField m 6 1
  if !imgFormat m then 1
  else if bitOf revoked key then 2
  else if sha384 (imgPart m 0x40 97) ≠ keyHash key then 3
  else if !ecdsaOk (fromBe (imgPart m 0x41 48), fromBe (imgPart m 0x71 48)) (sha384 (imgPart m 0 0x100)) (fromBe (imgPart m 0x100 48))
      (fromBe (imgPart m 0x130 48)) then 4
  else if sha384 (imgPart m 512 (imgField m 8 4)) ≠ fromBe (imgPart m 0x10 48) then 5
  else if imgField m 5 1 < svn then 6
  else 0

end Sys2Proof.Machine
end

