-- ==== Sys2Proof/Machine/Boot.lean ====
section
/-! DEFINITION. Resets and the boot (R591 to R604): the fabric reset, the spare map, the stages, and the commands that start and end them. -/

namespace Sys2Proof.Machine

/-! ### The spare map (R602) -/

/-- One retirement record applied to a map and a list of spares. -/
def retireOne (r : List Nat × List Nat) (q : Nat) : List Nat × List Nat :=
  if r.1.contains q then
    match r.2 with
    | a :: t => (r.1.map (fun x => if x = q then a else x), t)
    | [] => (r.1.map (fun x => if x = q then 0x7F else x), [])
  else (r.1, r.2.filter (fun x => x ≠ q))

/-- The map and the spares that the fuses and the retirements not fused give. -/
def spareMap (defect : Nat) (records : List Nat) : List Nat × List Nat :=
  let good := (List.range 68).filter (fun p => !bitOf defect p)
  records.foldl retireOne (good.take 64 ++ List.replicate (64 - good.length) 0x7F, good.drop 64)

/-- The spare map in force. -/
def State.sparesNow (s : State) : List Nat × List Nat := spareMap s.aon.fuses.defect (s.aon.fuses.retire ++ s.aon.table)

/-! ### The fabric reset (R597) -/

/-- A position is retired (R603): in the next free RETIRE entry, or in the table where none is free or VPP_FUSE is absent. -/
def retirePos (vpp : Bool) (s : State) (q : Nat) : State :=
  let f := s.aon.fuses
  if f.retire.contains q ∨ s.aon.table.contains q then s
  else if vpp ∧ f.retire.length < 32 then { s with aon := { s.aon with fuses := { f with retire := f.retire ++ [q] } } }
  else ({ s with aon := { s.aon with table := s.aon.table ++ [q] } }).post [s.owner] 0x0803 [(1, q)]

/-- What a failed identity becomes is reported (R110). -/
def remapEvent (s : State) (n : Nat) : State :=
  if s.absent n then s.post s.ports 0x0303 [(1, n)] else s.post s.ports 0x0302 [(1, n), (1, s.phys n)]

/-- A plan or job that names an absent identity is withdrawn (R555). -/
def withdrawAbsent (s : State) (ch : Nat) : State :=
  let x := s.slot ch
  let gone (m : Nat) : Bool := (List.range 64).any (fun n => bitOf m n && s.absent n)
  let bad := x.passages.any (fun g => gone g.sparMask) || (match x.fit with | some g => gone g.sparMask | none => false)
  if bad then
    let s1 := s.setSlot ch { x with passages := [], fit := none, loaded := false, live := false, admitSt := 0 }
    let s2 := match x.job with | some j => s1.setJob j Job.idle | none => s1
    s2.post [x.port] 0x0103 [(4, s2.handle ch), (1, 1)]
  else s

/-- SPAR instances as R68 and R75 give them after a fabric reset; crucibles and loft cleared (R85, R100, R168), no word in flight, the stores without
a flipped bit, and every segment's range owned by its spar (R207). -/
def clearFabric (s : State) : State :=
  let s1 := (List.range 64).foldl (fun (t : State) n =>
    (((t.setReg (A.sparSat n) 0).setReg (A.sparUfz n) 0).setReg (A.sparPoi n) 0).setReg (A.sparCrucPerr n) 0) s
  { s1 with
    fab := { s1.fab with sreg := [], breg := boundWords s, areg := [], gen := [], crucible := [], descr := [], loft := Mem.zero, failed := [],
                         badPhys := [], fresh := [], flight := [], storeFlips := []
                         segs := s1.fab.segs.map (fun (g : Seg) => { g with st := .sparOwned, ok := false }) }
    rast := { s1.rast with sync := { s1.rast.sync with nEst := s1.nNom, c := 0, frac := 0, fsetArm := false, fsetDone := false } } }

/-- The fabric reset: failures are recorded, the map is derived, crucibles and loft are cleared, and plans that name an absent identity are
withdrawn. `spares` are the good spares that failed a boot self-test (R603). The stores hold afterwards what they held: they are loaded
again from the passage library. -/
def fabricReset (vpp : Bool) (spares : List Nat) (s : State) : State :=
  let lost := (List.range 64).filter (fun n => s.fab.failed.contains n)
  let s1 := (lost.map s.phys ++ spares).foldl (retirePos vpp) s
  let m := s1.sparesNow.1
  let map := (List.range 64).foldl (fun l n => smPut n l n (m.getD n 0x7F)) []
  let s2 := clearFabric { s1 with fab := { s1.fab with map := map },
                                  aon := { s1.aon with loaded := { s1.aon.loaded with retire := s1.aon.fuses.retire } } }
  let s3 := lost.foldl remapEvent s2
  (s3.slots.map (fun e => e.1)).foldl withdrawAbsent s3

/-- FABRIC_RESET_DONE: the fabric reset that SAFE_RST.FABRIC requested completes (R594, R597). -/
def fabricResetDone (vpp : Bool) (s : State) : State :=
  if s.rf A.safeRst 1 1 = 0 then s
  else
    let s1 := (fabricReset vpp [] s).setRf A.safeRst 1 1 0
    s1.post [s1.owner] 0x0802 [(1, 0)]

def execFabricResetDone (vpp : Bool) (s : State) : Host.Outcome State Fault Refusal := .next (fabricResetDone vpp s)

/-- A write of SAFE_RST.FABRIC (R594): refused while the part is not paused. -/
def fabricRequest (s : State) : State :=
  if s.rast.paused then s.setRf A.safeRst 1 1 1 else s.post [s.owner] 0x0802 [(1, 1)]

def execFabric (p : Fin 4) (s : State) : Host.Outcome State Fault Refusal := fromPort p s (s.ownerWrite p A.safeRst 2 fabricRequest)

/-! ### What a reset keeps -/

/-- The part at reset values, but for what lies outside it or outlives the reset: the hosts' memories, HBM, fuses and tables, the black box and
the counts of R591. -/
def resetBase (hlog : Bool) (cause : Nat) (s : State) : State :=
  let a := State.reset.aon
  let keep := s.aon
  let boots := satAdd 16 (s.rf A.safeRstCause 31 16) 1
  let z : State := { State.reset with
    pending := s.pending
    host := s.host
    hostBad := s.hostBad
    hbm := s.hbm
    hardRows := s.hardRows
    bifur := s.bifur
    bitClass := s.bitClass
    grade := s.grade
    free := s.free
    wearo := s.wearo.map (fun e => (e.1, { Wearo.start with signal := e.2.signal }))
    ev := { State.reset.ev with seq := s.ev.seq, box := s.ev.box }
    aon := { a with fuses := keep.fuses, table := keep.table, journal := keep.journal, optics := keep.optics, refLost := keep.refLost,
                    tap := keep.tap, flash := keep.flash, pprUsed := keep.pprUsed, keySlot := keep.keySlot } }
  let z1 := (z.setReg A.safeRstCause (BitVec.ofNat 32 (cause + boots * 2 ^ 16))).setReg A.logBbLost (s.reg A.logBbLost)
  let z2 := if hlog then z1.setReg A.logHlogWptr (s.reg A.logHlogWptr) else z1
  if s.grade = 2 then z2.setReg A.pwrTherm 0x0366635F else z2

/-! ### The stages (R595) -/

/-- Stage 0xE: the recovery state (R599, R601). -/
def recovery (s : State) : State :=
  { s with aon := { s.aon with faultN := true } }.setRf A.safeBootStat 3 0 0xE

/-- The rows that post-package repair replaces at this boot, while spare rows are left (R520). -/
def pprNow (s : State) : List Nat := s.hardRows.take (Config.pprRows - s.aon.pprUsed)

/-- A row repaired: its sector is a good one again. -/
def pprRow (s : State) (x : Nat) : State :=
  { s with hbm := { s.hbm with flips := smDrop (fun cw => decide (cw / 8 = x)) s.hbm.flips } }

/-- Stage 2: repairs, READY and the repair counts (R526). -/
def stageHbm (s : State) : State :=
  let rows := pprNow s
  let s1 := rows.foldl pprRow s
  let used := s1.aon.pprUsed + rows.length
  { s1 with hardRows := s1.hardRows.drop rows.length, aon := { s1.aon with pprUsed := used } }.setReg A.hbmStat
    (BitVec.ofNat 32 (1 + used % 256 * 2 ^ 8 + (Config.pprRows - used) % 256 * 2 ^ 16))

/-- A repaired row that lies in a reserved region is written again: an image slot from the boot flash, any other but the calibration region with
zero; a log entry it held counts in LOG_HLOG_LOST (R595). -/
def rewriteRow (s : State) (x : Nat) : State :=
  let a := 64 * x
  if a < userHbm then s
  else if slotABase ≤ a ∧ a < slotABase + 2 ^ 26 then
    match s.aon.flash.find? (fun f => f.1 = (a - slotABase) / 2 ^ 25) with
    | some f => { s with hbm := s.hbm.write (((f.2.drop ((a - slotABase) % 2 ^ 25)).take 64).zipIdx.map (fun b => (a + b.2, b.1, 0))) }
    | none => s
  else if 0x608000000 ≤ a ∧ a < 0x60A000000 then s
  else
    let s1 := { s with hbm := s.hbm.clearRange a 64 }
    if a < slotABase then s1.bump A.logHlogLost 15 0 1 else s1

/-- Stages 2 and 3, or what a warm reset does in their place (R595): every sector, or the user region, is zeroed. -/
def stageZero (warm : Bool) (s : State) : State :=
  let rows := pprNow s
  let s1 := stageHbm s
  if warm then rows.foldl rewriteRow { s1 with hbm := s1.hbm.clearRange 0 userHbm } else { s1 with hbm := Mem.zero }

/-- The length of the image in HBM slot k, as its header says. -/
def slotLen (s : State) (k : Nat) : Nat :=
  512 + min 33550336 (fromLe ((s.hbm.fetchN (slotABase + k * 2 ^ 25 + 8) 4).map (fun b => b.1)))

/-- The image in HBM slot k. -/
def slotImage (s : State) (k : Nat) : List Byte := (s.hbm.fetchN (slotABase + k * 2 ^ 25) (slotLen s k)).map (fun b => b.1)

/-- The read of HBM slot k recorded (R519, R526). -/
def slotRead (s : State) (k : Nat) : State := s.hbmTake 5 (slotABase + k * 2 ^ 25) (slotLen s k)

/-- A candidate is accepted: it runs from its slot (R605). -/
def acceptImage (slot src : Nat) (m : List Byte) (s : State) : State :=
  ({ s with aon := { s.aon with keySlot := imgField m 6 1, faultN := false } }.setRf A.safeBootStat 9 8 (slot + 2 * src)).setRf A.safeBootStat 18 12
    (imgField m 5 1)

/-- A candidate is rejected (R600): REJECT, and event 0x0801. -/
def rejectImage (cand reason : Nat) (s : State) : State :=
  (s.setRf A.safeBootStat 7 4 reason).post [s.owner] 0x0801 [(1, cand), (1, reason)]

/-- The check of an image against the fuses as read (R600). -/
def imageReason (s : State) (m : List Byte) : Nat := imgReason Config.keyHash s.aon.loaded.revoke s.aon.loaded.svn m

/-- The boot flash's slot k as this boot reads it: what UPDATE wrote last, or what the flash delivers. -/
def flashSlot (s : State) (k : Nat) (given : Option (List Byte)) : Option (List Byte) :=
  match s.aon.flash.find? (fun f => f.1 = k) with
  | some f => some f.2
  | none => given

/-- The candidates of the boot flash in order (R599); the first that passes is loaded into its HBM slot. The answer says whether one passed. -/
def tryFlash : List (Nat × Option (List Byte)) → State → State × Bool
  | [], s => (s, false)
  | (k, m) :: t, s =>
    match m with
    | none => tryFlash t (rejectImage k 7 s)
    | some bs =>
      let r := imageReason s bs
      if r ≠ 0 then tryFlash t (rejectImage k r s)
      else
        let ws := (bs.take (512 + imgField bs 8 4)).zipIdx.map (fun b => (slotABase + k * 2 ^ 25 + b.2, b.1, 0))
        (acceptImage k 0 bs { s with hbm := s.hbm.write ws }, true)

/-- Stage 4: a warm reset verifies the image it holds; a cold one, or a warm one whose image fails, takes the candidates of R599. -/
def stageImage (warm : Bool) (held : Nat × Nat) (b : BootRun) (s : State) : State × Bool :=
  let rest (t : State) : State × Bool :=
    if b.sel = 1 then (t, false) else tryFlash [(0, flashSlot t 0 b.flashA), (1, flashSlot t 1 b.flashB)] t
  if warm then
    let m := slotImage s held.1
    let r := imageReason s m
    let t := slotRead s held.1
    if r = 0 then (acceptImage held.1 held.2 m t, true) else rest (rejectImage held.1 r t)
  else rest s

/-- A position that fails the boot self-test (R106): an active spar is treated as in R109. -/
def bootFail (s : State) (q : Nat) : State :=
  match (List.range 64).find? (fun n => s.phys n = q) with
  | some n => sparFails 0 s n
  | none => s

/-- Stages 5 and 6 (R595): self-test, and the fabric reset of the boot. Stage 7 follows. -/
def stageFabric (b : BootRun) (s : State) : State :=
  let fails := (List.range 68).filter (fun q => b.fails.any (fun f => f.val = q))
  let m := s.sparesNow
  let map := (List.range 64).foldl (fun l n => smPut n l n (m.1.getD n 0x7F)) []
  let s1 := fails.foldl bootFail { s with fab := { s.fab with map := map } }
  let s2 := fabricReset b.vpp (m.2.filter (fun q => fails.contains q)) s1
  (s2.post [s2.owner] 0x0802 [(1, 0)]).setRf A.safeBootStat 3 0 7

/-- The boot from stage 0 on. -/
def bootStages (warm : Bool) (held : Nat × Nat) (b : BootRun) (s : State) : State :=
  if b.fuseUe then recovery { s with aon := { s.aon with fuseBad := true } }
  else
    let s1 := { s with aon := { s.aon with loaded := s.aon.fuses, bootsel := b.sel.toNat } }
    let r := stageImage warm held b (stageZero warm s1)
    if r.2 then stageFabric b r.1 else recovery r.1

/-! ### The resets of R591 -/

/-- The scope of the reset whose boot is in progress (R593): 0 power-on, 1 cold, 2 warm; 3 where none is. -/
def State.resetScope (s : State) : Nat :=
  if s.stage = 0xE ∨ s.stage = 0xF then 3 else min 2 (s.rf A.safeRstCause 3 0)

/-- SLOT and SRC of the running image. -/
def runningSlot (s : State) : Nat × Nat := (s.rf A.safeBootStat 8 8, s.rf A.safeBootStat 9 9)

/-- A warm reset with a cause (R591). -/
def warmReset (cause : Nat) (b : BootRun) (s : State) : State := bootStages true (runningSlot s) b (resetBase true cause s)

/-- A warm reset that a trigger asks for: absorbed where a reset is in progress (R593). -/
def warmTrigger (cause : Nat) (b : BootRun) (s : State) : State := if s.resetScope ≤ 2 then s else warmReset cause b s

/-- POWER_ON_RESET: VDD_AON rises into its limits; BIFUR and BOOTSEL are sampled (R591, R626). -/
def powerOnReset (strap : BitVec 2) (b : BootRun) (s : State) : State :=
  let z := resetBase false 0 { s with ev := State.reset.ev, regs := [], aon := { s.aon with table := [], journal := none } }
  bootStages false (0, 0) b { z with bifur := if strap = 1 then 1 else if strap = 2 then 2 else 0, aon := { z.aon with tap := State.reset.aon.tap } }

def execPowerOnReset (strap : BitVec 2) (b : BootRun) (s : State) : Host.Outcome State Fault Refusal := .next (powerOnReset strap b s)

/-- COLD_RESET: PORST_N low (R591). -/
def coldReset (b : BootRun) (s : State) : State :=
  if s.resetScope ≤ 1 then s
  else bootStages false (0, 0) b (resetBase false 1 { s with aon := { s.aon with table := [], journal := none } })

def execColdReset (b : BootRun) (s : State) : Host.Outcome State Fault Refusal := .next (coldReset b s)

def execWarmReset (b : BootRun) (s : State) : Host.Outcome State Fault Refusal := .next (warmTrigger 2 b s)

/-- WARM: a write of SAFE_RST.WARM. -/
def execWarm (p : Fin 4) (b : BootRun) (s : State) : Host.Outcome State Fault Refusal :=
  fromPort p s (s.ownerWrite p A.safeRst 1 (warmTrigger 3 b))

/-- SUPPLY_FAULT: the part holds itself in warm reset (R592). The boot that follows counts when the rails are back. -/
def supplyFault (s : State) : State :=
  let run := s.reg A.safeBootStat
  let boots := s.rf A.safeRstCause 31 16
  let z := (resetBase true (s.rf A.safeRstCause 3 0) s).setRf A.safeRstCause 31 16 boots
  ({ z with aon := { z.aon with held := true } }.setRf A.safeBootStat 9 8 (fld run 9 8))

def execSupplyFault (s : State) : Host.Outcome State Fault Refusal := .next (supplyFault s)

/-- RAILS_BACK_WITHIN_LIMITS: the part leaves the reset that a supply fault held, with cause 0x5 (R592). -/
def railsBack (b : BootRun) (s : State) : State := if s.aon.held then warmReset 5 b s else s

def execRailsBackWithinLimits (b : BootRun) (s : State) : Host.Outcome State Fault Refusal := .next (railsBack b s)

/-- VDD_AON_FALL: a power-on reset, which loses the black box; it holds until VDD_AON rises again (R592). -/
def vddAonFall (s : State) : State :=
  let z := resetBase false 0 { s with ev := State.reset.ev, regs := [], aon := { s.aon with table := [], journal := none } }
  ({ z with hbm := Mem.zero, aon := { z.aon with held := true } }).setReg A.safeRstCause 0

def execVddAonFall (s : State) : Host.Outcome State Fault Refusal := .next (vddAonFall s)

/-- BOOT_DONE: the boot reaches stage 0xF (R595, R596). The event is in the black box at once; a port's queue gets it when it is first enabled. -/
def bootDone (s : State) : State :=
  if s.stage ≠ 7 then s
  else
    let s1 := (s.setRf A.safeBootStat 3 0 0xF).setReg A.sysXingWedged 0
    let v := s1.reg A.safeBootStat
    s1.logPut { LogEntry.blank with
      code := 0x0800
      ports := s1.ports.foldl (fun a p => a + 2 ^ p) 0
      frame := s1.rast.frame
      line := s1.rast.line
      boots := s1.rf A.safeRstCause 31 16
      ns := s1.tod.ns
      sec := s1.tod.sec
      payload := packVals [(1, fld v 8 8), (1, fld v 18 12), (1, s1.rf A.safeRstCause 3 0)] }

def execBootDone (s : State) : Host.Outcome State Fault Refusal := .next (bootDone s)

/-- RECOVERY_GO: a write of SAFE_BOOT_STAT.GO checks slot A (R599). `b` is what the boot then finds. -/
def recoveryGo (b : BootRun) (s : State) : State :=
  if s.stage ≠ 0xE ∨ s.aon.fuseBad then s
  else
    let m := slotImage s 0
    let r := imageReason s m
    let t := slotRead s 0
    if r = 0 then stageFabric b (acceptImage 0 1 m t) else rejectImage 2 r t

def execRecoveryGo (p : Fin 4) (b : BootRun) (s : State) : Host.Outcome State Fault Refusal :=
  fromPort p s (s.ownerWrite p A.safeBootStat 0x80000000 (recoveryGo b))

end Sys2Proof.Machine
end

