-- ==== Sys2Proof/Machine/Env.lean ====
section
/-! DEFINITION. Environmental faults (R610 to R613, R622), the fuse commands (R605, R623), the debug and JTAG ports (R606), the log export (R609). -/

namespace Sys2Proof.Machine

/-! ### Environment -/

/-- THERMAL_TRIP: FAULT_N, output off, the fabric in reset, the halyard still, and VDD_CORE at retention (R613, R620). -/
def thermalTrip (sensor reading : Nat) (s : State) : State :=
  if s.rf A.safeEnv 10 10 = 1 then s
  else
    let s1 := s.envSet 10 10 1
    let s2 := { s1 with
      aon := { s1.aon with faultN := true }
      gov := { s1.gov with vid := 0 }
      out := { s1.out with line := [], scanned := [], trained := false } }
    s2.post [s2.owner] 0x080B [(1, sensor), (2, reading)]

def execThermalTrip (sensor : Fin 76) (reading : BitVec 12) (s : State) : Host.Outcome State Fault Refusal :=
  .next (thermalTrip sensor.val (lowBits 16 (toSigned 12 reading.toNat)) s)

/-- THERMAL_TRIP_CLEAR: a warm reset with cause 0x4 (R613). A reset in progress absorbs it (R593). -/
def thermalTripClear (b : BootRun) (s : State) : State :=
  if s.rf A.safeEnv 10 10 = 0 then s
  else if s.resetScope ≤ 2 then { s with aon := { s.aon with faultN := false } }.setRf A.safeEnv 10 10 0
  else warmReset 4 b s

def execThermalTripClear (b : BootRun) (s : State) : Host.Outcome State Fault Refusal := .next (thermalTripClear b s)

/-- REFCLK_LOST: AK runs from the oscillator; passages, the raster and the servos continue (R612). -/
def refclkLost (s : State) : State :=
  if s.rf A.safeEnv 0 0 = 1 then s else (s.envSet 0 0 1).post [s.owner] 0x0808 [s.vF]

def execRefclkLost (s : State) : Host.Outcome State Fault Refusal := .next (refclkLost s)

/-- REFCLK_RESTORED (R612). -/
def refclkRestored (s : State) : State :=
  if s.rf A.safeEnv 0 0 = 0 then s else (s.setRf A.safeEnv 0 0 0).post [s.owner] 0x080A [s.vF]

def execRefclkRestored (s : State) : Host.Outcome State Fault Refusal := .next (refclkRestored s)

/-- ENV_SYNC_STUCK: GENLOCK (0) or TE (1) without edges, at a level (R610). -/
def envSyncStuck (input : Nat) (level : Bool) (s : State) : State :=
  let at' := 1 + 2 * input
  if s.rf A.safeEnv at' at' = 1 then s
  else
    let s1 := s.setRf A.safeEnvLatch (at' + 1) (at' + 1) (b2n level)
    (s1.envSet (at' + 1) at' (1 + 2 * b2n level)).post [s.owner] 0x0806 [(1, input), (1, b2n level)]

def execEnvSyncStuck (input : Fin 2) (level : Bool) (s : State) : Host.Outcome State Fault Refusal := .next (envSyncStuck input.val level s)

/-- ENV_OUT_SHORT: an output lane, or AUX (none), is shorted: its driver is off, and the output stops as with a lost sink (R610). A driver that
is off, or already found shorted, detects nothing. -/
def envOutShort (lane : Option (Fin 4)) (level : Bool) (s : State) : State :=
  let bit := match lane with | some i => 5 + i.val | none => 9
  if s.rf A.rastOutCtl 0 0 = 0 ∨ s.rf A.safeEnv bit bit = 1 then s
  else
    let s1 := sinkLost (s.envSet bit bit 1)
    { s1 with out := { s1.out with shorted := true, training := false } }.post [s1.owner] 0x0805
      [(1, match lane with | some i => i.val | none => 0xF), (1, b2n level)]

def execEnvOutShort (lane : Option (Fin 4)) (level : Bool) (s : State) : Host.Outcome State Fault Refusal := .next (envOutShort lane level s)

/-- OPTICS_POWERED: the engines calibrate, and enabled ports with signal train (R622). -/
def opticsPowered (s : State) : State :=
  if s.aon.optics then s
  else
    let s0 := quiet { s with aon := { s.aon with optics := true } }
    (List.range 6).foldl (fun t p => startTraining p t) s0

def execOpticsPowered (s : State) : Host.Outcome State Fault Refusal := .next (opticsPowered s)

/-- OPTICS_UNPOWERED: the lasers and receivers are off, every Wearo port is down with reason 0x1, and the engines' sensors have no reading (R622). -/
def opticsUnpowered (s : State) : State :=
  if !s.aon.optics then s
  else
    let s0 := quiet { s with aon := { s.aon with optics := false } }
    let s1 := (List.range 6).foldl (fun (t : State) p => portDown p 1 (t.setWport p { t.wport p with signal := false })) s0
    (List.range 6).foldl (fun (t : State) p => t.setRf (A.pwrSens (69 + p)) 12 12 0) s1

def execOpticsUnpowered (s : State) : Host.Outcome State Fault Refusal := .next (opticsUnpowered s)

/-! ### Fuse commands (R605, R623) -/

/-- RESULT of SAFE_CMD_STAT. -/
def safeResult (r : Nat) (s : State) : State := s.setReg A.safeCmdStat (BitVec.ofNat 32 (r * 2 ^ 4))

/-- How many bits a fuse command has to blow; none where it refuses. -/
def fuseBits (op slot : Nat) (s : State) : Option Nat :=
  let f := s.aon.fuses
  match op with
  | 1 => some (b2n (!f.debugKill))
  | 2 => let svn := s.rf A.safeBootStat 18 12; if svn ≤ f.svn then none else some (svn - f.svn)
  | _ =>
    if slot = s.aon.keySlot ∨ (popCount 4 f.revoke = 3 ∧ !bitOf f.revoke slot) then none else some (b2n (!bitOf f.revoke slot))

/-- `n` bits of a fuse command blown, and the journal. -/
def blowFuses (op slot n : Nat) (s : State) : State :=
  let f := s.aon.fuses
  let f1 : Fuses := if n = 0 then f else match op with
    | 1 => { f with debugKill := true }
    | 2 => { f with svn := f.svn + n }
    | _ => { f with revoke := f.revoke ||| 2 ^ slot }
  { s with aon := { s.aon with fuses := f1, journal := if n = 0 then s.aon.journal else some (op, slot) } }

/-- A fuse command: refused, without supply, or performed and reported. -/
def fuseCmd (op slot : Nat) (vpp : Bool) (s : State) : State :=
  match fuseBits op slot s with
  | none => safeResult 1 s
  | some n =>
    if !vpp then safeResult 2 s
    else
      let s1 := safeResult 0 (blowFuses op slot n s)
      { s1 with aon := { s1.aon with journal := some (op, slot) } }.post [s1.owner] 0x0804 [(1, op), (1, slot)]

/-- The image that UPDATE takes from port p's BAR2 window; none where the window does not hold it. -/
def updateImage (p : Nat) (s : State) : Option (List Byte) :=
  let a := bar2Addr s p 0
  let get (n : Nat) : List Byte := (List.range n).map (fun i => (s.hbmByte true (a + i)).1)
  let n := 512 + min 33550336 (fromLe ((get 12).drop 8))
  if inPart s p a n then some (get n) else none

/-- UPDATE: an image is read, checked and written to the flash slot that does not run (R519, R600, R605). -/
def updateFlash (p : Nat) (s : State) : State :=
  let slot := if (runningSlot s).1 = 0 then 1 else 0
  match updateImage p s with
  | none => safeResult 4 (rejectImage slot 7 s)
  | some m =>
    let r := imageReason s m
    let t := s.hbmReads 5 true (bar2Addr s p 0) m.length
    if r ≠ 0 then safeResult 4 (rejectImage slot r t)
    else
      let s1 := safeResult 0 { t with aon := { t.aon with flash := smPut [] t.aon.flash slot m, journal := some (4, slot) } }
      s1.post [s1.owner] 0x0809 [(1, slot), (1, imgField m 5 1)]

/-- A write of SAFE_CMD by port p; `vpp`: VPP_FUSE is within its limits. A reserved OP does nothing. -/
def safeCmd (p : Nat) (w : Word) (vpp : Bool) (s : State) : State :=
  if fld w 15 8 ≠ 0xA5 then safeResult 3 s
  else match fld w 3 0 with
    | 1 => fuseCmd 1 0 vpp s
    | 2 => fuseCmd 2 0 vpp s
    | 3 => fuseCmd 3 (fld w 5 4) vpp s
    | 4 => updateFlash p s
    | _ => s

/-- The word that spells a command. -/
def cmdWord (op slot : Nat) (arm : BitVec 8) : Word := BitVec.ofNat 32 (op + slot * 2 ^ 4 + arm.toNat * 2 ^ 8)

def safeCmdWrite (p : Fin 4) (w : Word) (vpp : Bool) (s : State) : Host.Outcome State Fault Refusal :=
  fromPort p s (s.ownerWrite p A.safeCmd w (safeCmd p.val w vpp))

def execDebugKill (p : Fin 4) (arm : BitVec 8) (vpp : Bool) (s : State) : Host.Outcome State Fault Refusal := safeCmdWrite p (cmdWord 1 0 arm) vpp s
def execRaiseSvn (p : Fin 4) (arm : BitVec 8) (vpp : Bool) (s : State) : Host.Outcome State Fault Refusal := safeCmdWrite p (cmdWord 2 0 arm) vpp s
def execRevokeKey (p : Fin 4) (slot : Fin 4) (arm : BitVec 8) (vpp : Bool) (s : State) : Host.Outcome State Fault Refusal :=
  safeCmdWrite p (cmdWord 3 slot.val arm) vpp s
def execUpdate (p : Fin 4) (arm : BitVec 8) (s : State) : Host.Outcome State Fault Refusal := safeCmdWrite p (cmdWord 4 0 arm) true s

/-- VPP_FUSE_OUT_OF_LIMITS: the supply leaves its limits during a fuse command of which `n` bits are checked; they stay blown (R623). -/
def fuseStopped (op slot n : Nat) (w : Word) (s : State) : State :=
  if fld w 15 8 ≠ 0xA5 then safeResult 3 s
  else match fuseBits op slot s with
    | none => safeResult 1 s
    | some k => safeResult 2 (blowFuses op slot (min n k) s)

def execVppFuseOutOfLimits (p : Fin 4) (op : Fin 3) (slot : Fin 4) (arm : BitVec 8) (n : Fin 65) (s : State) :
    Host.Outcome State Fault Refusal :=
  let w := cmdWord (op.val + 1) slot.val arm
  fromPort p s (s.ownerWrite p A.safeCmd w (fuseStopped (op.val + 1) slot.val n.val w))

/-! ### The debug port -/

/-- A write of SAFE_DBG (R606): an admission is reported; with DEBUG_KILL blown UNLOCK ignores writes. -/
def dbgWrite (p : Nat) (v : Word) (s : State) : State :=
  if s.aon.loaded.debugKill then s
  else
    let was := s.rf A.safeDbg 0 0
    let s1 := if fld v 0 0 = 1 then s.setRf A.safeDbg 0 0 1 else s.setRf A.safeDbg 1 0 0
    if fld v 0 0 = 1 ∧ was = 0 then s1.post [s1.owner] 0x080E [(1, p)] else s1

def execDebugUnlock (p : Fin 4) (v : Word) (s : State) : Host.Outcome State Fault Refusal :=
  fromPort p s (s.ownerWrite p A.safeDbg v (dbgWrite p.val v))

/-- The bytes that a debugger reads. -/
def dbgRead (t : DbgTarget) (n : Nat) (s : State) : List Byte :=
  match t with
  | .reg a => leBytes 4 (s.reg a.toNat).toNat
  | .preg p a => leBytes 4 (s.preg p.val a.toNat).toNat
  | .hbm a => (s.hbm.fetchN a.toNat n).map (fun b => b.1)
  | .loft k a => (s.fab.loft.fetchN (bayKey k.val a.toNat) n).map (fun b => b.1)
  | .s k j => leBytes 4 (s.sReg k.val j.val).toNat
  | .b k j => leBytes 4 (s.bReg k.val j.val).toNat
  | .a k j => leBytes 5 (s.aReg k.val j.val).toNat
  | .gen k => leBytes 5 (s.genIdx k.val).toNat
  | .crucible k h e => leBytes 6 (halfOf s k.val h.val e.val).bits.toNat

/-- What a debugger writes: a register's reserved bits stay 0 (R14). -/
def dbgPut (t : DbgTarget) (bs : List Byte) (s : State) : State :=
  let v := fromLe bs
  match t with
  | .reg a => s.setReg a.toNat (BitVec.ofNat 32 v &&& fieldBits a.toNat)
  | .preg p a => s.setPreg p.val a.toNat (BitVec.ofNat 32 v &&& fieldBits a.toNat)
  | .hbm a => { s with hbm := s.hbm.write (bs.zipIdx.map (fun b => (a.toNat + b.2, b.1, 0))) }
  | .loft k a => s.setLoft (s.fab.loft.write (bs.zipIdx.map (fun b => (bayKey k.val (a.toNat + b.2), b.1, 0))))
  | .s k j => s.setS k.val j.val (BitVec.ofNat 32 v)
  | .b k j => s.setB k.val j.val (BitVec.ofNat 32 v)
  | .a k j => s.setA k.val j.val (BitVec.ofNat 40 v)
  | .gen k => s.setGen k.val (BitVec.ofNat 40 v)
  | .crucible k h e =>
    { s with fab := { s.fab with crucible := smPut ⟨0, 0, false⟩ s.fab.crucible ((32 * k.val + h.val) * 4096 + e.val) ⟨BitVec.ofNat 48 v, 0, false⟩ } }

/-- DEBUG_PORT_ACCESS: admitted only while UNLOCK is 1 (R606). -/
def debugAccess (r : DbgReq) (s : State) : State :=
  if s.rf A.safeDbg 0 0 = 0 ∨ s.aon.loaded.debugKill then s
  else
    let s1 := s.setRf A.safeDbg 1 1 1
    match r with
    | .read t n => { s1 with aon := { s1.aon with dbg := dbgRead t n.val s1 } }
    | .write t bs => dbgPut t bs { s1 with aon := { s1.aon with dbg := [] } }

def execDebugPortAccess (r : DbgReq) (s : State) : Host.Outcome State Fault Refusal := .next (debugAccess r s)

/-! ### The JTAG port (R606) -/

/-- The next state of the TAP controller, by TMS (IEEE 1149.1). -/
def TapState.next (t : TapState) (tms : Bool) : TapState :=
  match t, tms with
  | .reset, true => .reset
  | .reset, false => .idle
  | .idle, true => .selectDr
  | .idle, false => .idle
  | .selectDr, true => .selectIr
  | .selectDr, false => .captureDr
  | .captureDr, true => .exit1Dr
  | .captureDr, false => .shiftDr
  | .shiftDr, true => .exit1Dr
  | .shiftDr, false => .shiftDr
  | .exit1Dr, true => .updateDr
  | .exit1Dr, false => .pauseDr
  | .pauseDr, true => .exit2Dr
  | .pauseDr, false => .pauseDr
  | .exit2Dr, true => .updateDr
  | .exit2Dr, false => .shiftDr
  | .updateDr, true => .selectDr
  | .updateDr, false => .idle
  | .selectIr, true => .reset
  | .selectIr, false => .captureIr
  | .captureIr, true => .exit1Ir
  | .captureIr, false => .shiftIr
  | .shiftIr, true => .exit1Ir
  | .shiftIr, false => .shiftIr
  | .exit1Ir, true => .updateIr
  | .exit1Ir, false => .pauseIr
  | .pauseIr, true => .exit2Ir
  | .pauseIr, false => .pauseIr
  | .exit2Ir, true => .updateIr
  | .exit2Ir, false => .shiftIr
  | .updateIr, true => .selectDr
  | .updateIr, false => .idle

/-- IDCODE of an A1 sample (BIT_CLASS 1), and of a B0 part. -/
def tapIdcode (bitClass : Nat) : Nat := if bitClass = 1 then 0x19160B4F else 0x29160B4F

/-- The bits of a number, the least significant first. -/
def bitList (n v : Nat) : List Bool := (List.range n).map (bitOf v)

/-- What Capture-DR loads: the boundary cells take the levels `pins` finds. -/
def tapCapture (cls : Nat) (ir : TapInstr) (pins : List Bool) : List Bool :=
  match ir with
  | .bypass => [false]
  | .idcode => bitList 32 (tapIdcode cls)
  | _ => (List.range Config.tapCells).map (fun i => pins.getD i false)

/-- The instruction of a code; one that no instruction has selects BYPASS. -/
def tapInstr (code : List Bool) : TapInstr :=
  if code = Config.tapCode 1 then .sample
  else if code = Config.tapCode 2 then .extest
  else if code = Config.tapCode 3 then .idcode
  else .bypass

/-- The shift register after the rising edge. -/
def tapShift (cls : Nat) (j : Jtag) (tdi : Bool) (pins : List Bool) : List Bool :=
  match j.st with
  | .captureDr => tapCapture cls j.ir pins
  | .captureIr => bitList Config.tapIrLen 1
  | .shiftDr | .shiftIr => j.shift.drop 1 ++ [tdi]
  | _ => j.shift

/-- JTAG_TAP_CLOCK: one cycle of TCK. With DEBUG_KILL blown the controller is held in Test-Logic-Reset. -/
def tapClock (tms tdi : Bool) (pins : List Bool) (s : State) : State :=
  let j := s.aon.tap
  let sh := tapShift s.bitClass j tdi pins
  let st := if s.aon.loaded.debugKill then .reset else j.st.next tms
  let j1 : Jtag := match st with
    | .reset => { j with st := st, ir := .idcode, shift := sh, tdo := none }
    | .shiftDr | .shiftIr => { j with st := st, shift := sh, tdo := sh.head? }
    | .updateIr => { j with st := st, ir := tapInstr sh, shift := sh, tdo := none }
    | .updateDr => { j with st := st, shift := sh, cells := if j.ir = .sample ∨ j.ir = .extest then sh else j.cells, tdo := none }
    | _ => { j with st := st, shift := sh, tdo := none }
  { s with aon := { s.aon with tap := j1 } }

def execJtagTapClock (tms tdi : Bool) (pins : List Bool) (s : State) : Host.Outcome State Fault Refusal := .next (tapClock tms tdi pins s)

/-! ### The log export (R609) -/

/-- Event 0x080D, and GO clears. -/
def exportEnds (count : Nat) (s : State) : State :=
  let s1 := s.setRf A.logExpCtl 31 31 0
  s1.post [s1.owner] 0x080D [(4, s1.rf A.logExpIdx 19 0), (4, count)]

/-- A write of LOG_EXP_CTL by port p: a reserved COUNT, or a write while an export runs, is ignored; GO starts the export, which is refused while Bus
Master Enable is clear. -/
def exportWrite (p : Nat) (v : Word) (s : State) : State :=
  let n := fld v 20 0
  if s.rf A.logExpCtl 31 31 = 1 ∨ (fld v 31 31 = 1 ∧ (n = 0 ∨ 1048576 < n)) then s
  else
    let s1 := s.setRf A.logExpCtl 20 0 n
    if fld v 31 31 = 0 then s1
    else if (s1.pcfg p).bme then { s1 with acc := { s1.acc with exporter := p } }.setRf A.logExpCtl 31 31 1
    else exportEnds 0 s1

def execLogExport (p : Fin 4) (v : Word) (s : State) : Host.Outcome State Fault Refusal :=
  fromPort p s (s.ownerWrite p A.logExpCtl v (exportWrite p.val v))

/-- Entry k of the export is read from the HBM event log and written to host memory. -/
def exportEntry (s : State) (k : Nat) : State :=
  let p := s.acc.exporter
  let i := (s.rf A.logExpIdx 19 0 + k) % 1048576
  let h := (s.reg A.logExpAddrLo).toNat / 64 * 64 + (s.reg A.logExpAddrHi).toNat * 2 ^ 32
  let a := hlogBase + 64 * i
  let bs := s.hbm.fetchN a 64
  (s.hbmReads 3 true a 64).hostWriteP p (h + 64 * k) (bs.map (fun b => (b.1, decide (b.2 ≠ 0))))

/-- The last of an export runs as copy-channel work: in an open stack window that telemetry leaves, and in no pause (R38, R355, R609). In the recovery state no
frame runs, and nothing stands before it. -/
def exportRuns (s : State) : Bool := decide (s.stage = 0xE) || (s.slk.win && !s.rast.paused && !telemetryWaits s)

/-- LOG_EXPORT_DONE: the entries stand in host memory. -/
def exportDone (s : State) : State :=
  if s.rf A.logExpCtl 31 31 = 0 then s
  else if !(s.pcfg s.acc.exporter).bme then exportEnds 0 s
  else if !exportRuns s then s
  else
    let n := s.rf A.logExpCtl 20 0
    exportEnds n ((List.range n).foldl exportEntry s)

def execLogExportDone (s : State) : Host.Outcome State Fault Refusal := .next (exportDone s)

end Sys2Proof.Machine
end

