-- ==== Sys2Proof/Machine/Domain.lean ====
section
/-! DEFINITION. Resets of one port and of domain groups (R558, R567 to R571), and a port's link and configuration space (R529, R539, R596). -/

namespace Sys2Proof.Machine

/-! ### Ports -/

/-- Layers that a slot's passages feed. -/
def Slot.layerMask (x : Slot) : Nat := x.passages.foldl (fun m g => m ||| g.layers) 0

/-- Other ports whose layers a withdrawn slot of port p fed hear of it (R558). -/
def tellFed (p n : Nat) (s : State) : State :=
  let x := s.slot n
  let ls := (List.range 8).filter (fun l => bitOf x.layerMask l)
  let qs := (uniq (ls.map s.layerOwner)).filter (fun q => decide (q ≠ p))
  if qs = [] then s else s.post qs 0x0103 [(4, s.handle n), (1, 2)]

/-- A channel of a port that is reset: it does nothing more, and leaves at the next boundary. -/
def portSlot (p : Nat) (s : State) (n : Nat) : State :=
  let x := s.slot n
  if x.port = p ∧ (x.st = .inUse ∨ x.st = .closing ∨ x.st = .error) then
    let s1 := match x.job with | some j => s.setJob j Job.idle | none => s
    (tellFed p n s1).setSlot n { x with
      st := .closing, live := false, run := none, admitSt := 0, wdraw := [(.portReset, s.rast.frame + 1)] }
  else s

/-- The per-port registers that a port reset clears: fence counters, the event queue's, and the command's; and the MSI-X table with its pending bits. -/
def portResetReg (a : Nat) : Bool :=
  decide (0x100020 ≤ a ∧ a < 0x1000C0) || decide (0xF00000 ≤ a ∧ a < 0xF01008)

/-- n words in flight in crossing k at a reset of one of its sides are discarded and counted (R568). -/
def flightLost (k n : Nat) (s : State) : State := s.bump (A.sysXingCnt k) 31 16 n

/-- A reset of port p (R558): by a Function Level Reset, PERST of the port, or its group. The accesses of the port that wait are in flight in its crossings. -/
def portReset (p : Nat) (s : State) : State :=
  let s0 := flightLost p (s.acc.stalled.filter (fun q => decide (q.port = p))).length
    (flightLost (4 + p) (s.bar2Q.filter (fun e => decide (e.1 = p))).length s)
  let s1 := bar2Drop p ((s0.slots.map (fun e => e.1)).foldl (portSlot p) s0)
  { s1 with
    adm := s1.adm.filter (fun q => decide (q.port ≠ p))
    pregs := smDrop (fun k => decide (k / 2 ^ 24 = p) && portResetReg (k % 2 ^ 24)) s1.pregs
    cfg := smPut PortCfg.reset s1.cfg p PortCfg.reset
    ev := { s1.ev with mergeOf := smDrop (fun k => decide (k / 2 ^ 16 = p)) s1.ev.mergeOf, dropsSince := smPut 0 s1.ev.dropsSince p 0 }
    acc := { s1.acc with
      stalled := s1.acc.stalled.filter (fun q => decide (q.port ≠ p))
      eqSeen := smPut 0x10000 s1.acc.eqSeen p 0x10000
      portResets := if s1.acc.portResets.contains p then s1.acc.portResets else s1.acc.portResets ++ [p] }
    aon := { s1.aon with refLost := s1.aon.refLost.filter (fun q => decide (q ≠ p)) } }

/-- The wedged marks of some crossings clear (R567, R571). -/
def unwedge (mask : Nat) (s : State) : State := s.setReg A.sysXingWedged (s.reg A.sysXingWedged &&& ~~~(BitVec.ofNat 32 mask))

/-- The crossings of HOSTp. -/
def hostXings (p : Nat) : Nat := 2 ^ p + 2 ^ (4 + p)

def execPortReset (p : Fin 4) (s : State) : Host.Outcome State Fault Refusal :=
  fromPort p s (unwedge (hostXings p.val) (portReset p.val s))

/-! ### Domain groups -/

/-- A request to reset group k (bit of SYS_DRST) by port p (R569 to R571). -/
def drstGroup (p : Nat) (s : State) (k : Nat) : State :=
  if bitAt (s.reg A.sysDrst) k then s else
  let on := s.setRf A.sysDrst k k 1
  match k with
  | 0 => if s.rf A.rastOutCtl 0 0 = 1 then { on with out := { on.out with lost := true, training := true, trained := false, line := [] } } else on
  | 1 =>
    let t := inputState ⟨false, false, false, 0, 0, 0, 0, 0, 0, false, 0⟩ on
    { t with inp := { t.inp with storing := false, hpd := false } }
  | 2 =>
    let n := (List.range 6).foldl (fun k q => k + (on.wport q).waiting) 0
    (List.range 6).foldl (fun t q => portDown q 4 t) (flightLost 11 n (quiet on))
  | 3 => ptpRestart (on.setServo 0 0)
  | 4 => if s.rast.paused then on else s.post [s.owner] 0x010C [(2, 2 ^ 4)]
  | _ => if k - 8 = p ∨ !s.ports.contains (k - 8) then s else portReset (k - 8) on

/-- A write of SYS_DRST by port p. -/
def drstWrite (p : Nat) (v : Word) (s : State) : State :=
  ([0, 1, 2, 3, 4, 8, 9, 10, 11].filter (fun k => bitAt v k)).foldl (drstGroup p) s

def drstCmd (p : Fin 4) (k : Nat) (s : State) : Host.Outcome State Fault Refusal :=
  fromPort p s (s.ownerWrite p A.sysDrst (BitVec.ofNat 32 (2 ^ k)) (drstWrite p.val (BitVec.ofNat 32 (2 ^ k))))

def execDrstOut (p : Fin 4) (s : State) : Host.Outcome State Fault Refusal := drstCmd p 0 s
def execDrstIn (p : Fin 4) (s : State) : Host.Outcome State Fault Refusal := drstCmd p 1 s
def execDrstLink (p : Fin 4) (s : State) : Host.Outcome State Fault Refusal := drstCmd p 2 s
def execDrstTime (p : Fin 4) (s : State) : Host.Outcome State Fault Refusal := drstCmd p 3 s
def execDrstMem (p : Fin 4) (s : State) : Host.Outcome State Fault Refusal := drstCmd p 4 s
def execDrstHost (p q : Fin 4) (s : State) : Host.Outcome State Fault Refusal := drstCmd p (8 + q.val) s

/-- The crossings that the groups of a mask contain (R563, R569). -/
def groupXings (m : Nat) : Nat :=
  b2n (bitOf m 0) * 2 ^ 8 + b2n (bitOf m 1) * 2 ^ 9 + b2n (bitOf m 2) * 2 ^ 11 + b2n (bitOf m 3) * 2 ^ 12 + b2n (bitOf m 4) * 2 ^ 10 +
    (List.range 4).foldl (fun n p => n + b2n (bitOf m (8 + p)) * hostXings p) 0

/-- DOMAIN_RESET_DONE: the group resets under way complete (R571); Wearo ports train again, IN_HPD is released while the input is
enabled, and accesses that waited for the stack are served. -/
def domainResetDone (s : State) : State :=
  let m := s.rf A.sysDrst 11 0
  if m = 0 then s
  else
    let s1 := unwedge (groupXings m) (s.setReg A.sysDrst 0)
    let s2 := if bitOf m 1 then { s1 with inp := { s1.inp with hpd := decide (s1.rf A.rastInCtl 0 0 = 1) && !s1.inp.pulse } } else s1
    let s3 := if bitOf m 2 then (List.range 6).foldl (fun t q => startTraining q t) (quiet s2) else s2
    let s4 := s3.post [s3.owner] 0x0109 [(2, m)]
    if bitOf m 4 then serveBar2 s4 else s4

def execDomainResetDone (s : State) : Host.Outcome State Fault Refusal := .next (domainResetDone s)

/-! ### The PCIe link -/

/-- PCIE_LINK_TRAINED: HOST_PORT.SPEED follows the link (R539); 0 while it retrains. A port without its reference clock does not train. -/
def linkTrained (p speed : Nat) (s : State) : State :=
  if 6 < speed ∨ s.aon.refLost.contains p then s else s.setPrf p A.hostPort 19 16 speed

def execPcieLinkTrained (p : Fin 4) (speed : BitVec 4) (s : State) : Host.Outcome State Fault Refusal :=
  fromPort p s (linkTrained p.val speed.toNat s)

/-- PORT_REFERENCE_CLOCK_LOST: the port's HK stops (R560, R610). -/
def refClockLost (p : Nat) (s : State) : State :=
  if s.aon.refLost.contains p then s
  else { s with aon := { s.aon with refLost := s.aon.refLost ++ [p] } }.setPrf p A.hostPort 19 16 0

def execPortReferenceClockLost (p : Fin 4) (s : State) : Host.Outcome State Fault Refusal := fromPort p s (refClockLost p.val s)

/-! ### Configuration space -/

def State.setCfg (s : State) (p : Nat) (c : PortCfg) : State := { s with cfg := smPut PortCfg.reset s.cfg p c }

/-- A double word of port p's configuration space (R529): identifiers, command, class and revision, BARs, and subsystem. -/
def cfgRead (p dw : Nat) (s : State) : Word :=
  let c := s.pcfg p
  match dw with
  | 0 => 0x91601E7A
  | 1 => setFld (Config.cfgSpace 1) 1 2 (b2n c.mem + 2 * b2n c.bme)
  | 2 => if s.bitClass = 1 then 0x12000011 else 0x12000020
  | 3 => setFld (Config.cfgSpace 3) 16 8 0
  | 4 => BitVec.ofNat 32 (c.bar0.toNat % 2 ^ 32 + 4)
  | 5 => BitVec.ofNat 32 (c.bar0.toNat / 2 ^ 32)
  | 6 => 0xC
  | 7 => BitVec.ofNat 32 (c.bar2.toNat / 2 ^ 32)
  | 8 => 0
  | 9 => 0
  | 11 => BitVec.ofNat 32 (0x1E7A + (if s.grade = 2 then 2 else 1) * 2 ^ 16)
  | _ => Config.cfgSpace dw

/-- A base address register written: BAR0 keeps bits [63:24], BAR2 bits [63:32]; the others are absent. -/
def cfgBar (n : Nat) (v : Word) (c : PortCfg) : PortCfg :=
  match n with
  | 0 => { c with bar0 := BitVec.ofNat 64 (c.bar0.toNat / 2 ^ 32 * 2 ^ 32 + v.toNat / 2 ^ 24 * 2 ^ 24) }
  | 1 => { c with bar0 := BitVec.ofNat 64 (c.bar0.toNat % 2 ^ 32 + v.toNat * 2 ^ 32) }
  | 3 => { c with bar2 := BitVec.ofNat 64 (v.toNat * 2 ^ 32) }
  | _ => c

/-- A configuration request reaches port p: Request Retry Status until the boot is complete, but for port 0 in the recovery state (R596, R599). -/
def configuration (p : Nat) (r : CfgReq) (s : State) : State :=
  if s.aon.refLost.contains p ∨ bitAt (s.reg A.sysDrst) (8 + p) then answer p [] s
  else if s.stage ≠ 0xF ∧ ¬(s.stage = 0xE ∧ p = 0) then { s with answer := smPut ([], false) s.answer p ([], true) }
  else
    let c := s.pcfg p
    match r with
    | .read dw => answer p ((leBytes 4 (cfgRead p dw.toNat s).toNat).map (fun b => (b, 0))) s
    | .command m b => ((answer p [] (s.setCfg p { c with mem := m, bme := b })).msixFlush p).eqFlush p
    | .bar n v => answer p [] (s.setCfg p (cfgBar n.val v c))
    | .msixCtl e m => (answer p [] (s.setCfg p { c with msixEn := e, msixMask := m })).msixFlush p
    | .power d => answer p [] (s.setCfg p { c with d3 := d })

def execConfigurationRequest (p : Fin 4) (r : CfgReq) (s : State) : Host.Outcome State Fault Refusal :=
  fromPort p s (configuration p.val r s)

end Sys2Proof.Machine
end

