-- ==== Sys2Proof/Machine/Boundary.lean ====
section
/-! DEFINITION. The frame boundary (R11, R19, R46, R47): the end of a frame, the pause (R354), the start of the next frame, and the resume (R358). -/

namespace Sys2Proof.Machine

/-! ### The end of a frame -/

/-- The frame ends with the line in progress, where its end has not come yet. -/
def endFrame (s : State) : State :=
  if s.rast.due then s else
  let s1 := jumpEnd (lineEnd s)
  shiftFlight (lineLen s).1 { s1 with
    rast := { s1.rast with due := true, sync := { s1.rast.sync with followMiss := followMissed s s1.rast.time.toNat } } }

/-- The record of the frame is closed: kept where it will be written or compared (R336, R339, R345). What the next one gathers starts empty. -/
def recordEnd (s : State) : State :=
  let r := closeRecord s
  let done := if s.rf A.logRrecCtl 0 0 = 1 ∨ r.expect.isSome then s.rcd.done ++ [r] else s.rcd.done
  { s with rcd := { s.rcd with
      rptMask := 0, dropMask := 0, fitLate := 0, evt := 0, cycles := 0, lineSigs := [], ueHbm := false, ueLoft := false, partTold := 0
      applied := none, done := done } }

/-- What the fleet keeps of a frame ends with it: instances are released (R483, R495), and the agreement on its successor's reef is used up. -/
def fleetEnd (s : State) : State :=
  let next := (s.f16 + 1) % 65536
  s.setFleet { s.fleet with
    gathers := s.fleet.gathers.filter (fun g => decide (g.f = next)), staleTold := false, late := [], fb := none, lsReef := none }

/-! ### The pause -/

/-- The personality is to hold the picture in self-refresh during a pause (R416). -/
def pauseHolds (s : State) : Bool :=
  let pers := s.rf A.rastOutCtl 2 1
  decide (s.rf A.rastOutCtl 0 0 = 1 ∧ (pers = 1 ∨ pers = 2) ∧ s.rf A.rastSrCtl 0 0 = 1 ∧ s.rf A.rastSrCtl 4 4 = 1 ∧ s.rf A.rastSrCtl 8 8 = 0)

/-- Self-refresh is entered for a pause where it is asked for; a KIND that does not suit the personality is refused as any entry is (R413, R416). -/
def pauseHold (s : State) : State := if pauseHolds s then (if srAllowed s then srEnter s else srRefused s) else s

/-- The pause at the boundary into P (R354, R355, R416, R588). What the last frame's words have begun still comes about, and BAR2 accesses
no longer wait (R515). -/
def pauseNow (s0 : State) : State :=
  let s := settleAll s0
  let p := s.rast.frame + 1
  let s1 := { s with
    rast := { s.rast with paused := true, pauseAt := none }, gov := { s.gov with vid := reefVid 0 }, out := { s.out with signals := [] } }
  let s2 := (s1.setRf A.sysPauseCtl 0 0 0).setRf A.sysPauseCtl 10 8 2
  let s3 := (s2.setLoHi A.sysPauseFLo A.sysPauseFHi 16 p.toNat).post s2.ports 0x0420 [(6, p.toNat)]
  serveBar2 (pauseHold s3)

/-! ### The start of a frame -/

/-- Frame numbers of what is to come move with F (R373). -/
def renumber (d : Frame) (s : State) : State :=
  let y := s.rast.sync
  let f (x : Frame × Nat) : Frame × Nat := (x.1 + d, x.2)
  { s with
    rast := { s.rast with
      frame := s.rast.frame + d
      pauseAt := s.rast.pauseAt.map (fun x => x + d)
      resumedF := s.rast.resumedF.map (fun x => x + d)
      train := s.rast.train.map (fun (t : Train) => { t with frame := t.frame + d })
      sync := { y with prev := y.prev.map f, watchPrev := y.watchPrev.map f } }
    slots := s.slots.map (fun e => (e.1, { e.2 with wdraw := e.2.wdraw.map (fun w => (w.1, w.2 + d)) }))
    commits := s.commits.map (fun c => { c with target := c.target + d })
    fab := { s.fab with
      segs := s.fab.segs.map (fun (g : Seg) => { g with frame := g.frame + d })
      flight := s.fab.flight.map (fun (x : Flight) => { x with work := match x.work with
        | .mark ch spar layer line fr pos => .mark ch spar layer line (fr + d) pos
        | w => w }) }
    off := s.off.map (fun (x : Nat × Nat × Nat) => (x.1, (x.2.1 + d.toNat) % 2 ^ 48, x.2.2))
    out := { s.out with
      fetched := s.out.fetched.map (fun x => { x with frame := x.frame + d })
      psn := s.out.psn.map (fun (x : Nat × Nat × Nat) => (x.1, (x.2.1 + d.toNat) % 2 ^ 48, x.2.2)) } }

/-- F is set to the alignment point of the boundary at which the generator's first lock is seen, where FSET asks for it (R373). -/
def setFrame (s : State) : State :=
  let y := s.rast.sync
  if !y.fsetArm then s
  else
    let s1 := s.setSync { y with fsetArm := false, fsetDone := true }
    let ask := decide (fld (after (s.commits.filter (fun c => decide (c.target = s.rast.frame))) s A.rastSyncCtl) 10 10 = 1 ∧ s.rf A.rastSyncStat 6 4 = 3)
    match y.prev with
    | some p =>
      if ask ∧ !y.fsetDone then
        renumber (BitVec.ofNat 48 (y.kRef + (s.rast.frame - p.1).toNat / s.syncDiv) - s.rast.frame) s1
      else s1
    | none => s1

/-- What the channel of slot n declared, to be zeroed (R615). -/
def zeroings (x : Slot) : List Zeroing :=
  x.passages.map (fun g => ⟨g.sparMask, g.slotUse, g.sUse, g.aUse, g.gen, g.ranges.filter (fun r => !r.shared)⟩) ++
    (match x.fit with | some g => [⟨g.sparMask, g.slotUse, g.sUse, g.aUse, g.gen, g.ranges.filter (fun r => !r.shared)⟩] | none => [])

/-- What a slot holds is released (R551, R615). -/
def releaseSlot (n : Nat) (s : State) : State :=
  let x := s.slot n
  let s1 := s.setSlot n { x with passages := [], fit := none, loaded := false, live := false, admitSt := 0, run := none }
  let s2 := match x.job with | some j => s1.setJob j Job.idle | none => s1
  { s2 with zeroQ := s2.zeroQ ++ zeroings x }

/-- A slot leaves CLOSING: it is FREE with the next generation, or QUARANTINED at its last (R543). -/
def freeSlotNow (n : Nat) (s : State) : State :=
  let x := s.slot n
  if x.gen < 0xFFFFF then s.setSlot n { Slot.unused with gen := x.gen + 1, port := x.port }
  else (s.setSlot n { Slot.unused with st := .quarantined, gen := x.gen, port := x.port }).post [x.port] 0x010A [(2, n)]

/-- A departure of slot n that is due (R551, R558). A fitting job in a step stops at the end of it, so its channel waits for the next boundary. -/
def leaveNow (n : Nat) (s : State) (why : Leave) : State :=
  let x := s.slot n
  let busy : Bool := match x.job with | some j => x.fit.isSome && (s.job j).inStep | none => false
  if busy then
    let s1 := match x.job with | some j => s.setJob j { s.job j with stopping := true } | none => s
    s1.setSlot n { x with wdraw := x.wdraw ++ [(why, s.rast.frame + 1)] }
  else
    let h := s.handle n
    let t := releaseSlot n s
    match why with
    | .withdraw => t.post [x.port] 0x0103 [(4, h), (1, 0)]
    | .destroy => (freeSlotNow n (t.post [x.port] 0x0103 [(4, h), (1, 0)])).post [x.port] 0x0101 [(4, h)]
    | .portReset => freeSlotNow n t

/-- The departures of slot n that are due in the frame that starts. -/
def leaveSlot (s : State) (n : Nat) : State :=
  let x := s.slot n
  let due := x.wdraw.filter (fun w => decide (w.2 = s.rast.frame))
  if due = [] then s
  else (due.map (fun w => w.1)).foldl (leaveNow n) (s.setSlot n { x with wdraw := x.wdraw.filter (fun w => decide (w.2 ≠ s.rast.frame)) })

/-- Layers and signature regions of the ports that were reset are switched off (R558). -/
def portResetsEnd (s : State) : State :=
  let off (p l : Nat) (t : State) : State := if t.layerOwner l = p then t.setRf (A.compLayerCtl l) 0 0 0 else t
  let sig (p n : Nat) (t : State) : State := if t.rf (A.compSigCtl n) 5 4 = p then t.setRf (A.compSigCtl n) 0 0 0 else t
  let t := s.acc.portResets.foldl (fun t p =>
    (List.range 16).foldl (fun (u : State) n => sig p n u) ((List.range 8).foldl (fun (u : State) l => off p l u) t)) s
  { t with acc := { t.acc with portResets := [] } }

/-- The replay record of the frame that starts is applied, or replay stops (R340, R341). -/
def replayApply (s : State) : State :=
  let fetched := s.rcd.fetchedRec
  let s0 := { s with rcd := { s.rcd with fetchedRec := none, applied := none } }
  let stop (code : Nat) : State := { s0 with rcd := { s0.rcd with rplyStopped := true } }.post s0.ports code [s0.vF]
  if s.rf A.logRplyCtl 0 0 = 0 ∨ s.rcd.rplyStopped then s0
  else if max 1 (s.rf A.logRplySize 22 0) * 128 ≤ (s.reg A.logRplyRptr).toNat then stop 0x0401
  else match fetched with
    | some r =>
      if r.frame = s.rast.frame then
        { s0.setReg A.logRplyRptr (s0.reg A.logRplyRptr + 1) with rcd := { s0.rcd with applied := some r } }
      else stop 0x0400
    | none => stop 0x0400

/-- The committed values of the frame that starts, taken out of the queue. -/
def takeCommits (sent : Bool) (s : State) : State :=
  let cs := s.commits.filter (fun c => decide (c.target = s.rast.frame))
  commitAll sent cs { s with commits := s.commits.filter (fun c => decide (c.target ≠ s.rast.frame)) }

/-- The position, the clocks and what lasts one frame (R11, R20, R199). -/
def nextFrame (s : State) : State :=
  { closeSlack 0 s with
    rast := { s.rast with frame := s.rast.frame + 1, line := 0, due := false, t0 := s.rast.time, tod0 := s.tod, rpt := false }
    fab := { s.fab with muted := [], ownerFaulted := [], side := 1 - s.fab.side }
    inp := { s.inp with roleTold := false }
    out := { s.out with sig := [], crc := [], signals := [] }
    slk := { (closeSlack 0 s).slk with calDone := false } }

/-- The layers that the lead checks of the frame before have switched off in the frame that starts (R401, R411, R412). -/
def offNow (s : State) : State :=
  let f := s.rast.frame.toNat
  let rest := s.off.filter (fun (p : Nat × Nat × Nat) => decide (p.2.1 = f))
  ({ s with off := rest }).setRf A.rastUndrCnt 31 24 ((uniq (rest.map (fun (p : Nat × Nat × Nat) => p.1))).foldl (fun m l => m + 2 ^ l) 0)

/-- Programs whose copy has completed run from this frame on (R177). -/
def plansLive (s : State) : State :=
  { s with slots := s.slots.map (fun e => (e.1, { e.2 with live := e.2.live || (e.2.loaded && decide (e.2.st = .inUse)) })) }

/-- The marks of lines of the frame that starts have no effect for a layer that is off in it (R426): their ranges go back to the spars. -/
def dropMarks (s : State) : State :=
  { s with fab := { s.fab with segs := s.fab.segs.map (fun (g : Seg) =>
      if g.st = .marked ∧ s.rf (A.compLayerCtl g.layer) 0 0 = 0 then { g with st := .sparOwned } else g) } }

/-- What took effect at the boundary as the generator, the segments and the link see it (R382, R409, R426). -/
def settleIn (s : State) : State :=
  let t := dropMarks (holdFollow s)
  { t with out := { t.out with signals := t.out.signals ++ frameSignals t } }

/-- Self-refresh that a pause entered is left at the resume boundary, unless it has been asked for since (R416). -/
def leaveHeld (held : Bool) (s : State) : State :=
  if held ∧ s.rf A.rastSrCtl 8 8 = 1 ∧ s.rf A.rastSrCtl 1 1 = 0 then srExit s else s

/-- The commits of the frame that starts, and what changes of the link and of suspension with it (R47, R405, R406, R416, R558). `held`: self-refresh was entered for a
pause that ends. -/
def enterFrame (held sent : Bool) (s : State) : State := trainProgress (leaveHeld held (takeCommits sent (portResetsEnd s)))

/-- (F + 1, 0, 0): F increments, the reef is in force, commits take effect, and the tick is delivered, all in the one cycle (R19, R47, R69). -/
def newFrame (held : Bool) (s : State) : State :=
  let sent := s.composing && s.linkLive
  let a := applyReef s
  let s1 := fleetEnd (recordEnd (switchReef a.1 a.2.2.2))
  let s2 := setFrame (nextFrame s1)
  let s3 := (s2.slots.map (fun e => e.1)).foldl leaveSlot s2
  let s4 := settleIn (inputRefresh (s3.reg A.rastInStat) (enterFrame held sent s3))
  let s5 := plansLive { s4 with fab := { s4.fab with breg := boundWords s4 } }
  let s6 := { s5 with rcd := { s5.rcd with flags := a.1 + 4 * b2n a.2.1 + 8 * b2n a.2.2.1, src := recSrc s5 } }
  let s7 := (List.range 8).foldl fitPubBoundary (replayApply s6)
  deliver (dropFetched (tickSegs (offNow s7)))

/-- FRAME_BOUNDARY: the frame ends, and the next one starts or the pause begins. `nj` are the energies that the seven meters measured since they were last
read (R576, R577). A stopped halyard has no boundary. -/
def frameBoundary (nj : List (BitVec 64)) (s : State) : State :=
  if s.rast.paused ∨ s.halted then s else
  let s1 := endFrame s
  let s2 := updateEst s1.rast.time (addEnergy nj s1)
  if s2.rast.pauseAt = some (s2.rast.frame + 1) then pauseNow s2 else newFrame false s2

def execFrameBoundary (nj : List (BitVec 64)) (s : State) : Host.Outcome State Fault Refusal := .next (frameBoundary nj s)

/-! ### The resume -/

/-- The generator's frames during the pause leave the count (R358). -/
def dropGhosts (s : State) : State :=
  let y := s.rast.sync
  let d := BitVec.ofNat 48 y.ghost
  let f (x : Frame × Nat) : Frame × Nat := (x.1 - d, x.2)
  s.setSync { y with ghost := 0, prev := y.prev.map f, watchPrev := y.watchPrev.map f }

/-- The generator may end the pause: its source has locked, or there is no lock to wait for (R358). -/
def resumeReady (s : State) : Bool :=
  decide (s.rf A.sysPauseCtl 10 8 = 5) && s.rast.paused && !s.halted && decide (4 ≤ s.rf A.rastSyncStat 6 4 ∨ s.rf A.rastSyncStat 1 0 ≠ 1)

/-- RESUMED: the generator's next frame start becomes (P, 0, 0) (R358, R416). The generator runs at least one frame between the pause and the resume.
`nj` are the energies measured since the meters were last read. -/
def resumed (nj : List (BitVec 64)) (s : State) : State :=
  if !resumeReady s then s else
  let s1 := dropGhosts (ghostFinish (if s.rast.sync.ghost = 0 then ghostFrame s else s))
  let held := decide (s1.rf A.rastSrCtl 8 8 = 1 ∧ s1.rf A.rastSrCtl 1 1 = 0)
  let s2 := addEnergy nj (((s1.setRf A.sysPauseCtl 3 3 0).setRf A.sysPauseCtl 10 8 0))
  let s3 := newFrame held { s2 with
    rast := { s2.rast with paused := false }
    gov := { s2.gov with eFrame := s2.energy } }
  s3.post s3.ports 0x0424 [s3.vF]

def execResumed (nj : List (BitVec 64)) (s : State) : Host.Outcome State Fault Refusal := .next (resumed nj s)

end Sys2Proof.Machine
end

