-- ==== Sys2Proof/Machine/Ahead.lean ====
section
/-! DEFINITION. What the part does for the lines of the next frame before that frame starts: the fetch of memory-plane layers (R428) and the lead check (R45, R410).
Both go by the registers that the next frame's boundary will leave in force, committed values that it refuses set aside (R414, R415, R429, R439, R440). -/

namespace Sys2Proof.Machine

/-- The state as the next frame will find its registers, its suspension and its self-refresh, by what has been committed so far. -/
def ahead (s : State) : State := enterFrame false (s.composing && s.linkLive) { s with rast := { s.rast with frame := s.rast.frame + 1 } }

/-- The state that a line of frame `f`, this one or the next, runs in. -/
def viewOf (s : State) (f : Frame) : State := if f = s.rast.frame then s else ahead s

/-- LAYER_FETCH of layer l, in the line in progress (R428): what comes about in it has done so. -/
def layerFetchNow (l : Nat) (s : State) : State :=
  match fetchedLine s with
  | some (f, n) => layerFetch (viewOf s f) f n l s
  | none => s

def execLayerFetch (l : Fin 8) (s : State) : Host.Outcome State Fault Refusal := .next (layerFetchNow l.val s)

/-- LEAD_CHECK at C = 0 of the line in progress (R45, R206, R401, R410), after the marks that take effect in that cycle. -/
def leadCheckNow (s0 : State) : State :=
  let s := settleTo 0 1 s0
  match checkedLine s with
  | some (f, n) => leadCheck (viewOf s f) f n s
  | none => s

def execLeadCheck (s : State) : Host.Outcome State Fault Refusal := .next (leadCheckNow s)

end Sys2Proof.Machine
end

