-- ==== Sys2Proof/Machine/Offer.lean ====
section
/-! DEFINITION. FIT_BUNDLE: the offer of slack to the background channels (R38, R311). -/

namespace Sys2Proof.Machine

/-- A copy batch with a loft destination waits that completes within what is left of the interval: it comes before the background channels (R38). -/
def loftBatchWaits (s : State) : Bool :=
  s.slots.any (fun e => decide (e.2.kind = .copy ∧ e.2.st = .inUse) &&
    (match e.2.run with | some c => descLoft c.desc && decide (batchLen s c ≠ 0) | none => false))

/-- FIT_BUNDLE: the scheduler offers what is left of the open slack interval to the background channels, after the kinds above them (R38, R311). What comes about
before the first cycle that it offers has done so. -/
def fitBundle (s : State) : State :=
  let t := reachOffer s
  if loftBatchWaits t then t else fitOffer (bgOrder t) t

def execFitBundle (s : State) : Host.Outcome State Fault Refusal :=
  .next (if s.slk.isOpen ∧ !s.rast.paused then fitBundle s else s)

end Sys2Proof.Machine
end

