-- ==== Sys2Proof/Machine/Pause.lean ====
section
/-! DEFINITION. Pause, save, load and resume (R353 to R358). The rules give the sections of a save image and their order; where they give no encoding of an
item, the encoding here is the model's (DESIGN CHOICE, log 40). -/

namespace Sys2Proof.Machine

/-- STATE of SYS_PAUSE_CTL. -/
def State.pauseState (s : State) : Nat := s.rf A.sysPauseCtl 10 8

/-- STATE set. -/
def State.setPauseState (s : State) (v : Nat) : State := s.setRf A.sysPauseCtl 10 8 v

/-- P: the next frame to run. -/
def State.nextP (s : State) : Nat := (s.rast.frame + 1).toNat

/-! ### PAUSE -/

/-- A write of PAUSE that lands at cycle c (R354). -/
def pauseRequest (c : Nat) (s : State) : State :=
  if s.pauseState = 0 then
    { (s.setRf A.sysPauseCtl 0 0 1).setPauseState 1 with rast := { s.rast with pauseAt := some (landTarget s c) } }
  else s

/-! ### The save image (R356) -/

/-- A passage's header as its image holds it (R172). -/
def passageHeader (g : Passage) : List Byte :=
  leBytes 2 0x9160 ++ leBytes 1 1 ++ leBytes 1 g.reef ++ leBytes 2 g.linesTotal ++ leBytes 2 g.linesActive ++ leBytes 4 g.linePeriod ++
    leBytes 2 g.w ++ leBytes 1 g.sets.length ++ leBytes 1 g.layers ++ leBytes 8 g.sparMask ++ leBytes 4 g.slotUse ++ leBytes 4 g.sUse ++
    leBytes 2 g.bUse ++ leBytes 1 g.aUse ++ leBytes 1 g.watchUse ++ leBytes 4 (b2n g.gen) ++ g.segsPerLine.flatMap (leBytes 1) ++
    rangeBytes g.ranges ++ leBytes 2 g.pairUse ++ leBytes 14 0 ++ g.setMap.flatMap (leBytes 1)

/-- A fitting image's header as its image holds it (R306). -/
def fitHeader (g : FitImage) : List Byte :=
  leBytes 2 0x9160 ++ leBytes 1 0x81 ++ leBytes 1 g.reefMask ++ leBytes 4 g.steps ++ leBytes 8 g.sparMask ++ leBytes 4 g.slotUse ++
    leBytes 4 g.sUse ++ leBytes 2 g.bUse ++ leBytes 1 g.aUse ++ leBytes 1 (b2n g.gen) ++ leBytes 1 g.nbund ++ leBytes 1 0 ++
    leBytes 2 g.psteps ++ g.wlim.flatMap (fun x => leBytes 2 x.1 ++ leBytes 2 x.2) ++ g.reefOfs.flatMap (leBytes 4) ++
    rangeBytes g.ranges ++ g.setMap.flatMap (leBytes 1) ++ List.replicate 240 0

/-- The CRC-32C over the headers of every admitted passage and fitting image, in the order of their handles. -/
def admittedCrc (s : State) : Nat :=
  let hs := sortBy (fun (e : Nat × Slot) => s.handle e.1) s.slots
  (crc32c (hs.flatMap (fun e => e.2.passages.flatMap passageHeader ++ (match e.2.fit with | some g => fitHeader g | none => [])))).toNat

/-- The logical identities present. -/
def presentMask (s : State) : Nat := s.spars.foldl (fun m n => m + 2 ^ n) 0

/-- The registers of a spar: 280 bytes, zero where it is absent. -/
def saveRegs (s : State) (n : Nat) : List IByte :=
  if s.absent n then num 280 0 else
  (List.range 32).flatMap (fun k => num 4 (s.sReg n k).toNat) ++ (List.range 8).flatMap (fun k => num 8 (s.aReg n k).toNat) ++
    num 8 (s.genIdx n).toNat ++ num 4 (s.reg (A.sparSat n)).toNat ++ num 4 (s.reg (A.sparUfz n)).toNat ++ num 4 (s.reg (A.sparPoi n)).toNat ++
    num 4 (s.reg (A.sparCrucPerr n)).toNat ++ (List.range 16).flatMap (fun k => num 4 (s.reg (A.sparBound n k)).toNat)

/-- The crucible of a spar: its descriptor records, then its full slots. -/
def saveCrucible (s : State) (n : Nat) : List IByte :=
  (List.range 32).flatMap (descrBytes s n) ++ (List.range 16).flatMap (slotBytes s (2 ^ 32 - 1) n)

/-- A segment: 26 bytes. -/
def saveSeg (g : Seg) : List IByte :=
  num 1 g.layer ++ num 2 g.line ++ num 6 g.frame.toNat ++ num 1 g.spar ++ num 4 g.base ++ num 4 g.len ++ num 2 g.x0 ++ num 2 g.width ++
    num 2 (match g.st with | .sparOwned => 0 | .marked => 1 | .scanOut => 2) ++ num 1 (b2n g.ok) ++ num 1 (b2n g.spoiled)

/-- A frame pair: STAT, CNT, and the tag of its back member: 10 bytes. -/
def savePair (s : State) (n : Nat) : List IByte :=
  num 4 (s.reg (A.rastPairStat n)).toNat ++ num 4 (s.reg (A.rastPairCnt n)).toNat ++ num 2 (smGet 0 s.rcd.pairDone n)

/-- The figures of a watch: 26 bytes. -/
def saveFig (g : WatchFig) : List IByte := num 8 g.n ++ num 8 g.sat ++ num 8 g.ufz ++ num 2 g.amax.toNat

/-- The AMAX that each spar keeps of watch w, of which the first lies at key 8·`o` + w. -/
def saveOwn (m : List (Nat × BitVec 16)) (o w : Nat) : List IByte := (List.range 64).flatMap (fun n => num 2 (smGet 0 m (8 * (o + n) + w)).toNat)

/-- The registers of a watch's snapshot. -/
def snapRegs (w : Nat) : List Nat := [A.sysWatchNLo w, A.sysWatchNHi w, A.sysWatchSat w, A.sysWatchUfz w, A.sysWatchAmax w]

/-- A scale watch: 302 bytes. -/
def saveWatch (s : State) (w : Nat) : List IByte :=
  saveFig (smGet WatchFig.none s.fab.gather (8 * s.fab.side + w)) ++ saveOwn s.fab.gatherOwn (64 * s.fab.side) w ++ (snapRegs w).flatMap (fun a => num 4 (s.reg a).toNat) ++
    saveOwn s.fab.snapOwn 0 w

/-- The registers of a fitting job that are saved. -/
def jobRegs (n : Nat) : List Nat := [A.chanFitStep n, A.chanFitAvail n, A.chanFitDefer n, A.chanFitPstat n]

/-- A fitting job: 2,282 bytes. -/
def saveJob (s : State) (n : Nat) : List IByte :=
  let j := s.job n
  (jobRegs n).flatMap (fun a => num 4 (s.reg a).toNat) ++ num 1 j.next ++
    num 1 (b2n j.inStep + 2 * b2n j.starved + 4 * b2n j.restored + 8 * s.rf (A.chanFitCtl n) 4 4) ++ num 4 j.nextVer ++ num 4 j.consec ++
    (List.range 8).flatMap (fun w => saveFig (smGet WatchFig.none j.gather w) ++ saveOwn j.gatherOwn 0 w ++ saveOwn j.snapOwn 0 w)

/-- A row of a reduction: 64 values and their poison marks. -/
def saveRow (v : List Nat) : List IByte := (v.take 64).flatMap (num 12) ++ (v.drop 64).flatMap (num 1)

/-- A partial row of a reduction of frame P. -/
def saveGather (g : Gather) : List IByte :=
  num 4 g.id ++ num 1 (b2n g.started) ++ num 1 g.phase ++ num 2 g.got ++ num 1 (b2n (!g.val.isEmpty)) ++ saveRow g.val ++ num 2 g.parts.length ++
    g.parts.flatMap (fun x => num 1 x.1 ++ saveRow x.2)

/-- The partial rows that are kept (R356, R495): those of frame P. -/
def keptRows (s : State) : List Gather := s.fleet.gathers.filter (fun g => decide (g.kind = .row ∧ g.f = s.nextP % 65536))

/-- The bits of a register that are shadowed and saved (R356). -/
def savedBits (a : Nat) : Word :=
  if a < 0x400000 ∨ (0x500000 ≤ a ∧ a < 0x600000) ∨ (0x700000 ≤ a ∧ a < 0xC00000) then
    (match regRow? a with | some r => BitVec.ofNat 32 r.shadow | none => 0)
  else 0

/-- The shadowed registers that are not at their reset values: 8 bytes each. -/
def saveShadow (s : State) : List IByte :=
  (s.regs.filter (fun e => decide (savedBits e.1 ≠ 0))).flatMap (fun e => num 4 e.1 ++ num 4 (e.2 &&& savedBits e.1).toNat)

/-- The sections between the header and the trailer (R356). -/
def saveSections (s : State) : List (List IByte) :=
  [(List.range 64).flatMap (saveRegs s), (List.range 64).flatMap (saveCrucible s), s.spars.flatMap (fun n => bayBytes s n 0 (6 * 2 ^ 20)),
    s.fab.segs.flatMap saveSeg, (List.range 16).flatMap (savePair s), (List.range 8).flatMap (saveWatch s), (List.range 8).flatMap (saveJob s),
    (keptRows s).flatMap saveGather, saveShadow s]

/-- The 64-byte header. -/
def saveHeader (s : State) (lens : List Nat) : List IByte :=
  num 2 0x9160 ++ num 1 0x82 ++ num 1 (s.bitClass % 16) ++ num 6 s.nextP ++ num 4 (admittedCrc s) ++ num 8 (presentMask s) ++
    lens.flatMap (num 4) ++ num 6 0

/-- The whole image. -/
def saveImage (s : State) : List IByte :=
  let secs := saveSections s
  let body := saveHeader s (secs.map (fun l => l.length)) ++ secs.flatten
  body ++ num 4 (crc32c (plain body)).toNat ++ num 4 0

/-- A write of SAVE while the part is paused (R353). -/
def saveRequest (s : State) : State := if s.pauseState = 2 then (s.setRf A.sysPauseCtl 1 1 1).setPauseState 3 else s

/-- SAVE_DONE: the image stands in user HBM (R356). -/
def saveDone (s : State) : State :=
  if s.pauseState = 3 ∧ !s.memStopped then
    let img := saveImage s
    let a := 4096 * s.rf A.sysSaveBase 22 0
    let s1 := s.putImage 5 0 userHbm a img
    let s2 := (List.range 64).foldl (fun (t : State) n =>
      t.bump (A.sparCrucPerr n) 31 0 ((List.range 16).foldl (fun k h => k + slotPerr s (2 ^ 32 - 1) n h) 0)) s1
    let s3 := ((s2.setReg A.sysSaveLen (BitVec.ofNat 32 (ceilDiv img.length 4096))).setRf A.sysPauseCtl 1 1 0).setPauseState 2
    s3.post s3.ports 0x0421 [(6, s3.nextP)]
  else s

def execSaveDone (s : State) : Host.Outcome State Fault Refusal := .next (saveDone s)

/-! ### Loading (R357) -/

/-- The lengths of the nine sections of the image at `a`. -/
def loadLens (s : State) (a : Nat) : List Nat := (List.range 9).map (fun i => s.imgNum (a + 22 + 4 * i) 4)

/-- The bytes before the trailer. -/
def loadTotal (s : State) (a : Nat) : Nat := 64 + (loadLens s a).foldl (fun x y => x + y) 0

/-- Why the image at `a` is refused, 0 where it is not. -/
def loadError (s : State) (a : Nat) : Nat :=
  let total := loadTotal s a
  let mask := s.imgNum (a + 14) 8
  if s.imgNum a 2 ≠ 0x9160 ∨ s.imgNum (a + 2) 1 ≠ 0x82 then 1
  else if s.imgNum (a + 3) 1 ≠ s.bitClass % 16 then 2
  else if userHbm < a + total + 8 ∨ s.imgNum (a + total) 4 ≠ (crc32c (s.imgBytes a total)).toNat then 3
  else if s.imgNum (a + 10) 4 ≠ admittedCrc s then 4
  else if mask &&& presentMask s ≠ mask then 5
  else 0

/-- A register word read back from an image: its reserved bits stay 0 (R14). -/
def State.loadReg (s : State) (r a : Nat) : State := s.setReg r (BitVec.ofNat 32 (s.imgNum a 4) &&& fieldBits r)

/-- The registers of spar n. -/
def loadRegs (a n : Nat) (s : State) : State :=
  if s.absent n then s else
  let w (t : State) (r o : Nat) : State := t.loadReg r (a + o)
  let s1 := (List.range 32).foldl (fun (t : State) k => t.setS n k (BitVec.ofNat 32 (s.imgNum (a + 4 * k) 4))) s
  let s2 := (List.range 8).foldl (fun (t : State) k => t.setA n k (BitVec.ofNat 40 (s.imgNum (a + 128 + 8 * k) 8))) s1
  let s3 := s2.setGen n (BitVec.ofNat 40 (s.imgNum (a + 192) 8))
  let s4 := w (w (w (w s3 (A.sparSat n) 200) (A.sparUfz n) 204) (A.sparPoi n) 208) (A.sparCrucPerr n) 212
  (List.range 16).foldl (fun t k => w t (A.sparBound n k) (216 + 4 * k)) s4

/-- The crucible of spar n. -/
def loadCrucible (a n : Nat) (s : State) : State :=
  (List.range 16).foldl (fun t k => readSlot t (2 ^ 32 - 1) (a + 128 + 65536 * k) n k) ((List.range 32).foldl (fun t h => readDescr t (a + 4 * h) n h) s)

/-- The bays of the identities present in the image, in order. -/
def loadBays (a : Nat) (mask : Nat) (s : State) : State :=
  ((List.range 64).filter (bitOf mask)).zipIdx.foldl (fun t e => readBay t (a + e.2 * (6 * 2 ^ 20)) e.1 0 (6 * 2 ^ 20)) s

/-- A segment at `a`. -/
def loadSeg (s : State) (a : Nat) : Seg :=
  { layer := s.imgNum a 1, line := s.imgNum (a + 1) 2, frame := BitVec.ofNat 48 (s.imgNum (a + 3) 6), spar := s.imgNum (a + 9) 1
    base := s.imgNum (a + 10) 4, len := s.imgNum (a + 14) 4, x0 := s.imgNum (a + 18) 2, width := s.imgNum (a + 20) 2
    st := match s.imgNum (a + 22) 2 with | 0 => .sparOwned | 1 => .marked | _ => .scanOut
    ok := decide (s.imgNum (a + 24) 1 = 1), spoiled := decide (s.imgNum (a + 25) 1 = 1) }

/-- Frame pair n. -/
def loadPair (a : Nat) (s : State) (n : Nat) : State :=
  let b := a + 10 * n
  let t := (s.loadReg (A.rastPairStat n) b).loadReg (A.rastPairCnt n) (b + 4)
  { t with rcd := { t.rcd with pairDone := smPut 0 t.rcd.pairDone n (s.imgNum (b + 8) 2) } }

/-- Figures at `a`. -/
def loadFig (s : State) (a : Nat) : WatchFig :=
  ⟨s.imgNum a 8, s.imgNum (a + 8) 8, s.imgNum (a + 16) 8, BitVec.ofNat 16 (s.imgNum (a + 24) 2)⟩

/-- The spars' own AMAX of watch w at `a`. -/
def loadOwn (s : State) (a o w : Nat) (m : List (Nat × BitVec 16)) : List (Nat × BitVec 16) :=
  (List.range 64).foldl (fun m n => smPut 0 m (8 * (o + n) + w) (BitVec.ofNat 16 (s.imgNum (a + 2 * n) 2))) m

/-- Scale watch w. -/
def loadWatch (a : Nat) (s : State) (w : Nat) : State :=
  let b := a + 302 * w
  let t := (snapRegs w).zipIdx.foldl (fun (t : State) e => t.loadReg e.1 (b + 154 + 4 * e.2)) s
  { t with fab := { t.fab with
      gather := smPut WatchFig.none t.fab.gather (8 * s.fab.side + w) (loadFig s b)
      gatherOwn := loadOwn s (b + 26) (64 * s.fab.side) w t.fab.gatherOwn
      snapOwn := loadOwn s (b + 174) 0 w t.fab.snapOwn } }

/-- Fitting job n. -/
def loadJob (a : Nat) (s : State) (n : Nat) : State :=
  let b := a + 2282 * n
  let fl := s.imgNum (b + 17) 1
  let t := (jobRegs n).zipIdx.foldl (fun (t : State) e => t.loadReg e.1 (b + 4 * e.2)) s
  let at' (w : Nat) : Nat := b + 26 + 282 * w
  (t.setRf (A.chanFitCtl n) 4 4 (b2n (bitOf fl 3))).setJob n { t.job n with
    inStep := bitOf fl 0, next := s.imgNum (b + 16) 1, running := false, consec := s.imgNum (b + 22) 4, starved := bitOf fl 1
    restored := bitOf fl 2, nextVer := s.imgNum (b + 18) 4
    gather := (List.range 8).foldl (fun m w => smPut WatchFig.none m w (loadFig s (at' w))) []
    gatherOwn := (List.range 8).foldl (fun m w => loadOwn s (at' w + 26) 0 w m) []
    snapOwn := (List.range 8).foldl (fun m w => loadOwn s (at' w + 154) 0 w m) [] }

/-- A row at `a`: its poison marks carry no reason. -/
def loadRow (s : State) (a : Nat) : List Nat :=
  (List.range 64).map (fun j => s.imgNum (a + 12 * j) 12) ++ (List.range 64).map (fun j => s.imgNum (a + 768 + j) 1)

/-- The partial rows from `a` to `e`. The first argument bounds the recursion. -/
def loadRows : Nat → Nat → Nat → State → List Gather
  | 0, _, _, _ => []
  | k + 1, a, e, s =>
    if e ≤ a then [] else
    let has := decide (s.imgNum (a + 8) 1 = 1)
    let o := a + 9 + (if has then 832 else 0)
    let n := s.imgNum o 2
    let g : Gather := {
      kind := .row, id := s.imgNum a 4, f := s.nextP % 65536, started := decide (s.imgNum (a + 4) 1 = 1), phase := s.imgNum (a + 5) 1
      val := if has then loadRow s (a + 9) else []
      parts := (List.range n).map (fun i => (s.imgNum (o + 2 + 833 * i) 1, loadRow s (o + 3 + 833 * i)))
      got := s.imgNum (a + 6) 2, rel := none, port := 0, doneAt := none }
    g :: loadRows k (o + 2 + 833 * n) e s

/-- The shadowed registers that are saved at their reset values. -/
def shadowReset (s : State) : State :=
  (s.regs.map (fun e => e.1)).foldl (fun (t : State) a =>
    t.setReg a ((t.reg a &&& ~~~savedBits a) ||| (regReset a &&& savedBits a))) s

/-- The shadowed registers of an image: `n` entries at `a`. -/
def loadShadow (a n : Nat) (s : State) : State :=
  (List.range n).foldl (fun (t : State) i =>
    let r := s.imgNum (a + 8 * i) 4
    t.setReg r ((t.reg r &&& ~~~savedBits r) ||| (BitVec.ofNat 32 (s.imgNum (a + 8 * i + 4) 4) &&& savedBits r))) (shadowReset s)

/-- The timing mode of the restored registers is the raster's (R379). An output whose mode group has changed trains again. -/
def loadMode (old s : State) : State :=
  let on := decide (s.rf A.rastOutCtl 0 0 = 1)
  let t := setTiming (if on then displayTiming s.reg else virtualTiming s.reg) s
  if modeRegs.all (fun a => decide (old.reg a = s.reg a)) then t
  else { t with out := { t.out with lost := on, training := on, trained := false } }

/-- The sections of the image at `a` restored; F is the image's P − 1 (R357). -/
def loadImage (a : Nat) (s : State) : State :=
  let l := loadLens s a
  let ofs (k : Nat) : Nat := a + 64 + (l.take k).foldl (fun x y => x + y) 0
  let len (k : Nat) : Nat := l.getD k 0
  let p := BitVec.ofNat 48 (s.imgNum (a + 4) 6)
  let s0 := renumber (p - 1 - s.rast.frame) s
  let s1 := (List.range 64).foldl (fun t n => loadRegs (ofs 0 + 280 * n) n t) s0
  let s2 := (List.range 64).foldl (fun t n => loadCrucible (ofs 1 + (128 + 2 ^ 20) * n) n t) s1
  let s3 := loadBays (ofs 2) (s.imgNum (a + 14) 8) s2
  let s4 := { s3 with fab := { s3.fab with segs := (List.range (len 3 / 26)).map (fun i => loadSeg s (ofs 3 + 26 * i)) } }
  let s5 := (List.range 8).foldl (loadJob (ofs 6)) ((List.range 8).foldl (loadWatch (ofs 5)) ((List.range 16).foldl (loadPair (ofs 4)) s4))
  let rows := loadRows (len 7) (ofs 7) (ofs 8) s5
  let s6 := s5.setFleet { s5.fleet with gathers := s5.fleet.gathers.filter (fun g => decide (g.kind ≠ .row)) ++ rows }
  let s7 := loadMode s (loadShadow (ofs 8) (len 8 / 8) s6)
  s7.setLoHi A.sysPauseFLo A.sysPauseFHi 16 p.toNat

/-- A write of LOAD while the part is paused (R353). -/
def loadRequest (s : State) : State := if s.pauseState = 2 then (s.setRf A.sysPauseCtl 2 2 1).setPauseState 4 else s

/-- The reads of the image at `a` recorded: of its header, and of the rest where it is an image of this part (R519). -/
def loadReads (a : Nat) (s : State) : State :=
  let t := s.hbmTake 5 a 64
  let n := loadTotal s a + 8
  if s.imgNum a 2 = 0x9160 ∧ s.imgNum (a + 2) 1 = 0x82 ∧ a + n ≤ userHbm then t.hbmTake 5 (a + 64) (n - 64) else t

/-- LOAD_DONE: the image is restored, or refused with nothing changed (R357). -/
def loadDone (s0 : State) : State :=
  if s0.pauseState = 4 ∧ !s0.memStopped then
    let a := 4096 * s0.rf A.sysSaveBase 22 0
    let s := loadReads a s0
    let err := loadError s a
    let fin (t : State) : State := ((t.setRf A.sysPauseCtl 2 2 0).setPauseState 2).setRf A.sysPauseCtl 19 16 err
    if err = 0 then
      let t := fin (loadImage a s)
      t.post t.ports 0x0422 [(6, t.nextP)]
    else (fin s).post s.ports 0x0423 [(1, err)]
  else s0

def execLoadDone (s : State) : Host.Outcome State Fault Refusal := .next (loadDone s)

/-! ### RESUME -/

/-- A write of RESUME (R358, R588): while paused it is requested, and the reef of frame P is chosen. -/
def resumeRequest (s : State) : State :=
  if s.pauseState = 2 then
    decideReef s.gov.rth (sfld (s.reg A.pwrTmax) 11 0) ((s.setRf A.sysPauseCtl 3 3 1).setPauseState 5)
  else s

/-! ### Writes of SYS_PAUSE_CTL -/

/-- A write of SYS_PAUSE_CTL that lands at cycle c: each 1 makes its request. -/
def pauseCtlWrite (c : Nat) (w : Word) (s : State) : State :=
  let s1 := if bitAt w 0 then pauseRequest c s else s
  let s2 := if bitAt w 1 then saveRequest s1 else s1
  let s3 := if bitAt w 2 then loadRequest s2 else s2
  if bitAt w 3 then resumeRequest s3 else s3

/-- A write of one bit of SYS_PAUSE_CTL by port p, accepted from the display-owning port (R353). -/
def pauseBit (p : Fin 4) (w : Word) (f : State → State) (s : State) : Host.Outcome State Fault Refusal :=
  fromPort p s (s.ownerWrite p A.sysPauseCtl w f)

def execPause (p : Fin 4) (c : BitVec 16) (s : State) : Host.Outcome State Fault Refusal := pauseBit p 1 (pauseRequest c.toNat) s
def execSave (p : Fin 4) (s : State) : Host.Outcome State Fault Refusal := pauseBit p 2 saveRequest s
def execLoad (p : Fin 4) (s : State) : Host.Outcome State Fault Refusal := pauseBit p 4 loadRequest s
def execResume (p : Fin 4) (s : State) : Host.Outcome State Fault Refusal := pauseBit p 8 resumeRequest s

end Sys2Proof.Machine
end

