-- ==== Sys2Proof/Machine/Regs.lean ====
section
/-! DEFINITION. Register accesses of a host: the access types (R13, R14), who may write (R638, R639), shadowed registers and the GO (R399, R400,
R640), latching reads (R643), the two views (R645), HOST_FLUSH and the timeout of a stalled access (R535, R566). -/

namespace Sys2Proof.Machine

/-! ### Who may write -/

/-- The layer whose registers hold an address (R427, R432). -/
def layerOf (a : Nat) : Option Nat :=
  if 0x300100 ≤ a ∧ a < 0x300300 then some ((a - 0x300100) / 64)
  else if 0x301000 ≤ a ∧ a < 0x303000 then some ((a - 0x301000) / 0x800)
  else none

/-- The signature region whose registers hold an address (R443). -/
def regionOf (a : Nat) : Option Nat := if 0x300400 ≤ a ∧ a < 0x300600 then some ((a - 0x300400) / 32) else none

/-- The spar whose instance holds an address (R654). -/
def sparOf (a : Nat) : Option Nat := if 0x800000 ≤ a ∧ a < 0xC00000 then some ((a - 0x800000) / 0x10000) else none

/-- Every bit, or none. -/
def allBits (b : Bool) : Word := if b then 0xFFFFFFFF else 0

/-- The bits of the OWNER field of a layer or a region. -/
def ownerBits : Word := 0x30

/-- The bits of a register with an OWNER field that port p may write: OWNER as the display-owning port, the others as the port that OWNER
names (R424). -/
def ownedBits (s : State) (p owner : Nat) : Word :=
  (allBits (decide (p = s.owner)) &&& ownerBits) ||| (allBits (decide (p = owner)) &&& ~~~ownerBits)

/-- The bits of the register at an address that port p may write (R638). -/
def writeMask (s : State) (p a : Nat) : Word :=
  let display := allBits (decide (p = s.owner))
  match regRow? a with
  | none => 0
  | some r =>
    if a = A.hostOwner then display
    else if r.perPort then allBits true
    else match layerOf a, regionOf a with
      | some n, _ => if a = A.compLayerCtl n then ownedBits s p (s.layerOwner n) else allBits (decide (p = s.layerOwner n))
      | none, some n =>
        let o := s.rf (A.compSigCtl n) 5 4
        if a = A.compSigCtl n then ownedBits s p o else allBits (decide (p = o))
      | none, none =>
        if 0x108000 ≤ a ∧ a < 0x108200 then
          let n := (a - 0x108000) / 64
          allBits ((s.jobSlot n).isSome && decide (p = s.jobPort n))
        else if 0x200100 ≤ a ∧ a < 0x200200 then allBits (decide (p = s.pairOwner ((a - 0x200100) / 16)))
        else if 0x400 ≤ a ∧ a < 0x500 then allBits (decide (p = s.watchOwner ((a - 0x400) / 32)))
        else match sparOf a with
          | some m =>
            let o := a % 0x10000
            if 0x40 ≤ o ∧ o < 0x80 then allBits (decide (p = s.boundOwner m ((o - 0x40) / 4))) else display
          | none => display

/-! ### Shadowed registers -/

/-- A write of the bits m of a shadowed register waits for the port's GO (R399); it takes the place of the bits that an earlier one wrote. -/
def pendWrite (p a : Nat) (w m : Word) (s : State) : State :=
  if m = 0 then s
  else
    let mine (c : Commit) : Bool := decide (c.port = p ∧ c.addr = a)
    let old := s.pends.filter mine
    let new : Commit := { port := p, addr := a, value := merged ((old.foldl merged 0)) ⟨p, a, w, m, 0⟩
                          mask := old.foldl (fun (x : Word) (c : Commit) => x ||| c.mask) m, target := 0 }
    { s with pends := s.pends.filter (fun c => !mine c) ++ [new] }

/-- A late GO of port p is recorded and reported (R398, R399, R419). -/
def commitLate (p : Nat) (t : Frame) (s : State) : State :=
  let f := s.rast.frame.toNat
  let s1 := s.setPreg p A.rastCommitLateLo (BitVec.ofNat 32 f)
  let hi := s1.preg p A.rastCommitLateHi
  let s2 := s1.setPreg p A.rastCommitLateHi (bumpFld (setFld hi 0 16 (f / 2 ^ 32)) 16 16 1)
  (s2.evt 0).post [s2.owner] 0x0205 [s2.vF, (6, t.toNat), (1, p)]

/-- The target frame of a GO that lands at cycle c (R399). In a pause no GO is late (R355), but targets never decrease: one that follows a late GO of the frame
before shares its target (R400; DESIGN CHOICE, log 15). -/
def goTarget (s : State) (c : Nat) : Frame :=
  if s.rast.paused ∧ s.commits.any (fun x => decide (x.target = s.rast.frame + 2)) then s.rast.frame + 2 else landTarget s c

/-- GO of port p at cycle c: the writes that landed before it are committed for their frame, of each the bits that the port may still write (R399, R639). -/
def commitGo (p c : Nat) (s : State) : State :=
  let t := goTarget s c
  let mine := s.pends.filter (fun (x : Commit) => decide (x.port = p))
  let kept := mine.filterMap (fun (x : Commit) =>
    let m := x.mask &&& writeMask s p x.addr
    if m = 0 then none else some { x with mask := m, target := t })
  let s1 := { s with pends := s.pends.filter (fun (x : Commit) => decide (x.port ≠ p)), commits := s.commits ++ kept }
  if s.rast.paused ∨ byCut s c then s1 else commitLate p t s1

/-- COMMIT_GO: a write of RAST_COMMIT whose GO is 1; the other fields of the word are left as they are. -/
def execCommitGo (p : Fin 4) (c : BitVec 16) (s : State) : Host.Outcome State Fault Refusal :=
  fromPort p s (s.hostPut p A.rastCommit (s.reg A.rastCommit ||| 1) (commitGo p c.toNat))

/-! ### Writes -/

/-- The word holds no reserved value that makes the part ignore the whole write (R451). -/
def wordOk (a : Nat) (w : Word) : Bool :=
  if a = A.timeJump then decide (fld w 23 0 ≠ 0)
  else if a = A.timeIntv then
    let ok (x : Int) (lo hi : Int) : Bool := decide (lo ≤ x ∧ x ≤ hi)
    ok (sfld w 7 0) (-7) 1 && ok (sfld w 15 8) (-3) 3 && ok (sfld w 23 16) (-7) 5 && decide (2 ≤ fld w 27 24)
  else if a = A.timeHold then decide (fld w 15 0 ≠ 0 ∧ fld w 31 16 ≠ 0)
  else true

/-- A write of a clear register: each 1 clears (R75, R526, R527, R589). -/
def clearBits (k : Nat) (w : Word) (f : Nat → State → State) (s : State) : State :=
  ((List.range k).filter (fun b => bitAt w b)).foldl (fun (t : State) b => f b t) s

/-- A write of a word of port p's MSI-X table (R531); the Pending Bit Array is read-only. -/
def msixWrite (p a : Nat) (w : Word) (s : State) : State :=
  if a < 0xF00080 then
    (s.setPreg p a (if a % 16 = 0 then w &&& 0xFFFFFFFC else if a % 16 = 12 then w &&& 1 else w)).msixFlush p
  else s

/-- The write of a register that has a meaning of its own and stores nothing else, by a port that may write it. -/
def wholeAction (b : BootRun) (p a c : Nat) (w : Word) (s : State) : Option State :=
  if a = A.hostEqCtl then some (eqCtlWrite p w s)
  else if a = A.hostEqHead then some (eqHeadWrite p w s)
  else if a = A.hostCmdGo then some (cmdGo p (fld w 7 0) c s)
  else if a = A.hostFenceInc then some (fenceInc p (fld w 3 0) s)
  else if a = A.sysPauseCtl then some (pauseCtlWrite c w s)
  else if a = A.sysDrst then some (drstWrite p w s)
  else if a = A.timeCtl then some (timeCtlWrite w s)
  else if a = A.timeEthCtl then some (ethCtlWrite w s)
  else if a = A.linkStatClr then some (if bitAt w 0 then linkStatClr s else s)
  else if a = A.hbmCntClr then some (clearBits 5 w hbmClear s)
  else if a = A.loftCntClr then some (clearBits 5 w loftClear s)
  else if a = A.pwrCntClr then some (clearBits 2 w pwrClear s)
  else if a = A.safeBootStat then some (if bitAt w 31 then recoveryGo b s else s)
  else if a = A.safeRst then
    let s1 := if bitAt w 1 then fabricRequest s else s
    some (if bitAt w 0 then warmTrigger 3 b s1 else s1)
  else if a = A.safeDbg then some (dbgWrite p w s)
  else if a = A.safeCmd then some (safeCmd p w b.vpp s)
  else if a = A.logExpCtl then some (exportWrite p w s)
  else match lkPort a, sparOf a with
    | some q, _ => if a = A.linkPortCtl q then some (linkCtlWrite q w (quiet s)) else none
    | none, some n => if a = A.sparCntClr n then some (clearBits 3 w (sparClear n) s) else none
    | none, none => none

/-- The WO and W1S bits of a register that also has fields of other types (R640). -/
def bitActions (p a c : Nat) (w : Word) (s : State) : State :=
  if a = A.rastCommit then (if bitAt w 0 then commitGo p c s else s)
  else if a = A.rastInCtl then (if bitAt w 1 then edidUpd p s else s)
  else if 0x200100 ≤ a ∧ a < 0x200200 ∧ a % 16 = 0 then (if bitAt w 4 then egressRelease p ((a - 0x200100) / 16) s else s)
  else if 0x108000 ≤ a ∧ a < 0x108200 ∧ a % 64 = 0 then (if bitAt w 4 then fitCkptRequest p ((a - 0x108000) / 64) s else s)
  else s

/-- A port's instance of a per-port register, or the shared one. -/
def instanceOf (s : State) (p a : Nat) (perPort : Bool) : Word := if perPort then s.preg p a else s.reg a

/-- The bits m of a write of a register: RW bits that are not shadowed are stored, each 1 of a W1C bit clears it, unless the part sets the bit in this cycle, and
shadowed bits wait (R13 to R15). -/
def storeWrite (p a : Nat) (r : RegRow) (w m : Word) (s : State) : State :=
  let st := BitVec.ofNat 32 r.rw &&& ~~~(BitVec.ofNat 32 r.shadow) &&& m
  let cl := BitVec.ofNat 32 r.w1c &&& m &&& w &&& ~~~s.w1cNow (if r.perPort then p * 2 ^ 24 + a else a)
  let old := instanceOf s p a r.perPort
  let new := ((old &&& ~~~st) ||| (w &&& st)) &&& ~~~cl
  let s1 := if new = old then s else if r.perPort then s.setPreg p a new else s.setReg a new
  pendWrite p a w (BitVec.ofNat 32 r.shadow &&& m) s1

/-- The register of an absent spar ignores writes and reads 0, SPAR_IDENT apart (R112). -/
def deadSpar (s : State) (a : Nat) : Bool :=
  match sparOf a with
  | some n => s.absent n && decide (a ≠ A.sparIdent n)
  | none => false

/-- A write of port p lands at cycle c (R13, R14, R636, R638, R640, R641). `b` is what a boot or a fuse command that it starts finds outside. -/
def landWrite (b : BootRun) (p a c : Nat) (w : Word) (s : State) : State :=
  if 0xF00000 ≤ a then msixWrite p a w s
  else match regRow? a with
    | none => s
    | some r =>
      if deadSpar s a ∨ !wordOk a w then s
      else if 0x101000 ≤ a ∧ a < 0x105000 then (if a % 16 = 8 then tailWrite p ((a - 0x101000) / 16) w s else s)
      else
        let m := writeMask s p a
        match (if m = 0 then none else wholeAction b p a c w s) with
        | some t => t
        | none => storeWrite p a r w m (bitActions p a c w s)

/-- A write of port p at a BAR0 offset with byte enables, at cycle c: one that is not an aligned word with all of them is discarded (R532). What lands before
cycle c has done so. -/
def hostWriteAt (b : BootRun) (p a c : Nat) (w : Word) (be : BitVec 4) (s0 : State) : State :=
  let s := settleTo c 0 s0
  if be = 0xF#4 ∧ a % 4 = 0 then s.hostPut p a w (landWrite b p a c w) else s.hostErr p 3

/-- REGISTER_WRITE. -/
def execRegisterWrite (p : Fin 4) (a : BitVec 24) (w : Word) (be : BitVec 4) (c : BitVec 16) (b : BootRun) (s : State) :
    Host.Outcome State Fault Refusal := fromPort p s (hostWriteAt b p.val a.toNat c.toNat w be s)

/-! ### Reads -/

/-- A state of a slot as STATE encodes it (R544). -/
def slotCode : SlotSt → Nat
  | .free => 0
  | .inUse => 1
  | .closing => 2
  | .quarantined => 3
  | .error => 4

/-- A kind of channel as KIND encodes it (R544). -/
def kindCode : ChanKind → Nat
  | .passage => 0
  | .background => 1
  | .copy => 2

/-- Word o / 4 of slot n's four registers, as port p reads it (R544). -/
def slotWord (s : State) (p n o : Nat) : Word :=
  let x := s.slot n
  if x.st = .free then (if o = 0 then BitVec.ofNat 32 (x.port * 2 ^ 6 + x.gen * 2 ^ 12) else 0)
  else if x.port ≠ p then 0
  else match o with
    | 0 => BitVec.ofNat 32 (slotCode x.st + kindCode x.kind * 2 ^ 4 + x.port * 2 ^ 6 + x.gen * 2 ^ 12)
    | 4 => BitVec.ofNat 32 (x.reefs + x.job.getD 0 * 2 ^ 4 + x.admitSt * 2 ^ 7 + x.pair.getD 0 * 2 ^ 9 + b2n x.pair.isSome * 2 ^ 13)
    | 8 => BitVec.ofNat 32 x.tail
    | _ => BitVec.ofNat 32 x.head

/-- SPAR_IDENT of logical spar n (R108). -/
def identWord (s : State) (n : Nat) : Word :=
  let st := if s.absent n then 2 else if s.fab.failed.contains n then 1 else 0
  BitVec.ofNat 32 (n + s.phys n * 2 ^ 8 + st * 2 ^ 16)

/-- SAFE_FUSE as the last reset read the fuses (R604, R605). -/
def fuseWord (s : State) : Word :=
  let f := s.aon.loaded
  BitVec.ofNat 32 (b2n f.debugKill + s.bitClass * 2 ^ 4 + s.grade * 2 ^ 8 + f.svn * 2 ^ 12 + f.revoke * 2 ^ 20 + f.retire.length * 2 ^ 24)

/-- The registers whose value is part of the state elsewhere. -/
def computed (s : State) (p a : Nat) : Option Word :=
  if a = A.sysId then some (BitVec.ofNat 32 s.sysId)
  else if 0x100 ≤ a ∧ a < 0x140 then
    let k := a - 0x100
    some (BitVec.ofNat 32 (s.phys k + s.phys (k + 1) * 2 ^ 8 + s.phys (k + 2) * 2 ^ 16 + s.phys (k + 3) * 2 ^ 24))
  else if a = A.sysSparSpares then
    some (BitVec.ofNat 32 (s.sparesNow.2.length + ((List.range 64).filter (fun n => s.absent n)).length * 2 ^ 8))
  else if a = A.hostPort then
    some (BitVec.ofNat 32 (p + (if s.bifur = 0 then 2 else if s.bifur = 1 then 1 else 0) * 2 ^ 4 + s.owner * 2 ^ 8 + s.prf p A.hostPort 19 16 * 2 ^ 16))
  else if a = A.hostOwner then some (s.reg A.hostOwner)
  else if 0x101000 ≤ a ∧ a < 0x105000 then some (slotWord s p ((a - 0x101000) / 16) (a % 16))
  else if a = A.rastFrameLo then some (BitVec.ofNat 32 s.rast.frame.toNat)
  else if a = A.rastFrameHi then some (BitVec.ofNat 32 (s.rast.frame.toNat / 2 ^ 32))
  else if a = A.rastPos then
    some (BitVec.ofNat 32 (s.rast.line % 2 ^ 13 + s.rast.reef * 2 ^ 16 + b2n (decide (s.rast.linesTotal ≤ s.rast.line)) * 2 ^ 18))
  else if a = A.timeNowSLo then some (BitVec.ofNat 32 s.tod.sec)
  else if a = A.timeNowSHi then some (BitVec.ofNat 32 (s.tod.sec / 2 ^ 32 % 2 ^ 16))
  else if a = A.timeNowNs then some (BitVec.ofNat 32 s.tod.ns)
  else if a = A.linkFleetStat then
    let bits (f : Nat → Bool) : Nat := (List.range 6).foldl (fun m p => m + b2n (f p) * 2 ^ p) 0
    some (setFld (setFld (setFld (s.reg a) 0 1 (b2n (fleetTight s))) 8 6 (bits (portUp s))) 16 6 (bits (fun p => decide (s.portState p = 3))))
  else if a = A.pwrStat then some (setFld (setFld (s.reg a) 0 2 s.rast.reef) 16 4 (okLevels s))
  else if a = A.safeFuse then some (fuseWord s)
  else if a = A.safeFuseDef0 then some (BitVec.ofNat 32 s.aon.loaded.defect)
  else if a = A.safeFuseDef1 then some (BitVec.ofNat 32 (s.aon.loaded.defect / 2 ^ 32))
  else if a = A.safeFuseDef2 then some (BitVec.ofNat 32 (s.aon.loaded.defect / 2 ^ 64 % 16))
  else if a = A.logBbWptr then some (BitVec.ofNat 32 s.ev.seq)
  else if 0xD40000 ≤ a ∧ a < 0xD80000 then
    let e := smGet LogEntry.blank s.ev.box ((a - 0xD40000) / 64)
    some (if e = LogEntry.blank then 0 else BitVec.ofNat 32 (fromLe (((logEntryBytes e).drop (a % 64)).take 4)))
  else match sparOf a with
    | some n =>
      if a = A.sparIdent n then some (identWord s n)
      else if a = A.sparGenLo n then some (BitVec.ofNat 32 (s.genIdx n).toNat)
      else if a = A.sparGenHi n then some (BitVec.ofNat 32 ((s.genIdx n).toNat / 2 ^ 32))
      else none
    | none => none

/-- A register as it stands, before any view or access rule: its reserved bits are 0 (R14). -/
def regNow (s : State) (p a : Nat) (r : RegRow) : Word := (computed s p a).getD (instanceOf s p a r.perPort) &&& r.reads

/-- The port reads the register's value; it reads 0 where this fails (R112, R605, R609, R638). -/
def regReadable (s : State) (p a : Nat) : Bool :=
  !deadSpar s a &&
    (decide (p = s.owner ∨ a < 0xD00000 ∨ 0xE00000 ≤ a ∨ a = A.safeBootStat ∨ a = A.safeRstCause ∨ a = A.safeFuse)) &&
    (if 0x108000 ≤ a ∧ a < 0x108200 then
      let n := (a - 0x108000) / 64
      (s.jobSlot n).isNone || decide (p = s.jobPort n)
    else true)

/-- The registers that a read of the register at an address latches (R643). -/
def latches (a : Nat) : List Nat :=
  if a = A.rastFrameLo then [A.rastFrameHi, A.rastPos]
  else if a = A.rastFlipFLo then [A.rastFlipFHi, A.rastFlipSLo, A.rastFlipSHi, A.rastFlipNs]
  else if a = A.rastCommitLateLo then [A.rastCommitLateHi]
  else if a = A.rastUndrFLo then [A.rastUndrFHi, A.rastUndrPos]
  else if 0x400 ≤ a ∧ a < 0x500 ∧ a % 32 = 8 then [a + 4]
  else if a = A.sysPauseFLo then [A.sysPauseFHi]
  else if a = A.compFrzSigLo then [A.compFrzSigHi]
  else if 0x300400 ≤ a ∧ a < 0x300600 ∧ a % 32 = 0x14 then [a + 4, a + 8]
  else if a = A.timeNowSLo then [A.timeNowSHi, A.timeNowNs]
  else if a = A.timeMasterLo then [A.timeMasterHi]
  else if a = A.linkLsDivFLo then [A.linkLsDivFHi, A.linkLsDivPos, A.linkLsDivMaskLo, A.linkLsDivMaskHi]
  else if a = A.hbmLastUe then [A.hbmLastUeFLo, A.hbmLastUeFHi]
  else if a = A.pwrEnergyLo then [A.pwrEnergyHi]
  else if 0xC00080 ≤ a ∧ a < 0xC000B8 ∧ a % 8 = 0 then [a + 4]
  else match sparOf a with
    | some n => if a = A.sparGenLo n then [A.sparGenHi n] else []
    | none => []

/-- The register is a latched one of some group: of the registers before it, one latches it. -/
def isLatched (a : Nat) : Bool := [4, 8, 12, 16].any (fun k => decide (k ≤ a) && (latches (a - k)).contains a)

/-- A shadowed register as port p reads it (R644, R645): with VIEW = 0 its own committed values, and over them its own writes not yet covered. -/
def viewed (s : State) (p a : Nat) (r : RegRow) (v : Word) : Word :=
  if r.shadow = 0 ∨ s.prf p A.hostView 0 0 = 1 then v
  else ((s.commits ++ s.pends).filter (fun (c : Commit) => decide (c.port = p ∧ c.addr = a))).foldl merged v

/-- The value that a served read of port p returns (R13, R531, R636, R643). -/
def readValue (s : State) (p a : Nat) : Word :=
  if 0xF00000 ≤ a then (if a < 0xF00080 ∨ a = 0xF01000 then s.preg p a else 0)
  else match regRow? a with
    | none => 0
    | some r =>
      if !regReadable s p a then 0
      else if isLatched a then smGet (regReset a) s.acc.latch (p * 2 ^ 24 + a)
      else viewed s p a r (regNow s p a r)

/-- A read of a group's first register captures the others for the port (R643). -/
def latchFor (p a : Nat) (s : State) : State :=
  (latches a).foldl (fun (t : State) b =>
    match regRow? b with
    | some r => { t with acc := { t.acc with latch := smPut (regReset b) t.acc.latch (p * 2 ^ 24 + b) (regNow t p b r) } }
    | none => t) s

/-- A word as a completion of port p's read. -/
def answerWord (p : Nat) (v : Word) (s : State) : State := answer p ((leBytes 4 v.toNat).map (fun b => (b, 0))) s

/-- A served read. -/
def landRead (p a : Nat) (s : State) : State :=
  let t := latchFor p a s
  answerWord p (readValue t p a) t

/-- A read that its domain serves. One of HOST_FLUSH waits behind the accesses of the port that wait for their stack window (R535). -/
def takeRead (p a : Nat) (s : State) : State :=
  if a = A.hostFlush ∧ s.bar2Q.any (fun e => decide (e.1 = p)) then bar2Take p .flush s else landRead p a s

/-- A read of port p at a BAR0 offset (R532): the containing word. -/
def hostRead (p a : Nat) (s : State) : State :=
  match s.way p a true with
  | .served => takeRead p a s
  | .silent => answerWord p 0 s
  | .wedged _ => answerWord p 0xFFFFFFFF (s.hostErr p 1)
  | .stalled _ => { s with acc := { s.acc with stalled := s.acc.stalled ++ [⟨p, a, none⟩] } }

/-- LATCHING_READ: a read of any register; those of R643 latch. -/
def execLatchingRead (p : Fin 4) (a : BitVec 24) (s : State) : Host.Outcome State Fault Refusal :=
  fromPort p s (hostRead p (a.toNat - a.toNat % 4) s)

/-- HOST_FLUSH: a read that completes after the port's BAR2 writes have landed, and counts them (R535): where accesses of the port wait for their stack window, it
waits behind them. -/
def execHostFlush (p : Fin 4) (s : State) : Host.Outcome State Fault Refusal := fromPort p s (hostRead p A.hostFlush s)

/-! ### The timeout of a stalled access -/

/-- A read that timed out, or found its crossing wedged, completes with all ones (R566, R567). -/
def onesFor (p : Nat) (e : Stalled) (s : State) : State := if e.value.isNone then answerWord p 0xFFFFFFFF s else s

/-- The access expires at crossing k (R566). -/
def expire (p k : Nat) (e : Stalled) (s : State) : State :=
  let s1 := (onesFor p e s).hostErr p 0
  let s2 := s1.setPreg p A.hostTimeoutCnt (bumpFld (s1.preg p A.hostTimeoutCnt) 0 16 1)
  let s3 := s2.setReg A.sysXingWedged (s2.reg A.sysXingWedged ||| BitVec.ofNat 32 (2 ^ k))
  s3.post [p] 0x0106 [(1, k), (4, e.addr)]

/-- An access that waited is served: its domain runs. -/
def serveStalled (b : BootRun) (p c : Nat) (e : Stalled) (s : State) : State :=
  match e.value with
  | some w => landWrite b p e.addr c w s
  | none => takeRead p e.addr s

/-- The oldest access of port p that waits at a stopped domain comes to its 8 µs: it is served where its domain runs by then, and expires otherwise
(R44, R566). -/
def accessTimeout (b : BootRun) (p c : Nat) (s : State) : State :=
  match s.acc.stalled.find? (fun e => decide (e.port = p)) with
  | none => s
  | some e =>
    let s1 := { s with acc := { s.acc with stalled := s.acc.stalled.erase e } }
    match s1.way p e.addr e.value.isNone with
    | .served => serveStalled b p c e s1
    | .silent => if e.value.isNone then answerWord p 0 s1 else s1
    | .wedged k => expire p k e s1
    | .stalled k => expire p k e s1

/-- ACCESS_TIMEOUT of port p, at cycle c. -/
def execAccessTimeout (p : Fin 4) (c : BitVec 16) (b : BootRun) (s : State) : Host.Outcome State Fault Refusal :=
  fromPort p s (accessTimeout b p.val c.toNat s)

end Sys2Proof.Machine
end

