-- ==== Sys2Proof/Machine/Dispatch.lean ====
section
/-! DEFINITION. The meaning of every command: one arm per constructor. -/

namespace Sys2Proof.Machine

def exec (i : Instr) (s : State) : Host.Outcome State Fault Refusal :=
  match i with
  | .halyardTick => Sys2Proof.Machine.execHalyardTick s
  | .frameBoundary nj => Sys2Proof.Machine.execFrameBoundary nj s
  | .updatePoint => Sys2Proof.Machine.execUpdatePoint s
  | .referenceEvent e t k => Sys2Proof.Machine.execReferenceEvent e t k s
  | .decisionPoint sens nj => Sys2Proof.Machine.execDecisionPoint sens nj s
  | .fleetReefVote => Sys2Proof.Machine.execFleetReefVote s
  | .lockstepReefSend => Sys2Proof.Machine.execLockstepReefSend s
  | .fleetReefFallback => Sys2Proof.Machine.execFleetReefFallback s
  | .leadCheck => Sys2Proof.Machine.execLeadCheck s
  | .scanoutLineRead => Sys2Proof.Machine.execScanoutLineRead s
  | .layerFetch l => Sys2Proof.Machine.execLayerFetch l s
  | .signaturePublish => Sys2Proof.Machine.execSignaturePublish s
  | .flip => Sys2Proof.Machine.execFlip s
  | .watchSnapshot => Sys2Proof.Machine.execWatchSnapshot s
  | .bend w => Sys2Proof.Machine.execBend w s
  | .loop w => Sys2Proof.Machine.execLoop w s
  | .sli w => Sys2Proof.Machine.execSli w s
  | .sop w => Sys2Proof.Machine.execSop w s
  | .smovb w => Sys2Proof.Machine.execSmovb w s
  | .ali w => Sys2Proof.Machine.execAli w s
  | .ainc w => Sys2Proof.Machine.execAinc w s
  | .sget w => Sys2Proof.Machine.execSget w s
  | .gset w => Sys2Proof.Machine.execGset w s
  | .ftest w => Sys2Proof.Machine.execFtest w s
  | .fsig w => Sys2Proof.Machine.execFsig w s
  | .await w => Sys2Proof.Machine.execAwait w s
  | .muster w => Sys2Proof.Machine.execMuster w s
  | .musterRelease id => Sys2Proof.Machine.execMusterRelease id s
  | .emit w => Sys2Proof.Machine.execEmit w s
  | .mark w => Sys2Proof.Machine.execMark w s
  | .mma w => Sys2Proof.Machine.execMma w s
  | .conv w => Sys2Proof.Machine.execConv w s
  | .tload w => Sys2Proof.Machine.execTload w s
  | .arland w => Sys2Proof.Machine.execArland w s
  | .vadd w => Sys2Proof.Machine.execVadd w s
  | .vsub w => Sys2Proof.Machine.execVsub w s
  | .vmul w => Sys2Proof.Machine.execVmul w s
  | .vfma w => Sys2Proof.Machine.execVfma w s
  | .vmax w => Sys2Proof.Machine.execVmax w s
  | .vmin w => Sys2Proof.Machine.execVmin w s
  | .viadd w => Sys2Proof.Machine.execViadd w s
  | .visub w => Sys2Proof.Machine.execVisub w s
  | .vimul w => Sys2Proof.Machine.execVimul w s
  | .vimax w => Sys2Proof.Machine.execVimax w s
  | .vimin w => Sys2Proof.Machine.execVimin w s
  | .vcvt w => Sys2Proof.Machine.execVcvt w s
  | .vun w => Sys2Proof.Machine.execVun w s
  | .vred w => Sys2Proof.Machine.execVred w s
  | .vgen w => Sys2Proof.Machine.execVgen w s
  | .resc w => Sys2Proof.Machine.execResc w s
  | .quant w => Sys2Proof.Machine.execQuant w s
  | .arsend w => Sys2Proof.Machine.execArsend w s
  | .ldh w => Sys2Proof.Machine.execLdh w s
  | .sth w => Sys2Proof.Machine.execSth w s
  | .rig w => Sys2Proof.Machine.execRig w s
  | .lsc w => Sys2Proof.Machine.execLsc w s
  | .idxr w => Sys2Proof.Machine.execIdxr w s
  | .pfirst w => Sys2Proof.Machine.execPfirst w s
  | .plast w => Sys2Proof.Machine.execPlast w s
  | .pshuf w => Sys2Proof.Machine.execPshuf w s
  | .pcrop w => Sys2Proof.Machine.execPcrop w s
  | .pargmax w => Sys2Proof.Machine.execPargmax w s
  | .inputFrameStart => Sys2Proof.Machine.execInputFrameStart s
  | .inputFrameStored px => Sys2Proof.Machine.execInputFrameStored px s
  | .inputState x => Sys2Proof.Machine.execInputState x s
  | .dpcdAccess r => Sys2Proof.Machine.execDpcdAccess r s
  | .edidUpd p => Sys2Proof.Machine.execEdidUpd p s
  | .inHpdRelease => Sys2Proof.Machine.execInHpdRelease s
  | .egressRelease p n => Sys2Proof.Machine.execEgressRelease p n s
  | .sinkLost => Sys2Proof.Machine.execSinkLost s
  | .outputTrainingDone k rev pol => Sys2Proof.Machine.execOutputTrainingDone k rev pol s
  | .registerWrite p a w be c b => Sys2Proof.Machine.execRegisterWrite p a w be c b s
  | .latchingRead p a => Sys2Proof.Machine.execLatchingRead p a s
  | .hostFlush p => Sys2Proof.Machine.execHostFlush p s
  | .bar2Read p o n => Sys2Proof.Machine.execBar2Read p o n s
  | .bar2Write p o ws psn => Sys2Proof.Machine.execBar2Write p o ws psn s
  | .accessTimeout p c b => Sys2Proof.Machine.execAccessTimeout p c b s
  | .commitGo p c => Sys2Proof.Machine.execCommitGo p c s
  | .create p => Sys2Proof.Machine.execCreate p s
  | .destroy p c => Sys2Proof.Machine.execDestroy p c s
  | .admitCmd p => Sys2Proof.Machine.execAdmit p s
  | .admission => Sys2Proof.Machine.execAdmission s
  | .withdraw p c => Sys2Proof.Machine.execWithdraw p c s
  | .unquar p => Sys2Proof.Machine.execUnquar p s
  | .restart p => Sys2Proof.Machine.execRestart p s
  | .planCopy n => Sys2Proof.Machine.execPlanCopy n s
  | .resourceZeroing => Sys2Proof.Machine.execResourceZeroing s
  | .hostFenceInc p k => Sys2Proof.Machine.execHostFenceInc p k s
  | .tailWrite p n v => Sys2Proof.Machine.execTailWrite p n v s
  | .descriptorStart n ok => Sys2Proof.Machine.execDescriptorStart n ok s
  | .copyBatch reply => Sys2Proof.Machine.execCopyBatch reply s
  | .eqHead p v => Sys2Proof.Machine.execEqHead p v s
  | .eqEnable p v => Sys2Proof.Machine.execEqEnable p v s
  | .eqInterrupt p => Sys2Proof.Machine.execEqInterrupt p s
  | .portReset p => Sys2Proof.Machine.execPortReset p s
  | .mergedEvent k n post => Sys2Proof.Machine.execMergedEvent k n post s
  | .pause p c => Sys2Proof.Machine.execPause p c s
  | .save p => Sys2Proof.Machine.execSave p s
  | .saveDone => Sys2Proof.Machine.execSaveDone s
  | .load p => Sys2Proof.Machine.execLoad p s
  | .loadDone => Sys2Proof.Machine.execLoadDone s
  | .resume p => Sys2Proof.Machine.execResume p s
  | .resumed nj => Sys2Proof.Machine.execResumed nj s
  | .drstOut p => Sys2Proof.Machine.execDrstOut p s
  | .drstIn p => Sys2Proof.Machine.execDrstIn p s
  | .drstLink p => Sys2Proof.Machine.execDrstLink p s
  | .drstTime p => Sys2Proof.Machine.execDrstTime p s
  | .drstMem p => Sys2Proof.Machine.execDrstMem p s
  | .drstHost p q => Sys2Proof.Machine.execDrstHost p q s
  | .domainResetDone => Sys2Proof.Machine.execDomainResetDone s
  | .frameRecordWrite => Sys2Proof.Machine.execFrameRecordWrite s
  | .replayFetch => Sys2Proof.Machine.execReplayFetch s
  | .lockstepSigSend => Sys2Proof.Machine.execLockstepSigSend s
  | .lockstepFrame p x => Sys2Proof.Machine.execLockstepFrame p x s
  | .lockstepDeadline => Sys2Proof.Machine.execLockstepDeadline s
  | .stackWindow hard => Sys2Proof.Machine.execStackWindow hard s
  | .slackInterval hard => Sys2Proof.Machine.execSlackInterval hard s
  | .selfTestStep fails c => Sys2Proof.Machine.execSelfTestStep fails c s
  | .fitStepStart n => Sys2Proof.Machine.execFitStepStart n s
  | .fitBundle => Sys2Proof.Machine.execFitBundle s
  | .fitStepComplete n => Sys2Proof.Machine.execFitStepComplete n s
  | .fitAvail p n v => Sys2Proof.Machine.execFitAvail p n v s
  | .fitCkptRequest p n => Sys2Proof.Machine.execFitCkptRequest p n s
  | .fitCkptDone n => Sys2Proof.Machine.execFitCkptDone n s
  | .fitCkptRestore n => Sys2Proof.Machine.execFitCkptRestore n s
  | .blackBoxCopy => Sys2Proof.Machine.execBlackBoxCopy s
  | .ptpSync h b => Sys2Proof.Machine.execPtpSync h b s
  | .ptpDelayResp h recv dst toPort => Sys2Proof.Machine.execPtpDelayResp h recv dst toPort s
  | .delayReq ru => Sys2Proof.Machine.execDelayReq ru s
  | .syncMessageSend ru => Sys2Proof.Machine.execSyncMessageSend ru s
  | .ptpAnnounce h d => Sys2Proof.Machine.execPtpAnnounce h d s
  | .announceReceiptTimeout => Sys2Proof.Machine.execAnnounceReceiptTimeout s
  | .holdoverExpiry => Sys2Proof.Machine.execHoldoverExpiry s
  | .accept p => Sys2Proof.Machine.execAccept p s
  | .timeEthEn p w => Sys2Proof.Machine.execTimeEthEn p w s
  | .nonPtpFrame f => Sys2Proof.Machine.execNonPtpFrame f s
  | .opticalSignal p lanes pol => Sys2Proof.Machine.execOpticalSignal p lanes pol s
  | .trainingTimeout p => Sys2Proof.Machine.execTrainingTimeout p s
  | .infoFrame p x => Sys2Proof.Machine.execInfoFrame p x s
  | .lossOfSignal p => Sys2Proof.Machine.execLossOfSignal p s
  | .ackFrame p x => Sys2Proof.Machine.execAckFrame p x s
  | .nakFrame p x => Sys2Proof.Machine.execNakFrame p x s
  | .dreqFrame p ru2 ru3 x => Sys2Proof.Machine.execDreqFrame p ru2 ru3 x s
  | .drespFrame p ru x => Sys2Proof.Machine.execDrespFrame p ru x s
  | .musterFrame p ru x => Sys2Proof.Machine.execMusterFrame p ru x s
  | .reefFrame p ru x => Sys2Proof.Machine.execReefFrame p ru x s
  | .reduceFrame p ru x => Sys2Proof.Machine.execReduceFrame p ru x s
  | .mgmtFrame p x => Sys2Proof.Machine.execMgmtFrame p x s
  | .linkFrameDiscard p x => Sys2Proof.Machine.execLinkFrameDiscard p x s
  | .ackTimer p => Sys2Proof.Machine.execAckTimer p s
  | .retryTimeout p c => Sys2Proof.Machine.execRetryTimeout p c s
  | .delayExchange p ru => Sys2Proof.Machine.execDelayExchange p ru s
  | .portEnable h p w => Sys2Proof.Machine.execPortEnable h p w s
  | .linkStatClr h => Sys2Proof.Machine.execLinkStatClr h s
  | .sparClrSat p n => Sys2Proof.Machine.execSparClrSat p n s
  | .sparClrUfz p n => Sys2Proof.Machine.execSparClrUfz p n s
  | .sparClrPoi p n => Sys2Proof.Machine.execSparClrPoi p n s
  | .hbmClrCe p => Sys2Proof.Machine.execHbmClrCe p s
  | .hbmClrUe p => Sys2Proof.Machine.execHbmClrUe p s
  | .hbmClrMark p => Sys2Proof.Machine.execHbmClrMark p s
  | .hbmClrDefer p => Sys2Proof.Machine.execHbmClrDefer p s
  | .hbmClrScrub p => Sys2Proof.Machine.execHbmClrScrub p s
  | .loftClrCe p => Sys2Proof.Machine.execLoftClrCe p s
  | .loftClrUe p => Sys2Proof.Machine.execLoftClrUe p s
  | .loftClrMark p => Sys2Proof.Machine.execLoftClrMark p s
  | .loftClrScrub p => Sys2Proof.Machine.execLoftClrScrub p s
  | .loftClrBay p => Sys2Proof.Machine.execLoftClrBay p s
  | .pwrClrChanges p => Sys2Proof.Machine.execPwrClrChanges p s
  | .pwrClrTherm p => Sys2Proof.Machine.execPwrClrTherm p s
  | .powerOnReset strap b => Sys2Proof.Machine.execPowerOnReset strap b s
  | .coldReset b => Sys2Proof.Machine.execColdReset b s
  | .warmReset b => Sys2Proof.Machine.execWarmReset b s
  | .warm p b => Sys2Proof.Machine.execWarm p b s
  | .supplyFault => Sys2Proof.Machine.execSupplyFault s
  | .bootDone => Sys2Proof.Machine.execBootDone s
  | .recoveryGo p b => Sys2Proof.Machine.execRecoveryGo p b s
  | .fabric p => Sys2Proof.Machine.execFabric p s
  | .fabricResetDone vpp => Sys2Proof.Machine.execFabricResetDone vpp s
  | .debugKill p arm vpp => Sys2Proof.Machine.execDebugKill p arm vpp s
  | .raiseSvn p arm vpp => Sys2Proof.Machine.execRaiseSvn p arm vpp s
  | .revokeKey p slot arm vpp => Sys2Proof.Machine.execRevokeKey p slot arm vpp s
  | .update p arm => Sys2Proof.Machine.execUpdate p arm s
  | .debugUnlock p v => Sys2Proof.Machine.execDebugUnlock p v s
  | .logExport p v => Sys2Proof.Machine.execLogExport p v s
  | .logExportDone => Sys2Proof.Machine.execLogExportDone s
  | .thermalTrip sensor reading => Sys2Proof.Machine.execThermalTrip sensor reading s
  | .thermalTripClear b => Sys2Proof.Machine.execThermalTripClear b s
  | .refclkLost => Sys2Proof.Machine.execRefclkLost s
  | .refclkRestored => Sys2Proof.Machine.execRefclkRestored s
  | .envSyncStuck input level => Sys2Proof.Machine.execEnvSyncStuck input level s
  | .envOutShort lane level => Sys2Proof.Machine.execEnvOutShort lane level s
  | .opticsPowered => Sys2Proof.Machine.execOpticsPowered s
  | .opticsUnpowered => Sys2Proof.Machine.execOpticsUnpowered s
  | .delayReqReceipt h => Sys2Proof.Machine.execDelayReqReceipt h s
  | .announceInterval => Sys2Proof.Machine.execAnnounceInterval s
  | .ethLinkChange up => Sys2Proof.Machine.execEthLinkChange up s
  | .pcieLinkTrained p speed => Sys2Proof.Machine.execPcieLinkTrained p speed s
  | .configurationRequest p r => Sys2Proof.Machine.execConfigurationRequest p r s
  | .portReferenceClockLost p => Sys2Proof.Machine.execPortReferenceClockLost p s
  | .sinkHotPlug => Sys2Proof.Machine.execSinkHotPlug s
  | .outputTrainingRetry => Sys2Proof.Machine.execOutputTrainingRetry s
  | .railsBackWithinLimits b => Sys2Proof.Machine.execRailsBackWithinLimits b s
  | .vddAonFall => Sys2Proof.Machine.execVddAonFall s
  | .vppFuseOutOfLimits p op slot arm n => Sys2Proof.Machine.execVppFuseOutOfLimits p op slot arm n s
  | .lockstepReefReceipt p ru x => Sys2Proof.Machine.execLockstepReefReceipt p ru x s
  | .jtagTapClock tms tdi pins => Sys2Proof.Machine.execJtagTapClock tms tdi pins s
  | .debugPortAccess r => Sys2Proof.Machine.execDebugPortAccess r s

end Sys2Proof.Machine
end

