-- ==== Sys2Proof/Safety.lean ====
section
/-! DEFINITION. What counts as a sound state and a safe step. -/

namespace Sys2Proof.Machine

/-- The memories of a state are in their one canonical form, and so are its register files, its channel table and its configuration
spaces. The keys of the register words rise. -/
structure State.Canonical (s : State) : Prop where
  hbm : s.hbm.wf = true
  loft : s.fab.loft.wf = true
  host : smWf 0 s.host = true
  hostBad : smWf false s.hostBad = true
  regs : smRise none s.regs
  pregs : smRise none s.pregs
  sreg : smWf 0 s.fab.sreg = true
  breg : smWf 0 s.fab.breg = true
  areg : smWf 0 s.fab.areg = true
  gen : smWf 0 s.fab.gen = true
  slots : smRise none s.slots
  jobs : smRise none s.jobs
  cfg : smRise none s.cfg

/-- The part has answered: a command neither stopped nor was refused. -/
def Answers (o : Host.Outcome State Fault Refusal) : Prop := ∃ t, o = .next t

end Sys2Proof.Machine
end

