-- ==== Sys2Proof/Certificates/Slice0/Obligations.lean ====
section
/-! DEFINITION. The statements for the provers, chapter by chapter of the spec. Where a statement rests on a choice of the model, its docstring names the
log entry. -/

open Sys2Proof Sys2Proof.Machine

namespace Sys2Proof.Machine

/-! ### What the statements share -/

/-- The part in the cycle of a word: what comes about before the word issues has done so. -/
abbrev State.atIssue (s : State) (i : Issue) : State := settleTo i.c.toNat 2 s

/-- The part with the clock of t: the cycle that the line in progress has reached and what the counters gained in it (R76), with nothing in flight and no frame on its way out. -/
def State.clockOf (s t : State) : State := { s with fab := { s.fab with cyc := t.fab.cyc, fresh := t.fab.fresh, flight := [] }, wire := [] }

/-- The spar fetches the word, and its fetch delivers it as the command gives it. -/
abbrev Fetches (u : State) (i : Issue) : Prop := ∃ r, fetchWord u i = some (i, r)

/-- The word issues on its spar, its fetch delivered it, it carries the OPCODE and the UNIT (R213, R228), a MASK value that is not reserved, and no
extension word follows it. -/
abbrev Plain (u : State) (i : Issue) (opcode unit : Nat) : Prop :=
  Fetches u i ∧ i.ue = false ∧ fld i.word 111 104 = opcode ∧ fld i.word 103 100 = unit ∧ fld i.word 99 96 < 8 ∧ i.ext = []

/-- From s to t, S register d of a spar became v, and nothing else of the part changed but its clock. -/
abbrev WroteS (s t : State) (spar d : Nat) (v : Word) : Prop :=
  (∀ m n, n < 32 → t.sReg m n = if m = spar ∧ n = d then v else s.sReg m n) ∧
  t = { s.clockOf t with fab := { (s.clockOf t).fab with sreg := t.fab.sreg } }

/-- From s to t, B register d of a spar became v, and nothing else of the part changed but its clock. -/
abbrev WroteB (s t : State) (spar d : Nat) (v : Word) : Prop :=
  (∀ m n, n < 16 → t.bReg m n = if m = spar ∧ n = d then v else s.bReg m n) ∧
  t = { s.clockOf t with fab := { (s.clockOf t).fab with breg := t.fab.breg } }

/-- From s to t, A register d of a spar became v, and nothing else of the part changed but its clock. -/
abbrev WroteA (s t : State) (spar d : Nat) (v : BitVec 40) : Prop :=
  (∀ m n, n < 8 → t.aReg m n = if m = spar ∧ n = d then v else s.aReg m n) ∧
  t = { s.clockOf t with fab := { (s.clockOf t).fab with areg := t.fab.areg } }

/-- From s to t, GEN_IDX of a spar became v, and nothing else of the part changed but its clock. -/
abbrev WroteGen (s t : State) (spar : Nat) (v : BitVec 40) : Prop :=
  (∀ m, t.genIdx m = if m = spar then v else s.genIdx m) ∧ t = { s.clockOf t with fab := { (s.clockOf t).fab with gen := t.fab.gen } }

/-- From s to t nothing changed but register words, and of these none outside a list. -/
abbrev OnlyRegs (s t : State) (l : List Nat) : Prop :=
  (∀ a, a ∉ l → t.reg a = s.reg a) ∧ t = { s with regs := t.regs }

/-- A port of the strapped mode (R530) whose accesses to a register are served: nothing on the way to it is stopped, wedged or in recovery. -/
abbrev Served (s : State) (p : Fin 4) (a : Nat) : Prop := s.ports.contains p.val = true ∧ s.way p.val a false = .served

end Sys2Proof.Machine

/-! ### The queue, reset, and what every step keeps -/

/-- A step takes the command at the front of the queue and runs it with the rest of the queue; with an empty queue the part idles (the model's choice,
log 2). -/
def Obligations.StepRunsFront : Prop :=
  (∀ (c : Instr) (q : List Instr) (s : State), step { s with pending := c :: q } = exec c { s with pending := q }) ∧
  (∀ s : State, s.pending = [] → step s = .next s)

/-- The state after reset: the memories list nothing and are canonical, no command waits, the raster stands at (0, 0, 0) and in no pause, the bays read 0 with valid check
bits and no mark (R100), every crucible entry reads 0 without poison and every descriptor reads full view and anchor 0 (R85), every S, A and B register and GEN_IDX
reads 0 (R68, R168), every register word reads its reset value, and nothing is in flight. -/
def Obligations.ResetState : Prop :=
  State.reset.Canonical ∧ State.reset.pending = [] ∧ State.reset.rast.frame = 0 ∧ State.reset.rast.line = 0 ∧ State.reset.rast.paused = false ∧
  (∀ n a, State.reset.loftByte n a = (0, 0)) ∧
  (∀ n h r c, State.reset.half n h r c = Half.zero) ∧ (∀ n h, State.reset.descr n h = ⟨false, 0⟩) ∧
  (∀ n k, State.reset.sReg n k = 0 ∧ State.reset.aReg n k = 0 ∧ State.reset.bReg n k = 0 ∧ State.reset.genIdx n = 0) ∧
  (∀ a, State.reset.reg a = regReset a) ∧ State.reset.fab.flight = [] ∧ (∀ n, State.reset.phys n = n)

/-- Every step, of whatever command, keeps the memories and the register files in their one canonical form: equal contents stay equal data. -/
def Obligations.StepKeepsCanonical : Prop :=
  ∀ s t : State, s.Canonical → step s = .next t → t.Canonical

/-- A read after a write, through the protection code: in a memory without marks or flipped bits, a write of clean bytes from an address on (of whole
codewords or of parts of them, R92) makes each of them read as written and every other byte as before, and leaves the memory canonical and without marks. -/
def Obligations.MemoryReadAfterWrite : Prop :=
  ∀ (m : Mem) (a : Nat) (bs : List Byte), m.wf = true → m.marks = [] → m.flips = [] →
    (∀ k, (m.write (bs.zipIdx.map (fun b => (a + b.2, b.1, 0)))).fetch k =
      if a ≤ k ∧ k < a + bs.length then (bs.getD (k - a) 0, 0) else m.fetch k) ∧
    (m.write (bs.zipIdx.map (fun b => (a + b.2, b.1, 0)))).wf = true ∧
    (m.write (bs.zipIdx.map (fun b => (a + b.2, b.1, 0)))).marks = [] ∧ (m.write (bs.zipIdx.map (fun b => (a + b.2, b.1, 0)))).flips = []

/-- The code of R501 to R503: a stored codeword in which one or two bits have flipped is read with its data and its mark corrected, a word without flipped bits as it stands,
the read tells one correction, two and none apart, and any three flipped bits are detected as uncorrectable. -/
def Obligations.CodeCorrectsTwoBits : Prop :=
  ∀ (data : BitVec 64) (mark : Bool),
    cwDecode (cwEncode data mark) = ⟨.clean, data, b2n mark⟩ ∧
    (∀ a, a < 80 → cwDecode (cwEncode data mark ^^^ BitVec.ofNat 80 (2 ^ a)) = ⟨.ce1, data, b2n mark⟩) ∧
    (∀ a b, a < 80 → b < a →
      cwDecode (cwEncode data mark ^^^ BitVec.ofNat 80 (2 ^ a) ^^^ BitVec.ofNat 80 (2 ^ b)) = ⟨.ce2, data, b2n mark⟩) ∧
    (∀ a b c, a < 80 → b < a → c < b →
      (cwDecode (cwEncode data mark ^^^ BitVec.ofNat 80 (2 ^ a) ^^^ BitVec.ofNat 80 (2 ^ b) ^^^ BitVec.ofNat 80 (2 ^ c))).kind = .ue)

/-! ### Work in flight -/

/-- What is in flight comes about in its cycle and not before (R64, R88, R181, R182, R224, R238): up to a place in time before all of it only the clock moves; several writes of one S register leave what the
latest of those that have come about gives; and a register write that comes about changes the register it names, and nothing else of the part but its clock. -/
def Sys2Proof.Stated.WorkInFlight : Prop :=
  (∀ (s : State) (c phase : Nat), (∀ x ∈ s.fab.flight, c < x.c ∨ (x.c = c ∧ phase < x.phase)) →
    settleTo c phase s = ({ s with wire := [] } : State).reachCycle c) ∧
  (∀ (s : State) (n d c : Nat) (l : List (Nat × Word)), d < 32 → l.length < 2 ^ 40 → (l.map (fun x => x.1)).Nodup →
    s.fab.flight = l.map (fun x => (⟨x.1, 0, .setS n d x.2⟩ : Flight)) →
    ((∀ x ∈ l, c < x.1) → (settleTo c 2 s).sReg n d = s.sReg n d) ∧
    (∀ x ∈ l, x.1 ≤ c → (∀ y ∈ l, y.1 ≤ c → y.1 ≤ x.1) → (settleTo c 2 s).sReg n d = x.2)) ∧
  (∀ (s : State) (n d c phase : Nat),
    (∀ v, d < 32 → s.fab.flight = [⟨c, phase, .setS n d v⟩] → WroteS s (settleTo c phase s) n d v) ∧
    (∀ v, d < 16 → s.fab.flight = [⟨c, phase, .setB n d v⟩] → WroteB s (settleTo c phase s) n d v) ∧
    (∀ v, d < 8 → s.fab.flight = [⟨c, phase, .setA n d v⟩] → WroteA s (settleTo c phase s) n d v) ∧
    (∀ v, s.fab.flight = [⟨c, phase, .setGen n v⟩] → WroteGen s (settleTo c phase s) n v) ∧
    (s.fab.flight = [⟨c, phase, .addGen n d⟩] → WroteGen s (settleTo c phase s) n (BitVec.ofNat 40 ((s.genIdx n).toNat + d))))

/-! ### Scalar and control words -/

/-- The scalar words (R181, R231): each has exactly one effect, a write of the register it names with the value its row of R231 gives, which words of the next cycle see; a GSET comes about after the advance of a VGEN of its
cycle (R235). With a nonzero bit that its layout does not list the word is a decode fault instead (R226). SOP's functions and AINC's ring are those of ScalarResults; what a write in flight does is WorkInFlight. -/
def Obligations.ScalarWords : Prop :=
  ∀ (s : State) (i : Issue),
    let u := s.atIssue i
    let w := i.word
    let n := i.spar.val
    let next := i.c.toNat + 1
    (Plain u i 0x10 0 →
      (zeros w [(90, 64), (31, 0)] = true → exec (.sli i) s = .next (u.later next 0 (.setS n (fld w 95 91) (BitVec.ofNat 32 (fld w 63 32))))) ∧
      (zeros w [(90, 64), (31, 0)] = false → exec (.sli i) s = .next (decodeFault i u))) ∧
    (Plain u i 0x11 0 →
      (zeros w [(75, 64), (31, 0)] = true → fld w 79 76 ≤ 12 → (bitAt w 80 = true ∨ fld w 63 32 = 0) →
        exec (.sop i) s = .next (u.later next 0 (.setS n (fld w 95 91)
          (sopFunc (fld w 79 76) (u.sReg n (fld w 90 86)) (if bitAt w 80 then BitVec.ofNat 32 (fld w 63 32) else u.sReg n (fld w 85 81)))))) ∧
      ((zeros w [(75, 64), (31, 0)] = false ∨ 12 < fld w 79 76 ∨ (bitAt w 80 = false ∧ fld w 63 32 ≠ 0)) →
        exec (.sop i) s = .next (decodeFault i u))) ∧
    (Plain u i 0x12 0 →
      (zeros w [(86, 0)] = true → exec (.smovb i) s = .next (u.later next 0 (.setB n (fld w 95 92) (u.sReg n (fld w 91 87))))) ∧
      (zeros w [(86, 0)] = false → exec (.smovb i) s = .next (decodeFault i u))) ∧
    (Plain u i 0x13 0 →
      (zeros w [(92, 40)] = true → exec (.ali i) s = .next (u.later next 0 (.setA n (fld w 95 93) (BitVec.ofNat 40 (fld w 39 0))))) ∧
      (zeros w [(92, 40)] = false → exec (.ali i) s = .next (decodeFault i u))) ∧
    (Plain u i 0x14 0 →
      (zeros w [(87, 64), (31, 0)] = true → (fld w 92 88 = 0 ∨ (6 ≤ fld w 92 88 ∧ fld w 92 88 ≤ 23)) →
        exec (.ainc i) s = .next (u.later next 0 (.setA n (fld w 95 93)
          (ringInc (u.aReg n (fld w 95 93)) (fld w 92 88) (sfld w 63 32))))) ∧
      ((zeros w [(87, 64), (31, 0)] = false ∨ (1 ≤ fld w 92 88 ∧ fld w 92 88 ≤ 5) ∨ 24 ≤ fld w 92 88) →
        exec (.ainc i) s = .next (decodeFault i u))) ∧
    (Plain u i 0x15 0 →
      (zeros w [(83, 0)] = true → fld w 90 87 ≤ 6 →
        exec (.sget i) s = .next (u.later next 0 (.setS n (fld w 95 91) (BitVec.ofNat 32 (
          if fld w 90 87 = 0 then snapAmax u i (fld w 86 84)
          else if fld w 90 87 = 1 then (u.genIdx n).toNat % 2 ^ 32
          else if fld w 90 87 = 2 then (u.genIdx n).toNat / 2 ^ 32
          else if fld w 90 87 = 3 then u.rast.frame.toNat % 2 ^ 16
          else if fld w 90 87 = 4 then u.rast.line
          else if fld w 90 87 = 5 then n else u.rast.reef))))) ∧
      ((zeros w [(83, 0)] = false ∨ 6 < fld w 90 87) → exec (.sget i) s = .next (decodeFault i u))) ∧
    (Plain u i 0x16 0 →
      (zeros w [(84, 40)] = true → (bitAt w 85 = true ∨ fld w 39 0 = 0) →
        exec (.gset i) s = .next (u.later next 1 (.setGen n (BitVec.ofNat 40 (if bitAt w 85 then fld w 39 0
          else (u.sReg n (fld w 90 86)).toNat % 256 * 2 ^ 32 + (u.sReg n (fld w 95 91)).toNat))))) ∧
      ((zeros w [(84, 40)] = false ∨ (bitAt w 85 = false ∧ fld w 39 0 ≠ 0)) → exec (.gset i) s = .next (decodeFault i u)))

/-- The functions of SOP (R232), each stated on the numbers its operands stand for: arithmetic modulo 2^32, shifts by bits [4:0] of the second operand. The
result is what SOP leaves in Sd; no counter and nothing else changes. -/
def Sys2Proof.Stated.ScalarOperations : Prop :=
  ∀ (s : State) (i : Issue), Plain (s.atIssue i) i 0x11 0 → zeros i.word [(75, 64), (31, 0)] = true →
    (bitAt i.word 80 = true ∨ fld i.word 63 32 = 0) →
    let u := s.atIssue i
    let n := i.spar.val
    let a := u.sReg n (fld i.word 90 86)
    let b := if bitAt i.word 80 then BitVec.ofNat 32 (fld i.word 63 32) else u.sReg n (fld i.word 85 81)
    let f := fld i.word 79 76
    let sh := b.toNat % 32
    (12 < f → exec (.sop i) s = .next (decodeFault i u)) ∧
    (f ≤ 12 → ∃ r, exec (.sop i) s = .next (u.later (i.c.toNat + 1) 0 (.setS n (fld i.word 95 91) r)) ∧
      (f = 0 → r.toNat = (a.toNat + b.toNat) % 2 ^ 32) ∧
      (f = 1 → (r.toNat + b.toNat) % 2 ^ 32 = a.toNat) ∧
      (f = 2 → ∀ k, r.getLsbD k = (a.getLsbD k && b.getLsbD k)) ∧
      (f = 3 → ∀ k, r.getLsbD k = (a.getLsbD k || b.getLsbD k)) ∧
      (f = 4 → ∀ k, r.getLsbD k = xor (a.getLsbD k) (b.getLsbD k)) ∧
      (f = 5 → r.toNat = a.toNat * 2 ^ sh % 2 ^ 32) ∧
      (f = 6 → r.toNat = a.toNat / 2 ^ sh) ∧
      (f = 7 → r.toInt = a.toInt / 2 ^ sh) ∧
      (f = 8 → r.toNat = a.toNat * b.toNat % 2 ^ 32) ∧
      (f = 9 → r.toInt = min a.toInt b.toInt) ∧
      (f = 10 → r.toInt = max a.toInt b.toInt) ∧
      (f = 11 → r.toNat = min a.toNat b.toNat) ∧
      (f = 12 → r.toNat = max a.toNat b.toNat))

/-- AINC (R233): with K = 0, An becomes An plus the sign-extended INC modulo 2^40; with K from 6 to 23, the low K bits step modulo 2^K and the bits above keep; other
K values are reserved. -/
def Sys2Proof.Stated.RingIncrement : Prop :=
  ∀ (s : State) (i : Issue), Plain (s.atIssue i) i 0x14 0 → zeros i.word [(87, 64), (31, 0)] = true →
    let u := s.atIssue i
    let k := fld i.word 92 88
    let d := fld i.word 95 93
    let old : Int := (u.aReg i.spar.val d).toNat
    let inc := sfld i.word 63 32
    (k = 0 → ∃ v, exec (.ainc i) s = .next (u.later (i.c.toNat + 1) 0 (.setA i.spar.val d v)) ∧ (v.toNat : Int) = (old + inc) % 2 ^ 40) ∧
    (6 ≤ k → k ≤ 23 → ∃ v, exec (.ainc i) s = .next (u.later (i.c.toNat + 1) 0 (.setA i.spar.val d v)) ∧
      (v.toNat : Int) % 2 ^ k = (old + inc) % 2 ^ k ∧ (v.toNat : Int) / 2 ^ k = old / 2 ^ k) ∧
    ((1 ≤ k ∧ k ≤ 5) ∨ 24 ≤ k → exec (.ainc i) s = .next (decodeFault i u))

/-- The results of SOP (R232) and the ring increment of AINC (R233). -/
def Obligations.ScalarResults : Prop := Sys2Proof.Stated.ScalarOperations ∧ Sys2Proof.Stated.RingIncrement


namespace Sys2Proof.Machine

/-- The words of a loop body that the spar issues, as an iteration that begins in cycle c begins them: at their offsets from it, a word that MASK excludes left out, the words of an
inner LOOP being its own (R183, R216, R230). `lead` is the leader of the spars that run the set, `place` the LOOP's place in the store. -/
def bodyAt (i : Issue) (lead place c : Nat) : List Flight :=
  ((topWords (i.ext.length + 1) 0 i.ext).filter (fun x => maskLets x.2.1 i.spar.val lead)).map (fun x =>
    ⟨c + offOf x.2.1, 2, .issue { i with word := x.2.1, ext := x.2.2, ue := false } lead (place + 1 + x.1)⟩)

/-- Iteration k of N of a loop, begun in cycle c: its body, and the next iteration P cycles later where there is one. -/
def iterationAt (i : Issue) (k lead place c : Nat) : List Flight :=
  bodyAt i lead place c ++ (if k + 1 < fld i.word 95 80 then [⟨c + fld i.word 79 64, 2, .again i (k + 1) lead place⟩] else [])

/-- A state with more work in flight. -/
def State.begun (s : State) (l : List Flight) : State := { s with fab := { s.fab with flight := s.fab.flight ++ l } }

end Sys2Proof.Machine

/-- BEND ends the bundle on its spar (R229), whatever channel runs it: the spar and channel stand among those whose bundle has ended, so that no later word of the bundle issues there (R179), and nothing else changes.
LOOP (R183, R230), whatever its body, begins its first iteration, and nothing else changes; an iteration begins the next one P cycles later, N in all, and none once the bundle has ended. A body
of one SLI shows the whole: once everything has come about the register holds the immediate, whatever N and P are. -/
def Obligations.BundleEndAndLoop : Prop :=
  ∀ (s : State) (i : Issue),
    let u := s.atIssue i
    (Plain u i 0x00 0 → fld i.word 99 96 = 0 → zeros i.word [(95, 0)] = true →
      exec (.bend i) s = .next { u with fab := { u.fab with ended := (i.spar.val, i.chan.val) :: u.fab.ended } } ∧
      (∀ (j : Issue), j.spar = i.spar → j.chan = i.chan →
        present { u with fab := { u.fab with ended := (i.spar.val, i.chan.val) :: u.fab.ended } } j = false)) ∧
    (∀ lead place, fetchWord u i = some (i, lead, place) → i.ue = false → fld i.word 111 104 = 0x01 → fld i.word 103 96 = 0 → fld i.word 95 80 ≠ 0 →
      fld i.word 79 64 ≠ 0 → fld i.word 63 56 ≠ 0 → fld i.word 55 0 = 0 → i.ext.length = fld i.word 63 56 →
      exec (.loop i) s = .next (u.begun (iterationAt i 0 lead place i.c.toNat)) ∧
      (∀ (x : State) (k c : Nat), runWork c (.again i k lead place) x =
        if (i.spar.val, i.chan.val) ∈ x.fab.ended then x else x.begun (iterationAt i k lead place c)) ∧
      (∀ b : IWord, i.ext = [b] → fld b 111 104 = 0x10 → fld b 103 96 = 0 → zeros b [(90, 64), (31, 0)] = true → u.fab.flight = [] →
        u.fab.storeFlips = [] → (i.spar.val, i.chan.val) ∉ u.fab.ended →
        WroteS u (settleAll (u.begun (iterationAt i 0 lead place i.c.toNat))) i.spar.val (fld b 95 91) (BitVec.ofNat 32 (fld b 63 32))))

/-- A spar that MASK excludes, or whose bundle has ended, or that is absent, or that runs no bundle with the word at its cycle, treats a word as absent (R22, R54, R216, R229): no word of any opcode changes anything, beyond what
was in flight before it. -/
def Sys2Proof.Stated.AbsentWordDoesNothing : Prop :=
  ∀ (s : State) (i : Issue), present (s.atIssue i) i = false →
    ∀ c ∈ ([.bend i, .loop i, .sli i, .sop i, .smovb i, .ali i, .ainc i, .sget i, .gset i, .ftest i, .fsig i, .await i, .muster i, .emit i, .mark i, .mma i,
      .conv i, .tload i, .arland i, .vadd i, .vsub i, .vmul i, .vfma i, .vmax i, .vmin i, .viadd i, .visub i, .vimul i, .vimax i, .vimin i, .vcvt i,
      .vun i, .vred i, .vgen i, .resc i, .quant i, .arsend i, .ldh i, .sth i, .rig i, .lsc i, .idxr i, .pfirst i, .plast i, .pshuf i, .pcrop i,
      .pargmax i] : List Instr), exec c s = .next (s.atIssue i)

/-- A word with a reserved MASK value, or whose fetch found an uncorrectable codeword, or whose UNIT is not its opcode's, is a decode fault (R193, R178, R215, R226, R228),
whatever its opcode: it does not issue, event 0x0311 goes to the owning host, and marks and egress signals that its channel issues from this place of the frame on are ignored. The words of a LOOP that has a decode fault
issue as compiled. -/
def Sys2Proof.Stated.ReservedWordFaults : Prop :=
  ∀ (s : State) (i j : Issue) (lead place : Nat),
    let u := s.atIssue i
    fetchWord u i = some (j, lead, place) → (j.ue = true ∨ 8 ≤ fld i.word 99 96 ∨ 6 ≤ fld i.word 103 100) →
    (∀ c ∈ ([.bend i, .sli i, .sop i, .smovb i, .ali i, .ainc i, .sget i, .gset i, .ftest i, .fsig i, .await i, .muster i, .emit i, .mark i,
      .mma i, .conv i, .tload i, .arland i, .vadd i, .vsub i, .vmul i, .vfma i, .vmax i, .vmin i, .viadd i, .visub i, .vimul i, .vimax i, .vimin i,
      .vcvt i, .vun i, .vred i, .vgen i, .resc i, .quant i, .arsend i, .ldh i, .sth i, .rig i, .lsc i, .idxr i, .pfirst i, .plast i, .pshuf i,
      .pcrop i, .pargmax i] : List Instr), exec c s = .next (decodeFault j u)) ∧
    exec (.loop i) s = .next ((decodeFault j u).begun (iterationAt j 0 lead place i.c.toNat)) ∧
    (let p := u.postAt [(u.slot i.chan.val).port] 0x0311 i.c.toNat
        [(6, u.rast.frame.toNat), (2, u.rast.line), (2, i.c.toNat), (1, i.spar.val), (4, u.handle i.chan.val)]
     decodeFault j u = { p with fab := { u.fab with muted := (decodeFault j u).fab.muted }, rcd := { u.rcd with evt := u.rcd.evt ||| 64 } }) ∧
    (∀ ch pos, (decodeFault j u).mutedAt ch pos = (u.mutedAt ch pos || decide (ch = i.chan.val ∧ u.posNow i.c.toNat ≤ pos)))

/-- Words that do not issue: on a spar that treats them as absent (R216) and with reserved fields (R193, R226, R228). -/
def Obligations.AbsentAndReservedWords : Prop := Sys2Proof.Stated.AbsentWordDoesNothing ∧ Sys2Proof.Stated.ReservedWordFaults


/-! ### Fences, line stores and musters -/

/-- FTEST on an enabled ingress pair n, where no replay forces the frame's repeats. With PENDING set (R198) FRONT toggles, PENDING clears and TAG takes the completion
frame; MISS and every other register word stays. With PENDING clear (R199) FRONT and TAG stay, MISS increments, RPT is set on the ticks to come, the frame record's mask takes the pair, and event 0x0220
goes to the owning host with F and n. On a disabled pair or an egress pair (R239) the word only posts event 0x0224. It acts in its issue cycle (R238). -/
def Sys2Proof.Stated.FenceTest : Prop :=
  ∀ (s : State) (i : Issue),
    let u := s.atIssue i
    Plain u i 0x20 0 → zeros i.word [(91, 0)] = true → u.rcd.applied = none →
    let n := fld i.word 95 92
    let stat := A.rastPairStat n
    let port := (u.slot i.chan.val).port
    (u.pairOn n = true → u.rf (A.rastPairCtl n) 1 1 = 0 → u.rf stat 1 1 = 1 →
      ∃ t, exec (.ftest i) s = .next t ∧ OnlyRegs u t [stat] ∧ t.rf stat 0 0 = 1 - u.rf stat 0 0 ∧ t.rf stat 1 1 = 0 ∧
        t.rf stat 31 16 = smGet 0 u.rcd.pairDone n % 2 ^ 16) ∧
    (u.pairOn n = true → u.rf (A.rastPairCtl n) 1 1 = 0 → u.rf stat 1 1 = 0 →
      ∃ v : State, OnlyRegs u { v with rast := u.rast, rcd := u.rcd } [A.rastPairCnt n] ∧ v.rast = { u.rast with rpt := true } ∧
        v.rcd = { u.rcd with rptMask := u.rcd.rptMask ||| 2 ^ n } ∧ v.reg stat = u.reg stat ∧
        v.rf (A.rastPairCnt n) 15 0 = min (u.rf (A.rastPairCnt n) 15 0 + 1) 65535 ∧
        v.rf (A.rastPairCnt n) 31 16 = u.rf (A.rastPairCnt n) 31 16 ∧
        exec (.ftest i) s = .next (v.post [port] 0x0220 [(6, u.rast.frame.toNat), (1, n)])) ∧
    ((u.pairOn n = false ∨ u.rf (A.rastPairCtl n) 1 1 = 1) →
      exec (.ftest i) s = .next (u.post [port] 0x0224 [(6, u.rast.frame.toNat), (1, n)]))

/-- FSIG takes effect 4 cycles after its issue (R238). On an enabled egress pair n, issued before any decode fault of its channel in the frame (R193, R202): with PENDING clear, FRONT toggles, PENDING sets, TAG takes the frame and event 0x0223 goes to the
owning host; with PENDING set, FRONT stays, MISS increments and event 0x0222 goes out. One that was issued from a decode fault on does nothing to an enabled egress pair. On a disabled or ingress pair it only posts event 0x0224 (R239). A
release by the port that may write the pair clears PENDING and nothing else; on a disabled or ingress pair, or from another port, it is ignored (R195, R638). -/
def Sys2Proof.Stated.FenceSignalAndRelease : Prop :=
  (∀ (s : State) (i : Issue), Plain (s.atIssue i) i 0x21 0 → zeros i.word [(91, 0)] = true →
    exec (.fsig i) s = .next ((s.atIssue i).later (i.c.toNat + 4) 1
      (.fence i.chan.val (fld i.word 95 92) ((s.atIssue i).slot i.chan.val).port ((s.atIssue i).posNow i.c.toNat)))) ∧
  (∀ (s : State) (k ch n port pos : Nat), n < 16 →
    let stat := A.rastPairStat n
    let lands := runWork k (.fence ch n port pos) s
    (s.pairOn n = true → s.rf (A.rastPairCtl n) 1 1 = 1 → s.mutedAt ch pos = false → s.rf stat 1 1 = 0 →
      ∃ v, OnlyRegs s v [stat] ∧ v.rf stat 0 0 = 1 - s.rf stat 0 0 ∧ v.rf stat 1 1 = 1 ∧ v.rf stat 31 16 = s.rast.frame.toNat % 2 ^ 16 ∧
        lands = v.post [port] 0x0223 [(6, s.rast.frame.toNat), (1, n)]) ∧
    (s.pairOn n = true → s.rf (A.rastPairCtl n) 1 1 = 1 → s.mutedAt ch pos = false → s.rf stat 1 1 = 1 →
      ∃ v, OnlyRegs s v [A.rastPairCnt n] ∧ v.rf (A.rastPairCnt n) 15 0 = min (s.rf (A.rastPairCnt n) 15 0 + 1) 65535 ∧
        v.rf (A.rastPairCnt n) 31 16 = s.rf (A.rastPairCnt n) 31 16 ∧ lands = v.post [port] 0x0222 [(6, s.rast.frame.toNat), (1, n)]) ∧
    (s.pairOn n = true → s.rf (A.rastPairCtl n) 1 1 = 1 → s.mutedAt ch pos = true → lands = s) ∧
    ((s.pairOn n = false ∨ s.rf (A.rastPairCtl n) 1 1 = 0) → lands = s.post [port] 0x0224 [(6, s.rast.frame.toNat), (1, n)])) ∧
  (∀ (s : State) (p : Fin 4) (k : Fin 16), Served s p (A.rastPairCtl k) →
    (s.pairOn k = true ∧ s.rf (A.rastPairCtl k) 1 1 = 1 ∧ p.val = s.pairOwner k →
      ∃ t, exec (.egressRelease p k) s = .next t ∧ OnlyRegs s t [A.rastPairStat k] ∧ t.rf (A.rastPairStat k) 1 1 = 0 ∧
        t.rf (A.rastPairStat k) 0 0 = s.rf (A.rastPairStat k) 0 0 ∧ t.rf (A.rastPairStat k) 31 16 = s.rf (A.rastPairStat k) 31 16) ∧
    (¬(s.pairOn k = true ∧ s.rf (A.rastPairCtl k) 1 1 = 1 ∧ p.val = s.pairOwner k) → exec (.egressRelease p k) s = .next s))

/-- The fence words and the release of an egress pair (R195, R198, R199, R202, R239). -/
def Obligations.FenceWords : Prop := Sys2Proof.Stated.FenceTest ∧ Sys2Proof.Stated.FenceSignalAndRelease


/-- The line store words. EMIT declares one spar-owned segment of the named line in its spar's bay, with its extent in the layer's format, and changes nothing else (R205, R207, R391).
MARK takes effect 4 cycles after its issue (R238): it moves exactly the spar's spar-owned segments of the line occurrence that it named to Marked (R206), and nothing else, where its channel had no decode fault before it and the layer is
on; else nothing (R193, R210, R426). AWAIT of a line whose ranges are all spar-owned changes nothing (R209). -/
def Sys2Proof.Stated.LineStoreWords : Prop :=
  (∀ (s : State) (i : Issue),
    let u := s.atIssue i
    let w := i.word
    let n := i.spar.val
    let line := namedLine u w
    let f := occFrame u line i.c.toNat
    (Plain u i 0x30 0 → zeros w [(26, 0)] = true → fld w 40 27 ≠ 0 →
      effAddr u n (fld w 95 72) + segLen (u.reg (A.compLayerFmt (fld w 71 69))) (fld w 40 27) ≤ 0x600000 →
      ∃ g : Seg, exec (.emit i) s = .next { u with fab := { u.fab with segs := u.fab.segs ++ [g] } } ∧
        g.layer = fld w 71 69 ∧ g.line = line ∧ g.frame = f ∧ g.spar = n ∧ g.base = effAddr u n (fld w 95 72) ∧
        g.len = segLen (u.reg (A.compLayerFmt (fld w 71 69))) (fld w 40 27) ∧ g.x0 = fld w 54 41 ∧ g.width = fld w 40 27 ∧ g.st = .sparOwned) ∧
    (Plain u i 0x31 0 → zeros w [(95, 72), (54, 0)] = true →
      exec (.mark i) s = .next (u.later (i.c.toNat + 4) 1 (.mark i.chan.val n (fld w 71 69) line f (u.posNow i.c.toNat)))) ∧
    (Plain u i 0x22 0 → zeros w [(95, 72), (54, 0)] = true →
      (∀ m ∈ u.fab.segs, ∀ g ∈ u.fab.segs, m.spar = n → m.layer = fld w 71 69 → m.line = line → m.frame = f → g.spar = n →
        g.base < m.base + m.len → m.base < g.base + g.len → g.st = .sparOwned) →
      exec (.await i) s = .next u)) ∧
  (∀ (s : State) (k ch n layer line : Nat) (f : Frame) (pos : Nat),
    let t := runWork k (.mark ch n layer line f pos) s
    (s.mutedAt ch pos = false → s.markable f layer = true → s.layerOff layer f.toNat line = false →
      t = { s with fab := { s.fab with segs := t.fab.segs } } ∧ t.fab.segs.length = s.fab.segs.length ∧
      ∀ j (h : j < s.fab.segs.length) (h' : j < t.fab.segs.length),
        t.fab.segs[j] = (if s.fab.segs[j].spar = n ∧ s.fab.segs[j].layer = layer ∧ s.fab.segs[j].line = line ∧ s.fab.segs[j].frame = f ∧
            s.fab.segs[j].st = .sparOwned ∧ s.fab.segs[j].spoiled = false then { s.fab.segs[j] with st := .marked } else s.fab.segs[j])) ∧
    ((s.mutedAt ch pos = true ∨ s.markable f layer = false ∨ s.layerOff layer f.toNat line = true) → t = s))

/-- A spar write into a range that is not spar-owned is suppressed byte by byte (R208): the bytes of such a range keep what they held, and the bytes outside are written, from 4 cycles after the write's issue on (R88, R224). Here for
a write through the spar's port in a bay without aliases, marks or flipped bits. -/
def Sys2Proof.Stated.SuppressedWrite : Prop :=
  ∀ (s : State) (h : Held) (n u a : Nat) (bs : List Byte), n < 64 → s.fab.loft.marks = [] → s.fab.loft.flips = [] → s.fab.flight = [] →
    (∀ x, (s.held h).reach 1 false x = x) → a + bs.length ≤ 0x600000 →
    let t := s.storeNow h u n (bs.zipIdx.map (fun b => (a + b.2, b.1, 0))) []
    ∀ x, x < 0x600000 →
      (settleTo (u + 3) 4 t).fab.loft.fetch (bayKey n x) = s.fab.loft.fetch (bayKey n x) ∧
      (settleTo (u + 4) 0 t).fab.loft.fetch (bayKey n x) =
        if a ≤ x ∧ x < a + bs.length ∧ s.foreignSeg n x = none then (bs.getD (x - a) 0, 0) else s.fab.loft.fetch (bayKey n x)

/-- The line store words, and the writes that a segment holds off (R205 to R209, R391). -/
def Obligations.LineStores : Prop := Sys2Proof.Stated.LineStoreWords ∧ Sys2Proof.Stated.SuppressedWrite


/-- Musters of a part outside a fleet (R203, R484, R485): MUSTER's arrival completes the instance at its issue cycle, with its release R cycles later in the same line. The
release finds the part in that cycle, a muster that a LOOP in flight still has to issue included: the release of a complete instance raises nothing, and MARGIN takes the smaller of itself and release minus completion; the release of an instance that is not complete increments LATE, sets EVT.MUSTER_LATE and posts event 0x0530 with kind 0. -/
def Sys2Proof.Stated.Musters : Prop :=
  (∀ (s : State) (i : Issue),
    let u := s.atIssue i
    u.rf A.linkFleetCtl 0 0 = 0 → Plain u i 0x23 0 → zeros i.word [(67, 0)] = true → fld i.word 83 68 ≠ 0 →
      findGather u .muster (fld i.word 95 84) u.f16 = none →
      ∃ t g, exec (.muster i) s = .next t ∧ g ∈ t.fleet.gathers ∧ g.kind = .muster ∧ g.id = fld i.word 95 84 ∧ g.f = u.rast.frame.toNat % 65536 ∧
        g.rel = some (u.rast.line, i.c.toNat + fld i.word 83 68) ∧ g.doneAt = some (u.rast.line, i.c.toNat) ∧ g.phase = 3 ∧
        t = { u with fleet := t.fleet }) ∧
  (∀ (s : State) (id : BitVec 12), exec (.musterRelease id) s = .next (musterRelease id.toNat (atRelease id.toNat s)) ∧
    (∀ l r, s.fab.flight = [] → releaseOf id.toNat s = some (l, r) → l = s.rast.line → atRelease id.toNat s = ({ s with wire := [] } : State).reachCycle r) ∧
    (s.fab.flight = [] → releaseOf id.toNat s = none → exec (.musterRelease id) s = .next { s with wire := [] })) ∧
  (∀ (s : State) (id : BitVec 12) (g : Gather) (l c r : Nat),
    let v := atRelease id.toNat s
    v.rf A.linkFleetCtl 0 0 = 0 → findGather v .muster id.toNat v.f16 = some g → g.rel = some (l, r) →
    (3 ≤ g.phase → g.doneAt = some (l, c) → c ≤ r → r < 65536 →
      ∃ t, exec (.musterRelease id) s = .next t ∧ t.rf A.linkMusterStat 15 0 = min (v.rf A.linkMusterStat 15 0) (r - c) ∧
        t.rf A.linkMusterStat 31 16 = v.rf A.linkMusterStat 31 16 ∧ t.rcd = v.rcd ∧ t.ev = v.ev ∧ (∀ a, a ≠ A.linkMusterStat → t.reg a = v.reg a)) ∧
    (g.doneAt = none →
      ∃ u : State, u.rf A.linkMusterStat 31 16 = min (v.rf A.linkMusterStat 31 16 + 1) 65535 ∧
          u.rf A.linkMusterStat 15 0 = v.rf A.linkMusterStat 15 0 ∧ u.rcd = { v.rcd with evt := v.rcd.evt ||| 2 } ∧
        (∀ a, a ≠ A.linkMusterStat → u.reg a = v.reg a) ∧
        exec (.musterRelease id) s =
          .next (u.postAt [g.port] 0x0530 r [(6, v.rast.frame.toNat), (2, l), (2, r), (2, id.toNat), (1, 0)])))

/-- Exact reductions. ARSEND of a reduction in local mode hands each named row, read under R133, to the reduction: with one contribution declared the row is complete with those values (R491). ARLAND of
rows that have arrived writes their sums and poison into the slot (R249, R494); a row that has not arrived is written as 0 with poison, LATE increments and event 0x0530 of kind 1 is posted
once per instance and frame. The slot keeps its descriptor. -/
def Sys2Proof.Stated.Reductions : Prop :=
  ∀ (s : State) (i : Issue),
    let u := s.atIssue i
    let w := i.word
    let n := i.spar.val
    let rid := fld w 76 65
    u.fab.flight = [] →
    (Plain u i 0x43 1 → zeros w [(64, 0)] = true → viewOk u n (bitAt w 90) (fld w 95 91) = true → fld w 83 77 = 1 →
      smWf Half.zero u.fab.crucible = true →
      (∀ v, rowDone u u.f16 i.c.toNat rid (fld w 89 84) = some v →
        ∃ r, exec (.arland i) s = .next r ∧
          let t := settleAll r
          t = { u.clockOf t with fab := { (u.clockOf t).fab with crucible := t.fab.crucible } } ∧
          ∀ r c, r < 64 → c < 64 → (t.entry n (bitAt w 90) (fld w 95 91) r c) =
            if r = fld w 89 84 then ⟨v.getD c 0 % 2 ^ viewBits (bitAt w 90), (v.drop 64).getD c 0, false⟩
            else u.entry n (bitAt w 90) (fld w 95 91) r c) ∧
      (rowDone u u.f16 i.c.toNat rid (fld w 89 84) = none →
        ∃ r, exec (.arland i) s = .next r ∧
          let t := settleAll r
          t.fab.descr = u.fab.descr ∧
          (∀ c, c < 64 → (t.entry n (bitAt w 90) (fld w 95 91) (fld w 89 84) c) = ⟨0, 2, false⟩) ∧
          (u.fleet.late.contains rid = false → t.fleet.late.contains rid = true ∧ t.rcd.evt = u.rcd.evt ||| 2) ∧
          (u.fleet.late.contains rid = true → t.regs = u.regs ∧ t.ev = u.ev))) ∧
    (Plain u i 0x72 3 → zeros w [(64, 0)] = true → viewOk u n (bitAt w 90) (fld w 95 91) = true → fld w 83 77 = 1 → redMode u rid = 1 →
      u.fleet.gathers = [] → (∃ g, runningPassage u i.chan.val = some g ∧ g.contribs rid (fld w 89 84) = 1) →
      ∃ r v, exec (.arsend i) s = .next r ∧
        let t := settleAll r
        rowDone t u.f16 i.c.toNat rid (fld w 89 84) = some v ∧
        (∀ c, c < 64 → v.getD c 0 = lowBits 96 (readEntry u n (bitAt w 90) (fld w 95 91) (fld w 89 84) c).v ∧
          v.getD (64 + c) 0 = (readEntry u n (bitAt w 90) (fld w 95 91) (fld w 89 84) c).poison) ∧
        t.fab.crucible = u.fab.crucible ∧ t.fab.descr = u.fab.descr ∧ t.fab.loft = u.fab.loft)

/-- Musters and exact reductions outside a fleet (R203, R249, R484, R485, R491, R494). -/
def Obligations.FleetWords : Prop := Sys2Proof.Stated.Musters ∧ Sys2Proof.Stated.Reductions


/-! ### Arithmetic -/

namespace Sys2Proof.Machine

/-- The value of a code of a format (R115); none for a NaN or infinity code. -/
def codeVal (f : Fmt) (c : Nat) : Option ℚ := (f.value c).map (fun p => (p.1 : ℚ) * (2 : ℚ) ^ p.2)

/-- c is what R119 and R120 make of the exact value r in the format: a finite code whose value is nearest to r, with the even code at a tie, the zero code for a zero result, SAT only where
the rounded magnitude exceeds the largest one, and UFZ exactly where a nonzero r gives 0. -/
abbrev Nearest (f : Fmt) (r : ℚ) (c : Conv) : Prop :=
  c.code < 2 ^ f.bits ∧ ∃ v, codeVal f c.code = some v ∧
    (∀ k w, k < 2 ^ f.bits → codeVal f k = some w → |v - r| ≤ |w - r| ∧ (|v - r| = |w - r| → w ≠ v → c.code % 2 = 0)) ∧
    (v = 0 → c.code = 0) ∧ (c.ufz = true ↔ r ≠ 0 ∧ v = 0) ∧
    (c.sat = true → |v| < |r| ∧ ∀ k w, k < 2 ^ f.bits → codeVal f k = some w → (0 ≤ v → w ≤ v) ∧ (v ≤ 0 → v ≤ w)) ∧
    (|r| ≤ |v| → c.sat = false)

/-- What a BF16 step must leave of an exact result. -/
abbrev StepIs (r : ℚ) (x : Step16) : Prop := ∃ c, x = .ok c ∧ Nearest .bf16 r c

end Sys2Proof.Machine

/-- The conversion of R119, for every format and every exact value n / d: nearest, ties to even, saturating, never a NaN or infinity. -/
def Obligations.ConversionIsNearest : Prop := ∀ (f : Fmt) (n : Int) (d : Nat), 0 < d → Nearest f ((n : ℚ) / d) (convert f n d)

/-- The BF16 operations (R160) of finite inputs: ADD, SUB, MUL and FMA form the exact result and convert it once; MAX and MIN give the larger or smaller input unchanged, a zero as +0. With an input that is NaN
or infinite there is no result but poison (R162). The integers of R161 clamp to −32,768 to 32,767. -/
def Sys2Proof.Stated.VectorArithmetic : Prop :=
  (∀ x y z a b c, codeVal .bf16 x = some a → codeVal .bf16 y = some b → codeVal .bf16 z = some c → x < 65536 → y < 65536 →
    StepIs (a + b) (bfAdd x y) ∧ StepIs (a - b) (bfSub x y) ∧ StepIs (a * b) (bfMul x y) ∧ StepIs (a * b + c) (bfFma x y z) ∧
    (∃ k, bfMaxMin true x y = .ok ⟨k, false, false⟩ ∧ codeVal .bf16 k = some (max a b) ∧ (max a b ≠ 0 → k = x ∨ k = y) ∧ (max a b = 0 → k = 0)) ∧
    (∃ k, bfMaxMin false x y = .ok ⟨k, false, false⟩ ∧ codeVal .bf16 k = some (min a b) ∧ (min a b ≠ 0 → k = x ∨ k = y) ∧ (min a b = 0 → k = 0))) ∧
  (∀ x y z, (codeVal .bf16 x = none ∨ codeVal .bf16 y = none) → bfAdd x y = .bad ∧ bfMul x y = .bad ∧ bfFma x y z = .bad ∧
    bfMaxMin true x y = .bad ∧ bfMaxMin false x y = .bad) ∧
  (∀ v : Int, toSigned 16 (laneS16 0 v).code = max (-32768) (min 32767 v) ∧ ((laneS16 0 v).sat = true ↔ v < -32768 ∨ 32767 < v) ∧
    (laneS16 0 v).poi = 0) ∧
  (∀ (p : Nat) (v : Int) (r : Step16), p ≠ 0 → laneS16 p v = ⟨0x7FFF, 0, false, false, p⟩ ∧ laneBf p r = ⟨0x7FC0, 0, false, false, p⟩)

/-! ### Words that read and write over several cycles -/

namespace Sys2Proof.Machine

/-- The word is fetched, decodes to f, and its addresses raise no fault. -/
abbrev Issues {α : Type} (s : State) (i : Issue) (dec : State → Issue → Option α) (chk : State → Issue → α → Option IssueFault) (f : α) : Prop :=
  Fetches (s.atIssue i) i ∧ dec (s.atIssue i) i = some f ∧ chk ((s.atIssue i).held ((s.atIssue i).hold i)) i f = none

/-- Nothing else is in flight as the word issues, and the bay of its spar holds no mark and no flipped bit, no alias lies over it, and its spar owns every segment in it. -/
structure QuietBay (s : State) (n : Nat) : Prop where
  calm : s.fab.flight = []
  marks : s.fab.loft.marks = []
  flips : s.fab.loft.flips = []
  plain : ∀ a, s.aliasPair 1 a = none ∧ s.fitAlias 1 a = none
  own : ∀ g ∈ s.fab.segs, g.spar = n → g.st = .sparOwned

/-- What a command leaves once everything that it began has come about. -/
abbrev Leaves (c : Instr) (s : State) (p : State → Prop) : Prop := ∃ r, exec c s = .next r ∧ p (settleAll r)

end Sys2Proof.Machine

/-- A word that reads and writes over several cycles (R224, R227): wherever it is fetched, decodes and forms no bad address, its issue takes the registers, descriptors and program of its issue cycle and begins its first
read cycle, and changes nothing else; a tile matrix word that starts an accumulation also writes its slot's descriptor, which words of the next cycle see (R80, R132), and VGEN advances GEN_IDX likewise (R168, R235). -/
def Sys2Proof.Stated.LongWordsIssue : Prop :=
  ∀ (s : State) (i : Issue),
    let u := s.atIssue i
    let begins : State := u.later i.c.toNat 3 (.stage i (u.hold i) 0 [])
    let tile (f : TileF) : State := if f.start then begins.later (i.c.toNat + 1) 0 (.setDescr i.spar.val f.compact f.slot (tileAnchor u i.spar.val f)) else begins
    (∀ f, Issues s i (decTile false) (chkTile false) f → exec (.mma i) s = .next (tile f)) ∧
    (∀ f, Issues s i (decTile true) (chkTile true) f → exec (.conv i) s = .next (tile f)) ∧
    (∀ f, Issues s i decTload chkTload f → exec (.tload i) s = .next begins) ∧
    (∀ f, Issues s i (decReduce 0x43 1) noCheck f → exec (.arland i) s = .next (u.later i.c.toNat 4 (.stage i (u.hold i) 0 []))) ∧
    (∀ f, Issues s i (decBin 0x50) (chkBin false) f → exec (.vadd i) s = .next begins) ∧
    (∀ f, Issues s i (decBin 0x51) (chkBin false) f → exec (.vsub i) s = .next begins) ∧
    (∀ f, Issues s i (decBin 0x52) (chkBin false) f → exec (.vmul i) s = .next begins) ∧
    (∀ f, Issues s i (decBin 0x53) (chkBin true) f → exec (.vfma i) s = .next begins) ∧
    (∀ f, Issues s i (decBin 0x54) (chkBin false) f → exec (.vmax i) s = .next begins) ∧
    (∀ f, Issues s i (decBin 0x55) (chkBin false) f → exec (.vmin i) s = .next begins) ∧
    (∀ f, Issues s i (decBin 0x56) (chkBin false) f → exec (.viadd i) s = .next begins) ∧
    (∀ f, Issues s i (decBin 0x57) (chkBin false) f → exec (.visub i) s = .next begins) ∧
    (∀ f, Issues s i (decBin 0x58) (chkBin false) f → exec (.vimul i) s = .next begins) ∧
    (∀ f, Issues s i (decBin 0x59) (chkBin false) f → exec (.vimax i) s = .next begins) ∧
    (∀ f, Issues s i (decBin 0x5A) (chkBin false) f → exec (.vimin i) s = .next begins) ∧
    (∀ f, Issues s i (decUn 0x5B 5) chkVcvt f → exec (.vcvt i) s = .next begins) ∧
    (∀ f, Issues s i (decUn 0x5C 7) (chkUn 16 16) f → exec (.vun i) s = .next begins) ∧
    (∀ f, Issues s i decVred chkVred f → exec (.vred i) s = .next begins) ∧
    (∀ f, Issues s i decVgen chkVgen f → exec (.vgen i) s = .next (begins.later (i.c.toNat + 1) 0 (.addGen i.spar.val (f.nvec * 256)))) ∧
    (∀ f, Issues s i decResc chkResc f → exec (.resc i) s = .next begins) ∧
    (∀ f, Issues s i decQuant chkQuant f → exec (.quant i) s = .next begins) ∧
    (∀ f, Issues s i (decReduce 0x72 3) noCheck f → exec (.arsend i) s = .next begins) ∧
    (∀ f, Issues s i (decMove 0x80) (chkHbm true) f → exec (.ldh i) s = .next begins) ∧
    (∀ f, Issues s i (decMove 0x81) (chkHbm false) f → exec (.sth i) s = .next begins) ∧
    (∀ f, Issues s i decRig chkRig f → exec (.rig i) s = .next begins) ∧
    (∀ f, Issues s i (decMove 0x83) chkLsc f → exec (.lsc i) s = .next begins) ∧
    (∀ f, Issues s i decIdxr chkIdxr f → exec (.idxr i) s = .next begins) ∧
    (∀ f, Issues s i decPfirst chkPfirst f → exec (.pfirst i) s = .next begins) ∧
    (∀ f, Issues s i decPlast chkPlast f → exec (.plast i) s = .next begins) ∧
    (∀ f, Issues s i decPshuf chkPshuf f → exec (.pshuf i) s = .next begins) ∧
    (∀ f, Issues s i decPcrop chkPcrop f → exec (.pcrop i) s = .next begins) ∧
    (∀ f, Issues s i decParg chkParg f → exec (.pargmax i) s = .next begins)

/-- Work in flight, and the issue of the words that take more than a cycle (R88, R91, R181, R182, R224). -/
def Obligations.WorkOfWords : Prop := Sys2Proof.Stated.WorkInFlight ∧ Sys2Proof.Stated.LongWordsIssue


/-! ### Vector words -/

namespace Sys2Proof.Machine

/-- Two byte ranges are the same, or have no byte in common. -/
abbrev Apart (a n b m : Nat) : Prop := a = b ∨ a + n ≤ b ∨ b + m ≤ a

/-- Element l of vector v of a loft operand, with its poison: the pad value where a read bound does not pass (R187, R221). -/
def vecEl (s : State) (n : Nat) (b : Bounds) (base bits : Nat) (ty : Ety) (v l : Nat) : Nat × Nat :=
  if b.reads s n (b.oR + (v : Int)) (b.oC + (l : Int)) then elemAt s n (base + v * 32 * bits) bits l else (padCode s n b ty, 0)

/-- The lanes of a word that its write bounds let write (R186). -/
def openLanes (s : State) (n : Nat) (b : Bounds) (nvec : Nat) : List (Nat × Nat) :=
  (List.range nvec).flatMap (fun (v : Nat) => (List.range 256).filterMap (fun (l : Nat) =>
    if b.writes s n (b.oR + (v : Int)) (b.oC + (l : Int)) then some (v, l) else none))

/-- From u to t, a vector word of spar n wrote `lane v l` into lane l of vector v where the write bounds pass: those elements and no other byte of any bay changed (R151, R188); SAT, UFZ and POI
advanced by what the written lanes count (R150), held at 2^32 − 1; and nothing else of the part changed but its clock and the entries of the line signature. -/
abbrev VectorWrote (u t : State) (n dst bits nvec : Nat) (b : Bounds) (lane : Nat → Nat → Lane) : Prop :=
  (∀ v l : Nat, v < nvec → l < 256 → (elemAt t n (dst + v * 32 * bits) bits l).1 =
    if b.writes u n (b.oR + (v : Int)) (b.oC + (l : Int)) then (lane v l).code % 2 ^ bits
    else (elemAt u n (dst + v * 32 * bits) bits l).1) ∧
  ((∀ v l : Nat, (lane v l).mark = 0) → t.fab.loft.marks = [] ∧ t.fab.loft.flips = []) ∧
  (∀ a, a < 0x600000 → (a < dst ∨ dst + nvec * 32 * bits ≤ a) → t.loftByte n a = u.loftByte n a) ∧
  (∀ m a, m < 64 → m ≠ n → a < 0x600000 → t.loftByte m a = u.loftByte m a) ∧
  (∀ a, a ∉ [A.sparSat n, A.sparUfz n, A.sparPoi n] → t.reg a = u.reg a) ∧
  t.rf (A.sparSat n) 31 0 = min (u.rf (A.sparSat n) 31 0 + ((openLanes u n b nvec).filter (fun p => (lane p.1 p.2).sat)).length) (2 ^ 32 - 1) ∧
  t.rf (A.sparUfz n) 31 0 = min (u.rf (A.sparUfz n) 31 0 + ((openLanes u n b nvec).filter (fun p => (lane p.1 p.2).ufz)).length) (2 ^ 32 - 1) ∧
  t.rf (A.sparPoi n) 31 0 =
    min (u.rf (A.sparPoi n) 31 0 + ((openLanes u n b nvec).filter (fun p => decide ((lane p.1 p.2).poi ≠ 0))).length) (2 ^ 32 - 1) ∧
  t = { u.clockOf t with fab := { (u.clockOf t).fab with loft := t.fab.loft }, regs := t.regs, rcd := { u.rcd with entries := t.rcd.entries } }

end Sys2Proof.Machine

/-- The eleven binary vector words (R160 to R162, R250, R251): every open lane of the destination holds the operation of the lanes of the operands, which are loft elements (the pad outside a read bound), the low half of an
S register or the immediate; masked lanes keep what they held; the counters take what the lanes count; nothing else changes. Destination and sources are the same or have no byte in common, and nothing else is in flight. -/
def Sys2Proof.Stated.BinaryVectorWords : Prop :=
  ∀ (s : State) (i : Issue) (f : VecF),
    let u := s.atIssue i
    let n := i.spar.val
    let d := effAddr u n f.dst
    let x (ty : Ety) (v l : Nat) := vecEl u n f.bnd (effAddr u n f.src1) 16 ty v l
    let y (ty : Ety) (v l : Nat) := if f.s2k = 0 then vecEl u n f.bnd (effAddr u n f.src2) 16 ty v l
      else if f.s2k = 1 then ((u.sReg n f.src2).toNat % 65536, 0) else (f.src2 % 65536, 0)
    let z (v l : Nat) := vecEl u n f.bnd d 16 (.el .bf16) v l
    let bf (op : Nat → Nat → Step16) (v l : Nat) : Lane := laneBf (max (x (.el .bf16) v l).2 (y (.el .bf16) v l).2) (op (x (.el .bf16) v l).1 (y (.el .bf16) v l).1)
    let s16 (op : Int → Int → Int) (v l : Nat) : Lane :=
      laneS16 (max (x .s16 v l).2 (y .s16 v l).2) (op (toSigned 16 (x .s16 v l).1) (toSigned 16 (y .s16 v l).1))
    QuietBay u n →
    Apart d (f.nvec * 512) (effAddr u n f.src1) (f.nvec * 512) → (f.s2k = 0 → Apart d (f.nvec * 512) (effAddr u n f.src2) (f.nvec * 512)) →
    let is (op : Nat) (c : Instr) (lane : Nat → Nat → Lane) : Prop :=
      Issues s i (decBin op) (chkBin false) f → Leaves c s (fun t => VectorWrote u t n d 16 f.nvec f.bnd lane)
    is 0x50 (.vadd i) (bf bfAdd) ∧ is 0x51 (.vsub i) (bf bfSub) ∧ is 0x52 (.vmul i) (bf bfMul) ∧ is 0x54 (.vmax i) (bf (bfMaxMin true)) ∧
    is 0x55 (.vmin i) (bf (bfMaxMin false)) ∧ is 0x56 (.viadd i) (s16 (· + ·)) ∧ is 0x57 (.visub i) (s16 (· - ·)) ∧ is 0x58 (.vimul i) (s16 (· * ·)) ∧
    is 0x59 (.vimax i) (s16 max) ∧ is 0x5A (.vimin i) (s16 min) ∧
    (Issues s i (decBin 0x53) (chkBin true) f →
      Leaves (.vfma i) s (fun t => VectorWrote u t n d 16 f.nvec f.bnd (fun v l =>
        laneBf (max (max (x (.el .bf16) v l).2 (y (.el .bf16) v l).2) (z v l).2) (bfFma (x (.el .bf16) v l).1 (y (.el .bf16) v l).1 (z v l).1))))

/-- VCVT, VUN and VGEN write one lane per element as R252, R253 and R169 say, and VGEN advances GEN_IDX by 256 for each vector, masked or not (R168). VRED writes Sd alone: 0x7FC0 with one POI
where an unmasked lane is invalid, and the reduction of R163 of the unmasked lanes otherwise (R254). -/
def Sys2Proof.Stated.OtherVectorWords : Prop :=
  ∀ (s : State) (i : Issue) (f : VecF),
    let u := s.atIssue i
    let n := i.spar.val
    let d := effAddr u n f.dst
    let src := effAddr u n f.src1
    QuietBay u n →
    (Issues s i (decUn 0x5B 5) chkVcvt f →
      Apart d (f.nvec * 32 * (cvtShape f.func).2.1) src (f.nvec * 32 * (cvtShape f.func).1) → ((cvtShape f.func).1 ≠ (cvtShape f.func).2.1 → d ≠ src) →
      Leaves (.vcvt i) s (fun t => VectorWrote u t n d (cvtShape f.func).2.1 f.nvec f.bnd (fun v l =>
        let e := vecEl u n f.bnd src (cvtShape f.func).1 (cvtShape f.func).2.2 v l
        cvtLane f.func e.2 e.1))) ∧
    (Issues s i (decUn 0x5C 7) (chkUn 16 16) f → Apart d (f.nvec * 512) src (f.nvec * 512) →
      Leaves (.vun i) s (fun t => VectorWrote u t n d 16 f.nvec f.bnd (fun v l =>
        let e := vecEl u n f.bnd src 16 (.el .bf16) v l
        laneBf e.2 (vunFunc f.func e.1)))) ∧
    (Issues s i decVgen chkVgen f →
      Leaves (.vgen i) s (fun t => t.genIdx n = BitVec.ofNat 40 ((u.genIdx n).toNat + f.nvec * 256) ∧ (∀ m, m ≠ n → t.genIdx m = u.genIdx m) ∧
        VectorWrote u { t with fab := { t.fab with gen := u.fab.gen } } n d 16 f.nvec f.bnd (fun v l =>
          ⟨genLane (bitAt i.word 42) (genValue
            (BitVec.ofNat 64 ((u.sReg n (fld i.word 47 43)).toNat + (u.sReg n (fld i.word 47 43 + 1)).toNat * 2 ^ 32)) f.src1
            (((u.genIdx n).toNat + v * 256 + l) % 2 ^ 40)), 0, false, false, 0⟩))) ∧
    (Issues s i decVred chkVred f →
      let codes := (openLanes u n f.bnd f.nvec).map (fun p => (vecEl u n f.bnd src 16 (.el .bf16) p.1 p.2).1)
      let r := redResult f.func (if f.ers then toSigned 12 (u.sReg n (f.src2 % 32)).toNat else toSigned 12 f.src2) codes
      ((∃ c ∈ codes, codeVal .bf16 c = none) →
        Leaves (.vred i) s (fun t => t.sReg n (fld i.word 95 91) = 0x7FC0 ∧ t.rf (A.sparPoi n) 31 0 = min (u.rf (A.sparPoi n) 31 0 + 1) (2 ^ 32 - 1) ∧
          t.reg (A.sparSat n) = u.reg (A.sparSat n) ∧ (∀ m k, k < 32 → (m ≠ n ∨ k ≠ fld i.word 95 91) → t.sReg m k = u.sReg m k) ∧ t.fab.loft = u.fab.loft)) ∧
      ((∀ c ∈ codes, codeVal .bf16 c ≠ none) →
        Leaves (.vred i) s (fun t => t.sReg n (fld i.word 95 91) = BitVec.ofNat 32 r.1 ∧
          t.rf (A.sparSat n) 31 0 = min (u.rf (A.sparSat n) 31 0 + r.2.1) (2 ^ 32 - 1) ∧
          t.rf (A.sparUfz n) 31 0 = min (u.rf (A.sparUfz n) 31 0 + r.2.2) (2 ^ 32 - 1) ∧ t.reg (A.sparPoi n) = u.reg (A.sparPoi n) ∧
          (∀ m k, k < 32 → (m ≠ n ∨ k ≠ fld i.word 95 91) → t.sReg m k = u.sReg m k) ∧ t.fab.loft = u.fab.loft)))

/-- The vector words (R160 to R163, R168, R169, R250 to R254). -/
def Obligations.VectorWords : Prop := Sys2Proof.Stated.BinaryVectorWords ∧ Sys2Proof.Stated.OtherVectorWords


/-- The reductions of R163 on finite codes: an empty SUM, SUMSQ and ABSMAX give 0x0000 and an empty MAX gives 0xFF7F, and raise nothing; MAX gives a largest value and ABSMAX a largest magnitude. -/
def Sys2Proof.Stated.VectorReductions : Prop :=
  (∀ er, redResult 0 er [] = (0, 0, 0) ∧ redResult 1 er [] = (0, 0, 0) ∧ redResult 2 er [] = (0xFF7F, 0, 0) ∧ redResult 3 er [] = (0, 0, 0)) ∧
  (∀ er (l : List Nat), l ≠ [] → (∀ c ∈ l, c < 65536 ∧ codeVal .bf16 c ≠ none) →
    (∃ v, codeVal .bf16 (redResult 2 er l).1 = some v ∧ (∃ c ∈ l, codeVal .bf16 c = some v) ∧ ∀ c ∈ l, ∀ w, codeVal .bf16 c = some w → w ≤ v) ∧
    (∃ v, codeVal .bf16 (redResult 3 er l).1 = some v ∧ (∃ c ∈ l, ∃ w, codeVal .bf16 c = some w ∧ v = |w|) ∧
      ∀ c ∈ l, ∀ w, codeVal .bf16 c = some w → |w| ≤ v))

/-- Vector arithmetic and vector reductions (R159 to R165, R169, R251). -/
def Obligations.VectorValues : Prop := Sys2Proof.Stated.VectorArithmetic ∧ Sys2Proof.Stated.VectorReductions


/-! ### Tile matrix, rescale and quantise words -/

namespace Sys2Proof.Machine

/-- The product of k-step k in cell (r, c): A's element and scale with B's element and scale, each scale that of the k-step's group (R125 to R128). -/
def productOf (conv : Bool) (s : State) (n : Nat) (f : TileF) (r c k : Nat) : Opnd :=
  ((tileA conv s n f r k).mul (scaleOpnd f.sca (scaleCodes s n f.sca f.sa (k / f.grp)) r)).mul
    ((tileB conv s n f k c).mul (scaleOpnd f.scb (scaleCodes s n f.scb f.sb (k / f.grp)) c))

/-- From s to t, a tile matrix word left in every cell of its slot the sum of its placed products, modulo 2^96 in a full slot and 2^48 in a compact one, upon nothing where it starts and upon what the cell held where it
continues (R129 to R131); a cell is poisoned exactly where a product is, or was where it continues (R138, R84); a start wrote the records of the slot alone, with its view and anchor (R80, R132), and a continuation none; no entry of another slot
or spar, no byte of a bay and no register of a spar changed, and only SAT and CRUC_PERR among the register words. -/
abbrev TileWrote (conv : Bool) (s t : State) (n : Nat) (f : TileF) : Prop :=
  (∀ r c : Nat, r < 64 → c < 64 →
    (t.entry n f.compact f.slot r c).bits = lowBits (viewBits f.compact)
      ((if f.start then 0 else ((s.entry n f.compact f.slot r c).bits : Int)) +
        ((List.range f.ksteps).map (fun k => (place (tileAnchor s n f) (windowMax f.compact) (productOf conv s n f r c k)).1)).sum) ∧
    ((t.entry n f.compact f.slot r c).poison = 0 ↔ (∀ k < f.ksteps, ∃ m e, productOf conv s n f r c k = .val m e) ∧
      (f.start = true ∨ ((s.entry n f.compact f.slot r c).poison = 0 ∧ (s.entry n f.compact f.slot r c).perr = false)))) ∧
  (∀ m h r c, m < 64 → h < 32 → r < 64 → c < 64 → ¬(m = n ∧ h ∈ slotRecs f.compact f.slot) → t.half m h r c = s.half m h r c) ∧
  (∀ m h, h < 32 → t.descr m h =
    if f.start = true ∧ m = n ∧ h ∈ slotRecs f.compact f.slot then ⟨f.compact, tileAnchor s n f⟩ else s.descr m h) ∧
  (∀ a, a ∉ [A.sparSat n, A.sparUfz n, A.sparPoi n, A.sparCrucPerr n] → t.reg a = s.reg a) ∧
  t.rf (A.sparPoi n) 31 0 = s.rf (A.sparPoi n) 31 0 ∧ t.rf (A.sparUfz n) 31 0 = s.rf (A.sparUfz n) 31 0 ∧
  t = { s.clockOf t with fab := { (s.clockOf t).fab with crucible := t.fab.crucible, descr := t.fab.descr }, regs := t.regs }

end Sys2Proof.Machine

/-- MMA and CONV (R128 to R132, R137, R138, R241 to R246), in a bay without marks or flipped bits, with nothing else in flight. -/
def Obligations.TileMatrixWords : Prop :=
  ∀ (s : State) (i : Issue) (f : TileF),
    let u := s.atIssue i
    QuietBay u i.spar.val →
    (Issues s i (decTile false) (chkTile false) f → Leaves (.mma i) s (fun t => TileWrote false u t i.spar.val f)) ∧
    (Issues s i (decTile true) (chkTile true) f → Leaves (.conv i) s (fun t => TileWrote true u t i.spar.val f))

/-- TLOAD (R248): element (r, c) of the source tile stands as element r of the packed vector c, its code unchanged and no counter raised; an element outside a read bound is the pad of its size
(a free value where the word gives it no format, log 8); a masked one is not written; no byte outside the destination changes. -/
def Sys2Proof.Stated.TransposeWord : Prop :=
  ∀ (s : State) (i : Issue) (f : TloadF),
    let u := s.atIssue i
    let n := i.spar.val
    let d := effAddr u n f.dst
    QuietBay u n → Issues s i decTload chkTload f →
    Leaves (.tload i) s (fun t => t.regs = u.regs ∧
      (∀ r c : Nat, r < 64 → c < 64 → elemAt t n (d + c * 8 * f.bits) f.bits r =
        if f.bnd.writes u n (f.bnd.oR + (r : Int)) (f.bnd.oC + (c : Int)) then
          (if f.bnd.reads u n (f.bnd.oR + (r : Int)) (f.bnd.oC + (c : Int)) then elemAt u n (effAddr u n f.src + r * f.pitch) f.bits c
            else (tloadPad u n f, 0))
        else elemAt u n (d + c * 8 * f.bits) f.bits r) ∧
      (∀ a, a < 0x600000 → (a < d ∨ d + 512 * f.bits ≤ a) → t.loftByte n a = u.loftByte n a) ∧
      (∀ m a, m < 64 → m ≠ n → a < 0x600000 → t.loftByte m a = u.loftByte m a))

/-- RESC (R133, R139, R142, R143, R256, R257): each open element of a row holds the one conversion of its entry's clamped value times the multiplier over 2^s, with the slot's anchor for a floating format; a poisoned entry gives the poison code, and a
poisoned codeword for A4 and A8. SAT counts a clamped read and a saturated conversion. No entry of the crucible changes, and no byte outside the destination. -/
def Sys2Proof.Stated.RescaleWord : Prop :=
  ∀ (s : State) (i : Issue) (f : RescF),
    let u := s.atIssue i
    let n := i.spar.val
    let d := effAddr u n f.dst
    let anchor := (u.descr n ((slotRecs f.compact f.slot).headD 0)).anchor
    let e (k j : Nat) := readEntry u n f.compact f.slot (f.row0 + k) j
    let q (k j : Nat) := rescValue f (e k j).v (rescMul u n f (rescVector u n f) j).1 anchor
    let opens (k j : Nat) : Bool := f.bnd.writes u n (f.bnd.oR + ((f.row0 + k : Nat) : Int)) (f.bnd.oC + (j : Int))
    let cells := (List.range f.nrows).flatMap (fun k => ((List.range 64).filter (opens k)).map (fun j => (k, j)))
    QuietBay u n → Issues s i decResc chkResc f →
    Leaves (.resc i) s (fun t => t.fab.crucible = u.fab.crucible ∧ t.fab.descr = u.fab.descr ∧ t.fab.sreg = u.fab.sreg ∧
      (∀ k j : Nat, k < f.nrows → j < 64 → opens k j = true →
        ((e k j).poison = 0 → (elemAt t n (d + k * f.ofmt.vec) f.ofmt.bits j).1 = (convert f.ofmt (q k j).1 (q k j).2).code) ∧
        ((e k j).poison ≠ 0 → (elemAt t n (d + k * f.ofmt.vec) f.ofmt.bits j).1 = f.ofmt.poison ∧
          (f.ofmt.isInt = true → (elemAt t n (d + k * f.ofmt.vec) f.ofmt.bits j).2 ≠ 0))) ∧
      (∀ k j : Nat, k < f.nrows → j < 64 → opens k j = false →
        (elemAt t n (d + k * f.ofmt.vec) f.ofmt.bits j).1 = (elemAt u n (d + k * f.ofmt.vec) f.ofmt.bits j).1) ∧
      (∀ a, a < 0x600000 → (a < d ∨ d + f.nrows * f.ofmt.vec ≤ a) → t.loftByte n a = u.loftByte n a) ∧
      (∀ m a, m < 64 → m ≠ n → a < 0x600000 → t.loftByte m a = u.loftByte m a) ∧
      t.rf (A.sparSat n) 31 0 = min (u.rf (A.sparSat n) 31 0 + ((cells.filter (fun p => decide ((e p.1 p.2).poison = 0))).map (fun p =>
        b2n (e p.1 p.2).clamped + b2n (convert f.ofmt (q p.1 p.2).1 (q p.1 p.2).2).sat)).sum) (2 ^ 32 - 1) ∧
      t.rf (A.sparPoi n) 31 0 = min (u.rf (A.sparPoi n) 31 0 + (cells.filter (fun p => decide ((e p.1 p.2).poison ≠ 0))).length) (2 ^ 32 - 1))

/-- QUANT without the burnisher (R144, R145, R258, R259): each open element is the one conversion of x / c, the exact quotient by the scale of its group, and an invalid input, an invalid scale or a scale of ±0 gives the poison code. With the
burnisher (R146) and clean inputs, a block of elements is first multiplied by the Sylvester matrix: the numerator is the exact signed sum over the block. The scales are those that its scale cycles read, before any write of its own; no vector is
written before the word has read it. -/
def Sys2Proof.Stated.QuantiseWord : Prop :=
  ∀ (s : State) (i : Issue) (f : QuantF),
    let u := s.atIssue i
    let n := i.spar.val
    let d := effAddr u n f.dst
    let src := effAddr u n f.src
    let buf := (List.range (quantScaleSecs f)).flatMap (quantSector u n f)
    QuietBay u n → Issues s i decQuant chkQuant f → d ≤ src ∨ src + f.nvec * 512 ≤ d →
    Leaves (.quant i) s (fun t =>
      (∀ v l : Nat, v < f.nvec → l < 256 → f.bnd.writes u n (f.bnd.oR + (v : Int)) (f.bnd.oC + (l : Int)) = true →
        let code := (elemAt t n (d + v * 32 * f.ofmt.bits) f.ofmt.bits l).1
        let x := codeVal .bf16 (quantIn u n f v l).1
        ∀ sm se, quantScale f buf (v * 256 + l) = .val sm se →
          (f.burn = 0 → ∀ a, x = some a → ∃ c, c.code = code ∧ Nearest f.ofmt (a / ((sm : ℚ) * (2 : ℚ) ^ se)) c) ∧
          (f.burn = 0 → x = none → code = f.ofmt.poison) ∧
          (f.burn ≠ 0 → u.bitClass = 2 → ∀ xs : List ℚ, xs.length = f.burn →
            (∀ j (h : j < xs.length), codeVal .bf16 (quantIn u n f v (l / f.burn * f.burn + j)).1 = some xs[j]) →
            ∃ c, c.code = code ∧ Nearest f.ofmt ((xs.zipIdx.map (fun p =>
              if popCount 8 ((l % f.burn) &&& p.2) % 2 = 1 then -p.1 else p.1)).sum / ((sm : ℚ) * (2 : ℚ) ^ se)) c)) ∧
      (∀ v l p : Nat, v < f.nvec → l < 256 → f.bnd.writes u n (f.bnd.oR + (v : Int)) (f.bnd.oC + (l : Int)) = true →
        quantScale f buf (v * 256 + l) = .bad p → (elemAt t n (d + v * 32 * f.ofmt.bits) f.ofmt.bits l).1 = f.ofmt.poison) ∧
      (∀ v l : Nat, v < f.nvec → l < 256 → f.bnd.writes u n (f.bnd.oR + (v : Int)) (f.bnd.oC + (l : Int)) = false →
        (elemAt t n (d + v * 32 * f.ofmt.bits) f.ofmt.bits l).1 = (elemAt u n (d + v * 32 * f.ofmt.bits) f.ofmt.bits l).1) ∧
      (∀ a, a < 0x600000 → (a < d ∨ d + f.nvec * 32 * f.ofmt.bits ≤ a) → t.loftByte n a = u.loftByte n a) ∧
      (∀ m a, m < 64 → m ≠ n → a < 0x600000 → t.loftByte m a = u.loftByte m a) ∧
      (∀ a, a ∉ [A.sparSat n, A.sparUfz n, A.sparPoi n] → t.reg a = u.reg a))

/-- The words that move and convert tiles (R142 to R146, R248, R256 to R259). -/
def Obligations.TileMoves : Prop := Sys2Proof.Stated.TransposeWord ∧ Sys2Proof.Stated.RescaleWord ∧ Sys2Proof.Stated.QuantiseWord


/-! ### Move words -/

namespace Sys2Proof.Machine

/-- No alias lies over HBM. -/
abbrev PlainHbm (s : State) : Prop := ∀ a, s.aliasPair 0 a = none ∧ s.fitAlias 0 a = none

/-- Outside bytes [a, a + len) of the bays of some spars, every byte of every bay reads as before. -/
abbrev OtherBytes (s t : State) (spars : List Nat) (a len : Nat) : Prop :=
  ∀ m x, m < 64 → x < 0x600000 → ¬(m ∈ spars ∧ a ≤ x ∧ x < a + len) → t.loftByte m x = s.loftByte m x

/-- From u to t nothing of the part changed but bytes of the bays, the clock and the entries of the line signature. -/
abbrev OnlyBays (u t : State) : Prop :=
  t = { u.clockOf t with fab := { (u.clockOf t).fab with loft := t.fab.loft }, rcd := { u.rcd with entries := t.rcd.entries } }

end Sys2Proof.Machine

/-- LDH and STH (R262, R506): NSEC sectors are moved between HBM and the spar's bay, byte for byte, a codeword delivered poisoned arriving as poisoned, and no other byte of the destination memory changes. A passage takes none of the open
stack window for it (R513). -/
def Sys2Proof.Stated.LoadAndStoreWords : Prop :=
  ∀ (s : State) (i : Issue) (f : MoveF),
    let u := s.atIssue i
    let n := i.spar.val
    let l := effAddr u n f.x
    let h := effAddr u n f.y - 2 ^ 39
    QuietBay u n → PlainHbm u →
    (Issues s i (decMove 0x80) (chkHbm true) f →
      Leaves (.ldh i) s (fun t => t.hbm = u.hbm ∧ OtherBytes u t [n] l (64 * f.nsec) ∧
        (∀ b, b < 64 * f.nsec → t.loftByte n (l + b) = u.hbmByte false (h + b)) ∧
        ((u.slot i.chan.val).job = none → t.slk = u.slk) ∧
        (u.hbm.flips = [] → u.hbm.marks = [] → OnlyBays { u with slk := t.slk } t))) ∧
    (Issues s i (decMove 0x81) (chkHbm false) f → u.hbm.marks = [] → u.hbm.flips = [] →
      Leaves (.sth i) s (fun t => t = { u.clockOf t with hbm := t.hbm, slk := t.slk } ∧ ((u.slot i.chan.val).job = none → t.slk = u.slk) ∧
        (∀ b, b < 64 * f.nsec → t.hbmByte false (h + b) = u.loftByte n (l + b)) ∧
        (∀ a, (a < h ∨ h + 64 * f.nsec ≤ a) → t.hbmByte false a = u.hbmByte false a)))

/-- RIG, LSC and IDXR (R102, R103, R264 to R266): the bytes of the source stand at the destination of every present receiver, of the spar itself, or in the order that the index entries give; no other byte of any bay changes, and nothing else of the part but the line
signature's entries. Source and destination are the same or have no byte in common. -/
def Obligations.CopyWords : Prop :=
  ∀ (s : State) (i : Issue),
    let u := s.atIssue i
    let n := i.spar.val
    (∀ m, m < 64 → QuietBay u m) →
    (∀ f, Issues s i decRig chkRig f → Apart (effAddr u n f.src) (256 * f.nchunk) (effAddr u n f.dst) (256 * f.nchunk) →
      Leaves (.rig i) s (fun t => OnlyBays u t ∧ OtherBytes u t (rigDests u f) (effAddr u n f.dst) (256 * f.nchunk) ∧
        ∀ d ∈ rigDests u f, ∀ b, b < 256 * f.nchunk → t.loftByte d (effAddr u n f.dst + b) = u.loftByte n (effAddr u n f.src + b))) ∧
    (∀ f, Issues s i (decMove 0x83) chkLsc f → Apart (effAddr u n f.y) (64 * f.nsec) (effAddr u n f.x) (64 * f.nsec) →
      Leaves (.lsc i) s (fun t => OnlyBays u t ∧ OtherBytes u t [n] (effAddr u n f.x) (64 * f.nsec) ∧
        ∀ b, b < 64 * f.nsec → t.loftByte n (effAddr u n f.x + b) = u.loftByte n (effAddr u n f.y + b))) ∧
    (∀ f, Issues s i decIdxr chkIdxr f →
      let dst := effAddr u n f.1
      let idx := effAddr u n f.2.1
      let entry (g e : Nat) := (u.loftLe n (idx + 16 * g + 2 * e) 2).1
      let sector (g e : Nat) := entry g e / 2 ^ 11 % 8 * 2 ^ 20 + entry g e % 2 ^ 11 * 512 + e * 64
      (∀ g e, g < f.2.2 → e < 8 → sector g e + 64 ≤ dst ∨ dst + 512 * f.2.2 ≤ sector g e) → (idx + 16 * f.2.2 ≤ dst ∨ dst + 512 * f.2.2 ≤ idx) →
      Leaves (.idxr i) s (fun t => OnlyBays u t ∧ OtherBytes u t [n] dst (512 * f.2.2) ∧
        ∀ g e b, g < f.2.2 → e < 8 → b < 64 → t.loftByte n (dst + 512 * g + 64 * e + b) = u.loftByte n (sector g e + b)))

/-- The addresses a word may form (R71, R72, R96, R266): an LDH, STH, RIG, LSC or IDXR that decodes but forms an address outside the ranges of R71, or names an absent destination, has no effect but event 0x0310; one
that touches a line store row against its role has none but event 0x0312. -/
def Sys2Proof.Stated.AddressFaults : Prop :=
  ∀ (s : State) (i : Issue) (e : IssueFault),
    let u := s.atIssue i
    let v := u.held (u.hold i)
    let ends (c : Instr) : Prop := exec c s = .next (u.postAt [(u.slot i.chan.val).port] (match e with | .address => 0x0310 | .role => 0x0312) i.c.toNat
      [(6, u.rast.frame.toNat), (2, u.rast.line), (2, i.c.toNat), (1, i.spar.val)])
    Fetches u i →
    (∀ f, decMove 0x80 u i = some f → chkHbm true v i f = some e → ends (.ldh i)) ∧
    (∀ f, decMove 0x81 u i = some f → chkHbm false v i f = some e → ends (.sth i)) ∧
    (∀ f, decRig u i = some f → chkRig v i f = some e → ends (.rig i)) ∧
    (∀ f, decMove 0x83 u i = some f → chkLsc v i f = some e → ends (.lsc i)) ∧
    (∀ f, decIdxr u i = some f → chkIdxr v i f = some e → ends (.idxr i)) ∧
    (∀ f, decMove 0x80 u i = some f → 0x600000 < effAddr u i.spar.val f.x + 64 * f.nsec → chkHbm true v i f = some .address) ∧
    (∀ f, decMove 0x80 u i = some f → effAddr u i.spar.val f.y < 2 ^ 39 → chkHbm true v i f = some .address) ∧
    (∀ f, decRig u i = some f → f.dmode = 0 → u.absent f.dspar = true → chkRig v i f = some .address)

/-- Loads and stores of sectors, and the addresses that move words may form (R71, R72, R96, R262, R266). -/
def Obligations.LoadsAndStores : Prop := Sys2Proof.Stated.LoadAndStoreWords ∧ Sys2Proof.Stated.AddressFaults


/-! ### Planisher words -/

namespace Sys2Proof.Machine

/-- Two byte ranges have no codeword in common. -/
abbrev CodewordsApart (a n b m : Nat) : Prop := (a + n - 1) / 8 < b / 8 ∨ (b + m - 1) / 8 < a / 8

/-- The little-endian number of the bytes from an address of a bay. -/
def State.bayNum (s : State) (n a k : Nat) : Nat := fromLe ((List.range k).map (fun j => (s.loftByte n (a + j)).1))

end Sys2Proof.Machine

/-- PFIRST and PLAST with a valid parameter block and valid inputs (R287, R288, R290, R291): each unmasked output element is the one conversion of (BIAS + Σ input × weight) × MULT / 2^SHIFT over the kernel, an input outside a read bound being the pad; no byte outside
the output elements changes. The outputs share no codeword with the parameter block and the inputs. -/
def Sys2Proof.Stated.PlanisherConvolutions : Prop :=
  ∀ (s : State) (i : Issue),
    let u := s.atIssue i
    let n := i.spar.val
    QuietBay u n →
    (∀ f, Issues s i decPfirst chkPfirst f →
      let e := f.f.ea u n
      let h := u.bayNum n e.2.2 64
      pfirstOk f (h, 0) = true →
      let live (x : Nat) : Bool := f.f.bnd.writes u n f.f.bnd.oR (f.f.bnd.oC + (x : Int))
      let at' (x : Nat) (k : Nat × Nat × Nat) : Nat := (pfirstAddr f e.2.1 h k.1 k.2.1 k.2.2 x).toNat
      let got (x : Nat) (k : Nat × Nat × Nat) : Bool := planFetch u n f.f.bnd f.ks k.1 k.2.1 x
      let tap (x : Nat) (k : Nat × Nat × Nat) : Nat := if got x k then (elemAt u n (at' x k) f.ifmt.bits 0).1 else padCode u n f.f.bnd f.ifmt
      let q (x : Nat) (k : Nat × Nat × Nat) : Int := (pfirstIn f.ifmt (hdr h 9 1) (tap x k, 0)).1
      let w (j : Nat) (k : Nat × Nat × Nat) : Int := toSigned 8 (u.bayNum n (e.2.2 + 0x240 + ((k.1 * f.ks + k.2.1) * f.cin + k.2.2) * 64 + j) 1)
      let acc (x j : Nat) : Int := toSigned 32 (u.bayNum n (e.2.2 + 0x40 + 4 * j) 4) + ((kernel f.ks f.cin).map (fun k => q x k * w j k)).sum
      let ofmt : Fmt := if hdr h 8 1 = 1 then .a8 else if hdr h 8 1 = 2 then .e4m3 else .e5m2
      (∀ x, x < f.width → live x = true → CodewordsApart (e.1 + x * f.cout) f.cout e.2.2 (0x240 + f.ks * f.ks * f.cin * 64) ∧
        ∀ y k, y < f.width → live y = true → k ∈ kernel f.ks f.cin → got y k = true → CodewordsApart (e.1 + x * f.cout) f.cout (at' y k) (f.ifmt.bits / 8)) →
      Leaves (.pfirst i) s (fun t =>
        (∀ x j, x < f.width → j < f.cout → live x = true → (∀ k ∈ kernel f.ks f.cin, f.ifmt = .el .bf16 → codeVal .bf16 (tap x k) ≠ none) →
          t.bayNum n (e.1 + x * f.cout + j) 1 =
            (convert ofmt (acc x j * toSigned 32 (u.bayNum n (e.2.2 + 0x140 + 4 * j) 4)) (2 ^ hdr h 10 1)).code) ∧
        (∀ a, a < 0x600000 → (∀ x, x < f.width → live x = true → a < e.1 + x * f.cout ∨ e.1 + (x + 1) * f.cout ≤ a) → (t.loftByte n a).1 = (u.loftByte n a).1))) ∧
    (∀ f, Issues s i decPlast chkPlast f →
      let e := f.f.ea u n
      let h := u.bayNum n e.2.2 64
      plastOk f (h, 0) = true → (f.width * f.ofmt.bytes ≤ hdr h 8 4 ∨ f.cout = 1) →
      let live (x : Nat) : Bool := f.f.bnd.writes u n f.f.bnd.oR (f.f.bnd.oC + (x : Int))
      let at' (x : Nat) (k : Nat × Nat × Nat) : Nat := (plastAddr f e.2.1 h k.1 k.2.1 k.2.2 x).toNat
      let got (x : Nat) (k : Nat × Nat × Nat) : Bool := planFetch u n f.f.bnd f.ks k.1 k.2.1 x
      let tap (x : Nat) (k : Nat × Nat × Nat) : Nat := if got x k then (elemAt u n (at' x k) 8 0).1 else padCode u n f.f.bnd (.el .a8)
      let w (j : Nat) (k : Nat × Nat × Nat) : Int := toSigned 8 (u.bayNum n (e.2.2 + 0x40 + ((k.1 * f.ks + k.2.1) * f.cin + k.2.2) * 4 + j) 1)
      let acc (x j : Nat) : Int := toSigned 32 (u.bayNum n (e.2.2 + 0x10 + 4 * j) 4) + ((kernel f.ks f.cin).map (fun k => toSigned 8 (tap x k) * w j k)).sum
      let r (x j : Nat) : Int := acc x j * toSigned 32 (u.bayNum n (e.2.2 + 0x20 + 4 * j) 4)
      let top : Int := if f.ofmt = .u8 then 255 else 2 ^ hdr h 13 1 - 1
      let out (x j : Nat) : Nat := e.1 + j * hdr h 8 4 + x * f.ofmt.bytes
      (∀ x j, x < f.width → j < f.cout → live x = true → CodewordsApart (out x j) f.ofmt.bytes e.2.2 (0x40 + f.ks * f.ks * f.cin * 4) ∧
        ∀ y k, y < f.width → live y = true → k ∈ kernel f.ks f.cin → got y k = true → CodewordsApart (out x j) f.ofmt.bytes (at' y k) 1) →
      Leaves (.plast i) s (fun t =>
        (∀ x j, x < f.width → j < f.cout → live x = true →
          (t.bayNum n (out x j) f.ofmt.bytes : Int) =
            if f.ofmt = .el .bf16 then ((convert .bf16 (r x j) (2 ^ hdr h 12 1)).code : Int)
            else max 0 (min top (rneDiv (r x j) (2 ^ hdr h 12 1)))) ∧
        (∀ a, a < 0x600000 → (∀ x j, x < f.width → j < f.cout → live x = true → a < out x j ∨ out x j + f.ofmt.bytes ≤ a) →
          (t.loftByte n a).1 = (u.loftByte n a).1)))

/-- PSHUF with a valid parameter block (R293): element x of input plane a·r + b stands at pixel r·x + b of output row a, its code unchanged, where the output rows lie apart from each other and from the input planes; no other byte changes and no counter is raised. PCROP (R295 to R297), where the output elements lie apart
from each other, from the box list and from the taps: each unmasked output element whose four taps are valid is the one conversion of the taps weighted by the 8-bit fractions, over 2^16; a tap outside a read bound, the declared ranges or its row's span is the pad. -/
def Sys2Proof.Stated.ShuffleAndCropWords : Prop :=
  ∀ (s : State) (i : Issue),
    let u := s.atIssue i
    let n := i.spar.val
    QuietBay u n →
    (∀ f, Issues s i decPshuf chkPshuf f →
      let e := f.f.ea u n
      let h := u.bayNum n e.2.2 64
      let len := 64 * f.nsec / (f.r * f.r)
      let z := hdr h 8 1
      pshufOk (h, 0) = true → f.r * len ≤ hdr h 4 4 →
      (∀ a p, a < f.r → p < f.r * f.r → e.1 + a * hdr h 4 4 + f.r * len ≤ e.2.1 + p * hdr h 0 4 ∨ e.2.1 + p * hdr h 0 4 + len ≤ e.1 + a * hdr h 4 4) →
      Leaves (.pshuf i) s (fun t => t.regs = u.regs ∧
        (∀ a b x k, a < f.r → b < f.r → x * z + k < len → k < z → (f.r * x + b) * z + k < f.r * len →
          (t.loftByte n (e.1 + a * hdr h 4 4 + (f.r * x + b) * z + k)).1 = (u.loftByte n (e.2.1 + (a * f.r + b) * hdr h 0 4 + x * z + k)).1) ∧
        (∀ y, y < 0x600000 → (∀ a, a < f.r → y < e.1 + a * hdr h 4 4 ∨ e.1 + a * hdr h 4 4 + f.r * len ≤ y) → (t.loftByte n y).1 = (u.loftByte n y).1))) ∧
    (∀ f, Issues s i decPcrop chkPcrop f →
      let e := f.f.ea u n
      let h := u.bayNum n e.2.2 32
      let rs := (u.hold i).ranges
      let out (b y x : Nat) : Nat := cropOut f e.1 h b y x 0
      let ty : Ety := pcropTy f h
      let live (b x : Nat) : Bool := f.f.bnd.writes u n (f.f.bnd.oR + (b : Int)) (f.f.bnd.oC + (x : Int))
      let read (b : Nat) (y x : Int) (c : Nat) : Bool := decide (cropTap u n rs f e.2.1 h (boxAt u n e.2.2 b) y x c = .fetched)
      let code (b : Nat) (y x : Int) (c : Nat) : Nat := if read b y x c then
        (elemAt u n (cropAddr f e.2.1 h y x c).toNat (8 * f.e) 0).1 else padCode u n f.f.bnd ty
      let val (v : Nat) : Option ℚ := match ty with | .el k => codeVal k v | _ => some (v : ℚ)
      let within (b y x : Nat) : Prop := b < f.nbox ∧ y < f.oh ∧ x < f.ow
      pcropOk f (h, 0) = true →
      (∀ b y x b' y' x', within b y x → within b' y' x' → (b, y, x) ≠ (b', y', x') → out b y x + f.ch * f.e ≤ out b' y' x' ∨ out b' y' x' + f.ch * f.e ≤ out b y x) →
      (∀ b y x, within b y x → live b x = true → CodewordsApart (out b y x) (f.ch * f.e) e.2.2 (0x20 + 16 * f.nbox) ∧
        ∀ b' y' x' c, within b' y' x' → live b' x' = true → c < f.ch → ∀ k ∈ cropTaps f (boxAt u n e.2.2 b') y' x', read b' k.1 k.2.1 c = true →
          CodewordsApart (out b y x) (f.ch * f.e) (cropAddr f e.2.1 h k.1 k.2.1 c).toNat f.e) →
      Leaves (.pcrop i) s (fun t =>
        (∀ b y x, within b y x → live b x = true → ∀ c, c < f.ch → ∀ vs : List ℚ,
          (cropTaps f (boxAt u n e.2.2 b) y x).map (fun k => val (code b k.1 k.2.1 c)) = vs.map some →
          let acc := ((cropTaps f (boxAt u n e.2.2 b) y x).zip vs).map (fun k => (k.1.2.2 : ℚ) * k.2) |>.sum
          let r := t.bayNum n (out b y x + c * f.e) f.e
          match ty with
          | .el k => ∃ o, o.code = r ∧ Nearest k (acc / 2 ^ 16) o
          | _ => ∃ m : Int, (m : ℚ) = acc ∧ (r : Int) = max 0 (min 255 (rneDiv m (2 ^ 16)))) ∧
        (∀ a, a < 0x600000 → (∀ b y x, within b y x → live b x = true → a < out b y x ∨ out b y x + f.ch * f.e ≤ a) → (t.loftByte n a).1 = (u.loftByte n a).1)))

/-- PARGMAX with a valid parameter block (R270, R298): at every unmasked pixel whose inputs are all valid, DST + 2x holds the lowest index among the channels of largest value; a pixel with an invalid input holds 0xFFFF; no other byte changes. The outputs share no
codeword with the inputs. -/
def Sys2Proof.Stated.ArgmaxWord : Prop :=
  ∀ (s : State) (i : Issue) (f : PargF),
    let u := s.atIssue i
    let n := i.spar.val
    let e := f.f.ea u n
    let h := u.bayNum n e.2.2 64
    let live (x : Nat) : Bool := f.f.bnd.writes u n f.f.bnd.oR (f.f.bnd.oC + (x : Int))
    let got (x : Nat) : Bool := f.f.bnd.reads u n f.f.bnd.oR (f.f.bnd.oC + (x : Int))
    let code (x c : Nat) : Nat := if got x then (elemAt u n (pargAddr f e.2.1 h c x) (pargTy f h).bits 0).1 else padCode u n f.f.bnd (pargTy f h)
    let val (x c : Nat) : Option ℚ := match pargTy f h with | .el k => codeVal k (code x c) | _ => some (code x c : ℚ)
    QuietBay u n → Issues s i decParg chkParg f → pargOk f (h, 0) = true →
    (∀ x y c, x < f.width → live x = true → y < f.width → live y = true → got y = true → c < f.ch →
      CodewordsApart (e.1 + 2 * x) 2 (pargAddr f e.2.1 h c y) ((pargTy f h).bits / 8)) →
    Leaves (.pargmax i) s (fun t =>
      (∀ x, x < f.width → live x = true → (∀ c, c < f.ch → val x c ≠ none) →
        ∃ m v, m < f.ch ∧ t.bayNum n (e.1 + 2 * x) 2 = m ∧ val x m = some v ∧
          ∀ c w, c < f.ch → val x c = some w → w ≤ v ∧ (c < m → w < v)) ∧
      (∀ x c, x < f.width → live x = true → c < f.ch → val x c = none → t.bayNum n (e.1 + 2 * x) 2 = 0xFFFF) ∧
      (∀ a, a < 0x600000 → (∀ x, x < f.width → live x = true → a < e.1 + 2 * x ∨ e.1 + 2 * x + 2 ≤ a) → (t.loftByte n a).1 = (u.loftByte n a).1))

/-- The planisher's words (R270, R287 to R298). -/
def Obligations.ImageWords : Prop := Sys2Proof.Stated.PlanisherConvolutions ∧ Sys2Proof.Stated.ShuffleAndCropWords ∧ Sys2Proof.Stated.ArgmaxWord


/-! ### Raster time, the frame boundary and the governor -/

namespace Sys2Proof.Machine

/-- The halyard runs: it is not stopped by a pause, the last line of the frame has not ended, and nothing holds the fabric in reset. -/
abbrev Runs (s : State) : Prop := s.rast.paused = false ∧ s.rast.due = false ∧ s.halted = false

/-- The raster time at which the line in progress ends (R364, R366). -/
def endTime (s : State) : BitVec 64 := s.rast.time + BitVec.ofNat 64 ((lineLen s).1 * ruPerCk s.rast.reef)

/-- Nothing that is in flight comes about before the line in progress has ended: what is left of it comes about in the lines to come. -/
abbrev CalmLine (s : State) : Prop := ∀ x ∈ s.fab.flight, (lineLen s).1 < x.c ∨ (x.c = (lineLen s).1 ∧ 0 < x.phase)

/-- The line in progress ends with no other effect than its own: no lock-step pair misses its lead's choice with it (R349), and no link wakes (R415). -/
abbrev PlainEnd (s : State) : Prop := s.rast.line = cutLine s → lockFollower s = false ∧ s.out.link ≠ .off

/-- An update point of the raster with a source in use, outside follow mode, with no watch on the primary source: what R367 and R375 speak of. -/
abbrev Steering (s : State) : Prop :=
  s.halted = false ∧ s.rast.paused = false ∧ s.rf A.rastSyncStat 6 4 < 4 ∧ s.adaptMode ≠ 2 ∧ s.rf A.rastSyncCtl 7 7 = 0

/-- The reference expected every DIV frames falls in this frame (R369). -/
abbrev ReferenceDue (s : State) : Prop := s.rast.sync.phased = false ∨ s.syncDiv ≤ s.rast.sync.age + 1

end Sys2Proof.Machine

/-- Line lengths (R25, R366, R377): a line lasts from P_min to P_max cycles at its reef, the remainder that it carries is less than a cycle, and where
neither limit holds the line back nothing of n_est + c + frac is lost. The extension lines of a jump last P_max each and keep the remainder. -/
def Sys2Proof.Stated.LineLengths : Prop :=
  ∀ s : State,
    let k := ruPerCk s.rast.reef * 65536
    let lo := pMin s.rast.linePeriod s.rast.reef
    let hi := pMax s.rast.tNum s.rast.tDen s.rast.reef
    let x : Int := s.rast.sync.frac + s.rast.sync.nEst + s.rast.sync.c
    (¬(s.rast.sync.jump = true ∧ s.inExt = true) → lo ≤ hi →
      lo ≤ (lineLen s).1 ∧ (lineLen s).1 ≤ hi ∧ (lineLen s).2 < k ∧
      ((lo * k : Nat) ≤ x → x < ((hi + 1) * k : Nat) → (((lineLen s).1 * k + (lineLen s).2 : Nat) : Int) = x)) ∧
    (s.rast.sync.jump = true → s.inExt = true → lineLen s = (hi, s.rast.sync.frac))

/-- A halyard tick (R19, R20, R21, R207, R364, R366): raster time and the time of day advance by the line that ends, the line number by one, the halyard delivers the word of the new line's tick, the signatures of the line are
formed, segments of the new line leave the line store and those of the next complete line pass to scan-out, work in flight comes nearer by the line, and no register, memory or spar register changes. The tick after the last
line is the frame boundary's: the raster only comes to stand at the end of the frame. -/
def Sys2Proof.Stated.TickAdvances : Prop :=
  (∀ s : State, Runs s → CalmLine s → PlainEnd s → frameEnds s (endTime s).toNat = false →
    let len := (lineLen s).1
    ∃ t, exec .halyardTick s = .next t ∧
      t = { s with rast := t.rast, tod := t.tod, rcd := (closeLine len s).rcd, out := t.out, slk := t.slk, wire := [],
                   jobs := s.jobs.map (fun e => (e.1, if e.2.running then { e.2 with start := e.2.start - len } else e.2)),
                   fab := { s.fab with segs := t.fab.segs, ended := t.fab.ended, flight := t.fab.flight, cyc := 0, fresh := [] } } ∧
      t.rast = { s.rast with line := s.rast.line + 1, time := endTime s, tick := t.rast.tick, sync := { s.rast.sync with frac := (lineLen s).2 } } ∧
      (fld t.rast.tick 12 0 = t.rast.line % 2 ^ 13 ∧ fld t.rast.tick 28 13 = s.rast.frame.toNat % 2 ^ 16 ∧ fld t.rast.tick 29 29 = 0 ∧
        fld t.rast.tick 30 30 = b2n t.slackLine ∧ fld t.rast.tick 32 31 = s.rast.reef % 4 ∧ fld t.rast.tick 33 33 = b2n s.rast.rpt ∧
        fld t.rast.tick 35 34 = 0) ∧
      t.tod = s.tod.advance (len * ruPerCk s.rast.reef) ∧
      t.out = { s.out with scanned := t.out.scanned, line := [], sync := lineSync t, fetched := t.out.fetched, psn := t.out.psn } ∧
      t.slk = { s.slk with isOpen := t.slk.isOpen, fin := s.slk.fin - len, left := t.slk.left, win := t.slk.win } ∧
      (∀ g, g ∈ t.out.scanned ↔ g ∈ s.fab.segs ∧ g.ok = true ∧ g.st ≠ .sparOwned ∧ s.linePos g.frame.toNat g.line = t.nowPos) ∧
      (∀ g, g ∈ t.fab.segs ↔ ∃ h ∈ s.fab.segs, t.nowPos < s.linePos h.frame.toNat h.line ∧
        g = { h with st := if h.ok = true ∧ h.st = .marked ∧ s.linePos h.frame.toNat h.line = t.nowPos + 1 then .scanOut else h.st }) ∧
      t.fab.flight.map (fun x => (x.c, x.phase)) = s.fab.flight.map (fun x => (x.c - len, x.phase)) ∧
      (t.slk.isOpen = true → s.slk.isOpen = true ∧ s.slk.block = true ∧ s.rast.linesActive ≤ t.rast.line ∧ t.rast.line < s.rast.linesActive + 4)) ∧
  (∀ s : State, Runs s → s.fab.flight = [] → PlainEnd s → frameEnds s (endTime s).toNat = true → s.rast.sync.jump = false →
    let len := (lineLen s).1
    exec .halyardTick s = .next { closeLine len s with
      wire := []
      fab := { s.fab with cyc := 0, fresh := [] }
      jobs := s.jobs.map (fun e => (e.1, if e.2.running then { e.2 with start := e.2.start - len } else e.2))
      rast := { s.rast with time := endTime s, due := true,
                            sync := { s.rast.sync with frac := (lineLen s).2, followMiss := followMissed s (endTime s).toNat } }
      tod := s.tod.advance (len * ruPerCk s.rast.reef) }) ∧
  (∀ s : State, ¬ Runs s → exec .halyardTick s = .next s)

/-- The halyard's ticks (R19, R20, R25, R207, R364, R366). -/
def Obligations.HalyardTicks : Prop := Sys2Proof.Stated.LineLengths ∧ Sys2Proof.Stated.TickAdvances


/-- A reference event (R368, R370, R372, R610): of a source in use, or watched as the primary one, it is kept for pairing with its time; GENLOCK and TE give one with the edge that EDGE selects alone, PTP at an alignment point
of a usable time of day alone. An edge of GENLOCK or TE clears the input's STUCK and LEVEL, and nothing else of the part changes. -/
def Sys2Proof.Stated.ReferenceEvents : Prop :=
  ∀ (src : Fin 4) (falling : Bool) (t : BitVec 64) (k : BitVec 48) (s : State),
    let sees : Prop := (src.val = s.rf A.rastSyncStat 6 4 ∨ (src.val = s.rf A.rastSyncCtl 2 0 ∧ s.rf A.rastSyncCtl 7 7 = 1)) ∧
      (src.val < 2 → s.rf A.rastSyncCtl 8 8 = b2n falling) ∧ (src.val = 3 → aligned s t.toNat k.toNat = true)
    ∃ u, exec (.referenceEvent ⟨src, falling⟩ t k) s = .next u ∧
      (sees → u.rast.sync.refs = s.rast.sync.refs ++ [⟨src.val, t.toNat, k.toNat⟩]) ∧ (¬ sees → u.rast.sync.refs = s.rast.sync.refs) ∧
      (src.val = 3 → sees → s.timeUsable = true) ∧
      u = { s with regs := u.regs, rast := { s.rast with sync := { s.rast.sync with refs := u.rast.sync.refs } } } ∧
      (∀ a, a ≠ A.safeEnv → u.reg a = s.reg a) ∧
      (2 ≤ src.val → u.regs = s.regs) ∧
      (src.val = 0 → u.rf A.safeEnv 2 1 = 0 ∧ ∀ b, b < 32 → b ≠ 1 → b ≠ 2 → bitAt (u.reg A.safeEnv) b = bitAt (s.reg A.safeEnv) b) ∧
      (src.val = 1 → u.rf A.safeEnv 4 3 = 0 ∧ ∀ b, b < 32 → b ≠ 3 → b ≠ 4 → bitAt (u.reg A.safeEnv) b = bitAt (s.reg A.safeEnv) b)

/-- The update point while LOCKED (R367, R370, R371, R375, R376): one candidate in tolerance is paired: its phase error is recorded, c removes a quarter of it over the frame, n_est follows by
an eighth, and a phase error beyond 2 × LOCK_WIN leaves for ACQUIRE; a missing reference sets c to 0 and keeps n_est, and the second in succession enters HOLDOVER with event
0x0202. On free-run c is 0 and n_est the nominal length. -/
def Sys2Proof.Stated.UpdatePoints : Prop :=
  (∀ (s : State) (r : RefEvt), Steering s → s.rf A.rastSyncStat 1 0 = 2 → ReferenceDue s → candidates s (s.rf A.rastSyncStat 6 4) = [r] →
    outOfTol s (nSrc s r.t s.rast.sync.prev) = false →
    let phi := ruDiff r.t s.rast.t0.toNat + s.syncOfs
    ∃ t, exec .updatePoint s = .next t ∧
      t.rast.sync.c = tdivNat (phi * 65536) (4 * max 1 s.rast.linesTotal) ∧
      t.rast.sync.nEst = (match nSrc s r.t s.rast.sync.prev with
        | some n => ((s.rast.sync.nEst : Int) + tdivNat ((n : Int) - s.rast.sync.nEst) 8).toNat
        | none => s.rast.sync.nEst) ∧
      t.rast.sync.misses = 0 ∧ t.rast.sync.prev = some (s.genFrame, r.t) ∧ t.rast.sync.phi = phi ∧
      t.rf A.rastSyncStat 1 0 = (if 2 * s.lockWin < phi.natAbs then 1 else 2) ∧
      t.rf A.rastSyncStat 31 16 = phaseField phi ∧ t.rf A.rastSyncStat 15 8 = s.rf A.rastSyncStat 15 8 ∧
      (∀ a, a ≠ A.rastSyncStat → t.reg a = s.reg a) ∧
      t = { s with regs := t.regs, rast := { s.rast with sync := t.rast.sync } }) ∧
  (∀ s : State, Steering s → s.rf A.rastSyncStat 1 0 = 2 → s.syncDiv ≤ s.rast.sync.age + 1 → candidates s (s.rf A.rastSyncStat 6 4) = [] →
    (s.rast.sync.misses + 1 < 2 → exec .updatePoint s = .next (dropRefs (s.setSync { s.rast.sync with
      age := 0, c := 0, inWin := 0, misses := s.rast.sync.misses + 1, holdGood := 0 }))) ∧
    (2 ≤ s.rast.sync.misses + 1 → exec .updatePoint s = .next (dropRefs (((s.setSync { s.rast.sync with
      age := 0, c := 0, inWin := 0, misses := s.rast.sync.misses + 1, holdGood := 0, holdCnt := 0 }).setSyncState 3).post
        [s.owner] 0x0202 [s.vF, (1, s.rf A.rastSyncStat 6 4)])))) ∧
  (∀ s : State, s.halted = false → s.rast.paused = false → s.rf A.rastSyncStat 6 4 = 4 → s.rf A.rastSyncStat 1 0 = 0 → s.rf A.rastSyncCtl 7 7 = 0 →
    exec .updatePoint s = .next (dropRefs (s.setSync { s.rast.sync with c := 0, nEst := s.nNom })))

/-- The timing generator's sources and update points (R367, R368, R370 to R376, R610). -/
def Obligations.TimingGenerator : Prop := Sys2Proof.Stated.ReferenceEvents ∧ Sys2Proof.Stated.UpdatePoints


/-- The lead check (R45, R206, R238, R410, R411), of a line of this frame or the next in the registers that the line's frame runs with: a mark that takes effect by its cycle counts. Where every enabled line store layer that is not off has its line complete, the lines are confirmed, those whose turn is next pass to scan-out, and
nothing else changes; where the one enabled layer's line is not complete, it underruns with cause 0. The first frame after a suspension leaves its first lines unchecked (R406). -/
def Sys2Proof.Stated.LeadChecks : Prop :=
  ∀ (s0 : State) (f : Frame) (n : Nat),
    let s := settleTo 0 1 s0
    let v := viewOf s f
    checkedLine s = some (f, n) →
    (v.composing = true → n < v.rast.linesActive → ¬(v.rast.resumedF = some f ∧ n ≤ s.lead) →
      ((∀ l, l < 8 → storeLayerOn v l = true → s.layerOff l f.toNat n = false →
          (∃ g ∈ s.fab.segs, g.layer = l ∧ g.frame = f ∧ g.line = n) ∧
          ∀ g ∈ s.fab.segs, g.layer = l → g.frame = f → g.line = n → g.st = .marked) →
        exec .leadCheck s0 = .next { s with fab := { s.fab with segs := s.fab.segs.map (fun g =>
          if g.layer < 8 ∧ storeLayerOn v g.layer = true ∧ s.layerOff g.layer f.toNat n = false ∧ g.frame = f ∧ g.line = n then
            { g with ok := true, st := if s.linePos f.toNat n = s.nowPos + 1 then .scanOut else g.st }
          else g) } }) ∧
      (∀ l, l < 8 → (∀ m, m < 8 → storeLayerOn v m = decide (m = l)) → s.layerOff l f.toNat n = false →
        ((∀ g ∈ s.fab.segs, ¬ (g.layer = l ∧ g.frame = f ∧ g.line = n)) ∨ ∃ g ∈ s.fab.segs, g.layer = l ∧ g.frame = f ∧ g.line = n ∧ g.st ≠ .marked) →
        exec .leadCheck s0 = .next (s.underrun l f.toNat n 0))) ∧
    ((v.composing = false ∨ v.rast.linesActive ≤ n ∨ (v.rast.resumedF = some f ∧ n ≤ s.lead)) → exec .leadCheck s0 = .next s)

/-- An underrun of a layer that is on (R210, R411, R412): the layer is off from the line on to the end of the frame, its marked segments of these lines return to the spars and no other segment changes, the
first underrun of the most recent frame is recorded with its line, layer and cause, the count advances, the layer's bit sets where the frame is the current one, EVT.UNDERRUN sets, and the memories, the spars' registers and the raster stay as they are. -/
def Sys2Proof.Stated.UnderrunSwitchesOff : Prop :=
  ∀ (s : State) (l f n cause : Nat), s.layerOff l f n = false → l < 8 → f < 2 ^ 48 → n < 2 ^ 13 → cause < 2 →
    let t := s.underrun l f n cause
    (∀ m g k, t.layerOff m g k = (s.layerOff m g k || decide (m = l ∧ g = f ∧ n ≤ k))) ∧
    t.fab.segs = s.fab.segs.map (fun g =>
      if g.layer = l ∧ g.frame = BitVec.ofNat 48 f ∧ n ≤ g.line ∧ g.st = .marked then { g with st := .sparOwned } else g) ∧
    t.rf A.rastUndrCnt 15 0 = min (s.rf A.rastUndrCnt 15 0 + 1) 65535 ∧
    t.rf A.rastUndrCnt (24 + l) (24 + l) = (if BitVec.ofNat 48 f = s.rast.frame then 1 else s.rf A.rastUndrCnt (24 + l) (24 + l)) ∧
    ((s.rf A.rastUndrCnt 15 0 = 0 ∨ s.loHi A.rastUndrFLo A.rastUndrFHi 16 < f) →
      t.loHi A.rastUndrFLo A.rastUndrFHi 16 = f ∧ t.rf A.rastUndrPos 12 0 = n ∧ t.rf A.rastUndrPos 18 16 = l ∧ t.rf A.rastUndrPos 19 19 = cause) ∧
    (¬ (s.rf A.rastUndrCnt 15 0 = 0 ∨ s.loHi A.rastUndrFLo A.rastUndrFHi 16 < f) → t.reg A.rastUndrPos = s.reg A.rastUndrPos) ∧
    t.rcd.evt = s.rcd.evt ||| 8 ∧ t.hbm = s.hbm ∧ t.rast = s.rast ∧
    t.fab = { s.fab with segs := t.fab.segs } ∧
    (∀ a, a ∉ [A.rastUndrFLo, A.rastUndrFHi, A.rastUndrPos, A.rastUndrCnt] → t.reg a = s.reg a)

/-- Lead checks and underruns (R45, R206, R210, R410 to R412). -/
def Obligations.LeadChecksAndUnderruns : Prop := Sys2Proof.Stated.LeadChecks ∧ Sys2Proof.Stated.UnderrunSwitchesOff


/-- A frame boundary (R11, R19, R46, R47, R69, R583): F advances by one and line 0 begins, the reef that the governor chose is in force (by default, where neither replay, a lock-step lead nor a
fleet chooses), the B registers hold the committed SPAR_BOUND values, no committed value of the frame waits any longer, and the memories, the crucibles and the S and A registers are unchanged. At the
frame P of a pause the halyard stops instead, SYS_PAUSE_CTL.STATE is 0b010, the reef 0 voltage is on CORE_VID, F stays, and event 0x0420 gives P (R354, R588). -/
def Obligations.FrameBoundaries : Prop :=
  (∀ (nj : List (BitVec 64)) (s : State), s.Canonical →
    s.rast.paused = false → s.halted = false → s.rast.pauseAt ≠ some (s.rast.frame + 1) → s.rast.sync.fsetArm = false → (s.rast.due = true ∨ CalmLine s) →
    ∃ t, exec (.frameBoundary nj) s = .next t ∧
      t.rast.frame = s.rast.frame + 1 ∧ t.rast.line = 0 ∧ t.rast.due = false ∧ t.rast.paused = false ∧
      t.rast.time = (if s.rast.due then s.rast.time else endTime s) ∧ t.rast.t0 = t.rast.time ∧
      (∀ m n, m < 64 → n < 16 → t.bReg m n = t.reg (A.sparBound m n) ∧
        t.bReg m n = after (s.commits.filter (fun c => decide (c.target = s.rast.frame + 1))) s (A.sparBound m n)) ∧
      (∀ c ∈ t.commits, c.target ≠ t.rast.frame) ∧
      t.hbm = s.hbm ∧ t.fab.loft = s.fab.loft ∧ t.fab.crucible = s.fab.crucible ∧ t.fab.sreg = s.fab.sreg ∧ t.fab.areg = s.fab.areg ∧ t.pending = s.pending) ∧
  (∀ (nj : List (BitVec 64)) (s : State), s.rast.paused = false → s.halted = false → s.rast.pauseAt ≠ some (s.rast.frame + 1) → s.rast.sync.fsetArm = false →
    (s.rast.due = true ∨ CalmLine s) → s.rf A.logRplyCtl 0 0 = 0 → s.commits = [] → s.rf A.linkLsCtl 0 0 = 0 → s.rf A.linkFleetCtl 0 0 = 0 →
    ∃ t, exec (.frameBoundary nj) s = .next t ∧ t.rast.reef = (if s.gov.decided then s.gov.rs else s.rast.reef)) ∧
  (∀ (nj : List (BitVec 64)) (s : State), s.rast.paused = false → s.halted = false → s.rast.pauseAt = some (s.rast.frame + 1) →
    s.fab.flight = [] → s.bar2Q = [] →
    ∃ t, exec (.frameBoundary nj) s = .next t ∧ t.rast.paused = true ∧ t.rast.pauseAt = none ∧ t.rast.frame = s.rast.frame ∧
      t.rf A.sysPauseCtl 10 8 = 2 ∧ t.rf A.sysPauseCtl 0 0 = 0 ∧ t.loHi A.sysPauseFLo A.sysPauseFHi 16 = (s.rast.frame + 1).toNat ∧ t.gov.vid = reefVid 0 ∧
      t.hbm = s.hbm ∧ t.fab = { s.fab with cyc := t.fab.cyc, fresh := t.fab.fresh }) ∧
  (∀ (nj : List (BitVec 64)) (s : State), s.rast.paused = true ∨ s.halted = true → exec (.frameBoundary nj) s = .next s)

/-- The decision point (R576 to R580): the meters advance by what was measured; the account gains the budget, loses the energy and is held to its cap; the thermal limit is 3 at the
maximum temperature or without a reading, otherwise the number of levels set; the choice is at least the thermal limit, and a level that every admitted plan supports wherever one at or
above the limit exists. Nothing but registers, event queues, the black box and the governor changes. -/
def Obligations.DecisionPoints : Prop :=
  ∀ (sens : List (Option (BitVec 12))) (nj : List (BitVec 64)) (s : State), s.rast.paused = false →
    ∃ t, exec (.decisionPoint sens nj) s = .next t ∧
      t = { s with regs := t.regs, pregs := t.pregs, host := t.host, hostBad := t.hostBad, ev := t.ev, gov := t.gov } ∧
      t.energy = (s.energy + (nj.take 7).foldl (fun n e => n + e.toNat) 0) % 2 ^ 64 ∧ t.gov.eDec = t.energy ∧ t.gov.tDec = s.rast.time ∧
      (let cap : Int := s.rf A.pwrAcctCfg 15 0 * 10 ^ 6
       let dt : Int := ((s.rast.time - s.gov.tDec).toNat / 24 : Nat)
       let de : Int := ((t.energy + 2 ^ 64 - s.gov.eDec) % 2 ^ 64 : Nat)
       t.gov.acct = min (max (s.gov.acct + tdivNat (s.rf A.pwrBudget 19 0 * dt) 1000 - de) (-cap)) cap) ∧
      t.gov.levels = thermLevels s (tmax t).1 ∧
      t.gov.rth = (if s.tjMax ≤ (tmax t).1 ∨ badSensors t ≠ [] then 3 else popCount 3 t.gov.levels) ∧
      t.gov.decided = true ∧ t.gov.rs = (reefChoice t t.gov.rth).2.2 ∧ t.gov.rth ≤ t.gov.rs ∧ t.gov.rs ≤ 3 ∧
      (bitOf (okLevels s) t.gov.rs = true ∨ ∀ r, r < 4 → t.gov.rth ≤ r → bitOf (okLevels s) r = false) ∧
      t.rf A.pwrStat 9 8 = (reefChoice t t.gov.rth).1 ∧ t.rf A.pwrStat 11 10 = t.gov.rth

/-! ### Fleets, lock-step pairs and links -/

namespace Sys2Proof.Machine

/-- The part as a frame finds it: nothing sent yet, and the codewords that the receiver corrected for it counted (R481). -/
def heard (s : State) (p : Nat) (x : Rx) : State := (quiet s).bump (A.linkPortFec p) 31 0 x.fec.toNat

/-- The state in which a sequenced frame of class c that is next in order acts: its acknowledgements are taken, and its class counts on (R468). -/
def delivered (s : State) (p c : Nat) (x : Rx) (f : LinkFrame) : State := (accept p c f (ackFields p f (heard s p x))).2

/-- A frame of a type arrives at a port that is up, is whole, and is the next of its class that the port carries (R464 to R468). -/
abbrev InOrder (s : State) (p type c : Nat) (x : Rx) (f : LinkFrame) : Prop :=
  parseFrame x.bytes = some f ∧ f.type = type ∧ classOf type = some c ∧ 2 ≤ s.portState p ∧ carries s p type = true ∧
    f.seq = ((s.wport p).cls c).exp

/-- A control frame of a type arrives at a port that is up, is whole, and no frame of the port waits for room (R464, R467). -/
abbrev ControlFrame (s : State) (p type : Nat) (x : Rx) (f : LinkFrame) : Prop :=
  parseFrame x.bytes = some f ∧ f.type = type ∧ 2 ≤ s.portState p ∧ (s.wport p).fast.wait = [] ∧ (s.wport p).bulk.wait = []

/-- The port as it stands once the acknowledgements of a frame have been taken (R468, R469). -/
def acked (s : State) (p : Nat) (f : LinkFrame) : Wearo :=
  { s.wport p with fast := ackClass (s.wport p).fast f.ackF, bulk := ackClass (s.wport p).bulk f.ackB }

/-- From s to t only Wearo port p's own state, what was sent, and registers outside a list's complement changed. -/
abbrev OnlyPort (s t : State) (p : Nat) (regs : List Nat) : Prop :=
  t = { s with wearo := t.wearo, wire := t.wire, regs := t.regs } ∧ (∀ q, q ≠ p → t.wport q = s.wport q) ∧ (∀ a, a ∉ regs → t.reg a = s.reg a)

/-- The registers that a port's state is shown in (R480, R482). -/
def stateRegs (p : Nat) : List Nat := [A.linkPortStat p, A.linkFleetStat]

end Sys2Proof.Machine

/-- The reef agreement of a fleet (R497, R498): a member's vote starts the gather of the frame, and a fleet of one has agreed on it at once; a vote of another member is combined at the
port it came through; without agreement the member takes the larger of its own vote and FB_REEF, and says so in event 0x0533, which names the reef that is applied: where replay forces
one, PWR_STAT.NEXT stays as it is. -/
def Obligations.ReefVotes : Prop :=
  (∀ s : State, agreeing s = true → findGather s .vote 0 s.f16 = none →
    ∃ t, exec .fleetReefVote s = .next t ∧ (∃ g, findGather t .vote 0 s.f16 = some g ∧ g.started = true) ∧
      ((∀ d, d < 3 → fleetDim s d = 1) → agreedReef t = some (ownReef s) ∧ t.wire = [] ∧
        t = { s with wire := [], fleet := t.fleet, regs := t.regs, gov := t.gov } ∧ t.gov = { s.gov with divs := t.gov.divs } ∧
        (s.fleet.fb = none → replayReef s = none → t.rf A.pwrStat 3 2 = ownReef s % 4 ∧ t.rf A.pwrStat 4 4 = 1))) ∧
  (∀ s : State, agreeing s = true → agreedReef s = none → s.fleet.fb = none →
    let r := max (ownReef s) (s.rf A.linkFleetCtl 5 4)
    let u := s.setFleet { s.fleet with fb := some r }
    (replayReef s = none → exec .fleetReefFallback s = .next ((setNext r u).post s.ports 0x0533 [(6, (s.rast.frame + 1).toNat), (1, r)])) ∧
    (∀ v, replayReef s = some v → exec .fleetReefFallback s = .next (u.post s.ports 0x0533
      [(6, (s.rast.frame + 1).toNat), (1, if s.gov.rth ≤ v then v else s.gov.rs)]))) ∧
  (∀ (p : Fin 6) (ru : BitVec 32) (x : Rx) (f : LinkFrame) (s : State), InOrder s p.val 0x11 0 x f → s.lsPort ≠ some p.val →
    exec (.reefFrame p ru x) s = .next (pumpPort p.val (noteAgreed (onToken p.val (ckOf s ru.toNat) 0x11 2 4 0 s.owner .vote
      [numAt f.payload 6 1] f (delivered s p.val 0 x f)))))

/-- Tokens of a fleet (R483, R484, R492): the command of a frame completes in every state, in the cycle of its arrival. A muster token or a partial row that is in order is held for its instance of this frame or the next, sent on with one hop less where it has hops
left, and combined with what has come; one of any other frame is stale and only counted. Votes combine to the largest, rows to their sums modulo 2^96. -/
def Obligations.FleetTokens : Prop :=
  (∀ (p : Fin 6) (ru : BitVec 32) (x : Rx) (f : LinkFrame) (s0 : State), InOrder (settleTo (ckOf s0 ru.toNat) 1 s0) p.val 0x10 0 x f →
    let s := settleTo (ckOf s0 ru.toNat) 1 s0
    let u := delivered s p.val 0 x f
    let id := numAt f.payload 0 2
    let fr := numAt f.payload 2 2
    (((signedDiff 16 fr s.f16 = 0 ∨ signedDiff 16 fr s.f16 = 1) ∧ (findGather s .muster id fr ≠ none ∨ gatherRoom s .muster = true)) →
      exec (.musterFrame p ru x) s0 = .next (pumpPort p.val (addPart (ckOf s ru.toNat)
        ((findGather s .muster id fr).getD (Gather.fresh .muster id fr)) (numAt f.payload 4 1) [] (forwardToken p.val 0x10 5 f u)))) ∧
    (¬(signedDiff 16 fr s.f16 = 0 ∨ signedDiff 16 fr s.f16 = 1) →
      ∃ t, exec (.musterFrame p ru x) s0 = .next t ∧ t.rf A.linkRedStat 31 16 = min (s.rf A.linkRedStat 31 16 + 1) 65535 ∧
        t.fleet = { s.fleet with staleTold := true })) ∧
  (∀ (p : Fin 6) (ru : BitVec 32) (x : Rx) (f : LinkFrame) (s0 : State), InOrder (settleTo (ckOf s0 ru.toNat) 1 s0) p.val 0x20 1 x f →
    let s := settleTo (ckOf s0 ru.toNat) 1 s0
    let u := delivered s p.val 1 x f
    let id := numAt f.payload 0 2 * 64 + numAt f.payload 2 1
    let fr := numAt f.payload 3 2
    (((signedDiff 16 fr s.f16 = 0 ∨ signedDiff 16 fr s.f16 = 1) ∧ (findGather s .row id fr ≠ none ∨ gatherRoom s .row = true)) →
      exec (.reduceFrame p ru x) s0 = .next (pumpPort p.val (addPart (ckOf s ru.toNat)
        ((findGather s .row id fr).getD (Gather.fresh .row id fr)) (numAt f.payload 5 1) (rowOfPayload f.payload) (forwardToken p.val 0x20 6 f u)))) ∧
    (¬(signedDiff 16 fr s.f16 = 0 ∨ signedDiff 16 fr s.f16 = 1) →
      ∃ t, exec (.reduceFrame p ru x) s0 = .next t ∧ t.rf A.linkRedStat 31 16 = min (s.rf A.linkRedStat 31 16 + 1) 65535 ∧
        t.fleet = { s.fleet with staleTold := true })) ∧
  (∀ (p : Fin 6) (ru : BitVec 32) (x : Rx) (s : State),
    (∃ t, exec (.musterFrame p ru x) s = .next t ∧ t.hbm = (settleTo (ckOf s ru.toNat) 1 s).hbm) ∧
    (∃ t, exec (.reduceFrame p ru x) s = .next t ∧ t.hbm = (settleTo (ckOf s ru.toNat) 1 s).hbm)) ∧
  (∀ a b : Nat, combine .vote [a] [b] = [max a b]) ∧
  (∀ a b : List Nat, a.length = 128 → b.length = 128 → (combine .row a b).length = 128 ∧
    ∀ j, j < 64 → (combine .row a b).getD j 0 = (a.getD j 0 + b.getD j 0) % 2 ^ 96 ∧
      (combine .row a b).getD (64 + j) 0 = max (a.getD (64 + j) 0) (b.getD (64 + j) 0))

/-- Lock-step pairs (R349 to R352): the lead sends its choice; a follower takes a choice that came by the cut line, and the pair is lost with reason 3 where it came later; the line's 64 signatures go to the
partner and wait for its set; equal sets are dropped, a set that differs makes the pair DIVERGED with the first such spar in event 0x0410, and a set still missing after DEPTH lines loses the pair with
reason 1. -/
def Obligations.LockSteps : Prop :=
  (∀ (p : Nat) (s : State), s.lsPort = some p → comparing s = true → s.rf A.linkLsCtl 1 1 = 0 → agreeing s = false →
    exec .lockstepReefSend s = .next (sendSeq p 0x11 (leBytes 2 0 ++ leBytes 2 s.f16 ++ [0, 1] ++ leBytes 1 (ownReef s) ++ List.replicate 25 0)
      { s with wire := [] })) ∧
  (∀ (p : Fin 6) (ru : BitVec 32) (x : Rx) (f : LinkFrame) (s : State), InOrder s p.val 0x11 0 x f → s.lsPort = some p.val →
    lockFollower s = true → numAt f.payload 2 2 = s.f16 → replayReef s = none →
    let u := delivered s p.val 0 x f
    let r := numAt f.payload 6 1
    (byCut s (ckOf s ru.toNat) = true → s.gov.rth ≤ r →
      exec (.lockstepReefReceipt p ru x) s = .next (pumpPort p.val (setNext r (u.setFleet { s.fleet with lsReef := some r })))) ∧
    (byCut s (ckOf s ru.toNat) = false → exec (.lockstepReefReceipt p ru x) s = .next (pumpPort p.val (lockLost 3 u)))) ∧
  (∀ (p : Nat) (s0 : State),
    let s := settleTo (issueW s0.rast.linePeriod s0.rast.reef + 16) 1 s0
    s.lsPort = some p → comparing s = true → s.fleet.own = [] → s.fleet.their = [] →
    let sigs := (List.range 64).map (fun n => lineSig s.rcd.entries (issueW s.rast.linePeriod s.rast.reef) n)
    exec .lockstepSigSend s0 = .next (sendSeq p 0x12 (leBytes 2 s.f16 ++ leBytes 2 s.rast.line ++ sigs.flatMap (fun g => leBytes 8 g.toNat) ++
      List.replicate 28 0) { s with wire := [], fleet := { s.fleet with own := [⟨s.f16, s.rast.line, sigs⟩] } })) ∧
  (∀ (p : Fin 6) (x : Rx) (f : LinkFrame) (s : State) (a : LineSet), InOrder s p.val 0x12 0 x f → comparing s = true →
    s.fleet.own = [a] → s.fleet.their = [] → a.f = numAt f.payload 0 2 → a.line = numAt f.payload 2 2 →
    let their := (List.range 64).map (fun n => BitVec.ofNat 64 (numAt f.payload (4 + 8 * n) 8))
    let bad := (List.range 64).filter (fun i => decide (a.sigs.getD i 0 ≠ their.getD i 0))
    let u := delivered s p.val 0 x f
    (bad = [] → exec (.lockstepFrame p x) s = .next (pumpPort p.val (u.setFleet { s.fleet with own := [], their := [] }))) ∧
    (bad ≠ [] → ∃ t, exec (.lockstepFrame p x) s = .next t ∧ t.rf A.linkLsStat 1 0 = 2 ∧ t.fleet.own = [] ∧ t.fleet.their = [] ∧
      t.rf A.linkLsDivPos 12 0 = a.line % 2 ^ 13 ∧ t.hbm = s.hbm ∧ t.fab = s.fab)) ∧
  (∀ s : State, comparing s = true →
    (s.fleet.own.any (fun a => decide (s.linePos (frameOf16 s a.f).toNat a.line + s.rf A.linkLsCtl 11 8 ≤ s.nowPos)) = true →
      exec .lockstepDeadline s = .next (lockLost 1 s)) ∧
    ((∀ a ∈ s.fleet.own, s.nowPos < s.linePos (frameOf16 s a.f).toNat a.line + s.rf A.linkLsCtl 11 8) → exec .lockstepDeadline s = .next s)) ∧
  (∀ (reason : Nat) (s : State), s.rf A.linkLsStat 1 0 = 1 → reason < 16 →
    (lockLost reason s).rf A.linkLsStat 1 0 = 3 ∧ (lockLost reason s).rf A.linkLsStat 11 8 = reason ∧
    (lockLost reason s).fleet = { s.fleet with own := [], their := [] })

/-- The sequence rules (R467, R468, R472): the next frame of its class is delivered, the expected number advances by one and an acknowledgement is due; an earlier number is a duplicate, which is discarded and acknowledged again; a later
one is discarded and one NAK names the expected number. While that NAK stands no further one is sent: a number after the last one seen, and the first that goes back, send none; when the numbers go back again the sender's timer has resent, and
one may be sent (the model's choice, log 82). Frames that wait for room go last. -/
def Sys2Proof.Stated.SequenceRules : Prop :=
  ∀ (p type c : Nat) (x : Rx) (f : LinkFrame) (run : LinkFrame → State → State) (s : State),
    parseFrame x.bytes = some f → f.type = type → classOf type = some c → 2 ≤ s.portState p →
    let k := (s.wport p).cls c
    let d := signedDiff 32 f.seq k.exp
    let a := ackFields p f (heard s p x)
    let nakOf (g : LinkFrame) : Prop := g.type = 0x02 ∧ g.payload = leBytes 1 c ++ [0, 0, 0] ++ leBytes 4 k.exp ++ List.replicate 24 0
    (d = 0 → carries s p type = true →
      receive p type x run s = pumpPort p (run f (delivered s p c x f)) ∧
      (((delivered s p c x f).wport p).cls c).exp = (k.exp + 1) % 2 ^ 32 ∧ (((delivered s p c x f).wport p).cls c).nak = false ∧
      ((delivered s p c x f).wport p).ackDue = true) ∧
    (d = 0 → carries s p type = false → receive p type x run s = pumpPort p (delivered s p c x f)) ∧
    (d < 0 → receive p type x run s = pumpPort p (a.setWport p { a.wport p with ackDue := true })) ∧
    (0 < d → k.nak = true → 0 < signedDiff 32 f.seq k.last →
      receive p type x run s = pumpPort p (a.setWport p ((a.wport p).setCls c { (a.wport p).cls c with last := f.seq }))) ∧
    (0 < d → k.nak = true → signedDiff 32 f.seq k.last ≤ 0 → k.rewinds = 0 →
      receive p type x run s = pumpPort p (a.setWport p ((a.wport p).setCls c { (a.wport p).cls c with last := f.seq, rewinds := 1 }))) ∧
    (0 < d → (k.nak = false ∨ (signedDiff 32 f.seq k.last ≤ 0 ∧ 1 ≤ k.rewinds)) →
      (((receive p type x run s).wport p).cls c).nak = true ∧ (((receive p type x run s).wport p).cls c).exp = k.exp ∧
      ∃ g l, (receive p type x run s).wire = (p, frameBytes g) :: l ∧ nakOf g)

/-- Control frames and timers of a port (R468 to R471): the fields of an ACK take acknowledged frames out of the replay buffers; a NAK, and the retry timer, send every frame from the named or the oldest one on again,
bit for bit and counted; the acknowledgement timer sends an ACK where one is due; a frame that fails its CRC is counted and answered by a NAK; a firmware message is handed over whole. -/
def Sys2Proof.Stated.AcknowledgeAndRetry : Prop :=
  (∀ (p : Fin 6) (x : Rx) (f : LinkFrame) (s : State), ControlFrame s p.val 0x01 x f →
    ∃ t, exec (.ackFrame p x) s = .next t ∧ OnlyPort (heard s p.val x) t p.val [] ∧ t.wire = [] ∧ t.wport p.val = acked s p.val f) ∧
  (∀ (p : Fin 6) (y : Rx) (f : LinkFrame) (s : State) (c n : Nat) (e : LinkFrame × Nat) (l : List (LinkFrame × Nat)),
    ControlFrame s p.val 0x02 y f → numAt f.payload 0 1 = c → numAt f.payload 4 4 = n →
    ((acked s p.val f).cls c).buf.any (fun x => decide (x.1.seq = n)) = true →
    ((acked s p.val f).cls c).buf.filter (fun x => decide (0 ≤ signedDiff 32 x.1.seq n)) = e :: l → e.2 ≤ s.rf (A.linkPortCtl p.val) 23 16 →
    ∃ t, exec (.nakFrame p y) s = .next t ∧ OnlyPort (heard s p.val y) t p.val [A.linkPortRetry p.val] ∧
      t.wire = (e :: l).map (fun x => (p.val, frameBytes x.1)) ∧
      ((t.wport p.val).cls c).buf = ((acked s p.val f).cls c).buf.map (fun x => if 0 ≤ signedDiff 32 x.1.seq n then (x.1, x.2 + 1) else x)) ∧
  (∀ (p : Fin 6) (c : Fin 2) (s : State) (e : LinkFrame × Nat) (l : List (LinkFrame × Nat)),
    ((s.wport p.val).cls c.val).buf = e :: l → (∀ x ∈ l, 0 ≤ signedDiff 32 x.1.seq e.1.seq) → e.2 ≤ s.rf (A.linkPortCtl p.val) 23 16 →
    ∃ t, exec (.retryTimeout p c) s = .next t ∧ OnlyPort s t p.val [A.linkPortRetry p.val] ∧
      t.wire = (e :: l).map (fun x => (p.val, frameBytes x.1)) ∧
      t.reg (A.linkPortRetry p.val) = BitVec.ofNat 32 (min ((s.reg (A.linkPortRetry p.val)).toNat + 1) (2 ^ 32 - 1)) ∧
      ((t.wport p.val).cls c.val).buf = (e :: l).map (fun x => (x.1, x.2 + 1))) ∧
  (∀ (p : Fin 6) (s : State), (s.wport p.val).ackDue = true →
    let w := s.wport p.val
    ∃ t, exec (.ackTimer p) s = .next t ∧ OnlyPort s t p.val [] ∧ t.wport p.val = { w with ackDue := false } ∧
      t.wire = [(p.val, frameBytes ⟨0x01, 0, w.fast.seq, w.fast.exp, w.bulk.exp, List.replicate 32 0⟩)]) ∧
  (∀ (p : Fin 6) (x : Rx) (s : State), parseFrame x.bytes = none → 2 ≤ s.portState p.val →
    ((s.wport p.val).cls (numAt x.bytes 1 1 % 2)).nak = false →
    ∃ t, exec (.linkFrameDiscard p x) s = .next t ∧ OnlyPort (heard s p.val x) t p.val [A.linkPortCrcerr p.val] ∧
      t.reg (A.linkPortCrcerr p.val) = BitVec.ofNat 32 (min ((s.reg (A.linkPortCrcerr p.val)).toNat + 1) (2 ^ 32 - 1)) ∧
      ((t.wport p.val).cls (numAt x.bytes 1 1 % 2)).nak = true ∧ t.wire.length = 1) ∧
  (∀ (p : Fin 6) (x : Rx) (f : LinkFrame) (s : State), InOrder s p.val 0x21 1 x f →
    ∃ t, exec (.mgmtFrame p x) s = .next t ∧ smGet [] t.mgmt p.val = f.payload ∧
      t = { pumpPort p.val (delivered s p.val 1 x f) with mgmt := t.mgmt } ∧ (∀ q, q ≠ p.val → smGet [] t.mgmt q = smGet [] s.mgmt q))

/-- The sequence classes of a Wearo port, its acknowledgements and its retry (R467 to R471). -/
def Obligations.SequencesAndRetry : Prop := Sys2Proof.Stated.SequenceRules ∧ Sys2Proof.Stated.AcknowledgeAndRetry


/-- Delay exchanges (R474): a DREQ leaves with the next exchange number and its send time is kept; a DREQ is answered with the number, the epoch and the two times; the DRESP of the exchange under way gives the one-way delay, of
which the mean of the last sixteen is shown in LINK_PORTp_DELAY. -/
def Obligations.DelayExchanges : Prop :=
  (∀ (p : Fin 6) (ru : BitVec 32) (s : State), 2 ≤ s.portState p.val ∨ (s.wport p.val).step = 6 →
    let w := s.wport p.val
    let n := (w.exchNo + 1) % 65536
    ∃ t, exec (.delayExchange p ru) s = .next t ∧ OnlyPort s t p.val [] ∧
      t.wport p.val = { w with exchNo := n, t1 := some (n, s.todAt ru.toNat), ackDue := false } ∧
      t.wire = [(p.val, frameBytes ⟨0x03, 0, w.fast.seq, w.fast.exp, w.bulk.exp, leBytes 2 n ++ List.replicate 30 0⟩)]) ∧
  (∀ (p : Fin 6) (ru2 ru3 : BitVec 32) (x : Rx) (f : LinkFrame) (s : State), ControlFrame s p.val 0x03 x f →
    let w := acked s p.val f
    ∃ t, exec (.dreqFrame p ru2 ru3 x) s = .next t ∧ OnlyPort (heard s p.val x) t p.val [] ∧ t.wport p.val = { w with ackDue := false } ∧
      t.wire = [(p.val, frameBytes ⟨0x04, 0, w.fast.seq, w.fast.exp, w.bulk.exp,
        leBytes 2 (numAt f.payload 0 2) ++ leBytes 2 (s.rf A.timeEpoch 15 0) ++ leBytes 1 s.servo ++ [0] ++
          stamp12 (s.todAt ru2.toNat) ++ stamp12 (s.todAt ru3.toNat) ++ [0, 0]⟩)]) ∧
  (∀ (p : Fin 6) (ru : BitVec 32) (x : Rx) (f : LinkFrame) (s : State) (n : Nat) (t1 : Int), ControlFrame s p.val 0x04 x f →
    (s.wport p.val).t1 = some (n, t1) → numAt f.payload 0 2 = n → (s.wport p.val).step ≠ 6 →
    ¬ (s.portState p.val = 2 ∧ s.timeMode = 3 ∧ parentPort s = some p.val) →
    let t2 := stampAt f.payload 6
    let t3 := stampAt f.payload 18
    let d := half64 (s64 (s64 (t2 - t1) + s64 (s.todAt ru.toNat - t3))) - s.psReg (A.linkPortAsym p.val)
    let ds := (d :: (s.wport p.val).delays).take 16
    ∃ t, exec (.drespFrame p ru x) s = .next t ∧ OnlyPort (heard s p.val x) t p.val [A.linkPortDelay p.val] ∧ t.wire = [] ∧
      t.wport p.val = { acked s p.val f with t1 := none, delays := ds } ∧ t.reg (A.linkPortDelay p.val) = psWord (meanDelay ds))

/-- Training (R461 to R463, R481, R482): signal on all wavelengths starts training of an enabled port, with both sequence classes at 0, its lane map and polarity reported and its INFO frame sent; the partner's INFO is checked and the result
kept; a step that fails starts training again, from the detection of the lanes on, and the third failure in succession gives reason 2; loss of signal takes the port down with reason 1; clearing EN takes it down with reason 4. -/
def Obligations.PortTraining : Prop :=
  (∀ (p : Fin 6) (lanes : BitVec 8) (pol : BitVec 4) (s : State), (∀ l, l < 4 → ∃ i, i < 4 ∧ lanes.toNat / 4 ^ i % 4 = l) → (s.wport p.val).signal = false → s.aon.optics = true → s.rf A.sysDrst 2 2 = 0 → s.rf (A.linkPortCtl p.val) 0 0 = 1 →
    ∃ t, exec (.opticalSignal p lanes pol) s = .next t ∧ t.portState p.val = 1 ∧ (t.wport p.val).step = 5 ∧ (t.wport p.val).signal = true ∧
      (t.wport p.val).fast = LinkClass.start ∧ (t.wport p.val).bulk = LinkClass.start ∧
      t.rf (A.linkPortStat p.val) 15 8 = lanes.toNat ∧ t.rf (A.linkPortStat p.val) 19 16 = pol.toNat ∧
      t.wire = [(p.val, frameBytes ⟨0x05, 0, 0, 0, 0, infoPayload s p.val⟩)] ∧ (∀ q, q ≠ p.val → t.wport q = s.wport q) ∧
      (∀ a, a ∉ stateRegs p.val → t.reg a = s.reg a) ∧ t.hbm = s.hbm ∧ t.fab = s.fab) ∧
  (∀ (p : Fin 6) (x : Rx) (f : LinkFrame) (s : State), parseFrame x.bytes = some f → f.type = 0x05 → (s.wport p.val).fast.wait = [] → (s.wport p.val).bulk.wait = [] → s.portState p.val = 1 → (s.wport p.val).step = 5 →
    ∃ t, exec (.infoFrame p x) s = .next t ∧ OnlyPort (heard s p.val x) t p.val [A.linkPortPartner p.val] ∧ t.wire = [] ∧
      t.wport p.val = { s.wport p.val with step := 6, exch := 0, verdict := infoVerdict s p.val f.payload } ∧
      t.reg (A.linkPortPartner p.val) = BitVec.ofNat 32 (numAt f.payload 4 2 + numAt f.payload 6 1 * 2 ^ 16)) ∧
  (∀ (p : Fin 6) (s : State), s.portState p.val = 1 → (s.wport p.val).signal = true → s.aon.optics = true → s.rf A.sysDrst 2 2 = 0 → s.rf (A.linkPortCtl p.val) 0 0 = 1 →
    ∃ t, exec (.trainingTimeout p) s = .next t ∧ ((s.wport p.val).lanes = 0xE4 → (s.wport p.val).pol = 0 → OnlyPort s t p.val (stateRegs p.val)) ∧
      ((s.wport p.val).lanes < 256 → t.rf (A.linkPortStat p.val) 15 8 = (s.wport p.val).lanes) ∧
      ((s.wport p.val).pol < 16 → t.rf (A.linkPortStat p.val) 19 16 = (s.wport p.val).pol) ∧ t.hbm = s.hbm ∧ t.fab = s.fab ∧ t.portState p.val = 1 ∧ (t.wport p.val).step = 5 ∧
      (t.wport p.val).fails = (s.wport p.val).fails + 1 ∧
      t.rf (A.linkPortStat p.val) 7 4 = (if 3 ≤ (s.wport p.val).fails + 1 then 2 else s.rf (A.linkPortStat p.val) 7 4) ∧
      t.wire = [(p.val, frameBytes ⟨0x05, 0, 0, 0, 0, infoPayload s p.val⟩)]) ∧
  (∀ (p : Fin 6) (s : State), (s.wport p.val).signal = true → s.rf (A.linkPortCtl p.val) 0 0 = 1 →
    ∃ t, exec (.lossOfSignal p) s = .next t ∧ t.portState p.val = 0 ∧ t.rf (A.linkPortStat p.val) 7 4 = 1 ∧ (t.wport p.val).signal = false ∧
      (t.wport p.val).fast = LinkClass.start ∧ (t.wport p.val).bulk = LinkClass.start ∧ (∀ q, q ≠ p.val → t.wport q = s.wport q) ∧
      t.rf (A.linkPortDowns p.val) 15 0 = (if s.portState p.val = 2 then min (s.rf (A.linkPortDowns p.val) 15 0 + 1) 65535 else s.rf (A.linkPortDowns p.val) 15 0) ∧
      t.hbm = s.hbm ∧ t.fab = s.fab) ∧
  (∀ (h : Fin 4) (p : Fin 6) (w : Word) (s : State), Served s h (A.linkPortCtl p.val) → h.val = s.owner → fld w 15 4 ≠ 0 → fld w 23 16 ≠ 0 →
    ∃ t, exec (.portEnable h p w) s = .next t ∧
      t.reg (A.linkPortCtl p.val) = BitVec.ofNat 32 (fld w 0 0 + fld w 23 4 * 2 ^ 4) ∧
      (s.rf (A.linkPortCtl p.val) 0 0 = 1 → fld w 0 0 = 0 → t.portState p.val = 0 ∧ t.rf (A.linkPortStat p.val) 7 4 = 4) ∧
      (s.rf (A.linkPortCtl p.val) 0 0 = 0 → fld w 0 0 = 1 →
        t.portState p.val = (if (s.wport p.val).signal = true ∧ s.aon.optics = true ∧ s.rf A.sysDrst 2 2 = 0 then 1 else 0)) ∧
      (s.rf (A.linkPortCtl p.val) 0 0 = fld w 0 0 → OnlyRegs { s with wire := [] } t [A.linkPortCtl p.val]) ∧
      (∀ q, q ≠ p.val → t.wport q = s.wport q) ∧ t.hbm = s.hbm ∧ t.fab = s.fab)

/-! ### Time -/

namespace Sys2Proof.Machine

/-- From s to t only the PTP port's own state and registers of a list changed. -/
abbrev OnlyPtp (s t : State) (regs : List Nat) : Prop :=
  t = { s with ptp := t.ptp, regs := t.regs } ∧ ∀ a, a ∉ regs → t.reg a = s.reg a

end Sys2Proof.Machine

/-- An offset measurement (R456 to R458). While SET is 0, or beyond the threshold with ACCEPT, it steps the time by its opposite, counts the step and enters ACQUIRE, where the measurements that count for LOCKED begin anew; beyond the threshold otherwise it is refused: the time stays, JUMPS advances,
EVT.TIME_JUMP sets and the servo enters HOLDOVER; within it, ACQUIRE and LOCKED apply it, by an amount that no rule gives, HOLDOVER only leaves for ACQUIRE, eight in succession within LOCK_NS reach LOCKED, and one
beyond twice LOCK_NS leaves it. TIME_OFFSET shows every measurement, and ACCEPT is used up by it. -/
def Sys2Proof.Stated.TimeMeasurements : Prop :=
  ∀ (off : Int) (s : State),
    let t := measure off s
    let far : Prop := s.rf A.timeJump 23 0 * 65536000 < off.natAbs
    let lock := s.rf A.timeHold 31 16 * 65536
    t.reg A.timeOffset = psWord off ∧ t.rf A.timeCtl 31 31 = 0 ∧ t.hbm = s.hbm ∧ t.fab = s.fab ∧ t.rast = s.rast ∧
    ((s.rf A.timeStat 2 2 = 0 ∨ (far ∧ s.rf A.timeCtl 31 31 = 1)) →
      t.tod = s.tod.shift (-off) ∧ t.rf A.timeEpoch 15 0 = (s.rf A.timeEpoch 15 0 + 1) % 65536 ∧ t.rf A.timeStat 2 2 = 1 ∧ t.servo = 1 ∧
      t.ptp.good = 0 ∧ t.rcd.evt = s.rcd.evt ||| 32 ∧ t.rf A.timeStat 15 8 = s.rf A.timeStat 15 8) ∧
    (s.rf A.timeStat 2 2 = 1 → far → s.rf A.timeCtl 31 31 = 0 →
      t.tod = s.tod ∧ t.servo = 3 ∧ t.rf A.timeStat 15 8 = min (s.rf A.timeStat 15 8 + 1) 255 ∧ t.rcd.evt = s.rcd.evt ||| 32 ∧ t.free = s.free ∧
      t.reg A.timeEpoch = s.reg A.timeEpoch) ∧
    (s.rf A.timeStat 2 2 = 1 → ¬ far → (s.servo = 1 ∨ s.servo = 2) →
      t.tod = { s.tod.shift (Config.todPhase s.free off) with corr := some s.free } ∧ t.free = s.free + 1 ∧ t.rcd = s.rcd ∧
      t.servo = (if s.servo = 1 then (if off.natAbs ≤ lock ∧ 8 ≤ s.ptp.good + 1 then 2 else 1) else if 2 * lock < off.natAbs then 1 else 2)) ∧
    (s.rf A.timeStat 2 2 = 1 → ¬ far → s.servo = 3 → t.tod = s.tod ∧ t.servo = 1 ∧ t.free = s.free)

/-- The messages a slave takes (R452, R454, R455): a one-step Sync of its master, or the Follow_Up of a two-step one, gives the offset measurement of R455 with the latest Delay_Req exchange; a Delay_Resp that answers the part's last
Delay_Req completes that exchange; a Delay_Req leaves with the next sequence number, and its egress time is kept. -/
def Sys2Proof.Stated.SyncExchanges : Prop :=
  (∀ (h : PtpHead) (origin : Stamp) (s : State) (t3 t4 cd : Int), ptpHears s h = true → fromMaster s h = true → s.ptp.xch = some (t3, t4, cd) →
    let t1 := stampUnits origin
    let t2 := s.todAt h.ru.toNat - s.psReg A.timeLatIn
    let mpd := half64 (s64 (s64 (t2 - t3) + s64 (t4 - t1) - h.corr.toInt - cd))
    let off := s64 (s64 (t2 - t1) - h.corr.toInt - mpd - s.psReg A.timeAsym)
    let u := s.setReg A.timePath (psWord mpd)
    exec (.ptpSync h (.sync false origin)) s = .next (measure off (if s.ptpPort = 2 then u.setPtpPort 3 else u))) ∧
  (∀ (h : PtpHead) (origin : Stamp) (s : State), ptpHears s h = true → fromMaster s h = true →
    exec (.ptpSync h (.sync true origin)) s =
      .next { s with ptp := { s.ptp with syncT2 := some (h.seq.toNat, s.todAt h.ru.toNat - s.psReg A.timeLatIn, h.corr.toInt) } }) ∧
  (∀ (h : PtpHead) (origin : Stamp) (s : State) (t2 c t3 t4 cd : Int), ptpHears s h = true → fromMaster s h = true →
    s.ptp.syncT2 = some (h.seq.toNat, t2, c) → s.ptp.xch = some (t3, t4, cd) →
    let t1 := stampUnits origin
    let cs := s64 (c + h.corr.toInt)
    let mpd := half64 (s64 (s64 (t2 - t3) + s64 (t4 - t1) - cs - cd))
    let off := s64 (s64 (t2 - t1) - cs - mpd - s.psReg A.timeAsym)
    let u := ({ s with ptp := { s.ptp with syncT2 := none } }).setReg A.timePath (psWord mpd)
    exec (.ptpSync h (.followUp origin)) s = .next (measure off (if s.ptpPort = 2 then u.setPtpPort 3 else u))) ∧
  (∀ (h : PtpHead) (recv : Stamp) (s : State) (t3 : Int), ptpHears s h = true → fromMaster s h = true → s.ptp.reqT3 = some (h.seq.toNat, t3) →
    exec (.ptpDelayResp h recv s.ptp.clk 1) s =
      .next { s with ptp := { s.ptp with reqT3 := none, xch := some (t3, stampUnits recv, h.corr.toInt) } }) ∧
  (∀ (ru : BitVec 32) (s : State), s.ptpPort = 2 ∨ s.ptpPort = 3 →
    exec (.delayReq ru) s = .next { s with ptp := { s.ptp with
      seqReq := (s.ptp.seqReq + 1) % 65536, reqT3 := some (s.ptp.seqReq, s.todAt ru.toNat + s.psReg A.timeLatEg), sent := [ptpOut s true (.delayReq s.ptp.seqReq)] } }) ∧
  (∀ (h : PtpHead) (b : SyncBody) (s : State), ptpHears s h = false ∨ fromMaster s h = false → exec (.ptpSync h b) s = .next s)

/-- The slave's message exchanges and what a measurement does (R452, R454 to R458). -/
def Obligations.TimeExchanges : Prop := Sys2Proof.Stated.TimeMeasurements ∧ Sys2Proof.Stated.SyncExchanges


/-- The messages of a master, and the choice of one (R451, R452, R456): in MASTER the port sends Sync with its Follow_Up, Announce, and a Delay_Resp with its correction to each Delay_Req, each as PTPv2.1 with its own identity, its tag and its transport (R453); the second Announce of the one other clock makes a slave-only clock select it; without
Announce messages the masters are forgotten and the servo goes to HOLDOVER, from which it falls to FREERUN at the expiry. -/
def Obligations.MasterMessages : Prop :=
  (∀ (ru : BitVec 32) (s : State), s.ptpPort = 5 →
    exec (.syncMessageSend ru) s = .next { s with ptp := { s.ptp with
      seqSync := (s.ptp.seqSync + 1) % 65536,
      sent := [ptpOut s true (.sync s.ptp.seqSync), ptpOut s false (.followUp s.ptp.seqSync (stampOf (s.todAt ru.toNat + s.psReg A.timeLatEg)))] } }) ∧
  (∀ (h : PtpHead) (s : State), s.ptpPort = 5 → ptpHears s h = true →
    exec (.delayReqReceipt h) s = .next { s with ptp := { s.ptp with
      sent := [ptpOut s false (.delayResp h.seq.toNat (stampOf (s.todAt h.ru.toNat - s.psReg A.timeLatIn)) h.src h.srcPort h.corr)] } }) ∧
  (∀ (s : State) (event : Bool) (m : EthMsg), (ptpOut s event m).msg = m ∧ (ptpOut s event m).src = s.ptp.mac ∧ (ptpOut s event m).tag = s.ptp.vlan ∧
    (ptpOut s event m).ptp = some ⟨2, 1, BitVec.ofNat 8 (s.rf A.timeCtl 15 8), s.ptp.clk, 1⟩ ∧
    (s.rf A.timeCtl 4 4 = 1 → (ptpOut s event m).udp = none) ∧
    (s.rf A.timeCtl 4 4 = 0 → (ptpOut s event m).udp = some ⟨s.ptp.ip, 0xE0000181, if event then 319 else 320, 1, if event then s.ptp.dscp.1 else s.ptp.dscp.2⟩)) ∧
  (∀ s : State, s.ptpPort = 5 →
    exec .announceInterval s = .next { s with ptp := { s.ptp with
      seqAnn := (s.ptp.seqAnn + 1) % 65536, sent := [ptpOut s false (.announce s.ptp.seqAnn (ownSet s))] } }) ∧
  (∀ (h : PtpHead) (d : AnnounceSet) (s : State), ptpHears s h = true → h.src ≠ s.ptp.clk → d.steps.toNat < 255 → s.ptp.foreign = [] →
    exec (.ptpAnnounce h d) s = .next { s with ptp := { s.ptp with foreign := [⟨{ d with src := h.src, srcPort := h.srcPort }, 1⟩] } }) ∧
  (∀ (h : PtpHead) (d : AnnounceSet) (f : Foreign) (s : State), ptpHears s h = true → h.src ≠ s.ptp.clk → d.steps.toNat < 255 → s.ptp.foreign = [f] →
    f.data.src = h.src → f.data.srcPort = h.srcPort → 1 ≤ f.n → masterCapable s = false → s.ptp.master = none →
    ∃ t, exec (.ptpAnnounce h d) s = .next t ∧ t.ptp.master = some (h.src, h.srcPort) ∧ t.ptpPort = 2 ∧
      t.loHi A.timeMasterLo A.timeMasterHi 32 = h.src.toNat ∧ t.ptp.foreign = [⟨{ d with src := h.src, srcPort := h.srcPort }, f.n + 1⟩] ∧
      t.servo = (if s.servo = 0 ∧ s.timeMode ≠ 0 then 1 else s.servo) ∧ t.tod = s.tod ∧ t.hbm = s.hbm ∧ t.fab = s.fab ∧ t.rast = s.rast) ∧
  (∀ s : State, s.ptpPort ∈ [1, 2, 3, 6] →
    ∃ t, exec .announceReceiptTimeout s = .next t ∧ t.ptp.foreign = [] ∧ t.ptp.master = none ∧ t.ptpPort = (if masterCapable s then 5 else 1) ∧
      t.servo = (if s.servo = 1 ∨ s.servo = 2 then 3 else s.servo) ∧ t.tod = s.tod ∧ t.hbm = s.hbm ∧ t.fab = s.fab ∧ t.rast = s.rast) ∧
  (∀ s : State, s.servo = 3 →
    ∃ t, exec .holdoverExpiry s = .next t ∧ t.servo = 0 ∧ t.timeUsable = false ∧ t.tod = s.tod ∧ t.hbm = s.hbm ∧ t.fab = s.fab ∧ t.rast = s.rast ∧
      ∀ a, a ≠ A.timeStat → t.reg a = s.reg a)

/-- The 25GBASE-R port (R453, R458): as EN goes to 1 the port reads its addresses, its identity and its tag, and forgets masters; as the link changes the PTP port starts again; ARP and echo requests to its address are answered and other frames are not, nor is one without the tag that the port asks for; ACCEPT
is set for the next measurement. -/
def Obligations.EthernetPort : Prop :=
  (∀ (p : Fin 4) (w : Word) (s : State), Served s p A.timeEthCtl → p.val = s.owner → ¬(fld w 1 1 = 1 ∧ (fld w 27 16 = 0 ∨ fld w 27 16 = 4095)) →
    fld w 0 0 = 1 → s.rf A.timeEthCtl 0 0 = 0 →
    ∃ t, exec (.timeEthEn p w) s = .next t ∧ OnlyPtp s t [A.timeEthCtl, A.timeStat] ∧
      t.reg A.timeEthCtl = BitVec.ofNat 32 (fld w 1 0 + fld w 6 4 * 2 ^ 4 + fld w 27 16 * 2 ^ 16) ∧
      t.ptp.mac.toNat = (s.reg A.timeMacLo).toNat + s.rf A.timeMacHi 15 0 * 2 ^ 32 ∧ t.ptp.ip = s.reg A.timeIpv4 ∧
      t.ptp.clk.toNat = (s.reg A.timeClkidLo).toNat + (s.reg A.timeClkidHi).toNat * 2 ^ 32 ∧
      t.ptp.vlan = (if fld w 1 1 = 1 then some (BitVec.ofNat 12 (fld w 27 16), BitVec.ofNat 3 (fld w 6 4)) else none) ∧
      t.ptp.dscp = (BitVec.ofNat 6 (s.rf A.timeDscp 5 0), BitVec.ofNat 6 (s.rf A.timeDscp 13 8)) ∧
      t.ptp.foreign = [] ∧ t.ptp.master = none ∧
      (t.ptp.mac.toNat / 2 ^ 40 % 2 = 1 ∨ t.ptp.clk = 0 ∨ s.timeMode = 0 ∨ s.timeMode = 3 → t.ptpPort = 0)) ∧
  (∀ (up : Bool) (s : State), s.rf A.timeEthCtl 0 0 = 1 → s.rf A.timeEthStat 0 0 ≠ b2n up →
    ∃ t, exec (.ethLinkChange up) s = .next t ∧ (up = true ∨ s.timeMode = 3 → OnlyPtp s t [A.timeEthStat, A.timeStat]) ∧
      t.servo = (if up = false ∧ s.timeMode ≠ 3 ∧ (s.servo = 1 ∨ s.servo = 2) then 3 else s.servo) ∧ t.tod = s.tod ∧ t.rf A.timeEthStat 0 0 = b2n up ∧
      t.ptpPort = (if ptpOn s then (if up then 1 else 7) else 0) ∧ t.ptp.master = none ∧ t.ptp.foreign = []) ∧
  (∀ (s : State) (tag : Option (BitVec 12)) (f : EthFrame), s.rf A.timeEthCtl 0 0 = 1 → tag = s.ptp.vlan.map (fun v => v.1) →
    ∃ out, exec (.nonPtpFrame ⟨tag, f⟩) s = .next { s with ptp := { s.ptp with sent := out } } ∧
      (∀ ip mac from', f = .arp ip mac from' → out = if ip = s.ptp.ip then [ethOut s mac none none (.arpReply mac from')] else []) ∧
      (∀ dst mac from' data, f = .echo dst mac from' data → out = if dst = s.ptp.ip then [ethOut s mac none none (.echoReply mac from' data)] else []) ∧
      (f = .other → out = [])) ∧
  (∀ (s : State) (tag : Option (BitVec 12)) (f : EthFrame), tag ≠ s.ptp.vlan.map (fun v => v.1) → exec (.nonPtpFrame ⟨tag, f⟩) s = .next s) ∧
  (∀ (p : Fin 4) (s : State), Served s p A.timeCtl → p.val = s.owner →
    ∃ t, exec (.accept p) s = .next t ∧ OnlyRegs s t [A.timeCtl] ∧ t.rf A.timeCtl 31 31 = 1 ∧ t.rf A.timeCtl 30 0 = s.rf A.timeCtl 30 0)

/-! ### Composition, the output link and the display input -/

namespace Sys2Proof.Machine

/-- From s to t only the output's own state changed, and register words of a list. -/
abbrev OnlyOut (s t : State) (regs : List Nat) : Prop := t = { s with out := t.out, regs := t.regs } ∧ ∀ a, a ∉ regs → t.reg a = s.reg a

/-- From s to t only the display input's own state changed. -/
abbrev OnlyInput (s t : State) : Prop := t = { s with inp := t.inp }

end Sys2Proof.Machine

/-- Samples and blending (R389, R433, R436): normalising to 16 bits keeps order and takes the smallest and the largest code to 0 and 65,535; the alpha blend gives the layer at full alpha, the pixel beneath at none, and something between at any other;
an output code stays in the range of its depth. -/
def Sys2Proof.Stated.CompositionArithmetic : Prop :=
  (∀ bits v : Nat, 8 ≤ bits → bits ≤ 16 → v < 2 ^ bits →
    normSample bits v ≤ 65535 ∧ normSample bits 0 = 0 ∧ normSample bits (2 ^ bits - 1) = 65535 ∧ ∀ u, u < v → normSample bits u < normSample bits v) ∧
  (∀ a pa x d : Nat, a ≤ 65535 → x ≤ 65535 → d ≤ 65535 →
    blend1 1 65535 pa x d = x ∧ blend1 1 0 pa x d = d ∧ min x d ≤ blend1 1 a pa x d ∧ blend1 1 a pa x d ≤ max x d ∧ blend1 0 a pa x d = x ∧
    blend1 2 a pa x d ≤ 65535) ∧
  (∀ (bo den : Nat) (num : Int), outCode bo num den < 2 ^ bo) ∧
  (∀ (s : State) (l : Nat) (d : Nat × Nat × Nat), blendLayer s l none d = d)

/-- Scan-out of an active line (R410, R411, R436, R442): where nothing read is poisoned, the line sends the codes of its composed pixels over the ranges that are sent, the signature of the picture runs on over them, and nothing outside the output
changes; with DSC it sends the chunks of its slices, whose bits no rule gives; a line of the one enabled layer whose segments are poisoned underruns with cause 1. In a pause the background colour is sent (R416; each such line is taken as an
even one, the model's choice, log 68). -/
def Sys2Proof.Stated.ScanoutLines : Prop :=
  (∀ s : State, s.rast.line < s.rast.linesActive → s.rast.paused = false → s.composing = true → s.fab.loft.marks = [] → s.fab.loft.flips = [] →
    (∀ g ∈ s.out.scanned, segPoisoned s g = false) → (∀ l, l < 8 → (l, s.rast.frame.toNat, s.rast.line) ∉ s.out.psn) →
    let codes := (List.range s.hact).map (fun x => outCodes s (composePixel s s.rast.line x))
    ∃ t, exec .scanoutLineRead s = .next t ∧ OnlyOut s t [] ∧
      t.out = { s.out with line := t.out.line, slice := t.out.slice, sig := t.out.sig, crc := t.out.crc } ∧
      (s.rf A.rastOutCtl 10 10 = 0 → t.out.slice = s.out.slice ∧ t.out.line = (sentRanges s s.rast.line).map (fun r =>
        (r.1, (((codes.drop r.1).take (r.2 - r.1)).zipIdx).flatMap (fun c => sentCodes s s.rast.line (r.1 + c.2) c.1)))) ∧
      (s.rf A.rastOutCtl 10 10 = 1 →
        t.out.line = t.out.slice.map (fun e => (e.1, (Config.dscChunk (dscPps s) e.2).map (fun (b : Byte) => b.toNat))) ∧
        (s.rast.line % max 1 (s.rf A.rastDsc 28 16) = 0 → t.out.slice = ((sentRanges s s.rast.line).flatMap (slicesOf s)).map (fun r =>
          (r.1, (((codes.drop r.1).take (r.2 - r.1)).zipIdx).flatMap (fun c => sentCodes s s.rast.line (r.1 + c.2) c.1)))) ∧
        (s.rast.line % max 1 (s.rf A.rastDsc 28 16) ≠ 0 → t.out.slice.map (fun e => e.1) = ((sentRanges s s.rast.line).flatMap (slicesOf s)).map (fun r => r.1))) ∧
      smGet 0 t.out.sig 16 = crc64 (smGet 0 s.out.sig 16) (sigBytes codes)) ∧
  (∀ (s : State) (l : Nat), s.rast.line < s.rast.linesActive → s.rast.paused = false → s.composing = true → l < 8 →
    s.rf (A.compLayerCtl l) 0 0 = 1 → s.rf (A.compLayerCtl l) 1 1 = 1 → (∃ g ∈ s.out.scanned, g.layer = l ∧ segPoisoned s g = true) →
    ∃ t, exec .scanoutLineRead s = .next t ∧ t.layerOff l s.rast.frame.toNat s.rast.line = true ∧ t.hbm = s.hbm ∧ t.fab.loft = s.fab.loft ∧ t.rast = s.rast) ∧
  (∀ s : State, s.rast.paused = false → s.rast.linesActive ≤ s.rast.line → exec .scanoutLineRead s = .next s) ∧
  (∀ s : State, s.rast.paused = true → s.rf A.rastOutCtl 0 0 = 1 → s.rf A.rastSrCtl 8 8 = 0 → s.rast.suspended = false → s.linkLive = true →
    s.rf A.rastOutCtl 10 10 = 0 →
    exec .scanoutLineRead s = .next { s with out := { s.out with line := (sentRanges s 0).map (fun r =>
      (r.1, ((((List.replicate s.hact (outCodes s s.background)).drop r.1).take (r.2 - r.1)).zipIdx).flatMap (fun c => sentCodes s 0 (r.1 + c.2) c.1))) } }) ∧
  (∀ s : State, s.rast.paused = true → (s.rf A.rastOutCtl 0 0 = 0 ∨ s.rf A.rastSrCtl 8 8 = 1 ∨ s.rast.suspended = true ∨ s.linkLive = false) →
    exec .scanoutLineRead s = .next s)

/-- Composition arithmetic and scan-out (R389, R410, R411, R433, R436, R442). -/
def Obligations.Composition : Prop := Sys2Proof.Stated.CompositionArithmetic ∧ Sys2Proof.Stated.ScanoutLines


/-- The fetch of a memory-plane layer (R428, R439, R440): the sectors that the line two lines on needs are read once each from HBM, those that no visible column reaches being skipped, and nothing else changes. The fetch for a line of the next frame goes by what that frame will find in force. -/
def Sys2Proof.Stated.LayerFetches : Prop :=
  ∀ (s : State) (l : Fin 8) (f : Frame) (n : Nat), fetchedLine s = some (f, n) → (viewOf s f).reading = true → memLayerOn (viewOf s f) f l.val n = true →
    n < (viewOf s f).rast.linesActive → s.hbm.marks = [] → s.hbm.flips = [] →
    let v := viewOf s f
    let pl := placeOf v l.val
    pl.dy ≤ n → n < pl.dy + pl.dh →
    ∃ t, exec (.layerFetch l) s = .next t ∧ t = { s with out := { s.out with fetched := t.out.fetched } } ∧
      t.out.fetched = s.out.fetched ++ (uniq (fetchSectors pl (n - pl.dy))).map (fun sec =>
        if hasOccluder v f l.val n = true ∧ sec ∉ seenSectors v f l.val n pl then ⟨l.val, f, n, sec, true, []⟩
        else ⟨l.val, f, n, sec, false, (List.range 64).map (fun i => (s.hbmByte false (64 * sec + i)).1)⟩)

/-- Publication (R444, R445, R447): in a composed frame each region shows its signature with VALID, or 0 and no VALID where it is off or not inside the picture, MISMATCH follows the comparison where it is asked for, and the frame signature is shown; in a
frame that is not composed VALID is 0, MISMATCH stays, and so does the result of a valid region. That a region with EN 0 shows and compares RES 0 in a composed frame is the model's choice (log 44). The accumulators start anew, and memories and the fabric are unchanged. -/
def Sys2Proof.Stated.SignaturePublication : Prop :=
  ∀ s : State, ∃ t, exec .signaturePublish s = .next t ∧ t.out.sig = [] ∧ t.out.crc = [] ∧ t.hbm = s.hbm ∧ t.fab = s.fab ∧ t.rast = s.rast ∧
    (s.composing = true → t.loHi A.compFrzSigLo A.compFrzSigHi 32 = (smGet 0 s.out.sig 16).toNat ∧ t.out.prevSig = some (smGet 0 s.out.sig 16)) ∧
    ∀ n, n < 16 →
      let on : Prop := s.composing = true ∧ sigValid s n = true ∧ s.rf (A.compSigCtl n) 0 0 = 1
      t.rf (A.compSigStat n) 31 16 = s.rast.frame.toNat % 65536 ∧
      (on → t.rf (A.compSigStat n) 0 0 = 1 ∧ t.loHi (A.compSigResLo n) (A.compSigResHi n) 32 = (smGet 0 s.out.sig n).toNat) ∧
      (¬ on → t.rf (A.compSigStat n) 0 0 = 0) ∧
      (s.composing = true → ¬ on → t.loHi (A.compSigResLo n) (A.compSigResHi n) 32 = 0) ∧
      (s.composing = true → s.rf (A.compSigCtl n) 1 1 = 1 →
        (t.rf (A.compSigStat n) 1 1 = 0 ↔ sigValid s n = true ∧
          (s.rf (A.compSigCtl n) 0 0 = 1 → (smGet 0 s.out.sig n).toNat = s.loHi (A.compSigExpLo n) (A.compSigExpHi n) 32) ∧
          (s.rf (A.compSigCtl n) 0 0 = 0 → s.loHi (A.compSigExpLo n) (A.compSigExpHi n) 32 = 0))) ∧
      (s.composing = true → s.rf (A.compSigCtl n) 1 1 = 0 → t.rf (A.compSigStat n) 1 1 = s.rf (A.compSigStat n) 1 1) ∧
      (s.composing = false → t.rf (A.compSigStat n) 1 1 = s.rf (A.compSigStat n) 1 1) ∧
      (s.composing = false → sigValid s n = true → t.reg (A.compSigResLo n) = s.reg (A.compSigResLo n) ∧ t.reg (A.compSigResHi n) = s.reg (A.compSigResHi n)) ∧
      (s.composing = false → sigValid s n = false → t.loHi (A.compSigResLo n) (A.compSigResHi n) 32 = 0)

/-- Memory-plane fetches and signature publication (R428, R439, R440, R444, R445, R447). -/
def Obligations.FetchesAndSignatures : Prop := Sys2Proof.Stated.LayerFetches ∧ Sys2Proof.Stated.SignaturePublication


/-- The flip timestamp and the watch snapshot (R155, R417): the flip registers show the frame, the time of day of its first pixel at the output balls, and VIRT where no pixel of the frame is sent; the snapshot copies each watch's figures of the frame before, whose
gathering ends, and the gathering of the frame in progress goes on (R153). -/
def Obligations.FlipAndWatch : Prop :=
  (∀ s : State, ∃ t, exec .flip s = .next t ∧
    t.reg A.rastFlipFLo = BitVec.ofNat 32 s.rast.frame.toNat ∧ t.rf A.rastFlipFHi 15 0 = s.rast.frame.toNat / 2 ^ 32 ∧
    t.rf A.rastFlipFHi 31 31 = (if s.reading = true ∧ (∃ n, n < s.rast.linesActive ∧ sentRanges s n ≠ []) then 0 else 1) ∧
    (let d := s.rast.tod0.advance (outDelay s)
     t.reg A.rastFlipSLo = BitVec.ofNat 32 d.sec ∧ t.reg A.rastFlipSHi = BitVec.ofNat 32 (d.sec / 2 ^ 32) ∧ t.reg A.rastFlipNs = BitVec.ofNat 32 d.ns) ∧
    (∀ a, a ∉ [A.rastFlipFLo, A.rastFlipFHi, A.rastFlipSLo, A.rastFlipSHi, A.rastFlipNs] → t.reg a = s.reg a) ∧
    (s.rf A.rastCommit 30 30 = 0 → t = { s with regs := t.regs }) ∧ t.hbm = s.hbm ∧ t.fab = s.fab ∧ t.rast = s.rast) ∧
  (∀ s : State, s.fab.side < 2 → ∃ t, exec .watchSnapshot s = .next t ∧
    t.fab = { s.fab with snapOwn := t.fab.snapOwn, gather := t.fab.gather, gatherOwn := t.fab.gatherOwn } ∧
    (∀ k, k < 512 → smGet 0 t.fab.snapOwn k = smGet 0 s.fab.gatherOwn (512 * (1 - s.fab.side) + k) ∧
      smGet 0 t.fab.gatherOwn (512 * (1 - s.fab.side) + k) = 0 ∧ smGet 0 t.fab.gatherOwn (512 * s.fab.side + k) = smGet 0 s.fab.gatherOwn (512 * s.fab.side + k)) ∧
    (∀ k, k < 8 → smGet WatchFig.none t.fab.gather (8 * (1 - s.fab.side) + k) = WatchFig.none ∧
      smGet WatchFig.none t.fab.gather (8 * s.fab.side + k) = smGet WatchFig.none s.fab.gather (8 * s.fab.side + k)) ∧
    t.hbm = s.hbm ∧ t.rast = s.rast ∧
    ∀ n, n < 8 → (let g := smGet WatchFig.none s.fab.gather (8 * (1 - s.fab.side) + n)
      t.loHi (A.sysWatchNLo n) (A.sysWatchNHi n) 16 = g.n % 2 ^ 48 ∧ (t.reg (A.sysWatchSat n)).toNat = min g.sat (2 ^ 32 - 1) ∧
      (t.reg (A.sysWatchUfz n)).toNat = min g.ufz (2 ^ 32 - 1) ∧ t.rf (A.sysWatchAmax n) 15 0 = g.amax.toNat))

/-- The output link (R384, R405, R610, R611): a lost sink stops the output, voids a training that has completed since, and posts event 0x020D, a hot-plug or a retry starts training, and completed training keeps what the sink is and the lane order and polarity that it found; passages, memories and the raster go on. -/
def Obligations.OutputLink : Prop :=
  (∀ s : State, s.rf A.rastOutCtl 0 0 = 1 → (s.out.lost = false ∨ s.out.trained = true ∨ ∃ x, s.rast.train = some x ∧ x.done = true) →
    exec .sinkLost s = .next (({ s with
      out := { s.out with lost := true, line := [], training := false, trained := false }
      rast := { s.rast with train := s.rast.train.map (fun (x : Train) => { x with done := false }) } }).post [s.owner] 0x020D [s.vF])) ∧
  (∀ s : State, s.rf A.rastOutCtl 0 0 = 1 → s.out.lost = true →
    exec .sinkHotPlug s = .next { s with out := { s.out with training := true } }) ∧
  (∀ s : State, s.rf A.rastOutCtl 0 0 = 1 → (s.out.shorted = true ∨ ∃ x, s.rast.train = some x ∧ x.late = true ∧ x.done = false) →
    exec .outputTrainingRetry s = .next { s with out := { s.out with training := true } }) ∧
  (∀ (k : Sink) (rev : Bool) (pol : BitVec 4) (s : State), s.rf A.rastOutCtl 0 0 = 1 → s.out.training = true →
    ∃ t, exec (.outputTrainingDone k rev pol) s = .next t ∧ t.out = { s.out with sink := some k, training := false, trained := true } ∧
      t.rf A.safeLanes 0 0 = b2n rev ∧ t.rf A.safeLanes 4 1 = pol.toNat ∧
      (s.out.shorted = true → t.rf A.safeEnv 8 5 = 0 ∧ t.rf A.safeEnv 9 9 = 0) ∧ (s.out.shorted = false → t.reg A.safeEnv = s.reg A.safeEnv) ∧
      (∀ a, a ∉ [A.safeLanes, A.safeEnv] → t.reg a = s.reg a) ∧ (rev = false → pol = 0 → t = { s with out := t.out, regs := t.regs, rast := t.rast }) ∧
      t.rast = { s.rast with train := s.rast.train.map (fun (x : Train) => { x with done := true }) } ∧ t.hbm = s.hbm ∧ t.fab = s.fab)

/-- Frames from the display input (R196, R197, R200, R393, R395 to R397): a frame starts into the back member of the bound pair, a frame pending there being lost and counted; when its last write has landed its samples stand there in packed planar layout and PENDING sets;
the registers show the signal that is received, as far as the input takes it (R383, R392). MATCH is judged again as a frame starts, by the splits that it takes (R396, R649). -/
def Sys2Proof.Stated.InputFrames : Prop :=
  (∀ s : State, let n := s.rf A.rastInCtl 7 4
    let u := takeSplits s
    s.rf A.rastInStat 1 0 = 3 →
    (u.rf A.rastInStat 2 2 = 1 ↔ inputMatch u = true) ∧ (∀ a, a ≠ A.rastInStat → u.reg a = s.reg a) ∧
    u.inp.xs = (List.range 8).map (fun k => s.reg (A.rastInXsplit k)) ∧ u.inp.ys = (List.range 8).map (fun k => s.reg (A.rastInYsplit k)) ∧
    u.hbm = s.hbm ∧ u.fab = s.fab ∧ u.rast = s.rast ∧ (u.rf A.rastInStat 2 2 = s.rf A.rastInStat 2 2 → OnlyInput s u) ∧
    (s.rf A.rastInCtl 0 0 = 1 → u.rf A.rastInStat 2 2 = 1 → s.ingressOn n = true →
      ∃ t, exec .inputFrameStart s = .next t ∧ t.inp = { u.inp with storing := true, pair := n } ∧
        (s.rf (A.rastPairStat n) 1 1 = 0 → OnlyInput u t) ∧
        (s.rf (A.rastPairStat n) 1 1 = 1 → t.rf (A.rastPairStat n) 1 1 = 0 ∧ t.rf (A.rastPairCnt n) 31 16 = min (s.rf (A.rastPairCnt n) 31 16 + 1) 65535 ∧
          t.rcd.dropMask = s.rcd.dropMask ||| 2 ^ n ∧ ∀ a, a ≠ A.rastPairStat n → a ≠ A.rastPairCnt n → t.reg a = u.reg a) ∧
        t.hbm = s.hbm ∧ t.fab = s.fab ∧ t.rast = s.rast) ∧
    (s.rf A.rastInCtl 0 0 = 0 ∨ u.rf A.rastInStat 2 2 = 0 ∨ s.ingressOn n = false → exec .inputFrameStart s = .next u)) ∧
  (∀ (px : List (List (BitVec 16))) (s : State), s.inp.storing = true → s.rf (A.rastPairCtl s.inp.pair) 2 2 = 0 → s.inp.pair < 16 →
    let width := s.rf A.rastInMeas 13 0
    let height := s.rf A.rastInMeas 28 16
    ∃ t, exec (.inputFrameStored px) s = .next t ∧ t.inp = { s.inp with storing := false } ∧ t.rf (A.rastPairStat s.inp.pair) 1 1 = 1 ∧
      t.fab = s.fab ∧ t.rast = s.rast ∧
      t.hbm = s.hbm.write (((packRect (s.reg A.rastInFmt) (bpcBits (s.rf A.rastInStat 14 12)) px width height 0 width 0 height).filter (fun q =>
        backBase s s.inp.pair + q.1 < userHbm)).map (fun q => (backBase s s.inp.pair + q.1, q.2, 0))) ∧
      (s.hbm.marks = [] → s.hbm.flips = [] → (∀ a, a ≠ A.rastPairStat s.inp.pair → t.reg a = s.reg a) ∧
        t = { s with inp := t.inp, regs := t.regs, hbm := t.hbm, rcd := { s.rcd with pairDone := t.rcd.pairDone } })) ∧
  (∀ (px : List (List (BitVec 16))) (s : State), s.inp.storing = true → s.rf (A.rastPairCtl s.inp.pair) 2 2 = 1 → s.inp.pair < 16 →
    ∃ t, exec (.inputFrameStored px) s = .next t ∧ t.inp.storing = false ∧ t.rf (A.rastPairStat s.inp.pair) 1 1 = 1 ∧ t.hbm = s.hbm ∧
      ∀ m x, m < 64 → x < 0x600000 → rowRole s m (x / 2 ^ 20) ≠ 2 → t.fab.loft.fetch (bayKey m x) = s.fab.loft.fetch (bayKey m x)) ∧
  (∀ x : InSignal, let y := acceptable x
    (y.link = true ↔ x.link = true ∧ x.rate.toNat ≤ 6 ∧ x.lanes.toNat ≤ 2) ∧
    (y.video = true ↔ x.video = true ∧ y.link = true ∧ x.bpc.toNat ≤ 4 ∧ 640 ≤ x.hact.toNat ∧ x.hact.toNat ≤ 7680 ∧ 480 ≤ x.vact.toNat ∧ x.vact.toNat ≤ 4320) ∧
    y = { x with link := y.link, video := y.video }) ∧
  (∀ (z : InSignal) (s : State), let x := acceptable z
    ∃ t, exec (.inputState z) s = .next t ∧
    t.rf A.rastInStat 0 0 = b2n x.link ∧ t.rf A.rastInStat 1 1 = b2n x.video ∧ t.rf A.rastInStat 3 3 = b2n x.dsc ∧ t.rf A.rastInStat 7 4 = x.rate.toNat ∧
    t.rf A.rastInStat 9 8 = x.lanes.toNat ∧ t.rf A.rastInStat 11 10 = x.enc.toNat ∧ t.rf A.rastInStat 14 12 = x.bpc.toNat ∧
    t.rf A.rastInMeas 13 0 = x.hact.toNat ∧ t.rf A.rastInMeas 28 16 = x.vact.toNat ∧
    (t.rf A.rastInStat 2 2 = 1 ↔ x.link = true ∧ x.video = true ∧ inputMatch t = true) ∧
    t.inp.storing = (s.inp.storing && decide (t.rf A.rastInStat 2 0 = 7)) ∧
    (∀ a, a ∉ [A.rastInStat, A.rastInMeas, A.safeLanes] → t.reg a = s.reg a) ∧ t.hbm = s.hbm ∧ t.fab = s.fab ∧ t.rast = s.rast)

/-- The sink that the input presents (R394, R638): with IN_HPD released an AUX request is answered, a DPCD write reaching only what a source may write and an EDID read giving the bytes of the registers from the segment and the offset on; EDID_UPD drives IN_HPD low, and its
release follows EN. -/
def Sys2Proof.Stated.InputSink : Prop :=
  (∀ (a : BitVec 20) (n : Fin 17) (s : State), s.inp.hpd = true →
    exec (.dpcdAccess (.dpcdRead a n)) s = .next { s with inp := { s.inp with reply := (List.range n.val).map (fun i => dpcdByte s (a.toNat + i)) } }) ∧
  (∀ (a : BitVec 20) (d : List Byte) (s : State), s.inp.hpd = true →
    ∃ t, exec (.dpcdAccess (.dpcdWrite a d)) s = .next t ∧ OnlyInput s t ∧ t.inp = { s.inp with dpcd := t.inp.dpcd, reply := [] } ∧
      ∀ k, smGet 0 t.inp.dpcd k = if dpcdWritable k ∧ a.toNat ≤ k ∧ k < a.toNat + d.length then d.getD (k - a.toNat) 0 else smGet 0 s.inp.dpcd k) ∧
  (∀ (n : Fin 17) (s : State), s.inp.hpd = true →
    exec (.dpcdAccess (.i2cRead 0x50 n)) s = .next { s with inp := { s.inp with
      reply := (List.range n.val).map (fun i => edidByte s (s.inp.segment * 256 + (s.inp.offset + i) % 256)),
      offset := (s.inp.offset + n.val) % 256 } }) ∧
  (∀ (b : Byte) (l : List Byte) (s : State), s.inp.hpd = true →
    exec (.dpcdAccess (.i2cWrite 0x30 (b :: l))) s = .next { s with inp := { s.inp with segment := b.toNat, reply := [] } } ∧
    exec (.dpcdAccess (.i2cWrite 0x50 (b :: l))) s = .next { s with inp := { s.inp with offset := b.toNat, reply := [] } }) ∧
  (∀ (r : AuxReq) (s : State), s.inp.hpd = false → exec (.dpcdAccess r) s = .next s) ∧
  (∀ (p : Fin 4) (s : State), Served s p A.rastInCtl → p.val = s.owner →
    exec (.edidUpd p) s = .next { s with inp := { s.inp with hpd := false, pulse := true, segment := 0, offset := 0 } }) ∧
  (∀ s : State, s.inp.pulse = true →
    exec .inHpdRelease s = .next { s with inp := { s.inp with hpd := decide (s.rf A.rastInCtl 0 0 = 1), pulse := false } })

/-- The display input: its frames, and the sink that it presents (R196, R197, R200, R393 to R397). -/
def Obligations.InputSide : Prop := Sys2Proof.Stated.InputFrames ∧ Sys2Proof.Stated.InputSink


/-! ### Hosts: registers, commits, event queues -/

namespace Sys2Proof.Machine

/-- A read of a register by a port of the strapped mode is served. -/
abbrev ServedRead (s : State) (p : Fin 4) (a : Nat) : Prop := s.ports.contains p.val = true ∧ s.way p.val a true = .served

/-- From s to t only the registers of a list in port p's instance changed. -/
abbrev OnlyPregs (s t : State) (p : Nat) (l : List Nat) : Prop :=
  t = { s with pregs := t.pregs } ∧ ∀ q a, a < 2 ^ 24 → ¬(q = p ∧ a ∈ l) → t.preg q a = s.preg q a

/-- Port p is answered with some bytes, and no other port. -/
abbrev Answered (s t : State) (p : Nat) (bs : List Byte) : Prop :=
  smGet ([], false) t.answer p = (bs, false) ∧ ∀ q, q ≠ p → smGet ([], false) t.answer q = smGet ([], false) s.answer q

/-- The bits of a register that a write of port p stores at once, and those that it clears: none that the part sets in that cycle (R13 to R15, R638). -/
def storedBits (s : State) (p a : Nat) (r : RegRow) : Word := BitVec.ofNat 32 r.rw &&& ~~~(BitVec.ofNat 32 r.shadow) &&& writeMask s p a
def clearedBits (s : State) (p a : Nat) (r : RegRow) (w : Word) : Word := BitVec.ofNat 32 r.w1c &&& writeMask s p a &&& w &&& ~~~(s.w1cNow (if r.perPort then p * 2 ^ 24 + a else a))

/-- The bits of a shadowed register that a write of port p sets aside for its GO (R399). -/
def waitingBits (s : State) (p a : Nat) (r : RegRow) : Word := BitVec.ofNat 32 r.shadow &&& writeMask s p a

end Sys2Proof.Machine

/-- Register writes (R13 to R15, R399, R532, R638), as the part stands at the cycle at which they land: of a register without an action of its own, the RW bits that the port may write and that are not shadowed take the value, each 1 of a W1C bit clears it unless the
part sets the bit in that cycle, every other bit and every other register stays, and shadowed bits wait for the port's GO; a write that is not a whole aligned word is discarded and sets BADWR; a write where no register stands does nothing. -/
def Sys2Proof.Stated.RegisterWrites : Prop :=
  ∀ (p : Fin 4) (a : BitVec 24) (w : Word) (be : BitVec 4) (c : BitVec 16) (b : BootRun) (s0 : State),
    let s := settleTo c.toNat 0 s0
    s0.ports.contains p.val = true →
    (¬(be = 0xF#4 ∧ a.toNat % 4 = 0) → exec (.registerWrite p a w be c b) s0 = .next (s.hostErr p 3)) ∧
    (s.way p.val a.toNat false = .served → a.toNat % 4 = 0 → a.toNat < 0xF00000 → regRow? a.toNat = none → exec (.registerWrite p a w 0xF#4 c b) s0 = .next s) ∧
    (∀ r : RegRow, s.way p.val a.toNat false = .served → a.toNat % 4 = 0 → a.toNat < 0xF00000 → ¬(0x101000 ≤ a.toNat ∧ a.toNat < 0x105000) → regRow? a.toNat = some r →
      deadSpar s a.toNat = false → wordOk a.toNat w = true → (writeMask s p a.toNat = 0 ∨ wholeAction b p a.toNat c.toNat w s = none) →
      bitActions p a.toNat c.toNat w s = s →
      ∃ t, exec (.registerWrite p a w 0xF#4 c b) s0 = .next t ∧ t = { s with regs := t.regs, pregs := t.pregs, pends := t.pends } ∧
        instanceOf t p a.toNat r.perPort =
          ((instanceOf s p a.toNat r.perPort &&& ~~~(storedBits s p a.toNat r)) ||| (w &&& storedBits s p a.toNat r)) &&& ~~~(clearedBits s p a.toNat r w) ∧
        (∀ x, x ≠ a.toNat → t.reg x = s.reg x) ∧ (∀ q x, x < 2 ^ 24 → ¬(q = p.val ∧ x = a.toNat) → t.preg q x = s.preg q x) ∧
        (r.perPort = true → t.regs = s.regs) ∧ (r.perPort = false → t.pregs = s.pregs) ∧
        (waitingBits s p a.toNat r = 0 → t.pends = s.pends) ∧
        (waitingBits s p a.toNat r ≠ 0 → ∃ x ∈ t.pends, x.port = p.val ∧ x.addr = a.toNat ∧
          x.value &&& waitingBits s p a.toNat r = w &&& waitingBits s p a.toNat r ∧ waitingBits s p a.toNat r &&& ~~~x.mask = 0) ∧
        (∀ x, (x.port ≠ p.val ∨ x.addr ≠ a.toNat) → (x ∈ t.pends ↔ x ∈ s.pends)))

/-- Register reads (R13, R531, R532, R535, R643): a read that latches nothing answers the port with the register's value and changes nothing else; a read of RAST_FRAME_LO captures the high word and the position with it, and the later reads of these give what was captured; HOST_FLUSH
gives the count of BAR2 writes, behind the accesses of the port that wait for their stack window; where no register stands the answer is 0. -/
def Sys2Proof.Stated.RegisterReads : Prop :=
  (∀ (p : Fin 4) (a : BitVec 24) (s : State), let x := a.toNat - a.toNat % 4
    ServedRead s p x → latches x = [] → (x = A.hostFlush → ∀ e ∈ s.bar2Q, e.1 ≠ p.val) →
    ∃ t, exec (.latchingRead p a) s = .next t ∧ t = { s with answer := t.answer } ∧ Answered s t p (leBytes 4 (readValue s p x).toNat)) ∧
  (∀ (p : Fin 4) (s : State), ServedRead s p A.rastFrameLo →
    ∃ t, exec (.latchingRead p (BitVec.ofNat 24 A.rastFrameLo)) s = .next t ∧ Answered s t p (leBytes 4 (s.rast.frame.toNat % 2 ^ 32)) ∧
      t = { s with answer := t.answer, acc := { s.acc with latch := t.acc.latch } } ∧
      ∀ u : State, u.acc.latch = t.acc.latch →
        readValue u p A.rastFrameHi = BitVec.ofNat 32 (s.rast.frame.toNat / 2 ^ 32) ∧ fld (readValue u p A.rastPos) 12 0 = s.rast.line % 2 ^ 13) ∧
  (∀ (p : Fin 4) (s : State), ServedRead s p A.hostFlush → (∃ e ∈ s.bar2Q, e.1 = p.val) → exec (.hostFlush p) s = .next (bar2Take p .flush s)) ∧
  (∀ (p : Fin 4) (s : State), ServedRead s p A.hostFlush → (∀ e ∈ s.bar2Q, e.1 ≠ p.val) →
    ∃ t, exec (.hostFlush p) s = .next t ∧ t = { s with answer := t.answer } ∧ Answered s t p (leBytes 4 (s.preg p A.hostFlush).toNat)) ∧
  (∀ (s : State) (p a : Nat), a < 0xF00000 → regRow? a = none → readValue s p a = 0)

/-- GO (R399, R400, R639): it commits the port's writes that wait, of each the bits that the port may still write, for the next frame where it lands by the commit cut line; later it commits them for the frame after, and the late commit is recorded for the port, marked in the frame's
record and reported. In a pause it commits for the next frame, but behind a late one for the same frame as that (R400; the model's choice, log 15). -/
def Sys2Proof.Stated.Commits : Prop :=
  ∀ (p : Fin 4) (c : BitVec 16) (s : State), Served s p A.rastCommit →
    let kept (f : Frame) := (s.pends.filter (fun x => decide (x.port = p.val))).filterMap (fun x =>
      if x.mask &&& writeMask s p x.addr = 0 then none else some { x with mask := x.mask &&& writeMask s p x.addr, target := f })
    let rest := s.pends.filter (fun x => decide (x.port ≠ p.val))
    ((s.rast.paused = false ∧ byCut s c.toNat = true) ∨ (s.rast.paused = true ∧ ∀ x ∈ s.commits, x.target ≠ s.rast.frame + 2) →
      exec (.commitGo p c) s = .next { s with pends := rest, commits := s.commits ++ kept (s.rast.frame + 1) }) ∧
    (s.rast.paused = true → (∃ x ∈ s.commits, x.target = s.rast.frame + 2) →
      exec (.commitGo p c) s = .next { s with pends := rest, commits := s.commits ++ kept (s.rast.frame + 2) }) ∧
    (s.rast.paused = false → byCut s c.toNat = false →
      ∃ t, exec (.commitGo p c) s = .next t ∧ t.pends = rest ∧ t.commits = s.commits ++ kept (s.rast.frame + 2) ∧ t.rcd = { s.rcd with evt := s.rcd.evt ||| 1 } ∧
        t.preg p A.rastCommitLateLo = BitVec.ofNat 32 s.rast.frame.toNat ∧ t.prf p A.rastCommitLateHi 15 0 = s.rast.frame.toNat / 2 ^ 32 ∧
        t.prf p A.rastCommitLateHi 31 16 = min (s.prf p A.rastCommitLateHi 31 16 + 1) 65535 ∧
        t = { s with pends := t.pends, commits := t.commits, rcd := t.rcd, pregs := t.pregs, host := t.host, hostBad := t.hostBad, ev := t.ev })

/-- A register write by a port, and the GO that commits what waits (R13, R14, R399, R400, R532, R638, R639). -/
def Obligations.RegisterWritesAndCommits : Prop := Sys2Proof.Stated.RegisterWrites ∧ Sys2Proof.Stated.Commits


/-- The timeout of a stalled access (R44, R566): at a domain that is still stopped a read completes with all ones and a write is discarded, TIMEOUT and the port's count record it, and the crossing is wedged; where the domain runs by then the access is served. -/
def Sys2Proof.Stated.AccessTimeouts : Prop :=
  ∀ (p : Fin 4) (c : BitVec 16) (b : BootRun) (s : State) (e : Stalled), s.ports.contains p.val = true →
    s.acc.stalled.find? (fun e => decide (e.port = p.val)) = some e →
    let u := { s with acc := { s.acc with stalled := s.acc.stalled.erase e } }
    (∀ k, k < 14 → s.way p e.addr e.value.isNone = .stalled k →
      ∃ t, exec (.accessTimeout p c b) s = .next t ∧ t.acc = u.acc ∧ bitAt (t.preg p A.hostErr) 0 = true ∧
        t.prf p A.hostTimeoutCnt 15 0 = min (s.prf p A.hostTimeoutCnt 15 0 + 1) 65535 ∧ bitAt (t.reg A.sysXingWedged) k = true ∧
        (e.value = none → Answered s t p [0xFF, 0xFF, 0xFF, 0xFF]) ∧ (e.value ≠ none → t.answer = s.answer) ∧
        (∀ a, a ≠ A.sysXingWedged → t.reg a = s.reg a) ∧ t.hbm = s.hbm ∧ t.fab = s.fab ∧ t.rast = s.rast) ∧
    (s.way p e.addr e.value.isNone = .served → e.value = none → exec (.accessTimeout p c b) s = .next (takeRead p e.addr u)) ∧
    (∀ w, s.way p e.addr e.value.isNone = .served → e.value = some w → exec (.accessTimeout p c b) s = .next (landWrite b p e.addr c.toNat w u))

/-- Register reads, and the timeout of an access that stalls (R13, R44, R531, R532, R535, R566, R643). -/
def Obligations.ReadsAndTimeouts : Prop := Sys2Proof.Stated.RegisterReads ∧ Sys2Proof.Stated.AccessTimeouts


/-- Delivery of an event to a port's queue (R556): with drops already told, into a queue that is enabled, not full and whose port may write, the 32-byte entry stands in host memory at the tail, the tail advances and its PHASE inverts as it wraps; otherwise nothing is written there and the drop is
counted. An MSI-X vector that nothing masks writes its message; one that is masked becomes pending (R531, R557). -/
def Sys2Proof.Stated.EventDelivery : Prop :=
  (∀ (s : State) (p code : Nat) (merged : Bool) (l c : Nat) (payload : List Byte), smGet 0 s.ev.dropsSince p = 0 → s.eqOpen p = true →
    s.prf p A.hostEqCtl 7 4 ≤ 10 → s.prf p A.hostEqTail 15 0 < s.eqSize p →
    let tail := s.prf p A.hostEqTail 15 0
    let phase := s.prf p A.hostEqTail 16 16
    let entry := leBytes 2 code ++ [BitVec.ofNat 8 (phase + 2 * b2n merged), 0] ++ leBytes 6 s.rast.frame.toNat ++ leBytes 2 l ++ leBytes 2 c ++ [0, 0] ++
      (payload ++ List.replicate 16 0).take 16
    let base := (s.preg p A.hostEqBaseLo).toNat + (s.preg p A.hostEqBaseHi).toNat * 2 ^ 32 + 32 * tail
    let t := (s.eqDeliver p code merged l c payload).1
    (s.eqDeliver p code merged l c payload).2 = false ∧
    (∀ i, i < 32 → t.hostByte p (base + i) = entry.getD i 0) ∧
    (∀ q a, a < 2 ^ 64 → ¬(q = p ∧ ∃ i, i < 32 ∧ a = (base + i) % 2 ^ 64) → t.hostByte q a = s.hostByte q a) ∧
    t.prf p A.hostEqTail 15 0 = (tail + 1) % s.eqSize p ∧ t.prf p A.hostEqTail 16 16 = (if tail + 1 = s.eqSize p then 1 - phase else phase) ∧
    t = { s with pregs := t.pregs, host := t.host, hostBad := t.hostBad }) ∧
  (∀ (s : State) (p code : Nat) (merged : Bool) (l c : Nat) (payload : List Byte), s.eqOpen p = false →
    let t := (s.eqDeliver p code merged l c payload).1
    (s.eqDeliver p code merged l c payload).2 = true ∧ (t.preg p A.hostEqDrop).toNat = min ((s.preg p A.hostEqDrop).toNat + 1) (2 ^ 32 - 1) ∧
    smGet 0 t.ev.dropsSince p = smGet 0 s.ev.dropsSince p + 1 ∧ t.preg p A.hostEqTail = s.preg p A.hostEqTail) ∧
  (∀ (s : State) (p v : Nat), v < 8 →
    let c := s.pcfg p
    (c.bme = true ∧ c.msixEn = true ∧ c.msixMask = false ∧ s.prf p (0xF0000C + 16 * v) 0 0 = 0 →
      s.signal p v = s.hostWrite p ((s.preg p (0xF00000 + 16 * v)).toNat + (s.preg p (0xF00004 + 16 * v)).toNat * 2 ^ 32)
        (leBytes 4 (s.preg p (0xF00008 + 16 * v)).toNat)) ∧
    (¬(c.bme = true ∧ c.msixEn = true ∧ c.msixMask = false ∧ s.prf p (0xF0000C + 16 * v) 0 0 = 0) →
      OnlyPregs s (s.signal p v) p [0xF01000] ∧ bitAt ((s.signal p v).preg p 0xF01000) v = true))

/-- What a port writes to its queue, its fences and its ring tails (R539, R544, R549, R556, R557, R564): HOST_EQ_CTL with a SIZE that is not reserved, HOST_EQ_HEAD, a fence counter, a tail of a slot of its own; vector 0 signals where an entry is new; merged pulses count as one event and the others in
MERGE. -/
def Sys2Proof.Stated.QueueRegisters : Prop :=
  (∀ (p : Fin 4) (v : Word) (s : State), Served s p A.hostEqCtl → smGet 0 s.ev.dropsSince p.val = 0 →
    (fld v 7 4 ≤ 10 → (fld v 0 0 = 0 ∨ s.acc.bootTold.contains p.val = true) →
      ∃ t, exec (.eqEnable p v) s = .next t ∧ OnlyPregs s t p [A.hostEqCtl] ∧ t.preg p A.hostEqCtl = BitVec.ofNat 32 (fld v 0 0 + fld v 19 4 * 2 ^ 4)) ∧
    (10 < fld v 7 4 → exec (.eqEnable p v) s = .next s)) ∧
  (∀ (p : Fin 4) (v : Word) (s : State), Served s p A.hostEqHead →
    exec (.eqHead p v) s = .next ((s.setPreg p A.hostEqHead (BitVec.ofNat 32 (fld v 15 0))).eqFlush p) ∧
    (smGet 0 s.ev.dropsSince p.val = 0 →
      ∃ t, exec (.eqHead p v) s = .next t ∧ OnlyPregs s t p [A.hostEqHead] ∧ t.preg p A.hostEqHead = BitVec.ofNat 32 (fld v 15 0))) ∧
  (∀ (s : State) (p : Nat), smGet 0 s.ev.dropsSince p ≠ 0 → s.eqOpen p = true →
    let t := s.eqFlush p
    smGet 0 t.ev.dropsSince p = 0 ∧ t = { s.eqPut p 0x0108 false s.rast.line 0 (leBytes 4 (smGet 0 s.ev.dropsSince p)) with ev := t.ev }) ∧
  (∀ (p : Fin 4) (s : State), s.ports.contains p.val = true →
    (s.prf p A.hostEqTail 16 0 ≠ smGet 0x10000 s.acc.eqSeen p.val →
      exec (.eqInterrupt p) s = .next (({ s with acc := { s.acc with eqSeen := smPut 0x10000 s.acc.eqSeen p.val (s.prf p A.hostEqTail 16 0) } }).signal p 0)) ∧
    (s.prf p A.hostEqTail 16 0 = smGet 0x10000 s.acc.eqSeen p.val → exec (.eqInterrupt p) s = .next s)) ∧
  (∀ (p : Fin 4) (k : Fin 16) (s : State), Served s p A.hostFenceInc →
    ∃ t, exec (.hostFenceInc p k) s = .next t ∧ OnlyPregs s t p [A.hostFence k] ∧ t.preg p (A.hostFence k) = s.preg p (A.hostFence k) + 1) ∧
  (∀ (p : Fin 4) (n : Fin 1024) (v : Word) (s : State), Served s p (A.chanSlotTail n) →
    ((s.slot n).port = p.val → (s.slot n).st ≠ .free → exec (.tailWrite p n v) s = .next (s.setSlot n { s.slot n with tail := fld v 15 0 })) ∧
    ((s.slot n).port ≠ p.val → exec (.tailWrite p n v) s = .next s)) ∧
  (∀ (k : Fin 14) (n : BitVec 16) (s : State), 1 ≤ n.toNat →
    ∃ t, exec (.mergedEvent k n none) s = .next t ∧ OnlyRegs s t [A.sysXingCnt k] ∧
      t.rf (A.sysXingCnt k) 15 0 = min (s.rf (A.sysXingCnt k) 15 0 + (n.toNat - 1)) 65535)

/-- Events into a port's queue, and what the port writes to it (R531, R539, R544, R549, R556, R557, R564). -/
def Obligations.EventQueues : Prop := Sys2Proof.Stated.EventDelivery ∧ Sys2Proof.Stated.QueueRegisters


/-! ### Channels, admission and copies -/

namespace Sys2Proof.Machine

/-- From s to t, a command of port p ended with a result (R545, R546): BUSY is clear, and nothing but the command's status register changed. -/
abbrev Turned (s t : State) (p result : Nat) : Prop := OnlyPregs s t p [A.hostCmdStat] ∧ t.prf p A.hostCmdStat 15 8 = result ∧ t.prf p A.hostCmdStat 0 0 = 0

/-- From s to t, a command of port p that names slot n ended with a result, and slot n became x. -/
abbrev SlotBecame (s t : State) (p result n : Nat) (x : Slot) : Prop := Turned (s.setSlot n x) t p result

/-- The handle in argument 0 of port p names a slot of its own (R541, R542). -/
abbrev OwnHandle (s : State) (p : Nat) : Prop := validHandle s (cmdArg s p 0) = true ∧ hPort (cmdArg s p 0) = p

/-- The slot that argument 0 of port p names. -/
def argSlot (s : State) (p : Nat) : Nat := hSlot (cmdArg s p 0)

/-- The queued admissions, those of the slot that argument 0 of port p names being withdrawn as they complete (R545). -/
def withdrawn (s : State) (p : Nat) : List AdmReq :=
  s.adm.map (fun r => if r.slot = argSlot s p ∧ r.handle = s.handle (argSlot s p) then { r with dropped := true } else r)

/-- An access finds nothing waiting before it, and completes as it comes: in a pause (R515), or in an open stack window that no telemetry waits for (R38, R534). -/
abbrev Bar2Now (s : State) (op : Bar2Op) : Prop :=
  s.bar2Q = [] ∧ s.rf A.sysDrst 4 4 = 0 ∧ (s.rast.paused = true ∨ (s.slk.win = true ∧ telemetryWaits s = false ∧ (s.slk.playAll (op.sectors s)).2 = true))

/-- The stack's schedule once an access has completed. -/
def afterBar2 (s : State) (op : Bar2Op) : Slack := if s.rast.paused then s.slk else (s.slk.playAll (op.sectors s)).1

/-- No access completes now: the MEM group is in reset, or the part is not paused and no stack window is open to accesses of hosts. -/
abbrev Bar2Waits (s : State) : Prop :=
  s.rf A.sysDrst 4 4 = 1 ∨ (s.rast.paused = false ∧ (s.slk.win = false ∨ telemetryWaits s = true))

end Sys2Proof.Machine

/-- CREATE (R541, R543 to R547): with good arguments, a free slot, quota and for a background channel a free job number, the lowest free slot comes into use with its kind and generation, the port is given its handle, and event 0x0100 tells it; otherwise the result says BAD_ARG or NO_SLOT and nothing
else changes. -/
def Sys2Proof.Stated.CreateChannel : Prop :=
  ∀ (p : Fin 4) (s : State), Served s p A.hostCmdGo →
    (createArgs s p = false → ∃ t, exec (.create p) s = .next t ∧ Turned s t p 4) ∧
    (createArgs s p = true → (freeSlot s = none ∨ s.rf (A.hostPartQuota p) 10 0 ≤ heldBy s p ∨ (cmdArg s p 0 = 1 ∧ freeJob s = none)) →
      ∃ t, exec (.create p) s = .next t ∧ Turned s t p 3) ∧
    (∀ n, createArgs s p = true → freeSlot s = some n → heldBy s p < s.rf (A.hostPartQuota p) 10 0 → (cmdArg s p 0 = 1 → freeJob s ≠ none) →
      ∃ t, exec (.create p) s = .next t ∧ (t.slot n).st = .inUse ∧ (t.slot n).port = p.val ∧ (t.slot n).gen = (s.slot n).gen ∧ (t.slot n).passages = [] ∧
        (t.slot n).kind = (match (cmdArg s p 0).toNat with | 0 => .passage | 1 => .background | _ => .copy) ∧
        (t.slot n).job = (if cmdArg s p 0 = 1 then freeJob s else none) ∧
        (cmdArg s p 0 = 2 → (t.slot n).ringBase = (cmdArg s p 1).toNat + (cmdArg s p 2).toNat * 2 ^ 32 ∧ (t.slot n).ringSize = 64 * 2 ^ fld (cmdArg s p 3) 3 0 ∧
          (t.slot n).pair = (if bitAt (cmdArg s p 3) 8 then some (fld (cmdArg s p 3) 7 4) else none)) ∧
        (∀ k, k ≠ n → t.slot k = s.slot k) ∧
        t.preg p A.hostCmdRes = BitVec.ofNat 32 (p.val * 2 ^ 30 + n * 2 ^ 20 + (s.slot n).gen % 2 ^ 20) ∧
        t.prf p A.hostCmdStat 15 8 = 0 ∧ t.hbm = s.hbm ∧ t.fab = s.fab ∧ t.rast = s.rast)

/-- DESTROY, WITHDRAW, ADMIT, UNQUAR and RESTART (R542, R543, R545, R546, R550, R551): each acts on a slot of the port alone, as its kind and state allow; a departure is set for the boundary that its landing reaches, an admission is queued behind the others, a quarantined slot is free again with generation 0, and a
copy channel in ERROR resumes at its head. A handle that is not valid gives STALE, one of another port NOT_OWNER, and nothing else changes. -/
def Sys2Proof.Stated.ChannelCommands : Prop :=
  (∀ (p : Fin 4) (c : BitVec 16) (s : State), Served s p A.hostCmdGo → OwnHandle s p →
    ∃ t, exec (.destroy p c) s = .next t ∧ t.adm = withdrawn s p ∧
      SlotBecame { s with adm := t.adm } t p 0 (argSlot s p) { s.slot (argSlot s p) with
        st := .closing
        wdraw := (s.slot (argSlot s p)).wdraw.filter (fun e => decide (e.2 ≠ landTarget s c.toNat)) ++ [(.destroy, landTarget s c.toNat)] }) ∧
  (∀ (p : Fin 4) (c : BitVec 16) (s : State), Served s p A.hostCmdGo → OwnHandle s p → (s.slot (argSlot s p)).st = .inUse →
    (s.slot (argSlot s p)).kind ≠ .copy → (s.slot (argSlot s p)).wdraw = [] →
    (((s.slot (argSlot s p)).passages ≠ [] ∨ (s.slot (argSlot s p)).fit ≠ none) →
      ∃ t, exec (.withdraw p c) s = .next t ∧ t.adm = withdrawn s p ∧
        SlotBecame { s with adm := t.adm } t p 0 (argSlot s p) { s.slot (argSlot s p) with wdraw := [(.withdraw, landTarget s c.toNat)] }) ∧
    ((s.slot (argSlot s p)).passages = [] → (s.slot (argSlot s p)).fit = none →
      s.adm.any (fun q => decide (q.slot = argSlot s p ∧ q.handle = s.handle (argSlot s p))) = true →
      ∃ t, exec (.withdraw p c) s = .next t ∧ t.adm = withdrawn s p ∧ Turned { s with adm := t.adm } t p 0)) ∧
  (∀ (p : Fin 4) (s : State), Served s p A.hostCmdGo → OwnHandle s p → (s.slot (argSlot s p)).st = .inUse → (s.slot (argSlot s p)).kind ≠ .copy →
    (cmdArg s p 1).toNat % 4096 = 0 → (s.adm.filter (fun q => decide (q.port = p.val))).length < 16 →
    ∃ t, exec (.admitCmd p) s = .next t ∧
      t.adm = s.adm ++ [⟨argSlot s p, s.handle (argSlot s p), p.val, (cmdArg s p 1).toNat + (cmdArg s p 2).toNat * 2 ^ 32, false⟩] ∧
      SlotBecame { s with adm := t.adm } t p 1 (argSlot s p) { s.slot (argSlot s p) with admitSt := if (s.slot (argSlot s p)).admitSt = 2 then 2 else 1 }) ∧
  (∀ (p : Fin 4) (s : State), Served s p A.hostCmdGo → OwnHandle s p → (s.slot (argSlot s p)).st = .inUse → (s.slot (argSlot s p)).kind ≠ .copy →
    (cmdArg s p 1).toNat % 4096 = 0 → 16 ≤ (s.adm.filter (fun q => decide (q.port = p.val))).length →
    ∃ t, exec (.admitCmd p) s = .next t ∧ Turned s t p 7) ∧
  (∀ (p : Fin 4) (s : State), Served s p A.hostCmdGo → fld (cmdArg s p 0) 31 10 = 0 →
    let n := fld (cmdArg s p 0) 9 0
    ((s.slot n).st = .quarantined → (s.slot n).port = p.val →
      ∃ t, exec (.unquar p) s = .next t ∧ SlotBecame s t p 0 n { Slot.unused with port := p.val }) ∧
    ((s.slot n).st ≠ .quarantined → ∃ t, exec (.unquar p) s = .next t ∧ Turned s t p 6) ∧
    ((s.slot n).st = .quarantined → (s.slot n).port ≠ p.val → ∃ t, exec (.unquar p) s = .next t ∧ Turned s t p 5)) ∧
  (∀ (p : Fin 4) (s : State), Served s p A.hostCmdGo → OwnHandle s p → (s.slot (argSlot s p)).kind = .copy → (s.slot (argSlot s p)).st = .error →
    ∃ t, exec (.restart p) s = .next t ∧ SlotBecame s t p 0 (argSlot s p) { s.slot (argSlot s p) with st := .inUse, run := none }) ∧
  (∀ (p : Fin 4) (c : BitVec 16) (s : State) (x : Instr), Served s p A.hostCmdGo → x ∈ [.destroy p c, .withdraw p c, .admitCmd p, .restart p] →
    (validHandle s (cmdArg s p 0) = false → ∃ t, exec x s = .next t ∧ Turned s t p 2) ∧
    (validHandle s (cmdArg s p 0) = true → hPort (cmdArg s p 0) ≠ p.val → ∃ t, exec x s = .next t ∧ Turned s t p 5))

/-- The channel commands (R541 to R547, R550, R551). -/
def Obligations.Channels : Prop := Sys2Proof.Stated.CreateChannel ∧ Sys2Proof.Stated.ChannelCommands


/-- ADMISSION (R177, R545, R553): it completes in every state. The oldest queued admission of a sail plan, or of a fitting image, that no check refuses takes effect; of one that is refused, and of one whose channel takes no admission, only the answer is given; one that needs what is still
to be zeroed waits (R615); with none queued nothing happens. -/
def Obligations.Admissions : Prop :=
  (∀ (s : State) (q : AdmReq) (l : List AdmReq), s.adm = q :: l → admitOpen s q = true → (s.slot q.slot).job = none →
    planRefused s q.port q.slot q.addr = none → needsZeroed s ((planPassages s q.addr).map (declOf s)) = false →
    ∃ t, exec .admission s = .next t ∧ t.adm = l ∧ (t.slot q.slot).passages = planPassages s q.addr ∧ (t.slot q.slot).fit = none ∧ (t.slot q.slot).admitSt = 2 ∧
      (t.slot q.slot).loaded = false ∧ (t.slot q.slot).live = false ∧ (∀ k, k ≠ q.slot → t.slot k = s.slot k) ∧ t.hbm = s.hbm ∧ t.fab = s.fab ∧
      (q.dropped = false → (t.slot q.slot).wdraw = (s.slot q.slot).wdraw) ∧
      (q.dropped = true → (t.slot q.slot).wdraw = (s.slot q.slot).wdraw ++ [(.withdraw, s.rast.frame + 1)])) ∧
  (∀ (s : State) (q : AdmReq) (l : List AdmReq) (n : Nat), s.adm = q :: l → admitOpen s q = true → (s.slot q.slot).job = some n →
    fitRefused s q.port q.slot n q.addr = none → needsZeroed s [declOfFit s n (readFit s q.addr)] = false →
    ∃ t, exec .admission s = .next t ∧ t.adm = l ∧ (t.slot q.slot).fit = some (readFit s q.addr) ∧ (t.slot q.slot).passages = [] ∧ (t.slot q.slot).admitSt = 2 ∧
      (t.slot q.slot).loaded = false ∧ t.job n = Job.idle ∧ t.reg (A.chanFitStep n) = 0 ∧ (∀ k, k ≠ q.slot → t.slot k = s.slot k) ∧ t.hbm = s.hbm ∧ t.fab = s.fab) ∧
  (∀ (s : State) (q : AdmReq) (l : List AdmReq), s.adm = q :: l →
    admitOpen s q = false ∨
      (admitOpen s q = true ∧ (s.slot q.slot).job = none ∧ ∃ r, planRefused s q.port q.slot q.addr = some r) ∨
      (admitOpen s q = true ∧ ∃ n r, (s.slot q.slot).job = some n ∧ fitRefused s q.port q.slot n q.addr = some r) →
    ∃ t, exec .admission s = .next t ∧ t.adm = l ∧ (t.slot q.slot).passages = (s.slot q.slot).passages ∧ (t.slot q.slot).fit = (s.slot q.slot).fit ∧
      (∀ k, k ≠ q.slot → t.slot k = s.slot k) ∧ (s.hbm.marks = [] → s.hbm.flips = [] → t.regs = s.regs) ∧ t.hbm = s.hbm ∧ t.fab = s.fab) ∧
  (∀ (s : State) (q : AdmReq) (l : List AdmReq), s.adm = q :: l → admitOpen s q = true →
    ((s.slot q.slot).job = none ∧ planRefused s q.port q.slot q.addr = none ∧ needsZeroed s ((planPassages s q.addr).map (declOf s)) = true) ∨
      (∃ n, (s.slot q.slot).job = some n ∧ fitRefused s q.port q.slot n q.addr = none ∧ needsZeroed s [declOfFit s n (readFit s q.addr)] = true) →
    exec .admission s = .next s) ∧
  (∀ s : State, s.adm = [] → exec .admission s = .next s) ∧
  (∀ s : State, ∃ t, exec .admission s = .next t ∧ t.hbm = s.hbm ∧ t.fab = s.fab)

/-- PLAN_COPY and RESOURCE_ZEROING (R36, R177, R553, R615): both complete in every state. In open slack the copy of an admitted plan or image makes it loaded and tells the port, and what a withdrawn program declared, the oldest first, is zeroed on every spar that it named and nowhere else; with no
slack open, in a pause, and where there is nothing to do, nothing else happens. -/
def Obligations.PlanCopyAndZeroing : Prop :=
  (∀ (n : Fin 1024) (s : State), ((s.slot n).passages = [] ∧ (s.slot n).fit = none) ∨ (s.slot n).loaded = true ∨ s.slackOpen = false →
    exec (.planCopy n) s = .next s) ∧
  (∀ (n : Fin 1024) (s : State), ((s.slot n).passages ≠ [] ∨ (s.slot n).fit ≠ none) → (s.slot n).loaded = false → s.slackOpen = true →
    exec (.planCopy n) s = .next ((s.setSlot n { s.slot n with loaded := true }).post [(s.slot n).port] 0x010D [(4, s.handle n)])) ∧
  (∀ s0 : State, let s := reachOffer s0
    s.zeroQ = [] ∨ s.slackOpen = false → exec .resourceZeroing s0 = .next s) ∧
  (∀ (s0 : State) (z : Zeroing) (l : List Zeroing), let s := reachOffer s0
    s.zeroQ = z :: l → s.slackOpen = true →
    ∃ t, exec .resourceZeroing s0 = .next t ∧ t.zeroQ = l ∧
      t = { s with zeroQ := l, fab := { s.fab with crucible := t.fab.crucible, descr := t.fab.descr, sreg := t.fab.sreg, areg := t.fab.areg, gen := t.fab.gen, loft := t.fab.loft } } ∧
      ∀ n, n < 64 →
        let on : Prop := bitOf z.spars n = true ∧ s.absent n = false
        (∀ k, k < 32 → t.sReg n k = if on ∧ bitOf z.sUse k = true then 0 else s.sReg n k) ∧
        (∀ k, k < 8 → t.aReg n k = if on ∧ bitOf z.aUse k = true then 0 else s.aReg n k) ∧
        t.genIdx n = (if on ∧ z.gen = true then 0 else s.genIdx n) ∧
        (∀ h r c, h < 32 → r < 64 → c < 64 → t.half n h r c = if on ∧ bitOf z.slots h = true then Half.zero else s.half n h r c) ∧
        (∀ h, h < 32 → t.descr n h = if on ∧ bitOf z.slots h = true then ⟨false, 0⟩ else s.descr n h) ∧
        (s.fab.loft.wf = true → s.fab.loft.marks = [] → s.fab.loft.flips = [] → (∀ r ∈ z.ranges, r.off + r.len ≤ 2 ^ 23) →
          ∀ a, a < 2 ^ 23 → t.fab.loft.fetch (bayKey n a) =
            if on ∧ ∃ r ∈ z.ranges, r.shared = false ∧ r.off ≤ a ∧ a < r.off + r.len then (0, 0) else s.fab.loft.fetch (bayKey n a)))

/-- The BAR2 window (R196, R513, R523, R533, R534): a read inside the partition answers with the bytes of user HBM as a host reaches them, and a write stores the enabled bytes there and is counted in HOST_FLUSH: at once in a pause, and in an open stack window that no telemetry waits for where it
completes within it, whose time it takes; otherwise it waits for one. Outside the partition nothing is read or written, a read is answered with no bytes, and PART is set. -/
def Obligations.Bar2Window : Prop :=
  (∀ (p : Fin 4) (o : Word) (n : Fin 4097) (s : State), s.ports.contains p.val = true → bar2Served s p = true → inPart s p (bar2Addr s p o.toNat) n.val = true →
    let op : Bar2Op := .read (bar2Addr s p o.toNat) n.val
    (Bar2Now s op → s.hbm.marks = [] → s.hbm.flips = [] →
      ∃ t, exec (.bar2Read p o n) s = .next t ∧ t = { s with answer := t.answer, slk := afterBar2 s op } ∧
        Answered s t p ((List.range n.val).map (fun i => (s.hbmByte true (bar2Addr s p o.toNat + i)).1))) ∧
    (Bar2Waits s → exec (.bar2Read p o n) s = .next { s with bar2Q := s.bar2Q ++ [(p.val, op)] })) ∧
  (∀ (p : Fin 4) (o : Word) (n : Fin 4097) (s : State), s.ports.contains p.val = true → bar2Served s p = true → inPart s p (bar2Addr s p o.toNat) n.val = false →
    ∃ t, exec (.bar2Read p o n) s = .next t ∧ smGet ([], false) t.answer p = ([], false) ∧ bitAt (t.preg p A.hostErr) 2 = true ∧ t.hbm = s.hbm ∧ t.fab = s.fab ∧ t.regs = s.regs) ∧
  (∀ (p : Fin 4) (o : Word) (ws : List (Option Byte)) (s : State), s.ports.contains p.val = true → bar2Served s p = true →
    inPart s p (bar2Addr s p o.toNat) ws.length = true →
    let op : Bar2Op := .write (ws.zipIdx.filterMap (fun b => b.1.map (fun v => (bar2Addr s p o.toNat + b.2, v, 0))))
    (Bar2Now s op → s.hbm.marks = [] → s.hbm.flips = [] →
      ∃ t, exec (.bar2Write p o ws false) s = .next t ∧ t = { s with hbm := t.hbm, pregs := t.pregs, slk := afterBar2 s op } ∧
        t.hbm = s.hbm.write (ws.zipIdx.filterMap (fun b => b.1.map (fun v => (s.reach 0 true (bar2Addr s p o.toNat + b.2), v, 0)))) ∧
        OnlyPregs { s with hbm := t.hbm, slk := t.slk } t p [A.hostFlush] ∧ t.preg p A.hostFlush = s.preg p A.hostFlush + 1) ∧
    (Bar2Waits s → exec (.bar2Write p o ws false) s = .next { s with bar2Q := s.bar2Q ++ [(p.val, op)] })) ∧
  (∀ (p : Fin 4) (o : Word) (ws : List (Option Byte)) (psn : Bool) (s : State), s.ports.contains p.val = true → bar2Served s p = true →
    inPart s p (bar2Addr s p o.toNat) ws.length = false →
    ∃ t, exec (.bar2Write p o ws psn) s = .next t ∧ bitAt (t.preg p A.hostErr) 2 = true ∧ t.hbm = s.hbm ∧ t.fab = s.fab ∧ t.regs = s.regs ∧ t.preg p A.hostFlush = s.preg p A.hostFlush) ∧
  (∀ (p : Nat) (op : Bar2Op) (s : State), s.bar2Q = [(p, op)] → Bar2Now { s with bar2Q := [] } op →
    serveBar2 s = bar2Run p op { s with bar2Q := [], slk := afterBar2 s op })

/-- Copy descriptors (R196, R523, R548 to R550): a valid descriptor whose fence wait is satisfied starts, an invalid one puts the channel in ERROR with cause 2 and a failed fetch with cause 3; a batch from the host whose sectors complete in the stack window stores them in HBM as the host wrote them, and a batch to the host writes what HBM holds; the last batch completes the
descriptor and moves the head. A batch that does not complete within the open window or interval is deferred, and counts (R37). -/
def Obligations.CopyChannels : Prop :=
  (∀ (n : Fin 1024) (s : State), (s.slot n).st = .inUse → (s.slot n).kind = .copy → (s.slot n).run = none → (s.slot n).head ≠ (s.slot n).tail →
    s.rast.paused = false → hostReached s (s.slot n).port = true →
    let d := (List.range 32).map (fun i => s.hostByte (s.slot n).port ((s.slot n).ringBase + 32 * (s.slot n).head + i))
    (descValid s (s.slot n).port d = true → descReady s d = true → exec (.descriptorStart n true) s = .next (s.setSlot n { s.slot n with run := some ⟨d, 0⟩ })) ∧
    (descValid s (s.slot n).port d = true → descReady s d = false → exec (.descriptorStart n true) s = .next s) ∧
    (descValid s (s.slot n).port d = false → exec (.descriptorStart n true) s =
      .next ((s.setSlot n { s.slot n with st := .error, run := none }).post [(s.slot n).port] 0x0105 [(4, s.handle n), (2, (s.slot n).head), (1, 2)])) ∧
    exec (.descriptorStart n false) s =
      .next ((s.setSlot n { s.slot n with st := .error, run := none }).post [(s.slot n).port] 0x0105 [(4, s.handle n), (2, (s.slot n).head), (1, 3)])) ∧
  (∀ (s0 : State) (n : Nat) (l : List Nat) (c : CopyRun), let s := reachOffer s0
    s.rast.paused = false → copyOrder s = n :: l → (s.slot n).run = some c → (s.slot n).pair = none →
    descOut c.desc = false → descLoft c.desc = false →
    let k := batchLen s c
    let a := descD c.desc + 64 * c.moved
    let h := descH c.desc + 64 * c.moved
    let x := s.slot n
    (∃ t, exec (.copyBatch .data) s0 = .next t ∧ t.slk.lastPort = x.port ∧ t.fab = s.fab ∧ t.regs = s.regs ∧
      t.hbm = s.hbm.write ((List.range (64 * k)).map (fun i => (s.reach 0 true (a + i), s.hostByte x.port (h + i), 0))) ∧
      (c.moved + k < descLen c.desc / 64 → t.slot n = { x with run := some { c with moved := c.moved + k } } ∧ t.pregs = s.pregs ∧ t.ev = s.ev) ∧
      (descLen c.desc / 64 ≤ c.moved + k → (t.slot n).run = none ∧ (t.slot n).head = (x.head + 1) % x.ringSize ∧
        (bitOf (descNum c.desc 0x16 2) 4 = true → t.preg x.port (A.hostFence (descNum c.desc 0x16 2 % 16)) = s.preg x.port (A.hostFence (descNum c.desc 0x16 2 % 16)) + 1))) ∧
    (∃ t, exec (.copyBatch .aborted) s0 = .next t ∧ (t.slot n).st = .error ∧ (t.slot n).run = none ∧ (t.slot n).head = x.head ∧ t.hbm = s.hbm ∧ t.fab = s.fab)) ∧
  (∀ (s0 : State) (n : Nat) (l : List Nat) (c : CopyRun), let s := reachOffer s0
    s.rast.paused = false → copyOrder s = n :: l → (s.slot n).run = some c →
    descOut c.desc = true → descLoft c.desc = false → (s.pcfg (s.slot n).port).bme = true → s.hbm.marks = [] → s.hbm.flips = [] →
    c.moved + batchLen s c < descLen c.desc / 64 →
    let k := batchLen s c
    let a := descD c.desc + 64 * c.moved
    let h := descH c.desc + 64 * c.moved
    let x := s.slot n
    ∃ t, exec (.copyBatch .data) s0 = .next t ∧ t.slot n = { x with run := some { c with moved := c.moved + k } } ∧ t.hbm = s.hbm ∧ t.fab = s.fab ∧ t.regs = s.regs ∧
      (∀ i, i < 64 * k → t.hostByte x.port (h + i) = (s.hbmByte true (a + i)).1) ∧
      (∀ q b, b < 2 ^ 64 → ¬(q = x.port ∧ ∃ i, i < 64 * k ∧ b = (h + i) % 2 ^ 64) → t.hostByte q b = s.hostByte q b)) ∧
  (∀ (s0 : State) (r : HostReply), let s := reachOffer s0
    s.rast.paused = false → copyOrder s = [] →
    (copyWaits s = true ∧ (s.slk.win = true ∨ s.slk.isOpen = true) →
      exec (.copyBatch r) s0 = .next { s with slk := { s.slk with deferCopy := min (2 ^ 32 - 1) (s.slk.deferCopy + 1) } }) ∧
    (copyWaits s = false ∨ (s.slk.win = false ∧ s.slk.isOpen = false) → exec (.copyBatch r) s0 = .next s)) ∧
  (∀ (s0 : State) (r : HostReply), (reachOffer s0).rast.paused = true → exec (.copyBatch r) s0 = .next (reachOffer s0))

/-! ### Clears, pause, save and load -/

namespace Sys2Proof.Machine

/-- From s to t nothing changed but what events write: queues, messages in host memory, the black box. -/
abbrev Told (s t : State) : Prop := t = { s with pregs := t.pregs, host := t.host, hostBad := t.hostBad, ev := t.ev }

/-- From s to t, of the part only SYS_PAUSE_CTL changed, and it became w. -/
abbrev PauseCtlBecame (s t : State) (w : Word) : Prop := OnlyRegs s t [A.sysPauseCtl] ∧ t.reg A.sysPauseCtl = w

end Sys2Proof.Machine

/-- The clears of counters (R75, R76, R112, R480, R526, R527, R589, R638): a write of 1 to a clear bit by the display-owning port sets the counters that the bit names to 0, or MARGIN to its reset value, and a spar's counter to what it gains in the very cycle (R76), and leaves everything else; from another port, and in the instance of an absent spar, it does nothing. -/
def Obligations.CounterClears : Prop :=
  (∀ (p : Fin 4) (s : State) (x : Instr × Nat × List Nat),
    x ∈ [(.hbmClrCe p, A.hbmCntClr, [A.hbmCeCnt]), (.hbmClrUe p, A.hbmCntClr, [A.hbmUeCnt]), (.hbmClrMark p, A.hbmCntClr, [A.hbmMarkCnt]),
      (.hbmClrDefer p, A.hbmCntClr, [A.hbmDefer]), (.hbmClrScrub p, A.hbmCntClr, [A.hbmScrubStat]),
      (.loftClrCe p, A.loftCntClr, [A.loftCeCnt]), (.loftClrUe p, A.loftCntClr, [A.loftUeCnt]), (.loftClrMark p, A.loftCntClr, [A.loftMarkCnt]),
      (.loftClrScrub p, A.loftCntClr, [A.loftScrubStat]), (.loftClrBay p, A.loftCntClr, (List.range 64).map A.loftBayErr)] → Served s p x.2.1 →
    (p.val = s.owner → ∃ t, exec x.1 s = .next t ∧ OnlyRegs s t x.2.2 ∧ ∀ a ∈ x.2.2, t.reg a = 0) ∧
    (p.val ≠ s.owner → exec x.1 s = .next s)) ∧
  (∀ (p : Fin 4) (n : Fin 64) (s : State) (x : Instr × Nat),
    x ∈ [(.sparClrSat p n, A.sparSat n), (.sparClrUfz p n, A.sparUfz n), (.sparClrPoi p n, A.sparPoi n)] → Served s p (A.sparCntClr n) →
    (p.val = s.owner → s.absent n = false → ∃ t, exec x.1 s = .next t ∧ OnlyRegs s t [x.2] ∧ t.reg x.2 = BitVec.ofNat 32 (smGet 0 s.fab.fresh x.2)) ∧
    (p.val ≠ s.owner ∨ s.absent n = true → exec x.1 s = .next s)) ∧
  (∀ (p : Fin 4) (s : State), Served s p A.pwrCntClr →
    (p.val = s.owner →
      (∃ t, exec (.pwrClrChanges p) s = .next t ∧ OnlyRegs s t [A.pwrCnt] ∧ t.rf A.pwrCnt 15 0 = 0 ∧ t.rf A.pwrCnt 31 16 = s.rf A.pwrCnt 31 16) ∧
      (∃ t, exec (.pwrClrTherm p) s = .next t ∧ OnlyRegs s t [A.pwrCnt] ∧ t.rf A.pwrCnt 31 16 = 0 ∧ t.rf A.pwrCnt 15 0 = s.rf A.pwrCnt 15 0)) ∧
    (p.val ≠ s.owner → exec (.pwrClrChanges p) s = .next s ∧ exec (.pwrClrTherm p) s = .next s)) ∧
  (∀ (p : Fin 4) (s : State), Served s p A.linkStatClr →
    (p.val = s.owner → ∃ t, exec (.linkStatClr p) s = .next t ∧ OnlyRegs s t [A.linkMusterStat, A.linkRedStat] ∧
      t.reg A.linkMusterStat = 0xFFFF#32 ∧ t.reg A.linkRedStat = 0) ∧
    (p.val ≠ s.owner → exec (.linkStatClr p) s = .next s))

/-- The requests of SYS_PAUSE_CTL (R353, R354, R358, R588): from another port than the display-owning one they are ignored; PAUSE on a running part waits for the boundary that its landing reaches; SAVE, LOAD and RESUME act on a paused part alone, and RESUME chooses the reef of frame P. -/
def Sys2Proof.Stated.PauseRequests : Prop :=
  ∀ (p : Fin 4) (c : BitVec 16) (s : State), Served s p A.sysPauseCtl →
    let w := s.reg A.sysPauseCtl
    (p.val ≠ s.owner → ∀ x ∈ [Instr.pause p c, .save p, .load p, .resume p], exec x s = .next s) ∧
    (p.val = s.owner →
      (s.pauseState = 0 → ∃ t, exec (.pause p c) s = .next t ∧ t.rast = { s.rast with pauseAt := some (landTarget s c.toNat) } ∧
        PauseCtlBecame { s with rast := t.rast } t (setFld (setFld w 0 1 1) 8 3 1)) ∧
      (s.pauseState ≠ 0 → exec (.pause p c) s = .next s) ∧
      (s.pauseState = 2 → ∃ t, exec (.save p) s = .next t ∧ PauseCtlBecame s t (setFld (setFld w 1 1 1) 8 3 3)) ∧
      (s.pauseState = 2 → ∃ t, exec (.load p) s = .next t ∧ PauseCtlBecame s t (setFld (setFld w 2 1 1) 8 3 4)) ∧
      (s.pauseState = 2 → ∃ t, exec (.resume p) s = .next t ∧ t.reg A.sysPauseCtl = setFld (setFld w 3 1 1) 8 3 5 ∧
        t.gov.decided = true ∧ t.gov.rth = s.gov.rth ∧ t.gov.rs = (reefChoice s s.gov.rth).2.2 ∧ t.rast = s.rast ∧ t.hbm = s.hbm ∧ t.fab = s.fab) ∧
      (s.pauseState ≠ 2 → ∀ x ∈ [Instr.save p, .load p, .resume p], exec x s = .next s))

/-- The ends of a save, a load and a pause (R356 to R358): a save puts the image into user HBM at SYS_SAVE_BASE and gives its length; a load of an image that no check refuses restores it, with F one before its P, and one that is refused changes nothing but ERR and tells the ports why; the resume begins frame P with the halyard running. The
encoding of an image's items is the model's (log 40). -/
def Sys2Proof.Stated.SaveLoadResume : Prop :=
  (∀ s : State, s.pauseState = 3 → s.rf A.sysDrst 4 4 = 0 →
    let a := 4096 * s.rf A.sysSaveBase 22 0
    ∃ t, exec .saveDone s = .next t ∧ t.pauseState = 2 ∧ t.rf A.sysPauseCtl 1 1 = 0 ∧
      t.reg A.sysSaveLen = BitVec.ofNat 32 (ceilDiv (saveImage s).length 4096) ∧
      t.hbm = s.hbm.write (((saveImage s).zipIdx.map (fun b => (a + b.2, b.1.1, b.1.2))).filter (fun b => decide (b.1 < userHbm))) ∧
      (s.hbm.marks = [] → s.hbm.flips = [] →
        (∀ r, r ∉ [A.sysPauseCtl, A.sysSaveLen] → (∀ n, n < 64 → r ≠ A.sparCrucPerr n) → t.reg r = s.reg r) ∧
        Told { s with hbm := t.hbm, regs := t.regs } t)) ∧
  (∀ s : State, s.pauseState = 4 → s.rf A.sysDrst 4 4 = 0 →
    let a := 4096 * s.rf A.sysSaveBase 22 0
    (loadError s a ≠ 0 → ∃ t, exec .loadDone s = .next t ∧ t.pauseState = 2 ∧ t.rf A.sysPauseCtl 2 2 = 0 ∧ t.rf A.sysPauseCtl 19 16 = loadError s a ∧
      t.hbm = s.hbm ∧ t.fab = s.fab ∧ t.rast = s.rast ∧
      (s.hbm.marks = [] → s.hbm.flips = [] → (∀ r, r ≠ A.sysPauseCtl → t.reg r = s.reg r) ∧ Told { s with regs := t.regs } t)) ∧
    (loadError s a = 0 → ∃ t, exec .loadDone s = .next t ∧ t.pauseState = 2 ∧ t.rf A.sysPauseCtl 2 2 = 0 ∧ t.rf A.sysPauseCtl 19 16 = 0 ∧
      t.rast.frame = BitVec.ofNat 48 (s.imgNum (a + 4) 6) - 1 ∧ t.loHi A.sysPauseFLo A.sysPauseFHi 16 = s.imgNum (a + 4) 6 ∧
      (∀ n, n < 64 → s.absent n = false →
        (∀ k, k < 32 → t.sReg n k = BitVec.ofNat 32 (s.imgNum (a + 64 + 280 * n + 4 * k) 4)) ∧
        (∀ k, k < 8 → t.aReg n k = BitVec.ofNat 40 (s.imgNum (a + 64 + 280 * n + 128 + 8 * k) 8)) ∧
        t.genIdx n = BitVec.ofNat 40 (s.imgNum (a + 64 + 280 * n + 192) 8)) ∧
      t.hbm = s.hbm)) ∧
  (∀ s : State, s.pauseState ≠ 3 ∨ s.rf A.sysDrst 4 4 = 1 → exec .saveDone s = .next s) ∧
  (∀ s : State, s.pauseState ≠ 4 ∨ s.rf A.sysDrst 4 4 = 1 → exec .loadDone s = .next s) ∧
  (∀ (nj : List (BitVec 64)) (s : State), (resumeReady s = false → exec (.resumed nj) s = .next s) ∧
    (resumeReady s = true → s.rast.sync.fsetDone = true → ∃ t, exec (.resumed nj) s = .next t ∧ t.rast.paused = false ∧ t.pauseState = 0 ∧
      t.rf A.sysPauseCtl 3 3 = 0 ∧ t.rast.frame = s.rast.frame + 1 ∧ t.rast.line = 0 ∧ t.hbm = s.hbm ∧ t.fab.loft = s.fab.loft ∧
      t.fab.crucible = s.fab.crucible ∧ t.fab.sreg = s.fab.sreg ∧ t.fab.areg = s.fab.areg))

/-- Pauses, saves, loads and resumes (R353, R354, R356 to R358, R588). -/
def Obligations.PauseAndResume : Prop := Sys2Proof.Stated.PauseRequests ∧ Sys2Proof.Stated.SaveLoadResume


/-! ### Records, logs, background work and fitting jobs -/

namespace Sys2Proof.Machine

/-- From s to t an event was posted and nothing else changed: the next black-box entry holds its code and payload with frame and line (R607). -/
abbrev Event (s t : State) (code : Nat) (payload : List Byte) : Prop :=
  Told s t ∧ t.ev.seq = (s.ev.seq + 1) % 2 ^ 32 ∧
  let e := smGet LogEntry.blank t.ev.box (s.ev.seq % 4096)
  e.seq = s.ev.seq ∧ e.code = code ∧ e.frame = s.rast.frame ∧ e.line = s.rast.line ∧ e.payload = payload

/-- From m to n, bytes stand at a as a list gives them, without poison, and every other byte reads as before. -/
abbrev Stored (m n : Mem) (a : Nat) (bs : List Byte) : Prop :=
  ∀ k, n.fetch k = if a ≤ k ∧ k < a + bs.length then (bs.getD (k - a) 0, 0) else m.fetch k

/-- A memory in canonical form without marks and flipped bits. -/
abbrev Sound (m : Mem) : Prop := m.wf = true ∧ m.marks = [] ∧ m.flips = []

end Sys2Proof.Machine

/-- Frame records, replay and the event log (R36 to R38, R336, R339, R340, R345, R607, R608): in an open stack window that it fits, the oldest finished record goes to the ring at WPTR from line A of the frame after it on, laid out as R336 says; a signature that differs from the expected one is reported. So is the next
black-box entry copied into the HBM event log, those overwritten before it counting as lost. A job that does not fit is deferred whole and counts, and BAR2 accesses that wait follow. The record of the next frame is read from the replay ring. A record whose EN is 0 as it is due is dropped, a ring size of 0 counts as 1, and a poisoned replay record as none (the model's
choices, log 79). -/
def Sys2Proof.Stated.RecordsAndLogs : Prop :=
  (∀ (s : State) (r : FrameRec) (l : List FrameRec), s.rcd.done = r :: l → (s.rast.linesActive ≤ s.rast.line ∨ r.frame + 1 ≠ s.rast.frame) →
    s.slk.win = true → s.rast.paused = false →
    let w := (s.reg A.logRrecWptr).toNat
    let a := 4096 * s.rf A.logRrecBase 22 0 + 32 * (w % (max 1 (s.rf A.logRrecSize 22 0) * 128))
    let x := s.slk.playAll [a / 64]
    let u := { s with rcd := { s.rcd with done := l }, slk := x.1 }
    (x.2 = true → s.rf A.logRrecCtl 0 0 = 1 → (r.expect = none ∨ r.expect = some r.sig) → a + 32 ≤ userHbm → Sound s.hbm →
      ∃ v, exec .frameRecordWrite s = .next (serveBar2 v) ∧ OnlyRegs { u with hbm := v.hbm } v [A.logRrecWptr] ∧ v.reg A.logRrecWptr = s.reg A.logRrecWptr + 1 ∧
        Stored s.hbm v.hbm a (leBytes 6 r.frame.toNat ++ leBytes 1 r.flags ++ leBytes 1 r.src ++ leBytes 2 r.rptMask ++ leBytes 2 r.dropMask ++ leBytes 1 r.fitLate ++
          leBytes 1 r.evt ++ [0, 0] ++ leBytes 4 r.cycles ++ leBytes 8 r.sig.toNat ++ [0, 0, 0, 0])) ∧
    (x.2 = true → s.rf A.logRrecCtl 0 0 = 0 → (r.expect = none ∨ r.expect = some r.sig) → exec .frameRecordWrite s = .next (serveBar2 u)) ∧
    (∀ y, x.2 = true → s.rf A.logRrecCtl 0 0 = 0 → r.expect = some y → y ≠ r.sig →
      ∃ v, exec .frameRecordWrite s = .next (serveBar2 v) ∧ Event u v 0x0404 (leBytes 6 r.frame.toNat)) ∧
    (x.2 = false → exec .frameRecordWrite s = .next (serveBar2 { s with slk := { s.slk with deferTel := min (2 ^ 32 - 1) (s.slk.deferTel + 1) } }))) ∧
  (∀ (s : State) (r : FrameRec) (l : List FrameRec), s.rcd.done = r :: l → (s.rast.linesActive ≤ s.rast.line ∨ r.frame + 1 ≠ s.rast.frame) →
    s.slk.win = false ∨ s.rast.paused = true → exec .frameRecordWrite s = .next (serveBar2 s)) ∧
  (∀ s : State, s.rcd.done = [] ∨ (∃ r l, s.rcd.done = r :: l ∧ s.rast.line < s.rast.linesActive ∧ r.frame + 1 = s.rast.frame) → exec .frameRecordWrite s = .next s) ∧
  (∀ s : State, replayNext s = true →
    let n := if s.rf A.logRplyCtl 0 0 = 0 then 0 else (s.reg A.logRplyRptr).toNat
    let a := 4096 * fld (s.dueReg A.logRplyBase) 22 0 + 32 * n
    let put (u : State) (x : Option RplyRec) : State := { u with rcd := { u.rcd with fetchedRec := x } }
    (max 1 (fld (s.dueReg A.logRplySize) 22 0) * 128 ≤ n → exec .replayFetch s = .next (put s none)) ∧
    (n < max 1 (fld (s.dueReg A.logRplySize) 22 0) * 128 →
      ((∃ i, i < 32 ∧ (s.hbm.fetch (a + i)).2 ≠ 0) → exec .replayFetch s = .next (put (s.hbmTake 5 a 32) none)) ∧
      ((∀ i, i < 32 → (s.hbm.fetch (a + i)).2 = 0) → exec .replayFetch s = .next (put (s.hbmTake 5 a 32) (some
        ⟨BitVec.ofNat 48 (s.imgNum a 6), s.imgNum (a + 6) 1 % 4, s.imgNum (a + 8) 2, s.imgNum (a + 12) 1, BitVec.ofNat 64 (s.imgNum (a + 20) 8)⟩))))) ∧
  (∀ s : State, replayNext s = false → exec .replayFetch s = .next s) ∧
  (∀ s : State, let w := (s.reg A.logHlogWptr).toNat
    let behind := (s.ev.seq + 2 ^ 32 - w) % 2 ^ 32
    let q := (w + (behind - 4096)) % 2 ^ 32
    let x := s.slk.playAll [0x600000000 / 64 + q % 1048576]
    (behind = 0 → exec .blackBoxCopy s = .next s) ∧
    (behind ≠ 0 → (s.slk.win = false ∨ s.rast.paused = true) → exec .blackBoxCopy s = .next (serveBar2 s)) ∧
    (behind ≠ 0 → s.slk.win = true → s.rast.paused = false → x.2 = false →
      exec .blackBoxCopy s = .next (serveBar2 { s with slk := { s.slk with deferTel := min (2 ^ 32 - 1) (s.slk.deferTel + 1) } })) ∧
    (behind ≠ 0 → s.slk.win = true → s.rast.paused = false → x.2 = true → Sound s.hbm →
      ∃ v, exec .blackBoxCopy s = .next (serveBar2 v) ∧ OnlyRegs { s with hbm := v.hbm, slk := x.1 } v [A.logHlogWptr, A.logHlogLost] ∧
        v.reg A.logHlogWptr = BitVec.ofNat 32 (q + 1) ∧ v.rf A.logHlogLost 15 0 = min (s.rf A.logHlogLost 15 0 + (behind - 4096)) 65535 ∧
        Stored s.hbm v.hbm (0x600000000 + 64 * (q % 1048576)) (logEntryBytes (smGet LogEntry.blank s.ev.box (q % 4096)))))

/-- The log export (R605, R609): a write of LOG_EXP_CTL with GO and a COUNT that is not reserved starts the export through the writing port, or ends it at once with a count of 0 while Bus Master Enable is clear; at its end, which is slack work, the entries stand in host memory as the event log holds them, GO is clear, and event 0x080D gives their
number. -/
def Sys2Proof.Stated.LogExport : Prop :=
  (∀ (p : Fin 4) (v : Word) (s : State), Served s p A.logExpCtl → p.val = s.owner →
    (s.rf A.logExpCtl 31 31 = 1 ∨ (fld v 31 31 = 1 ∧ (fld v 20 0 = 0 ∨ 1048576 < fld v 20 0)) → exec (.logExport p v) s = .next s) ∧
    (s.rf A.logExpCtl 31 31 = 0 → fld v 31 31 = 0 →
      ∃ t, exec (.logExport p v) s = .next t ∧ OnlyRegs s t [A.logExpCtl] ∧ t.rf A.logExpCtl 20 0 = fld v 20 0 ∧ t.rf A.logExpCtl 31 31 = 0) ∧
    (s.rf A.logExpCtl 31 31 = 0 → fld v 31 31 = 1 → 1 ≤ fld v 20 0 → fld v 20 0 ≤ 1048576 →
      ((s.pcfg p).bme = true → ∃ t, exec (.logExport p v) s = .next t ∧ OnlyRegs { s with acc := { s.acc with exporter := p.val } } t [A.logExpCtl] ∧
        t.rf A.logExpCtl 20 0 = fld v 20 0 ∧ t.rf A.logExpCtl 31 31 = 1) ∧
      ((s.pcfg p).bme = false → ∃ u t, exec (.logExport p v) s = .next t ∧ OnlyRegs s u [A.logExpCtl] ∧ u.rf A.logExpCtl 20 0 = fld v 20 0 ∧ u.rf A.logExpCtl 31 31 = 0 ∧
        Event u t 0x080D (leBytes 4 (s.rf A.logExpIdx 19 0) ++ [0, 0, 0, 0])))) ∧
  (∀ (p : Fin 4) (v : Word) (s : State), Served s p A.logExpCtl → p.val ≠ s.owner → exec (.logExport p v) s = .next s) ∧
  (∀ s : State, s.rf A.logExpCtl 31 31 = 0 → exec .logExportDone s = .next s) ∧
  (∀ s : State, s.rf A.logExpCtl 31 31 = 1 →
    let p := s.acc.exporter
    let n := s.rf A.logExpCtl 20 0
    let i0 := s.rf A.logExpIdx 19 0
    let h := (s.reg A.logExpAddrLo).toNat / 64 * 64 + (s.reg A.logExpAddrHi).toNat * 2 ^ 32
    ((s.pcfg p).bme = false → ∃ u t, exec .logExportDone s = .next t ∧ OnlyRegs s u [A.logExpCtl] ∧ u.rf A.logExpCtl 31 31 = 0 ∧
      Event u t 0x080D (leBytes 4 i0 ++ [0, 0, 0, 0])) ∧
    ((s.pcfg p).bme = true → s.stage ≠ 0xE → (s.slk.win = false ∨ s.rast.paused = true ∨ telemetryWaits s = true) → exec .logExportDone s = .next s) ∧
    ((s.pcfg p).bme = true → (s.stage = 0xE ∨ (s.slk.win = true ∧ s.rast.paused = false ∧ telemetryWaits s = false)) → s.hbm.marks = [] → s.hbm.flips = [] → n ≤ 1048576 → ∃ u t, exec .logExportDone s = .next t ∧
      OnlyRegs { s with host := u.host, hostBad := u.hostBad } u [A.logExpCtl] ∧ u.rf A.logExpCtl 31 31 = 0 ∧
      (∀ k i, k < n → i < 64 → u.hostByte p (h + 64 * k + i) = (s.hbm.fetch (0x600000000 + 64 * ((i0 + k) % 1048576) + i)).1) ∧
      (∀ q b, b < 2 ^ 64 → ¬(q = p ∧ ∃ i, i < 64 * n ∧ b = (h + i) % 2 ^ 64) → u.hostByte q b = s.hostByte q b) ∧
      Event u t 0x080D (leBytes 4 i0 ++ leBytes 4 n)))

/-- Frame records, replay, the event log and its export (R336 to R345, R605, R607 to R609). -/
def Obligations.RecordKeeping : Prop := Sys2Proof.Stated.RecordsAndLogs ∧ Sys2Proof.Stated.LogExport


/-- Background work (R36 to R38, R107, R109, R513, R514, R518, R521): a stack window opens once what comes before it in its line has come about, with the next refresh group, in a pause with those of a whole frame period, and BAR2 accesses that wait follow; in sound memories scrub changes no data and advances by its batch where it fits the window, and defers it whole where it does not; a codeword read as correctable is written back corrected; a slack
interval opens with its length, less what loft scrub takes; a self-test step takes 240 cycles of it, and a spar whose signature differs is recorded as failing. -/
def Obligations.BackgroundWork : Prop :=
  (∀ (m : Mem) (cw : Nat), (m.read cw).kind ≠ .ue → (m.read cw).marked ≤ 1 →
    (scrubWrite m cw).read cw = ⟨.clean, (m.read cw).data, (m.read cw).marked⟩ ∧ ∀ x, x ≠ cw → (scrubWrite m cw).read x = m.read x) ∧
  (∀ (m : Mem) (cw : Nat), (m.read cw).kind = .ue → (scrubWrite m cw).read cw = ⟨.clean, (m.read cw).data, 1⟩) ∧
  (∀ (hard : List Nat) (s0 : State), let s := if s0.rast.paused then s0 else reachSlack s0
    ((s0.rf A.sysDrst 4 4 = 1 ∨ (s0.rast.paused = false ∧ insideBlock s0 = true)) → exec (.stackWindow hard) s0 = .next s0) ∧
    (s0.rf A.sysDrst 4 4 = 0 → (s0.rast.paused = true ∨ insideBlock s0 = false) → s.hbm.marks = [] → s.hbm.flips = [] → s.repairQ = [] →
      let u := { s with slk := { s.slk with
        win := true, winBlock := opensBlock s0 && !s0.rast.paused, winLen := windowLen s0, pcFree := [], bankFree := [], calDone := !s0.rast.paused && s.slk.calDone } }
      let fits := ((refresh u).slk.playAll (scrubBatch s)).2
      ∃ t, exec (.stackWindow hard) s0 = .next (serveBar2 t) ∧ t = { s with regs := t.regs, slk := t.slk } ∧ t.slk.win = true ∧
        t.slk.winBlock = (opensBlock s0 && !s0.rast.paused) ∧
        (s.rast.paused = false → t.slk.refGroup = (s.slk.refGroup + 1) % 4) ∧
        (s.rast.paused = true → s.slk.refGroup < 4 → t.slk.refGroup = (s.slk.refGroup + (s.rast.linesTotal - 4)) % 4) ∧ t.slk.isOpen = s.slk.isOpen ∧ t.slk.left = s.slk.left ∧
        (∀ a, a ∉ [A.hbmScrubPos, A.hbmScrubStat, A.hbmDefer] → t.reg a = s.reg a) ∧
        (s.rf A.hbmScrubCtl 0 0 = 0 ∨ fits = false → t.reg A.hbmScrubPos = s.reg A.hbmScrubPos) ∧
        (s.rf A.hbmScrubCtl 0 0 = 1 → fits = true → t.rf A.hbmScrubPos 28 0 = (s.rf A.hbmScrubPos 28 0 + (scrubBatch s).length) % stackSectors) ∧
        t.rf A.hbmDefer 15 0 = (if s.rf A.hbmScrubCtl 0 0 = 1 ∧ fits = false then min (s.rf A.hbmDefer 15 0 + 1) 65535 else s.rf A.hbmDefer 15 0))) ∧
  (∀ (hard : List Nat) (s0 : State), let s := reachSlack s0
    (s0.rast.paused = true ∨ insideBlock s0 = true → exec (.slackInterval hard) s0 = .next s0) ∧
    (s0.rast.paused = false → insideBlock s0 = false → s.fab.loft.marks = [] → s.fab.loft.flips = [] →
      (∀ n, smGet 0 s.slk.loftCe n ≤ s.rf A.loftScrubCtl 31 16) →
      let n := if opensBlock s0 then 64 * s.rf A.loftScrubCtl 11 8 else s.rf A.loftScrubCtl 11 8
      let fits := decide (s.rf A.loftScrubCtl 0 0 = 1 ∧ ceilDiv n 8 ≤ intervalLen s0)
      ∃ t, exec (.slackInterval hard) s0 = .next t ∧ t = { s with regs := t.regs, slk := t.slk } ∧ t.slk.isOpen = true ∧ t.slk.block = opensBlock s0 ∧
        t.slk.fin = (if s0.inExt then 0 else issueW s0.rast.linePeriod s0.rast.reef) + intervalLen s0 ∧
        t.slk.left = (if fits then intervalLen s0 - ceilDiv n 8 else intervalLen s0) ∧ (∀ a, a ≠ A.loftScrubStat → t.reg a = s.reg a) ∧
        t.rf A.loftScrubStat 31 16 =
          (if s.rf A.loftScrubCtl 0 0 = 1 ∧ fits = false then min (s.rf A.loftScrubStat 31 16 + 1) 65535 else s.rf A.loftScrubStat 31 16))) ∧
  (∀ (fails : List (Fin 64)) (c : BitVec 16) (s : State),
    let u := { s with slk := { s.slk with left := s.slk.left - 240, selfStep := (s.slk.selfStep + 1) % 2048 } }
    (s.slk.isOpen = true ∧ 240 ≤ s.slk.left ∧ s.rast.paused = false →
      exec (.selfTestStep [] c) s = .next u ∧
      ∀ n : Fin 64, s.fab.failed.contains n.val = false → s.absent n = false →
        ∃ t, exec (.selfTestStep [n] c) s = .next t ∧ t.fab.failed = s.fab.failed ++ [n.val] ∧
          Event { u with fab := { s.fab with failed := t.fab.failed, badPhys := t.fab.badPhys } } t 0x0301
            (leBytes 1 n.val ++ leBytes 1 (s.phys n) ++ leBytes 6 s.rast.frame.toNat ++ leBytes 2 s.rast.line ++ leBytes 2 c.toNat)) ∧
    (¬(s.slk.isOpen = true ∧ 240 ≤ s.slk.left ∧ s.rast.paused = false) → exec (.selfTestStep fails c) s = .next s))

/-- Fitting steps (R304, R309 to R311, R318, R638): a step starts where nothing holds the job back; its next bundle starts in an interval of its class that still holds it, behind the loft batches of copy channels (R38), and completes LEN cycles later; otherwise the offer counts as deferred; the step counts when its last bundle has completed; AVAIL takes what the owning port writes. -/
def Sys2Proof.Stated.FittingSteps : Prop :=
  (∀ (n : Fin 8) (s : State) (g : FitImage), s.jobFit n = some g →
    let j := s.job n
    let may := j.inStep = false ∧ j.stopping = false ∧ s.rast.paused = false ∧ s.rf (A.chanFitCtl n) 0 0 = 1 ∧
      0 < signedDiff 32 (s.reg (A.chanFitAvail n)).toNat (s.fitStep n) ∧ (g.steps = 0 ∨ s.fitStep n < g.steps) ∧
      s.rf (A.chanFitCtl n) 4 4 = 0 ∧ (s.rf (A.chanFitCtl n) 2 2 = 0 ∨ j.restored = true)
    (may → exec (.fitStepStart n) s = .next (s.setJob n { j with inStep := true, running := false, next := g.nextFrom (s.fitStep n) 0 })) ∧
    (¬ may → exec (.fitStepStart n) s = .next s)) ∧
  (∀ (n : Fin 8) (s : State), s.jobFit n = none → exec (.fitStepStart n) s = .next s) ∧
  (∀ (n : Fin 8) (s0 : State), let s := fitReachEnd n.val s0
    s.jobFit n = none ∨ (s.job n).inStep = false ∨ (s.job n).running = true → exec (.fitStepComplete n) s0 = .next s) ∧
  (∀ (s0 : State) (ch n : Nat) (l : List (Nat × Nat)) (g : FitImage) (b : Bool × Bool × Nat), s0.slk.isOpen = true → s0.rast.paused = false →
    let s := reachOffer s0
    loftBatchWaits s = false → bgOrder s = (ch, n) :: l → s.jobFit n = some g → (g.rows s.rast.reef)[(s.job n).next]? = some b → bitOf g.reefMask s.rast.reef = true →
    b.1 = s.slk.block → b.2.2 ≤ s.slk.left →
    let at' := s.slk.fin - s.slk.left
    ∃ t, exec .fitBundle s0 = .next t ∧ t = { s with jobs := t.jobs, fab := { s.fab with ended := t.fab.ended, flight := t.fab.flight }, slk := t.slk } ∧
      t.fab.flight = s.fab.flight ++ [⟨at' + b.2.2, 0, .bundleEnd ch⟩] ∧
      t.job n = { s.job n with running := true, start := (at' : Int), len := b.2.2, consec := 0, starved := false } ∧ (∀ m, m ≠ n → t.job m = s.job m) ∧
      t.slk = { s.slk with left := s.slk.left - b.2.2, lastBg := ch } ∧ (∀ e, e ∈ t.fab.ended ↔ e ∈ s.fab.ended ∧ e.2 ≠ ch)) ∧
  (∀ (s0 : State) (ch n : Nat), s0.slk.isOpen = true → s0.rast.paused = false →
    let s := reachOffer s0
    loftBatchWaits s = false → bgOrder s = [(ch, n)] → fitFits s n = false →
    (s.job n).consec + 1 ≠ 65536 →
    ∃ t, exec .fitBundle s0 = .next t ∧ t = { s with jobs := t.jobs, regs := t.regs } ∧ t.job n = { s.job n with consec := (s.job n).consec + 1 } ∧
      (∀ m, m ≠ n → t.job m = s.job m) ∧ (∀ a, a ≠ A.chanFitDefer n → t.reg a = s.reg a) ∧
      (t.reg (A.chanFitDefer n)).toNat = min ((s.reg (A.chanFitDefer n)).toNat + 1) (2 ^ 32 - 1)) ∧
  (∀ s : State, s.slk.isOpen = false ∨ s.rast.paused = true → exec .fitBundle s = .next s) ∧
  (∀ s0 : State, s0.slk.isOpen = true → s0.rast.paused = false →
    let s := reachOffer s0
    bgOrder s = [] ∨ loftBatchWaits s = true → exec .fitBundle s0 = .next s) ∧
  (∀ (n : Fin 8) (s0 : State) (g : FitImage),
    let s := fitReachEnd n.val s0
    s.jobFit n = some g → (s.job n).inStep = true → (s.job n).running = false → g.nbund ≤ (s.job n).next →
    ∃ t, exec (.fitStepComplete n) s0 = .next t ∧ t.job n = { s.job n with inStep := false, next := 0, snapOwn := (s.job n).gatherOwn, gather := [], gatherOwn := [] } ∧
      t.reg (A.chanFitStep n) = BitVec.ofNat 32 (s.fitStep n + 1) ∧ (∀ a, a ≠ A.chanFitStep n → t.reg a = s.reg a) ∧ (∀ m, m ≠ n.val → t.job m = s.job m) ∧
      Told { s with regs := t.regs, jobs := t.jobs } t) ∧
  (∀ (p : Fin 4) (n : Fin 8) (v : Word) (s : State), Served s p (A.chanFitAvail n) →
    ((s.jobSlot n).isSome = true ∧ p.val = s.jobPort n → exec (.fitAvail p n v) s = .next (s.setReg (A.chanFitAvail n) v)) ∧
    (¬((s.jobSlot n).isSome = true ∧ p.val = s.jobPort n) → exec (.fitAvail p n v) s = .next s))

/-- Checkpoints (R84, R322 to R324): a request of the owning port sets CKPT; at a step boundary, in an open block interval, the checkpoint is written at CKBASE, as far as it lies in the partition of the job's port (R538), CKPT clears and event 0x0334 gives the step; with RESTORE set, a good checkpoint is loaded in slack before the first step, its declared registers in the order they were written, and a bad one is refused with
event 0x0335 and nothing else. The encoding of a checkpoint's items is the model's (log 40). -/
def Sys2Proof.Stated.Checkpoints : Prop :=
  (∀ (p : Fin 4) (n : Fin 8) (s : State), Served s p (A.chanFitCtl n) →
    ((s.jobSlot n).isSome = true ∧ p.val = s.jobPort n → exec (.fitCkptRequest p n) s = .next (s.setRf (A.chanFitCtl n) 4 4 1)) ∧
    (¬((s.jobSlot n).isSome = true ∧ p.val = s.jobPort n) → exec (.fitCkptRequest p n) s = .next s)) ∧
  (∀ (n : Fin 8) (s : State) (g : FitImage), s.jobFit n = some g → s.rf (A.chanFitCtl n) 4 4 = 1 → (s.job n).inStep = false → s.slk.isOpen = true → s.slk.block = true →
    let a := 4096 * s.rf (A.chanFitCkbase n) 22 0
    ∃ u t, exec (.fitCkptDone n) s = .next t ∧ u.hbm = s.hbm.write (((ckptImage s n g).zipIdx.map (fun b => (a + b.2, b.1.1, b.1.2))).filter (fun b => decide ((jobPart s n).1 ≤ b.1 ∧ b.1 < (jobPart s n).2))) ∧
      u.reg (A.chanFitCtl n) = setFld (s.reg (A.chanFitCtl n)) 4 1 0 ∧
      (s.hbm.marks = [] → s.hbm.flips = [] →
        (∀ r, r ≠ A.chanFitCtl n → (∀ m, m < 64 → r ≠ A.sparCrucPerr m) → u.reg r = s.reg r) ∧ u = { s with hbm := u.hbm, regs := u.regs }) ∧
      Event u t 0x0334 (leBytes 1 n.val ++ leBytes 4 (s.fitStep n))) ∧
  (∀ (n : Fin 8) (s : State) (g : FitImage), s.jobFit n = some g → s.rf (A.chanFitCtl n) 4 4 = 0 ∨ (s.job n).inStep = true ∨ s.slk.isOpen = false ∨ s.slk.block = false →
    exec (.fitCkptDone n) s = .next s) ∧
  (∀ (n : Fin 8) (s : State) (g : FitImage), s.jobFit n = some g → s.rf (A.chanFitCtl n) 2 2 = 1 → (s.job n).restored = false → (s.job n).inStep = false →
    s.fitStep n = 0 → s.slk.isOpen = true →
    let a := 4096 * s.rf (A.chanFitCkbase n) 22 0
    let sRegs := (List.range 32).filter (bitOf g.sUse)
    let aRegs := (List.range 8).filter (bitOf g.aUse)
    let size := 4 * sRegs.length + 5 * aRegs.length + (if g.gen then 5 else 0)
    (ckptGood s n a g = false → ∃ t, exec (.fitCkptRestore n) s = .next t ∧ Event (s.hbmTake 4 a (ckptLen s n g + 8)) t 0x0335 (leBytes 1 n.val)) ∧
    (ckptGood s n a g = true → ∃ t, exec (.fitCkptRestore n) s = .next t ∧ t.reg (A.chanFitStep n) = BitVec.ofNat 32 (s.imgNum (a + 4) 4) ∧
      (t.job n).restored = true ∧ (t.job n).nextVer = s.imgNum (a + 8) 4 ∧ t.rf (A.chanFitPstat n) 1 0 = s.imgNum (a + 12) 4 % 4 ∧ t.hbm = s.hbm ∧
      (s.hbm.marks = [] → s.hbm.flips = [] → ∀ r, r ≠ A.chanFitStep n → r ≠ A.chanFitPstat n → t.reg r = s.reg r) ∧
      (∀ i m, (jobSpars s g)[i]? = some m →
        (∀ r k, sRegs[r]? = some k → t.sReg m k = BitVec.ofNat 32 (s.imgNum (a + 64 + size * i + 4 * r) 4)) ∧
        (∀ r k, aRegs[r]? = some k → t.aReg m k = BitVec.ofNat 40 (s.imgNum (a + 64 + size * i + 4 * sRegs.length + 5 * r) 5))) ∧
      (∀ m k, k < 32 → ¬(m ∈ jobSpars s g ∧ k ∈ sRegs) → t.sReg m k = s.sReg m k) ∧ (∀ m k, k < 8 → ¬(m ∈ jobSpars s g ∧ k ∈ aRegs) → t.aReg m k = s.aReg m k))) ∧
  (∀ (n : Fin 8) (s : State), s.rf (A.chanFitCtl n) 2 2 = 0 ∨ (s.job n).restored = true ∨ (s.job n).inStep = true ∨ s.fitStep n ≠ 0 ∨ s.slk.isOpen = false →
    exec (.fitCkptRestore n) s = .next s)

/-- Fitting steps and checkpoints (R84, R304, R309 to R311, R318, R322 to R324). -/
def Obligations.FittingJobs : Prop := Sys2Proof.Stated.FittingSteps ∧ Sys2Proof.Stated.Checkpoints


/-! ### Ports and domain groups -/

/-- A reset of one port (R558, R567, R568): its channels are closed at once, to leave at the next boundary; its queued admissions, its stalled accesses and those that wait for their stack window, counted as LOST of its crossings, its configuration space, fence counters, event queue registers, command state and MSI-X table go, and the wedged marks of its crossings clear; where none of
its slots feeds a layer no other port is touched. -/
def Sys2Proof.Stated.PortResets : Prop :=
  ∀ (p : Fin 4) (s : State), s.ports.contains p.val = true →
    ∃ t, exec (.portReset p) s = .next t ∧
      (∀ n, (s.slot n).port = p.val → (s.slot n).st = .inUse ∨ (s.slot n).st = .closing ∨ (s.slot n).st = .error →
        t.slot n = { s.slot n with st := .closing, live := false, run := none, admitSt := 0, wdraw := [(.portReset, s.rast.frame + 1)] }) ∧
      (∀ n, ¬((s.slot n).port = p.val ∧ ((s.slot n).st = .inUse ∨ (s.slot n).st = .closing ∨ (s.slot n).st = .error)) → t.slot n = s.slot n) ∧
      t.adm = s.adm.filter (fun q => decide (q.port ≠ p.val)) ∧ t.pcfg p = PortCfg.reset ∧ (∀ q, q ≠ p.val → t.pcfg q = s.pcfg q) ∧
      t.acc.stalled = s.acc.stalled.filter (fun q => decide (q.port ≠ p.val)) ∧ t.bar2Q = s.bar2Q.filter (fun e => decide (e.1 ≠ p.val)) ∧ p.val ∈ t.acc.portResets ∧ p.val ∉ t.aon.refLost ∧
      (∀ a, (0x100020 ≤ a ∧ a < 0x1000C0) ∨ (0xF00000 ≤ a ∧ a < 0xF01008) → t.preg p a = pregReset a) ∧
      t.reg A.sysXingWedged = s.reg A.sysXingWedged &&& ~~~(BitVec.ofNat 32 (2 ^ p.val + 2 ^ (4 + p.val))) ∧
      t.reg (A.sysXingCnt p) = bumpFld (s.reg (A.sysXingCnt p)) 16 16 (s.acc.stalled.filter (fun q => decide (q.port = p.val))).length ∧
      t.reg (A.sysXingCnt (4 + p)) = bumpFld (s.reg (A.sysXingCnt (4 + p))) 16 16 (s.bar2Q.filter (fun e => decide (e.1 = p.val))).length ∧
      (∀ a, a ∉ [A.sysXingWedged, A.sysXingCnt p, A.sysXingCnt (4 + p)] → t.reg a = s.reg a) ∧ t.hbm = s.hbm ∧ t.fab = s.fab ∧ t.rast = s.rast ∧
      ((∀ n, (s.slot n).port = p.val → (s.slot n).passages = []) → t.ev.box = s.ev.box ∧ t.host = s.host ∧
        ∀ q a, a < 2 ^ 24 → ¬(q = p.val ∧ ((0x100020 ≤ a ∧ a < 0x1000C0) ∨ (0xF00000 ≤ a ∧ a < 0xF01008))) → t.preg q a = s.preg q a)

/-- The resets of domain groups (R355, R569 to R571): a request of the display-owning port for a group that is not in reset sets its bit with the group's effect: the output stops and will train, the input is lost, the Wearo ports go down with reason 4, the servo starts in FREERUN with the time of day untouched, the
stack is held, the port is reset; MEM is refused while the part runs; the end of the resets clears the bits and the wedged marks and is reported. -/
def Sys2Proof.Stated.DomainResets : Prop :=
  (∀ (p : Fin 4) (s : State), Served s p A.sysDrst → p.val = s.owner →
    (s.rf A.sysDrst 0 0 = 0 → ∃ t, exec (.drstOut p) s = .next t ∧ OnlyRegs { s with out := t.out } t [A.sysDrst] ∧ t.rf A.sysDrst 0 0 = 1 ∧
      (s.rf A.rastOutCtl 0 0 = 1 → t.out = { s.out with lost := true, training := true, trained := false, line := [] }) ∧ (s.rf A.rastOutCtl 0 0 = 0 → t.out = s.out)) ∧
    (s.rf A.sysDrst 1 1 = 0 → ∃ t, exec (.drstIn p) s = .next t ∧ t.rf A.sysDrst 1 1 = 1 ∧ t.inp.storing = false ∧ t.inp.hpd = false ∧
      t.rf A.rastInStat 1 0 = 0 ∧ t.reg A.rastInMeas = 0 ∧ t.hbm = s.hbm ∧ t.fab = s.fab) ∧
    (s.rf A.sysDrst 2 2 = 0 → ∃ t, exec (.drstLink p) s = .next t ∧ t.rf A.sysDrst 2 2 = 1 ∧
      (∀ q, q < 6 → t.portState q = 0 ∧ t.rf (A.linkPortStat q) 7 4 = 4) ∧ t.wire = [] ∧ t.hbm = s.hbm ∧ t.fab = s.fab) ∧
    (s.rf A.sysDrst 3 3 = 0 → ∃ t, exec (.drstTime p) s = .next t ∧ t.rf A.sysDrst 3 3 = 1 ∧ t.servo = 0 ∧ t.tod = s.tod ∧
      (s.servo ≠ 0 → t.rf A.timeStat 3 3 = 0) ∧ t.hbm = s.hbm ∧ t.fab = s.fab) ∧
    (s.rf A.sysDrst 4 4 = 0 →
      (s.rast.paused = true → ∃ t, exec (.drstMem p) s = .next t ∧ OnlyRegs s t [A.sysDrst] ∧ t.rf A.sysDrst 4 4 = 1) ∧
      (s.rast.paused = false → ∃ t, exec (.drstMem p) s = .next t ∧ Event s t 0x010C [0x10, 0])) ∧
    (∀ q : Fin 4, bitAt (s.reg A.sysDrst) (8 + q) = false →
      (q ≠ p → s.ports.contains q.val = true → exec (.drstHost p q) s = .next (portReset q (s.setRf A.sysDrst (8 + q) (8 + q) 1))) ∧
      ((q = p ∨ s.ports.contains q.val = false) → exec (.drstHost p q) s = .next s)) ∧
    (∀ x ∈ [(Instr.drstOut p, 0), (.drstIn p, 1), (.drstLink p, 2), (.drstTime p, 3), (.drstMem p, 4)], bitAt (s.reg A.sysDrst) x.2 = true → exec x.1 s = .next s)) ∧
  (∀ (p q : Fin 4) (s : State), Served s p A.sysDrst → p.val ≠ s.owner →
    ∀ x ∈ [Instr.drstOut p, .drstIn p, .drstLink p, .drstTime p, .drstMem p, .drstHost p q], exec x s = .next s) ∧
  (∀ s : State, let m := s.rf A.sysDrst 11 0
    (m = 0 → exec .domainResetDone s = .next s) ∧
    (m ≠ 0 → ∃ t, exec .domainResetDone s = .next (if bitOf m 4 then serveBar2 t else t) ∧ t.reg A.sysDrst = 0 ∧
      (∀ k, k < 14 → bitAt (t.reg A.sysXingWedged) k = (bitAt (s.reg A.sysXingWedged) k && !bitOf (groupXings m) k)) ∧ t.hbm = s.hbm ∧ t.fab = s.fab ∧
      (bitOf m 1 = true → t.inp.hpd = (decide (s.rf A.rastInCtl 0 0 = 1) && !s.inp.pulse)) ∧
      (bitOf m 1 = false → bitOf m 2 = false →
        Event ((s.setReg A.sysDrst 0).setReg A.sysXingWedged (t.reg A.sysXingWedged)) t 0x0109 (leBytes 2 m))))

/-- The resets of a port and of domain groups (R355, R558, R567, R569 to R571). -/
def Obligations.PortAndGroupResets : Prop := Sys2Proof.Stated.PortResets ∧ Sys2Proof.Stated.DomainResets


/-- A port's link and configuration space (R529, R531, R539, R560, R596, R599): HOST_PORT.SPEED follows the link and is 0 without a reference clock; configuration requests are answered, or told to retry until the boot is complete: the identifiers are those of R529, and memory decoding, Bus Master Enable, the base addresses,
MSI-X and the power state take what is written. -/
def Obligations.PortLinks : Prop :=
  (∀ (p : Fin 4) (v : BitVec 4) (s : State), s.ports.contains p.val = true →
    (v.toNat ≤ 6 → s.aon.refLost.contains p.val = false →
      ∃ t, exec (.pcieLinkTrained p v) s = .next t ∧ OnlyPregs s t p [A.hostPort] ∧ t.preg p A.hostPort = setFld (s.preg p A.hostPort) 16 4 v.toNat) ∧
    (6 < v.toNat ∨ s.aon.refLost.contains p.val = true → exec (.pcieLinkTrained p v) s = .next s)) ∧
  (∀ (p : Fin 4) (s : State), s.ports.contains p.val = true →
    (s.aon.refLost.contains p.val = false → ∃ t, exec (.portReferenceClockLost p) s = .next t ∧
      OnlyPregs { s with aon := { s.aon with refLost := s.aon.refLost ++ [p.val] } } t p [A.hostPort] ∧ t.prf p A.hostPort 19 16 = 0) ∧
    (s.aon.refLost.contains p.val = true → exec (.portReferenceClockLost p) s = .next s)) ∧
  (∀ (p : Fin 4) (r : CfgReq) (s : State), s.ports.contains p.val = true → s.aon.refLost.contains p.val = false → bitAt (s.reg A.sysDrst) (8 + p) = false →
    s.stage ≠ 0xF → ¬(s.stage = 0xE ∧ p.val = 0) →
    ∃ t, exec (.configurationRequest p r) s = .next t ∧ t = { s with answer := t.answer } ∧ smGet ([], false) t.answer p.val = ([], true)) ∧
  (∀ (p : Fin 4) (s : State), s.ports.contains p.val = true → s.aon.refLost.contains p.val = false → bitAt (s.reg A.sysDrst) (8 + p) = false →
    (s.stage = 0xF ∨ (s.stage = 0xE ∧ p.val = 0)) →
    let c := s.pcfg p
    (∀ x ∈ [(0x000#10, 0x91601E7A#32), (0x002#10, if s.bitClass = 1 then 0x12000011#32 else 0x12000020#32), (0x004#10, BitVec.ofNat 32 (c.bar0.toNat % 2 ^ 32 + 4)), (0x005#10, BitVec.ofNat 32 (c.bar0.toNat / 2 ^ 32)),
        (0x006#10, 0xC#32), (0x007#10, BitVec.ofNat 32 (c.bar2.toNat / 2 ^ 32)), (0x008#10, 0#32), (0x009#10, 0#32),
        (0x00B#10, if s.grade = 2 then 0x00021E7A#32 else 0x00011E7A#32)],
      ∃ t, exec (.configurationRequest p (.read x.1)) s = .next t ∧ t = { s with answer := t.answer } ∧ Answered s t p (leBytes 4 x.2.toNat)) ∧
    (∀ dw : BitVec 10, ∃ t, exec (.configurationRequest p (.read dw)) s = .next t ∧ t = { s with answer := t.answer } ∧
      Answered s t p (leBytes 4 (cfgRead p dw.toNat s).toNat)) ∧
    (∀ m b, ∃ t, exec (.configurationRequest p (.command m b)) s = .next t ∧ t.pcfg p = { c with mem := m, bme := b } ∧ (∀ q, q ≠ p.val → t.pcfg q = s.pcfg q) ∧
      Answered s t p [] ∧ t = { s with answer := t.answer, cfg := t.cfg, pregs := t.pregs, host := t.host, hostBad := t.hostBad, ev := t.ev } ∧
      (b = false → t.pregs = s.pregs ∧ t.host = s.host)) ∧
    (∀ (n : Fin 6) (v : Word), ∃ t, exec (.configurationRequest p (.bar n v)) s = .next t ∧ (∀ q, q ≠ p.val → t.pcfg q = s.pcfg q) ∧ Answered s t p [] ∧
      t = { s with answer := t.answer, cfg := t.cfg } ∧
      (n = 0 → t.pcfg p = { c with bar0 := (c.bar0 &&& 0xFFFFFFFF00000000#64) ||| (v.setWidth 64 &&& 0xFF000000#64) }) ∧
      (n = 1 → t.pcfg p = { c with bar0 := (c.bar0 &&& 0xFFFFFFFF#64) ||| (v.setWidth 64 <<< 32) }) ∧
      (n = 3 → t.pcfg p = { c with bar2 := v.setWidth 64 <<< 32 }) ∧ (n ≠ 0 → n ≠ 1 → n ≠ 3 → t.pcfg p = c)) ∧
    (∀ e m, ∃ t, exec (.configurationRequest p (.msixCtl e m)) s = .next t ∧ t.pcfg p = { c with msixEn := e, msixMask := m } ∧ (∀ q, q ≠ p.val → t.pcfg q = s.pcfg q) ∧
      Answered s t p [] ∧ (e = false ∨ m = true → t = { s with answer := t.answer, cfg := t.cfg })) ∧
    (∀ d, ∃ t, exec (.configurationRequest p (.power d)) s = .next t ∧ t.pcfg p = { c with d3 := d } ∧ (∀ q, q ≠ p.val → t.pcfg q = s.pcfg q) ∧
      Answered s t p [] ∧ t = { s with answer := t.answer, cfg := t.cfg }))

/-! ### Resets, the boot, the environment, fuses and the debug port -/

namespace Sys2Proof.Machine

/-- From s a reset with a cause and a boot count has led to t (R591, R595, R601): the raster stands at (0, 0, 0), no channel is in use, spar registers, crucibles and loft are clear, host memory and the queue of commands are as they were; the boot stands at stage 7, or at 0xE with FAULT_N, as it does where a
fuse word is uncorrectable; otherwise the user region reads zero. -/
abbrev AfterReset (s t : State) (cause boots : Nat) (b : BootRun) : Prop :=
  t.rf A.safeRstCause 3 0 = cause ∧ t.rf A.safeRstCause 31 16 = boots ∧
  (t.stage = 7 ∨ (t.stage = 0xE ∧ t.aon.faultN = true)) ∧ (b.fuseUe = true → t.stage = 0xE) ∧
  t.rast.frame = 0 ∧ t.rast.line = 0 ∧ t.rast.paused = false ∧ t.slots = [] ∧ t.adm = [] ∧ t.commits = [] ∧
  t.fab.sreg = [] ∧ t.fab.breg = [] ∧ t.fab.areg = [] ∧ t.fab.gen = [] ∧ t.fab.crucible = [] ∧ t.fab.descr = [] ∧ t.fab.loft = Mem.zero ∧
  t.host = s.host ∧ t.pending = s.pending ∧
  (b.fuseUe = false → ∀ k, k < userHbm → t.hbm.fetch k = (0, 0))

/-- A write of the display-owning port to a register whose access is served. -/
abbrev Owning (s : State) (p : Fin 4) (a : Nat) : Prop := Served s p a ∧ p.val = s.owner

/-- From s to t a SAFE_CMD ended with a result, and nothing but its status register changed (R605). -/
abbrev CmdEnded (s t : State) (result : Nat) : Prop := OnlyRegs s t [A.safeCmdStat] ∧ t.reg A.safeCmdStat = BitVec.ofNat 32 (result * 2 ^ 4)

end Sys2Proof.Machine

/-- The resets (R591 to R594, R613): each trigger that no reset in progress absorbs leads to the state after a reset, with its cause; a power-on reset counts as the first boot; a supply fault and a fall of VDD_AON hold the part in reset, the one keeping the stack and the log, the other losing both. -/
def Obligations.Resets : Prop :=
  (∀ (v : BitVec 2) (b : BootRun) (s : State), ∃ t, exec (.powerOnReset v b) s = .next t ∧ AfterReset s t 0 1 b ∧
    t.bifur = (if v = 1 then 1 else if v = 2 then 2 else 0)) ∧
  (∀ (b : BootRun) (s : State), let boots := min (s.rf A.safeRstCause 31 16 + 1) 65535
    (2 ≤ s.resetScope → ∃ t, exec (.coldReset b) s = .next t ∧ AfterReset s t 1 boots b) ∧ (s.resetScope ≤ 1 → exec (.coldReset b) s = .next s) ∧
    (s.resetScope = 3 → ∃ t, exec (.warmReset b) s = .next t ∧ AfterReset s t 2 boots b) ∧ (s.resetScope ≤ 2 → exec (.warmReset b) s = .next s) ∧
    (∀ p : Fin 4, Owning s p A.safeRst → s.resetScope = 3 → ∃ t, exec (.warm p b) s = .next t ∧ AfterReset s t 3 boots b) ∧
    (∀ p : Fin 4, Served s p A.safeRst → p.val ≠ s.owner → exec (.warm p b) s = .next s) ∧
    (s.rf A.safeEnv 10 10 = 1 → s.resetScope = 3 → ∃ t, exec (.thermalTripClear b) s = .next t ∧ AfterReset s t 4 boots b) ∧
    (s.rf A.safeEnv 10 10 = 0 → exec (.thermalTripClear b) s = .next s) ∧
    (s.aon.held = true → ∃ t, exec (.railsBackWithinLimits b) s = .next t ∧ AfterReset s t 5 boots b ∧ t.aon.held = false) ∧
    (s.aon.held = false → exec (.railsBackWithinLimits b) s = .next s)) ∧
  (∀ s : State, ∃ t, exec .supplyFault s = .next t ∧ t.aon.held = true ∧ t.hbm = s.hbm ∧ t.host = s.host ∧ t.ev.seq = s.ev.seq ∧ t.ev.box = s.ev.box ∧
    t.rf A.safeRstCause 31 16 = s.rf A.safeRstCause 31 16 ∧ t.rf A.safeRstCause 3 0 = s.rf A.safeRstCause 3 0 ∧ runningSlot t = runningSlot s ∧
    t.slots = [] ∧ t.rast.frame = 0 ∧ t.fab.loft = Mem.zero ∧ t.fab.sreg = [] ∧ t.pending = s.pending) ∧
  (∀ s : State, ∃ t, exec .vddAonFall s = .next t ∧ t.aon.held = true ∧ t.hbm = Mem.zero ∧ t.host = s.host ∧ t.ev.seq = 0 ∧ t.ev.box = [] ∧
    t.reg A.safeRstCause = 0 ∧ t.aon.fuses = s.aon.fuses ∧ t.slots = [] ∧ t.rast.frame = 0 ∧ t.fab.loft = Mem.zero ∧ t.fab.sreg = [] ∧ t.pending = s.pending)

/-- The fabric reset and the end of the boot (R85, R100, R594 to R600, R602): FABRIC is refused while the part runs; the reset derives the spare map from fuses and retirements, clears what R591 clears and is reported; BOOT_DONE makes the part ready and goes to the black box; GO in the recovery state checks slot A, boots
it, or says why not. -/
def Obligations.FabricAndBoot : Prop :=
  (∀ (p : Fin 4) (s : State), Served s p A.safeRst →
    (p.val = s.owner → s.rast.paused = true → ∃ t, exec (.fabric p) s = .next t ∧ OnlyRegs s t [A.safeRst] ∧ t.reg A.safeRst = setFld (s.reg A.safeRst) 1 1 1) ∧
    (p.val = s.owner → s.rast.paused = false → ∃ t, exec (.fabric p) s = .next t ∧ Event s t 0x0802 [1]) ∧
    (p.val ≠ s.owner → exec (.fabric p) s = .next s)) ∧
  (∀ (vpp : Bool) (s : State), (s.rf A.safeRst 1 1 = 0 → exec (.fabricResetDone vpp) s = .next s) ∧
    (s.rf A.safeRst 1 1 = 1 → ∃ u t, exec (.fabricResetDone vpp) s = .next t ∧ Event u t 0x0802 [0] ∧ u.rf A.safeRst 1 1 = 0 ∧
      u.fab.sreg = [] ∧ u.fab.areg = [] ∧ u.fab.gen = [] ∧ u.fab.crucible = [] ∧ u.fab.descr = [] ∧ u.fab.loft = Mem.zero ∧ u.fab.failed = [] ∧
      (∀ n, n < 64 → u.reg (A.sparSat n) = 0 ∧ u.reg (A.sparUfz n) = 0 ∧ u.reg (A.sparPoi n) = 0 ∧ u.reg (A.sparCrucPerr n) = 0) ∧
      (s.Canonical → ∀ n k, n < 64 → k < 16 → u.bReg n k = s.reg (A.sparBound n k)) ∧ (∀ n, n < 64 → u.phys n = u.sparesNow.1.getD n 0x7F) ∧
      (s.fab.failed = [] → u.sparesNow = s.sparesNow) ∧ u.hbm = s.hbm ∧ u.rast.frame = s.rast.frame ∧ u.rast.paused = s.rast.paused)) ∧
  (∀ s : State, (s.stage ≠ 7 → exec .bootDone s = .next s) ∧
    (s.stage = 7 → ∃ t, exec .bootDone s = .next t ∧ t.stage = 0xF ∧ t.reg A.sysXingWedged = 0 ∧ (∀ a, a ≠ A.sysXingWedged → a ≠ A.safeBootStat → t.reg a = s.reg a) ∧
      Event { s with regs := t.regs } t 0x0800 [BitVec.ofNat 8 (s.rf A.safeBootStat 8 8), BitVec.ofNat 8 (s.rf A.safeBootStat 18 12), BitVec.ofNat 8 (s.rf A.safeRstCause 3 0)] ∧
      t.pregs = s.pregs ∧ t.host = s.host)) ∧
  (∀ (p : Fin 4) (b : BootRun) (s : State), Served s p A.safeBootStat →
    (p.val = s.owner → s.stage = 0xE → s.aon.fuseBad = false →
      exec (.recoveryGo p b) s = .next (if imageReason s (slotImage s 0) = 0 then stageFabric b (acceptImage 0 1 (slotImage s 0) (slotRead s 0))
        else rejectImage 2 (imageReason s (slotImage s 0)) (slotRead s 0))) ∧
    (p.val ≠ s.owner ∨ s.stage ≠ 0xE ∨ s.aon.fuseBad = true → exec (.recoveryGo p b) s = .next s)) ∧
  (∀ (cand r : Nat) (s : State), Event (s.setReg A.safeBootStat (setFld (s.reg A.safeBootStat) 4 4 r)) (rejectImage cand r s) 0x0801 [BitVec.ofNat 8 cand, BitVec.ofNat 8 r]) ∧
  (∀ (b : BootRun) (s : State), (stageFabric b s).stage = 7 ∧ (stageFabric b s).fab.loft = Mem.zero ∧ (stageFabric b s).fab.sreg = [])

/-- Environmental faults (R610, R612, R613, R622): each is recorded in SAFE_ENV and its latch and reported once; a thermal trip asserts FAULT_N, stops the output and takes VDD_CORE to retention; a shorted output lane or AUX stops the output as a lost sink; without power the optics take every Wearo port down with reason 1 and
their sensors have no reading, and with power again the enabled ports with signal train. -/
def Obligations.EnvironmentFaults : Prop :=
  (∀ (x : Fin 76) (r : BitVec 12) (s : State),
    (s.rf A.safeEnv 10 10 = 1 → exec (.thermalTrip x r) s = .next s) ∧
    (s.rf A.safeEnv 10 10 = 0 → ∃ u t, exec (.thermalTrip x r) s = .next t ∧
      u.ev = { s.ev with w1c := u.ev.w1c } ∧
      u = { s with regs := u.regs, ev := u.ev, aon := { s.aon with faultN := true }, gov := { s.gov with vid := 0 }, out := { s.out with line := [], scanned := [], trained := false } } ∧
      u.reg A.safeEnv = s.reg A.safeEnv ||| 0x400 ∧ u.reg A.safeEnvLatch = s.reg A.safeEnvLatch ||| 0x400 ∧
      (∀ a, a ≠ A.safeEnv → a ≠ A.safeEnvLatch → u.reg a = s.reg a) ∧ t.halted = true ∧
      Event u t 0x080B (leBytes 1 x.val ++ leBytes 2 (r.signExtend 16).toNat))) ∧
  (∀ s : State,
    (s.rf A.safeEnv 0 0 = 0 → ∃ u t, exec .refclkLost s = .next t ∧ u.ev = { s.ev with w1c := u.ev.w1c } ∧ OnlyRegs { s with ev := u.ev } u [A.safeEnv, A.safeEnvLatch] ∧ u.reg A.safeEnv = s.reg A.safeEnv ||| 1 ∧
      u.reg A.safeEnvLatch = s.reg A.safeEnvLatch ||| 1 ∧ Event u t 0x0808 (leBytes 6 s.rast.frame.toNat)) ∧
    (s.rf A.safeEnv 0 0 = 1 → exec .refclkLost s = .next s) ∧
    (s.rf A.safeEnv 0 0 = 1 → ∃ u t, exec .refclkRestored s = .next t ∧ OnlyRegs s u [A.safeEnv] ∧ u.reg A.safeEnv = setFld (s.reg A.safeEnv) 0 1 0 ∧
      Event u t 0x080A (leBytes 6 s.rast.frame.toNat)) ∧
    (s.rf A.safeEnv 0 0 = 0 → exec .refclkRestored s = .next s)) ∧
  (∀ (i : Fin 2) (v : Bool) (s : State), let lo := 1 + 2 * i.val
    (s.rf A.safeEnv lo lo = 0 → ∃ u t, exec (.envSyncStuck i v) s = .next t ∧ u.ev = { s.ev with w1c := u.ev.w1c } ∧ OnlyRegs { s with ev := u.ev } u [A.safeEnv, A.safeEnvLatch] ∧
      u.rf A.safeEnv (lo + 1) lo = 1 + 2 * b2n v ∧ u.rf A.safeEnvLatch (lo + 1) lo = 1 + 2 * b2n v ∧
      (∀ k, k < 32 → k ≠ lo → k ≠ lo + 1 → bitAt (u.reg A.safeEnv) k = bitAt (s.reg A.safeEnv) k ∧ bitAt (u.reg A.safeEnvLatch) k = bitAt (s.reg A.safeEnvLatch) k) ∧
      Event u t 0x0806 (leBytes 1 i.val ++ leBytes 1 (b2n v))) ∧
    (s.rf A.safeEnv lo lo = 1 → exec (.envSyncStuck i v) s = .next s)) ∧
  (∀ (x : Option (Fin 4)) (v : Bool) (s : State), let k := match x with | some i => 5 + i.val | none => 9
    (s.rf A.rastOutCtl 0 0 = 1 → s.rf A.safeEnv k k = 0 → ∃ u t, exec (.envOutShort x v) s = .next t ∧ bitAt (u.reg A.safeEnv) k = true ∧ bitAt (u.reg A.safeEnvLatch) k = true ∧
      (∀ a, a ≠ A.safeEnv → a ≠ A.safeEnvLatch → u.reg a = s.reg a) ∧ u.out.lost = true ∧ u.out.shorted = true ∧ u.out.training = false ∧
      u.out.trained = false ∧ (s.out.lost = false ∨ s.out.trained = true → u.out.line = []) ∧ u.rast = { s.rast with train := u.rast.train } ∧
      (∀ y, u.rast.train = some y → s.out.lost = false → y.done = false) ∧ u.hbm = s.hbm ∧ u.fab = s.fab ∧
      Event u t 0x0805 (leBytes 1 (match x with | some i => i.val | none => 0xF) ++ leBytes 1 (b2n v))) ∧
    (s.rf A.rastOutCtl 0 0 = 0 ∨ s.rf A.safeEnv k k = 1 → exec (.envOutShort x v) s = .next s)) ∧
  (∀ s : State,
    (s.aon.optics = false → ∃ t, exec .opticsPowered s = .next t ∧ t.aon.optics = true ∧ t.hbm = s.hbm ∧ t.fab = s.fab ∧
      ((∀ q, q < 6 → (s.wport q).lanes = 0xE4 ∧ (s.wport q).pol = 0) → t.ev = s.ev) ∧
      ∀ q, q < 6 → t.portState q = (if (s.wport q).signal = true ∧ s.rf (A.linkPortCtl q) 0 0 = 1 ∧ s.rf A.sysDrst 2 2 = 0 then 1 else 0)) ∧
    (s.aon.optics = true → exec .opticsPowered s = .next s) ∧
    (s.aon.optics = true → ∃ t, exec .opticsUnpowered s = .next t ∧ t.aon.optics = false ∧ t.hbm = s.hbm ∧ t.fab = s.fab ∧ t.wire = [] ∧
      ∀ q, q < 6 → t.portState q = 0 ∧ t.rf (A.linkPortStat q) 7 4 = 1 ∧ (t.wport q).signal = false ∧ t.rf (A.pwrSens (69 + q)) 12 12 = 0) ∧
    (s.aon.optics = false → exec .opticsUnpowered s = .next s))

/-- The SAFE commands (R600, R605, R623): one that is not armed sets RESULT 3, one that is refused RESULT 1, one without fuse supply RESULT 2, and none of these changes a fuse; a command that is performed blows exactly its bits, is kept in the journal and is reported; of one whose supply fails the bits already checked stay
blown; UPDATE writes a good image to the flash slot that does not run. -/
def Sys2Proof.Stated.FuseCommands : Prop :=
  (∀ (p : Fin 4) (slot : Fin 4) (arm : BitVec 8) (vpp : Bool) (op : Fin 3) (n : Fin 65) (s : State), Owning s p A.safeCmd → arm ≠ 0xA5#8 →
    ∀ x ∈ [Instr.debugKill p arm vpp, .raiseSvn p arm vpp, .revokeKey p slot arm vpp, .update p arm, .vppFuseOutOfLimits p op slot arm n],
      ∃ t, exec x s = .next t ∧ CmdEnded s t 3) ∧
  (∀ (p : Fin 4) (s : State), Owning s p A.safeCmd → let f := s.aon.fuses
    let did (u t : State) (g : Fuses) (op slot : Nat) : Prop :=
      CmdEnded { s with aon := { s.aon with fuses := g, journal := some (op, slot) } } u 0 ∧ Event u t 0x0804 (leBytes 1 op ++ leBytes 1 slot)
    (∃ t, exec (.debugKill p 0xA5#8 false) s = .next t ∧ CmdEnded s t 2) ∧
    (∃ u t, exec (.debugKill p 0xA5#8 true) s = .next t ∧ did u t { f with debugKill := true } 1 0) ∧
    (s.rf A.safeBootStat 18 12 ≤ f.svn → ∀ v, ∃ t, exec (.raiseSvn p 0xA5#8 v) s = .next t ∧ CmdEnded s t 1) ∧
    (f.svn < s.rf A.safeBootStat 18 12 → (∃ t, exec (.raiseSvn p 0xA5#8 false) s = .next t ∧ CmdEnded s t 2) ∧
      (∃ u t, exec (.raiseSvn p 0xA5#8 true) s = .next t ∧ did u t { f with svn := s.rf A.safeBootStat 18 12 } 2 0) ∧
      ∀ n : Fin 65, 0 < n.val → ∃ t, exec (.vppFuseOutOfLimits p 1 0 0xA5#8 n) s = .next t ∧
        CmdEnded { s with aon := { s.aon with fuses := { f with svn := min (f.svn + n.val) (s.rf A.safeBootStat 18 12) }, journal := some (2, 0) } } t 2) ∧
    (∀ slot : Fin 4, let last := popCount 4 f.revoke = 3 ∧ bitOf f.revoke slot = false
      (slot.val = s.aon.keySlot ∨ last → ∀ v, ∃ t, exec (.revokeKey p slot 0xA5#8 v) s = .next t ∧ CmdEnded s t 1) ∧
      (slot.val ≠ s.aon.keySlot → ¬ last →
        (∃ t, exec (.revokeKey p slot 0xA5#8 false) s = .next t ∧ CmdEnded s t 2) ∧
        ∃ u t g, exec (.revokeKey p slot 0xA5#8 true) s = .next t ∧ did u t g 3 slot ∧ (∀ k, bitOf g.revoke k = (bitOf f.revoke k || decide (k = slot.val))) ∧
          g = { f with revoke := g.revoke })) ∧
    (∀ (op : Fin 3) (slot : Fin 4), (fuseBits (op.val + 1) slot s).isSome = true → ∃ t, exec (.vppFuseOutOfLimits p op slot 0xA5#8 0) s = .next t ∧ CmdEnded s t 2)) ∧
  (∀ (p : Fin 4) (s : State), Owning s p A.safeCmd → let k := 1 - s.rf A.safeBootStat 8 8
    (updateImage p s = none → ∃ t, exec (.update p 0xA5#8) s = .next t ∧ CmdEnded (rejectImage k 7 s) t 4) ∧
    (∀ m, updateImage p s = some m → let v := s.hbmReads 5 true (bar2Addr s p 0) m.length
      ∃ t, exec (.update p 0xA5#8) s = .next t ∧
      (imageReason s m ≠ 0 → CmdEnded (rejectImage k (imageReason s m) v) t 4) ∧
      (imageReason s m = 0 → t.aon = { s.aon with flash := smPut [] s.aon.flash k m, journal := some (4, k) } ∧
        Event ({ v with aon := t.aon }.setReg A.safeCmdStat 0) t 0x0809 (leBytes 1 k ++ leBytes 1 (imgField m 5 1))))) ∧
  (∀ (p : Fin 4) (slot : Fin 4) (arm : BitVec 8) (vpp : Bool) (s : State), Served s p A.safeCmd → p.val ≠ s.owner →
    ∀ x ∈ [Instr.debugKill p arm vpp, .raiseSvn p arm vpp, .revokeKey p slot arm vpp, .update p arm], exec x s = .next s)

/-- The debug and JTAG ports (R606): UNLOCK admits the debug port and is reported once, and with DEBUG_KILL blown it ignores writes; the debug port does nothing unless admitted, and then answers with what it reads or changes what it writes, a register's reserved bits apart (R14); the TAP controller follows IEEE 1149.1: five clocks with TMS 1 lead to
Test-Logic-Reset from every state, where DEBUG_KILL holds it with TDO at high impedance, and IDCODE is captured. -/
def Sys2Proof.Stated.DebugPorts : Prop :=
  (∀ (p : Fin 4) (v : Word) (s : State), Owning s p A.safeDbg →
    (s.aon.loaded.debugKill = true → exec (.debugUnlock p v) s = .next s) ∧
    (s.aon.loaded.debugKill = false →
      (fld v 0 0 = 1 → s.rf A.safeDbg 0 0 = 0 → ∃ u t, exec (.debugUnlock p v) s = .next t ∧ OnlyRegs s u [A.safeDbg] ∧ u.rf A.safeDbg 0 0 = 1 ∧
        Event u t 0x080E (leBytes 1 p.val)) ∧
      (fld v 0 0 = 1 → s.rf A.safeDbg 0 0 = 1 → ∃ t, exec (.debugUnlock p v) s = .next t ∧ OnlyRegs s t [A.safeDbg] ∧ t.reg A.safeDbg = s.reg A.safeDbg) ∧
      (fld v 0 0 = 0 → ∃ t, exec (.debugUnlock p v) s = .next t ∧ OnlyRegs s t [A.safeDbg] ∧ t.rf A.safeDbg 1 0 = 0))) ∧
  (∀ (r : DbgReq) (s : State), s.rf A.safeDbg 0 0 = 0 ∨ s.aon.loaded.debugKill = true → exec (.debugPortAccess r) s = .next s) ∧
  (∀ s : State, s.rf A.safeDbg 0 0 = 1 → s.aon.loaded.debugKill = false → let u := s.setRf A.safeDbg 1 1 1
    (∀ (x : DbgTarget) (n : Fin 65), exec (.debugPortAccess (.read x n)) s = .next { u with aon := { u.aon with dbg := dbgRead x n.val u } }) ∧
    (∀ (x : DbgTarget) (bs : List Byte), exec (.debugPortAccess (.write x bs)) s = .next (dbgPut x bs { u with aon := { u.aon with dbg := [] } })) ∧
    (∀ a : BitVec 24, dbgRead (.reg a) 4 u = leBytes 4 (u.reg a.toNat).toNat ∧ ∀ x : Word, (dbgPut (.reg a) (leBytes 4 x.toNat) u).reg a.toNat = x &&& fieldBits a.toNat)) ∧
  (∀ (tms tdi : Bool) (pins : List Bool) (s : State),
    ∃ t, exec (.jtagTapClock tms tdi pins) s = .next t ∧ t = { s with aon := { s.aon with tap := t.aon.tap } } ∧
      (s.aon.loaded.debugKill = true → t.aon.tap.st = .reset ∧ t.aon.tap.tdo = none) ∧
      (s.aon.loaded.debugKill = false → t.aon.tap.st = s.aon.tap.st.next tms ∧
        (s.aon.tap.st = .captureDr → s.aon.tap.ir = .idcode → t.aon.tap.shift = (List.range 32).map (bitOf 0x29160B4F)) ∧
        (s.aon.tap.st = .captureDr → s.aon.tap.ir = .bypass → t.aon.tap.shift = [false]) ∧
        (s.aon.tap.st = .shiftDr → t.aon.tap.shift = s.aon.tap.shift.drop 1 ++ [tdi]))) ∧
  (∀ t : TapState, ((((t.next true).next true).next true).next true).next true = .reset)

/-- The fuse commands, and the debug and JTAG ports (R604 to R606, R623). -/
def Obligations.FuseAndDebug : Prop := Sys2Proof.Stated.FuseCommands ∧ Sys2Proof.Stated.DebugPorts
end

