-- ==== Sys2Proof/Laws/SMap.lean ====
section
/-! SUPPORT. The laws of the sparse maps: a read after a write, and that every operation keeps the keys rising and the
canonical form. -/

namespace Sys2Proof.Machine

variable {α : Type}

theorem smRise_weaken {m : List (Nat × α)} {b c : Option Nat} (h : smRise c m)
    (hbc : ∀ x, b = some x → ∃ y, c = some y ∧ x ≤ y) : smRise b m := by
  cases m with
  | nil => trivial
  | cons e t =>
    refine ⟨fun x hx => ?_, h.2⟩
    obtain ⟨y, hy, hxy⟩ := hbc x hx
    exact lt_of_le_of_lt hxy (h.1 y hy)

theorem smGet_above (d : α) {m : List (Nat × α)} {b q : Nat} (h : smRise (some b) m) (hq : q ≤ b) : smGet d m q = d := by
  induction m generalizing b with
  | nil => rfl
  | cons e t ih =>
    have hk : b < e.1 := h.1 b rfl
    simp only [smGet]
    rw [if_neg (by omega)]
    exact ih h.2 (by omega)

theorem smGet_none (d : α) {m : List (Nat × α)} {q : Nat} (h : smRise none m) (h' : ∀ e ∈ m, e.1 ≠ q) : smGet d m q = d := by
  induction m with
  | nil => rfl
  | cons e t ih =>
    simp only [smGet]
    rw [if_neg (h' e (by simp))]
    exact ih (smRise_weaken h.2 (by simp)) (fun x hx => h' x (by simp [hx]))

theorem smDrop_rise (p : Nat → Bool) {m : List (Nat × α)} {b : Option Nat} (h : smRise b m) : smRise b (smDrop p m) := by
  induction m generalizing b with
  | nil => exact h
  | cons e t ih =>
    unfold smDrop
    simp only [List.filter]
    split
    · exact ⟨h.1, ih h.2⟩
    · exact smRise_weaken (ih h.2) (fun x hx => ⟨e.1, rfl, (h.1 x hx).le⟩)

theorem smGet_smDrop (d : α) (p : Nat → Bool) (m : List (Nat × α)) (q : Nat) :
    smGet d (smDrop p m) q = if p q then d else smGet d m q := by
  induction m with
  | nil => simp [smDrop, smGet]
  | cons e t ih =>
    unfold smDrop at *
    simp only [List.filter]
    by_cases he : p e.1
    · simp only [he, Bool.not_true]
      rw [ih]
      by_cases hq : p q
      · simp [hq]
      · simp only [hq, smGet]
        rw [if_neg (show ¬ e.1 = q by rintro rfl; exact hq he)]
    · simp only [he, Bool.not_false, smGet]
      rw [ih]
      by_cases hq : p q
      · simp only [hq, if_true]
        rw [if_neg (show ¬ e.1 = q by rintro rfl; exact he hq)]
      · simp [hq]

variable [DecidableEq α]

omit [DecidableEq α] in
theorem smIns_rise {m : List (Nat × α)} (q : Nat) (v : α) {b : Option Nat} (h : smRise b m) (hq : ∀ e ∈ m, e.1 ≠ q)
    (hb : ∀ x, b = some x → x < q) : smRise b (smIns q v m) := by
  induction m generalizing b with
  | nil => exact ⟨hb, trivial⟩
  | cons e t ih =>
    unfold smIns
    split
    · exact ⟨hb, by simpa using ‹q < e.1›, h.2⟩
    · have := hq e (by simp)
      exact ⟨h.1, ih h.2 (fun x hx => hq x (by simp [hx])) (by simp; omega)⟩

theorem smPut_rise (d : α) {m : List (Nat × α)} (q : Nat) (v : α) {b : Option Nat} (h : smRise b m)
    (hb : ∀ x, b = some x → x < q) : smRise b (smPut d m q v) := by
  have hf : smRise b (m.filter (fun e => decide (e.1 ≠ q))) := by
    have := smDrop_rise (fun k => decide (k = q)) h
    simpa [smDrop] using this
  unfold smPut
  split
  · exact hf
  · exact smIns_rise q v hf (by simp) hb

omit [DecidableEq α] in
theorem smGet_smIns (d : α) (m : List (Nat × α)) (q r : Nat) (v : α) (hq : ∀ e ∈ m, e.1 ≠ q) :
    smGet d (smIns q v m) r = if r = q then v else smGet d m r := by
  induction m with
  | nil => simp [smIns, smGet, eq_comm]
  | cons e t ih =>
    have he := hq e (by simp)
    unfold smIns
    split
    · by_cases hr : r = q
      · simp [smGet, hr]
      · simp [smGet, hr, Ne.symm hr]
    · by_cases hr : r = q
      · subst hr; simp only [smGet]; rw [if_neg he, ih (fun x hx => hq x (by simp [hx]))]; simp
      · simp only [smGet, if_neg hr]
        by_cases h2 : e.1 = r
        · simp [h2]
        · rw [if_neg h2, if_neg h2, ih (fun x hx => hq x (by simp [hx])), if_neg hr]

/-- A read after a write: the value written at its key, and every other key as before. -/
theorem smGet_smPut (d : α) (m : List (Nat × α)) (q r : Nat) (v : α) :
    smGet d (smPut d m q v) r = if r = q then v else smGet d m r := by
  have hf := smGet_smDrop d (fun k => decide (k = q)) m r
  have hd : smDrop (fun k => decide (k = q)) m = m.filter (fun e => decide (e.1 ≠ q)) := by simp [smDrop]
  rw [hd] at hf
  unfold smPut
  split
  · rename_i hv; rw [hf, hv]; simp
  · rw [smGet_smIns d _ q r v (by simp), hf]; by_cases hr : r = q <;> simp [hr]

/-- A read after a write to the same key gives the value written. -/
@[simp] theorem smGet_smPut_same (d : α) (m : List (Nat × α)) (q : Nat) (v : α) : smGet d (smPut d m q v) q = v := by
  simp [smGet_smPut]

/-- A write leaves every other key alone. -/
theorem smGet_smPut_ne (d : α) (m : List (Nat × α)) {q r : Nat} (v : α) (hr : r ≠ q) :
    smGet d (smPut d m q v) r = smGet d m r := by
  simp [smGet_smPut, hr]

theorem smPutAll_rise (d : α) {m : List (Nat × α)} (l : List (Nat × α)) (h : smRise none m) : smRise none (smPutAll d m l) := by
  unfold smPutAll
  induction l generalizing m with
  | nil => exact h
  | cons p t ih => exact ih (smPut_rise d p.1 p.2 h (by simp))

/-! ### The canonical form -/

theorem smAbove_iff (d : α) (b : Option Nat) (m : List (Nat × α)) :
    smAbove d b m = true ↔ smRise b m ∧ ∀ e ∈ m, e.2 ≠ d := by
  induction m generalizing b with
  | nil => simp [smAbove, smRise]
  | cons e t ih =>
    simp only [smAbove, smRise, Bool.and_eq_true, ih, List.mem_cons, forall_eq_or_imp, decide_eq_true_eq]
    cases b <;> simp <;> tauto

theorem smWf_iff (d : α) (m : List (Nat × α)) : smWf d m = true ↔ smRise none m ∧ ∀ e ∈ m, e.2 ≠ d := smAbove_iff d none m

omit [DecidableEq α] in
theorem smIns_mem (m : List (Nat × α)) (q : Nat) (v : α) : ∀ e ∈ smIns q v m, e = (q, v) ∨ e ∈ m := by
  induction m with
  | nil => simp [smIns]
  | cons x t ih =>
    unfold smIns
    split
    · intro e he; simpa using he
    · intro e he
      rcases List.mem_cons.1 he with h | h
      · exact .inr (by simp [h])
      · rcases ih e h with h | h
        · exact .inl h
        · exact .inr (by simp [h])

theorem smPut_mem (d : α) {m : List (Nat × α)} {q : Nat} {v : α} (h : ∀ e ∈ m, e.2 ≠ d) : ∀ e ∈ smPut d m q v, e.2 ≠ d := by
  unfold smPut
  split
  · exact fun e he => h e (List.mem_of_mem_filter he)
  · rename_i hv
    intro e he
    rcases smIns_mem _ q v e he with h1 | h1
    · rw [h1]; exact hv
    · exact h e (List.mem_of_mem_filter h1)

/-- A write keeps the canonical form. -/
theorem smPut_wf (d : α) {m : List (Nat × α)} (q : Nat) (v : α) (h : smWf d m = true) : smWf d (smPut d m q v) = true := by
  rw [smWf_iff] at *
  exact ⟨smPut_rise d q v h.1 (by simp), smPut_mem d h.2⟩

theorem smPutAll_wf (d : α) {m : List (Nat × α)} (l : List (Nat × α)) (h : smWf d m = true) : smWf d (smPutAll d m l) = true := by
  unfold smPutAll
  induction l generalizing m with
  | nil => exact h
  | cons p t ih => exact ih (smPut_wf d p.1 p.2 h)

theorem smDrop_wf (d : α) (p : Nat → Bool) {m : List (Nat × α)} (h : smWf d m = true) : smWf d (smDrop p m) = true := by
  rw [smWf_iff] at *
  exact ⟨smDrop_rise p h.1, fun e he => h.2 e (List.mem_of_mem_filter he)⟩

theorem smWf_nil (d : α) : smWf d ([] : List (Nat × α)) = true := rfl

/-- Two canonical maps that read alike are equal. -/
theorem smWf_ext (d : α) {m n : List (Nat × α)} {b : Option Nat} (hm : smAbove d b m = true) (hn : smAbove d b n = true)
    (h : ∀ q, smGet d m q = smGet d n q) : m = n := by
  induction m generalizing b n with
  | nil =>
    cases n with
    | nil => rfl
    | cons e t =>
      have h0 := h e.1
      simp only [smGet, if_true] at h0
      exact absurd h0.symm (((smAbove_iff d b _).1 hn).2 e (by simp))
  | cons e t ih =>
    cases n with
    | nil =>
      have h0 := h e.1
      simp only [smGet, if_true] at h0
      exact absurd h0 (((smAbove_iff d b _).1 hm).2 e (by simp))
    | cons f u =>
      have em := ((smAbove_iff d b _).1 hm)
      have en := ((smAbove_iff d b _).1 hn)
      have hk : e.1 = f.1 := by
        rcases lt_trichotomy e.1 f.1 with hlt | heq | hlt
        · have h0 := h e.1
          simp only [smGet, if_true] at h0
          rw [if_neg (by omega), smGet_above d en.1.2 hlt.le] at h0
          exact absurd h0 (em.2 e (by simp))
        · exact heq
        · have h0 := h f.1
          simp only [smGet, if_true] at h0
          rw [if_neg (by omega), smGet_above d em.1.2 hlt.le] at h0
          exact absurd h0.symm (en.2 f (by simp))
      have hv : e.2 = f.2 := by
        have h0 := h e.1
        simpa [smGet, hk] using h0
      have ht : t = u := by
        refine ih (b := some e.1) ((smAbove_iff d _ _).2 ⟨em.1.2, fun x hx => em.2 x (by simp [hx])⟩)
          ((smAbove_iff d _ _).2 ⟨hk ▸ en.1.2, fun x hx => en.2 x (by simp [hx])⟩) (fun q => ?_)
        by_cases hq : q ≤ e.1
        · rw [smGet_above d em.1.2 hq, smGet_above d en.1.2 (hk ▸ hq)]
        · have h0 := h q
          simp only [smGet] at h0
          rwa [if_neg (by omega), if_neg (by omega)] at h0
      exact congrArg₂ _ (Prod.ext hk hv) ht

end Sys2Proof.Machine
end

