-- ==== Sys2Proof/Laws/Mem.lean ====
section
/-! SUPPORT. The laws of a protected memory: every operation keeps the canonical form; a write of a codeword is what a read of it then gives, and no other
codeword reads otherwise. -/

namespace Sys2Proof.Machine

theorem Mem.wf_iff (m : Mem) : m.wf = true ↔ smWf 0 m.bytes = true ∧ smWf 0 m.marks = true ∧ smWf 0 m.flips = true := by
  simp [Mem.wf, and_assoc]

theorem Mem.zero_wf : Mem.zero.wf = true := rfl

/-- Writing a codeword keeps the canonical form. -/
theorem Mem.writeCw_wf {m : Mem} (h : m.wf = true) (cw : Nat) (data : BitVec 64) (mark : Nat) : (m.writeCw cw data mark).wf = true := by
  rw [Mem.wf_iff] at *
  exact ⟨smPutAll_wf _ _ h.1, smPut_wf _ cw (min 1 mark) h.2.1, smPut_wf _ cw 0 h.2.2⟩

/-- Writing some bytes of a codeword keeps the canonical form. -/
theorem Mem.merge_wf {m : Mem} (h : m.wf = true) (cw : Nat) (ws : List (Nat × Byte)) (p : Nat) : (m.merge cw ws p).wf = true := Mem.writeCw_wf h _ _ _

/-- Writing bytes keeps the canonical form. -/
theorem Mem.write_wf {m : Mem} (h : m.wf = true) (ws : List (Nat × Byte × Nat)) : (m.write ws).wf = true := by
  unfold Mem.write
  generalize groupByCw ws = l
  induction l generalizing m with
  | nil => exact h
  | cons g t ih => exact ih (Mem.merge_wf h _ _ _)

/-! ### Bytes and numbers -/

theorem fromLe_lt (l : List Byte) : fromLe l < 256 ^ l.length := by
  induction l with
  | nil => simp [fromLe]
  | cons b t ih =>
    simp only [fromLe, List.length_cons, pow_succ]
    have := b.isLt
    omega

/-- Byte i of a number put together from bytes. -/
theorem fromLe_byte (l : List Byte) (i : Nat) (h : i < l.length) : fromLe l / 256 ^ i % 256 = (l[i]).toNat := by
  induction l generalizing i with
  | nil => simp at h
  | cons b t ih =>
    cases i with
    | zero => simp only [fromLe, pow_zero, Nat.div_one, List.getElem_cons_zero]; have := b.isLt; omega
    | succ k =>
      simp only [fromLe, List.getElem_cons_succ, pow_succ]
      rw [← ih k (by simpa using h), Nat.mul_comm (256 ^ k) 256, ← Nat.div_div_eq_div_mul]
      congr 2
      have := b.isLt
      omega

/-- The last of several writes of different keys is the one that a key reads. -/
theorem smGet_smPutAll_range {α : Type} [DecidableEq α] (d : α) (m : List (Nat × α)) (base n : Nat) (f : Nat → α) (q : Nat) :
    smGet d (smPutAll d m ((List.range n).map (fun i => (base + i, f i)))) q = if base ≤ q ∧ q < base + n then f (q - base) else smGet d m q := by
  induction n generalizing m with
  | zero => simp [smPutAll]
  | succ k ih =>
    rw [List.range_succ, List.map_append, smPutAll, List.foldl_append]
    simp only [List.map_cons, List.map_nil, List.foldl_cons, List.foldl_nil]
    rw [smGet_smPut]
    have := ih m
    rw [smPutAll] at this
    rw [this]
    by_cases h : q = base + k
    · subst h; simp
    · rw [if_neg h]; exact if_congr (by omega) rfl rfl

/-! ### Reads after writes -/

theorem Mem.writeCw_byte (m : Mem) (cw : Nat) (data : BitVec 64) (mark a : Nat) :
    (m.writeCw cw data mark).byte a = if a / 8 = cw then BitVec.ofNat 8 (data.toNat / 2 ^ (8 * (a % 8))) else m.byte a := by
  unfold Mem.byte Mem.writeCw
  rw [smGet_smPutAll_range]
  by_cases h : a / 8 = cw
  · rw [if_pos h, if_pos (by omega)]; congr 3; omega
  · rw [if_neg h, if_neg (by omega)]

theorem Mem.writeCw_mark (m : Mem) (cw : Nat) (data : BitVec 64) (mark x : Nat) : (m.writeCw cw data mark).mark x = if x = cw then min 1 mark else m.mark x := by
  exact smGet_smPut 0 m.marks cw x (min 1 mark)

theorem Mem.writeCw_flips (m : Mem) (cw : Nat) (data : BitVec 64) (mark x : Nat) :
    smGet 0 (m.writeCw cw data mark).flips x = if x = cw then 0 else smGet 0 m.flips x := by
  exact smGet_smPut 0 m.flips cw x 0

/-- Eight bytes of a 64-bit number put together again. -/
theorem fromLe_bytes (x : BitVec 64) : fromLe ((List.range 8).map (fun i => BitVec.ofNat 8 (x.toNat / 2 ^ (8 * i)))) = x.toNat := by
  have h := x.isLt
  simp only [List.range_succ, List.range_zero, List.nil_append, List.map_cons, List.map_nil, List.cons_append, fromLe, BitVec.toNat_ofNat]
  omega

theorem Mem.writeCw_word (m : Mem) (cw : Nat) (data : BitVec 64) (mark x : Nat) : (m.writeCw cw data mark).word x = if x = cw then data else m.word x := by
  unfold Mem.word
  by_cases h : x = cw
  · subst h
    rw [if_pos rfl]
    have : (List.range 8).map (fun i => (m.writeCw x data mark).byte (8 * x + i)) = (List.range 8).map (fun i => BitVec.ofNat 8 (data.toNat / 2 ^ (8 * i))) := by
      apply List.map_congr_left
      intro i hi
      have hi : i < 8 := by simpa using hi
      rw [Mem.writeCw_byte, if_pos (by omega), show (8 * x + i) % 8 = i by omega]
    rw [this, fromLe_bytes]
    simp
  · rw [if_neg h]
    congr 2
    apply List.map_congr_left
    intro i hi
    have hi : i < 8 := by simpa using hi
    rw [Mem.writeCw_byte, if_neg (by omega)]

/-- A codeword reads clean as it was last written (R503, R505). -/
theorem Mem.writeCw_read_same (m : Mem) (cw : Nat) (data : BitVec 64) (mark : Nat) : (m.writeCw cw data mark).read cw = ⟨.clean, data, min 1 mark⟩ := by
  unfold Mem.read
  rw [Mem.writeCw_flips, if_pos rfl, if_pos rfl, Mem.writeCw_word, if_pos rfl, Mem.writeCw_mark, if_pos rfl]

/-- A write of a codeword leaves what every other reads. -/
theorem Mem.writeCw_read_other (m : Mem) {cw x : Nat} (data : BitVec 64) (mark : Nat) (h : x ≠ cw) : (m.writeCw cw data mark).read x = m.read x := by
  unfold Mem.read Mem.stored
  rw [Mem.writeCw_flips, if_neg h, Mem.writeCw_word, if_neg h, Mem.writeCw_mark, if_neg h]

/-- A write of a codeword leaves what every other delivers. -/
theorem Mem.writeCw_carried_other (m : Mem) {cw x : Nat} (data : BitVec 64) (mark : Nat) (h : x ≠ cw) :
    (m.writeCw cw data mark).carried x = m.carried x := by
  unfold Mem.carried
  rw [Mem.writeCw_read_other m data mark h, Mem.writeCw_flips, if_neg h, Mem.writeCw_word, if_neg h]

theorem Mem.merge_read_other (m : Mem) {cw x : Nat} (ws : List (Nat × Byte)) (p : Nat) (h : x ≠ cw) : (m.merge cw ws p).read x = m.read x :=
  Mem.writeCw_read_other m _ _ h

/-- Bytes written leave what every codeword outside them reads and delivers. -/
theorem Mem.write_other (m : Mem) (ws : List (Nat × Byte × Nat)) (x : Nat) (h : ∀ w ∈ ws, w.1 / 8 ≠ x) :
    (m.write ws).read x = m.read x ∧ (m.write ws).carried x = m.carried x := by
  have hg : ∀ g ∈ groupByCw ws, g.1 ≠ x := by
    clear m
    induction ws with
    | nil => simp [groupByCw]
    | cons w t ih =>
      obtain ⟨a, b, p⟩ := w
      have ih := ih (fun y hy => h y (by simp [hy]))
      have ha : a / 8 ≠ x := h (a, b, p) (by simp)
      unfold groupByCw
      split
      · rename_i cw l q r heq
        rw [heq] at ih
        split
        · intro g hg
          rcases List.mem_cons.mp hg with rfl | hg
          · exact ih (cw, l, q) (List.mem_cons_self)
          · exact ih g (List.mem_cons_of_mem _ hg)
        · intro g hg
          rcases List.mem_cons.mp hg with rfl | hg
          · exact ha
          · rcases List.mem_cons.mp hg with rfl | hg
            · exact ih _ (by simp)
            · exact ih g (by simp [hg])
      · intro g hg
        simp only [List.mem_singleton] at hg
        subst hg
        exact ha
  unfold Mem.write
  generalize groupByCw ws = l at hg
  induction l generalizing m with
  | nil => exact ⟨rfl, rfl⟩
  | cons g t ih =>
    have hne := Ne.symm (hg g (by simp))
    have ih := ih (m.merge g.1 g.2.1 g.2.2) (fun y hy => hg y (by simp [hy]))
    rw [List.foldl_cons, ih.1, ih.2, Mem.merge_read_other _ _ _ hne]
    exact ⟨rfl, Mem.writeCw_carried_other m _ _ hne⟩

theorem Mem.write_read_other (m : Mem) (ws : List (Nat × Byte × Nat)) (x : Nat) (h : ∀ w ∈ ws, w.1 / 8 ≠ x) : (m.write ws).read x = m.read x :=
  (m.write_other ws x h).1

/-- A byte outside the codewords written is fetched as before. -/
theorem Mem.write_fetch_other (m : Mem) (ws : List (Nat × Byte × Nat)) (a : Nat) (h : ∀ w ∈ ws, w.1 / 8 ≠ a / 8) : (m.write ws).fetch a = m.fetch a := by
  unfold Mem.fetch; rw [(m.write_other ws _ h).1, (m.write_other ws _ h).2]

/-! ### Sound memories: no mark, no flipped bit -/

/-- No codeword carries a mark or a flipped bit. -/
def Mem.Clean (m : Mem) : Prop := ∀ cw, m.mark cw = 0 ∧ smGet 0 m.flips cw = 0

theorem Mem.clean_of_nil {m : Mem} (h1 : m.marks = []) (h2 : m.flips = []) : m.Clean := by
  intro cw; unfold Mem.mark; rw [h1, h2]; exact ⟨rfl, rfl⟩

theorem Mem.Clean.read {m : Mem} (h : m.Clean) (cw : Nat) : m.read cw = ⟨.clean, m.word cw, 0⟩ := by
  unfold Mem.read; rw [if_pos (h cw).2, (h cw).1]

theorem Mem.Clean.carried {m : Mem} (h : m.Clean) (cw : Nat) : m.carried cw = m.word cw := by
  unfold Mem.carried; simp [h.read, CwRead.psn]

/-- Byte k of a codeword as written. -/
theorem Mem.word_byte (m : Mem) (cw k : Nat) (hk : k < 8) : (m.word cw).toNat / 2 ^ (8 * k) % 256 = (m.byte (8 * cw + k)).toNat := by
  have hl := fromLe_lt ((List.range 8).map (fun i => m.byte (8 * cw + i)))
  have hb := fromLe_byte ((List.range 8).map (fun i => m.byte (8 * cw + i))) k (by simpa using hk)
  unfold Mem.word
  have hl : fromLe ((List.range 8).map (fun i => m.byte (8 * cw + i))) < 2 ^ 64 := by simpa using hl
  rw [BitVec.toNat_ofNat, Nat.mod_eq_of_lt hl, show (2 : Nat) ^ (8 * k) = 256 ^ k by rw [pow_mul]; norm_num, hb]
  simp

/-- A sound memory delivers its bytes as written, without poison. -/
theorem Mem.Clean.fetch {m : Mem} (h : m.Clean) (a : Nat) : m.fetch a = (m.byte a, 0) := by
  unfold Mem.fetch
  rw [h.read, h.carried]
  simp only [CwRead.psn, ne_eq, not_true_eq_false, or_false, Prod.mk.injEq]
  refine ⟨?_, by simp⟩
  apply BitVec.eq_of_toNat_eq
  have hw := m.word_byte (a / 8) (a % 8) (Nat.mod_lt _ (by norm_num))
  rw [show 8 * (a / 8) + a % 8 = a by omega] at hw
  rw [BitVec.toNat_ofNat, ← hw]

theorem Mem.writeCw_clean {m : Mem} (h : m.Clean) (cw : Nat) (data : BitVec 64) : (m.writeCw cw data 0).Clean := by
  intro x
  rw [Mem.writeCw_mark, Mem.writeCw_flips]
  refine ⟨?_, ?_⟩ <;> split
  · rfl
  · exact (h x).1
  · rfl
  · exact (h x).2

/-- One byte of a number replaced. -/
theorem put_byte (v b p i : Nat) (hb : b < 256) :
    (v - v / 2 ^ (8 * p) % 256 * 2 ^ (8 * p) + b * 2 ^ (8 * p)) / 2 ^ (8 * i) % 256 = if p = i then b else v / 2 ^ (8 * i) % 256 := by
  have hP : 0 < 2 ^ (8 * p) := by positivity
  have e1 := Nat.div_add_mod v (2 ^ (8 * p))
  have e2 := Nat.div_add_mod (v / 2 ^ (8 * p)) 256
  generalize hq : v / 2 ^ (8 * p) / 256 = h at e2
  generalize hm : v / 2 ^ (8 * p) % 256 = c at e2 ⊢
  generalize hl : v % 2 ^ (8 * p) = l at e1
  have hl' : l < 2 ^ (8 * p) := by rw [← hl]; exact Nat.mod_lt _ hP
  have hc : c < 256 := by rw [← hm]; exact Nat.mod_lt _ (by norm_num)
  rw [← e2] at e1
  have hv : ∀ x, x < 256 → (2 ^ (8 * p) * (256 * h + x) + l) / 2 ^ (8 * i) % 256 =
      if p = i then x else if i < p then l / 2 ^ (8 * i) % 256 else h / 2 ^ (8 * (i - p - 1)) % 256 := by
    intro x hx
    rcases Nat.lt_trichotomy i p with h1 | h1 | h1
    · rw [if_neg (by omega), if_pos h1]
      obtain ⟨k, rfl⟩ : ∃ k, p = i + (k + 1) := ⟨p - i - 1, by omega⟩
      have : 2 ^ (8 * (i + (k + 1))) * (256 * h + x) = 2 ^ (8 * i) * (256 * (2 ^ (8 * k) * (256 * h + x))) := by
        rw [show 8 * (i + (k + 1)) = 8 * i + (8 * k + 8) by ring, pow_add, pow_add]; ring
      rw [this, Nat.mul_add_div (by positivity), Nat.mul_add_mod]
    · subst h1
      rw [if_pos rfl, Nat.mul_add_div (by positivity), Nat.div_eq_of_lt hl', Nat.add_zero, Nat.mul_add_mod, Nat.mod_eq_of_lt hx]
    · rw [if_neg (by omega), if_neg (by omega)]
      obtain ⟨k, rfl⟩ : ∃ k, i = p + (k + 1) := ⟨i - p - 1, by omega⟩
      rw [show 8 * (p + (k + 1)) = 8 * p + (8 + 8 * k) by ring, pow_add, pow_add, ← Nat.div_div_eq_div_mul, ← Nat.div_div_eq_div_mul,
        Nat.mul_add_div (by positivity), Nat.div_eq_of_lt hl', Nat.add_zero, show (2 : Nat) ^ 8 = 256 by norm_num, Nat.mul_add_div (by norm_num),
        Nat.div_eq_of_lt hx, Nat.add_zero, show p + (k + 1) - p - 1 = k by omega]
  have e3 : v - c * 2 ^ (8 * p) + b * 2 ^ (8 * p) = 2 ^ (8 * p) * (256 * h + b) + l := by
    rw [← e1]
    have : 2 ^ (8 * p) * (256 * h + c) + l = 2 ^ (8 * p) * (256 * h) + l + c * 2 ^ (8 * p) := by ring
    rw [this, Nat.add_sub_cancel]; ring
  rw [e3, hv b hb]
  split
  · rfl
  · rw [← e1, hv c hc]; rename_i hne; rw [if_neg hne]

/-- The bytes that stand in a codeword after some byte writes. -/
theorem put_bytes (ws : List (Nat × Byte)) (v i : Nat) :
    (ws.foldl (fun (v : Nat) (p : Nat × Byte) => v - v / 2 ^ (8 * p.1) % 256 * 2 ^ (8 * p.1) + p.2.toNat * 2 ^ (8 * p.1)) v) / 2 ^ (8 * i) % 256 =
      ws.foldl (fun (x : Nat) (p : Nat × Byte) => if p.1 = i then p.2.toNat else x) (v / 2 ^ (8 * i) % 256) := by
  induction ws generalizing v with
  | nil => rfl
  | cons w t ih =>
    rw [List.foldl_cons, List.foldl_cons, ih, put_byte v w.2.toNat w.1 i w.2.isLt]

theorem lastByte_nat (ws : List (Nat × Byte)) (i : Nat) (x : Byte) :
    ws.foldl (fun (x : Nat) (p : Nat × Byte) => if p.1 = i then p.2.toNat else x) x.toNat =
      (ws.foldl (fun (x : Byte) (p : Nat × Byte) => if p.1 = i then p.2 else x) x).toNat := by
  induction ws generalizing x with
  | nil => rfl
  | cons w t ih =>
    rw [List.foldl_cons, List.foldl_cons, ← ih]
    split <;> rfl

/-- Where some write names the byte, what stood there before does not matter. -/
theorem lastByte_full (ws : List (Nat × Byte)) (i x y : Nat) (h : ws.any (fun p => p.1 = i) = true) :
    ws.foldl (fun (x : Nat) (p : Nat × Byte) => if p.1 = i then p.2.toNat else x) x = ws.foldl (fun (x : Nat) (p : Nat × Byte) => if p.1 = i then p.2.toNat else x) y := by
  induction ws generalizing x y with
  | nil => simp at h
  | cons w t ih =>
    rw [List.foldl_cons, List.foldl_cons]
    by_cases hw : w.1 = i
    · rw [if_pos hw, if_pos hw]
    · rw [if_neg hw, if_neg hw]
      exact ih x y (by simpa [hw] using h)

theorem Mem.merge_clean {m : Mem} (h : m.Clean) (cw : Nat) (ws : List (Nat × Byte)) : (m.merge cw ws 0).Clean := by
  unfold Mem.merge
  have : (m.read cw).psn = 0 := by rw [h.read]; simp [CwRead.psn]
  simp only [this, ite_self, Nat.max_self]
  exact Mem.writeCw_clean h _ _

/-- The bytes of a sound memory after writes of some bytes of one codeword. -/
theorem Mem.merge_byte {m : Mem} (h : m.Clean) (cw : Nat) (ws : List (Nat × Byte)) (a : Nat) :
    (m.merge cw ws 0).byte a = if a / 8 = cw then ws.foldl (fun (x : Byte) (p : Nat × Byte) => if p.1 = a % 8 then p.2 else x) (m.byte a) else m.byte a := by
  unfold Mem.merge
  rw [Mem.writeCw_byte]
  by_cases ha : a / 8 = cw
  · rw [if_pos ha, if_pos ha]
    apply BitVec.eq_of_toNat_eq
    have hi : a % 8 < 8 := Nat.mod_lt _ (by norm_num)
    have hd : ∀ n : Nat, (BitVec.ofNat 64 n).toNat / 2 ^ (8 * (a % 8)) % 256 = n / 2 ^ (8 * (a % 8)) % 256 := by
      intro n
      rw [BitVec.toNat_ofNat]
      generalize a % 8 = k at hi
      interval_cases k <;> simp <;> omega
    rw [BitVec.toNat_ofNat, show (2 : Nat) ^ 8 = 256 by norm_num, hd, put_bytes ws _ _, ← lastByte_nat]
    have hold : (m.carried cw).toNat / 2 ^ (8 * (a % 8)) % 256 = (m.byte a).toNat := by
      rw [h.carried, Mem.word_byte m cw _ hi, ← ha, show 8 * (a / 8) + a % 8 = a by omega]
    split
    · rename_i hf
      have := List.all_eq_true.mp hf (a % 8) (List.mem_range.mpr hi)
      exact lastByte_full ws (a % 8) _ _ this
    · rw [hold]
  · rw [if_neg ha, if_neg ha]

theorem groupByCw_head (a : Nat) (b : Byte) (p : Nat) (t : List (Nat × Byte × Nat)) :
    (∃ l q r, groupByCw t = (a / 8, l, q) :: r ∧ groupByCw ((a, b, p) :: t) = (a / 8, (a % 8, b) :: l, max p q) :: r) ∨
      groupByCw ((a, b, p) :: t) = (a / 8, [(a % 8, b)], p) :: groupByCw t := by
  rcases hg : groupByCw t with _ | ⟨⟨cw, l, q⟩, r⟩
  · right; simp [groupByCw, hg]
  · by_cases h : cw = a / 8
    · left; subst h; exact ⟨l, q, r, rfl, by simp [groupByCw, hg]⟩
    · right; simp [groupByCw, hg, h]

theorem groupByCw_sound (ws : List (Nat × Byte × Nat)) (hp : ∀ w ∈ ws, w.2.2 = 0) : ∀ g ∈ groupByCw ws, g.2.2 = 0 := by
  induction ws with
  | nil => simp [groupByCw]
  | cons w t ih =>
    obtain ⟨a, b, p⟩ := w
    have ih := ih (fun x hx => hp x (by simp [hx]))
    have h0 : p = 0 := hp (a, b, p) (by simp)
    rcases groupByCw_head a b p t with ⟨l, q, r, h1, h2⟩ | h2
    · rw [h1] at ih
      rw [h2]
      intro g hg
      rcases List.mem_cons.mp hg with rfl | hg
      · have := ih _ List.mem_cons_self
        simp only at this ⊢; omega
      · exact ih g (List.mem_cons_of_mem _ hg)
    · rw [h2]
      intro g hg
      rcases List.mem_cons.mp hg with rfl | hg
      · exact h0
      · exact ih g hg

/-- What the bytes of a memory become as groups of byte writes are performed. -/
def groupBytes (f : Nat → Byte) (gs : List (Nat × List (Nat × Byte) × Nat)) : Nat → Byte :=
  gs.foldl (fun f g a => if a / 8 = g.1 then g.2.1.foldl (fun (x : Byte) (p : Nat × Byte) => if p.1 = a % 8 then p.2 else x) (f a) else f a) f

/-- What the bytes of a memory become as byte writes are performed in order: of two writes of one byte the later stands. -/
def writeBytes (f : Nat → Byte) (ws : List (Nat × Byte × Nat)) (a : Nat) : Byte := ws.foldl (fun (x : Byte) w => if w.1 = a then w.2.1 else x) (f a)

theorem groupBytes_eq (ws : List (Nat × Byte × Nat)) (f : Nat → Byte) : groupBytes f (groupByCw ws) = writeBytes f ws := by
  induction ws generalizing f with
  | nil => rfl
  | cons w t ih =>
    obtain ⟨a, b, p⟩ := w
    have hs : writeBytes f ((a, b, p) :: t) = writeBytes (fun x => if a = x then b else f x) t := rfl
    have hk : ∀ x : Nat, (x / 8 = a / 8 ∧ a % 8 = x % 8) ↔ a = x := by intro x; omega
    rcases groupByCw_head a b p t with ⟨l, q, r, h1, h2⟩ | h2
    · rw [h2, hs, ← ih, h1]
      unfold groupBytes
      rw [List.foldl_cons, List.foldl_cons]
      congr 1
      funext x
      by_cases hx : x / 8 = a / 8
      · simp only [hx, if_true, List.foldl_cons]
        congr 1
        exact if_congr (by rw [← hk x]; simp [hx]) rfl rfl
      · have : ¬ a = x := fun e => hx (by rw [e])
        simp [hx, this]
    · rw [h2, hs, ← ih]
      unfold groupBytes
      rw [List.foldl_cons]
      congr 1
      funext x
      by_cases hx : x / 8 = a / 8
      · simp only [hx, if_true, List.foldl_cons, List.foldl_nil]
        exact if_congr (by rw [← hk x]; simp [hx]) rfl rfl
      · have : ¬ a = x := fun e => hx (by rw [e])
        simp [hx, this]

/-- Unpoisoned writes to a sound memory leave it sound. -/
theorem Mem.write_clean {m : Mem} (h : m.Clean) (ws : List (Nat × Byte × Nat)) (hp : ∀ w ∈ ws, w.2.2 = 0) : (m.write ws).Clean := by
  have hg := groupByCw_sound ws hp
  unfold Mem.write
  generalize groupByCw ws = l at hg
  induction l generalizing m with
  | nil => exact h
  | cons g t ih =>
    rw [List.foldl_cons, (hg g (by simp))]
    exact ih (Mem.merge_clean h _ _) (fun x hx => hg x (by simp [hx]))

/-- A sound memory reads, after unpoisoned writes, as the last write of each byte left it. -/
theorem Mem.write_byte {m : Mem} (h : m.Clean) (ws : List (Nat × Byte × Nat)) (hp : ∀ w ∈ ws, w.2.2 = 0) (a : Nat) :
    (m.write ws).byte a = writeBytes m.byte ws a := by
  rw [← groupBytes_eq]
  have hg := groupByCw_sound ws hp
  unfold Mem.write groupBytes
  generalize groupByCw ws = l at hg
  induction l generalizing m with
  | nil => rfl
  | cons g t ih =>
    rw [List.foldl_cons, List.foldl_cons, (hg g (by simp)), ih (Mem.merge_clean h _ _) (fun x hx => hg x (by simp [hx]))]
    have hb : (m.merge g.1 g.2.1 0).byte = fun a => if a / 8 = g.1 then g.2.1.foldl (fun (x : Byte) (p : Nat × Byte) => if p.1 = a % 8 then p.2 else x) (m.byte a) else m.byte a :=
      funext (fun x => Mem.merge_byte h g.1 g.2.1 x)
    rw [hb]

theorem Mem.write_fetch {m : Mem} (h : m.Clean) (ws : List (Nat × Byte × Nat)) (hp : ∀ w ∈ ws, w.2.2 = 0) (a : Nat) :
    (m.write ws).fetch a = (writeBytes m.byte ws a, 0) := by
  rw [(Mem.write_clean h ws hp).fetch, Mem.write_byte h ws hp]

/-- A run of bytes written from an address on: inside it each byte is the one written, outside it nothing changes. -/
theorem writeBytes_run (f : Nat → Byte) (base : Nat) (bs : List Byte) (a : Nat) :
    writeBytes f (bs.zipIdx.map (fun b => (base + b.2, b.1, 0))) a = if base ≤ a ∧ a < base + bs.length then bs.getD (a - base) 0 else f a := by
  unfold writeBytes
  rw [List.foldl_map]
  induction bs using List.reverseRecOn with
  | nil => simp
  | append_singleton l x ih =>
    rw [List.zipIdx_append, List.foldl_append, ih]
    simp only [List.zipIdx_singleton, List.foldl_cons, List.foldl_nil, Nat.zero_add, List.length_append, List.length_singleton]
    by_cases h1 : base + l.length = a
    · rw [if_pos h1, if_pos (by omega)]
      subst h1
      simp
    · rw [if_neg h1]
      by_cases h2 : base ≤ a ∧ a < base + l.length
      · rw [if_pos h2, if_pos (by omega), List.getD_append _ _ _ _ (by omega)]
      · rw [if_neg h2, if_neg (by omega)]

end Sys2Proof.Machine
end

