-- ==== Sys2Proof/Laws/State.lean ====
section
/-! SUPPORT. What each named update of a state leaves alone, field by field, and what it writes. -/

namespace Sys2Proof.Machine

/-! ### setReg -/

@[simp] theorem State.setReg_pending (s : State) (a : Nat) (w : Word) : (s.setReg a w).pending = s.pending := rfl
@[simp] theorem State.setReg_rast (s : State) (a : Nat) (w : Word) : (s.setReg a w).rast = s.rast := rfl
@[simp] theorem State.setReg_fab (s : State) (a : Nat) (w : Word) : (s.setReg a w).fab = s.fab := rfl
@[simp] theorem State.setReg_slots (s : State) (a : Nat) (w : Word) : (s.setReg a w).slots = s.slots := rfl
@[simp] theorem State.setReg_jobs (s : State) (a : Nat) (w : Word) : (s.setReg a w).jobs = s.jobs := rfl
@[simp] theorem State.setReg_pregs (s : State) (a : Nat) (w : Word) : (s.setReg a w).pregs = s.pregs := rfl
@[simp] theorem State.setReg_hbm (s : State) (a : Nat) (w : Word) : (s.setReg a w).hbm = s.hbm := rfl
@[simp] theorem State.setReg_host (s : State) (a : Nat) (w : Word) : (s.setReg a w).host = s.host := rfl
@[simp] theorem State.setReg_hostBad (s : State) (a : Nat) (w : Word) : (s.setReg a w).hostBad = s.hostBad := rfl
@[simp] theorem State.setReg_ev (s : State) (a : Nat) (w : Word) : (s.setReg a w).ev = s.ev := rfl
@[simp] theorem State.setReg_cfg (s : State) (a : Nat) (w : Word) : (s.setReg a w).cfg = s.cfg := rfl
@[simp] theorem State.setReg_tod (s : State) (a : Nat) (w : Word) : (s.setReg a w).tod = s.tod := rfl
@[simp] theorem State.setReg_rcd (s : State) (a : Nat) (w : Word) : (s.setReg a w).rcd = s.rcd := rfl
@[simp] theorem State.setReg_repairQ (s : State) (a : Nat) (w : Word) : (s.setReg a w).repairQ = s.repairQ := rfl
@[simp] theorem State.setReg_slk (s : State) (a : Nat) (w : Word) : (s.setReg a w).slk = s.slk := rfl
@[simp] theorem State.setReg_hardRows (s : State) (a : Nat) (w : Word) : (s.setReg a w).hardRows = s.hardRows := rfl
@[simp] theorem State.setReg_answer (s : State) (a : Nat) (w : Word) : (s.setReg a w).answer = s.answer := rfl
@[simp] theorem State.setReg_bifur (s : State) (a : Nat) (w : Word) : (s.setReg a w).bifur = s.bifur := rfl
@[simp] theorem State.setReg_bitClass (s : State) (a : Nat) (w : Word) : (s.setReg a w).bitClass = s.bitClass := rfl
@[simp] theorem State.setReg_grade (s : State) (a : Nat) (w : Word) : (s.setReg a w).grade = s.grade := rfl
@[simp] theorem State.setReg_off (s : State) (a : Nat) (w : Word) : (s.setReg a w).off = s.off := rfl
@[simp] theorem State.setReg_out (s : State) (a : Nat) (w : Word) : (s.setReg a w).out = s.out := rfl
@[simp] theorem State.setReg_inp (s : State) (a : Nat) (w : Word) : (s.setReg a w).inp = s.inp := rfl
@[simp] theorem State.setReg_pends (s : State) (a : Nat) (w : Word) : (s.setReg a w).pends = s.pends := rfl
@[simp] theorem State.setReg_commits (s : State) (a : Nat) (w : Word) : (s.setReg a w).commits = s.commits := rfl
@[simp] theorem State.setReg_ptp (s : State) (a : Nat) (w : Word) : (s.setReg a w).ptp = s.ptp := rfl
@[simp] theorem State.setReg_wearo (s : State) (a : Nat) (w : Word) : (s.setReg a w).wearo = s.wearo := rfl
@[simp] theorem State.setReg_fleet (s : State) (a : Nat) (w : Word) : (s.setReg a w).fleet = s.fleet := rfl
@[simp] theorem State.setReg_wire (s : State) (a : Nat) (w : Word) : (s.setReg a w).wire = s.wire := rfl
@[simp] theorem State.setReg_mgmt (s : State) (a : Nat) (w : Word) : (s.setReg a w).mgmt = s.mgmt := rfl
@[simp] theorem State.setReg_gov (s : State) (a : Nat) (w : Word) : (s.setReg a w).gov = s.gov := rfl
@[simp] theorem State.setReg_adm (s : State) (a : Nat) (w : Word) : (s.setReg a w).adm = s.adm := rfl
@[simp] theorem State.setReg_zeroQ (s : State) (a : Nat) (w : Word) : (s.setReg a w).zeroQ = s.zeroQ := rfl
@[simp] theorem State.setReg_bar2Q (s : State) (a : Nat) (w : Word) : (s.setReg a w).bar2Q = s.bar2Q := rfl
@[simp] theorem State.setReg_aon (s : State) (a : Nat) (w : Word) : (s.setReg a w).aon = s.aon := rfl
@[simp] theorem State.setReg_acc (s : State) (a : Nat) (w : Word) : (s.setReg a w).acc = s.acc := rfl
@[simp] theorem State.setReg_free (s : State) (a : Nat) (w : Word) : (s.setReg a w).free = s.free := rfl
@[simp] theorem State.setReg_writes (s : State) (a : Nat) (w : Word) : (s.setReg a w).regs = smPut (regReset a) s.regs a w := rfl

/-! ### setRf -/

@[simp] theorem State.setRf_pending (s : State) (a hi lo v : Nat) : (s.setRf a hi lo v).pending = s.pending := rfl
@[simp] theorem State.setRf_rast (s : State) (a hi lo v : Nat) : (s.setRf a hi lo v).rast = s.rast := rfl
@[simp] theorem State.setRf_fab (s : State) (a hi lo v : Nat) : (s.setRf a hi lo v).fab = s.fab := rfl
@[simp] theorem State.setRf_slots (s : State) (a hi lo v : Nat) : (s.setRf a hi lo v).slots = s.slots := rfl
@[simp] theorem State.setRf_jobs (s : State) (a hi lo v : Nat) : (s.setRf a hi lo v).jobs = s.jobs := rfl
@[simp] theorem State.setRf_pregs (s : State) (a hi lo v : Nat) : (s.setRf a hi lo v).pregs = s.pregs := rfl
@[simp] theorem State.setRf_hbm (s : State) (a hi lo v : Nat) : (s.setRf a hi lo v).hbm = s.hbm := rfl
@[simp] theorem State.setRf_host (s : State) (a hi lo v : Nat) : (s.setRf a hi lo v).host = s.host := rfl
@[simp] theorem State.setRf_hostBad (s : State) (a hi lo v : Nat) : (s.setRf a hi lo v).hostBad = s.hostBad := rfl
@[simp] theorem State.setRf_ev (s : State) (a hi lo v : Nat) : (s.setRf a hi lo v).ev = s.ev := rfl
@[simp] theorem State.setRf_cfg (s : State) (a hi lo v : Nat) : (s.setRf a hi lo v).cfg = s.cfg := rfl
@[simp] theorem State.setRf_tod (s : State) (a hi lo v : Nat) : (s.setRf a hi lo v).tod = s.tod := rfl
@[simp] theorem State.setRf_rcd (s : State) (a hi lo v : Nat) : (s.setRf a hi lo v).rcd = s.rcd := rfl
@[simp] theorem State.setRf_repairQ (s : State) (a hi lo v : Nat) : (s.setRf a hi lo v).repairQ = s.repairQ := rfl
@[simp] theorem State.setRf_slk (s : State) (a hi lo v : Nat) : (s.setRf a hi lo v).slk = s.slk := rfl
@[simp] theorem State.setRf_hardRows (s : State) (a hi lo v : Nat) : (s.setRf a hi lo v).hardRows = s.hardRows := rfl
@[simp] theorem State.setRf_answer (s : State) (a hi lo v : Nat) : (s.setRf a hi lo v).answer = s.answer := rfl
@[simp] theorem State.setRf_bifur (s : State) (a hi lo v : Nat) : (s.setRf a hi lo v).bifur = s.bifur := rfl
@[simp] theorem State.setRf_bitClass (s : State) (a hi lo v : Nat) : (s.setRf a hi lo v).bitClass = s.bitClass := rfl
@[simp] theorem State.setRf_grade (s : State) (a hi lo v : Nat) : (s.setRf a hi lo v).grade = s.grade := rfl
@[simp] theorem State.setRf_off (s : State) (a hi lo v : Nat) : (s.setRf a hi lo v).off = s.off := rfl
@[simp] theorem State.setRf_out (s : State) (a hi lo v : Nat) : (s.setRf a hi lo v).out = s.out := rfl
@[simp] theorem State.setRf_inp (s : State) (a hi lo v : Nat) : (s.setRf a hi lo v).inp = s.inp := rfl
@[simp] theorem State.setRf_pends (s : State) (a hi lo v : Nat) : (s.setRf a hi lo v).pends = s.pends := rfl
@[simp] theorem State.setRf_commits (s : State) (a hi lo v : Nat) : (s.setRf a hi lo v).commits = s.commits := rfl
@[simp] theorem State.setRf_ptp (s : State) (a hi lo v : Nat) : (s.setRf a hi lo v).ptp = s.ptp := rfl
@[simp] theorem State.setRf_wearo (s : State) (a hi lo v : Nat) : (s.setRf a hi lo v).wearo = s.wearo := rfl
@[simp] theorem State.setRf_fleet (s : State) (a hi lo v : Nat) : (s.setRf a hi lo v).fleet = s.fleet := rfl
@[simp] theorem State.setRf_wire (s : State) (a hi lo v : Nat) : (s.setRf a hi lo v).wire = s.wire := rfl
@[simp] theorem State.setRf_mgmt (s : State) (a hi lo v : Nat) : (s.setRf a hi lo v).mgmt = s.mgmt := rfl
@[simp] theorem State.setRf_gov (s : State) (a hi lo v : Nat) : (s.setRf a hi lo v).gov = s.gov := rfl
@[simp] theorem State.setRf_adm (s : State) (a hi lo v : Nat) : (s.setRf a hi lo v).adm = s.adm := rfl
@[simp] theorem State.setRf_zeroQ (s : State) (a hi lo v : Nat) : (s.setRf a hi lo v).zeroQ = s.zeroQ := rfl
@[simp] theorem State.setRf_bar2Q (s : State) (a hi lo v : Nat) : (s.setRf a hi lo v).bar2Q = s.bar2Q := rfl
@[simp] theorem State.setRf_aon (s : State) (a hi lo v : Nat) : (s.setRf a hi lo v).aon = s.aon := rfl
@[simp] theorem State.setRf_acc (s : State) (a hi lo v : Nat) : (s.setRf a hi lo v).acc = s.acc := rfl
@[simp] theorem State.setRf_free (s : State) (a hi lo v : Nat) : (s.setRf a hi lo v).free = s.free := rfl

/-! ### bump -/

@[simp] theorem State.bump_pending (s : State) (a hi lo k : Nat) : (s.bump a hi lo k).pending = s.pending := rfl
@[simp] theorem State.bump_rast (s : State) (a hi lo k : Nat) : (s.bump a hi lo k).rast = s.rast := rfl
@[simp] theorem State.bump_fab (s : State) (a hi lo k : Nat) : (s.bump a hi lo k).fab = s.fab := rfl
@[simp] theorem State.bump_slots (s : State) (a hi lo k : Nat) : (s.bump a hi lo k).slots = s.slots := rfl
@[simp] theorem State.bump_jobs (s : State) (a hi lo k : Nat) : (s.bump a hi lo k).jobs = s.jobs := rfl
@[simp] theorem State.bump_pregs (s : State) (a hi lo k : Nat) : (s.bump a hi lo k).pregs = s.pregs := rfl
@[simp] theorem State.bump_hbm (s : State) (a hi lo k : Nat) : (s.bump a hi lo k).hbm = s.hbm := rfl
@[simp] theorem State.bump_host (s : State) (a hi lo k : Nat) : (s.bump a hi lo k).host = s.host := rfl
@[simp] theorem State.bump_hostBad (s : State) (a hi lo k : Nat) : (s.bump a hi lo k).hostBad = s.hostBad := rfl
@[simp] theorem State.bump_ev (s : State) (a hi lo k : Nat) : (s.bump a hi lo k).ev = s.ev := rfl
@[simp] theorem State.bump_cfg (s : State) (a hi lo k : Nat) : (s.bump a hi lo k).cfg = s.cfg := rfl
@[simp] theorem State.bump_tod (s : State) (a hi lo k : Nat) : (s.bump a hi lo k).tod = s.tod := rfl
@[simp] theorem State.bump_rcd (s : State) (a hi lo k : Nat) : (s.bump a hi lo k).rcd = s.rcd := rfl
@[simp] theorem State.bump_repairQ (s : State) (a hi lo k : Nat) : (s.bump a hi lo k).repairQ = s.repairQ := rfl
@[simp] theorem State.bump_slk (s : State) (a hi lo k : Nat) : (s.bump a hi lo k).slk = s.slk := rfl
@[simp] theorem State.bump_hardRows (s : State) (a hi lo k : Nat) : (s.bump a hi lo k).hardRows = s.hardRows := rfl
@[simp] theorem State.bump_answer (s : State) (a hi lo k : Nat) : (s.bump a hi lo k).answer = s.answer := rfl
@[simp] theorem State.bump_bifur (s : State) (a hi lo k : Nat) : (s.bump a hi lo k).bifur = s.bifur := rfl
@[simp] theorem State.bump_bitClass (s : State) (a hi lo k : Nat) : (s.bump a hi lo k).bitClass = s.bitClass := rfl
@[simp] theorem State.bump_grade (s : State) (a hi lo k : Nat) : (s.bump a hi lo k).grade = s.grade := rfl
@[simp] theorem State.bump_off (s : State) (a hi lo k : Nat) : (s.bump a hi lo k).off = s.off := rfl
@[simp] theorem State.bump_out (s : State) (a hi lo k : Nat) : (s.bump a hi lo k).out = s.out := rfl
@[simp] theorem State.bump_inp (s : State) (a hi lo k : Nat) : (s.bump a hi lo k).inp = s.inp := rfl
@[simp] theorem State.bump_pends (s : State) (a hi lo k : Nat) : (s.bump a hi lo k).pends = s.pends := rfl
@[simp] theorem State.bump_commits (s : State) (a hi lo k : Nat) : (s.bump a hi lo k).commits = s.commits := rfl
@[simp] theorem State.bump_ptp (s : State) (a hi lo k : Nat) : (s.bump a hi lo k).ptp = s.ptp := rfl
@[simp] theorem State.bump_wearo (s : State) (a hi lo k : Nat) : (s.bump a hi lo k).wearo = s.wearo := rfl
@[simp] theorem State.bump_fleet (s : State) (a hi lo k : Nat) : (s.bump a hi lo k).fleet = s.fleet := rfl
@[simp] theorem State.bump_wire (s : State) (a hi lo k : Nat) : (s.bump a hi lo k).wire = s.wire := rfl
@[simp] theorem State.bump_mgmt (s : State) (a hi lo k : Nat) : (s.bump a hi lo k).mgmt = s.mgmt := rfl
@[simp] theorem State.bump_gov (s : State) (a hi lo k : Nat) : (s.bump a hi lo k).gov = s.gov := rfl
@[simp] theorem State.bump_adm (s : State) (a hi lo k : Nat) : (s.bump a hi lo k).adm = s.adm := rfl
@[simp] theorem State.bump_zeroQ (s : State) (a hi lo k : Nat) : (s.bump a hi lo k).zeroQ = s.zeroQ := rfl
@[simp] theorem State.bump_bar2Q (s : State) (a hi lo k : Nat) : (s.bump a hi lo k).bar2Q = s.bar2Q := rfl
@[simp] theorem State.bump_aon (s : State) (a hi lo k : Nat) : (s.bump a hi lo k).aon = s.aon := rfl
@[simp] theorem State.bump_acc (s : State) (a hi lo k : Nat) : (s.bump a hi lo k).acc = s.acc := rfl
@[simp] theorem State.bump_free (s : State) (a hi lo k : Nat) : (s.bump a hi lo k).free = s.free := rfl

/-! ### setLoHi -/

@[simp] theorem State.setLoHi_pending (s : State) (lo hi n v : Nat) : (s.setLoHi lo hi n v).pending = s.pending := rfl
@[simp] theorem State.setLoHi_rast (s : State) (lo hi n v : Nat) : (s.setLoHi lo hi n v).rast = s.rast := rfl
@[simp] theorem State.setLoHi_fab (s : State) (lo hi n v : Nat) : (s.setLoHi lo hi n v).fab = s.fab := rfl
@[simp] theorem State.setLoHi_slots (s : State) (lo hi n v : Nat) : (s.setLoHi lo hi n v).slots = s.slots := rfl
@[simp] theorem State.setLoHi_jobs (s : State) (lo hi n v : Nat) : (s.setLoHi lo hi n v).jobs = s.jobs := rfl
@[simp] theorem State.setLoHi_pregs (s : State) (lo hi n v : Nat) : (s.setLoHi lo hi n v).pregs = s.pregs := rfl
@[simp] theorem State.setLoHi_hbm (s : State) (lo hi n v : Nat) : (s.setLoHi lo hi n v).hbm = s.hbm := rfl
@[simp] theorem State.setLoHi_host (s : State) (lo hi n v : Nat) : (s.setLoHi lo hi n v).host = s.host := rfl
@[simp] theorem State.setLoHi_hostBad (s : State) (lo hi n v : Nat) : (s.setLoHi lo hi n v).hostBad = s.hostBad := rfl
@[simp] theorem State.setLoHi_ev (s : State) (lo hi n v : Nat) : (s.setLoHi lo hi n v).ev = s.ev := rfl
@[simp] theorem State.setLoHi_cfg (s : State) (lo hi n v : Nat) : (s.setLoHi lo hi n v).cfg = s.cfg := rfl
@[simp] theorem State.setLoHi_tod (s : State) (lo hi n v : Nat) : (s.setLoHi lo hi n v).tod = s.tod := rfl
@[simp] theorem State.setLoHi_rcd (s : State) (lo hi n v : Nat) : (s.setLoHi lo hi n v).rcd = s.rcd := rfl
@[simp] theorem State.setLoHi_repairQ (s : State) (lo hi n v : Nat) : (s.setLoHi lo hi n v).repairQ = s.repairQ := rfl
@[simp] theorem State.setLoHi_slk (s : State) (lo hi n v : Nat) : (s.setLoHi lo hi n v).slk = s.slk := rfl
@[simp] theorem State.setLoHi_hardRows (s : State) (lo hi n v : Nat) : (s.setLoHi lo hi n v).hardRows = s.hardRows := rfl
@[simp] theorem State.setLoHi_answer (s : State) (lo hi n v : Nat) : (s.setLoHi lo hi n v).answer = s.answer := rfl
@[simp] theorem State.setLoHi_bifur (s : State) (lo hi n v : Nat) : (s.setLoHi lo hi n v).bifur = s.bifur := rfl
@[simp] theorem State.setLoHi_bitClass (s : State) (lo hi n v : Nat) : (s.setLoHi lo hi n v).bitClass = s.bitClass := rfl
@[simp] theorem State.setLoHi_grade (s : State) (lo hi n v : Nat) : (s.setLoHi lo hi n v).grade = s.grade := rfl
@[simp] theorem State.setLoHi_off (s : State) (lo hi n v : Nat) : (s.setLoHi lo hi n v).off = s.off := rfl
@[simp] theorem State.setLoHi_out (s : State) (lo hi n v : Nat) : (s.setLoHi lo hi n v).out = s.out := rfl
@[simp] theorem State.setLoHi_inp (s : State) (lo hi n v : Nat) : (s.setLoHi lo hi n v).inp = s.inp := rfl
@[simp] theorem State.setLoHi_pends (s : State) (lo hi n v : Nat) : (s.setLoHi lo hi n v).pends = s.pends := rfl
@[simp] theorem State.setLoHi_commits (s : State) (lo hi n v : Nat) : (s.setLoHi lo hi n v).commits = s.commits := rfl
@[simp] theorem State.setLoHi_ptp (s : State) (lo hi n v : Nat) : (s.setLoHi lo hi n v).ptp = s.ptp := rfl
@[simp] theorem State.setLoHi_wearo (s : State) (lo hi n v : Nat) : (s.setLoHi lo hi n v).wearo = s.wearo := rfl
@[simp] theorem State.setLoHi_fleet (s : State) (lo hi n v : Nat) : (s.setLoHi lo hi n v).fleet = s.fleet := rfl
@[simp] theorem State.setLoHi_wire (s : State) (lo hi n v : Nat) : (s.setLoHi lo hi n v).wire = s.wire := rfl
@[simp] theorem State.setLoHi_mgmt (s : State) (lo hi n v : Nat) : (s.setLoHi lo hi n v).mgmt = s.mgmt := rfl
@[simp] theorem State.setLoHi_gov (s : State) (lo hi n v : Nat) : (s.setLoHi lo hi n v).gov = s.gov := rfl
@[simp] theorem State.setLoHi_adm (s : State) (lo hi n v : Nat) : (s.setLoHi lo hi n v).adm = s.adm := rfl
@[simp] theorem State.setLoHi_zeroQ (s : State) (lo hi n v : Nat) : (s.setLoHi lo hi n v).zeroQ = s.zeroQ := rfl
@[simp] theorem State.setLoHi_bar2Q (s : State) (lo hi n v : Nat) : (s.setLoHi lo hi n v).bar2Q = s.bar2Q := rfl
@[simp] theorem State.setLoHi_aon (s : State) (lo hi n v : Nat) : (s.setLoHi lo hi n v).aon = s.aon := rfl
@[simp] theorem State.setLoHi_acc (s : State) (lo hi n v : Nat) : (s.setLoHi lo hi n v).acc = s.acc := rfl
@[simp] theorem State.setLoHi_free (s : State) (lo hi n v : Nat) : (s.setLoHi lo hi n v).free = s.free := rfl

/-! ### setPreg -/

@[simp] theorem State.setPreg_pending (s : State) (p a : Nat) (w : Word) : (s.setPreg p a w).pending = s.pending := rfl
@[simp] theorem State.setPreg_rast (s : State) (p a : Nat) (w : Word) : (s.setPreg p a w).rast = s.rast := rfl
@[simp] theorem State.setPreg_fab (s : State) (p a : Nat) (w : Word) : (s.setPreg p a w).fab = s.fab := rfl
@[simp] theorem State.setPreg_slots (s : State) (p a : Nat) (w : Word) : (s.setPreg p a w).slots = s.slots := rfl
@[simp] theorem State.setPreg_jobs (s : State) (p a : Nat) (w : Word) : (s.setPreg p a w).jobs = s.jobs := rfl
@[simp] theorem State.setPreg_regs (s : State) (p a : Nat) (w : Word) : (s.setPreg p a w).regs = s.regs := rfl
@[simp] theorem State.setPreg_hbm (s : State) (p a : Nat) (w : Word) : (s.setPreg p a w).hbm = s.hbm := rfl
@[simp] theorem State.setPreg_host (s : State) (p a : Nat) (w : Word) : (s.setPreg p a w).host = s.host := rfl
@[simp] theorem State.setPreg_hostBad (s : State) (p a : Nat) (w : Word) : (s.setPreg p a w).hostBad = s.hostBad := rfl
@[simp] theorem State.setPreg_ev (s : State) (p a : Nat) (w : Word) : (s.setPreg p a w).ev = s.ev := rfl
@[simp] theorem State.setPreg_cfg (s : State) (p a : Nat) (w : Word) : (s.setPreg p a w).cfg = s.cfg := rfl
@[simp] theorem State.setPreg_tod (s : State) (p a : Nat) (w : Word) : (s.setPreg p a w).tod = s.tod := rfl
@[simp] theorem State.setPreg_rcd (s : State) (p a : Nat) (w : Word) : (s.setPreg p a w).rcd = s.rcd := rfl
@[simp] theorem State.setPreg_repairQ (s : State) (p a : Nat) (w : Word) : (s.setPreg p a w).repairQ = s.repairQ := rfl
@[simp] theorem State.setPreg_slk (s : State) (p a : Nat) (w : Word) : (s.setPreg p a w).slk = s.slk := rfl
@[simp] theorem State.setPreg_hardRows (s : State) (p a : Nat) (w : Word) : (s.setPreg p a w).hardRows = s.hardRows := rfl
@[simp] theorem State.setPreg_answer (s : State) (p a : Nat) (w : Word) : (s.setPreg p a w).answer = s.answer := rfl
@[simp] theorem State.setPreg_bifur (s : State) (p a : Nat) (w : Word) : (s.setPreg p a w).bifur = s.bifur := rfl
@[simp] theorem State.setPreg_bitClass (s : State) (p a : Nat) (w : Word) : (s.setPreg p a w).bitClass = s.bitClass := rfl
@[simp] theorem State.setPreg_grade (s : State) (p a : Nat) (w : Word) : (s.setPreg p a w).grade = s.grade := rfl
@[simp] theorem State.setPreg_off (s : State) (p a : Nat) (w : Word) : (s.setPreg p a w).off = s.off := rfl
@[simp] theorem State.setPreg_out (s : State) (p a : Nat) (w : Word) : (s.setPreg p a w).out = s.out := rfl
@[simp] theorem State.setPreg_inp (s : State) (p a : Nat) (w : Word) : (s.setPreg p a w).inp = s.inp := rfl
@[simp] theorem State.setPreg_pends (s : State) (p a : Nat) (w : Word) : (s.setPreg p a w).pends = s.pends := rfl
@[simp] theorem State.setPreg_commits (s : State) (p a : Nat) (w : Word) : (s.setPreg p a w).commits = s.commits := rfl
@[simp] theorem State.setPreg_ptp (s : State) (p a : Nat) (w : Word) : (s.setPreg p a w).ptp = s.ptp := rfl
@[simp] theorem State.setPreg_wearo (s : State) (p a : Nat) (w : Word) : (s.setPreg p a w).wearo = s.wearo := rfl
@[simp] theorem State.setPreg_fleet (s : State) (p a : Nat) (w : Word) : (s.setPreg p a w).fleet = s.fleet := rfl
@[simp] theorem State.setPreg_wire (s : State) (p a : Nat) (w : Word) : (s.setPreg p a w).wire = s.wire := rfl
@[simp] theorem State.setPreg_mgmt (s : State) (p a : Nat) (w : Word) : (s.setPreg p a w).mgmt = s.mgmt := rfl
@[simp] theorem State.setPreg_gov (s : State) (p a : Nat) (w : Word) : (s.setPreg p a w).gov = s.gov := rfl
@[simp] theorem State.setPreg_adm (s : State) (p a : Nat) (w : Word) : (s.setPreg p a w).adm = s.adm := rfl
@[simp] theorem State.setPreg_zeroQ (s : State) (p a : Nat) (w : Word) : (s.setPreg p a w).zeroQ = s.zeroQ := rfl
@[simp] theorem State.setPreg_bar2Q (s : State) (p a : Nat) (w : Word) : (s.setPreg p a w).bar2Q = s.bar2Q := rfl
@[simp] theorem State.setPreg_aon (s : State) (p a : Nat) (w : Word) : (s.setPreg p a w).aon = s.aon := rfl
@[simp] theorem State.setPreg_acc (s : State) (p a : Nat) (w : Word) : (s.setPreg p a w).acc = s.acc := rfl
@[simp] theorem State.setPreg_free (s : State) (p a : Nat) (w : Word) : (s.setPreg p a w).free = s.free := rfl
@[simp] theorem State.setPreg_writes (s : State) (p a : Nat) (w : Word) : (s.setPreg p a w).pregs = smPut (pregReset a) s.pregs (p * 2 ^ 24 + a) w := rfl

/-! ### setPrf -/

@[simp] theorem State.setPrf_pending (s : State) (p a hi lo v : Nat) : (s.setPrf p a hi lo v).pending = s.pending := rfl
@[simp] theorem State.setPrf_rast (s : State) (p a hi lo v : Nat) : (s.setPrf p a hi lo v).rast = s.rast := rfl
@[simp] theorem State.setPrf_fab (s : State) (p a hi lo v : Nat) : (s.setPrf p a hi lo v).fab = s.fab := rfl
@[simp] theorem State.setPrf_slots (s : State) (p a hi lo v : Nat) : (s.setPrf p a hi lo v).slots = s.slots := rfl
@[simp] theorem State.setPrf_jobs (s : State) (p a hi lo v : Nat) : (s.setPrf p a hi lo v).jobs = s.jobs := rfl
@[simp] theorem State.setPrf_regs (s : State) (p a hi lo v : Nat) : (s.setPrf p a hi lo v).regs = s.regs := rfl
@[simp] theorem State.setPrf_hbm (s : State) (p a hi lo v : Nat) : (s.setPrf p a hi lo v).hbm = s.hbm := rfl
@[simp] theorem State.setPrf_host (s : State) (p a hi lo v : Nat) : (s.setPrf p a hi lo v).host = s.host := rfl
@[simp] theorem State.setPrf_hostBad (s : State) (p a hi lo v : Nat) : (s.setPrf p a hi lo v).hostBad = s.hostBad := rfl
@[simp] theorem State.setPrf_ev (s : State) (p a hi lo v : Nat) : (s.setPrf p a hi lo v).ev = s.ev := rfl
@[simp] theorem State.setPrf_cfg (s : State) (p a hi lo v : Nat) : (s.setPrf p a hi lo v).cfg = s.cfg := rfl
@[simp] theorem State.setPrf_tod (s : State) (p a hi lo v : Nat) : (s.setPrf p a hi lo v).tod = s.tod := rfl
@[simp] theorem State.setPrf_rcd (s : State) (p a hi lo v : Nat) : (s.setPrf p a hi lo v).rcd = s.rcd := rfl
@[simp] theorem State.setPrf_repairQ (s : State) (p a hi lo v : Nat) : (s.setPrf p a hi lo v).repairQ = s.repairQ := rfl
@[simp] theorem State.setPrf_slk (s : State) (p a hi lo v : Nat) : (s.setPrf p a hi lo v).slk = s.slk := rfl
@[simp] theorem State.setPrf_hardRows (s : State) (p a hi lo v : Nat) : (s.setPrf p a hi lo v).hardRows = s.hardRows := rfl
@[simp] theorem State.setPrf_answer (s : State) (p a hi lo v : Nat) : (s.setPrf p a hi lo v).answer = s.answer := rfl
@[simp] theorem State.setPrf_bifur (s : State) (p a hi lo v : Nat) : (s.setPrf p a hi lo v).bifur = s.bifur := rfl
@[simp] theorem State.setPrf_bitClass (s : State) (p a hi lo v : Nat) : (s.setPrf p a hi lo v).bitClass = s.bitClass := rfl
@[simp] theorem State.setPrf_grade (s : State) (p a hi lo v : Nat) : (s.setPrf p a hi lo v).grade = s.grade := rfl
@[simp] theorem State.setPrf_off (s : State) (p a hi lo v : Nat) : (s.setPrf p a hi lo v).off = s.off := rfl
@[simp] theorem State.setPrf_out (s : State) (p a hi lo v : Nat) : (s.setPrf p a hi lo v).out = s.out := rfl
@[simp] theorem State.setPrf_inp (s : State) (p a hi lo v : Nat) : (s.setPrf p a hi lo v).inp = s.inp := rfl
@[simp] theorem State.setPrf_pends (s : State) (p a hi lo v : Nat) : (s.setPrf p a hi lo v).pends = s.pends := rfl
@[simp] theorem State.setPrf_commits (s : State) (p a hi lo v : Nat) : (s.setPrf p a hi lo v).commits = s.commits := rfl
@[simp] theorem State.setPrf_ptp (s : State) (p a hi lo v : Nat) : (s.setPrf p a hi lo v).ptp = s.ptp := rfl
@[simp] theorem State.setPrf_wearo (s : State) (p a hi lo v : Nat) : (s.setPrf p a hi lo v).wearo = s.wearo := rfl
@[simp] theorem State.setPrf_fleet (s : State) (p a hi lo v : Nat) : (s.setPrf p a hi lo v).fleet = s.fleet := rfl
@[simp] theorem State.setPrf_wire (s : State) (p a hi lo v : Nat) : (s.setPrf p a hi lo v).wire = s.wire := rfl
@[simp] theorem State.setPrf_mgmt (s : State) (p a hi lo v : Nat) : (s.setPrf p a hi lo v).mgmt = s.mgmt := rfl
@[simp] theorem State.setPrf_gov (s : State) (p a hi lo v : Nat) : (s.setPrf p a hi lo v).gov = s.gov := rfl
@[simp] theorem State.setPrf_adm (s : State) (p a hi lo v : Nat) : (s.setPrf p a hi lo v).adm = s.adm := rfl
@[simp] theorem State.setPrf_zeroQ (s : State) (p a hi lo v : Nat) : (s.setPrf p a hi lo v).zeroQ = s.zeroQ := rfl
@[simp] theorem State.setPrf_bar2Q (s : State) (p a hi lo v : Nat) : (s.setPrf p a hi lo v).bar2Q = s.bar2Q := rfl
@[simp] theorem State.setPrf_aon (s : State) (p a hi lo v : Nat) : (s.setPrf p a hi lo v).aon = s.aon := rfl
@[simp] theorem State.setPrf_acc (s : State) (p a hi lo v : Nat) : (s.setPrf p a hi lo v).acc = s.acc := rfl
@[simp] theorem State.setPrf_free (s : State) (p a hi lo v : Nat) : (s.setPrf p a hi lo v).free = s.free := rfl

/-! ### setSlot -/

@[simp] theorem State.setSlot_pending (s : State) (n : Nat) (x : Slot) : (s.setSlot n x).pending = s.pending := rfl
@[simp] theorem State.setSlot_rast (s : State) (n : Nat) (x : Slot) : (s.setSlot n x).rast = s.rast := rfl
@[simp] theorem State.setSlot_fab (s : State) (n : Nat) (x : Slot) : (s.setSlot n x).fab = s.fab := rfl
@[simp] theorem State.setSlot_jobs (s : State) (n : Nat) (x : Slot) : (s.setSlot n x).jobs = s.jobs := rfl
@[simp] theorem State.setSlot_regs (s : State) (n : Nat) (x : Slot) : (s.setSlot n x).regs = s.regs := rfl
@[simp] theorem State.setSlot_pregs (s : State) (n : Nat) (x : Slot) : (s.setSlot n x).pregs = s.pregs := rfl
@[simp] theorem State.setSlot_hbm (s : State) (n : Nat) (x : Slot) : (s.setSlot n x).hbm = s.hbm := rfl
@[simp] theorem State.setSlot_host (s : State) (n : Nat) (x : Slot) : (s.setSlot n x).host = s.host := rfl
@[simp] theorem State.setSlot_hostBad (s : State) (n : Nat) (x : Slot) : (s.setSlot n x).hostBad = s.hostBad := rfl
@[simp] theorem State.setSlot_ev (s : State) (n : Nat) (x : Slot) : (s.setSlot n x).ev = s.ev := rfl
@[simp] theorem State.setSlot_cfg (s : State) (n : Nat) (x : Slot) : (s.setSlot n x).cfg = s.cfg := rfl
@[simp] theorem State.setSlot_tod (s : State) (n : Nat) (x : Slot) : (s.setSlot n x).tod = s.tod := rfl
@[simp] theorem State.setSlot_rcd (s : State) (n : Nat) (x : Slot) : (s.setSlot n x).rcd = s.rcd := rfl
@[simp] theorem State.setSlot_repairQ (s : State) (n : Nat) (x : Slot) : (s.setSlot n x).repairQ = s.repairQ := rfl
@[simp] theorem State.setSlot_slk (s : State) (n : Nat) (x : Slot) : (s.setSlot n x).slk = s.slk := rfl
@[simp] theorem State.setSlot_hardRows (s : State) (n : Nat) (x : Slot) : (s.setSlot n x).hardRows = s.hardRows := rfl
@[simp] theorem State.setSlot_answer (s : State) (n : Nat) (x : Slot) : (s.setSlot n x).answer = s.answer := rfl
@[simp] theorem State.setSlot_bifur (s : State) (n : Nat) (x : Slot) : (s.setSlot n x).bifur = s.bifur := rfl
@[simp] theorem State.setSlot_bitClass (s : State) (n : Nat) (x : Slot) : (s.setSlot n x).bitClass = s.bitClass := rfl
@[simp] theorem State.setSlot_grade (s : State) (n : Nat) (x : Slot) : (s.setSlot n x).grade = s.grade := rfl
@[simp] theorem State.setSlot_off (s : State) (n : Nat) (x : Slot) : (s.setSlot n x).off = s.off := rfl
@[simp] theorem State.setSlot_out (s : State) (n : Nat) (x : Slot) : (s.setSlot n x).out = s.out := rfl
@[simp] theorem State.setSlot_inp (s : State) (n : Nat) (x : Slot) : (s.setSlot n x).inp = s.inp := rfl
@[simp] theorem State.setSlot_pends (s : State) (n : Nat) (x : Slot) : (s.setSlot n x).pends = s.pends := rfl
@[simp] theorem State.setSlot_commits (s : State) (n : Nat) (x : Slot) : (s.setSlot n x).commits = s.commits := rfl
@[simp] theorem State.setSlot_ptp (s : State) (n : Nat) (x : Slot) : (s.setSlot n x).ptp = s.ptp := rfl
@[simp] theorem State.setSlot_wearo (s : State) (n : Nat) (x : Slot) : (s.setSlot n x).wearo = s.wearo := rfl
@[simp] theorem State.setSlot_fleet (s : State) (n : Nat) (x : Slot) : (s.setSlot n x).fleet = s.fleet := rfl
@[simp] theorem State.setSlot_wire (s : State) (n : Nat) (x : Slot) : (s.setSlot n x).wire = s.wire := rfl
@[simp] theorem State.setSlot_mgmt (s : State) (n : Nat) (x : Slot) : (s.setSlot n x).mgmt = s.mgmt := rfl
@[simp] theorem State.setSlot_gov (s : State) (n : Nat) (x : Slot) : (s.setSlot n x).gov = s.gov := rfl
@[simp] theorem State.setSlot_adm (s : State) (n : Nat) (x : Slot) : (s.setSlot n x).adm = s.adm := rfl
@[simp] theorem State.setSlot_zeroQ (s : State) (n : Nat) (x : Slot) : (s.setSlot n x).zeroQ = s.zeroQ := rfl
@[simp] theorem State.setSlot_bar2Q (s : State) (n : Nat) (x : Slot) : (s.setSlot n x).bar2Q = s.bar2Q := rfl
@[simp] theorem State.setSlot_aon (s : State) (n : Nat) (x : Slot) : (s.setSlot n x).aon = s.aon := rfl
@[simp] theorem State.setSlot_acc (s : State) (n : Nat) (x : Slot) : (s.setSlot n x).acc = s.acc := rfl
@[simp] theorem State.setSlot_free (s : State) (n : Nat) (x : Slot) : (s.setSlot n x).free = s.free := rfl
@[simp] theorem State.setSlot_writes (s : State) (n : Nat) (x : Slot) : (s.setSlot n x).slots = smPut Slot.unused s.slots n x := rfl

/-! ### setJob -/

@[simp] theorem State.setJob_pending (s : State) (n : Nat) (x : Job) : (s.setJob n x).pending = s.pending := rfl
@[simp] theorem State.setJob_rast (s : State) (n : Nat) (x : Job) : (s.setJob n x).rast = s.rast := rfl
@[simp] theorem State.setJob_fab (s : State) (n : Nat) (x : Job) : (s.setJob n x).fab = s.fab := rfl
@[simp] theorem State.setJob_slots (s : State) (n : Nat) (x : Job) : (s.setJob n x).slots = s.slots := rfl
@[simp] theorem State.setJob_regs (s : State) (n : Nat) (x : Job) : (s.setJob n x).regs = s.regs := rfl
@[simp] theorem State.setJob_pregs (s : State) (n : Nat) (x : Job) : (s.setJob n x).pregs = s.pregs := rfl
@[simp] theorem State.setJob_hbm (s : State) (n : Nat) (x : Job) : (s.setJob n x).hbm = s.hbm := rfl
@[simp] theorem State.setJob_host (s : State) (n : Nat) (x : Job) : (s.setJob n x).host = s.host := rfl
@[simp] theorem State.setJob_hostBad (s : State) (n : Nat) (x : Job) : (s.setJob n x).hostBad = s.hostBad := rfl
@[simp] theorem State.setJob_ev (s : State) (n : Nat) (x : Job) : (s.setJob n x).ev = s.ev := rfl
@[simp] theorem State.setJob_cfg (s : State) (n : Nat) (x : Job) : (s.setJob n x).cfg = s.cfg := rfl
@[simp] theorem State.setJob_tod (s : State) (n : Nat) (x : Job) : (s.setJob n x).tod = s.tod := rfl
@[simp] theorem State.setJob_rcd (s : State) (n : Nat) (x : Job) : (s.setJob n x).rcd = s.rcd := rfl
@[simp] theorem State.setJob_repairQ (s : State) (n : Nat) (x : Job) : (s.setJob n x).repairQ = s.repairQ := rfl
@[simp] theorem State.setJob_slk (s : State) (n : Nat) (x : Job) : (s.setJob n x).slk = s.slk := rfl
@[simp] theorem State.setJob_hardRows (s : State) (n : Nat) (x : Job) : (s.setJob n x).hardRows = s.hardRows := rfl
@[simp] theorem State.setJob_answer (s : State) (n : Nat) (x : Job) : (s.setJob n x).answer = s.answer := rfl
@[simp] theorem State.setJob_bifur (s : State) (n : Nat) (x : Job) : (s.setJob n x).bifur = s.bifur := rfl
@[simp] theorem State.setJob_bitClass (s : State) (n : Nat) (x : Job) : (s.setJob n x).bitClass = s.bitClass := rfl
@[simp] theorem State.setJob_grade (s : State) (n : Nat) (x : Job) : (s.setJob n x).grade = s.grade := rfl
@[simp] theorem State.setJob_off (s : State) (n : Nat) (x : Job) : (s.setJob n x).off = s.off := rfl
@[simp] theorem State.setJob_out (s : State) (n : Nat) (x : Job) : (s.setJob n x).out = s.out := rfl
@[simp] theorem State.setJob_inp (s : State) (n : Nat) (x : Job) : (s.setJob n x).inp = s.inp := rfl
@[simp] theorem State.setJob_pends (s : State) (n : Nat) (x : Job) : (s.setJob n x).pends = s.pends := rfl
@[simp] theorem State.setJob_commits (s : State) (n : Nat) (x : Job) : (s.setJob n x).commits = s.commits := rfl
@[simp] theorem State.setJob_ptp (s : State) (n : Nat) (x : Job) : (s.setJob n x).ptp = s.ptp := rfl
@[simp] theorem State.setJob_wearo (s : State) (n : Nat) (x : Job) : (s.setJob n x).wearo = s.wearo := rfl
@[simp] theorem State.setJob_fleet (s : State) (n : Nat) (x : Job) : (s.setJob n x).fleet = s.fleet := rfl
@[simp] theorem State.setJob_wire (s : State) (n : Nat) (x : Job) : (s.setJob n x).wire = s.wire := rfl
@[simp] theorem State.setJob_mgmt (s : State) (n : Nat) (x : Job) : (s.setJob n x).mgmt = s.mgmt := rfl
@[simp] theorem State.setJob_gov (s : State) (n : Nat) (x : Job) : (s.setJob n x).gov = s.gov := rfl
@[simp] theorem State.setJob_adm (s : State) (n : Nat) (x : Job) : (s.setJob n x).adm = s.adm := rfl
@[simp] theorem State.setJob_zeroQ (s : State) (n : Nat) (x : Job) : (s.setJob n x).zeroQ = s.zeroQ := rfl
@[simp] theorem State.setJob_bar2Q (s : State) (n : Nat) (x : Job) : (s.setJob n x).bar2Q = s.bar2Q := rfl
@[simp] theorem State.setJob_aon (s : State) (n : Nat) (x : Job) : (s.setJob n x).aon = s.aon := rfl
@[simp] theorem State.setJob_acc (s : State) (n : Nat) (x : Job) : (s.setJob n x).acc = s.acc := rfl
@[simp] theorem State.setJob_free (s : State) (n : Nat) (x : Job) : (s.setJob n x).free = s.free := rfl
@[simp] theorem State.setJob_writes (s : State) (n : Nat) (x : Job) : (s.setJob n x).jobs = smPut Job.idle s.jobs n x := rfl

/-! ### hostWriteP -/

@[simp] theorem State.hostWriteP_pending (s : State) (p a : Nat) (bs : List (Byte × Bool)) : (s.hostWriteP p a bs).pending = s.pending := rfl
@[simp] theorem State.hostWriteP_rast (s : State) (p a : Nat) (bs : List (Byte × Bool)) : (s.hostWriteP p a bs).rast = s.rast := rfl
@[simp] theorem State.hostWriteP_fab (s : State) (p a : Nat) (bs : List (Byte × Bool)) : (s.hostWriteP p a bs).fab = s.fab := rfl
@[simp] theorem State.hostWriteP_slots (s : State) (p a : Nat) (bs : List (Byte × Bool)) : (s.hostWriteP p a bs).slots = s.slots := rfl
@[simp] theorem State.hostWriteP_jobs (s : State) (p a : Nat) (bs : List (Byte × Bool)) : (s.hostWriteP p a bs).jobs = s.jobs := rfl
@[simp] theorem State.hostWriteP_regs (s : State) (p a : Nat) (bs : List (Byte × Bool)) : (s.hostWriteP p a bs).regs = s.regs := rfl
@[simp] theorem State.hostWriteP_pregs (s : State) (p a : Nat) (bs : List (Byte × Bool)) : (s.hostWriteP p a bs).pregs = s.pregs := rfl
@[simp] theorem State.hostWriteP_hbm (s : State) (p a : Nat) (bs : List (Byte × Bool)) : (s.hostWriteP p a bs).hbm = s.hbm := rfl
@[simp] theorem State.hostWriteP_ev (s : State) (p a : Nat) (bs : List (Byte × Bool)) : (s.hostWriteP p a bs).ev = s.ev := rfl
@[simp] theorem State.hostWriteP_cfg (s : State) (p a : Nat) (bs : List (Byte × Bool)) : (s.hostWriteP p a bs).cfg = s.cfg := rfl
@[simp] theorem State.hostWriteP_tod (s : State) (p a : Nat) (bs : List (Byte × Bool)) : (s.hostWriteP p a bs).tod = s.tod := rfl
@[simp] theorem State.hostWriteP_rcd (s : State) (p a : Nat) (bs : List (Byte × Bool)) : (s.hostWriteP p a bs).rcd = s.rcd := rfl
@[simp] theorem State.hostWriteP_repairQ (s : State) (p a : Nat) (bs : List (Byte × Bool)) : (s.hostWriteP p a bs).repairQ = s.repairQ := rfl
@[simp] theorem State.hostWriteP_slk (s : State) (p a : Nat) (bs : List (Byte × Bool)) : (s.hostWriteP p a bs).slk = s.slk := rfl
@[simp] theorem State.hostWriteP_hardRows (s : State) (p a : Nat) (bs : List (Byte × Bool)) : (s.hostWriteP p a bs).hardRows = s.hardRows := rfl
@[simp] theorem State.hostWriteP_answer (s : State) (p a : Nat) (bs : List (Byte × Bool)) : (s.hostWriteP p a bs).answer = s.answer := rfl
@[simp] theorem State.hostWriteP_bifur (s : State) (p a : Nat) (bs : List (Byte × Bool)) : (s.hostWriteP p a bs).bifur = s.bifur := rfl
@[simp] theorem State.hostWriteP_bitClass (s : State) (p a : Nat) (bs : List (Byte × Bool)) : (s.hostWriteP p a bs).bitClass = s.bitClass := rfl
@[simp] theorem State.hostWriteP_grade (s : State) (p a : Nat) (bs : List (Byte × Bool)) : (s.hostWriteP p a bs).grade = s.grade := rfl
@[simp] theorem State.hostWriteP_off (s : State) (p a : Nat) (bs : List (Byte × Bool)) : (s.hostWriteP p a bs).off = s.off := rfl
@[simp] theorem State.hostWriteP_out (s : State) (p a : Nat) (bs : List (Byte × Bool)) : (s.hostWriteP p a bs).out = s.out := rfl
@[simp] theorem State.hostWriteP_inp (s : State) (p a : Nat) (bs : List (Byte × Bool)) : (s.hostWriteP p a bs).inp = s.inp := rfl
@[simp] theorem State.hostWriteP_pends (s : State) (p a : Nat) (bs : List (Byte × Bool)) : (s.hostWriteP p a bs).pends = s.pends := rfl
@[simp] theorem State.hostWriteP_commits (s : State) (p a : Nat) (bs : List (Byte × Bool)) : (s.hostWriteP p a bs).commits = s.commits := rfl
@[simp] theorem State.hostWriteP_ptp (s : State) (p a : Nat) (bs : List (Byte × Bool)) : (s.hostWriteP p a bs).ptp = s.ptp := rfl
@[simp] theorem State.hostWriteP_wearo (s : State) (p a : Nat) (bs : List (Byte × Bool)) : (s.hostWriteP p a bs).wearo = s.wearo := rfl
@[simp] theorem State.hostWriteP_fleet (s : State) (p a : Nat) (bs : List (Byte × Bool)) : (s.hostWriteP p a bs).fleet = s.fleet := rfl
@[simp] theorem State.hostWriteP_wire (s : State) (p a : Nat) (bs : List (Byte × Bool)) : (s.hostWriteP p a bs).wire = s.wire := rfl
@[simp] theorem State.hostWriteP_mgmt (s : State) (p a : Nat) (bs : List (Byte × Bool)) : (s.hostWriteP p a bs).mgmt = s.mgmt := rfl
@[simp] theorem State.hostWriteP_gov (s : State) (p a : Nat) (bs : List (Byte × Bool)) : (s.hostWriteP p a bs).gov = s.gov := rfl
@[simp] theorem State.hostWriteP_adm (s : State) (p a : Nat) (bs : List (Byte × Bool)) : (s.hostWriteP p a bs).adm = s.adm := rfl
@[simp] theorem State.hostWriteP_zeroQ (s : State) (p a : Nat) (bs : List (Byte × Bool)) : (s.hostWriteP p a bs).zeroQ = s.zeroQ := rfl
@[simp] theorem State.hostWriteP_bar2Q (s : State) (p a : Nat) (bs : List (Byte × Bool)) : (s.hostWriteP p a bs).bar2Q = s.bar2Q := rfl
@[simp] theorem State.hostWriteP_aon (s : State) (p a : Nat) (bs : List (Byte × Bool)) : (s.hostWriteP p a bs).aon = s.aon := rfl
@[simp] theorem State.hostWriteP_acc (s : State) (p a : Nat) (bs : List (Byte × Bool)) : (s.hostWriteP p a bs).acc = s.acc := rfl
@[simp] theorem State.hostWriteP_free (s : State) (p a : Nat) (bs : List (Byte × Bool)) : (s.hostWriteP p a bs).free = s.free := rfl

/-! ### hostWrite -/

@[simp] theorem State.hostWrite_pending (s : State) (p a : Nat) (bs : List Byte) : (s.hostWrite p a bs).pending = s.pending := rfl
@[simp] theorem State.hostWrite_rast (s : State) (p a : Nat) (bs : List Byte) : (s.hostWrite p a bs).rast = s.rast := rfl
@[simp] theorem State.hostWrite_fab (s : State) (p a : Nat) (bs : List Byte) : (s.hostWrite p a bs).fab = s.fab := rfl
@[simp] theorem State.hostWrite_slots (s : State) (p a : Nat) (bs : List Byte) : (s.hostWrite p a bs).slots = s.slots := rfl
@[simp] theorem State.hostWrite_jobs (s : State) (p a : Nat) (bs : List Byte) : (s.hostWrite p a bs).jobs = s.jobs := rfl
@[simp] theorem State.hostWrite_regs (s : State) (p a : Nat) (bs : List Byte) : (s.hostWrite p a bs).regs = s.regs := rfl
@[simp] theorem State.hostWrite_pregs (s : State) (p a : Nat) (bs : List Byte) : (s.hostWrite p a bs).pregs = s.pregs := rfl
@[simp] theorem State.hostWrite_hbm (s : State) (p a : Nat) (bs : List Byte) : (s.hostWrite p a bs).hbm = s.hbm := rfl
@[simp] theorem State.hostWrite_ev (s : State) (p a : Nat) (bs : List Byte) : (s.hostWrite p a bs).ev = s.ev := rfl
@[simp] theorem State.hostWrite_cfg (s : State) (p a : Nat) (bs : List Byte) : (s.hostWrite p a bs).cfg = s.cfg := rfl
@[simp] theorem State.hostWrite_tod (s : State) (p a : Nat) (bs : List Byte) : (s.hostWrite p a bs).tod = s.tod := rfl
@[simp] theorem State.hostWrite_rcd (s : State) (p a : Nat) (bs : List Byte) : (s.hostWrite p a bs).rcd = s.rcd := rfl
@[simp] theorem State.hostWrite_repairQ (s : State) (p a : Nat) (bs : List Byte) : (s.hostWrite p a bs).repairQ = s.repairQ := rfl
@[simp] theorem State.hostWrite_slk (s : State) (p a : Nat) (bs : List Byte) : (s.hostWrite p a bs).slk = s.slk := rfl
@[simp] theorem State.hostWrite_hardRows (s : State) (p a : Nat) (bs : List Byte) : (s.hostWrite p a bs).hardRows = s.hardRows := rfl
@[simp] theorem State.hostWrite_answer (s : State) (p a : Nat) (bs : List Byte) : (s.hostWrite p a bs).answer = s.answer := rfl
@[simp] theorem State.hostWrite_bifur (s : State) (p a : Nat) (bs : List Byte) : (s.hostWrite p a bs).bifur = s.bifur := rfl
@[simp] theorem State.hostWrite_bitClass (s : State) (p a : Nat) (bs : List Byte) : (s.hostWrite p a bs).bitClass = s.bitClass := rfl
@[simp] theorem State.hostWrite_grade (s : State) (p a : Nat) (bs : List Byte) : (s.hostWrite p a bs).grade = s.grade := rfl
@[simp] theorem State.hostWrite_off (s : State) (p a : Nat) (bs : List Byte) : (s.hostWrite p a bs).off = s.off := rfl
@[simp] theorem State.hostWrite_out (s : State) (p a : Nat) (bs : List Byte) : (s.hostWrite p a bs).out = s.out := rfl
@[simp] theorem State.hostWrite_inp (s : State) (p a : Nat) (bs : List Byte) : (s.hostWrite p a bs).inp = s.inp := rfl
@[simp] theorem State.hostWrite_pends (s : State) (p a : Nat) (bs : List Byte) : (s.hostWrite p a bs).pends = s.pends := rfl
@[simp] theorem State.hostWrite_commits (s : State) (p a : Nat) (bs : List Byte) : (s.hostWrite p a bs).commits = s.commits := rfl
@[simp] theorem State.hostWrite_ptp (s : State) (p a : Nat) (bs : List Byte) : (s.hostWrite p a bs).ptp = s.ptp := rfl
@[simp] theorem State.hostWrite_wearo (s : State) (p a : Nat) (bs : List Byte) : (s.hostWrite p a bs).wearo = s.wearo := rfl
@[simp] theorem State.hostWrite_fleet (s : State) (p a : Nat) (bs : List Byte) : (s.hostWrite p a bs).fleet = s.fleet := rfl
@[simp] theorem State.hostWrite_wire (s : State) (p a : Nat) (bs : List Byte) : (s.hostWrite p a bs).wire = s.wire := rfl
@[simp] theorem State.hostWrite_mgmt (s : State) (p a : Nat) (bs : List Byte) : (s.hostWrite p a bs).mgmt = s.mgmt := rfl
@[simp] theorem State.hostWrite_gov (s : State) (p a : Nat) (bs : List Byte) : (s.hostWrite p a bs).gov = s.gov := rfl
@[simp] theorem State.hostWrite_adm (s : State) (p a : Nat) (bs : List Byte) : (s.hostWrite p a bs).adm = s.adm := rfl
@[simp] theorem State.hostWrite_zeroQ (s : State) (p a : Nat) (bs : List Byte) : (s.hostWrite p a bs).zeroQ = s.zeroQ := rfl
@[simp] theorem State.hostWrite_bar2Q (s : State) (p a : Nat) (bs : List Byte) : (s.hostWrite p a bs).bar2Q = s.bar2Q := rfl
@[simp] theorem State.hostWrite_aon (s : State) (p a : Nat) (bs : List Byte) : (s.hostWrite p a bs).aon = s.aon := rfl
@[simp] theorem State.hostWrite_acc (s : State) (p a : Nat) (bs : List Byte) : (s.hostWrite p a bs).acc = s.acc := rfl
@[simp] theorem State.hostWrite_free (s : State) (p a : Nat) (bs : List Byte) : (s.hostWrite p a bs).free = s.free := rfl

/-! ### logPut -/

@[simp] theorem State.logPut_pending (s : State) (e : LogEntry) : (s.logPut e).pending = s.pending := rfl
@[simp] theorem State.logPut_rast (s : State) (e : LogEntry) : (s.logPut e).rast = s.rast := rfl
@[simp] theorem State.logPut_fab (s : State) (e : LogEntry) : (s.logPut e).fab = s.fab := rfl
@[simp] theorem State.logPut_slots (s : State) (e : LogEntry) : (s.logPut e).slots = s.slots := rfl
@[simp] theorem State.logPut_jobs (s : State) (e : LogEntry) : (s.logPut e).jobs = s.jobs := rfl
@[simp] theorem State.logPut_regs (s : State) (e : LogEntry) : (s.logPut e).regs = s.regs := rfl
@[simp] theorem State.logPut_pregs (s : State) (e : LogEntry) : (s.logPut e).pregs = s.pregs := rfl
@[simp] theorem State.logPut_hbm (s : State) (e : LogEntry) : (s.logPut e).hbm = s.hbm := rfl
@[simp] theorem State.logPut_host (s : State) (e : LogEntry) : (s.logPut e).host = s.host := rfl
@[simp] theorem State.logPut_hostBad (s : State) (e : LogEntry) : (s.logPut e).hostBad = s.hostBad := rfl
@[simp] theorem State.logPut_cfg (s : State) (e : LogEntry) : (s.logPut e).cfg = s.cfg := rfl
@[simp] theorem State.logPut_tod (s : State) (e : LogEntry) : (s.logPut e).tod = s.tod := rfl
@[simp] theorem State.logPut_rcd (s : State) (e : LogEntry) : (s.logPut e).rcd = s.rcd := rfl
@[simp] theorem State.logPut_repairQ (s : State) (e : LogEntry) : (s.logPut e).repairQ = s.repairQ := rfl
@[simp] theorem State.logPut_slk (s : State) (e : LogEntry) : (s.logPut e).slk = s.slk := rfl
@[simp] theorem State.logPut_hardRows (s : State) (e : LogEntry) : (s.logPut e).hardRows = s.hardRows := rfl
@[simp] theorem State.logPut_answer (s : State) (e : LogEntry) : (s.logPut e).answer = s.answer := rfl
@[simp] theorem State.logPut_bifur (s : State) (e : LogEntry) : (s.logPut e).bifur = s.bifur := rfl
@[simp] theorem State.logPut_bitClass (s : State) (e : LogEntry) : (s.logPut e).bitClass = s.bitClass := rfl
@[simp] theorem State.logPut_grade (s : State) (e : LogEntry) : (s.logPut e).grade = s.grade := rfl
@[simp] theorem State.logPut_off (s : State) (e : LogEntry) : (s.logPut e).off = s.off := rfl
@[simp] theorem State.logPut_out (s : State) (e : LogEntry) : (s.logPut e).out = s.out := rfl
@[simp] theorem State.logPut_inp (s : State) (e : LogEntry) : (s.logPut e).inp = s.inp := rfl
@[simp] theorem State.logPut_pends (s : State) (e : LogEntry) : (s.logPut e).pends = s.pends := rfl
@[simp] theorem State.logPut_commits (s : State) (e : LogEntry) : (s.logPut e).commits = s.commits := rfl
@[simp] theorem State.logPut_ptp (s : State) (e : LogEntry) : (s.logPut e).ptp = s.ptp := rfl
@[simp] theorem State.logPut_wearo (s : State) (e : LogEntry) : (s.logPut e).wearo = s.wearo := rfl
@[simp] theorem State.logPut_fleet (s : State) (e : LogEntry) : (s.logPut e).fleet = s.fleet := rfl
@[simp] theorem State.logPut_wire (s : State) (e : LogEntry) : (s.logPut e).wire = s.wire := rfl
@[simp] theorem State.logPut_mgmt (s : State) (e : LogEntry) : (s.logPut e).mgmt = s.mgmt := rfl
@[simp] theorem State.logPut_gov (s : State) (e : LogEntry) : (s.logPut e).gov = s.gov := rfl
@[simp] theorem State.logPut_adm (s : State) (e : LogEntry) : (s.logPut e).adm = s.adm := rfl
@[simp] theorem State.logPut_zeroQ (s : State) (e : LogEntry) : (s.logPut e).zeroQ = s.zeroQ := rfl
@[simp] theorem State.logPut_bar2Q (s : State) (e : LogEntry) : (s.logPut e).bar2Q = s.bar2Q := rfl
@[simp] theorem State.logPut_aon (s : State) (e : LogEntry) : (s.logPut e).aon = s.aon := rfl
@[simp] theorem State.logPut_acc (s : State) (e : LogEntry) : (s.logPut e).acc = s.acc := rfl
@[simp] theorem State.logPut_free (s : State) (e : LogEntry) : (s.logPut e).free = s.free := rfl

/-! ### evt -/

@[simp] theorem State.evt_pending (s : State) (b : Nat) : (s.evt b).pending = s.pending := rfl
@[simp] theorem State.evt_rast (s : State) (b : Nat) : (s.evt b).rast = s.rast := rfl
@[simp] theorem State.evt_fab (s : State) (b : Nat) : (s.evt b).fab = s.fab := rfl
@[simp] theorem State.evt_slots (s : State) (b : Nat) : (s.evt b).slots = s.slots := rfl
@[simp] theorem State.evt_jobs (s : State) (b : Nat) : (s.evt b).jobs = s.jobs := rfl
@[simp] theorem State.evt_regs (s : State) (b : Nat) : (s.evt b).regs = s.regs := rfl
@[simp] theorem State.evt_pregs (s : State) (b : Nat) : (s.evt b).pregs = s.pregs := rfl
@[simp] theorem State.evt_hbm (s : State) (b : Nat) : (s.evt b).hbm = s.hbm := rfl
@[simp] theorem State.evt_host (s : State) (b : Nat) : (s.evt b).host = s.host := rfl
@[simp] theorem State.evt_hostBad (s : State) (b : Nat) : (s.evt b).hostBad = s.hostBad := rfl
@[simp] theorem State.evt_ev (s : State) (b : Nat) : (s.evt b).ev = s.ev := rfl
@[simp] theorem State.evt_cfg (s : State) (b : Nat) : (s.evt b).cfg = s.cfg := rfl
@[simp] theorem State.evt_tod (s : State) (b : Nat) : (s.evt b).tod = s.tod := rfl
@[simp] theorem State.evt_repairQ (s : State) (b : Nat) : (s.evt b).repairQ = s.repairQ := rfl
@[simp] theorem State.evt_slk (s : State) (b : Nat) : (s.evt b).slk = s.slk := rfl
@[simp] theorem State.evt_hardRows (s : State) (b : Nat) : (s.evt b).hardRows = s.hardRows := rfl
@[simp] theorem State.evt_answer (s : State) (b : Nat) : (s.evt b).answer = s.answer := rfl
@[simp] theorem State.evt_bifur (s : State) (b : Nat) : (s.evt b).bifur = s.bifur := rfl
@[simp] theorem State.evt_bitClass (s : State) (b : Nat) : (s.evt b).bitClass = s.bitClass := rfl
@[simp] theorem State.evt_grade (s : State) (b : Nat) : (s.evt b).grade = s.grade := rfl
@[simp] theorem State.evt_off (s : State) (b : Nat) : (s.evt b).off = s.off := rfl
@[simp] theorem State.evt_out (s : State) (b : Nat) : (s.evt b).out = s.out := rfl
@[simp] theorem State.evt_inp (s : State) (b : Nat) : (s.evt b).inp = s.inp := rfl
@[simp] theorem State.evt_pends (s : State) (b : Nat) : (s.evt b).pends = s.pends := rfl
@[simp] theorem State.evt_commits (s : State) (b : Nat) : (s.evt b).commits = s.commits := rfl
@[simp] theorem State.evt_ptp (s : State) (b : Nat) : (s.evt b).ptp = s.ptp := rfl
@[simp] theorem State.evt_wearo (s : State) (b : Nat) : (s.evt b).wearo = s.wearo := rfl
@[simp] theorem State.evt_fleet (s : State) (b : Nat) : (s.evt b).fleet = s.fleet := rfl
@[simp] theorem State.evt_wire (s : State) (b : Nat) : (s.evt b).wire = s.wire := rfl
@[simp] theorem State.evt_mgmt (s : State) (b : Nat) : (s.evt b).mgmt = s.mgmt := rfl
@[simp] theorem State.evt_gov (s : State) (b : Nat) : (s.evt b).gov = s.gov := rfl
@[simp] theorem State.evt_adm (s : State) (b : Nat) : (s.evt b).adm = s.adm := rfl
@[simp] theorem State.evt_zeroQ (s : State) (b : Nat) : (s.evt b).zeroQ = s.zeroQ := rfl
@[simp] theorem State.evt_bar2Q (s : State) (b : Nat) : (s.evt b).bar2Q = s.bar2Q := rfl
@[simp] theorem State.evt_aon (s : State) (b : Nat) : (s.evt b).aon = s.aon := rfl
@[simp] theorem State.evt_acc (s : State) (b : Nat) : (s.evt b).acc = s.acc := rfl
@[simp] theorem State.evt_free (s : State) (b : Nat) : (s.evt b).free = s.free := rfl
@[simp] theorem State.evt_writes (s : State) (b : Nat) : (s.evt b).rcd = { s.rcd with evt := s.rcd.evt ||| 2 ^ b } := rfl

/-! ### hbmWrite -/

@[simp] theorem State.hbmWrite_pending (s : State) (h : Bool) (ws : List (Nat × Byte × Nat)) : (s.hbmWrite h ws).pending = s.pending := rfl
@[simp] theorem State.hbmWrite_rast (s : State) (h : Bool) (ws : List (Nat × Byte × Nat)) : (s.hbmWrite h ws).rast = s.rast := rfl
@[simp] theorem State.hbmWrite_fab (s : State) (h : Bool) (ws : List (Nat × Byte × Nat)) : (s.hbmWrite h ws).fab = s.fab := rfl
@[simp] theorem State.hbmWrite_slots (s : State) (h : Bool) (ws : List (Nat × Byte × Nat)) : (s.hbmWrite h ws).slots = s.slots := rfl
@[simp] theorem State.hbmWrite_jobs (s : State) (h : Bool) (ws : List (Nat × Byte × Nat)) : (s.hbmWrite h ws).jobs = s.jobs := rfl
@[simp] theorem State.hbmWrite_regs (s : State) (h : Bool) (ws : List (Nat × Byte × Nat)) : (s.hbmWrite h ws).regs = s.regs := rfl
@[simp] theorem State.hbmWrite_pregs (s : State) (h : Bool) (ws : List (Nat × Byte × Nat)) : (s.hbmWrite h ws).pregs = s.pregs := rfl
@[simp] theorem State.hbmWrite_host (s : State) (h : Bool) (ws : List (Nat × Byte × Nat)) : (s.hbmWrite h ws).host = s.host := rfl
@[simp] theorem State.hbmWrite_hostBad (s : State) (h : Bool) (ws : List (Nat × Byte × Nat)) : (s.hbmWrite h ws).hostBad = s.hostBad := rfl
@[simp] theorem State.hbmWrite_ev (s : State) (h : Bool) (ws : List (Nat × Byte × Nat)) : (s.hbmWrite h ws).ev = s.ev := rfl
@[simp] theorem State.hbmWrite_cfg (s : State) (h : Bool) (ws : List (Nat × Byte × Nat)) : (s.hbmWrite h ws).cfg = s.cfg := rfl
@[simp] theorem State.hbmWrite_tod (s : State) (h : Bool) (ws : List (Nat × Byte × Nat)) : (s.hbmWrite h ws).tod = s.tod := rfl
@[simp] theorem State.hbmWrite_rcd (s : State) (h : Bool) (ws : List (Nat × Byte × Nat)) : (s.hbmWrite h ws).rcd = s.rcd := rfl
@[simp] theorem State.hbmWrite_repairQ (s : State) (h : Bool) (ws : List (Nat × Byte × Nat)) : (s.hbmWrite h ws).repairQ = s.repairQ := rfl
@[simp] theorem State.hbmWrite_slk (s : State) (h : Bool) (ws : List (Nat × Byte × Nat)) : (s.hbmWrite h ws).slk = s.slk := rfl
@[simp] theorem State.hbmWrite_hardRows (s : State) (h : Bool) (ws : List (Nat × Byte × Nat)) : (s.hbmWrite h ws).hardRows = s.hardRows := rfl
@[simp] theorem State.hbmWrite_answer (s : State) (h : Bool) (ws : List (Nat × Byte × Nat)) : (s.hbmWrite h ws).answer = s.answer := rfl
@[simp] theorem State.hbmWrite_bifur (s : State) (h : Bool) (ws : List (Nat × Byte × Nat)) : (s.hbmWrite h ws).bifur = s.bifur := rfl
@[simp] theorem State.hbmWrite_bitClass (s : State) (h : Bool) (ws : List (Nat × Byte × Nat)) : (s.hbmWrite h ws).bitClass = s.bitClass := rfl
@[simp] theorem State.hbmWrite_grade (s : State) (h : Bool) (ws : List (Nat × Byte × Nat)) : (s.hbmWrite h ws).grade = s.grade := rfl
@[simp] theorem State.hbmWrite_off (s : State) (h : Bool) (ws : List (Nat × Byte × Nat)) : (s.hbmWrite h ws).off = s.off := rfl
@[simp] theorem State.hbmWrite_out (s : State) (h : Bool) (ws : List (Nat × Byte × Nat)) : (s.hbmWrite h ws).out = s.out := rfl
@[simp] theorem State.hbmWrite_inp (s : State) (h : Bool) (ws : List (Nat × Byte × Nat)) : (s.hbmWrite h ws).inp = s.inp := rfl
@[simp] theorem State.hbmWrite_pends (s : State) (h : Bool) (ws : List (Nat × Byte × Nat)) : (s.hbmWrite h ws).pends = s.pends := rfl
@[simp] theorem State.hbmWrite_commits (s : State) (h : Bool) (ws : List (Nat × Byte × Nat)) : (s.hbmWrite h ws).commits = s.commits := rfl
@[simp] theorem State.hbmWrite_ptp (s : State) (h : Bool) (ws : List (Nat × Byte × Nat)) : (s.hbmWrite h ws).ptp = s.ptp := rfl
@[simp] theorem State.hbmWrite_wearo (s : State) (h : Bool) (ws : List (Nat × Byte × Nat)) : (s.hbmWrite h ws).wearo = s.wearo := rfl
@[simp] theorem State.hbmWrite_fleet (s : State) (h : Bool) (ws : List (Nat × Byte × Nat)) : (s.hbmWrite h ws).fleet = s.fleet := rfl
@[simp] theorem State.hbmWrite_wire (s : State) (h : Bool) (ws : List (Nat × Byte × Nat)) : (s.hbmWrite h ws).wire = s.wire := rfl
@[simp] theorem State.hbmWrite_mgmt (s : State) (h : Bool) (ws : List (Nat × Byte × Nat)) : (s.hbmWrite h ws).mgmt = s.mgmt := rfl
@[simp] theorem State.hbmWrite_gov (s : State) (h : Bool) (ws : List (Nat × Byte × Nat)) : (s.hbmWrite h ws).gov = s.gov := rfl
@[simp] theorem State.hbmWrite_adm (s : State) (h : Bool) (ws : List (Nat × Byte × Nat)) : (s.hbmWrite h ws).adm = s.adm := rfl
@[simp] theorem State.hbmWrite_zeroQ (s : State) (h : Bool) (ws : List (Nat × Byte × Nat)) : (s.hbmWrite h ws).zeroQ = s.zeroQ := rfl
@[simp] theorem State.hbmWrite_bar2Q (s : State) (h : Bool) (ws : List (Nat × Byte × Nat)) : (s.hbmWrite h ws).bar2Q = s.bar2Q := rfl
@[simp] theorem State.hbmWrite_aon (s : State) (h : Bool) (ws : List (Nat × Byte × Nat)) : (s.hbmWrite h ws).aon = s.aon := rfl
@[simp] theorem State.hbmWrite_acc (s : State) (h : Bool) (ws : List (Nat × Byte × Nat)) : (s.hbmWrite h ws).acc = s.acc := rfl
@[simp] theorem State.hbmWrite_free (s : State) (h : Bool) (ws : List (Nat × Byte × Nat)) : (s.hbmWrite h ws).free = s.free := rfl
@[simp] theorem State.hbmWrite_writes (s : State) (h : Bool) (ws : List (Nat × Byte × Nat)) : (s.hbmWrite h ws).hbm = s.hbm.write (ws.map (fun w => (s.reach 0 h w.1, w.2))) := rfl

/-! ### setS -/

@[simp] theorem State.setS_pending (s : State) (n k : Nat) (w : Word) : (s.setS n k w).pending = s.pending := rfl
@[simp] theorem State.setS_rast (s : State) (n k : Nat) (w : Word) : (s.setS n k w).rast = s.rast := rfl
@[simp] theorem State.setS_slots (s : State) (n k : Nat) (w : Word) : (s.setS n k w).slots = s.slots := rfl
@[simp] theorem State.setS_jobs (s : State) (n k : Nat) (w : Word) : (s.setS n k w).jobs = s.jobs := rfl
@[simp] theorem State.setS_regs (s : State) (n k : Nat) (w : Word) : (s.setS n k w).regs = s.regs := rfl
@[simp] theorem State.setS_pregs (s : State) (n k : Nat) (w : Word) : (s.setS n k w).pregs = s.pregs := rfl
@[simp] theorem State.setS_hbm (s : State) (n k : Nat) (w : Word) : (s.setS n k w).hbm = s.hbm := rfl
@[simp] theorem State.setS_host (s : State) (n k : Nat) (w : Word) : (s.setS n k w).host = s.host := rfl
@[simp] theorem State.setS_hostBad (s : State) (n k : Nat) (w : Word) : (s.setS n k w).hostBad = s.hostBad := rfl
@[simp] theorem State.setS_ev (s : State) (n k : Nat) (w : Word) : (s.setS n k w).ev = s.ev := rfl
@[simp] theorem State.setS_cfg (s : State) (n k : Nat) (w : Word) : (s.setS n k w).cfg = s.cfg := rfl
@[simp] theorem State.setS_tod (s : State) (n k : Nat) (w : Word) : (s.setS n k w).tod = s.tod := rfl
@[simp] theorem State.setS_rcd (s : State) (n k : Nat) (w : Word) : (s.setS n k w).rcd = s.rcd := rfl
@[simp] theorem State.setS_repairQ (s : State) (n k : Nat) (w : Word) : (s.setS n k w).repairQ = s.repairQ := rfl
@[simp] theorem State.setS_slk (s : State) (n k : Nat) (w : Word) : (s.setS n k w).slk = s.slk := rfl
@[simp] theorem State.setS_hardRows (s : State) (n k : Nat) (w : Word) : (s.setS n k w).hardRows = s.hardRows := rfl
@[simp] theorem State.setS_answer (s : State) (n k : Nat) (w : Word) : (s.setS n k w).answer = s.answer := rfl
@[simp] theorem State.setS_bifur (s : State) (n k : Nat) (w : Word) : (s.setS n k w).bifur = s.bifur := rfl
@[simp] theorem State.setS_bitClass (s : State) (n k : Nat) (w : Word) : (s.setS n k w).bitClass = s.bitClass := rfl
@[simp] theorem State.setS_grade (s : State) (n k : Nat) (w : Word) : (s.setS n k w).grade = s.grade := rfl
@[simp] theorem State.setS_off (s : State) (n k : Nat) (w : Word) : (s.setS n k w).off = s.off := rfl
@[simp] theorem State.setS_out (s : State) (n k : Nat) (w : Word) : (s.setS n k w).out = s.out := rfl
@[simp] theorem State.setS_inp (s : State) (n k : Nat) (w : Word) : (s.setS n k w).inp = s.inp := rfl
@[simp] theorem State.setS_pends (s : State) (n k : Nat) (w : Word) : (s.setS n k w).pends = s.pends := rfl
@[simp] theorem State.setS_commits (s : State) (n k : Nat) (w : Word) : (s.setS n k w).commits = s.commits := rfl
@[simp] theorem State.setS_ptp (s : State) (n k : Nat) (w : Word) : (s.setS n k w).ptp = s.ptp := rfl
@[simp] theorem State.setS_wearo (s : State) (n k : Nat) (w : Word) : (s.setS n k w).wearo = s.wearo := rfl
@[simp] theorem State.setS_fleet (s : State) (n k : Nat) (w : Word) : (s.setS n k w).fleet = s.fleet := rfl
@[simp] theorem State.setS_wire (s : State) (n k : Nat) (w : Word) : (s.setS n k w).wire = s.wire := rfl
@[simp] theorem State.setS_mgmt (s : State) (n k : Nat) (w : Word) : (s.setS n k w).mgmt = s.mgmt := rfl
@[simp] theorem State.setS_gov (s : State) (n k : Nat) (w : Word) : (s.setS n k w).gov = s.gov := rfl
@[simp] theorem State.setS_adm (s : State) (n k : Nat) (w : Word) : (s.setS n k w).adm = s.adm := rfl
@[simp] theorem State.setS_zeroQ (s : State) (n k : Nat) (w : Word) : (s.setS n k w).zeroQ = s.zeroQ := rfl
@[simp] theorem State.setS_bar2Q (s : State) (n k : Nat) (w : Word) : (s.setS n k w).bar2Q = s.bar2Q := rfl
@[simp] theorem State.setS_aon (s : State) (n k : Nat) (w : Word) : (s.setS n k w).aon = s.aon := rfl
@[simp] theorem State.setS_acc (s : State) (n k : Nat) (w : Word) : (s.setS n k w).acc = s.acc := rfl
@[simp] theorem State.setS_free (s : State) (n k : Nat) (w : Word) : (s.setS n k w).free = s.free := rfl
@[simp] theorem State.setS_fab_breg (s : State) (n k : Nat) (w : Word) : (s.setS n k w).fab.breg = s.fab.breg := rfl
@[simp] theorem State.setS_fab_areg (s : State) (n k : Nat) (w : Word) : (s.setS n k w).fab.areg = s.fab.areg := rfl
@[simp] theorem State.setS_fab_gen (s : State) (n k : Nat) (w : Word) : (s.setS n k w).fab.gen = s.fab.gen := rfl
@[simp] theorem State.setS_fab_crucible (s : State) (n k : Nat) (w : Word) : (s.setS n k w).fab.crucible = s.fab.crucible := rfl
@[simp] theorem State.setS_fab_descr (s : State) (n k : Nat) (w : Word) : (s.setS n k w).fab.descr = s.fab.descr := rfl
@[simp] theorem State.setS_fab_loft (s : State) (n k : Nat) (w : Word) : (s.setS n k w).fab.loft = s.fab.loft := rfl
@[simp] theorem State.setS_fab_map (s : State) (n k : Nat) (w : Word) : (s.setS n k w).fab.map = s.fab.map := rfl
@[simp] theorem State.setS_fab_failed (s : State) (n k : Nat) (w : Word) : (s.setS n k w).fab.failed = s.fab.failed := rfl
@[simp] theorem State.setS_fab_badPhys (s : State) (n k : Nat) (w : Word) : (s.setS n k w).fab.badPhys = s.fab.badPhys := rfl
@[simp] theorem State.setS_fab_gather (s : State) (n k : Nat) (w : Word) : (s.setS n k w).fab.gather = s.fab.gather := rfl
@[simp] theorem State.setS_fab_gatherOwn (s : State) (n k : Nat) (w : Word) : (s.setS n k w).fab.gatherOwn = s.fab.gatherOwn := rfl
@[simp] theorem State.setS_fab_snapOwn (s : State) (n k : Nat) (w : Word) : (s.setS n k w).fab.snapOwn = s.fab.snapOwn := rfl
@[simp] theorem State.setS_fab_segs (s : State) (n k : Nat) (w : Word) : (s.setS n k w).fab.segs = s.fab.segs := rfl
@[simp] theorem State.setS_fab_muted (s : State) (n k : Nat) (w : Word) : (s.setS n k w).fab.muted = s.fab.muted := rfl
@[simp] theorem State.setS_fab_ownerFaulted (s : State) (n k : Nat) (w : Word) : (s.setS n k w).fab.ownerFaulted = s.fab.ownerFaulted := rfl
@[simp] theorem State.setS_fab_ended (s : State) (n k : Nat) (w : Word) : (s.setS n k w).fab.ended = s.fab.ended := rfl
@[simp] theorem State.setS_fab_actor (s : State) (n k : Nat) (w : Word) : (s.setS n k w).fab.actor = s.fab.actor := rfl
@[simp] theorem State.setS_fab_side (s : State) (n k : Nat) (w : Word) : (s.setS n k w).fab.side = s.fab.side := rfl
@[simp] theorem State.setS_fab_cyc (s : State) (n k : Nat) (w : Word) : (s.setS n k w).fab.cyc = s.fab.cyc := rfl
@[simp] theorem State.setS_fab_fresh (s : State) (n k : Nat) (w : Word) : (s.setS n k w).fab.fresh = s.fab.fresh := rfl
@[simp] theorem State.setS_fab_flight (s : State) (n k : Nat) (w : Word) : (s.setS n k w).fab.flight = s.fab.flight := rfl
@[simp] theorem State.setS_fab_storeFlips (s : State) (n k : Nat) (w : Word) : (s.setS n k w).fab.storeFlips = s.fab.storeFlips := rfl
@[simp] theorem State.setS_writes (s : State) (n k : Nat) (w : Word) : (s.setS n k w).fab.sreg = smPut 0 s.fab.sreg (32 * n + k) w := rfl

/-! ### setB -/

@[simp] theorem State.setB_pending (s : State) (n k : Nat) (w : Word) : (s.setB n k w).pending = s.pending := rfl
@[simp] theorem State.setB_rast (s : State) (n k : Nat) (w : Word) : (s.setB n k w).rast = s.rast := rfl
@[simp] theorem State.setB_slots (s : State) (n k : Nat) (w : Word) : (s.setB n k w).slots = s.slots := rfl
@[simp] theorem State.setB_jobs (s : State) (n k : Nat) (w : Word) : (s.setB n k w).jobs = s.jobs := rfl
@[simp] theorem State.setB_regs (s : State) (n k : Nat) (w : Word) : (s.setB n k w).regs = s.regs := rfl
@[simp] theorem State.setB_pregs (s : State) (n k : Nat) (w : Word) : (s.setB n k w).pregs = s.pregs := rfl
@[simp] theorem State.setB_hbm (s : State) (n k : Nat) (w : Word) : (s.setB n k w).hbm = s.hbm := rfl
@[simp] theorem State.setB_host (s : State) (n k : Nat) (w : Word) : (s.setB n k w).host = s.host := rfl
@[simp] theorem State.setB_hostBad (s : State) (n k : Nat) (w : Word) : (s.setB n k w).hostBad = s.hostBad := rfl
@[simp] theorem State.setB_ev (s : State) (n k : Nat) (w : Word) : (s.setB n k w).ev = s.ev := rfl
@[simp] theorem State.setB_cfg (s : State) (n k : Nat) (w : Word) : (s.setB n k w).cfg = s.cfg := rfl
@[simp] theorem State.setB_tod (s : State) (n k : Nat) (w : Word) : (s.setB n k w).tod = s.tod := rfl
@[simp] theorem State.setB_rcd (s : State) (n k : Nat) (w : Word) : (s.setB n k w).rcd = s.rcd := rfl
@[simp] theorem State.setB_repairQ (s : State) (n k : Nat) (w : Word) : (s.setB n k w).repairQ = s.repairQ := rfl
@[simp] theorem State.setB_slk (s : State) (n k : Nat) (w : Word) : (s.setB n k w).slk = s.slk := rfl
@[simp] theorem State.setB_hardRows (s : State) (n k : Nat) (w : Word) : (s.setB n k w).hardRows = s.hardRows := rfl
@[simp] theorem State.setB_answer (s : State) (n k : Nat) (w : Word) : (s.setB n k w).answer = s.answer := rfl
@[simp] theorem State.setB_bifur (s : State) (n k : Nat) (w : Word) : (s.setB n k w).bifur = s.bifur := rfl
@[simp] theorem State.setB_bitClass (s : State) (n k : Nat) (w : Word) : (s.setB n k w).bitClass = s.bitClass := rfl
@[simp] theorem State.setB_grade (s : State) (n k : Nat) (w : Word) : (s.setB n k w).grade = s.grade := rfl
@[simp] theorem State.setB_off (s : State) (n k : Nat) (w : Word) : (s.setB n k w).off = s.off := rfl
@[simp] theorem State.setB_out (s : State) (n k : Nat) (w : Word) : (s.setB n k w).out = s.out := rfl
@[simp] theorem State.setB_inp (s : State) (n k : Nat) (w : Word) : (s.setB n k w).inp = s.inp := rfl
@[simp] theorem State.setB_pends (s : State) (n k : Nat) (w : Word) : (s.setB n k w).pends = s.pends := rfl
@[simp] theorem State.setB_commits (s : State) (n k : Nat) (w : Word) : (s.setB n k w).commits = s.commits := rfl
@[simp] theorem State.setB_ptp (s : State) (n k : Nat) (w : Word) : (s.setB n k w).ptp = s.ptp := rfl
@[simp] theorem State.setB_wearo (s : State) (n k : Nat) (w : Word) : (s.setB n k w).wearo = s.wearo := rfl
@[simp] theorem State.setB_fleet (s : State) (n k : Nat) (w : Word) : (s.setB n k w).fleet = s.fleet := rfl
@[simp] theorem State.setB_wire (s : State) (n k : Nat) (w : Word) : (s.setB n k w).wire = s.wire := rfl
@[simp] theorem State.setB_mgmt (s : State) (n k : Nat) (w : Word) : (s.setB n k w).mgmt = s.mgmt := rfl
@[simp] theorem State.setB_gov (s : State) (n k : Nat) (w : Word) : (s.setB n k w).gov = s.gov := rfl
@[simp] theorem State.setB_adm (s : State) (n k : Nat) (w : Word) : (s.setB n k w).adm = s.adm := rfl
@[simp] theorem State.setB_zeroQ (s : State) (n k : Nat) (w : Word) : (s.setB n k w).zeroQ = s.zeroQ := rfl
@[simp] theorem State.setB_bar2Q (s : State) (n k : Nat) (w : Word) : (s.setB n k w).bar2Q = s.bar2Q := rfl
@[simp] theorem State.setB_aon (s : State) (n k : Nat) (w : Word) : (s.setB n k w).aon = s.aon := rfl
@[simp] theorem State.setB_acc (s : State) (n k : Nat) (w : Word) : (s.setB n k w).acc = s.acc := rfl
@[simp] theorem State.setB_free (s : State) (n k : Nat) (w : Word) : (s.setB n k w).free = s.free := rfl
@[simp] theorem State.setB_fab_sreg (s : State) (n k : Nat) (w : Word) : (s.setB n k w).fab.sreg = s.fab.sreg := rfl
@[simp] theorem State.setB_fab_areg (s : State) (n k : Nat) (w : Word) : (s.setB n k w).fab.areg = s.fab.areg := rfl
@[simp] theorem State.setB_fab_gen (s : State) (n k : Nat) (w : Word) : (s.setB n k w).fab.gen = s.fab.gen := rfl
@[simp] theorem State.setB_fab_crucible (s : State) (n k : Nat) (w : Word) : (s.setB n k w).fab.crucible = s.fab.crucible := rfl
@[simp] theorem State.setB_fab_descr (s : State) (n k : Nat) (w : Word) : (s.setB n k w).fab.descr = s.fab.descr := rfl
@[simp] theorem State.setB_fab_loft (s : State) (n k : Nat) (w : Word) : (s.setB n k w).fab.loft = s.fab.loft := rfl
@[simp] theorem State.setB_fab_map (s : State) (n k : Nat) (w : Word) : (s.setB n k w).fab.map = s.fab.map := rfl
@[simp] theorem State.setB_fab_failed (s : State) (n k : Nat) (w : Word) : (s.setB n k w).fab.failed = s.fab.failed := rfl
@[simp] theorem State.setB_fab_badPhys (s : State) (n k : Nat) (w : Word) : (s.setB n k w).fab.badPhys = s.fab.badPhys := rfl
@[simp] theorem State.setB_fab_gather (s : State) (n k : Nat) (w : Word) : (s.setB n k w).fab.gather = s.fab.gather := rfl
@[simp] theorem State.setB_fab_gatherOwn (s : State) (n k : Nat) (w : Word) : (s.setB n k w).fab.gatherOwn = s.fab.gatherOwn := rfl
@[simp] theorem State.setB_fab_snapOwn (s : State) (n k : Nat) (w : Word) : (s.setB n k w).fab.snapOwn = s.fab.snapOwn := rfl
@[simp] theorem State.setB_fab_segs (s : State) (n k : Nat) (w : Word) : (s.setB n k w).fab.segs = s.fab.segs := rfl
@[simp] theorem State.setB_fab_muted (s : State) (n k : Nat) (w : Word) : (s.setB n k w).fab.muted = s.fab.muted := rfl
@[simp] theorem State.setB_fab_ownerFaulted (s : State) (n k : Nat) (w : Word) : (s.setB n k w).fab.ownerFaulted = s.fab.ownerFaulted := rfl
@[simp] theorem State.setB_fab_ended (s : State) (n k : Nat) (w : Word) : (s.setB n k w).fab.ended = s.fab.ended := rfl
@[simp] theorem State.setB_fab_actor (s : State) (n k : Nat) (w : Word) : (s.setB n k w).fab.actor = s.fab.actor := rfl
@[simp] theorem State.setB_fab_side (s : State) (n k : Nat) (w : Word) : (s.setB n k w).fab.side = s.fab.side := rfl
@[simp] theorem State.setB_fab_cyc (s : State) (n k : Nat) (w : Word) : (s.setB n k w).fab.cyc = s.fab.cyc := rfl
@[simp] theorem State.setB_fab_fresh (s : State) (n k : Nat) (w : Word) : (s.setB n k w).fab.fresh = s.fab.fresh := rfl
@[simp] theorem State.setB_fab_flight (s : State) (n k : Nat) (w : Word) : (s.setB n k w).fab.flight = s.fab.flight := rfl
@[simp] theorem State.setB_fab_storeFlips (s : State) (n k : Nat) (w : Word) : (s.setB n k w).fab.storeFlips = s.fab.storeFlips := rfl
@[simp] theorem State.setB_writes (s : State) (n k : Nat) (w : Word) : (s.setB n k w).fab.breg = smPut 0 s.fab.breg (16 * n + k) w := rfl

/-! ### setA -/

@[simp] theorem State.setA_pending (s : State) (n k : Nat) (w : BitVec 40) : (s.setA n k w).pending = s.pending := rfl
@[simp] theorem State.setA_rast (s : State) (n k : Nat) (w : BitVec 40) : (s.setA n k w).rast = s.rast := rfl
@[simp] theorem State.setA_slots (s : State) (n k : Nat) (w : BitVec 40) : (s.setA n k w).slots = s.slots := rfl
@[simp] theorem State.setA_jobs (s : State) (n k : Nat) (w : BitVec 40) : (s.setA n k w).jobs = s.jobs := rfl
@[simp] theorem State.setA_regs (s : State) (n k : Nat) (w : BitVec 40) : (s.setA n k w).regs = s.regs := rfl
@[simp] theorem State.setA_pregs (s : State) (n k : Nat) (w : BitVec 40) : (s.setA n k w).pregs = s.pregs := rfl
@[simp] theorem State.setA_hbm (s : State) (n k : Nat) (w : BitVec 40) : (s.setA n k w).hbm = s.hbm := rfl
@[simp] theorem State.setA_host (s : State) (n k : Nat) (w : BitVec 40) : (s.setA n k w).host = s.host := rfl
@[simp] theorem State.setA_hostBad (s : State) (n k : Nat) (w : BitVec 40) : (s.setA n k w).hostBad = s.hostBad := rfl
@[simp] theorem State.setA_ev (s : State) (n k : Nat) (w : BitVec 40) : (s.setA n k w).ev = s.ev := rfl
@[simp] theorem State.setA_cfg (s : State) (n k : Nat) (w : BitVec 40) : (s.setA n k w).cfg = s.cfg := rfl
@[simp] theorem State.setA_tod (s : State) (n k : Nat) (w : BitVec 40) : (s.setA n k w).tod = s.tod := rfl
@[simp] theorem State.setA_rcd (s : State) (n k : Nat) (w : BitVec 40) : (s.setA n k w).rcd = s.rcd := rfl
@[simp] theorem State.setA_repairQ (s : State) (n k : Nat) (w : BitVec 40) : (s.setA n k w).repairQ = s.repairQ := rfl
@[simp] theorem State.setA_slk (s : State) (n k : Nat) (w : BitVec 40) : (s.setA n k w).slk = s.slk := rfl
@[simp] theorem State.setA_hardRows (s : State) (n k : Nat) (w : BitVec 40) : (s.setA n k w).hardRows = s.hardRows := rfl
@[simp] theorem State.setA_answer (s : State) (n k : Nat) (w : BitVec 40) : (s.setA n k w).answer = s.answer := rfl
@[simp] theorem State.setA_bifur (s : State) (n k : Nat) (w : BitVec 40) : (s.setA n k w).bifur = s.bifur := rfl
@[simp] theorem State.setA_bitClass (s : State) (n k : Nat) (w : BitVec 40) : (s.setA n k w).bitClass = s.bitClass := rfl
@[simp] theorem State.setA_grade (s : State) (n k : Nat) (w : BitVec 40) : (s.setA n k w).grade = s.grade := rfl
@[simp] theorem State.setA_off (s : State) (n k : Nat) (w : BitVec 40) : (s.setA n k w).off = s.off := rfl
@[simp] theorem State.setA_out (s : State) (n k : Nat) (w : BitVec 40) : (s.setA n k w).out = s.out := rfl
@[simp] theorem State.setA_inp (s : State) (n k : Nat) (w : BitVec 40) : (s.setA n k w).inp = s.inp := rfl
@[simp] theorem State.setA_pends (s : State) (n k : Nat) (w : BitVec 40) : (s.setA n k w).pends = s.pends := rfl
@[simp] theorem State.setA_commits (s : State) (n k : Nat) (w : BitVec 40) : (s.setA n k w).commits = s.commits := rfl
@[simp] theorem State.setA_ptp (s : State) (n k : Nat) (w : BitVec 40) : (s.setA n k w).ptp = s.ptp := rfl
@[simp] theorem State.setA_wearo (s : State) (n k : Nat) (w : BitVec 40) : (s.setA n k w).wearo = s.wearo := rfl
@[simp] theorem State.setA_fleet (s : State) (n k : Nat) (w : BitVec 40) : (s.setA n k w).fleet = s.fleet := rfl
@[simp] theorem State.setA_wire (s : State) (n k : Nat) (w : BitVec 40) : (s.setA n k w).wire = s.wire := rfl
@[simp] theorem State.setA_mgmt (s : State) (n k : Nat) (w : BitVec 40) : (s.setA n k w).mgmt = s.mgmt := rfl
@[simp] theorem State.setA_gov (s : State) (n k : Nat) (w : BitVec 40) : (s.setA n k w).gov = s.gov := rfl
@[simp] theorem State.setA_adm (s : State) (n k : Nat) (w : BitVec 40) : (s.setA n k w).adm = s.adm := rfl
@[simp] theorem State.setA_zeroQ (s : State) (n k : Nat) (w : BitVec 40) : (s.setA n k w).zeroQ = s.zeroQ := rfl
@[simp] theorem State.setA_bar2Q (s : State) (n k : Nat) (w : BitVec 40) : (s.setA n k w).bar2Q = s.bar2Q := rfl
@[simp] theorem State.setA_aon (s : State) (n k : Nat) (w : BitVec 40) : (s.setA n k w).aon = s.aon := rfl
@[simp] theorem State.setA_acc (s : State) (n k : Nat) (w : BitVec 40) : (s.setA n k w).acc = s.acc := rfl
@[simp] theorem State.setA_free (s : State) (n k : Nat) (w : BitVec 40) : (s.setA n k w).free = s.free := rfl
@[simp] theorem State.setA_fab_sreg (s : State) (n k : Nat) (w : BitVec 40) : (s.setA n k w).fab.sreg = s.fab.sreg := rfl
@[simp] theorem State.setA_fab_breg (s : State) (n k : Nat) (w : BitVec 40) : (s.setA n k w).fab.breg = s.fab.breg := rfl
@[simp] theorem State.setA_fab_gen (s : State) (n k : Nat) (w : BitVec 40) : (s.setA n k w).fab.gen = s.fab.gen := rfl
@[simp] theorem State.setA_fab_crucible (s : State) (n k : Nat) (w : BitVec 40) : (s.setA n k w).fab.crucible = s.fab.crucible := rfl
@[simp] theorem State.setA_fab_descr (s : State) (n k : Nat) (w : BitVec 40) : (s.setA n k w).fab.descr = s.fab.descr := rfl
@[simp] theorem State.setA_fab_loft (s : State) (n k : Nat) (w : BitVec 40) : (s.setA n k w).fab.loft = s.fab.loft := rfl
@[simp] theorem State.setA_fab_map (s : State) (n k : Nat) (w : BitVec 40) : (s.setA n k w).fab.map = s.fab.map := rfl
@[simp] theorem State.setA_fab_failed (s : State) (n k : Nat) (w : BitVec 40) : (s.setA n k w).fab.failed = s.fab.failed := rfl
@[simp] theorem State.setA_fab_badPhys (s : State) (n k : Nat) (w : BitVec 40) : (s.setA n k w).fab.badPhys = s.fab.badPhys := rfl
@[simp] theorem State.setA_fab_gather (s : State) (n k : Nat) (w : BitVec 40) : (s.setA n k w).fab.gather = s.fab.gather := rfl
@[simp] theorem State.setA_fab_gatherOwn (s : State) (n k : Nat) (w : BitVec 40) : (s.setA n k w).fab.gatherOwn = s.fab.gatherOwn := rfl
@[simp] theorem State.setA_fab_snapOwn (s : State) (n k : Nat) (w : BitVec 40) : (s.setA n k w).fab.snapOwn = s.fab.snapOwn := rfl
@[simp] theorem State.setA_fab_segs (s : State) (n k : Nat) (w : BitVec 40) : (s.setA n k w).fab.segs = s.fab.segs := rfl
@[simp] theorem State.setA_fab_muted (s : State) (n k : Nat) (w : BitVec 40) : (s.setA n k w).fab.muted = s.fab.muted := rfl
@[simp] theorem State.setA_fab_ownerFaulted (s : State) (n k : Nat) (w : BitVec 40) : (s.setA n k w).fab.ownerFaulted = s.fab.ownerFaulted := rfl
@[simp] theorem State.setA_fab_ended (s : State) (n k : Nat) (w : BitVec 40) : (s.setA n k w).fab.ended = s.fab.ended := rfl
@[simp] theorem State.setA_fab_actor (s : State) (n k : Nat) (w : BitVec 40) : (s.setA n k w).fab.actor = s.fab.actor := rfl
@[simp] theorem State.setA_fab_side (s : State) (n k : Nat) (w : BitVec 40) : (s.setA n k w).fab.side = s.fab.side := rfl
@[simp] theorem State.setA_fab_cyc (s : State) (n k : Nat) (w : BitVec 40) : (s.setA n k w).fab.cyc = s.fab.cyc := rfl
@[simp] theorem State.setA_fab_fresh (s : State) (n k : Nat) (w : BitVec 40) : (s.setA n k w).fab.fresh = s.fab.fresh := rfl
@[simp] theorem State.setA_fab_flight (s : State) (n k : Nat) (w : BitVec 40) : (s.setA n k w).fab.flight = s.fab.flight := rfl
@[simp] theorem State.setA_fab_storeFlips (s : State) (n k : Nat) (w : BitVec 40) : (s.setA n k w).fab.storeFlips = s.fab.storeFlips := rfl
@[simp] theorem State.setA_writes (s : State) (n k : Nat) (w : BitVec 40) : (s.setA n k w).fab.areg = smPut 0 s.fab.areg (8 * n + k) w := rfl

/-! ### setGen -/

@[simp] theorem State.setGen_pending (s : State) (n : Nat) (w : BitVec 40) : (s.setGen n w).pending = s.pending := rfl
@[simp] theorem State.setGen_rast (s : State) (n : Nat) (w : BitVec 40) : (s.setGen n w).rast = s.rast := rfl
@[simp] theorem State.setGen_slots (s : State) (n : Nat) (w : BitVec 40) : (s.setGen n w).slots = s.slots := rfl
@[simp] theorem State.setGen_jobs (s : State) (n : Nat) (w : BitVec 40) : (s.setGen n w).jobs = s.jobs := rfl
@[simp] theorem State.setGen_regs (s : State) (n : Nat) (w : BitVec 40) : (s.setGen n w).regs = s.regs := rfl
@[simp] theorem State.setGen_pregs (s : State) (n : Nat) (w : BitVec 40) : (s.setGen n w).pregs = s.pregs := rfl
@[simp] theorem State.setGen_hbm (s : State) (n : Nat) (w : BitVec 40) : (s.setGen n w).hbm = s.hbm := rfl
@[simp] theorem State.setGen_host (s : State) (n : Nat) (w : BitVec 40) : (s.setGen n w).host = s.host := rfl
@[simp] theorem State.setGen_hostBad (s : State) (n : Nat) (w : BitVec 40) : (s.setGen n w).hostBad = s.hostBad := rfl
@[simp] theorem State.setGen_ev (s : State) (n : Nat) (w : BitVec 40) : (s.setGen n w).ev = s.ev := rfl
@[simp] theorem State.setGen_cfg (s : State) (n : Nat) (w : BitVec 40) : (s.setGen n w).cfg = s.cfg := rfl
@[simp] theorem State.setGen_tod (s : State) (n : Nat) (w : BitVec 40) : (s.setGen n w).tod = s.tod := rfl
@[simp] theorem State.setGen_rcd (s : State) (n : Nat) (w : BitVec 40) : (s.setGen n w).rcd = s.rcd := rfl
@[simp] theorem State.setGen_repairQ (s : State) (n : Nat) (w : BitVec 40) : (s.setGen n w).repairQ = s.repairQ := rfl
@[simp] theorem State.setGen_slk (s : State) (n : Nat) (w : BitVec 40) : (s.setGen n w).slk = s.slk := rfl
@[simp] theorem State.setGen_hardRows (s : State) (n : Nat) (w : BitVec 40) : (s.setGen n w).hardRows = s.hardRows := rfl
@[simp] theorem State.setGen_answer (s : State) (n : Nat) (w : BitVec 40) : (s.setGen n w).answer = s.answer := rfl
@[simp] theorem State.setGen_bifur (s : State) (n : Nat) (w : BitVec 40) : (s.setGen n w).bifur = s.bifur := rfl
@[simp] theorem State.setGen_bitClass (s : State) (n : Nat) (w : BitVec 40) : (s.setGen n w).bitClass = s.bitClass := rfl
@[simp] theorem State.setGen_grade (s : State) (n : Nat) (w : BitVec 40) : (s.setGen n w).grade = s.grade := rfl
@[simp] theorem State.setGen_off (s : State) (n : Nat) (w : BitVec 40) : (s.setGen n w).off = s.off := rfl
@[simp] theorem State.setGen_out (s : State) (n : Nat) (w : BitVec 40) : (s.setGen n w).out = s.out := rfl
@[simp] theorem State.setGen_inp (s : State) (n : Nat) (w : BitVec 40) : (s.setGen n w).inp = s.inp := rfl
@[simp] theorem State.setGen_pends (s : State) (n : Nat) (w : BitVec 40) : (s.setGen n w).pends = s.pends := rfl
@[simp] theorem State.setGen_commits (s : State) (n : Nat) (w : BitVec 40) : (s.setGen n w).commits = s.commits := rfl
@[simp] theorem State.setGen_ptp (s : State) (n : Nat) (w : BitVec 40) : (s.setGen n w).ptp = s.ptp := rfl
@[simp] theorem State.setGen_wearo (s : State) (n : Nat) (w : BitVec 40) : (s.setGen n w).wearo = s.wearo := rfl
@[simp] theorem State.setGen_fleet (s : State) (n : Nat) (w : BitVec 40) : (s.setGen n w).fleet = s.fleet := rfl
@[simp] theorem State.setGen_wire (s : State) (n : Nat) (w : BitVec 40) : (s.setGen n w).wire = s.wire := rfl
@[simp] theorem State.setGen_mgmt (s : State) (n : Nat) (w : BitVec 40) : (s.setGen n w).mgmt = s.mgmt := rfl
@[simp] theorem State.setGen_gov (s : State) (n : Nat) (w : BitVec 40) : (s.setGen n w).gov = s.gov := rfl
@[simp] theorem State.setGen_adm (s : State) (n : Nat) (w : BitVec 40) : (s.setGen n w).adm = s.adm := rfl
@[simp] theorem State.setGen_zeroQ (s : State) (n : Nat) (w : BitVec 40) : (s.setGen n w).zeroQ = s.zeroQ := rfl
@[simp] theorem State.setGen_bar2Q (s : State) (n : Nat) (w : BitVec 40) : (s.setGen n w).bar2Q = s.bar2Q := rfl
@[simp] theorem State.setGen_aon (s : State) (n : Nat) (w : BitVec 40) : (s.setGen n w).aon = s.aon := rfl
@[simp] theorem State.setGen_acc (s : State) (n : Nat) (w : BitVec 40) : (s.setGen n w).acc = s.acc := rfl
@[simp] theorem State.setGen_free (s : State) (n : Nat) (w : BitVec 40) : (s.setGen n w).free = s.free := rfl
@[simp] theorem State.setGen_fab_sreg (s : State) (n : Nat) (w : BitVec 40) : (s.setGen n w).fab.sreg = s.fab.sreg := rfl
@[simp] theorem State.setGen_fab_breg (s : State) (n : Nat) (w : BitVec 40) : (s.setGen n w).fab.breg = s.fab.breg := rfl
@[simp] theorem State.setGen_fab_areg (s : State) (n : Nat) (w : BitVec 40) : (s.setGen n w).fab.areg = s.fab.areg := rfl
@[simp] theorem State.setGen_fab_crucible (s : State) (n : Nat) (w : BitVec 40) : (s.setGen n w).fab.crucible = s.fab.crucible := rfl
@[simp] theorem State.setGen_fab_descr (s : State) (n : Nat) (w : BitVec 40) : (s.setGen n w).fab.descr = s.fab.descr := rfl
@[simp] theorem State.setGen_fab_loft (s : State) (n : Nat) (w : BitVec 40) : (s.setGen n w).fab.loft = s.fab.loft := rfl
@[simp] theorem State.setGen_fab_map (s : State) (n : Nat) (w : BitVec 40) : (s.setGen n w).fab.map = s.fab.map := rfl
@[simp] theorem State.setGen_fab_failed (s : State) (n : Nat) (w : BitVec 40) : (s.setGen n w).fab.failed = s.fab.failed := rfl
@[simp] theorem State.setGen_fab_badPhys (s : State) (n : Nat) (w : BitVec 40) : (s.setGen n w).fab.badPhys = s.fab.badPhys := rfl
@[simp] theorem State.setGen_fab_gather (s : State) (n : Nat) (w : BitVec 40) : (s.setGen n w).fab.gather = s.fab.gather := rfl
@[simp] theorem State.setGen_fab_gatherOwn (s : State) (n : Nat) (w : BitVec 40) : (s.setGen n w).fab.gatherOwn = s.fab.gatherOwn := rfl
@[simp] theorem State.setGen_fab_snapOwn (s : State) (n : Nat) (w : BitVec 40) : (s.setGen n w).fab.snapOwn = s.fab.snapOwn := rfl
@[simp] theorem State.setGen_fab_segs (s : State) (n : Nat) (w : BitVec 40) : (s.setGen n w).fab.segs = s.fab.segs := rfl
@[simp] theorem State.setGen_fab_muted (s : State) (n : Nat) (w : BitVec 40) : (s.setGen n w).fab.muted = s.fab.muted := rfl
@[simp] theorem State.setGen_fab_ownerFaulted (s : State) (n : Nat) (w : BitVec 40) : (s.setGen n w).fab.ownerFaulted = s.fab.ownerFaulted := rfl
@[simp] theorem State.setGen_fab_ended (s : State) (n : Nat) (w : BitVec 40) : (s.setGen n w).fab.ended = s.fab.ended := rfl
@[simp] theorem State.setGen_fab_actor (s : State) (n : Nat) (w : BitVec 40) : (s.setGen n w).fab.actor = s.fab.actor := rfl
@[simp] theorem State.setGen_fab_side (s : State) (n : Nat) (w : BitVec 40) : (s.setGen n w).fab.side = s.fab.side := rfl
@[simp] theorem State.setGen_fab_cyc (s : State) (n : Nat) (w : BitVec 40) : (s.setGen n w).fab.cyc = s.fab.cyc := rfl
@[simp] theorem State.setGen_fab_fresh (s : State) (n : Nat) (w : BitVec 40) : (s.setGen n w).fab.fresh = s.fab.fresh := rfl
@[simp] theorem State.setGen_fab_flight (s : State) (n : Nat) (w : BitVec 40) : (s.setGen n w).fab.flight = s.fab.flight := rfl
@[simp] theorem State.setGen_fab_storeFlips (s : State) (n : Nat) (w : BitVec 40) : (s.setGen n w).fab.storeFlips = s.fab.storeFlips := rfl
@[simp] theorem State.setGen_writes (s : State) (n : Nat) (w : BitVec 40) : (s.setGen n w).fab.gen = smPut 0 s.fab.gen n w := rfl

/-! ### setLoft -/

@[simp] theorem State.setLoft_pending (s : State) (m : Mem) : (s.setLoft m).pending = s.pending := rfl
@[simp] theorem State.setLoft_rast (s : State) (m : Mem) : (s.setLoft m).rast = s.rast := rfl
@[simp] theorem State.setLoft_slots (s : State) (m : Mem) : (s.setLoft m).slots = s.slots := rfl
@[simp] theorem State.setLoft_jobs (s : State) (m : Mem) : (s.setLoft m).jobs = s.jobs := rfl
@[simp] theorem State.setLoft_regs (s : State) (m : Mem) : (s.setLoft m).regs = s.regs := rfl
@[simp] theorem State.setLoft_pregs (s : State) (m : Mem) : (s.setLoft m).pregs = s.pregs := rfl
@[simp] theorem State.setLoft_hbm (s : State) (m : Mem) : (s.setLoft m).hbm = s.hbm := rfl
@[simp] theorem State.setLoft_host (s : State) (m : Mem) : (s.setLoft m).host = s.host := rfl
@[simp] theorem State.setLoft_hostBad (s : State) (m : Mem) : (s.setLoft m).hostBad = s.hostBad := rfl
@[simp] theorem State.setLoft_ev (s : State) (m : Mem) : (s.setLoft m).ev = s.ev := rfl
@[simp] theorem State.setLoft_cfg (s : State) (m : Mem) : (s.setLoft m).cfg = s.cfg := rfl
@[simp] theorem State.setLoft_tod (s : State) (m : Mem) : (s.setLoft m).tod = s.tod := rfl
@[simp] theorem State.setLoft_rcd (s : State) (m : Mem) : (s.setLoft m).rcd = s.rcd := rfl
@[simp] theorem State.setLoft_repairQ (s : State) (m : Mem) : (s.setLoft m).repairQ = s.repairQ := rfl
@[simp] theorem State.setLoft_slk (s : State) (m : Mem) : (s.setLoft m).slk = s.slk := rfl
@[simp] theorem State.setLoft_hardRows (s : State) (m : Mem) : (s.setLoft m).hardRows = s.hardRows := rfl
@[simp] theorem State.setLoft_answer (s : State) (m : Mem) : (s.setLoft m).answer = s.answer := rfl
@[simp] theorem State.setLoft_bifur (s : State) (m : Mem) : (s.setLoft m).bifur = s.bifur := rfl
@[simp] theorem State.setLoft_bitClass (s : State) (m : Mem) : (s.setLoft m).bitClass = s.bitClass := rfl
@[simp] theorem State.setLoft_grade (s : State) (m : Mem) : (s.setLoft m).grade = s.grade := rfl
@[simp] theorem State.setLoft_off (s : State) (m : Mem) : (s.setLoft m).off = s.off := rfl
@[simp] theorem State.setLoft_out (s : State) (m : Mem) : (s.setLoft m).out = s.out := rfl
@[simp] theorem State.setLoft_inp (s : State) (m : Mem) : (s.setLoft m).inp = s.inp := rfl
@[simp] theorem State.setLoft_pends (s : State) (m : Mem) : (s.setLoft m).pends = s.pends := rfl
@[simp] theorem State.setLoft_commits (s : State) (m : Mem) : (s.setLoft m).commits = s.commits := rfl
@[simp] theorem State.setLoft_ptp (s : State) (m : Mem) : (s.setLoft m).ptp = s.ptp := rfl
@[simp] theorem State.setLoft_wearo (s : State) (m : Mem) : (s.setLoft m).wearo = s.wearo := rfl
@[simp] theorem State.setLoft_fleet (s : State) (m : Mem) : (s.setLoft m).fleet = s.fleet := rfl
@[simp] theorem State.setLoft_wire (s : State) (m : Mem) : (s.setLoft m).wire = s.wire := rfl
@[simp] theorem State.setLoft_mgmt (s : State) (m : Mem) : (s.setLoft m).mgmt = s.mgmt := rfl
@[simp] theorem State.setLoft_gov (s : State) (m : Mem) : (s.setLoft m).gov = s.gov := rfl
@[simp] theorem State.setLoft_adm (s : State) (m : Mem) : (s.setLoft m).adm = s.adm := rfl
@[simp] theorem State.setLoft_zeroQ (s : State) (m : Mem) : (s.setLoft m).zeroQ = s.zeroQ := rfl
@[simp] theorem State.setLoft_bar2Q (s : State) (m : Mem) : (s.setLoft m).bar2Q = s.bar2Q := rfl
@[simp] theorem State.setLoft_aon (s : State) (m : Mem) : (s.setLoft m).aon = s.aon := rfl
@[simp] theorem State.setLoft_acc (s : State) (m : Mem) : (s.setLoft m).acc = s.acc := rfl
@[simp] theorem State.setLoft_free (s : State) (m : Mem) : (s.setLoft m).free = s.free := rfl
@[simp] theorem State.setLoft_fab_sreg (s : State) (m : Mem) : (s.setLoft m).fab.sreg = s.fab.sreg := rfl
@[simp] theorem State.setLoft_fab_breg (s : State) (m : Mem) : (s.setLoft m).fab.breg = s.fab.breg := rfl
@[simp] theorem State.setLoft_fab_areg (s : State) (m : Mem) : (s.setLoft m).fab.areg = s.fab.areg := rfl
@[simp] theorem State.setLoft_fab_gen (s : State) (m : Mem) : (s.setLoft m).fab.gen = s.fab.gen := rfl
@[simp] theorem State.setLoft_fab_crucible (s : State) (m : Mem) : (s.setLoft m).fab.crucible = s.fab.crucible := rfl
@[simp] theorem State.setLoft_fab_descr (s : State) (m : Mem) : (s.setLoft m).fab.descr = s.fab.descr := rfl
@[simp] theorem State.setLoft_fab_map (s : State) (m : Mem) : (s.setLoft m).fab.map = s.fab.map := rfl
@[simp] theorem State.setLoft_fab_failed (s : State) (m : Mem) : (s.setLoft m).fab.failed = s.fab.failed := rfl
@[simp] theorem State.setLoft_fab_badPhys (s : State) (m : Mem) : (s.setLoft m).fab.badPhys = s.fab.badPhys := rfl
@[simp] theorem State.setLoft_fab_gather (s : State) (m : Mem) : (s.setLoft m).fab.gather = s.fab.gather := rfl
@[simp] theorem State.setLoft_fab_gatherOwn (s : State) (m : Mem) : (s.setLoft m).fab.gatherOwn = s.fab.gatherOwn := rfl
@[simp] theorem State.setLoft_fab_snapOwn (s : State) (m : Mem) : (s.setLoft m).fab.snapOwn = s.fab.snapOwn := rfl
@[simp] theorem State.setLoft_fab_segs (s : State) (m : Mem) : (s.setLoft m).fab.segs = s.fab.segs := rfl
@[simp] theorem State.setLoft_fab_muted (s : State) (m : Mem) : (s.setLoft m).fab.muted = s.fab.muted := rfl
@[simp] theorem State.setLoft_fab_ownerFaulted (s : State) (m : Mem) : (s.setLoft m).fab.ownerFaulted = s.fab.ownerFaulted := rfl
@[simp] theorem State.setLoft_fab_ended (s : State) (m : Mem) : (s.setLoft m).fab.ended = s.fab.ended := rfl
@[simp] theorem State.setLoft_fab_actor (s : State) (m : Mem) : (s.setLoft m).fab.actor = s.fab.actor := rfl
@[simp] theorem State.setLoft_fab_side (s : State) (m : Mem) : (s.setLoft m).fab.side = s.fab.side := rfl
@[simp] theorem State.setLoft_fab_cyc (s : State) (m : Mem) : (s.setLoft m).fab.cyc = s.fab.cyc := rfl
@[simp] theorem State.setLoft_fab_fresh (s : State) (m : Mem) : (s.setLoft m).fab.fresh = s.fab.fresh := rfl
@[simp] theorem State.setLoft_fab_flight (s : State) (m : Mem) : (s.setLoft m).fab.flight = s.fab.flight := rfl
@[simp] theorem State.setLoft_fab_storeFlips (s : State) (m : Mem) : (s.setLoft m).fab.storeFlips = s.fab.storeFlips := rfl
@[simp] theorem State.setLoft_writes (s : State) (m : Mem) : (s.setLoft m).fab.loft = m := rfl

end Sys2Proof.Machine
end

