-- ==== Sys2Proof/Laws/Regs.lean ====
section
/-! SUPPORT. Registers, slots and jobs: what a read gives after a write. -/

namespace Sys2Proof.Machine

/-- A shared register reads as it was last written. -/
@[simp] theorem State.reg_setReg (s : State) (a b : Nat) (w : Word) : (s.setReg a w).reg b = if b = a then w else s.reg b := by
  unfold State.reg
  rw [State.setReg_writes]
  by_cases h : b = a
  · subst h; rw [smGet_smPut]
  · have hd : ∀ (d : Word), smGet (regReset b) (smPut d s.regs a w) b = smGet (regReset b) s.regs b := by
      intro d
      have hf := smGet_smDrop (regReset b) (fun k => decide (k = a)) s.regs b
      have hd : smDrop (fun k => decide (k = a)) s.regs = s.regs.filter (fun e => decide (e.1 ≠ a)) := by simp [smDrop]
      rw [hd] at hf
      simp only [h, decide_false, Bool.false_eq_true, if_false] at hf
      unfold smPut
      split
      · exact hf
      · rw [smGet_smIns _ _ _ _ _ (by intro e he; simpa using (List.mem_filter.mp he).2), if_neg h]; exact hf
    rw [hd, if_neg h]

theorem State.reg_setReg_same (s : State) (a : Nat) (w : Word) : (s.setReg a w).reg a = w := by simp
theorem State.reg_setReg_ne (s : State) {a b : Nat} (w : Word) (h : b ≠ a) : (s.setReg a w).reg b = s.reg b := by simp [h]

/-- An instance of a per-port register reads as it was last written (R539). -/
theorem State.preg_setPreg (s : State) (p q a b : Nat) (w : Word) (ha : a < 2 ^ 24) (hb : b < 2 ^ 24) :
    (s.setPreg p a w).preg q b = if q = p ∧ b = a then w else s.preg q b := by
  unfold State.preg
  rw [State.setPreg_writes]
  have hk : q * 2 ^ 24 + b = p * 2 ^ 24 + a ↔ q = p ∧ b = a := by omega
  by_cases h : q = p ∧ b = a
  · obtain ⟨rfl, rfl⟩ := h; rw [smGet_smPut]; simp
  · have hne : q * 2 ^ 24 + b ≠ p * 2 ^ 24 + a := fun e => h (hk.mp e)
    rw [if_neg h]
    have hf := smGet_smDrop (pregReset b) (fun k => decide (k = p * 2 ^ 24 + a)) s.pregs (q * 2 ^ 24 + b)
    have hd : smDrop (fun k => decide (k = p * 2 ^ 24 + a)) s.pregs = s.pregs.filter (fun e => decide (e.1 ≠ p * 2 ^ 24 + a)) := by simp [smDrop]
    rw [hd] at hf
    simp only [hne, decide_false, Bool.false_eq_true, if_false] at hf
    unfold smPut
    split
    · exact hf
    · rw [smGet_smIns _ _ _ _ _ (by intro e he; simpa using (List.mem_filter.mp he).2), if_neg hne]; exact hf

@[simp] theorem State.slot_setSlot (s : State) (n m : Nat) (x : Slot) : (s.setSlot n x).slot m = if m = n then x else s.slot m := by
  unfold State.slot; rw [State.setSlot_writes, smGet_smPut]

@[simp] theorem State.job_setJob (s : State) (n m : Nat) (x : Job) : (s.setJob n x).job m = if m = n then x else s.job m := by
  unfold State.job; rw [State.setJob_writes, smGet_smPut]

theorem State.sReg_setS (s : State) (n k m j : Nat) (w : Word) (hk : k < 32) (hj : j < 32) :
    (s.setS n k w).sReg m j = if m = n ∧ j = k then w else s.sReg m j := by
  unfold State.sReg
  rw [State.setS_writes, smGet_smPut]
  exact if_congr (by omega) rfl rfl

theorem State.bReg_setB (s : State) (n k m j : Nat) (w : Word) (hk : k < 16) (hj : j < 16) :
    (s.setB n k w).bReg m j = if m = n ∧ j = k then w else s.bReg m j := by
  unfold State.bReg
  rw [State.setB_writes, smGet_smPut]
  exact if_congr (by omega) rfl rfl

theorem State.aReg_setA (s : State) (n k m j : Nat) (w : BitVec 40) (hk : k < 8) (hj : j < 8) :
    (s.setA n k w).aReg m j = if m = n ∧ j = k then w else s.aReg m j := by
  unfold State.aReg
  rw [State.setA_writes, smGet_smPut]
  exact if_congr (by omega) rfl rfl

@[simp] theorem State.genIdx_setGen (s : State) (n m : Nat) (w : BitVec 40) : (s.setGen n w).genIdx m = if m = n then w else s.genIdx m := by
  unfold State.genIdx; rw [State.setGen_writes, smGet_smPut]

/-- A byte of a host's memory reads as it was last written (R556): the bytes of one write lie at rising addresses. -/
theorem smGet_smPutAll_not_mem {α : Type} [DecidableEq α] (d : α) (m : List (Nat × α)) (l : List (Nat × α)) (q : Nat) (h : ∀ e ∈ l, e.1 ≠ q) :
    smGet d (smPutAll d m l) q = smGet d m q := by
  unfold smPutAll
  induction l generalizing m with
  | nil => rfl
  | cons e t ih =>
    rw [List.foldl_cons, ih _ (fun x hx => h x (by simp [hx])), smGet_smPut_ne _ _ _ (Ne.symm (h e (by simp)))]

/-- A write to host memory leaves every byte outside it. -/
theorem State.hostByte_hostWriteP_outside (s : State) (p q a b : Nat) (bs : List (Byte × Bool))
    (h : ∀ i, i < bs.length → p * 2 ^ 64 + (a + i) % 2 ^ 64 ≠ q * 2 ^ 64 + b % 2 ^ 64) : (s.hostWriteP p a bs).hostByte q b = s.hostByte q b := by
  unfold State.hostByte State.hostWriteP
  apply smGet_smPutAll_not_mem
  intro e he
  simp only [List.map_map, List.mem_map, Function.comp] at he
  obtain ⟨x, hx, rfl⟩ := he
  have := (List.mem_zipIdx hx).2.1
  exact h x.2 (by simpa using this)

end Sys2Proof.Machine
end

