-- ==== Sys2Proof/Laws/Post.lean ====
section
/-! SUPPORT. What posting an event can do: nothing but the per-port registers, the hosts' memories and the event state changes, the black box gains one entry,
and the canonical forms stand. -/

namespace Sys2Proof.Machine

/-- From s to t nothing changed but what events write. -/
def Posted (s t : State) : Prop := t = { s with pregs := t.pregs, host := t.host, hostBad := t.hostBad, ev := t.ev }

theorem Posted.refl (s : State) : Posted s s := rfl

theorem Posted.trans {s t u : State} (h : Posted s t) (g : Posted t u) : Posted s u := by
  unfold Posted at *; rw [g, h]

theorem Posted.of_pregs (s : State) (x : List (Nat × Word)) : Posted s { s with pregs := x } := rfl
theorem Posted.of_ev (s : State) (x : Events) : Posted s { s with ev := x } := rfl

theorem setPreg_posted (s : State) (p a : Nat) (w : Word) : Posted s (s.setPreg p a w) := rfl
theorem hostWrite_posted (s : State) (p a : Nat) (bs : List Byte) : Posted s (s.hostWrite p a bs) := rfl
theorem logPut_posted (s : State) (e : LogEntry) : Posted s (s.logPut e) := rfl

theorem signal_posted (s : State) (p v : Nat) : Posted s (s.signal p v) := by
  unfold State.signal; simp only; split
  · exact hostWrite_posted _ _ _ _
  · exact setPreg_posted _ _ _ _

theorem w1cSet_posted (s : State) (k : Nat) (w : Word) : Posted s (s.w1cSet k w) := by
  unfold State.w1cSet; exact Posted.of_ev s _

theorem hostErr_posted (s : State) (p b : Nat) : Posted s (s.hostErr p b) := by
  unfold State.hostErr; simp only; split
  · exact w1cSet_posted s _ _
  · exact ((w1cSet_posted s _ _).trans (setPreg_posted _ _ _ _)).trans (signal_posted _ _ _)

theorem eqPut_posted (s : State) (p code : Nat) (m : Bool) (l c : Nat) (b : List Byte) : Posted s (s.eqPut p code m l c b) :=
  (hostWrite_posted s p _ _).trans (setPreg_posted _ _ _ _)

theorem eqFlush_posted (s : State) (p : Nat) : Posted s (s.eqFlush p) := by
  unfold State.eqFlush; simp only; split
  · exact (eqPut_posted s p 0x0108 false s.rast.line 0 _).trans (Posted.of_ev _ _)
  · exact Posted.refl s

theorem eqDeliver_posted (s : State) (p code : Nat) (m : Bool) (l c : Nat) (b : List Byte) : Posted s (s.eqDeliver p code m l c b).1 := by
  unfold State.eqDeliver; simp only
  have h := eqFlush_posted s p
  generalize s.eqFlush p = s0 at h ⊢
  split
  · exact h.trans (eqPut_posted _ _ _ _ _ _ _)
  · have h2 := h.trans ((setPreg_posted s0 p A.hostEqDrop (bumpFld (s0.preg p A.hostEqDrop) 0 32 1)).trans
      (Posted.of_ev _ { (s0.setPreg p A.hostEqDrop (bumpFld (s0.preg p A.hostEqDrop) 0 32 1)).ev with
        dropsSince := smPut 0 s0.ev.dropsSince p (smGet 0 s0.ev.dropsSince p + 1) }))
    have h3 : ∀ (c : Prop) [Decidable c] (x : State), Posted s x → Posted s (if c then x.hostErr p 4 else x) := by
      intro c _ x hx; split
      · exact hx.trans (hostErr_posted _ _ _)
      · exact hx
    have h4 : ∀ (c : Prop) [Decidable c] (x : State), Posted s x → Posted s (if c then x else x.hostErr p 7) := by
      intro c _ x hx; split
      · exact hx
      · exact hx.trans (hostErr_posted _ _ _)
    exact h4 _ _ (h3 _ _ h2)

/-- The entries of an event in the queues of some ports. -/
theorem deliveries_posted (ps : List Nat) (code l c : Nat) (b : List Byte) (acc : State × Bool × Bool) :
    Posted acc.1 (ps.foldl (fun (acc : State × Bool × Bool) p =>
      let m := smGet false acc.1.ev.mergeOf (p * 2 ^ 16 + code)
      let r := acc.1.eqDeliver p code m l c b
      ({ r.1 with ev := { r.1.ev with mergeOf := smPut false r.1.ev.mergeOf (p * 2 ^ 16 + code) false } }, acc.2.1 || r.2, acc.2.2 || m)) acc).1 := by
  induction ps generalizing acc with
  | nil => exact Posted.refl _
  | cons p t ih =>
    rw [List.foldl_cons]
    exact Posted.trans ((eqDeliver_posted acc.1 p code _ l c b).trans (Posted.of_ev _ _)) (ih _)

/-- An event posted changes nothing but queues, messages to the hosts, and the black box (R556, R607). -/
theorem postAt_posted (s : State) (ps : List Nat) (code c : Nat) (vs : List (Nat × Nat)) : Posted s (s.postAt ps code c vs) := by
  unfold State.postAt; simp only
  have h := deliveries_posted ps code s.rast.line c (packVals vs) (s, false, false)
  split
  · exact h
  · exact Posted.trans h (logPut_posted _ _)

theorem post_posted (s : State) (ps : List Nat) (code : Nat) (vs : List (Nat × Nat)) : Posted s (s.post ps code vs) := postAt_posted s ps code 0 vs

section fields
variable (s : State) (ps : List Nat) (code : Nat) (vs : List (Nat × Nat))

@[simp] theorem post_regs : (s.post ps code vs).regs = s.regs := by rw [post_posted s ps code vs]
@[simp] theorem post_rast : (s.post ps code vs).rast = s.rast := by rw [post_posted s ps code vs]
@[simp] theorem post_fab : (s.post ps code vs).fab = s.fab := by rw [post_posted s ps code vs]
@[simp] theorem post_hbm : (s.post ps code vs).hbm = s.hbm := by rw [post_posted s ps code vs]
@[simp] theorem post_slots : (s.post ps code vs).slots = s.slots := by rw [post_posted s ps code vs]
@[simp] theorem post_jobs : (s.post ps code vs).jobs = s.jobs := by rw [post_posted s ps code vs]
@[simp] theorem post_pending : (s.post ps code vs).pending = s.pending := by rw [post_posted s ps code vs]
@[simp] theorem post_out : (s.post ps code vs).out = s.out := by rw [post_posted s ps code vs]
@[simp] theorem post_inp : (s.post ps code vs).inp = s.inp := by rw [post_posted s ps code vs]
@[simp] theorem post_rcd : (s.post ps code vs).rcd = s.rcd := by rw [post_posted s ps code vs]
@[simp] theorem post_slk : (s.post ps code vs).slk = s.slk := by rw [post_posted s ps code vs]
@[simp] theorem post_gov : (s.post ps code vs).gov = s.gov := by rw [post_posted s ps code vs]
@[simp] theorem post_aon : (s.post ps code vs).aon = s.aon := by rw [post_posted s ps code vs]
@[simp] theorem post_cfg : (s.post ps code vs).cfg = s.cfg := by rw [post_posted s ps code vs]
@[simp] theorem post_reg (a : Nat) : (s.post ps code vs).reg a = s.reg a := by unfold State.reg; rw [post_regs]

end fields

/-- An event entry in the black box (R607). -/
theorem logPut_seq (s : State) (e : LogEntry) : (s.logPut e).ev.seq = (s.ev.seq + 1) % 2 ^ 32 := rfl
theorem logPut_box (s : State) (e : LogEntry) (k : Nat) :
    smGet LogEntry.blank (s.logPut e).ev.box k = if k = s.ev.seq % 4096 then { e with seq := s.ev.seq } else smGet LogEntry.blank s.ev.box k :=
  smGet_smPut _ _ _ _ _

/-! ### The canonical forms -/

/-- The canonical forms that an event can touch. -/
structure PortForms (s : State) : Prop where
  host : smWf 0 s.host = true
  hostBad : smWf false s.hostBad = true
  pregs : smRise none s.pregs

theorem setPreg_forms {s : State} (h : PortForms s) (p a : Nat) (w : Word) : PortForms (s.setPreg p a w) :=
  ⟨h.host, h.hostBad, smPut_rise _ _ _ h.pregs (by simp)⟩

theorem hostWriteP_forms {s : State} (h : PortForms s) (p a : Nat) (bs : List (Byte × Bool)) : PortForms (s.hostWriteP p a bs) :=
  ⟨smPutAll_wf _ _ h.host, smPutAll_wf _ _ h.hostBad, h.pregs⟩

theorem hostWrite_forms {s : State} (h : PortForms s) (p a : Nat) (bs : List Byte) : PortForms (s.hostWrite p a bs) := hostWriteP_forms h _ _ _

theorem ev_forms {s : State} (h : PortForms s) (x : Events) : PortForms { s with ev := x } := ⟨h.host, h.hostBad, h.pregs⟩

theorem signal_forms {s : State} (h : PortForms s) (p v : Nat) : PortForms (s.signal p v) := by
  unfold State.signal; simp only; split
  · exact hostWrite_forms h _ _ _
  · exact setPreg_forms h _ _ _

theorem w1cSet_forms {s : State} (h : PortForms s) (k : Nat) (w : Word) : PortForms (s.w1cSet k w) := ev_forms h _

theorem hostErr_forms {s : State} (h : PortForms s) (p b : Nat) : PortForms (s.hostErr p b) := by
  unfold State.hostErr; simp only; split
  · exact w1cSet_forms h _ _
  · exact signal_forms (setPreg_forms (w1cSet_forms h _ _) _ _ _) _ _

theorem eqPut_forms {s : State} (h : PortForms s) (p code : Nat) (m : Bool) (l c : Nat) (b : List Byte) : PortForms (s.eqPut p code m l c b) :=
  setPreg_forms (hostWrite_forms h _ _ _) _ _ _

theorem eqFlush_forms {s : State} (h : PortForms s) (p : Nat) : PortForms (s.eqFlush p) := by
  unfold State.eqFlush; simp only; split
  · exact ev_forms (eqPut_forms h _ _ _ _ _ _) _
  · exact h

theorem eqDeliver_forms {s : State} (h : PortForms s) (p code : Nat) (m : Bool) (l c : Nat) (b : List Byte) : PortForms (s.eqDeliver p code m l c b).1 := by
  unfold State.eqDeliver; simp only
  have h := eqFlush_forms h p
  generalize s.eqFlush p = s0 at h ⊢
  split
  · exact eqPut_forms h _ _ _ _ _ _
  · have h2 := ev_forms (setPreg_forms h p A.hostEqDrop (bumpFld (s0.preg p A.hostEqDrop) 0 32 1)) { (s0.setPreg p A.hostEqDrop (bumpFld (s0.preg p A.hostEqDrop) 0 32 1)).ev with
        dropsSince := smPut 0 s0.ev.dropsSince p (smGet 0 s0.ev.dropsSince p + 1) }
    have h3 : ∀ (c : Prop) [Decidable c] (x : State), PortForms x → PortForms (if c then x.hostErr p 4 else x) := by
      intro c _ x hx; split
      · exact hostErr_forms hx _ _
      · exact hx
    have h4 : ∀ (c : Prop) [Decidable c] (x : State), PortForms x → PortForms (if c then x else x.hostErr p 7) := by
      intro c _ x hx; split
      · exact hx
      · exact hostErr_forms hx _ _
    exact h4 _ _ (h3 _ _ h2)

theorem deliveries_forms (ps : List Nat) (code l c : Nat) (b : List Byte) (acc : State × Bool × Bool) (h : PortForms acc.1) :
    PortForms (ps.foldl (fun (acc : State × Bool × Bool) p =>
      let m := smGet false acc.1.ev.mergeOf (p * 2 ^ 16 + code)
      let r := acc.1.eqDeliver p code m l c b
      ({ r.1 with ev := { r.1.ev with mergeOf := smPut false r.1.ev.mergeOf (p * 2 ^ 16 + code) false } }, acc.2.1 || r.2, acc.2.2 || m)) acc).1 := by
  induction ps generalizing acc with
  | nil => exact h
  | cons p t ih =>
    rw [List.foldl_cons]
    exact ih _ (ev_forms (eqDeliver_forms h p code _ l c b) _)

theorem postAt_forms {s : State} (h : PortForms s) (ps : List Nat) (code c : Nat) (vs : List (Nat × Nat)) : PortForms (s.postAt ps code c vs) := by
  unfold State.postAt; simp only
  have h := deliveries_forms ps code s.rast.line c (packVals vs) (s, false, false) h
  split
  · exact h
  · exact ev_forms h _

theorem post_forms {s : State} (h : PortForms s) (ps : List Nat) (code : Nat) (vs : List (Nat × Nat)) : PortForms (s.post ps code vs) := postAt_forms h ps code 0 vs

/-! ### The shared operations keep a state canonical -/

theorem State.Canonical.forms {s : State} (h : s.Canonical) : PortForms s := ⟨h.host, h.hostBad, h.pregs⟩

/-- A step that only posts keeps a state canonical. -/
theorem State.Canonical.posted {s t : State} (h : s.Canonical) (g : Posted s t) (f : PortForms t) : t.Canonical := by
  rw [g]
  exact ⟨h.hbm, h.loft, f.host, f.hostBad, h.regs, f.pregs, h.sreg, h.breg, h.areg, h.gen, h.slots, h.jobs, h.cfg⟩

theorem post_canonical {s : State} (h : s.Canonical) (ps : List Nat) (code : Nat) (vs : List (Nat × Nat)) : (s.post ps code vs).Canonical :=
  h.posted (post_posted s ps code vs) (post_forms h.forms _ _ _)

theorem postAt_canonical {s : State} (h : s.Canonical) (ps : List Nat) (code c : Nat) (vs : List (Nat × Nat)) : (s.postAt ps code c vs).Canonical :=
  h.posted (postAt_posted s ps code c vs) (postAt_forms h.forms _ _ _ _)

theorem hostErr_canonical {s : State} (h : s.Canonical) (p b : Nat) : (s.hostErr p b).Canonical := h.posted (hostErr_posted s p b) (hostErr_forms h.forms _ _)

theorem setReg_canonical {s : State} (h : s.Canonical) (a : Nat) (w : Word) : (s.setReg a w).Canonical :=
  ⟨h.hbm, h.loft, h.host, h.hostBad, smPut_rise _ _ _ h.regs (by simp), h.pregs, h.sreg, h.breg, h.areg, h.gen, h.slots, h.jobs, h.cfg⟩

theorem setRf_canonical {s : State} (h : s.Canonical) (a hi lo v : Nat) : (s.setRf a hi lo v).Canonical := setReg_canonical h _ _
theorem bump_canonical {s : State} (h : s.Canonical) (a hi lo k : Nat) : (s.bump a hi lo k).Canonical := setReg_canonical h _ _
theorem setLoHi_canonical {s : State} (h : s.Canonical) (lo hi n v : Nat) : (s.setLoHi lo hi n v).Canonical := setReg_canonical (setReg_canonical h _ _) _ _

theorem setPreg_canonical {s : State} (h : s.Canonical) (p a : Nat) (w : Word) : (s.setPreg p a w).Canonical :=
  h.posted (setPreg_posted s p a w) (setPreg_forms h.forms _ _ _)

theorem hostWrite_canonical {s : State} (h : s.Canonical) (p a : Nat) (bs : List Byte) : (s.hostWrite p a bs).Canonical :=
  h.posted (hostWrite_posted s p a bs) (hostWrite_forms h.forms _ _ _)

theorem setSlot_canonical {s : State} (h : s.Canonical) (n : Nat) (x : Slot) : (s.setSlot n x).Canonical :=
  ⟨h.hbm, h.loft, h.host, h.hostBad, h.regs, h.pregs, h.sreg, h.breg, h.areg, h.gen, smPut_rise _ _ _ h.slots (by simp), h.jobs, h.cfg⟩

theorem setJob_canonical {s : State} (h : s.Canonical) (n : Nat) (x : Job) : (s.setJob n x).Canonical :=
  ⟨h.hbm, h.loft, h.host, h.hostBad, h.regs, h.pregs, h.sreg, h.breg, h.areg, h.gen, h.slots, smPut_rise _ _ _ h.jobs (by simp), h.cfg⟩

theorem setS_canonical {s : State} (h : s.Canonical) (n k : Nat) (w : Word) : (s.setS n k w).Canonical :=
  ⟨h.hbm, h.loft, h.host, h.hostBad, h.regs, h.pregs, smPut_wf _ _ _ h.sreg, h.breg, h.areg, h.gen, h.slots, h.jobs, h.cfg⟩

theorem setB_canonical {s : State} (h : s.Canonical) (n k : Nat) (w : Word) : (s.setB n k w).Canonical :=
  ⟨h.hbm, h.loft, h.host, h.hostBad, h.regs, h.pregs, h.sreg, smPut_wf _ _ _ h.breg, h.areg, h.gen, h.slots, h.jobs, h.cfg⟩

theorem setA_canonical {s : State} (h : s.Canonical) (n k : Nat) (w : BitVec 40) : (s.setA n k w).Canonical :=
  ⟨h.hbm, h.loft, h.host, h.hostBad, h.regs, h.pregs, h.sreg, h.breg, smPut_wf _ _ _ h.areg, h.gen, h.slots, h.jobs, h.cfg⟩

theorem setGen_canonical {s : State} (h : s.Canonical) (n : Nat) (w : BitVec 40) : (s.setGen n w).Canonical :=
  ⟨h.hbm, h.loft, h.host, h.hostBad, h.regs, h.pregs, h.sreg, h.breg, h.areg, smPut_wf _ _ _ h.gen, h.slots, h.jobs, h.cfg⟩

theorem setLoft_canonical {s : State} (h : s.Canonical) {m : Mem} (hm : m.wf = true) : (s.setLoft m).Canonical :=
  ⟨h.hbm, hm, h.host, h.hostBad, h.regs, h.pregs, h.sreg, h.breg, h.areg, h.gen, h.slots, h.jobs, h.cfg⟩

end Sys2Proof.Machine
end

