-- ==== Sys2Proof/Laws/Writes.lean ====
section
/-! SUPPORT. Writes of memories by words and by the part: what they change, and that the canonical forms stand. -/

namespace Sys2Proof.Machine

/-- What every step of a run keeps, the run keeps. -/
theorem foldl_canonical {α : Type} (f : State → α → State) (hf : ∀ s x, s.Canonical → (f s x).Canonical) (l : List α) {s : State} (h : s.Canonical) :
    (l.foldl f s).Canonical := by
  induction l generalizing s with
  | nil => exact h
  | cons x t ih => exact ih (hf s x h)

theorem ite_canonical (c : Prop) [Decidable c] {x y : State} (hx : x.Canonical) (hy : y.Canonical) : (if c then x else y).Canonical := by
  split <;> assumption

/-- Bytes written to user HBM keep a state canonical. -/
theorem hbmWrite_canonical {s : State} (h : s.Canonical) (host : Bool) (ws : List (Nat × Byte × Nat)) : (s.hbmWrite host ws).Canonical :=
  ⟨Mem.write_wf h.hbm _, h.loft, h.host, h.hostBad, h.regs, h.pregs, h.sreg, h.breg, h.areg, h.gen, h.slots, h.jobs, h.cfg⟩

theorem evt_canonical {s : State} (h : s.Canonical) (b : Nat) : (s.evt b).Canonical :=
  ⟨h.hbm, h.loft, h.host, h.hostBad, h.regs, h.pregs, h.sreg, h.breg, h.areg, h.gen, h.slots, h.jobs, h.cfg⟩

theorem rcd_canonical {s : State} (h : s.Canonical) (x : Rec) : State.Canonical { s with rcd := x } :=
  ⟨h.hbm, h.loft, h.host, h.hostBad, h.regs, h.pregs, h.sreg, h.breg, h.areg, h.gen, h.slots, h.jobs, h.cfg⟩

/-- Segments and the layers that are off hold no canonical form. -/
theorem segs_canonical {s : State} (h : s.Canonical) (o : List (Nat × Nat × Nat)) (g : List Seg) (f : List Nat) :
    State.Canonical { s with off := o, fab := { s.fab with segs := g, ownerFaulted := f } } :=
  ⟨h.hbm, h.loft, h.host, h.hostBad, h.regs, h.pregs, h.sreg, h.breg, h.areg, h.gen, h.slots, h.jobs, h.cfg⟩

theorem repairQ_canonical {s : State} (h : s.Canonical) (l : List Nat) : State.Canonical { s with repairQ := l } :=
  ⟨h.hbm, h.loft, h.host, h.hostBad, h.regs, h.pregs, h.sreg, h.breg, h.areg, h.gen, h.slots, h.jobs, h.cfg⟩

/-- An underrun keeps a state canonical (R210, R411). -/
theorem underrun_canonical {s : State} (h : s.Canonical) (layer frame line cause : Nat) : (s.underrun layer frame line cause).Canonical := by
  unfold State.underrun
  refine ite_canonical _ h ?_
  refine post_canonical (evt_canonical ?_ _) _ _ _
  have h1 := segs_canonical h ((layer, frame, line) :: s.off) (s.fab.segs.map (fun g =>
      if g.layer = layer ∧ g.frame = BitVec.ofNat 48 frame ∧ line ≤ g.line ∧ g.st = .marked then { g with st := .sparOwned } else g)) s.fab.ownerFaulted
  have h3 := bump_canonical (ite_canonical (decide (s.rf A.rastUndrCnt 15 0 = 0 ∨ s.loHi A.rastUndrFLo A.rastUndrFHi 16 < frame) = true)
    (setReg_canonical (setLoHi_canonical h1 A.rastUndrFLo A.rastUndrFHi 16 frame) A.rastUndrPos (BitVec.ofNat 32 (line + layer * 2 ^ 16 + cause * 2 ^ 19))) h1) A.rastUndrCnt 15 0 1
  exact ite_canonical _ (setRf_canonical h3 _ _ _ _) h3

/-- The first part of what follows a write into a range that the spar does not own: event 0x0314. -/
theorem ownerFault_event_canonical {s : State} (h : s.Canonical) (port c : Nat) (vs : List (Nat × Nat)) (l : List Nat) (b : Bool) :
    (if b = true then s else { (s.postAt [port] 0x0314 c vs) with fab := { s.fab with ownerFaulted := l } } : State).Canonical := by
  refine ite_canonical _ h ?_
  have := postAt_canonical h [port] 0x0314 c vs
  exact ⟨this.hbm, h.loft, this.host, this.hostBad, this.regs, this.pregs, h.sreg, h.breg, h.areg, h.gen, this.slots, this.jobs, this.cfg⟩

/-- What follows a write into a range that the spar does not own keeps a state canonical (R208, R209). -/
theorem ownerFault_canonical {s : State} (h : s.Canonical) (port c : Nat) (g : Seg) : (s.ownerFault port c g).Canonical := by
  unfold State.ownerFault
  have h1 := ownerFault_event_canonical h port c [s.vF, (2, s.rast.line), (2, c), (1, g.layer), (1, g.spar)] (g.layer :: s.fab.ownerFaulted)
    (s.fab.ownerFaulted.contains g.layer)
  simp only
  generalize (if s.fab.ownerFaulted.contains g.layer = true then s else _ : State) = s1 at h1 ⊢
  have h2 := segs_canonical h1 s1.off (s1.fab.segs.map (fun h =>
      if h.layer = g.layer ∧ h.line = g.line ∧ h.frame = g.frame ∧ h.spar = g.spar then { h with st := .sparOwned, spoiled := true } else h)) s1.fab.ownerFaulted
  exact ite_canonical _ (ite_canonical _ (underrun_canonical h2 _ _ _ _) h2) h1

/-- What a loft read records keeps a state canonical (R503, R527). -/
theorem loftReadCw_canonical {s : State} (h : s.Canonical) (spar cw : Nat) (scrub : Bool) : (s.loftReadCw spar cw scrub).Canonical := by
  unfold State.loftReadCw
  refine ite_canonical _ h ?_
  have hl : ∀ (k : Nat) (t : State), t.Canonical →
      (t.setReg A.loftLast (BitVec.ofNat 32 (cw * 8 % 2 ^ 23 / 64 * 64 + spar % 64 * 2 ^ 23 + k * 2 ^ 29 + b2n scrub * 2 ^ 31))).Canonical := fun _ _ ht => setReg_canonical ht _ _
  simp only
  cases (s.fab.loft.read cw).kind
  · exact ite_canonical _ (bump_canonical h _ _ _ _) h
  · have h1 := hl 1 _ (bump_canonical (bump_canonical h A.loftCeCnt 31 0 1) (A.loftBayErr spar) 15 0 1)
    exact ite_canonical _ (bump_canonical h1 _ _ _ _) h1
  · have h1 := hl 2 _ (bump_canonical (bump_canonical h A.loftCeCnt 31 0 1) (A.loftBayErr spar) 15 0 1)
    exact ite_canonical _ (bump_canonical h1 _ _ _ _) h1
  · have hu := hl 3 _ (bump_canonical (bump_canonical h A.loftUeCnt 31 0 1) (A.loftBayErr spar) 31 16 1)
    exact ite_canonical _ (bump_canonical (ite_canonical _ hu (rcd_canonical (post_canonical hu _ _ _) _)) _ _ _ _)
      (ite_canonical _ hu (rcd_canonical (post_canonical hu _ _ _) _))

theorem loftReads_canonical {s : State} (h : s.Canonical) (spar : Nat) (accs : List (Nat × Nat)) : (s.loftReads spar accs).Canonical := by
  unfold State.loftReads
  split
  · exact h
  · exact foldl_canonical _ (fun _ cw ht => loftReadCw_canonical ht spar cw false) _ h

theorem loftMerge_canonical {s : State} (h : s.Canonical) (spar : Nat) (ws : List (Nat × Byte × Nat)) : (s.loftMerge spar ws).Canonical := by
  unfold State.loftMerge
  split
  · exact h
  · exact foldl_canonical _ (fun _ cw ht => loftReadCw_canonical ht spar cw false) _ h

/-- A bay without marks and flipped bits records nothing where a write covers codewords in part. -/
@[simp] theorem loftMerge_quiet (s : State) (spar : Nat) (ws : List (Nat × Byte × Nat)) (hm : s.fab.loft.marks = []) (hf : s.fab.loft.flips = []) :
    s.loftMerge spar ws = s := by
  unfold State.loftMerge
  rw [if_pos ⟨hm, hf⟩]

/-- Work in flight, the cycle reached and what the counters gained in it hold no canonical form. -/
theorem flight_canonical {s : State} (h : s.Canonical) (l : List Flight) (c : Nat) (f : List (Nat × Nat)) :
    State.Canonical { s with fab := { s.fab with flight := l, cyc := c, fresh := f } } :=
  ⟨h.hbm, h.loft, h.host, h.hostBad, h.regs, h.pregs, h.sreg, h.breg, h.areg, h.gen, h.slots, h.jobs, h.cfg⟩

theorem later_canonical {s : State} (h : s.Canonical) (c phase : Nat) (w : Work) : (s.later c phase w).Canonical := flight_canonical h _ _ _

theorem reachCycle_canonical {s : State} (h : s.Canonical) (c : Nat) : (s.reachCycle c).Canonical :=
  ite_canonical _ (flight_canonical h _ _ _) h

/-- Work begun changes nothing but what is in flight. -/
@[simp] theorem later_regs (s : State) (c phase : Nat) (w : Work) : (s.later c phase w).regs = s.regs := rfl
@[simp] theorem later_hbm (s : State) (c phase : Nat) (w : Work) : (s.later c phase w).hbm = s.hbm := rfl
@[simp] theorem later_loft (s : State) (c phase : Nat) (w : Work) : (s.later c phase w).fab.loft = s.fab.loft := rfl
@[simp] theorem later_flight (s : State) (c phase : Nat) (w : Work) : (s.later c phase w).fab.flight = s.fab.flight ++ [⟨c, phase, w⟩] := rfl

theorem storeAt_canonical {s : State} (h : s.Canonical) (x : Held) (u spar : Nat) (ws : List (Nat × Byte × Nat)) (keep : List (Nat × Nat)) :
    (s.storeAt x u spar ws keep).Canonical := ite_canonical _ h (later_canonical h _ _ _)

/-- A write that comes to its issue cycle keeps a state canonical (R208). -/
theorem storeNow_canonical {s : State} (h : s.Canonical) (x : Held) (u spar : Nat) (ws : List (Nat × Byte × Nat)) (keep : List (Nat × Nat)) :
    (s.storeNow x u spar ws keep).Canonical := by
  unfold State.storeNow
  exact foldl_canonical _ (fun _ g ht => ownerFault_canonical ht x.port u g) _ (ite_canonical _ h (later_canonical h _ _ _))

/-- Where the spar owns every range that it writes, a write issued in cycle `u` comes to its bay in cycle `u + 4`, and does nothing before (R88, R224). -/
theorem storeNow_own (s : State) (x : Held) (u spar : Nat) (ws : List (Nat × Byte × Nat)) (keep : List (Nat × Nat)) (hw : ws ≠ [])
    (h : ∀ w ∈ ws, s.foreignSeg spar ((s.held x).reach 1 false w.1 % 2 ^ 23) = none) :
    s.storeNow x u spar ws keep = s.later (u + 4) 0 (.land spar x.fg u (ws.map (fun w => ((s.held x).reach 1 false w.1 % 2 ^ 23, w.2)))
      (keep.map (fun k => ((s.held x).reach 1 false k.1 % 2 ^ 23, k.2)))) := by
  unfold State.storeNow
  have hf : (ws.map (fun w => ((s.held x).reach 1 false w.1 % 2 ^ 23, w.2))).filterMap (fun w => s.foreignSeg spar w.1) = [] := by
    rw [List.filterMap_eq_nil_iff]
    intro y hy
    obtain ⟨w, hw, rfl⟩ := List.mem_map.mp hy
    exact h w hw
  have hd : (ws.map (fun w => ((s.held x).reach 1 false w.1 % 2 ^ 23, w.2))).filter (fun w => (s.foreignSeg spar w.1).isNone) =
      ws.map (fun w => ((s.held x).reach 1 false w.1 % 2 ^ 23, w.2)) := by
    rw [List.filter_eq_self]
    intro y hy
    obtain ⟨w, hw, rfl⟩ := List.mem_map.mp hy
    simp only [h w hw, Option.isNone_none]
  simp only [hf, hd, uniq, List.foldl_nil, List.map_eq_nil_iff, hw, if_false]

/-- A write that updates its bay keeps a state canonical (R92, R337). -/
theorem landNow_canonical {s : State} (h : s.Canonical) (spar : Nat) (fg : Bool) (u : Nat) (ws : List (Nat × Byte × Nat)) (keep : List (Nat × Nat)) :
    (s.landNow spar fg u ws keep).Canonical := by
  unfold State.landNow
  have h1 : ∀ l, ((s.loftMerge spar l).setLoft (s.fab.loft.write l)).Canonical := fun l =>
    setLoft_canonical (loftMerge_canonical h spar l) (Mem.write_wf h.loft l)
  exact ite_canonical _ (rcd_canonical (h1 _) _) (h1 _)

/-- A write of whole bytes to a bay without marks and flipped bits, from the background, changes those bytes alone. -/
theorem landNow_quiet (s : State) (spar u : Nat) (ws : List (Nat × Byte × Nat)) (hm : s.fab.loft.marks = []) (hf : s.fab.loft.flips = []) :
    s.landNow spar false u ws [] = s.setLoft (s.fab.loft.write (ws.map (fun w => (bayKey spar w.1, w.2)))) := by
  have hw : s.merged spar ws [] = ws := by unfold State.merged; simp
  unfold State.landNow
  simp only [hw, loftMerge_quiet _ _ _ hm hf, Bool.false_eq_true, if_false]

/-- The counters of a spar advance and keep a state canonical (R76, R150). -/
theorem tally_canonical {s : State} (h : s.Canonical) (a k : Nat) : (s.tally a k).Canonical :=
  flight_canonical (bump_canonical h a 31 0 k) _ _ _

theorem count_canonical {s : State} (h : s.Canonical) (spar sat ufz poi : Nat) (hard : Bool) : (s.count spar sat ufz poi hard).Canonical := by
  unfold State.count
  have h1 := tally_canonical (tally_canonical (tally_canonical h (A.sparSat spar) sat) (A.sparUfz spar) ufz) (A.sparPoi spar) poi
  exact ite_canonical _ (evt_canonical h1 _) h1

/-! ### Reads that record corrections -/

/-- What an HBM read records keeps a state canonical (R503, R526). -/
theorem hbmReadCw_canonical {s : State} (h : s.Canonical) (src cw : Nat) : (s.hbmReadCw src cw).Canonical := by
  unfold State.hbmReadCw
  refine ite_canonical _ h ?_
  have hq : ∀ t : State, t.Canonical → State.Canonical (if src = 2 ∨ t.repairQ.contains (cw / 8) then t
      else if t.repairQ.length < 64 then { t with repairQ := t.repairQ ++ [cw / 8] } else t.bump A.hbmScrubStat 31 16 1) :=
    fun _ ht => ite_canonical _ ht (ite_canonical _ (repairQ_canonical ht _) (bump_canonical ht _ _ _ _))
  simp only
  cases (s.hbm.read cw).kind
  · exact ite_canonical _ (bump_canonical h _ _ _ _) h
  · have h1 := hq _ (setReg_canonical (bump_canonical h A.hbmCeCnt 31 0 1) A.hbmLastCe (BitVec.ofNat 32 (cw / 8 % 2 ^ 29 + 1 * 2 ^ 29)))
    exact ite_canonical _ (bump_canonical h1 _ _ _ _) h1
  · have h1 := hq _ (setReg_canonical (bump_canonical h A.hbmCeCnt 31 0 1) A.hbmLastCe (BitVec.ofNat 32 (cw / 8 % 2 ^ 29 + 2 * 2 ^ 29)))
    exact ite_canonical _ (bump_canonical h1 _ _ _ _) h1
  · have hu := hq _ (setLoHi_canonical (setReg_canonical (bump_canonical h A.hbmUeCnt 31 0 1) A.hbmLastUe (BitVec.ofNat 32 (cw / 8 % 2 ^ 29 + src * 2 ^ 29)))
      A.hbmLastUeFLo A.hbmLastUeFHi 16 s.rast.frame.toNat)
    exact ite_canonical _ (bump_canonical (ite_canonical _ hu (rcd_canonical (post_canonical hu _ _ _) _)) _ _ _ _)
      (ite_canonical _ hu (rcd_canonical (post_canonical hu _ _ _) _))

theorem hbmMerge_canonical {s : State} (h : s.Canonical) (src : Nat) (ws : List (Nat × Byte × Nat)) : (s.hbmMerge src ws).Canonical := by
  unfold State.hbmMerge
  split
  · exact h
  · exact foldl_canonical _ (fun _ cw ht => hbmReadCw_canonical ht src cw) _ h

/-- An HBM without marks and flipped bits records nothing where a write covers codewords in part. -/
@[simp] theorem hbmMerge_quiet (s : State) (src : Nat) (ws : List (Nat × Byte × Nat)) (hm : s.hbm.marks = []) (hf : s.hbm.flips = []) :
    s.hbmMerge src ws = s := by
  unfold State.hbmMerge
  rw [if_pos ⟨hm, hf⟩]

theorem hbmReads_canonical {s : State} (h : s.Canonical) (src : Nat) (host : Bool) (a n : Nat) : (s.hbmReads src host a n).Canonical := by
  unfold State.hbmReads
  split
  · exact h
  · exact foldl_canonical _ (fun _ cw ht => hbmReadCw_canonical ht src cw) _ h

end Sys2Proof.Machine
end

