-- ==== Sys2Proof/Laws/Access.lean ====
section
/-! SUPPORT. What a host's command and a word's issue can come to, said once: the gate that each goes through. -/

namespace Sys2Proof.Machine

/-- A command of a port that exists answers its effect. -/
theorem fromPort_next {p : Fin 4} {s : State} (h : s.ports.contains p.val = true) (t : State) : fromPort p s t = .next t := by
  unfold fromPort; rw [if_pos h]

/-- A command of a port that does not exist stops (R530). -/
theorem fromPort_absent {p : Fin 4} {s : State} (h : s.ports.contains p.val = false) (t : State) : fromPort p s t = .fault .absentPort := by
  unfold fromPort; rw [if_neg (by rw [h]; decide)]

/-- A served write acts. -/
theorem hostPut_served {s : State} {p a : Nat} (h : s.way p a false = .served) (v : Word) (f : State → State) : s.hostPut p a v f = f s := by
  unfold State.hostPut; rw [h]

/-- What a write of a host can come to: its effect, nothing, an error of its port, or a place among the stalled accesses. -/
theorem hostPut_cases (s : State) (p a : Nat) (v : Word) (f : State → State) :
    s.hostPut p a v f = f s ∨ s.hostPut p a v f = s ∨ s.hostPut p a v f = s.hostErr p 1 ∨
      s.hostPut p a v f = { s with acc := { s.acc with stalled := s.acc.stalled ++ [⟨p, a, some v⟩] } } := by
  unfold State.hostPut
  split
  · exact .inl rfl
  · exact .inr (.inl rfl)
  · exact .inr (.inr (.inl rfl))
  · exact .inr (.inr (.inr rfl))

theorem hostPut_canonical {s : State} (h : s.Canonical) (p a : Nat) (v : Word) {f : State → State} (hf : (f s).Canonical) : (s.hostPut p a v f).Canonical := by
  rcases hostPut_cases s p a v f with e | e | e | e <;> rw [e]
  · exact hf
  · exact h
  · exact hostErr_canonical h _ _
  · exact ⟨h.hbm, h.loft, h.host, h.hostBad, h.regs, h.pregs, h.sreg, h.breg, h.areg, h.gen, h.slots, h.jobs, h.cfg⟩

/-- A served write of the display-owning port acts (R638). -/
theorem ownerWrite_owner {s : State} {p : Fin 4} {a : Nat} (h : s.way p.val a false = .served) (ho : p.val = s.owner) (v : Word) (f : State → State) :
    s.ownerWrite p a v f = f s := by
  unfold State.ownerWrite; rw [hostPut_served h, if_pos ho]

/-- A served write of another port does nothing (R638). -/
theorem ownerWrite_other {s : State} {p : Fin 4} {a : Nat} (h : s.way p.val a false = .served) (ho : p.val ≠ s.owner) (v : Word) (f : State → State) :
    s.ownerWrite p a v f = s := by
  unfold State.ownerWrite; rw [hostPut_served h, if_neg ho]

theorem ownerWrite_canonical {s : State} (h : s.Canonical) (p : Fin 4) (a : Nat) (v : Word) {f : State → State} (hf : (f s).Canonical) : (s.ownerWrite p a v f).Canonical :=
  hostPut_canonical h _ _ _ (ite_canonical _ hf h)

/-! ### Words -/

/-- What the issue of a word can come to (R72, R96, R193): a decode fault, an address or role fault, or what it begins. -/
theorem issueWord_cases {α : Type} (dec : State → Issue → Option α) (chk : State → Issue → α → Option IssueFault) (run : α → Issue → Held → State → State)
    (i : Issue) (s : State) :
    (dec s i = none ∧ issueWord dec chk run i s = decodeFault i s) ∨
    (∃ f e, dec s i = some f ∧ chk (s.held (s.hold i)) i f = some e ∧ issueWord dec chk run i s = issueFault e i s) ∨
    (∃ f, dec s i = some f ∧ chk (s.held (s.hold i)) i f = none ∧ issueWord dec chk run i s = run f i (s.hold i) s) := by
  unfold issueWord
  cases hd : dec s i with
  | none => exact .inl ⟨rfl, rfl⟩
  | some f =>
    cases hc : chk (s.held (s.hold i)) i f with
    | some e => exact .inr (.inl ⟨f, e, rfl, hc, by simp [hc]⟩)
    | none => exact .inr (.inr ⟨f, rfl, hc, by simp [hc]⟩)

theorem muted_canonical {s : State} (h : s.Canonical) (l : List (Nat × Nat)) : State.Canonical { s with fab := { s.fab with muted := l } } :=
  ⟨h.hbm, h.loft, h.host, h.hostBad, h.regs, h.pregs, h.sreg, h.breg, h.areg, h.gen, h.slots, h.jobs, h.cfg⟩

theorem decodeFault_canonical {s : State} (h : s.Canonical) (i : Issue) : (decodeFault i s).Canonical :=
  evt_canonical (muted_canonical (postAt_canonical h _ _ _ _) _) _

theorem issueFault_canonical {s : State} (h : s.Canonical) (f : IssueFault) (i : Issue) : (issueFault f i s).Canonical := postAt_canonical h _ _ _ _

/-- The issue of a word keeps a state canonical where what it begins does. -/
theorem issueWord_canonical {α : Type} (dec : State → Issue → Option α) (chk : State → Issue → α → Option IssueFault) (run : α → Issue → Held → State → State)
    (hr : ∀ f i h s, s.Canonical → (run f i h s).Canonical) (i : Issue) {s : State} (h : s.Canonical) : (issueWord dec chk run i s).Canonical := by
  rcases issueWord_cases dec chk run i s with ⟨_, e⟩ | ⟨f, x, _, _, e⟩ | ⟨f, _, _, e⟩ <;> rw [e]
  · exact decodeFault_canonical h i
  · exact issueFault_canonical h x i
  · exact hr f i _ _ h

/-- A word whose reads begin in its issue cycle keeps a state canonical as it issues. -/
theorem staged_canonical {α : Type} (f : α) (i : Issue) (x : Held) {s : State} (h : s.Canonical) : (staged f i x s).Canonical := later_canonical h _ _ _

theorem issueStaged_canonical {α : Type} (dec : State → Issue → Option α) (chk : State → Issue → α → Option IssueFault) (i : Issue) {s : State}
    (h : s.Canonical) : (issueWord dec chk staged i s).Canonical := issueWord_canonical dec chk staged (fun f i x _ hs => staged_canonical f i x hs) i h

end Sys2Proof.Machine
end

