-- ==== Sys2Proof/Laws/Flight.lean ====
section
/-! SUPPORT. What coming to a place in time does to work in flight (`settle`): nothing where none of it is due, else the earliest place first. -/

namespace Sys2Proof.Machine

/-- No work in flight is due by a place in time. -/
def State.noneBy (s : State) (c phase : Nat) : Prop := ∀ x ∈ s.fab.flight, x.by c phase = false

theorem State.noneBy.filter_eq {s : State} {c phase : Nat} (h : s.noneBy c phase) : s.fab.flight.filter (fun x => x.by c phase) = [] := by
  rw [List.filter_eq_nil_iff]
  intro x hx hb
  exact absurd (h x hx) (by simp [hb])

/-- Where nothing is due, nothing comes about. -/
theorem settle_none {s : State} {c phase : Nat} (h : s.noneBy c phase) (n : Nat) : settle n c phase s = s := by
  cases n with
  | zero => rfl
  | succ n => simp [settle, h.filter_eq, firstOf]

/-- The earliest place that is due comes about, and then the rest. -/
theorem settle_first {s : State} {c phase : Nat} {m : Nat × Nat} (h : firstOf (s.fab.flight.filter (fun x => x.by c phase)) = some m) (n : Nat) :
    settle (n + 1) c phase s = settle n c phase (runPlace m.1 m.2 s) := by
  simp only [settle, h]

/-- A part with nothing due only comes to the cycle. -/
theorem settleTo_idle {s : State} {c phase : Nat} (h : s.noneBy c phase) : settleTo c phase s = ({ s with wire := [] }).reachCycle c := by
  have h' : ({ s with wire := [] } : State).noneBy c phase := h
  simp only [settleTo, settle_none h']

/-- With nothing in flight, all of it has come about. -/
theorem settleAll_idle {s : State} (h : s.fab.flight = []) : settleAll s = { s with wire := [] } :=
  settle_none (s := { s with wire := [] }) (fun x hx => by simp [h] at hx) _

end Sys2Proof.Machine
end

