-- ==== Sys2Proof/WellFormed.lean ====
section
/-! DEFINITION. Which commands the outside can send: the bounds that the operands' types do not state. -/

namespace Sys2Proof

open Sys2Proof.Machine

/-- The words of an issue: the main word has the row's OPCODE, and its extensions are at most three, or the at most 255 words of a loop's body (R213, R218,
R230). -/
def wordWf (op : Nat) (w : Issue) : Bool :=
  decide (opOf w.word = op) && decide (w.ext.length ≤ if op = 0x01 then 255 else 3)

/-- An AUX transaction carries at most 16 bytes (R394). -/
def auxWf : AuxReq → Bool
  | .dpcdRead _ n => decide (0 < n.val)
  | .dpcdWrite _ d => decide (d.length ≤ 16)
  | .i2cWrite _ d => decide (d.length ≤ 16)
  | .i2cRead _ n => decide (0 < n.val)

/-- What a boot finds: slots of at most 32 MiB (R598), and no position that fails twice. -/
def bootWf (b : BootRun) : Bool :=
  let slotOk (x : Option (List Byte)) : Bool := match x with | none => true | some l => decide (l.length ≤ 2 ^ 25)
  slotOk b.flashA && slotOk b.flashB && decide b.fails.Nodup

/-- A command that the outside can send. -/
def Instr.wf : Instr → Bool
  | .halyardTick => true
  | .frameBoundary nj => decide (nj.length = 7)
  | .updatePoint => true
  | .referenceEvent _ _ _ => true
  | .decisionPoint sens nj => decide (sens.length = 76 ∧ nj.length = 7)
  | .fleetReefVote => true
  | .lockstepReefSend => true
  | .fleetReefFallback => true
  | .leadCheck => true
  | .scanoutLineRead => true
  | .layerFetch _ => true
  | .signaturePublish => true
  | .flip => true
  | .watchSnapshot => true
  | .bend w => wordWf 0x00 w
  | .loop w => wordWf 0x01 w
  | .sli w => wordWf 0x10 w
  | .sop w => wordWf 0x11 w
  | .smovb w => wordWf 0x12 w
  | .ali w => wordWf 0x13 w
  | .ainc w => wordWf 0x14 w
  | .sget w => wordWf 0x15 w
  | .gset w => wordWf 0x16 w
  | .ftest w => wordWf 0x20 w
  | .fsig w => wordWf 0x21 w
  | .await w => wordWf 0x22 w
  | .muster w => wordWf 0x23 w
  | .musterRelease _ => true
  | .emit w => wordWf 0x30 w
  | .mark w => wordWf 0x31 w
  | .mma w => wordWf 0x40 w
  | .conv w => wordWf 0x41 w
  | .tload w => wordWf 0x42 w
  | .arland w => wordWf 0x43 w
  | .vadd w => wordWf 0x50 w
  | .vsub w => wordWf 0x51 w
  | .vmul w => wordWf 0x52 w
  | .vfma w => wordWf 0x53 w
  | .vmax w => wordWf 0x54 w
  | .vmin w => wordWf 0x55 w
  | .viadd w => wordWf 0x56 w
  | .visub w => wordWf 0x57 w
  | .vimul w => wordWf 0x58 w
  | .vimax w => wordWf 0x59 w
  | .vimin w => wordWf 0x5A w
  | .vcvt w => wordWf 0x5B w
  | .vun w => wordWf 0x5C w
  | .vred w => wordWf 0x5D w
  | .vgen w => wordWf 0x5E w
  | .resc w => wordWf 0x70 w
  | .quant w => wordWf 0x71 w
  | .arsend w => wordWf 0x72 w
  | .ldh w => wordWf 0x80 w
  | .sth w => wordWf 0x81 w
  | .rig w => wordWf 0x82 w
  | .lsc w => wordWf 0x83 w
  | .idxr w => wordWf 0x84 w
  | .pfirst w => wordWf 0x90 w
  | .plast w => wordWf 0x91 w
  | .pshuf w => wordWf 0x92 w
  | .pcrop w => wordWf 0x93 w
  | .pargmax w => wordWf 0x94 w
  | .inputFrameStart => true
  | .inputFrameStored px => px.all (fun l => decide (l.length ≤ 4 * 7680)) && decide (px.length ≤ 4320)
  | .inputState _ => true
  | .dpcdAccess r => auxWf r
  | .edidUpd _ => true
  | .inHpdRelease => true
  | .egressRelease _ _ => true
  | .sinkLost => true
  | .outputTrainingDone k _ _ => decide (1 ≤ k.lanes ∧ k.lanes ≤ 4)
  | .registerWrite _ _ _ _ _ b => bootWf b
  | .latchingRead _ _ => true
  | .hostFlush _ => true
  | .bar2Read _ _ n => decide (0 < n.val)
  | .bar2Write _ _ ws _ => decide (0 < ws.length ∧ ws.length ≤ 4096)
  | .accessTimeout _ _ b => bootWf b
  | .commitGo _ _ => true
  | .create _ => true
  | .destroy _ _ => true
  | .admitCmd _ => true
  | .admission => true
  | .withdraw _ _ => true
  | .unquar _ => true
  | .restart _ => true
  | .planCopy _ => true
  | .resourceZeroing => true
  | .hostFenceInc _ _ => true
  | .tailWrite _ _ _ => true
  | .descriptorStart _ _ => true
  | .copyBatch _ => true
  | .eqHead _ _ => true
  | .eqEnable _ _ => true
  | .eqInterrupt _ => true
  | .portReset _ => true
  | .mergedEvent _ n post => decide (0 < n.toNat) && (match post with | none => true | some x => decide (x.2.2.length ≤ 16))
  | .pause _ _ => true
  | .save _ => true
  | .saveDone => true
  | .load _ => true
  | .loadDone => true
  | .resume _ => true
  | .resumed nj => decide (nj.length = 7)
  | .drstOut _ => true
  | .drstIn _ => true
  | .drstLink _ => true
  | .drstTime _ => true
  | .drstMem _ => true
  | .drstHost _ _ => true
  | .domainResetDone => true
  | .frameRecordWrite => true
  | .replayFetch => true
  | .lockstepSigSend => true
  | .lockstepFrame _ x => decide (x.bytes.length ≤ 1056)
  | .lockstepDeadline => true
  | .stackWindow hard => hard.all (fun x => decide (x < 2 ^ 29))
  | .slackInterval hard => hard.all (fun n => decide (n < 64))
  | .selfTestStep _ _ => true
  | .fitStepStart _ => true
  | .fitBundle => true
  | .fitStepComplete _ => true
  | .fitAvail _ _ _ => true
  | .fitCkptRequest _ _ => true
  | .fitCkptDone _ => true
  | .fitCkptRestore _ => true
  | .blackBoxCopy => true
  | .ptpSync _ _ => true
  | .ptpDelayResp _ _ _ _ => true
  | .delayReq _ => true
  | .syncMessageSend _ => true
  | .ptpAnnounce _ _ => true
  | .announceReceiptTimeout => true
  | .holdoverExpiry => true
  | .accept _ => true
  | .timeEthEn _ _ => true
  | .nonPtpFrame f => (match f.frame with | .echo _ _ _ d => decide (d.length ≤ 1472) | _ => true)
  | .opticalSignal _ _ _ => true
  | .trainingTimeout _ => true
  | .infoFrame _ x => decide (x.bytes.length ≤ 1056)
  | .lossOfSignal _ => true
  | .ackFrame _ x => decide (x.bytes.length ≤ 1056)
  | .nakFrame _ x => decide (x.bytes.length ≤ 1056)
  | .dreqFrame _ _ _ x => decide (x.bytes.length ≤ 1056)
  | .drespFrame _ _ x => decide (x.bytes.length ≤ 1056)
  | .musterFrame _ _ x => decide (x.bytes.length ≤ 1056)
  | .reefFrame _ _ x => decide (x.bytes.length ≤ 1056)
  | .reduceFrame _ _ x => decide (x.bytes.length ≤ 1056)
  | .mgmtFrame _ x => decide (x.bytes.length ≤ 1056)
  | .linkFrameDiscard _ x => decide (x.bytes.length ≤ 1056)
  | .ackTimer _ => true
  | .retryTimeout _ _ => true
  | .delayExchange _ _ => true
  | .portEnable _ _ _ => true
  | .linkStatClr _ => true
  | .sparClrSat _ _ => true
  | .sparClrUfz _ _ => true
  | .sparClrPoi _ _ => true
  | .hbmClrCe _ => true
  | .hbmClrUe _ => true
  | .hbmClrMark _ => true
  | .hbmClrDefer _ => true
  | .hbmClrScrub _ => true
  | .loftClrCe _ => true
  | .loftClrUe _ => true
  | .loftClrMark _ => true
  | .loftClrScrub _ => true
  | .loftClrBay _ => true
  | .pwrClrChanges _ => true
  | .pwrClrTherm _ => true
  | .powerOnReset _ b => bootWf b
  | .coldReset b => bootWf b
  | .warmReset b => bootWf b
  | .warm _ b => bootWf b
  | .supplyFault => true
  | .bootDone => true
  | .recoveryGo _ b => bootWf b
  | .fabric _ => true
  | .fabricResetDone _ => true
  | .debugKill _ _ _ => true
  | .raiseSvn _ _ _ => true
  | .revokeKey _ _ _ _ => true
  | .update _ _ => true
  | .debugUnlock _ _ => true
  | .logExport _ _ => true
  | .logExportDone => true
  | .thermalTrip _ _ => true
  | .thermalTripClear b => bootWf b
  | .refclkLost => true
  | .refclkRestored => true
  | .envSyncStuck _ _ => true
  | .envOutShort _ _ => true
  | .opticsPowered => true
  | .opticsUnpowered => true
  | .delayReqReceipt _ => true
  | .announceInterval => true
  | .ethLinkChange _ => true
  | .pcieLinkTrained _ _ => true
  | .configurationRequest _ _ => true
  | .portReferenceClockLost _ => true
  | .sinkHotPlug => true
  | .outputTrainingRetry => true
  | .railsBackWithinLimits b => bootWf b
  | .vddAonFall => true
  | .vppFuseOutOfLimits _ _ _ _ _ => true
  | .lockstepReefReceipt _ _ x => decide (x.bytes.length ≤ 1056)
  | .jtagTapClock _ _ _ => true
  | .debugPortAccess r => (match r with | .read _ _ => true | .write _ bs => decide (bs.length ≤ 64))

end Sys2Proof
end

