-- ==== Sys2Proof/Tests/Slice0.lean ====
section
/-! SUPPORT. The model's own tests: an ill-formed command for each check of WellFormed, one word of each kind written out from its layout, small runs of one
step, and for every statement with hypotheses a state and operands that meet them. -/

open Sys2Proof Sys2Proof.Machine

set_option maxRecDepth 100000
set_option Elab.async false

namespace Sys2Proof.Tests

/-! ### What the tests share -/

/-- A value that an option holds and that has a property. -/
theorem met {α : Type} {o : Option α} {p : α → Prop} [DecidablePred p] (h : o.any (fun x => decide (p x)) = true) : ∃ x, o = some x ∧ p x := by
  cases o with
  | none => simp at h
  | some x => exact ⟨x, rfl, by simpa using h⟩

/-- The state that an outcome answers. -/
def after (o : Host.Outcome State Fault Refusal) : State := match o with | .next t => t | _ => State.reset

/-- An instruction word from its fields: (high bit, low bit, value). -/
def word (l : List (Nat × Nat × Nat)) : IWord := BitVec.ofNat 128 (l.foldl (fun a f => a + f.2.2 % 2 ^ (f.1 - f.2.1 + 1) * 2 ^ f.2.1) 0)

/-- A word with its OPCODE [111:104], UNIT [103:100] and MASK [99:96]. -/
def wd (op unit mask : Nat) (l : List (Nat × Nat × Nat)) : IWord := word ([(111, 104, op), (103, 100, unit), (99, 96, mask)] ++ l)

/-- A word with the OFFSET [127:112] of 100. -/
def off100 (w : IWord) : IWord := w + BitVec.ofNat 128 (100 * 2 ^ 112)

/-- A word that issues on spar 9 in cycle 100 from the bundle of channel 0. -/
def iss (w : IWord) (ext : List IWord := []) : Issue := ⟨9, 0, 100, off100 w, ext, false⟩

/-- A BX word (R219): the offsets, the four bounds enabled and their B registers, and the padding. -/
def bx (oR oC en rb cb rrb rcb ps pads : Nat) : IWord :=
  off100 (wd 0xF0 6 0 [(95, 64, oR), (63, 32, oC), (31, 28, en), (27, 24, rb), (23, 20, cb), (19, 16, rrb), (15, 12, rcb), (11, 10, ps), (9, 5, pads)])

/-- A passage for the raster in force, with every resource and no layer. -/
def passg (s : State) : Passage :=
  ⟨0x1000, s.rast.reef, s.rast.linesTotal, s.rast.linesActive, s.rast.linePeriod, issueW s.rast.linePeriod s.rast.reef, 0, 2 ^ 64 - 1, 2 ^ 32 - 1, 2 ^ 32 - 1,
    2 ^ 16 - 1, 2 ^ 8 - 1, 255, true, [], [⟨0, 0x600000, false⟩], 0, List.replicate 64 0, []⟩

/-- A state whose slot 0 is a passage channel of port 0. -/
def slot0 (s : State) : State := s.setSlot 0 { Slot.unused with st := .inUse, kind := .passage, live := true, passages := [passg s] }

/-- The part as its boot leaves it. -/
def ready : State := State.reset.setRf A.safeBootStat 3 0 0xF

/-- The part with a passage running on all spars. -/
def base : State := slot0 ready

/-- The bundle of line 0 of that passage, on every spar: a word with what follows it as its own, and BEND. -/
def runs (i : Issue) (s : State) : State :=
  s.setSlot 0 { s.slot 0 with passages := (s.slot 0).passages.map (fun p => { p with sets := [⟨[0], i.word :: (i.ext ++ [0])⟩] }) }

/-- The part in the issue cycle of a word of that bundle. -/
abbrev inBundle (i : Issue) (s : State) : State := (runs i s).atIssue i

/-- The state after a word of that bundle, once everything that it began has come about. -/
def ran (c : Issue → Instr) (i : Issue) (s : State) : State := settleAll (after (exec (c i) (runs i s)))

/-- A spar fetches the word of its bundle. -/
theorem fetched {u : State} {i : Issue} (h : fetchWord u i = some (i, 0, 0)) : Fetches u i := ⟨(0, 0), h⟩

/-- So does a spar that is the only one to run its set. -/
theorem fetchedAlone {u : State} {i : Issue} (h : fetchWord u i = some (i, i.spar.val, 0)) : Fetches u i := ⟨(i.spar.val, 0), h⟩

/-- A word of that bundle decodes and forms no bad address, and its fields have a property. -/
theorem issuing {α : Type} {s : State} {i : Issue} {dec : State → Issue → Option α} {chk : State → Issue → α → Option IssueFault} {p : α → Prop} [DecidablePred p]
    (hf : fetchWord (s.atIssue i) i = some (i, 0, 0))
    (h : (dec (s.atIssue i) i).any (fun f => decide (chk ((s.atIssue i).held ((s.atIssue i).hold i)) i f = none ∧ p f)) = true) :
    ∃ f, Issues s i dec chk f ∧ p f := by
  obtain ⟨f, hd, hc, hp⟩ := met h
  exact ⟨f, ⟨fetched hf, hd, hc⟩, hp⟩

/-- Bytes put into a spar's bay. -/
def putL (n a : Nat) (bs : List Byte) (s : State) : State := s.setLoft (s.fab.loft.write (bs.zipIdx.map (fun b => (bayKey n (a + b.2), b.1, 0))))

/-! ### Commands that the outside cannot send -/

theorem test_wf_opcode : (Instr.sli (iss (wd 0x11 0 0 []))).wf = false := by decide
theorem test_wf_extensions : (Instr.vadd (iss (wd 0x50 2 0 []) [0, 0, 0, 0])).wf = false := by decide
theorem test_wf_meters : (Instr.frameBoundary []).wf = false := by decide
theorem test_wf_resumed_meters : (Instr.resumed [1, 2]).wf = false := by decide
theorem test_wf_sensors : (Instr.decisionPoint [] (List.replicate 7 0)).wf = false := by decide
theorem test_wf_aux_read : (Instr.dpcdAccess (.dpcdRead 0 0)).wf = false := by decide
theorem test_wf_aux_write : (Instr.dpcdAccess (.dpcdWrite 0 (List.replicate 17 0))).wf = false := by decide
theorem test_wf_i2c_read : (Instr.dpcdAccess (.i2cRead 0x50 0)).wf = false := by decide
theorem test_wf_i2c_write : (Instr.dpcdAccess (.i2cWrite 0x50 (List.replicate 17 0))).wf = false := by decide
theorem test_wf_bar2_read : (Instr.bar2Read 0 0 0).wf = false := by decide
theorem test_wf_bar2_write : (Instr.bar2Write 0 0 [] false).wf = false := by decide
theorem test_wf_merged : (Instr.mergedEvent 0 0 none).wf = false := by decide
theorem test_wf_hard_sector : (Instr.stackWindow [2 ^ 29]).wf = false := by decide
theorem test_wf_hard_spar : (Instr.slackInterval [64]).wf = false := by decide
theorem test_wf_sink_lanes : (Instr.outputTrainingDone ⟨0, 5, false, false, 1⟩ false 0).wf = false := by decide
theorem test_wf_boot : (Instr.coldReset ⟨0, false, none, none, [3, 3], true⟩).wf = false := by decide
theorem test_wf_echo : (Instr.nonPtpFrame ⟨none, (.echo 0 0 0 (List.replicate 1473 0))⟩).wf = false := by decide +kernel
theorem test_wf_link_frame : (Instr.ackFrame 0 ⟨List.replicate 1057 0, 0⟩).wf = false := by decide +kernel
theorem test_wf_debug_write : (Instr.debugPortAccess (.write (.hbm 0) (List.replicate 65 0))).wf = false := by decide +kernel
theorem test_wf_pixels : (Instr.inputFrameStored (List.replicate 4321 [])).wf = false := by decide +kernel
theorem test_wf_good_word : (Instr.sli (iss (wd 0x10 0 0 [(95, 91, 3)]))).wf = true := by decide

end Sys2Proof.Tests

namespace Sys2Proof.Tests

/-- Whether an outcome answers a next state. -/
def isNext (o : Host.Outcome State Fault Refusal) : Bool := match o with | .next _ => true | _ => false

theorem next_of {o : Host.Outcome State Fault Refusal} (h : isNext o = true) : ∃ t, o = .next t := by
  cases o with
  | next t => exact ⟨t, rfl⟩
  | _ => simp [isNext] at h

/-- Whether the keys of a list rise strictly. -/
def risesB {α : Type} : Option Nat → List (Nat × α) → Bool
  | _, [] => true
  | b, (k, _) :: t => (match b with | none => true | some x => decide (x < k)) && risesB (some k) t

theorem rises_of {α : Type} (m : List (Nat × α)) : ∀ b, risesB b m = true → smRise b m := by
  induction m with
  | nil => intro b _; unfold smRise; trivial
  | cons e t ih =>
    obtain ⟨k, v⟩ := e
    intro b h
    simp only [risesB, Bool.and_eq_true] at h
    refine ⟨?_, ih _ h.2⟩
    intro x hx
    subst hx
    simpa using h.1

theorem canonical_of (s : State) (h : (s.hbm.wf && s.fab.loft.wf && smWf 0 s.host && smWf false s.hostBad && risesB none s.regs && risesB none s.pregs &&
    smWf 0 s.fab.sreg && smWf 0 s.fab.breg && smWf 0 s.fab.areg && smWf 0 s.fab.gen && risesB none s.slots && risesB none s.jobs && risesB none s.cfg) = true) :
    s.Canonical := by
  simp only [Bool.and_eq_true] at h
  obtain ⟨⟨⟨⟨⟨⟨⟨⟨⟨⟨⟨⟨h1, h2⟩, h3⟩, h4⟩, h5⟩, h6⟩, h7⟩, h8⟩, h9⟩, h10⟩, h11⟩, h12⟩, h13⟩ := h
  exact ⟨h1, h2, h3, h4, rises_of _ _ h5, rises_of _ _ h6, h7, h8, h9, h10, rises_of _ _ h11, rises_of _ _ h12, rises_of _ _ h13⟩

/-- A state with bytes, registers and a command waiting. -/
def used : State := { (base |> putL 9 0x40 [1, 2, 3, 4, 5, 6, 7, 8, 9] |> (fun s => s.setReg (A.rastPairBase 2) 5)) with pending := [.resourceZeroing] }

/-- No pair alias and no publication alias is on. -/
def noAlias (s : State) : Bool := (List.range 16).all (fun n => !s.pairOn n) && (List.range 8).all (fun n => !s.aliasOn n)

theorem no_alias {s : State} (h : noAlias s = true) (loc a : Nat) : s.aliasPair loc a = none ∧ s.fitAlias loc a = none := by
  simp only [noAlias, Bool.and_eq_true, List.all_eq_true, List.mem_range, Bool.not_eq_true'] at h
  constructor
  · simp only [State.aliasPair, List.find?_eq_none, List.mem_range]
    intro n hn
    simp [h.1 n hn]
  · simp only [State.fitAlias, List.find?_eq_none, List.mem_range]
    intro n hn
    simp [h.2 n hn]

theorem reach_plain (s : State) (h : noAlias s = true) (x : Nat) : s.reach 1 false x = x := by
  unfold State.reach
  rw [(no_alias h 1 x).1]
  simp [(no_alias h 1 x).2]

/-- A quiet bay. -/
theorem quietBay (s : State) (n : Nat) (h : noAlias s = true) (hc : s.fab.flight = []) (hm : s.fab.loft.marks = []) (hf : s.fab.loft.flips = [])
    (ho : ∀ g ∈ s.fab.segs, g.spar = n → g.st = .sparOwned) : QuietBay s n := ⟨hc, hm, hf, fun a => no_alias h 1 a, ho⟩

/-! ### Reset, memory and code -/

theorem witness_StepKeepsCanonical : used.Canonical ∧ ∃ t, step used = .next t := ⟨canonical_of _ (by decide +kernel), next_of (by decide +kernel)⟩
theorem witness_StepRunsFront : ready.pending = [] := by decide
theorem witness_MemoryReadAfterWrite :
    let m : Mem := used.fab.loft
    m.wf = true ∧ m.marks = [] ∧ m.flips = [] ∧ m.bytes ≠ [] := by
  repeat' apply And.intro
  all_goals first | exact fetched (by decide +kernel) | decide +kernel
theorem witness_CodeCorrectsTwoBits : ∃ a b c : Nat, a = 79 ∧ a < 80 ∧ b < a ∧ c < b := ⟨79, 78, 0, by decide⟩

/-- A byte written reads back, and its neighbour keeps its value. -/
theorem test_mem_write : (used.fab.loft.fetch (bayKey 9 0x41), used.fab.loft.fetch (bayKey 9 0x49)) = ((2, 0), (0, 0)) := by decide +kernel
/-- The codeword of 64 zero data bits with M = 0 is the all-zero word (R502). -/
theorem test_code_zero : cwEncode 0 false = 0 := by decide +kernel
/-- One flipped bit and two are corrected, three are detected (R503). -/
theorem test_code_flips : (cwDecode (cwEncode 0x123456789ABCDEF0 true ^^^ 1)).kind = .ce1 ∧ (cwDecode (cwEncode 0x123456789ABCDEF0 true ^^^ (2 ^ 79 + 2 ^ 64))).kind = .ce2 ∧
    (cwDecode (cwEncode 0x123456789ABCDEF0 true ^^^ (2 ^ 79 + 2 ^ 64 + 1))).kind = .ue := by decide +kernel

/-! ### Scalar and control words -/

/-- S3 ← 0xFFFF0000, S4 ← 33. -/
def scal : State := (base.setS 9 3 0xFFFF0000).setS 9 4 33

def wSli : Issue := iss (wd 0x10 0 0 [(95, 91, 3), (63, 32, 0x11223344)])
def wSop (f : Nat) : Issue := iss (wd 0x11 0 0 [(95, 91, 5), (90, 86, 3), (85, 81, 4), (80, 80, 0), (79, 76, f)])
def wSmovb : Issue := iss (wd 0x12 0 0 [(95, 92, 2), (91, 87, 3)])
def wAli : Issue := iss (wd 0x13 0 0 [(95, 93, 1), (39, 0, 0xFFFFFFFFFF)])
def wAinc (k inc : Nat) : Issue := iss (wd 0x14 0 0 [(95, 93, 1), (92, 88, k), (63, 32, inc)])
def wSget (src : Nat) : Issue := iss (wd 0x15 0 0 [(95, 91, 6), (90, 87, src)])
def wGset : Issue := iss (wd 0x16 0 0 [(95, 91, 3), (90, 86, 4), (85, 85, 0)])

/-- The words whole, as R213 and R231 lay them out: OPCODE at [111:104], Sd or An at the top of bits [95:0]. -/
theorem test_words_scalar : wSli.word = 0x00641000180000001122334400000000 ∧ (wSop 1).word = 0x0064110028C810000000000000000000 ∧
    wAli.word = 0x00641300200000000000 * 2 ^ 48 + 0xFFFFFFFFFF ∧ (wAinc 6 0xFFFFFFFF).word = 0x0064140026000000FFFFFFFF00000000 := by decide +kernel
theorem test_sli : (ran .sli wSli scal).sReg 9 3 = 0x11223344 := by decide +kernel
theorem test_sop_sub : (ran .sop (wSop 1) scal).sReg 9 5 = 0xFFFEFFDF := by decide +kernel
/-- A shift by 33 shifts by 1 (R232). -/
theorem test_sop_sra : (ran .sop (wSop 7) scal).sReg 9 5 = 0xFFFF8000 := by decide +kernel
theorem test_smovb : (ran .smovb wSmovb scal).bReg 9 2 = 0xFFFF0000 := by decide +kernel
theorem test_ali : (ran .ali wAli scal).aReg 9 1 = 0xFFFFFFFFFF := by decide +kernel
/-- With K = 6 the low six bits wrap and the bits above stay (R233). -/
theorem test_ainc_ring : (ran .ainc (wAinc 6 1) (scal.setA 9 1 0x17F)).aReg 9 1 = 0x140 := by decide +kernel
theorem test_ainc_wraps : (ran .ainc (wAinc 0 0xFFFFFFFF) (scal.setA 9 1 0)).aReg 9 1 = 0xFFFFFFFFFF := by decide +kernel
theorem test_sget_spar : (ran .sget (wSget 5) scal).sReg 9 6 = 9 := by decide +kernel
theorem test_gset : (ran .gset wGset scal).genIdx 9 = 0x21FFFF0000 := by decide +kernel
theorem test_sop_reserved : after (exec (.sop (wSop 13)) (runs (wSop 13) scal)) = decodeFault (wSop 13) (inBundle (wSop 13) scal) := by decide +kernel

theorem witness_ScalarWords :
    (Plain (inBundle wSli scal) wSli 0x10 0 ∧ zeros wSli.word [(90, 64), (31, 0)] = true) ∧
    (Plain (inBundle (iss (wd 0x10 0 0 [(0, 0, 1)])) scal) (iss (wd 0x10 0 0 [(0, 0, 1)])) 0x10 0 ∧ zeros (iss (wd 0x10 0 0 [(0, 0, 1)])).word [(90, 64), (31, 0)] = false) ∧
    (Plain (inBundle (wSop 12) scal) (wSop 12) 0x11 0 ∧ zeros (wSop 12).word [(75, 64), (31, 0)] = true ∧ fld (wSop 12).word 79 76 ≤ 12 ∧ fld (wSop 12).word 63 32 = 0) ∧
    (Plain (inBundle (wSop 13) scal) (wSop 13) 0x11 0 ∧ 12 < fld (wSop 13).word 79 76) ∧
    (Plain (inBundle wSmovb scal) wSmovb 0x12 0 ∧ zeros wSmovb.word [(86, 0)] = true) ∧
    (Plain (inBundle (iss (wd 0x12 0 0 [(86, 86, 1)])) scal) (iss (wd 0x12 0 0 [(86, 86, 1)])) 0x12 0 ∧ zeros (iss (wd 0x12 0 0 [(86, 86, 1)])).word [(86, 0)] = false) ∧
    (Plain (inBundle wAli scal) wAli 0x13 0 ∧ zeros wAli.word [(92, 40)] = true) ∧
    (Plain (inBundle (iss (wd 0x13 0 0 [(40, 40, 1)])) scal) (iss (wd 0x13 0 0 [(40, 40, 1)])) 0x13 0 ∧ zeros (iss (wd 0x13 0 0 [(40, 40, 1)])).word [(92, 40)] = false) ∧
    (Plain (inBundle (wAinc 23 5) scal) (wAinc 23 5) 0x14 0 ∧ zeros (wAinc 23 5).word [(87, 64), (31, 0)] = true ∧ 6 ≤ fld (wAinc 23 5).word 92 88 ∧ fld (wAinc 23 5).word 92 88 ≤ 23) ∧
    (Plain (inBundle (wAinc 24 5) scal) (wAinc 24 5) 0x14 0 ∧ 24 ≤ fld (wAinc 24 5).word 92 88) ∧
    (Plain (inBundle (wSget 6) scal) (wSget 6) 0x15 0 ∧ zeros (wSget 6).word [(83, 0)] = true ∧ fld (wSget 6).word 90 87 ≤ 6) ∧
    (Plain (inBundle (wSget 7) scal) (wSget 7) 0x15 0 ∧ 6 < fld (wSget 7).word 90 87) ∧
    (Plain (inBundle wGset scal) wGset 0x16 0 ∧ zeros wGset.word [(84, 40)] = true ∧ fld wGset.word 39 0 = 0) ∧
    (Plain (inBundle (iss (wd 0x16 0 0 [(0, 0, 1)])) scal) (iss (wd 0x16 0 0 [(0, 0, 1)])) 0x16 0 ∧ bitAt (iss (wd 0x16 0 0 [(0, 0, 1)])).word 85 = false ∧ fld (iss (wd 0x16 0 0 [(0, 0, 1)])).word 39 0 ≠ 0) := by
  repeat' apply And.intro
  all_goals first | exact fetched (by decide +kernel) | decide +kernel
theorem witness_ScalarResults :
    (Plain (inBundle (wSop 0) scal) (wSop 0) 0x11 0 ∧ zeros (wSop 0).word [(75, 64), (31, 0)] = true ∧ fld (wSop 0).word 63 32 = 0 ∧ fld (wSop 0).word 79 76 = 0) ∧
    (Plain (inBundle (wSop 15) scal) (wSop 15) 0x11 0 ∧ zeros (wSop 15).word [(75, 64), (31, 0)] = true ∧ fld (wSop 15).word 63 32 = 0 ∧ 12 < fld (wSop 15).word 79 76) ∧
    (Plain (inBundle (wAinc 0 7) scal) (wAinc 0 7) 0x14 0 ∧ zeros (wAinc 0 7).word [(87, 64), (31, 0)] = true ∧ fld (wAinc 0 7).word 92 88 = 0) ∧
    (Plain (inBundle (wAinc 6 7) scal) (wAinc 6 7) 0x14 0 ∧ zeros (wAinc 6 7).word [(87, 64), (31, 0)] = true ∧ fld (wAinc 6 7).word 92 88 = 6) ∧
    (Plain (inBundle (wAinc 5 7) scal) (wAinc 5 7) 0x14 0 ∧ zeros (wAinc 5 7).word [(87, 64), (31, 0)] = true ∧ fld (wAinc 5 7).word 92 88 = 5) := by
  repeat' apply And.intro
  all_goals first | exact fetched (by decide +kernel) | decide +kernel

def wBend : Issue := iss (wd 0x00 0 0 [])
/-- A word of a loop body, at its beginning. -/
def wBody : IWord := wd 0x10 0 0 [(95, 91, 3), (63, 32, 0x11223344)]
/-- LOOP with a count of 3, a period of 8 and one word. -/
def wLoop : Issue := iss (wd 0x01 0 0 [(95, 80, 3), (79, 64, 8), (63, 56, 1)]) [wBody]
theorem test_bend : present (runs wSli (ran .bend wBend scal)) wSli = false := by decide +kernel
theorem test_loop : (ran .loop wLoop scal).sReg 9 3 = 0x11223344 ∧ (ran .loop wLoop scal).fab.cyc = 117 := by decide +kernel
theorem witness_BundleEndAndLoop :
    (Plain (inBundle wBend scal) wBend 0x00 0 ∧ fld wBend.word 99 96 = 0 ∧ zeros wBend.word [(95, 0)] = true) ∧
    (fetchWord (inBundle wLoop scal) wLoop = some (wLoop, 0, 0) ∧ wLoop.ue = false ∧ fld wLoop.word 111 104 = 0x01 ∧ fld wLoop.word 103 96 = 0 ∧
      fld wLoop.word 95 80 ≠ 0 ∧ fld wLoop.word 79 64 ≠ 0 ∧ fld wLoop.word 63 56 ≠ 0 ∧ fld wLoop.word 55 0 = 0 ∧ wLoop.ext.length = fld wLoop.word 63 56 ∧
      wLoop.ext = [wBody] ∧ fld wBody 111 104 = 0x10 ∧ fld wBody 103 96 = 0 ∧ zeros wBody [(90, 64), (31, 0)] = true ∧ (inBundle wLoop scal).fab.flight = [] ∧
      (inBundle wLoop scal).fab.storeFlips = [] ∧ (9, 0) ∉ (inBundle wLoop scal).fab.ended) := by
  repeat' apply And.intro
  all_goals first | exact fetched (by decide +kernel) | decide +kernel
def wMasked : Issue := iss (wd 0x10 0 1 [])
def wBadMask : Issue := iss (wd 0x10 0 8 [])
def wBadUnit : Issue := iss (wd 0x10 7 0 [])
theorem witness_AbsentAndReservedWords :
    present (inBundle wMasked scal) wMasked = false ∧ present (scal.atIssue wSli) wSli = false ∧
    (fetchWord (inBundle wBadMask scal) wBadMask = some (wBadMask, 0, 0) ∧ 8 ≤ fld wBadMask.word 99 96) ∧
    (fetchWord (inBundle wBadUnit scal) wBadUnit = some (wBadUnit, 0, 0) ∧ 6 ≤ fld wBadUnit.word 103 100) ∧
    fetchWord (inBundle wSli scal) { wSli with ue := true } = some ({ wSli with ue := true }, 0, 0) := by
  repeat' apply And.intro
  all_goals decide +kernel

/-! ### Fences, line stores, musters and reductions -/

def wFtest (n : Nat) : Issue := iss (wd 0x20 0 0 [(95, 92, n)])
def wFsig (n : Nat) : Issue := iss (wd 0x21 0 0 [(95, 92, n)])
/-- Pair 2 an enabled ingress pair with a frame pending, pair 3 one without, pair 4 an enabled egress pair, pair 5 one that is pending. -/
def pairs : State :=
  (((((scal.setReg (A.rastPairCtl 2) 1).setReg (A.rastPairStat 2) 2).setReg (A.rastPairCtl 3) 1).setReg (A.rastPairCtl 4) 3).setReg (A.rastPairCtl 5) 3).setReg (A.rastPairStat 5) 2
theorem test_ftest_takes : (ran .ftest (wFtest 2) pairs).rf (A.rastPairStat 2) 1 0 = 1 := by decide +kernel
theorem test_ftest_misses : (ran .ftest (wFtest 3) pairs).rf (A.rastPairCnt 3) 15 0 = 1 ∧ (ran .ftest (wFtest 3) pairs).rast.rpt = true := by
  decide +kernel
theorem test_fsig : (ran .fsig (wFsig 4) pairs).rf (A.rastPairStat 4) 1 0 = 3 := by decide +kernel
theorem test_egress_release : (after (exec (.egressRelease 0 5) pairs)).rf (A.rastPairStat 5) 1 1 = 0 := by decide +kernel
theorem witness_FenceWords :
    (Plain (inBundle (wFtest 2) pairs) (wFtest 2) 0x20 0 ∧ zeros (wFtest 2).word [(91, 0)] = true ∧ pairs.rcd.applied = none ∧ pairs.pairOn 2 = true ∧
      pairs.rf (A.rastPairCtl 2) 1 1 = 0 ∧ pairs.rf (A.rastPairStat 2) 1 1 = 1) ∧
    (Plain (inBundle (wFtest 3) pairs) (wFtest 3) 0x20 0 ∧ zeros (wFtest 3).word [(91, 0)] = true ∧ pairs.pairOn 3 = true ∧ pairs.rf (A.rastPairCtl 3) 1 1 = 0 ∧
      pairs.rf (A.rastPairStat 3) 1 1 = 0) ∧
    (Plain (inBundle (wFtest 15) pairs) (wFtest 15) 0x20 0 ∧ pairs.pairOn 15 = false) ∧ (Plain (inBundle (wFtest 4) pairs) (wFtest 4) 0x20 0 ∧ pairs.rf (A.rastPairCtl 4) 1 1 = 1) ∧
    (Plain (inBundle (wFsig 4) pairs) (wFsig 4) 0x21 0 ∧ zeros (wFsig 4).word [(91, 0)] = true ∧ pairs.mutedAt 0 100 = false ∧ pairs.pairOn 4 = true ∧
      pairs.rf (A.rastPairCtl 4) 1 1 = 1 ∧ pairs.rf (A.rastPairStat 4) 1 1 = 0) ∧
    (Plain (inBundle (wFsig 5) pairs) (wFsig 5) 0x21 0 ∧ pairs.pairOn 5 = true ∧ pairs.rf (A.rastPairCtl 5) 1 1 = 1 ∧ pairs.rf (A.rastPairStat 5) 1 1 = 1) ∧
    (let s := { pairs with fab := { pairs.fab with muted := [(0, 90)] } }
     s.pairOn 4 = true ∧ s.rf (A.rastPairCtl 4) 1 1 = 1 ∧ s.mutedAt 0 100 = true) ∧
    (Plain (inBundle (wFsig 2) pairs) (wFsig 2) 0x21 0 ∧ pairs.rf (A.rastPairCtl 2) 1 1 = 0) ∧
    (Served pairs 0 (A.rastPairCtl 5) ∧ pairs.pairOn 5 = true ∧ pairs.rf (A.rastPairCtl 5) 1 1 = 1 ∧ (0 : Fin 4).val = pairs.pairOwner 5) ∧
    (Served pairs 0 (A.rastPairCtl 2) ∧ ¬(pairs.pairOn 2 = true ∧ pairs.rf (A.rastPairCtl 2) 1 1 = 1)) := by
  repeat' apply And.intro
  all_goals first | exact fetched (by decide +kernel) | decide +kernel

def wEmit : Issue := iss (wd 0x30 0 0 [(95, 72, 0x1000), (71, 69, 2), (54, 41, 16), (40, 27, 64)])
def wMark : Issue := iss (wd 0x31 0 0 [(71, 69, 2)])
def wAwait : Issue := iss (wd 0x22 0 0 [(71, 69, 2)])
/-- Layer 2 enabled, its segment declared by spar 9. -/
def emitted : State := ran .emit wEmit (scal.setReg (A.compLayerCtl 2) 1)
theorem test_emit : emitted.fab.segs.map (fun g => (g.layer, g.line, g.spar, g.base, g.x0, g.width)) = [(2, 0, 9, 0x1000, 16, 64)] := by decide +kernel
theorem test_mark : (ran .mark wMark emitted).fab.segs.map Seg.st = [.marked] := by decide +kernel
theorem test_await : (ran .await wAwait emitted).fab.segs = emitted.fab.segs := by decide +kernel
theorem witness_LineStores :
    (Plain (inBundle wEmit scal) wEmit 0x30 0 ∧ zeros wEmit.word [(26, 0)] = true ∧ fld wEmit.word 40 27 ≠ 0 ∧
      effAddr scal 9 (fld wEmit.word 95 72) + segLen (scal.reg (A.compLayerFmt (fld wEmit.word 71 69))) (fld wEmit.word 40 27) ≤ 0x600000) ∧
    (Plain (inBundle wMark emitted) wMark 0x31 0 ∧ zeros wMark.word [(95, 72), (54, 0)] = true) ∧
    (emitted.mutedAt 0 100 = false ∧ emitted.markable 0 2 = true ∧ emitted.layerOff 2 0 0 = false ∧ emitted.fab.segs ≠ []) ∧
    (emitted.markable 0 3 = false) ∧
    (Plain (inBundle wAwait emitted) wAwait 0x22 0 ∧ zeros wAwait.word [(95, 72), (54, 0)] = true ∧
      ∀ g ∈ (inBundle wAwait emitted).fab.segs, g.st = .sparOwned) ∧
    (emitted.fab.loft.marks = [] ∧ emitted.fab.loft.flips = [] ∧ emitted.fab.flight = []) := by
  repeat' apply And.intro
  all_goals first | exact fetched (by decide +kernel) | decide +kernel
theorem witness_SuppressedWrite_plain : ∀ x, (emitted.held (emitted.hold wEmit)).reach 1 false x = x := reach_plain _ (by decide +kernel)

def wMuster : Issue := iss (wd 0x23 0 0 [(95, 84, 5), (83, 68, 77)])
def mustered : State := ran .muster wMuster scal
def unmet : State := { scal with fleet := { scal.fleet with gathers := (mustered.fleet.gathers.map (fun g => { g with doneAt := none, phase := 0 })) } }
theorem test_muster_release : (after (exec (.musterRelease 5) mustered)).rf A.linkMusterStat 15 0 = 77 := by decide +kernel
theorem test_muster_late : (after (exec (.musterRelease 5) unmet)).rf A.linkMusterStat 31 16 = 1 := by decide +kernel
/-- A MUSTER that a LOOP still has to issue has done so by its release. -/
def wMusters : Issue := iss (wd 0x01 0 0 [(95, 80, 1), (79, 64, 8), (63, 56, 1)]) [wd 0x23 0 0 [(95, 84, 6), (83, 68, 7)]]
theorem test_muster_in_loop : (after (exec (.musterRelease 6) (after (exec (.loop wMusters) (runs wMusters scal))))).rf A.linkMusterStat 15 0 = 7 := by
  decide +kernel
/-- Reduction 3 in local mode, with one row of contributions declared, which spar 9 alone makes, and with its values arrived. -/
def wArland : Issue := { iss 0 with c := 400, word := wd 0x43 1 0 [(127, 112, 400), (95, 91, 3), (89, 84, 7), (83, 77, 1), (76, 65, 3)] }
def wArsend : Issue := iss (wd 0x72 3 0 [(95, 91, 3), (89, 84, 7), (83, 77, 1), (76, 65, 3)])
def reducing : State :=
  let r := { scal with rast := { scal.rast with linesTotal := 4, linesActive := 2 } }
  (r.setSlot 0 { r.slot 0 with passages := [{ passg r with setMap := List.replicate 9 255 ++ [0] ++ List.replicate 54 255 }] }).setReg (A.linkRed 0)
    (BitVec.ofNat 32 (2 ^ 6))
def reduced : State := ran .arsend wArsend reducing
theorem test_arsend : rowDone reduced 0 400 3 7 = some (List.replicate 128 0) := by decide +kernel
/-- The row is complete in the cycle that reads it, and not before. -/
theorem test_arsend_time : rowDone reduced 0 99 3 7 = none := by decide +kernel
theorem test_arland_late : (ran .arland wArland reducing).fleet.late = [3] := by decide +kernel
theorem witness_FleetWords :
    ((inBundle wMuster scal).rf A.linkFleetCtl 0 0 = 0 ∧ Plain (inBundle wMuster scal) wMuster 0x23 0 ∧ zeros wMuster.word [(67, 0)] = true ∧
      fld wMuster.word 83 68 ≠ 0 ∧ findGather (inBundle wMuster scal) .muster (fld wMuster.word 95 84) (inBundle wMuster scal).f16 = none) ∧
    (mustered.fab.flight = [] ∧ releaseOf 5 mustered = some (0, 177) ∧ mustered.rast.line = 0) ∧ (scal.fab.flight = [] ∧ releaseOf 5 scal = none) ∧
    ((findGather (atRelease 5 mustered) .muster 5 0).any (fun g => decide (g.rel = some (0, 177) ∧ 3 ≤ g.phase ∧ g.doneAt = some (0, 100))) = true ∧
      (atRelease 5 mustered).rf A.linkFleetCtl 0 0 = 0 ∧ (atRelease 5 mustered).f16 = 0) ∧
    ((findGather (atRelease 5 unmet) .muster 5 0).any (fun g => decide (g.rel = some (0, 177) ∧ g.doneAt = none)) = true ∧
      (atRelease 5 unmet).rf A.linkFleetCtl 0 0 = 0 ∧ (atRelease 5 unmet).f16 = 0) ∧
    (let u := inBundle wArland reduced
     u.fab.flight = [] ∧ Plain u wArland 0x43 1 ∧ zeros wArland.word [(64, 0)] = true ∧ viewOk u 9 (bitAt wArland.word 90) (fld wArland.word 95 91) = true ∧
      fld wArland.word 83 77 = 1 ∧ smWf Half.zero u.fab.crucible = true ∧ (rowDone u u.f16 400 3 7).isSome = true) ∧
    (let u := inBundle wArland reducing
     u.fab.flight = [] ∧ Plain u wArland 0x43 1 ∧ viewOk u 9 (bitAt wArland.word 90) (fld wArland.word 95 91) = true ∧ rowDone u u.f16 400 3 7 = none ∧
      u.fleet.late.contains 3 = false) ∧
    (let u := inBundle wArland { reducing with fleet := { reducing.fleet with late := [3] } }
     Plain u wArland 0x43 1 ∧ rowDone u u.f16 400 3 7 = none ∧ u.fleet.late.contains 3 = true) ∧
    (let u := inBundle wArsend reducing
     u.fab.flight = [] ∧ Plain u wArsend 0x72 3 ∧ zeros wArsend.word [(64, 0)] = true ∧ viewOk u 9 (bitAt wArsend.word 90) (fld wArsend.word 95 91) = true ∧
      fld wArsend.word 83 77 = 1 ∧ redMode u 3 = 1 ∧ u.fleet.gathers = [] ∧
      (runningPassage u 0).any (fun g => decide (g.contribs 3 7 = 1)) = true) := by
  repeat' apply And.intro
  all_goals first | exact fetched (by decide +kernel) | exact fetchedAlone (by decide +kernel) | decide +kernel

end Sys2Proof.Tests

namespace Sys2Proof.Tests

/-! ### Arithmetic -/

/-- 1.5 × 1.5 + 1.5 in BF16 is 3.75; the greatest finite value doubled saturates (R119). -/
theorem test_bf16 : bfFma 0x3FC0 0x3FC0 0x3FC0 = .ok ⟨0x4070, false, false⟩ ∧ bfAdd 0x7F7F 0x7F7F = .ok ⟨0x7F7F, true, false⟩ ∧ bfMul 0x3F80 0x7F80 = .bad := by
  decide +kernel
/-- A tie goes to the even code; A4 saturates at 7 (R119). -/
theorem test_convert : (convert .a8 5 2).code = 2 ∧ (convert .a8 7 2).code = 4 ∧ (convert .a4 100 1).code = 7 ∧ (convert .e4m3 449 1).code = 0x7E := by decide +kernel
theorem witness_ConversionIsNearest : (0 : Nat) < 3 := by decide
theorem witness_VectorValues :
    (codeVal .bf16 0x3FC0 = some (192 * 2 ^ (-7 : ℤ)) ∧ codeVal .bf16 0xBF80 = some (-128 * 2 ^ (-7 : ℤ)) ∧ 0x3FC0 < 65536) ∧ codeVal .bf16 0x7F80 = none := by
  refine ⟨⟨?_, ?_, ?_⟩, ?_⟩
  · have h : Fmt.value .bf16 0x3FC0 = some (192, -7) := by decide +kernel
    simp [codeVal, h]
  · have h : Fmt.value .bf16 0xBF80 = some (-128, -7) := by decide +kernel
    simp [codeVal, h]
  · decide
  · have h : Fmt.value .bf16 0x7F80 = none := by decide +kernel
    simp [codeVal, h]
theorem witness_VectorValues_reductions : ([0x3F80, 0xBF80] : List Nat) ≠ [] ∧ ∀ c ∈ ([0x3F80, 0xBF80] : List Nat), c < 65536 ∧ codeVal .bf16 c ≠ none := by
  refine ⟨by simp, ?_⟩
  intro c hc
  have h : ∀ c ∈ ([0x3F80, 0xBF80] : List Nat), c < 65536 ∧ (Fmt.value .bf16 c).isSome = true := by decide +kernel
  obtain ⟨h1, h2⟩ := h c hc
  refine ⟨h1, ?_⟩
  obtain ⟨v, hv⟩ := Option.isSome_iff_exists.mp h2
  simp [codeVal, hv]

/-! ### Vector words -/

/-- Spar 9's bay: 1.0 at 0x400, 2.0 and an infinity at 0x800; B3 = 1, B4 = 12, B5 = 1, B6 = 100, S7 = 1.0078125. -/
def vec : State :=
  ((((base |> putL 9 0x400 [0x80, 0x3F, 0x80, 0x3F] |> putL 9 0x800 [0x00, 0x40, 0x80, 0x7F]).setB 9 3 1).setB 9 4 12).setB 9 5 1).setB 9 6 100 |> (·.setS 9 7 0x3F81)
/-- Rows and columns bounded by B3 and B4 for writes, by B5 and B6 for reads. -/
def bw : IWord := bx 0 10 0xF 3 4 5 6 2 0
/-- DST at [95:72], SRC1 at [71:48], SRC2 at [47:24] in a loft, S or immediate form [23:22], NVEC [21:12], FUNC [11:8], BX [7]. -/
def wBin (op s2k src2 : Nat) : Issue := iss (wd op 2 0 [(95, 72, 0xC00), (71, 48, 0x400), (47, 24, src2), (23, 22, s2k), (21, 12, 1), (7, 7, 1)]) [bw]
def wUn (op func dst : Nat) : Issue := iss (wd op 2 0 [(95, 72, dst), (71, 48, 0x400), (21, 12, 1), (11, 8, func), (7, 7, 1)]) [bw]
def wVgen : Issue := iss (wd 0x5E 2 0 [(95, 72, 0x400), (71, 48, 77), (47, 43, 8), (21, 12, 2), (7, 7, 1)]) [bw]
def wVred (func src : Nat) : Issue := iss (wd 0x5D 2 0 [(95, 91, 5), (71, 48, src), (21, 12, 1), (11, 8, func), (7, 7, 1)]) [bw]
/-- One element of a vector word's result. -/
def res (c : Issue → Instr) (i : Issue) (a : Nat) : Nat := (elemAt (ran c i vec) 9 a 16 0).1

theorem test_vadd : res .vadd (wBin 0x50 0 0x800) 0xC00 = 0x4040 := by decide +kernel
theorem test_vadd_poison : res .vadd (wBin 0x50 0 0x800) 0xC02 = 0x7FC0 ∧
    (ran .vadd (wBin 0x50 0 0x800) vec).rf (A.sparPoi 9) 31 0 = 1 := by decide +kernel
theorem test_vsub_imm : res .vsub (wBin 0x51 2 0x4000) 0xC00 = 0xBF80 := by decide +kernel
theorem test_vmul_sreg : res .vmul (wBin 0x52 1 7) 0xC00 = 0x3F81 := by decide +kernel
theorem test_vfma : res .vfma (wBin 0x53 0 0x800) 0xC00 = 0x4000 := by decide +kernel
theorem test_vmax : res .vmax (wBin 0x54 0 0x800) 0xC00 = 0x4000 := by decide +kernel
theorem test_vmin : res .vmin (wBin 0x55 0 0x800) 0xC00 = 0x3F80 := by decide +kernel
theorem test_viadd_clamps : res .viadd (wBin 0x56 0 0x800) 0xC00 = 0x7F80 ∧ res .viadd (wBin 0x56 0 0x800) 0xC02 = 0x7FFF := by decide +kernel
theorem test_visub : res .visub (wBin 0x57 2 1) 0xC00 = 0x3F7F := by decide +kernel
theorem test_vimul : res .vimul (wBin 0x58 2 0xFFFF) 0xC00 = 0xC080 := by decide +kernel
theorem test_vimax : res .vimax (wBin 0x59 2 0xFFFF) 0xC00 = 0x3F80 := by decide +kernel
theorem test_vimin : res .vimin (wBin 0x5A 2 0xFFFF) 0xC00 = 0xFFFF := by decide +kernel
theorem test_vgen_counts : (ran .vgen wVgen vec).genIdx 9 = 512 := by decide +kernel
theorem test_vred_max : (ran .vred (wVred 2 0x400) vec).sReg 9 5 = 0x3F80 := by decide +kernel
theorem test_vred_poison : (ran .vred (wVred 2 0x800) vec).sReg 9 5 = 0x7FC0 := by decide +kernel
theorem test_vector_mask : elemAt (ran .vadd (wBin 0x50 0 0x800) vec) 9 0xC00 16 2 = (0, 0) := by decide +kernel

/-- The bay is quiet as the word issues. -/
def calmB (i : Issue) (s : State) : Bool :=
  let u := inBundle i s
  decide (u.fab.flight = [] ∧ u.fab.loft.marks = [] ∧ u.fab.loft.flips = [] ∧ u.fab.segs = []) && noAlias u
theorem calm {i : Issue} {s : State} (n : Nat) (h : calmB i s = true) : QuietBay (inBundle i s) n := by
  simp only [calmB, Bool.and_eq_true, decide_eq_true_eq] at h
  exact quietBay _ _ h.2 h.1.1 h.1.2.1 h.1.2.2.1 (by rw [h.1.2.2.2]; intro g hg; cases hg)

/-- The hypotheses of each binary vector word, with its operand in the loft, an S register and an immediate. -/
theorem witness_VectorWords_binary : ∀ op ∈ [0x50, 0x51, 0x52, 0x54, 0x55, 0x56, 0x57, 0x58, 0x59, 0x5A], ∀ k ∈ [(0, 0x800), (1, 7), (2, 0x3F80)],
    let i := wBin op k.1 k.2
    let u := inBundle i vec
    QuietBay u 9 ∧ ∃ f, Issues (runs i vec) i (decBin op) (chkBin false) f ∧
      Apart (effAddr u 9 f.dst) (f.nvec * 512) (effAddr u 9 f.src1) (f.nvec * 512) ∧
      (f.s2k = 0 → Apart (effAddr u 9 f.dst) (f.nvec * 512) (effAddr u 9 f.src2) (f.nvec * 512)) := by
  refine fun op hop k hk => ⟨calm 9 ?_, issuing ?_ ?_⟩ <;> revert op k <;> decide +kernel
theorem witness_VectorWords_vfma :
    let i := wBin 0x53 0 0x800
    let u := inBundle i vec
    QuietBay u 9 ∧ ∃ f, Issues (runs i vec) i (decBin 0x53) (chkBin true) f ∧ Apart (effAddr u 9 f.dst) (f.nvec * 512) (effAddr u 9 f.src1) (f.nvec * 512) ∧
      (f.s2k = 0 → Apart (effAddr u 9 f.dst) (f.nvec * 512) (effAddr u 9 f.src2) (f.nvec * 512)) :=
  ⟨calm 9 (by decide +kernel), issuing (by decide +kernel) (by decide +kernel)⟩
theorem witness_VectorWords_vcvt : ∀ k ∈ [0, 1, 2, 3, 4, 5],
    let i := wUn 0x5B k 0xC00
    let u := inBundle i vec
    ∃ f, Issues (runs i vec) i (decUn 0x5B 5) chkVcvt f ∧
      Apart (effAddr u 9 f.dst) (f.nvec * 32 * (cvtShape f.func).2.1) (effAddr u 9 f.src1) (f.nvec * 32 * (cvtShape f.func).1) ∧
      ((cvtShape f.func).1 ≠ (cvtShape f.func).2.1 → effAddr u 9 f.dst ≠ effAddr u 9 f.src1) := by
  refine fun k hk => issuing ?_ ?_ <;> revert k <;> decide +kernel
theorem witness_VectorWords_vun : ∀ k ∈ [0, 7],
    let i := wUn 0x5C k 0xC00
    let u := inBundle i vec
    ∃ f, Issues (runs i vec) i (decUn 0x5C 7) (chkUn 16 16) f ∧ Apart (effAddr u 9 f.dst) (f.nvec * 512) (effAddr u 9 f.src1) (f.nvec * 512) := by
  refine fun k hk => issuing ?_ ?_ <;> revert k <;> decide +kernel
theorem witness_VectorWords_vgen : ∃ f, Issues (runs wVgen vec) wVgen decVgen chkVgen f ∧ f.nvec = 2 := issuing (by decide +kernel) (by decide +kernel)
/-- The unmasked lanes of VRED, where one is invalid and where all are finite. -/
theorem witness_VectorWords_vred : ∀ b ∈ [(0x800, true), (0x400, false)],
    let i := wVred 2 b.1
    let u := inBundle i vec
    ∃ f, Issues (runs i vec) i decVred chkVred f ∧
      (((openLanes u 9 f.bnd f.nvec).map (fun p => (vecEl u 9 f.bnd (effAddr u 9 f.src1) 16 (.el .bf16) p.1 p.2).1)).any
        (fun c => (Fmt.value .bf16 c).isNone)) = b.2 := by
  refine fun k hk => issuing ?_ ?_ <;> revert k <;> decide +kernel
/-- The write of a register in flight, before it comes about and once it has. -/
theorem witness_WorkOfWords :
    let s := vec.later 101 0 (.setS 9 3 5)
    (∀ x ∈ s.fab.flight, 100 < x.c) ∧ s.fab.flight = ([(101, (5 : Word))]).map (fun x => (⟨x.1, 0, .setS 9 3 x.2⟩ : Flight)) ∧
      s.fab.flight = [⟨101, 0, .setS 9 3 5⟩] := by
  repeat' apply And.intro
  all_goals decide +kernel
/-- A read finds what a write of the cycle before left, and not what one of its own cycle does (R181). -/
theorem test_register_time : (settleTo 100 2 (vec.later 101 0 (.setS 9 3 5))).sReg 9 3 = 0 ∧ (settleTo 101 2 (vec.later 101 0 (.setS 9 3 5))).sReg 9 3 = 5 := by
  decide +kernel
theorem test_vcvt : elemAt (ran .vcvt (wUn 0x5B 0 0xC00) vec) 9 0xC00 16 0 = (1, 0) := by decide +kernel
theorem test_vun : isNext (exec (.vun (wUn 0x5C 0 0xC00)) (runs (wUn 0x5C 0 0xC00) vec)) = true := by decide +kernel

end Sys2Proof.Tests

namespace Sys2Proof.Tests

/-! ### Tile matrix, rescale and quantise words -/

/-- MMA of A8 tiles in slot 3, compact, one k-step of 64. -/
def wMma (st ks : Nat) : Issue :=
  iss (wd 0x40 1 0 [(95, 91, 3), (90, 90, 1), (89, 89, st), (88, 86, 1), (85, 83, 1), (82, 81, 0), (76, 64, ks), (63, 40, 0), (39, 16, 0x200), (15, 15, 1)])
    [bx 0 0 0 3 4 5 6 0 0]
/-- CONV of a 1 × 1 kernel over two channels: its CX word precedes the BX word (R245). -/
def wConv : Issue :=
  { wMma 1 2 with word := (wMma 1 2).word + 2 ^ 104, ext := off100 (wd 0xF2 6 0 [(55, 48, 1), (47, 40, 1), (39, 36, 1), (35, 32, 1), (29, 16, 2)]) :: (wMma 1 2).ext }
/-- Slot 3 of spar 9 holds the compact view. -/
def tiled : State := vec.setDescr 9 true 3 (-4)
def wTload : Issue := iss (wd 0x42 1 0 [(95, 72, 0xA00), (71, 48, 0x400), (47, 32, 32), (31, 30, 0), (29, 29, 1)]) [bw]
def wResc : Issue := iss (wd 0x70 3 0 [(95, 91, 3), (90, 90, 0), (89, 87, 1), (86, 80, 60), (73, 68, 4), (67, 61, 3), (60, 37, 0x200), (36, 5, 77777), (4, 4, 1)]) [bw]
def wQuant (burn : Nat) : Issue := iss (wd 0x71 3 0 [(95, 72, 0x800), (71, 48, 0), (47, 24, 0x400), (23, 22, 1), (21, 20, 2), (19, 17, 2), (16, 15, burn), (14, 5, 1), (0, 0, 1)]) [bw]

theorem witness_TileMatrixWords_mma : ∀ st ∈ [0, 1], QuietBay (inBundle (wMma st 2) tiled) 9 ∧
    ∃ f, Issues (runs (wMma st 2) tiled) (wMma st 2) (decTile false) (chkTile false) f ∧ f.start = decide (st = 1) := by
  refine fun k hk => ⟨calm 9 ?_, issuing ?_ ?_⟩ <;> revert k <;> decide +kernel
theorem witness_TileMatrixWords_conv : QuietBay (inBundle wConv tiled) 9 ∧ ∃ f, Issues (runs wConv tiled) wConv (decTile true) (chkTile true) f ∧ f.ksteps = 2 :=
  ⟨calm 9 (by decide +kernel), issuing (by decide +kernel) (by decide +kernel)⟩
theorem witness_TileMoves_tload : QuietBay (inBundle wTload vec) 9 ∧ ∃ f, Issues (runs wTload vec) wTload decTload chkTload f ∧ f.pitch = 32 :=
  ⟨calm 9 (by decide +kernel), issuing (by decide +kernel) (by decide +kernel)⟩
theorem witness_TileMoves_resc : QuietBay (inBundle wResc vec) 9 ∧ ∃ f, Issues (runs wResc vec) wResc decResc chkResc f ∧ 0 < f.nrows :=
  ⟨calm 9 (by decide +kernel), issuing (by decide +kernel) (by decide +kernel)⟩
theorem witness_TileMoves_quant : ∀ b ∈ [0, 1, 2, 3], QuietBay (inBundle (wQuant b) vec) 9 ∧
    ∃ f, Issues (runs (wQuant b) vec) (wQuant b) decQuant chkQuant f ∧
      (effAddr (inBundle (wQuant b) vec) 9 f.dst ≤ effAddr (inBundle (wQuant b) vec) 9 f.src ∨
        effAddr (inBundle (wQuant b) vec) 9 f.src + f.nvec * 512 ≤ effAddr (inBundle (wQuant b) vec) 9 f.dst) := by
  refine fun k hk => ⟨calm 9 ?_, issuing ?_ ?_⟩ <;> revert k <;> decide +kernel
/-- A k-step's products reach the crucible 8 cycles after it (R64). -/
theorem test_mma_time :
    let s := after (exec (.mma (wMma 1 2)) (runs (wMma 1 2) tiled))
    (settleTo 107 2 s).fab.crucible = [] ∧ ((settleTo 107 2 s).descr 9 3).compact = true := by decide +kernel
/-- An exact product lands in its accumulator cell at the anchor (R129): 3 × 2^0 at anchor -4 is 48, at anchor 1 it is truncated to 1. -/
theorem test_place : (place (-4) (2 ^ 47) (.val 3 0)).1 = 48 ∧ (place 1 (2 ^ 47) (.val 3 0)).1 = 1 := by decide +kernel

/-! ### Move words -/

/-- A1 at the stack's address 0x10000, bytes there and in the bay. -/
def mov : State := { (vec.setA 9 1 0x8000010000) with hbm := vec.hbm.write [(0x10000, 0x5A, 0), (0x1003F, 0xA5, 0)] }
/-- An address through A1. -/
def viaA1 : Nat := 2 ^ 21
def wLdh : Issue := iss (wd 0x80 4 0 [(95, 72, 0x1000), (71, 48, viaA1), (47, 32, 2), (31, 28, 1)])
def wSth : Issue := iss (wd 0x81 4 0 [(95, 72, 0x400), (71, 48, viaA1), (47, 32, 2), (31, 28, 1)])
def wLsc : Issue := iss (wd 0x83 4 0 [(95, 72, 0x2000), (71, 48, 0x400), (47, 32, 2), (31, 28, 1)])
def wRig (mode dst : Nat) : Issue := iss (wd 0x82 4 0 [(95, 72, 0x400), (71, 48, 0x2000), (47, 46, mode), (45, 40, dst), (39, 24, 1)])
def wIdxr : Issue := iss (wd 0x84 4 0 [(95, 72, 0x2000), (71, 48, 0xA00), (47, 32, 1)])

theorem test_ldh : ((ran .ldh wLdh mov).loftByte 9 0x1000, (ran .ldh wLdh mov).loftByte 9 0x103F) = ((0x5A, 0), (0xA5, 0)) := by decide +kernel
theorem test_sth : (ran .sth wSth mov).hbmByte false 0x10001 = (0x3F, 0) := by decide +kernel
theorem test_lsc : (ran .lsc wLsc mov).loftByte 9 0x2001 = (0x3F, 0) := by decide +kernel
/-- Unicast to spar 12 reaches it and no other of its row (R264). -/
theorem test_rig : (ran .rig (wRig 0 12) mov).loftByte 12 0x2001 = (0x3F, 0) ∧ (ran .rig (wRig 0 12) mov).loftByte 15 0x2001 = (0, 0) := by
  decide +kernel
theorem witness_LoadsAndStores_ldh : QuietBay (inBundle wLdh mov) 9 ∧ PlainHbm (inBundle wLdh mov) ∧ ∃ f, Issues (runs wLdh mov) wLdh (decMove 0x80) (chkHbm true) f ∧ f.nsec = 2 :=
  ⟨calm 9 (by decide +kernel), fun a => no_alias (by decide +kernel) 0 a, issuing (by decide +kernel) (by decide +kernel)⟩
theorem witness_LoadsAndStores_sth : (inBundle wSth mov).hbm.marks = [] ∧ (inBundle wSth mov).hbm.flips = [] ∧
    ∃ f, Issues (runs wSth mov) wSth (decMove 0x81) (chkHbm false) f ∧ f.nsec = 2 :=
  ⟨by decide +kernel, by decide +kernel, issuing (by decide +kernel) (by decide +kernel)⟩
theorem witness_CopyWords_rig : (∀ m, m < 64 → QuietBay (inBundle (wRig 2 0) mov) m) ∧ ∃ f, Issues (runs (wRig 2 0) mov) (wRig 2 0) decRig chkRig f ∧
    Apart (effAddr (inBundle (wRig 2 0) mov) 9 f.src) (256 * f.nchunk) (effAddr (inBundle (wRig 2 0) mov) 9 f.dst) (256 * f.nchunk) :=
  ⟨fun m _ => calm m (by decide +kernel), issuing (by decide +kernel) (by decide +kernel)⟩
theorem witness_CopyWords_lsc : ∃ f, Issues (runs wLsc mov) wLsc (decMove 0x83) chkLsc f ∧
    Apart (effAddr (inBundle wLsc mov) 9 f.y) (64 * f.nsec) (effAddr (inBundle wLsc mov) 9 f.x) (64 * f.nsec) := issuing (by decide +kernel) (by decide +kernel)
theorem witness_CopyWords_idxr : ∃ f, Issues (runs wIdxr mov) wIdxr decIdxr chkIdxr f ∧
    ((List.range f.2.2).all (fun g => (List.range 8).all (fun e =>
      let u := inBundle wIdxr mov
      let entry := (u.loftLe 9 (effAddr u 9 f.2.1 + 16 * g + 2 * e) 2).1
      let sector := entry / 2 ^ 11 % 8 * 2 ^ 20 + entry % 2 ^ 11 * 512 + e * 64
      decide (sector + 64 ≤ effAddr u 9 f.1 ∨ effAddr u 9 f.1 + 512 * f.2.2 ≤ sector))) = true ∧
     (effAddr (inBundle wIdxr mov) 9 f.2.1 + 16 * f.2.2 ≤ effAddr (inBundle wIdxr mov) 9 f.1 ∨
      effAddr (inBundle wIdxr mov) 9 f.1 + 512 * f.2.2 ≤ effAddr (inBundle wIdxr mov) 9 f.2.1)) := issuing (by decide +kernel) (by decide +kernel)
/-- Each move word with an address outside R71's ranges; an LDH over the end of the bay, one below the stack, a RIG to an absent spar. -/
def far (op : Nat) : Issue := iss (wd op 4 0 [(95, 72, 0x1FFFC0), (71, 48, 0x400), (47, 32, 1), (31, 28, if op = 0x84 then 0 else 1)])
def farRig : Issue := iss (wd 0x82 4 0 [(95, 72, 0x1FFFC0), (71, 48, 0x401), (39, 24, 1)])
/-- A word decodes in its bundle and its addresses raise the fault, or have the property, that a check finds. -/
def badAddr {α : Type} (dec : State → Issue → Option α) (ok : State → α → Bool) (s : State) (i : Issue) : Bool :=
  let u := inBundle i s
  decide (fetchWord u i = some (i, 0, 0)) && (dec u i).any (ok (u.held (u.hold i)))
theorem witness_LoadsAndStores_faults :
    badAddr (decMove 0x80) (fun v f => decide (chkHbm true v (far 0x80) f = some .address ∧ effAddr v 9 f.y < 2 ^ 39)) mov (far 0x80) = true ∧
    badAddr (decMove 0x81) (fun v f => decide (chkHbm false v (far 0x81) f = some .address)) mov (far 0x81) = true ∧
    badAddr decRig (fun v f => decide (chkRig v farRig f = some .address)) mov farRig = true ∧
    badAddr (decMove 0x83) (fun v f => decide (chkLsc v (far 0x83) f = some .address)) mov (far 0x83) = true ∧
    badAddr decIdxr (fun v f => decide (chkIdxr v (far 0x84) f = some .address)) mov (far 0x84) = true ∧
    badAddr (decMove 0x80) (fun v f => decide (0x600000 < effAddr v 9 f.x + 64 * f.nsec)) (mov.setA 9 2 0x5FFFC0)
      (iss (wd 0x80 4 0 [(95, 72, 2 * 2 ^ 21), (71, 48, viaA1), (47, 32, 2), (31, 28, 1)])) = true ∧
    badAddr decRig (fun v f => decide (f.dmode = 0 ∧ v.absent f.dspar = true)) { mov with fab := { mov.fab with map := [(12, 0x7F)] } } (wRig 0 12) = true := by
  repeat' apply And.intro
  all_goals decide +kernel

/-! ### Planisher words -/

/-- A parameter block at 0x200 of spar 9's bay, lanes bounded to 4 by B4 and to 5 by B6. -/
def plan (l : List Byte) : State := (((base |> putL 9 0x10 [1, 2, 3, 4, 5, 6, 7, 8] |> putL 9 0x200 l).setB 9 3 30).setB 9 4 3).setB 9 5 40 |> (·.setB 9 6 5)
def bp : IWord := bx 0 0xFFFFFFFF 0xF 3 4 5 6 0 0
def pFirst : State := plan (leBytes 4 16 ++ leBytes 4 64 ++ leBytes 1 1 ++ leBytes 1 0 ++ leBytes 1 1)
def wPfirst : Issue := iss (wd 0x90 5 0 [(95, 72, 0x1000), (71, 48, 0x40), (47, 24, 0x200), (23, 22, 1), (21, 20, 1), (19, 18, 0), (17, 5, 5), (0, 0, 1)]) [bp]
def pLast : State := plan (leBytes 4 128 ++ leBytes 4 64 ++ leBytes 4 64 ++ leBytes 1 3 ++ leBytes 1 10)
def wPlast : Issue := iss (wd 0x91 5 0 [(95, 72, 0x1000), (71, 48, 0x80), (47, 24, 0x200), (23, 20, 0), (19, 18, 1), (17, 16, 1), (15, 3, 5), (2, 1, 1), (0, 0, 1)]) [bp]
def pShuf : State := plan (leBytes 4 64 ++ leBytes 4 64 ++ leBytes 1 2)
def wPshuf : Issue := iss (wd 0x92 5 0 [(95, 72, 0x1000), (71, 48, 0x0), (47, 24, 0x200), (23, 22, 0), (21, 6, 2)])
def pCrop : State :=
  plan (leBytes 4 16 ++ leBytes 4 16 ++ leBytes 4 64 ++ leBytes 1 0 ++ List.replicate 19 0 ++ leBytes 4 0x8000 ++ leBytes 4 0x8000 ++ leBytes 4 0x38000 ++ leBytes 4 0x38000)
def wPcrop : Issue := iss (wd 0x93 5 0 [(95, 72, 0x1000), (71, 48, 0x0), (47, 24, 0x200), (23, 16, 1), (15, 10, 1), (9, 4, 1)])
def pArg : State := plan (leBytes 4 16 ++ leBytes 4 64 ++ leBytes 1 1)
def wParg : Issue := iss (wd 0x94 5 0 [(95, 72, 0x1000), (71, 48, 0x0), (47, 24, 0x200), (23, 15, 1), (14, 2, 5), (0, 0, 1)]) [bp]

theorem test_pshuf : ((ran .pshuf wPshuf pShuf).loftByte 9 0x1020).1 = 1 ∧ ((ran .pshuf wPshuf pShuf).loftByte 9 0x1021).1 = 2 := by decide +kernel
theorem test_pargmax : (ran .pargmax wParg pArg).bayNum 9 0x1002 2 = 1 := by decide +kernel
theorem witness_ImageWords_pfirst :
    let u := inBundle wPfirst pFirst
    QuietBay u 9 ∧ ∃ f, Issues (runs wPfirst pFirst) wPfirst decPfirst chkPfirst f ∧
      let e := f.f.ea u 9
      let h := u.bayNum 9 e.2.2 64
      pfirstOk f (h, 0) = true ∧ ∀ x < f.width, CodewordsApart (e.1 + x * f.cout) f.cout e.2.2 (0x240 + f.ks * f.ks * f.cin * 64) ∧
        ∀ y < f.width, ∀ k ∈ kernel f.ks f.cin, planFetch u 9 f.f.bnd f.ks k.1 k.2.1 y = true →
          CodewordsApart (e.1 + x * f.cout) f.cout (pfirstAddr f e.2.1 h k.1 k.2.1 k.2.2 y).toNat (f.ifmt.bits / 8) :=
  ⟨calm 9 (by decide +kernel), issuing (by decide +kernel) (by decide +kernel)⟩
theorem witness_ImageWords_plast :
    let u := inBundle wPlast pLast
    QuietBay u 9 ∧ ∃ f, Issues (runs wPlast pLast) wPlast decPlast chkPlast f ∧
      let e := f.f.ea u 9
      let h := u.bayNum 9 e.2.2 64
      plastOk f (h, 0) = true ∧ (f.width * f.ofmt.bytes ≤ hdr h 8 4 ∨ f.cout = 1) ∧ ∀ x < f.width, ∀ j < f.cout,
        CodewordsApart (e.1 + j * hdr h 8 4 + x * f.ofmt.bytes) f.ofmt.bytes e.2.2 (0x40 + f.ks * f.ks * f.cin * 4) ∧
        ∀ y < f.width, ∀ k ∈ kernel f.ks f.cin, planFetch u 9 f.f.bnd f.ks k.1 k.2.1 y = true →
          CodewordsApart (e.1 + j * hdr h 8 4 + x * f.ofmt.bytes) f.ofmt.bytes (plastAddr f e.2.1 h k.1 k.2.1 k.2.2 y).toNat 1 :=
  ⟨calm 9 (by decide +kernel), issuing (by decide +kernel) (by decide +kernel)⟩
theorem witness_ImageWords_pshuf :
    let u := inBundle wPshuf pShuf
    QuietBay u 9 ∧ ∃ f, Issues (runs wPshuf pShuf) wPshuf decPshuf chkPshuf f ∧
      let e := f.f.ea u 9
      let h := u.bayNum 9 e.2.2 64
      let len := 64 * f.nsec / (f.r * f.r)
      pshufOk (h, 0) = true ∧ f.r * len ≤ hdr h 4 4 ∧ ∀ a < f.r, ∀ p < f.r * f.r,
        e.1 + a * hdr h 4 4 + f.r * len ≤ e.2.1 + p * hdr h 0 4 ∨ e.2.1 + p * hdr h 0 4 + len ≤ e.1 + a * hdr h 4 4 :=
  ⟨calm 9 (by decide +kernel), issuing (by decide +kernel) (by decide +kernel)⟩
theorem witness_ImageWords_pcrop :
    let u := inBundle wPcrop pCrop
    QuietBay u 9 ∧ ∃ f, Issues (runs wPcrop pCrop) wPcrop decPcrop chkPcrop f ∧
      let e := f.f.ea u 9
      let h := u.bayNum 9 e.2.2 32
      let out (g : Nat × Nat × Nat) : Nat := cropOut f e.1 h g.1 g.2.1 g.2.2 0
      pcropOk f (h, 0) = true ∧ (∀ g ∈ cropGrid f, ∀ g' ∈ cropGrid f, g ≠ g' → out g + f.ch * f.e ≤ out g' ∨ out g' + f.ch * f.e ≤ out g) ∧
      ∀ g ∈ cropGrid f, CodewordsApart (out g) (f.ch * f.e) e.2.2 (0x20 + 16 * f.nbox) ∧ ∀ g' ∈ cropGrid f, ∀ c < f.ch,
        ∀ k ∈ cropTaps f (boxAt u 9 e.2.2 g'.1) g'.2.1 g'.2.2,
          cropTap u 9 (u.hold wPcrop).ranges f e.2.1 h (boxAt u 9 e.2.2 g'.1) k.1 k.2.1 c = .fetched →
          CodewordsApart (out g) (f.ch * f.e) (cropAddr f e.2.1 h k.1 k.2.1 c).toNat f.e :=
  ⟨calm 9 (by decide +kernel), issuing (by decide +kernel) (by decide +kernel)⟩
theorem witness_ImageWords_pargmax :
    let u := inBundle wParg pArg
    QuietBay u 9 ∧ ∃ f, Issues (runs wParg pArg) wParg decParg chkParg f ∧
      let e := f.f.ea u 9
      let h := u.bayNum 9 e.2.2 64
      pargOk f (h, 0) = true ∧ ∀ x < f.width, ∀ y < f.width, ∀ c < f.ch,
        CodewordsApart (e.1 + 2 * x) 2 (pargAddr f e.2.1 h c y) ((pargTy f h).bits / 8) :=
  ⟨calm 9 (by decide +kernel), issuing (by decide +kernel) (by decide +kernel)⟩

end Sys2Proof.Tests

namespace Sys2Proof.Tests

/-! ### Raster time, the frame boundary and the governor -/

/-- A register set to a number. -/
def sr (a v : Nat) (s : State) : State := s.setReg a (BitVec.ofNat 32 v)
/-- Port 0 with its queue enabled and open. -/
def opened (s : State) : State :=
  ({ s with cfg := smPut PortCfg.reset s.cfg 0 { PortCfg.reset with bme := true, mem := true, msixEn := true } }.setPreg 0 A.hostEqCtl 1).setPreg 0 A.hostEqBaseHi 0x10
def up0 : State := opened ready
def stopped : State := { ready with rast := { ready.rast with paused := true } }
def lastLine : State := { ready with rast := { ready.rast with line := ready.rast.linesTotal - 1 } }
/-- The reset raster: 67.5 kHz lines at reef 3, 800 MHz (R366). -/
theorem test_line_length : (lineLen ready).1 = 11851 ∧ (lineLen ready).2 < ruPerCk 3 * 65536 := by decide +kernel
theorem test_tick : (after (exec .halyardTick ready)).rast.line = 1 ∧ (after (exec .halyardTick stopped)).rast.line = 0 := by decide +kernel
theorem test_tick_last : (after (exec .halyardTick lastLine)).rast.due = true := by decide +kernel
theorem witness_HalyardTicks :
    (ready.rast.sync.jump = false ∧ pMin ready.rast.linePeriod ready.rast.reef ≤ pMax ready.rast.tNum ready.rast.tDen ready.rast.reef ∧
      ((pMin ready.rast.linePeriod ready.rast.reef * (ruPerCk ready.rast.reef * 65536) : Nat) : Int) ≤ ready.rast.sync.frac + ready.rast.sync.nEst + ready.rast.sync.c ∧
      (ready.rast.sync.frac + ready.rast.sync.nEst + ready.rast.sync.c : Int) <
        ((pMax ready.rast.tNum ready.rast.tDen ready.rast.reef + 1) * (ruPerCk ready.rast.reef * 65536) : Nat)) ∧
    (Runs ready ∧ CalmLine ready ∧ PlainEnd ready ∧ frameEnds ready (endTime ready).toNat = false) ∧
    (Runs lastLine ∧ lastLine.fab.flight = [] ∧ PlainEnd lastLine ∧ frameEnds lastLine (endTime lastLine).toNat = true ∧ lastLine.rast.sync.jump = false) ∧ ¬ Runs stopped ∧
    (let s := { lastLine with rast := { lastLine.rast with line := lastLine.rast.linesTotal, sync := { lastLine.rast.sync with jump := true } } }
     s.rast.sync.jump = true ∧ s.inExt = true) := by
  repeat' apply And.intro
  all_goals decide +kernel

/-- A source chosen in RAST_SYNC_STAT with the servo state given. -/
def srcSt (src st : Nat) : State :=
  up0 |> sr A.rastSyncStat (st + 16 * src) |> sr A.rastSyncCtl src |> sr A.timeStat 8 |> sr A.safeEnv 0x1E |> sr A.rastSyncWin 1
/-- References at the given times, the last pairing in frame 8. -/
def withRefs (t : List Nat) (s : State) : State :=
  { s with rast := { s.rast with t0 := 100000, time := 5000000, frame := 9, sync := { s.rast.sync with
      refs := t.map (fun t => ⟨s.rf A.rastSyncStat 6 4, t, 3⟩), prev := some (8, 100), phased := false } } }
/-- A nominal frame in raster units. -/
def per : Nat := ready.rast.linesTotal * ready.rast.tNum * 24 / ready.rast.tDen
/-- A reference that is o raster units late. -/
def lateBy (o src : Nat) : State :=
  let s := withRefs [100 + per + o] (srcSt src 2)
  { s with rast := { s.rast with t0 := BitVec.ofNat 64 (100 + per) } }
/-- No reference, m missed so far. -/
def missed (m : Nat) : State := let s := withRefs [] (srcSt 1 2); { s with rast := { s.rast with sync := { s.rast.sync with misses := m, age := 0, phased := true } } }
def freeRun : State := withRefs [] (srcSt 4 0)
theorem test_reference_clears_stuck : (after (exec (.referenceEvent ⟨0, false⟩ 5 1) (srcSt 0 1))).rf A.safeEnv 4 1 = 0xC := by decide +kernel
/-- A phase error of 10 raster units: c removes a quarter over the 1125 lines of the frame (R371). -/
theorem test_update_pairs : (after (exec .updatePoint (lateBy 10 0))).rast.sync.phi = 10 ∧ (after (exec .updatePoint (lateBy 10 0))).rast.sync.c = 145 := by decide +kernel
theorem test_update_holdover : (after (exec .updatePoint (missed 1))).rf A.rastSyncStat 1 0 = 3 := by decide +kernel
theorem witness_TimingGenerator_events :
    ((0 : Fin 4).val = (srcSt 0 1).rf A.rastSyncStat 6 4) ∧ ((1 : Fin 4).val = (srcSt 1 2).rf A.rastSyncStat 6 4) ∧ ((2 : Fin 4).val = (srcSt 2 2).rf A.rastSyncStat 6 4) ∧
    ((0 : Fin 4).val < 2 ∧ (srcSt 0 1).rf A.rastSyncCtl 8 8 = b2n false) ∧ ((3 : Fin 4).val = (srcSt 3 2).rf A.rastSyncStat 6 4 ∧ aligned (srcSt 3 2) 0 0 = true) := by
  repeat' apply And.intro
  all_goals decide +kernel
theorem witness_TimingGenerator_updates :
    (∀ o ∈ [10, 3000], Steering (lateBy o 0) ∧ (lateBy o 0).rf A.rastSyncStat 1 0 = 2 ∧ ReferenceDue (lateBy o 0) ∧
      candidates (lateBy o 0) ((lateBy o 0).rf A.rastSyncStat 6 4) = [⟨0, 100 + per + o, 3⟩] ∧
      outOfTol (lateBy o 0) (nSrc (lateBy o 0) (100 + per + o) (lateBy o 0).rast.sync.prev) = false) ∧
    (∀ m ∈ [0, 1], Steering (missed m) ∧ (missed m).rf A.rastSyncStat 1 0 = 2 ∧ (missed m).syncDiv ≤ (missed m).rast.sync.age + 1 ∧
      candidates (missed m) ((missed m).rf A.rastSyncStat 6 4) = []) ∧ ((missed 0).rast.sync.misses + 1 < 2) ∧ (2 ≤ (missed 1).rast.sync.misses + 1) ∧
    (freeRun.halted = false ∧ freeRun.rast.paused = false ∧ freeRun.rf A.rastSyncStat 6 4 = 4 ∧ freeRun.rf A.rastSyncStat 1 0 = 0 ∧ freeRun.rf A.rastSyncCtl 7 7 = 0) := by
  refine ⟨?_, ?_, ?_, ?_, ?_⟩ <;> decide +kernel

/-- Output on, line store layer 2 enabled, with the segments given. -/
def layered (g : List Seg) : State := let s := up0 |> sr A.rastOutCtl 1 |> sr (A.compLayerCtl 2) 3; { s with fab := { s.fab with segs := g } }
def ck : Frame × Nat := (checkedLine (layered [])).getD (0, 0)
/-- A segment of the line to be checked. -/
def gg (l : Nat) (st : SegState) : Seg := ⟨l, ck.2, ck.1, 0, 0, 64, 0, 8, st, false, false⟩
/-- The output off. -/
def dimmed : State := sr A.rastOutCtl 0 (layered [])
def complete : State := layered [gg 2 .marked, gg 3 .marked]
def incomplete : State := layered [gg 2 .marked, gg 2 .sparOwned]
theorem test_lead_confirms : (after (exec .leadCheck complete)).fab.segs.map Seg.ok = [true, false] := by decide +kernel
theorem test_lead_underruns : (after (exec .leadCheck incomplete)).layerOff 2 ck.1.toNat ck.2 = true ∧ (after (exec .leadCheck incomplete)).rf A.rastUndrCnt 15 0 = 1 := by
  decide +kernel
theorem witness_LeadChecksAndUnderruns :
    (let s := settleTo 0 1 complete
     let v := viewOf s ck.1
     checkedLine s = some ck ∧ v.composing = true ∧ ck.2 < v.rast.linesActive ∧ v.rast.resumedF ≠ some ck.1 ∧
      (∀ l < 8, storeLayerOn v l = true → s.layerOff l ck.1.toNat ck.2 = false →
        (s.fab.segs.any (fun g => decide (g.layer = l ∧ g.frame = ck.1 ∧ g.line = ck.2))) = true ∧
        (s.fab.segs.all (fun g => decide (g.layer = l → g.frame = ck.1 → g.line = ck.2 → g.st = .marked))) = true) ∧
      storeLayerOn v 2 = true) ∧
    (∀ x ∈ [incomplete, layered []], let s := settleTo 0 1 x
      let v := viewOf s ck.1
      checkedLine s = some ck ∧ v.composing = true ∧ ck.2 < v.rast.linesActive ∧ v.rast.resumedF ≠ some ck.1 ∧
      (∀ m < 8, storeLayerOn v m = decide (m = 2)) ∧ s.layerOff 2 ck.1.toNat ck.2 = false) ∧
    ((settleTo 0 1 incomplete).fab.segs.any (fun g => decide (g.layer = 2 ∧ g.frame = ck.1 ∧ g.line = ck.2 ∧ g.st ≠ .marked)) = true ∧
      (settleTo 0 1 (layered [])).fab.segs = []) ∧
    (complete.layerOff 7 (2 ^ 48 - 1) (2 ^ 13 - 1) = false ∧ complete.rf A.rastUndrCnt 15 0 = 0) ∧
    (checkedLine (settleTo 0 1 dimmed) = some ck ∧ (viewOf (settleTo 0 1 dimmed) ck.1).composing = false) := by
  refine ⟨⟨?_, ?_, ?_, ?_, ?_, ?_⟩, ?_, ?_, ?_, ?_⟩ <;> decide +kernel

/-- A pause that takes effect at the next boundary. -/
def pausing : State := { up0 with rast := { ready.rast with pauseAt := some 5, reef := 2, frame := 4 } }
/-- The governor has chosen reef 2; SPAR_BOUND2 of spar 3 is committed for the next frame. -/
def governed : State := { up0 with gov := { ready.gov with decided := true, rs := 2, rth := 1 }, rast := { ready.rast with frame := 4, due := true, reef := 1 } }
def committed : State := { governed with commits := [⟨0, A.sparBound 3 2, 0xFFFFFFFF, 0x123, 5⟩] }
theorem test_boundary : (after (exec (.frameBoundary (List.replicate 7 0)) committed)).bReg 3 2 = 0x123 ∧
    (after (exec (.frameBoundary (List.replicate 7 0)) governed)).rast.reef = 2 := by decide +kernel
theorem test_boundary_pauses : (after (exec (.frameBoundary (List.replicate 7 0)) pausing)).rast.paused = true ∧
    (after (exec (.frameBoundary (List.replicate 7 0)) pausing)).rf A.sysPauseCtl 10 8 = 2 := by decide +kernel
theorem witness_FrameBoundaries_canonical : committed.Canonical := canonical_of _ (by decide +kernel)
theorem witness_FrameBoundaries :
    (committed.rast.paused = false ∧ committed.halted = false ∧ committed.rast.pauseAt ≠ some (committed.rast.frame + 1) ∧ committed.rast.sync.fsetArm = false ∧ committed.rast.due = true) ∧
    (up0.rast.paused = false ∧ up0.rast.due = false ∧ CalmLine up0) ∧
    (governed.rast.paused = false ∧ governed.halted = false ∧ governed.rast.pauseAt ≠ some (governed.rast.frame + 1) ∧ governed.rast.sync.fsetArm = false ∧
      governed.rf A.logRplyCtl 0 0 = 0 ∧ governed.commits = [] ∧ governed.rf A.linkLsCtl 0 0 = 0 ∧ governed.rf A.linkFleetCtl 0 0 = 0) ∧
    (pausing.rast.paused = false ∧ pausing.halted = false ∧ pausing.rast.pauseAt = some (pausing.rast.frame + 1) ∧ pausing.fab.flight = [] ∧ pausing.bar2Q = []) ∧ stopped.rast.paused = true := by
  repeat' apply And.intro
  all_goals decide +kernel
/-- With sensors at 95 °C, beyond every threshold, the thermal limit is 3 (R579). -/
theorem test_decision_hot : (after (exec (.decisionPoint (List.replicate 76 (some 380)) (List.replicate 7 0)) (sr A.pwrTherm 0x02585550 up0))).gov.rth = 3 := by decide +kernel
theorem witness_DecisionPoints : up0.rast.paused = false := by decide +kernel

/-! ### Wearo ports, fleets and lock-step pairs -/

def z (n : Nat) : List Byte := List.replicate n 0
/-- An ACK, a NAK, a DREQ, a DRESP, an INFO, a MGMT, a MUSTER, a REEF, a REDUCE and a LOCKSTEP frame. -/
def frA : LinkFrame := ⟨0x01, 0, 7, 3, 4, z 32⟩
def frN (c n : Nat) : LinkFrame := ⟨0x02, 0, 7, 3, 4, leBytes 1 c ++ z 3 ++ leBytes 4 n ++ z 24⟩
def frQ : LinkFrame := ⟨0x03, 0, 7, 3, 4, leBytes 2 9 ++ z 30⟩
def frR : LinkFrame :=
  ⟨0x04, 0, 7, 3, 4, leBytes 2 9 ++ leBytes 2 3 ++ leBytes 1 1 ++ [0] ++ leBytes 6 0 ++ leBytes 4 1000 ++ leBytes 2 7 ++ leBytes 6 0 ++ leBytes 4 2000 ++ leBytes 2 7 ++ z 2⟩
def frI : LinkFrame := ⟨0x05, 0, 0, 0, 0, leBytes 4 55 ++ leBytes 2 1 ++ leBytes 1 1 ++ [0] ++ leBytes 4 0x91602000 ++ leBytes 1 1 ++ z 19⟩
def frM (q : Nat) : LinkFrame := ⟨0x21, 1, q, 3, 4, leBytes 4 55 ++ z 28⟩
/-- A frame as the receiver hands it over, for which its FEC corrected one codeword. -/
def rx (f : LinkFrame) : Rx := ⟨frameBytes f, 1⟩
def fu (q f b : Nat) : LinkFrame := ⟨0x10, 0, q, f, b, z 32⟩
def frV (q r f16 : Nat) : LinkFrame := ⟨0x11, 0, q, 3, 4, leBytes 2 0 ++ leBytes 2 f16 ++ [0, 2] ++ leBytes 1 r ++ z 25⟩
def frT (q id f16 : Nat) : LinkFrame := ⟨0x10, 0, q, 3, 4, leBytes 2 id ++ leBytes 2 f16 ++ [0, 2] ++ z 26⟩
def frW (q id f16 : Nat) : LinkFrame :=
  ⟨0x20, 1, q, 3, 4, leBytes 2 id ++ leBytes 1 5 ++ leBytes 2 f16 ++ [0, 2] ++ z 9 ++ leBytes 12 (2 ^ 96 - 1) ++ z 756 ++ leBytes 8 1 ++ z 8⟩
def frL (q l b f16 : Nat) : LinkFrame := ⟨0x12, 0, q, 3, 4, leBytes 2 f16 ++ leBytes 2 l ++ leBytes 1 b ++ z 511 ++ z 28⟩
/-- Port 0 is up, with frames of both classes to be acknowledged. -/
def upW : State :=
  let s := up0 |> sr (A.linkPortStat 0) 2 |> sr (A.linkPortCtl 0) (1 + 5 * 16 + 3 * 65536) |> sr A.timeEpoch 77
  let s := s.setWport 0 { Wearo.start with signal := true, fast := ⟨5, 9, false, 0, 0, [(fu 2 0 0, 1), (fu 3 1 1, 2), (fu 4 0 0, 1)], []⟩,
                                           bulk := ⟨7, 2, true, 5, 0, [(⟨0x21, 1, 6, 1, 1, z 32⟩, 3)], []⟩, ackDue := true, t1 := some (9, 4), delays := [3, 4] }
  { s with aon := { s.aon with optics := true }, wire := [(1, [2])] }
/-- The same port, which expects the last number of its fast class and number 2 of its bulk class. -/
def low : State := upW.setWport 0 { upW.wport 0 with fast := { (upW.wport 0).fast with exp := 2 ^ 32 - 1 }, bulk := { (upW.wport 0).bulk with exp := 2, nak := false }, ackDue := false }
def training : State :=
  (up0 |> sr (A.linkPortStat 0) 1 |> sr (A.linkPortCtl 0) (1 + 5 * 16 + 3 * 65536)).setWport 0 { Wearo.start with signal := true, step := 5, fails := 2 } |>
    (fun s => { s with aon := { s.aon with optics := true } })
def dark : State := { (sr (A.linkPortCtl 0) (1 + 5 * 16 + 3 * 65536) up0) with aon := { ready.aon with optics := true } }
theorem test_frame_codec : parseFrame (frameBytes frR) = some frR ∧ parseFrame ((frameBytes frR).set 3 9) = none := by decide +kernel
theorem test_ack : ((after (exec (.ackFrame 0 (rx frA)) upW)).wport 0).fast.buf.map (fun x => x.1.seq) = [3, 4] := by decide +kernel
theorem test_nak : (after (exec (.nakFrame 0 (rx (frN 0 3))) upW)).wire.length = 2 := by decide +kernel
theorem test_training_fails : (after (exec (.trainingTimeout 0) training)).rf (A.linkPortStat 0) 7 4 = 2 := by decide +kernel
theorem test_info : ((after (exec (.infoFrame 0 (rx frI)) training)).wport 0).step = 6 := by decide +kernel
/-- A NAK stands, and the numbers have gone back once. -/
def rewound (n : Nat) : State := upW.setWport 0 { upW.wport 0 with bulk := { (upW.wport 0).bulk with rewinds := n } }
theorem test_second_nak : ((after (exec (.mgmtFrame 0 (rx (frM 4))) (rewound 1))).wire.length, (after (exec (.mgmtFrame 0 (rx (frM 4))) (rewound 0))).wire.length) = (1, 0) := by
  decide +kernel
theorem test_fec_counts : (after (exec (.ackFrame 0 (rx frA)) upW)).rf (A.linkPortFec 0) 31 0 = 1 := by decide +kernel
theorem witness_SequencesAndRetry_rules :
    (parseFrame (rx (fu 9 3 4)).bytes = some (fu 9 3 4) ∧ classOf 0x10 = some 0 ∧ 2 ≤ upW.portState 0 ∧ signedDiff 32 9 ((upW.wport 0).cls 0).exp = 0 ∧
      carries (sr A.linkFleetCtl 1 upW) 0 0x10 = true) ∧
    signedDiff 32 8 ((upW.wport 0).cls 0).exp < 0 ∧
    (0 < signedDiff 32 10 ((upW.wport 0).cls 0).exp ∧ ((upW.wport 0).cls 0).nak = false) ∧
    (let k := (upW.wport 0).cls 1
     0 < signedDiff 32 6 k.exp ∧ k.nak = true ∧ 0 < signedDiff 32 6 k.last ∧ classOf 0x21 = some 1 ∧ parseFrame (rx (frM 6)).bytes = some (frM 6) ∧
      0 < signedDiff 32 4 k.exp ∧ signedDiff 32 4 k.last ≤ 0 ∧ k.rewinds = 0) ∧
    (let k := ((rewound 1).wport 0).cls 1
     0 < signedDiff 32 4 k.exp ∧ signedDiff 32 4 k.last ≤ 0 ∧ 1 ≤ k.rewinds) := by
  repeat' apply And.intro
  all_goals decide +kernel
theorem witness_SequencesAndRetry_frames :
    ControlFrame upW 0 0x01 (rx frA) frA ∧
    (ControlFrame upW 0 0x02 (rx (frN 0 3)) (frN 0 3) ∧ numAt (frN 0 3).payload 0 1 = 0 ∧ numAt (frN 0 3).payload 4 4 = 3 ∧
      ((acked upW 0 (frN 0 3)).cls 0).buf.any (fun x => decide (x.1.seq = 3)) = true ∧
      ((acked upW 0 (frN 0 3)).cls 0).buf.filter (fun x => decide (0 ≤ signedDiff 32 x.1.seq 3)) = (fu 3 1 1, 2) :: [(fu 4 0 0, 1)] ∧
      2 ≤ upW.rf (A.linkPortCtl 0) 23 16) ∧
    (((upW.wport 0).cls 0).buf = (fu 2 0 0, 1) :: [(fu 3 1 1, 2), (fu 4 0 0, 1)] ∧
      (∀ x ∈ [(fu 3 1 1, 2), (fu 4 0 0, 1)], 0 ≤ signedDiff 32 x.1.seq 2) ∧ 1 ≤ upW.rf (A.linkPortCtl 0) 23 16) ∧
    (upW.wport 0).ackDue = true ∧
    (parseFrame (⟨z 64, 0⟩ : Rx).bytes = none ∧ 2 ≤ upW.portState 0 ∧ ((upW.wport 0).cls (numAt (z 64) 1 1 % 2)).nak = false) ∧
    InOrder low 0 0x21 1 (rx (frM 2)) (frM 2) := by
  repeat' apply And.intro
  all_goals decide +kernel
theorem test_delay_exchange : (after (exec (.delayExchange 0 0) upW)).wport 0 |>.exchNo |> (· = 1) := by decide +kernel
theorem witness_DelayExchanges :
    (2 ≤ upW.portState 0) ∧ ControlFrame upW 0 0x03 (rx frQ) frQ ∧
    (ControlFrame upW 0 0x04 (rx frR) frR ∧ (upW.wport 0).t1 = some (9, 4) ∧ numAt frR.payload 0 2 = 9 ∧ (upW.wport 0).step ≠ 6 ∧ ¬ (upW.portState 0 = 2 ∧ upW.timeMode = 3 ∧ parentPort upW = some 0)) := by
  repeat' apply And.intro
  all_goals decide +kernel
theorem witness_PortTraining :
    ((∀ l, l < 4 → ∃ i, i < 4 ∧ (0xE4 : Nat) / 4 ^ i % 4 = l) ∧ (dark.wport 0).signal = false ∧ dark.aon.optics = true ∧ dark.rf A.sysDrst 2 2 = 0 ∧
      dark.rf (A.linkPortCtl 0) 0 0 = 1) ∧
    (parseFrame (frameBytes frI) = some frI ∧ frI.type = 0x05 ∧ training.portState 0 = 1 ∧ (training.wport 0).step = 5) ∧
    ((training.wport 0).signal = true ∧ training.aon.optics = true ∧ training.rf A.sysDrst 2 2 = 0 ∧ training.rf (A.linkPortCtl 0) 0 0 = 1) ∧
    ((upW.wport 0).signal = true ∧ upW.rf (A.linkPortCtl 0) 0 0 = 1) ∧
    (Served training 0 (A.linkPortCtl 0) ∧ training.owner = 0 ∧ fld (0x30050 : Word) 15 4 ≠ 0 ∧ fld (0x30050 : Word) 23 16 ≠ 0 ∧ training.rf (A.linkPortCtl 0) 0 0 = 1 ∧
      fld (0x30050 : Word) 0 0 = 0) ∧
    (Served up0 0 (A.linkPortCtl 0) ∧ up0.rf (A.linkPortCtl 0) 0 0 = 0 ∧ fld (0x30051 : Word) 0 0 = 1) := by
  repeat' apply And.intro
  all_goals decide +kernel

/-- A fleet of the given agreement and dimensions in frame 70000, whose choice is reef 1. -/
def fl (agree dims : Nat) : State :=
  let s := upW |> sr A.linkFleetCtl (1 + 2 * agree + 32) |> sr A.linkFleetDim dims |> sr (A.linkPortStat 1) 2 |> sr (A.linkPortCtl 1) (1 + 5 * 16 + 3 * 65536)
  { (low.setWport 1 { Wearo.start with signal := true }) with
    regs := s.regs, rast := { s.rast with frame := 70000, line := 5, linesTotal := 100, linePeriod := 2000, tDen := 1 }, gov := { s.gov with rs := 1 } } |> sr A.rastCommit 0x500
/-- A fleet whose next frame replay forces to reef 2. -/
def forced : State :=
  let s := fl 1 1 |> sr A.logRplyCtl 3
  { s with rcd := { s.rcd with fetchedRec := some ⟨70001, 2, 0, 0, 0⟩ } }
def gathered : State :=
  let s := fl 1 1
  { s with fleet := { ready.fleet with gathers := [Gather.fresh .vote 0 4464, { Gather.fresh .row 197 4464 with started := true, phase := 0, val := zeroRow }] } }
def ls (c : Nat) : State := (fl 0 0) |> sr A.linkLsCtl (1 + 2 * c + 2 * 256) |> sr A.linkLsStat 1 |> sr A.linkFleetCtl 0
def sg0 : List (BitVec 64) := 0 :: List.replicate 63 0
def lsOwn (line : Nat) : State := { ls 0 with fleet := { ready.fleet with own := [⟨4464, line, sg0⟩] } }
def lsLate : State := { ls 1 with rast := { (ls 1).rast with line := 99 } }
theorem test_fleet_of_one : agreedReef (after (exec .fleetReefVote (fl 1 0))) = some 1 := by decide +kernel
theorem test_fleet_fallback : (after (exec .fleetReefFallback (fl 1 1))).fleet.fb = some 2 := by decide +kernel
theorem test_muster_token : (after (exec (.musterFrame 0 0 (rx (frT (2 ^ 32 - 1) 3 4464))) gathered)).fleet.gathers.length = 3 := by decide +kernel
theorem test_token_stale : (after (exec (.musterFrame 0 0 (rx (frT (2 ^ 32 - 1) 3 4463))) gathered)).rf A.linkRedStat 31 16 = 1 := by decide +kernel
theorem test_lockstep_diverges : (after (exec (.lockstepFrame 0 (rx (frL (2 ^ 32 - 1) 4 1 4464))) (lsOwn 4))).rf A.linkLsStat 1 0 = 2 := by decide +kernel
theorem witness_ReefVotes :
    (agreeing (fl 1 0) = true ∧ findGather (fl 1 0) .vote 0 (fl 1 0).f16 = none ∧ (∀ d, d < 3 → fleetDim (fl 1 0) d = 1) ∧ (fl 1 0).fleet.fb = none ∧
      replayReef (fl 1 0) = none) ∧
    (agreeing (fl 1 1) = true ∧ agreedReef (fl 1 1) = none ∧ (fl 1 1).fleet.fb = none ∧ replayReef (fl 1 1) = none) ∧
    (agreeing forced = true ∧ agreedReef forced = none ∧ forced.fleet.fb = none ∧ replayReef forced = some 2) ∧
    (InOrder gathered 0 0x11 0 (rx (frV (2 ^ 32 - 1) 2 4464)) (frV (2 ^ 32 - 1) 2 4464) ∧ gathered.lsPort ≠ some 0) := by
  repeat' apply And.intro
  all_goals decide +kernel
/-- The part in the cycle in which a frame arrives. -/
def settled : State := settleTo (ckOf gathered 0) 1 gathered
theorem witness_FleetTokens :
    (InOrder settled 0 0x10 0 (rx (frT (2 ^ 32 - 1) 3 4464)) (frT (2 ^ 32 - 1) 3 4464) ∧ signedDiff 16 4464 settled.f16 = 0 ∧ gatherRoom settled .muster = true) ∧
    (InOrder settled 0 0x10 0 (rx (frT (2 ^ 32 - 1) 3 4463)) (frT (2 ^ 32 - 1) 3 4463) ∧ signedDiff 16 4463 settled.f16 = -1) ∧
    (InOrder settled 0 0x20 1 (rx (frW 2 3 4464)) (frW 2 3 4464) ∧ (findGather settled .row 197 4464).isSome = true) ∧
    (zeroRow.length = 128 ∧ settled.wport 0 = gathered.wport 0) := by
  repeat' apply And.intro
  all_goals decide +kernel
theorem witness_LockSteps :
    ((ls 0).lsPort = some 0 ∧ comparing (ls 0) = true ∧ (ls 0).rf A.linkLsCtl 1 1 = 0 ∧ agreeing (ls 0) = false) ∧
    (InOrder (ls 1) 0 0x11 0 (rx (frV (2 ^ 32 - 1) 2 4464)) (frV (2 ^ 32 - 1) 2 4464) ∧ (ls 1).lsPort = some 0 ∧ lockFollower (ls 1) = true ∧
      numAt (frV (2 ^ 32 - 1) 2 4464).payload 2 2 = (ls 1).f16 ∧ replayReef (ls 1) = none ∧ byCut (ls 1) (ckOf (ls 1) 0) = true ∧ (ls 1).gov.rth ≤ 2) ∧
    (InOrder lsLate 0 0x11 0 (rx (frV (2 ^ 32 - 1) 2 4464)) (frV (2 ^ 32 - 1) 2 4464) ∧ lockFollower lsLate = true ∧ byCut lsLate (ckOf lsLate 0) = false) ∧
    (let s := settleTo (issueW (ls 0).rast.linePeriod (ls 0).rast.reef + 16) 1 (ls 0)
     s.lsPort = some 0 ∧ comparing s = true ∧ s.fleet.own = [] ∧ s.fleet.their = []) ∧ carries (ls 0) 0 0x10 = false ∧
    (InOrder (lsOwn 4) 0 0x12 0 (rx (frL (2 ^ 32 - 1) 4 0 4464)) (frL (2 ^ 32 - 1) 4 0 4464) ∧ comparing (lsOwn 4) = true ∧
      (lsOwn 4).fleet.own = [⟨4464, 4, sg0⟩] ∧ (lsOwn 4).fleet.their = [] ∧
      numAt (frL (2 ^ 32 - 1) 4 0 4464).payload 0 2 = 4464 ∧ numAt (frL (2 ^ 32 - 1) 4 0 4464).payload 2 2 = 4 ∧
      (List.range 64).filter (fun i => decide (sg0.getD i 0 ≠ BitVec.ofNat 64 (numAt (frL (2 ^ 32 - 1) 4 0 4464).payload (4 + 8 * i) 8))) = [] ∧
      (List.range 64).filter (fun i => decide (sg0.getD i 0 ≠ BitVec.ofNat 64 (numAt (frL (2 ^ 32 - 1) 4 1 4464).payload (4 + 8 * i) 8))) ≠ []) ∧
    ((lsOwn 3).fleet.own.any (fun a => decide ((lsOwn 3).linePos (frameOf16 (lsOwn 3) a.f).toNat a.line + (lsOwn 3).rf A.linkLsCtl 11 8 ≤ (lsOwn 3).nowPos)) = true ∧
      comparing (lsOwn 3) = true) ∧
    (∀ a ∈ (lsOwn 4).fleet.own, (lsOwn 4).nowPos < (lsOwn 4).linePos (frameOf16 (lsOwn 4) a.f).toNat a.line + (lsOwn 4).rf A.linkLsCtl 11 8) ∧
    ((ls 0).rf A.linkLsStat 1 0 = 1) := by
  repeat' apply And.intro
  all_goals decide +kernel

/-! ### Time -/

/-- TIME_CTL mode, servo state, SET, port state and ACCEPT. -/
def tm (mode servo set port acc : Nat) : State :=
  opened (ready |> sr A.timeCtl (mode + acc * 2 ^ 31) |> sr A.timeStat (servo + 4 * set + 16 * port + 254 * 256) |> sr A.timeJump 5 |> sr A.timeHold (100 * 65536) |>
    sr A.timeEthCtl 1 |> sr A.timeEthStat 1 |> sr A.timeLatIn 7 |> sr A.timeLatEg 9 |> sr A.timeAsym 11)
def withPtp (s : State) : State :=
  { s with ptp := { s.ptp with mac := 5, ip := 0x0A000001, clk := 77, master := some (88, 1), xch := some (5, 6, 7), syncT2 := some (3, 100, 4), reqT3 := some (3, 9), good := 7 } }
def fset : AnnounceSet := ⟨1, 2, 3, 4, 5, 88, 1, 88, 1⟩
def wf1 : State := { withPtp (tm 1 0 0 1 0) with ptp := { (withPtp (tm 1 0 0 1 0)).ptp with master := none, foreign := [⟨fset, 1⟩] } }
def wf0 : State := { withPtp (tm 1 0 0 1 0) with ptp := { (withPtp (tm 1 0 0 1 0)).ptp with master := none, foreign := [] } }
def hd (seq : Nat) : PtpHead := ⟨false, false, none, 2, 0, 88, 1, BitVec.ofNat 16 seq, 0x10000, 1000⟩
def slave : State := withPtp (tm 1 1 1 3 0)
def master : State := withPtp (tm 2 0 1 5 0)
/-- Beyond THRESH the measurement is refused (R457), within it the eighth in succession locks (R456). -/
theorem test_time_refused : (measure (10 ^ 14) (tm 1 2 1 3 0)).rf A.timeStat 15 8 = 255 ∧ (measure (10 ^ 14) (tm 1 2 1 3 0)).servo = 3 := by decide +kernel
theorem test_time_locks : (measure 0 (withPtp (tm 1 1 1 3 0))).servo = 2 := by decide +kernel
theorem test_time_first : (measure 1000 (tm 1 1 0 3 0)).servo = 1 ∧ (measure 1000 (tm 1 1 0 3 0)).rf A.timeStat 2 2 = 1 := by decide +kernel
theorem witness_TimeExchanges_measurements :
    (tm 1 1 0 2 0).rf A.timeStat 2 2 = 0 ∧ ((tm 1 2 1 2 1).rf A.timeJump 23 0 * 65536000 < (10 ^ 14 : Int).natAbs ∧ (tm 1 2 1 2 1).rf A.timeCtl 31 31 = 1) ∧
    ((tm 1 2 1 2 0).rf A.timeStat 2 2 = 1 ∧ (tm 1 2 1 2 0).rf A.timeCtl 31 31 = 0) ∧
    ((tm 1 1 1 2 0).servo = 1 ∧ ¬ (tm 1 1 1 2 0).rf A.timeJump 23 0 * 65536000 < (7000000 : Int).natAbs) ∧ (tm 1 3 1 2 0).servo = 3 := by
  repeat' apply And.intro
  all_goals decide +kernel
theorem witness_TimeExchanges_messages :
    (ptpHears slave (hd 3) = true ∧ fromMaster slave (hd 3) = true ∧ slave.ptp.xch = some (5, 6, 7)) ∧
    (slave.ptp.syncT2 = some ((hd 3).seq.toNat, 100, 4)) ∧ (slave.ptp.reqT3 = some ((hd 3).seq.toNat, 9)) ∧ slave.ptpPort = 3 ∧
    fromMaster slave { hd 3 with src := 9 } = false := by
  repeat' apply And.intro
  all_goals decide +kernel
theorem witness_MasterMessages :
    master.ptpPort = 5 ∧ ptpHears master (hd 3) = true ∧
    (ptpHears wf0 (hd 3) = true ∧ (hd 3).src ≠ wf0.ptp.clk ∧ fset.steps.toNat < 255 ∧ wf0.ptp.foreign = []) ∧
    (ptpHears wf1 (hd 3) = true ∧ wf1.ptp.foreign = [⟨fset, 1⟩] ∧ fset.src = (hd 3).src ∧ fset.srcPort = (hd 3).srcPort ∧ masterCapable wf1 = false ∧ wf1.ptp.master = none) ∧
    slave.ptpPort ∈ [1, 2, 3, 6] ∧ (tm 1 3 1 1 0).servo = 3 := by
  repeat' apply And.intro
  all_goals decide +kernel
def ethOff : State := sr A.timeEthCtl 0 (tm 1 0 0 0 0)
theorem test_arp : (after (exec (.nonPtpFrame ⟨none, (.arp 0x0A000001 5 6)⟩) slave)).ptp.sent = [ethOut slave 5 none none (.arpReply 5 6)] ∧
    (after (exec (.nonPtpFrame ⟨none, (.arp 1 5 6)⟩) slave)).ptp.sent = [] := by
  decide +kernel
theorem witness_EthernetPort :
    (Served ethOff 0 A.timeEthCtl ∧ ethOff.owner = 0 ∧ ¬(fld (0xFFE0003 : Word) 1 1 = 1 ∧ (fld (0xFFE0003 : Word) 27 16 = 0 ∨ fld (0xFFE0003 : Word) 27 16 = 4095)) ∧
      fld (0xFFE0003 : Word) 0 0 = 1 ∧ ethOff.rf A.timeEthCtl 0 0 = 0) ∧
    (slave.rf A.timeEthCtl 0 0 = 1 ∧ slave.rf A.timeEthStat 0 0 ≠ b2n false) ∧ ((sr A.timeEthStat 0 slave).rf A.timeEthStat 0 0 ≠ b2n true) ∧ (slave.ptp.vlan = none ∧ (some 5 : Option (BitVec 12)) ≠ slave.ptp.vlan.map (fun v => v.1)) ∧
    (Served slave 0 A.timeCtl ∧ slave.owner = 0) := by
  repeat' apply And.intro
  all_goals decide +kernel

end Sys2Proof.Tests

namespace Sys2Proof.Tests

/-! ### Composition, the output link and the display input -/

/-- A picture of 8 × 6 pixels with memory-plane layer 0 of 4 × 4 at (2, 1). -/
def pic : State :=
  let s := ready |> sr A.rastModeH 8 |> sr A.rastOutCtl 1 |> sr A.rastOutFmt (1 * 4) |> sr A.compBg0 0x12343000 |> sr A.compBg1 0x8000 |>
    sr (A.compLayerCtl 0) (1 + 0xFFFF * 256) |> sr (A.compLayerFmt 0) (1024 + 32768) |> sr (A.compLayerBase 0) 1 |> sr (A.compLayerSrcSz 0) (4 + 4 * 65536) |>
    sr (A.compLayerDstPos 0) (2 + 1 * 65536) |> sr (A.compLayerDstSz 0) (4 + 4 * 65536) |> sr A.compZorder 0o76543210
  { s with rast := { s.rast with linesActive := 6, linesTotal := 9, line := 0, frame := 5 }, hbm := s.hbm.write ((List.range 64).map (fun i => (4096 + i, BitVec.ofNat 8 (i * 7 + 1), 0))) }
def lineAt (n : Nat) : State := { pic with rast := { pic.rast with line := n } }
def blank : State := { pic with rast := { pic.rast with line := 6 } }
def sgp (l : Nat) : Seg := ⟨l, 0, 5, 0, 0, 64, 0, 8, .marked, true, false⟩
/-- Line store layer 2, whose segment's bay holds a poisoned codeword. -/
def poisoned : State :=
  let s := pic |> sr (A.compLayerCtl 2) (3 + 0xFFFF * 256) |> sr (A.compLayerFmt 2) 1024 |> sr (A.loftLsMap 0) 1
  { s with out := { s.out with scanned := [sgp 2] }, fab := { s.fab with loft := s.fab.loft.write [(bayKey 0 3, 5, 2)] } }
theorem test_norm : normSample 8 255 = 65535 ∧ normSample 10 1 = 64 ∧ blend1 1 32768 0 65535 0 = 32768 := by decide +kernel
theorem test_scanout_poison : (after (exec .scanoutLineRead poisoned)).layerOff 2 5 0 = true := by decide +kernel
/-- Row 1 of the three planes: rows of 64 B, planes 4 KiB apart. -/
theorem test_fetch : (after (exec (.layerFetch 0) pic)).out.fetched.map Fetched.sector = [65, 129, 193] := by decide +kernel
theorem test_sig_publish : (after (exec .signaturePublish { pic with out := { pic.out with sig := [(16, 5)] } })).loHi A.compFrzSigLo A.compFrzSigHi 32 = 5 := by decide +kernel
theorem test_flip_virt : (after (exec .flip (sr A.rastOutCtl 0 pic))).rf A.rastFlipFHi 31 31 = 1 ∧ (after (exec .flip pic)).reg A.rastFlipFLo = 5 := by decide +kernel
theorem test_watch_snapshot : (after (exec .watchSnapshot { pic with fab := { pic.fab with gather := [(11, ⟨9, 2, 7, 0x3F80⟩)] } })).rf (A.sysWatchAmax 3) 15 0 = 0x3F80 := by
  decide +kernel
theorem witness_Composition :
    (8 ≤ 8 ∧ 8 ≤ 16 ∧ 254 < 2 ^ 8 ∧ 253 < 254) ∧ ((65535 : Nat) ≤ 65535) ∧
    (pic.rast.line < pic.rast.linesActive ∧ pic.rast.paused = false ∧ pic.composing = true ∧ pic.fab.loft.marks = [] ∧ pic.fab.loft.flips = [] ∧
      pic.out.scanned = [] ∧ pic.out.psn = []) ∧
    (poisoned.rast.line < poisoned.rast.linesActive ∧ poisoned.composing = true ∧ poisoned.rf (A.compLayerCtl 2) 0 0 = 1 ∧ poisoned.rf (A.compLayerCtl 2) 1 1 = 1 ∧
      poisoned.out.scanned.any (fun g => decide (g.layer = 2) && segPoisoned poisoned g) = true) ∧ (blank.rast.linesActive ≤ blank.rast.line ∧ blank.rast.paused = false) ∧
    (let s := { pic with rast := { pic.rast with paused := true } }
     s.rast.paused = true ∧ s.rf A.rastOutCtl 0 0 = 1 ∧ s.rf A.rastSrCtl 8 8 = 0 ∧ s.rast.suspended = false ∧ s.linkLive = true ∧ s.rf A.rastOutCtl 10 10 = 0 ∧
      (sr A.rastSrCtl 256 s).rf A.rastSrCtl 8 8 = 1) ∧
    (let s := { sr A.rastDsc (2 * 65536) (sr A.rastOutCtl (1 + 1024) pic) with out := { pic.out with slice := [(0, [1])] } }
     s.composing = true ∧ s.rf A.rastOutCtl 10 10 = 1 ∧ s.rast.line % max 1 (s.rf A.rastDsc 28 16) = 0) := by
  repeat' apply And.intro
  all_goals decide +kernel
theorem witness_FetchesAndSignatures :
    (let v := viewOf pic 5
     fetchedLine pic = some (5, 2) ∧ v.reading = true ∧ memLayerOn v 5 0 2 = true ∧ 2 < v.rast.linesActive ∧ pic.hbm.marks = [] ∧ pic.hbm.flips = [] ∧
      (placeOf v 0).dy ≤ 2 ∧ 2 < (placeOf v 0).dy + (placeOf v 0).dh) ∧
    (let v := viewOf (lineAt 8) 6
     fetchedLine (lineAt 8) = some (6, 1) ∧ v.reading = true ∧ memLayerOn v 6 0 1 = true ∧ (placeOf v 0).dy ≤ 1) ∧
    (let s := pic |> sr (A.compSigCtl 0) 3 |> sr (A.compSigX 0) (8 * 65536) |> sr (A.compSigY 0) (2 * 65536)
     s.composing = true ∧ sigValid s 0 = true ∧ s.rf (A.compSigCtl 0) 1 0 = 3) ∧ (sr A.rastSrCtl 256 pic).composing = false ∧ sigValid pic 3 = false := by
  repeat' apply And.intro
  all_goals decide +kernel
theorem witness_FlipAndWatch : (2 : Nat) < 8 ∧ pic.fab.side < 2 ∧ (pic.reading = true ∧ sentRanges pic 0 ≠ []) ∧ (sr A.rastOutCtl 0 pic).reading = false ∧ pic.rf A.rastCommit 30 30 = 0 := by
  repeat' apply And.intro
  all_goals decide +kernel
def lnk : State := opened (sr A.safeEnv 0x3E0 pic)
def lostSink : State := { lnk with out := { lnk.out with lost := true } }
def shorted : State := { lnk with out := { lnk.out with shorted := true, training := true }, rast := { lnk.rast with train := some ⟨5, false, true⟩ } }
theorem test_sink_lost : (after (exec .sinkLost lnk)).out.lost = true := by decide +kernel
theorem test_output_trained : (after (exec (.outputTrainingDone ⟨5, 4, true, true, 3⟩ true 5) shorted)).rf A.safeLanes 4 0 = 11 ∧
    (after (exec (.outputTrainingDone ⟨5, 4, true, true, 3⟩ true 5) shorted)).reg A.safeEnv = 0 := by decide +kernel
theorem witness_OutputLink :
    (lnk.rf A.rastOutCtl 0 0 = 1 ∧ lnk.out.lost = false) ∧ (let s := { lostSink with out := { lostSink.out with trained := true } }
     s.rf A.rastOutCtl 0 0 = 1 ∧ s.out.trained = true) ∧ (lostSink.rf A.rastOutCtl 0 0 = 1 ∧ lostSink.out.lost = true) ∧
    (shorted.rf A.rastOutCtl 0 0 = 1 ∧ shorted.out.shorted = true ∧ shorted.out.training = true) := by
  repeat' apply And.intro
  all_goals decide +kernel

/-- The input bound to ingress pair 2 in HBM, its signal matching. -/
def inA : State :=
  opened (ready |> sr A.rastInCtl (1 + 2 * 16) |> sr A.rastInStat (7 + 1 * 4096) |> sr A.rastInFmt 1024 |> sr A.rastInMeas (3 + 2 * 65536) |> sr (A.rastPairCtl 2) 1 |>
    sr (A.rastPairBase 2) 1 |> sr (A.rastPairSize 2) 1)
def inB : State := sr (A.rastPairStat 2) 2 inA
def inC : State := { inA with inp := { inA.inp with storing := true, pair := 2 } }
def inD : State := { (inC |> sr (A.rastPairCtl 2) 5 |> sr (A.loftLsMap 0) 2) with inp := { inC.inp with xs := [3 * 65536], ys := [2 * 65536] } }
def edid : State :=
  { (inA |> sr (A.rastInEdid 0) 0xFFFFFF00 |> sr (A.rastInEdid 1) 0x00FFFFFF) with inp := { inA.inp with hpd := true, segment := 0, offset := 0, dpcd := [(0x100, 3)] } }
def pulsed : State := { edid with inp := { edid.inp with hpd := false, pulse := true } }
theorem test_input_start : (after (exec .inputFrameStart inB)).rf (A.rastPairCnt 2) 31 16 = 1 ∧ (after (exec .inputFrameStart inB)).inp.storing = true := by decide +kernel
theorem test_input_stored : (after (exec (.inputFrameStored [[1, 2, 3, 4, 5, 6, 7, 8, 9], [7, 8, 9, 10, 11, 12, 13, 14, 15]]) inC)).rf (A.rastPairStat 2) 1 1 = 1 := by
  decide +kernel
theorem test_input_state : (after (exec (.inputState ⟨true, true, true, 5, 2, 0, 1, 3, 2, true, 9⟩) inA)).rf A.rastInMeas 28 16 = 2 := by decide +kernel
theorem test_edid_read : (after (exec (.dpcdAccess (.i2cRead 0x50 5)) edid)).inp.reply = [0, 255, 255, 255, 255] := by decide +kernel
theorem test_edid_update : (after (exec (.edidUpd 0) edid)).inp.hpd = false ∧ (after (exec .inHpdRelease pulsed)).inp.hpd = true := by decide +kernel
theorem witness_InputSide :
    (inA.rf A.rastInStat 1 0 = 3 ∧ (takeSplits inA).rf A.rastInStat 2 2 = 1 ∧ inA.rf A.rastInCtl 0 0 = 1 ∧ inA.rf A.rastInCtl 7 4 = 2 ∧ inA.ingressOn 2 = true ∧ inA.rf (A.rastPairStat 2) 1 1 = 0) ∧
    (inB.ingressOn 2 = true ∧ (takeSplits inB).rf A.rastInStat 2 2 = 1 ∧ inB.rf A.rastInStat 1 0 = 3 ∧ inB.rf (A.rastPairStat 2) 1 1 = 1) ∧
    (inC.inp.storing = true ∧ inC.rf (A.rastPairCtl inC.inp.pair) 2 2 = 0 ∧ inC.inp.pair < 16) ∧
    (inD.inp.storing = true ∧ inD.rf (A.rastPairCtl inD.inp.pair) 2 2 = 1 ∧ inD.inp.pair < 16) ∧
    ((acceptable ⟨true, true, true, 5, 2, 0, 1, 640, 480, true, 9⟩).video = true ∧ (acceptable ⟨true, true, true, 7, 2, 0, 1, 640, 480, true, 9⟩).link = false) ∧
    edid.inp.hpd = true ∧ inA.inp.hpd = false ∧ (Served edid 0 A.rastInCtl ∧ edid.owner = 0) ∧ pulsed.inp.pulse = true := by
  repeat' apply And.intro
  all_goals decide +kernel

end Sys2Proof.Tests

namespace Sys2Proof.Tests

/-! ### Hosts: registers, commits, event queues -/

/-- Four ports, port 0 open. -/
def d0 : State := opened { ready with bifur := 2 }
def boot0 : BootRun := ⟨0, false, none, none, [], true⟩
/-- Latched causes and errors; writes of ports 0 and 1 that wait. -/
def aw : State := { ((d0.setReg A.safeEnvLatch 0x7F).setPreg 0 A.hostErr 0xFF) with pends := [⟨0, A.compLayerCtl 0, 3, 0xF, 0⟩, ⟨1, A.compLayerCtl 0, 3, 0xF, 0⟩] }
theorem test_write_w1c : (after (exec (.registerWrite 0 (BitVec.ofNat 24 A.safeEnvLatch) 0x3 0xF 0 boot0) aw)).reg A.safeEnvLatch = 0x7C := by decide +kernel
/-- A bit that the part sets in the cycle of the write stays set (R15). -/
theorem test_write_event_wins : (after (exec (.registerWrite 0 (BitVec.ofNat 24 A.hostErr) 0xF 0xF 0 boot0) (d0.hostErr 0 3))).preg 0 A.hostErr = 8 := by decide +kernel
theorem test_write_partial : (after (exec (.registerWrite 0 (BitVec.ofNat 24 A.sysSaveBase) 0x3 0x7 0 boot0) aw)).reg A.sysSaveBase = aw.reg A.sysSaveBase := by decide +kernel
/-- A shadowed register keeps its value until the GO and the boundary (R399). -/
theorem test_write_shadowed : (after (exec (.registerWrite 0 (BitVec.ofNat 24 (A.compLayerCtl 1)) 1 0xF 0 boot0) d0)).reg (A.compLayerCtl 1) = d0.reg (A.compLayerCtl 1) ∧
    (after (exec (.registerWrite 0 (BitVec.ofNat 24 (A.compLayerCtl 1)) 1 0xF 0 boot0) d0)).pends.length = 1 := by decide +kernel
/-- What RegisterWrites asks of an address: a register of its own right and without an action. -/
def plainWrite (s : State) (p : Fin 4) (a : Nat) (w : Word) : Prop :=
  Served s p a ∧ a % 4 = 0 ∧ a < 0xF00000 ∧ ¬(0x101000 ≤ a ∧ a < 0x105000) ∧ (regRow? a).isSome = true ∧ deadSpar s a = false ∧ wordOk a w = true ∧
    (writeMask s p a = 0 ∨ wholeAction boot0 p a 0 w s = none)
theorem witness_RegisterWritesAndCommits_writes :
    (aw.ports.contains 0 = true ∧ ¬((7#4 : BitVec 4) = 0xF#4 ∧ A.sysSaveBase % 4 = 0)) ∧
    (Served (settleTo 0 0 aw) 0 0x1FF000 ∧ 0x1FF000 % 4 = 0 ∧ regRow? 0x1FF000 = none) ∧
    plainWrite (settleTo 0 0 aw) 0 A.safeEnvLatch 3 ∧ plainWrite (settleTo 0 0 aw) 0 (A.compLayerCtl 0) 1 ∧ plainWrite (settleTo 0 0 aw) 1 (A.compLayerCtl 0) 1 ∧ plainWrite (settleTo 0 0 aw) 0 A.sysSaveBase 5 ∧ plainWrite (settleTo 0 0 aw) 0 A.hostErr 5 := by
  unfold plainWrite
  repeat' apply And.intro
  all_goals decide +kernel
theorem witness_RegisterWritesAndCommits_actions : bitActions 0 A.safeEnvLatch 0 3 (settleTo 0 0 aw) = settleTo 0 0 aw ∧ bitActions 0 (A.compLayerCtl 0) 0 1 (settleTo 0 0 aw) = settleTo 0 0 aw := by
  constructor <;> decide +kernel
def pend : State := { d0 with pends := [⟨0, A.compLayerCtl 0, 3, 0xF, 0⟩, ⟨1, A.compLayerCtl 0, 3, 0xF, 0⟩, ⟨0, A.rastSyncCtl, 3, 0xF, 0⟩], commits := [⟨0, 8, 1, 1, 1⟩] }
def pendLate : State := { pend with rast := { pend.rast with frame := 0x123456789A, line := pend.rast.linesTotal - 1 } }
theorem test_commit : (after (exec (.commitGo 0 0) pend)).commits.map Commit.target = [1, 1, 1] := by decide +kernel
theorem test_commit_late : (after (exec (.commitGo 0 1) pendLate)).prf 0 A.rastCommitLateHi 31 16 = 1 := by decide +kernel
theorem witness_RegisterWritesAndCommits_go :
    (Served pend 0 A.rastCommit ∧ byCut pend 0 = true) ∧ (Served pendLate 0 A.rastCommit ∧ pendLate.rast.paused = false ∧ byCut pendLate 1 = false) ∧
    (let s := { pend with rast := { pend.rast with paused := true } }
     Served s 0 A.rastCommit ∧ s.rast.paused = true ∧ ∀ x ∈ s.commits, x.target ≠ s.rast.frame + 2) ∧
    (let s := { pend with rast := { pend.rast with paused := true }, commits := [⟨0, 8, 1, 1, 2⟩] }
     s.rast.paused = true ∧ s.commits.any (fun x => decide (x.target = s.rast.frame + 2)) = true) := by
  repeat' apply And.intro
  all_goals decide +kernel

def inFrame : State := { (d0.setPreg 0 A.hostFlush 77) with rast := { d0.rast with frame := 0x123456789A, line := 7 } }
/-- RAST_FRAME_LO captures the high word (R643). -/
theorem test_read_latch : (readValue (after (exec (.latchingRead 0 (BitVec.ofNat 24 A.rastFrameLo)) inFrame)) 0 A.rastFrameHi) = 0x12 := by decide +kernel
theorem test_read_none : smGet ([], false) (after (exec (.latchingRead 0 0x200006) inFrame)).answer 0 = ([0, 0, 0, 0], false) := by decide +kernel
theorem test_flush : smGet ([], false) (after (exec (.hostFlush 0) inFrame)).answer 0 = ([77, 0, 0, 0], false) := by decide +kernel
def stalled : State :=
  { d0 with acc := { d0.acc with stalled := [⟨1, A.sysSaveBase, some 5⟩, ⟨0, A.timeNowSLo, none⟩, ⟨2, A.sysSaveBase, some 5⟩] }, aon := { d0.aon with refLost := [1] } }
/-- A stalled read whose domain runs by now. -/
def stalled3 : State := { d0 with acc := { d0.acc with stalled := [⟨0, A.sysSaveBase, none⟩] } }
theorem witness_ReadsAndTimeouts :
    (ServedRead inFrame 0 A.rastSyncCtl ∧ latches A.rastSyncCtl = []) ∧ ServedRead inFrame 0 A.rastFrameLo ∧ ServedRead inFrame 0 A.hostFlush ∧ inFrame.bar2Q = [] ∧
    (let s := { inFrame with bar2Q := [(0, .read 0 64)] }
     ServedRead s 0 A.hostFlush ∧ s.bar2Q.any (fun e => decide (e.1 = 0)) = true) ∧ regRow? 0x1FF000 = none ∧
    (stalled.ports.contains 1 = true ∧ stalled.acc.stalled.find? (fun e => decide (e.port = 1)) = some ⟨1, A.sysSaveBase, some 5⟩ ∧
      (List.range 14).any (fun k => decide (stalled.way 1 A.sysSaveBase false = .stalled k)) = true) ∧
    (stalled.acc.stalled.find? (fun e => decide (e.port = 2)) = some ⟨2, A.sysSaveBase, some 5⟩ ∧ stalled.way 2 A.sysSaveBase false = .served) ∧
    (stalled3.acc.stalled.find? (fun e => decide (e.port = 0)) = some ⟨0, A.sysSaveBase, none⟩ ∧ stalled3.way 0 A.sysSaveBase true = .served) := by
  repeat' apply And.intro
  all_goals decide +kernel

/-- The queue of port 0 near its end, full, and with drops not yet told. -/
def eqEnd : State := ((d0.setPreg 0 A.hostEqTail 0x1003F).setPreg 0 A.hostEqHead 5).setPreg 0 A.hostEqBaseLo 0x40
def eqFull : State := (d0.setPreg 0 A.hostEqTail 4).setPreg 0 A.hostEqHead 5
def drops : State := { d0 with ev := { d0.ev with dropsSince := [(0, 3)] } }
def seen : State := { (d0.setReg (A.sysXingCnt 8) 0x7FFFE) with acc := { d0.acc with eqSeen := [(0, 5)], bootTold := [0] } }
def owned1 : State := d0.setSlot 2 { Slot.unused with st := .inUse, port := 1 }
/-- The last entry of a queue of 64 entries: the tail wraps and PHASE inverts (R556). -/
theorem test_event_wraps : (eqEnd.eqDeliver 0 0x0203 false 7 9 [0xAA]).1.prf 0 A.hostEqTail 16 0 = 0 ∧
    (eqEnd.eqDeliver 0 0x0203 false 7 9 [0xAA]).1.hostByte 0 (0x1000000000 + 0x40 + 63 * 32) = 3 := by decide +kernel
theorem test_event_dropped : ((eqFull.eqDeliver 0 0x0203 false 7 9 []).1.preg 0 A.hostEqDrop) = 1 := by decide +kernel
theorem test_fence_inc : (after (exec (.hostFenceInc 0 3) d0)).preg 0 (A.hostFence 3) = 1 := by decide +kernel
theorem test_merged : (after (exec (.mergedEvent 8 3 none) seen)).rf (A.sysXingCnt 8) 15 0 = 0xFFFF := by decide +kernel
theorem witness_EventQueues :
    (smGet 0 eqEnd.ev.dropsSince 0 = 0 ∧ eqEnd.eqOpen 0 = true ∧ eqEnd.prf 0 A.hostEqCtl 7 4 ≤ 10 ∧ eqEnd.prf 0 A.hostEqTail 15 0 < eqEnd.eqSize 0) ∧ eqFull.eqOpen 0 = false ∧
    ((d0.setPreg 0 0xF0000C 0).pcfg 0 |>.bme) = true ∧ (d0.setPreg 0 0xF0000C 0).prf 0 0xF0000C 0 0 = 0 ∧ d0.prf 0 0xF0000C 0 0 ≠ 0 ∧
    (Served seen 0 A.hostEqCtl ∧ smGet 0 seen.ev.dropsSince 0 = 0 ∧ fld (0xA1 : Word) 7 4 ≤ 10 ∧ seen.acc.bootTold.contains 0 = true ∧ 10 < fld (0xB0 : Word) 7 4) ∧
    (Served seen 0 A.hostEqHead) ∧ (smGet 0 drops.ev.dropsSince 0 ≠ 0 ∧ drops.eqOpen 0 = true) ∧
    (seen.ports.contains 0 = true ∧ seen.prf 0 A.hostEqTail 16 0 ≠ smGet 0x10000 seen.acc.eqSeen 0 ∧ d0.prf 0 A.hostEqTail 16 0 = smGet 0x10000 d0.acc.eqSeen 0) ∧
    Served d0 0 A.hostFenceInc ∧ (Served owned1 1 (A.chanSlotTail 2) ∧ (owned1.slot 2).port = 1 ∧ (owned1.slot 2).st ≠ .free) ∧ (Served owned1 0 (A.chanSlotTail 2)) ∧
    1 ≤ (1#16).toNat := by
  repeat' apply And.intro
  all_goals decide +kernel

end Sys2Proof.Tests

namespace Sys2Proof.Tests

/-! ### Channels, admission, the BAR2 window, copies -/

def arg (k v : Nat) (s : State) : State := s.setPreg 0 (A.hostCmdArg k) (BitVec.ofNat 32 v)
def slot (n : Nat) (x : Slot) (s : State) : State := s.setSlot n x
/-- A slot in use whose generation is 5. -/
def iu : Slot := { Slot.unused with st := .inUse, gen := 5 }
/-- A handle (R541): its port, slot and generation. -/
def hnd (p n g : Nat) : Nat := p * 2^30 + n * 2^20 + g
def h1 : Nat := hnd 0 1 5
def num4 (n v : Nat) : List Byte := leBytes n v
/-- Bytes put into user HBM. -/
def putAt (a : Nat) (bs : List Byte) (s : State) : State := { s with hbm := s.hbm.write (bs.zipIdx.map (fun b => (a + b.2, b.1, 0))) }
def passHead : List Byte := num4 2 0x9160 ++ num4 1 1 ++ num4 1 0 ++ num4 2 9 ++ num4 2 1 ++ num4 4 1000000 ++ num4 2 (pMin 1000000 0 - 256) ++ num4 1 1 ++ num4 1 0 ++ num4 8 (2^64-1)
/-- A sail plan image at 1000H with one passage image at 2000H. -/
def planAt (s : State) : State :=
  putAt 0x1000 (num4 2 0x9160 ++ num4 1 1 ++ num4 1 1 ++ num4 4 0 ++ num4 8 0x2000) (putAt 0x2000 passHead (putAt 0x2100 (num4 8 0x200 ++ num4 4 0)
    (putAt 0x2200 ((List.range 9).flatMap (fun _ => num4 4 0x4000)) s)))
/-- A fitting image at 1000H. -/
def fitI (s : State) : State :=
  putAt 0x1000 (num4 2 0x9160 ++ num4 1 0x81 ++ num4 1 1 ++ num4 4 0 ++ num4 8 (2^64-1)) (putAt 0x101C (num4 1 1 ++ num4 1 0 ++ num4 2 1) (putAt 0x1040 (num4 4 0x200) 
   (putAt 0x1200 (num4 8 1 ++ num4 2 0 ++ num4 2 100 ++ num4 4 0 ++ num4 8 0x300 ++ num4 4 0) (putAt 0x1300 (num4 4 0x4000) s))))

def c0 : State := slot 0 iu d0
def c2 : State := slot 0 iu (arg 3 0x1F5 (arg 2 7 (arg 1 0x40 (arg 0 2 d0))))
theorem test_create : (after (exec (.create 0) c0)).preg 0 A.hostCmdRes = BitVec.ofNat 32 (hnd 0 1 0) := by decide +kernel
theorem test_create_copy : ((after (exec (.create 0) c2)).slot 1).ringBase = 0x700000040 ∧ ((after (exec (.create 0) c2)).slot 1).pair = some 15 := by decide +kernel
theorem witness_Channels_create :
    (Served (arg 0 3 d0) 0 A.hostCmdGo ∧ createArgs (arg 0 3 d0) 0 = false) ∧
    (Served (d0.setReg (A.hostPartQuota 0) 0) 0 A.hostCmdGo ∧ createArgs (d0.setReg (A.hostPartQuota 0) 0) 0 = true ∧
      (d0.setReg (A.hostPartQuota 0) 0).rf (A.hostPartQuota 0) 10 0 ≤ heldBy (d0.setReg (A.hostPartQuota 0) 0) 0) ∧
    (Served c2 0 A.hostCmdGo ∧ createArgs c2 0 = true ∧ freeSlot c2 = some 1 ∧ heldBy c2 0 < c2.rf (A.hostPartQuota 0) 10 0 ∧ cmdArg c2 0 0 = 2) ∧
    (freeSlot (arg 0 1 c0) = some 1 ∧ createArgs (arg 0 1 c0) 0 = true ∧ freeJob (arg 0 1 c0) ≠ none ∧ cmdArg (arg 0 1 c0) 0 0 = 1) := by
  repeat' apply And.intro
  all_goals decide +kernel

def pass0 : List Passage := planPassages (planAt d0) 0x1000
def queued (s : State) : State := { s with adm := [⟨1, h1, 0, 0, false⟩, ⟨2, h1, 0, 0, false⟩] }
def full (s : State) : State := { s with adm := List.replicate 16 ⟨2, 9, 0, 0, false⟩ }
def loadedCh : State := queued (slot 1 { iu with passages := pass0, admitSt := 2 } (arg 0 h1 d0))
def empty1 : State := queued (slot 1 iu (arg 0 h1 d0))
def adm1 : State := arg 1 0x2000 (slot 1 { iu with admitSt := 2 } (arg 0 h1 d0))
def quar (p : Nat) : State := slot 1 { Slot.unused with st := .quarantined, gen := 0xFFFFF, port := p } (arg 0 1 d0)
def copyErr : State := slot 1 { iu with kind := .copy, st := .error } (arg 0 h1 d0)
def other : State := slot 1 { iu with port := 1 } (arg 0 (hnd 1 1 5) d0)
theorem test_destroy : ((after (exec (.destroy 0 0) loadedCh)).slot 1).st = .closing ∧ (after (exec (.destroy 0 0) loadedCh)).adm.map AdmReq.dropped = [true, false] := by decide +kernel
theorem test_unquar : ((after (exec (.unquar 0) (quar 0))).slot 1).st = .free ∧ ((after (exec (.unquar 0) (quar 0))).slot 1).gen = 0 := by decide +kernel
theorem witness_Channels_commands :
    (Served loadedCh 0 A.hostCmdGo ∧ OwnHandle loadedCh 0 ∧ (loadedCh.slot (argSlot loadedCh 0)).st = .inUse ∧ (loadedCh.slot (argSlot loadedCh 0)).kind ≠ .copy ∧
      (loadedCh.slot (argSlot loadedCh 0)).wdraw = [] ∧ (loadedCh.slot (argSlot loadedCh 0)).passages ≠ []) ∧
    (Served empty1 0 A.hostCmdGo ∧ OwnHandle empty1 0 ∧ (empty1.slot (argSlot empty1 0)).passages = [] ∧ (empty1.slot (argSlot empty1 0)).fit = none ∧
      empty1.adm.any (fun q => decide (q.slot = argSlot empty1 0 ∧ q.handle = empty1.handle (argSlot empty1 0))) = true) ∧
    (Served adm1 0 A.hostCmdGo ∧ OwnHandle adm1 0 ∧ (cmdArg adm1 0 1).toNat % 4096 = 0 ∧ (adm1.adm.filter (fun q => decide (q.port = 0))).length < 16) ∧
    (OwnHandle (full adm1) 0 ∧ 16 ≤ ((full adm1).adm.filter (fun q => decide (q.port = 0))).length) ∧
    (Served (quar 0) 0 A.hostCmdGo ∧ fld (cmdArg (quar 0) 0 0) 31 10 = 0 ∧ ((quar 0).slot (fld (cmdArg (quar 0) 0 0) 9 0)).st = .quarantined ∧ ((quar 0).slot 1).port = 0 ∧ ((quar 2).slot 1).port ≠ 0 ∧
      (d0.slot (fld (cmdArg d0 0 0) 9 0)).st ≠ .quarantined) ∧
    (Served copyErr 0 A.hostCmdGo ∧ OwnHandle copyErr 0 ∧ (copyErr.slot (argSlot copyErr 0)).kind = .copy ∧ (copyErr.slot (argSlot copyErr 0)).st = .error) ∧
    (validHandle d0 (cmdArg d0 0 0) = false ∧ validHandle other (cmdArg other 0 0) = true ∧ hPort (cmdArg other 0 0) ≠ 0) := by
  repeat' apply And.intro
  all_goals decide +kernel

def q1 : AdmReq := ⟨1, h1, 0, 0x1000, false⟩
def admP : State := { slot 1 iu (planAt d0) with adm := [q1, ⟨2, h1, 0, 0, false⟩] }
def admD : State := { admP with adm := [{ q1 with dropped := true }] }
def admF : State := { slot 1 { iu with job := some 1, kind := .background } ((fitI d0).setReg (A.chanFitStep 1) 5) with adm := [q1] }
def admR : State := { slot 1 iu d0 with adm := [q1] }
def zero1 : Zeroing := ⟨5, 6, 0x10, 1, true, [⟨64, 8, false⟩]⟩
/-- An open slack interval with n cycles left, from cycle 0 on. -/
def slack (n : Nat) (s : State) : State := { s with slk := { s.slk with isOpen := true, left := n, fin := n } }
def dirty : State := slack 500 { ((d0.setS 0 4 7).setS 1 4 8) with zeroQ := [zero1] }
theorem test_zeroing : (after (exec .resourceZeroing dirty)).sReg 0 4 = 0 ∧ (after (exec .resourceZeroing dirty)).sReg 1 4 = 8 := by decide +kernel
theorem witness_Admissions_plan_open : admitOpen admP q1 = true ∧ (admP.slot q1.slot).job = none := by decide +kernel
theorem witness_Admissions_plan : planRefused admP q1.port q1.slot q1.addr = none := by decide +kernel
theorem witness_Admissions_plan_clean : needsZeroed admP ((planPassages admP q1.addr).map (declOf admP)) = false := by decide +kernel
theorem witness_Admissions_fit_open : admitOpen admF q1 = true ∧ (admF.slot q1.slot).job = some 1 := by decide +kernel
theorem witness_Admissions_fit : fitRefused admF q1.port q1.slot 1 q1.addr = none := by decide +kernel
theorem witness_Admissions_fit_clean : needsZeroed admF [declOfFit admF 1 (readFit admF q1.addr)] = false := by decide +kernel
theorem witness_Admissions_refused : admitOpen admR q1 = true ∧ (admR.slot q1.slot).job = none ∧ planRefused admR q1.port q1.slot q1.addr ≠ none := by
  repeat' apply And.intro
  all_goals decide +kernel
theorem test_plan_copy : ((after (exec (.planCopy 1) (slack 9 loadedCh))).slot 1).loaded = true ∧ ((after (exec (.planCopy 1) loadedCh)).slot 1).loaded = false := by decide +kernel
theorem witness_Admissions_waits :
    let s := { admP with zeroQ := [⟨1, 2 ^ 64 - 1, 2 ^ 32 - 1, 255, true, [⟨0, 0x600000, false⟩]⟩] }
    admitOpen s q1 = true ∧ (s.slot q1.slot).job = none := by decide +kernel
theorem witness_PlanCopyAndZeroing :
    (((slack 9 loadedCh).slot 1).passages ≠ [] ∧ ((slack 9 loadedCh).slot 1).loaded = false ∧ (slack 9 loadedCh).slackOpen = true ∧ loadedCh.slackOpen = false) ∧
    ((reachOffer dirty).zeroQ = [zero1] ∧ (reachOffer dirty).slackOpen = true ∧ (reachOffer dirty).fab.loft.wf = true ∧ (reachOffer dirty).fab.loft.marks = [] ∧
      (reachOffer dirty).fab.loft.flips = [] ∧ (∀ r ∈ zero1.ranges, r.off + r.len ≤ 2 ^ 23)) ∧ (reachOffer d0).zeroQ = [] := by
  repeat' apply And.intro
  all_goals decide +kernel

def dat : State := { putAt 4096 ((List.range 16).map (fun i => BitVec.ofNat 8 (i + 1))) d0 with slk := { d0.slk with win := true, winLen := 400 } }
/-- No stack window is open. -/
def datShut : State := { dat with slk := d0.slk }
def dat0 : State := dat.setReg (A.hostPartSize 0) 0
/-- Offset 1 of BAR2 with the window at 0 reads the second byte on (R533). -/
theorem test_bar2_read : (smGet ([], false) (after (exec (.bar2Read 0 4097 3) dat)).answer 0).1 = [2, 3, 4] := by decide +kernel
theorem test_bar2_write : (after (exec (.bar2Write 0 4096 [some 9, none, some 8] false) dat)).imgNum 4096 3 = 0x080209 := by decide +kernel
/-- Without a stack window the access waits. -/
theorem test_bar2_waits : (after (exec (.bar2Read 0 4097 3) datShut)).bar2Q = [(0, .read 4097 3)] := by decide +kernel
theorem witness_Bar2Window :
    (dat.ports.contains 0 = true ∧ bar2Served dat 0 = true ∧ inPart dat 0 (bar2Addr dat 0 4097) 3 = true ∧ dat.hbm.marks = [] ∧ dat.hbm.flips = [] ∧ Bar2Now dat (.read 4097 3) ∧
      Bar2Now dat (.write [(4097, 9, 0)])) ∧ Bar2Waits datShut ∧ ({ dat with bar2Q := [(0, .flush)] } : State).bar2Q = [(0, .flush)] ∧
    (dat0.ports.contains 0 = true ∧ bar2Served dat0 0 = true ∧ inPart dat0 0 (bar2Addr dat0 0 4097) 3 = false) := by
  repeat' apply And.intro
  all_goals decide +kernel

def desc (h d len fl fence : Nat) : List Byte := num4 8 h ++ num4 5 d ++ num4 3 0 ++ num4 4 len ++ num4 2 fl ++ num4 2 fence ++ num4 4 1 ++ num4 4 0x77
def hput (a : Nat) (bs : List Byte) (s : State) : State := s.hostWrite 0 a bs
def copyCh (run : Option CopyRun) : Slot := { iu with kind := .copy, ringBase := 0x100, ringSize := 64, head := 63, tail := 2, run := run }
/-- A stack window that gives n cycles. -/
def win (n : Nat) (s : State) : State := { s with slk := { s.slk with win := true, winLen := n } }
def dIn : List Byte := desc 0x2000 0x3000 128 0 0x13
def dOut : List Byte := desc 0x2000 0x3000 8192 1 0x13
def src (s : State) : State := hput 0x2000 ((List.range 128).map (fun i => BitVec.ofNat 8 (i + 1))) s
def ring (d : List Byte) : State := slot 1 (copyCh none) (hput (0x100 + 32 * 63) d d0)
def descOf (s : State) : List Byte := (List.range 32).map (fun i => s.hostByte (s.slot 1).port ((s.slot 1).ringBase + 32 * (s.slot 1).head + i))
def inRun (m : Nat) : State := win 3000 (slot 1 (copyCh (some ⟨dIn, m⟩)) d0)
def dBig : List Byte := desc 0x2000 0x3000 8192 0 0x13
def inShort : State := win 41 (slot 1 (copyCh (some ⟨dBig, 0⟩)) d0)
def outRun : State := win 41 (slot 1 (copyCh (some ⟨dOut, 1⟩)) (putAt 0x3040 [7, 8, 9] d0))
theorem test_copy_in : (after (exec (.copyBatch .data) (src (inRun 1)))).imgNum 0x3040 4 = 0x44434241 ∧ ((after (exec (.copyBatch .data) (src (inRun 1)))).slot 1).head = 0 := by decide +kernel
def outLast : State := win 41 (slot 1 (copyCh (some ⟨desc 0x2000 0x3000 192 1 0x13, 2⟩)) (putAt 0x3080 [7, 8, 9] d0))
theorem test_copy_out : (after (exec (.copyBatch .data) outLast)).hostByte 0 0x2081 = 8 := by decide +kernel
theorem witness_CopyChannels :
    (((ring dIn).slot 1).st = .inUse ∧ ((ring dIn).slot 1).kind = .copy ∧ ((ring dIn).slot 1).run = none ∧ ((ring dIn).slot 1).head ≠ ((ring dIn).slot 1).tail ∧ (ring dIn).rast.paused = false ∧
      hostReached (ring dIn) ((ring dIn).slot 1).port = true ∧ descValid (ring dIn) 0 (descOf (ring dIn)) = true ∧ descReady (ring dIn) (descOf (ring dIn)) = true) ∧
    (descValid (ring (desc 0x2000 0x3000 128 0 0x800)) 0 (descOf (ring (desc 0x2000 0x3000 128 0 0x800))) = true ∧ descReady (ring (desc 0x2000 0x3000 128 0 0x800)) (descOf (ring (desc 0x2000 0x3000 128 0 0x800))) = false) ∧
    descValid (ring (desc 0x2000 0x3000 127 0 0)) 0 (descOf (ring (desc 0x2000 0x3000 127 0 0))) = false ∧
    ((inRun 1).rast.paused = false ∧ copyOrder (inRun 1) = [1] ∧ ((inRun 1).slot 1).run = some ⟨dIn, 1⟩ ∧ ((inRun 1).slot 1).pair = none ∧ descOut dIn = false ∧ descLoft dIn = false ∧
      descLen dIn / 64 ≤ 1 + batchLen (inRun 1) ⟨dIn, 1⟩ ∧ bitOf (descNum dIn 0x16 2) 4 = true ∧ reachOffer (inRun 1) = inRun 1) ∧
    (let s := slack 3 (slot 1 (copyCh (some ⟨dIn, 0⟩)) d0)
     (reachOffer s).rast.paused = false ∧ copyOrder (reachOffer s) = [] ∧ copyWaits (reachOffer s) = true ∧ (reachOffer s).slk.isOpen = true) ∧
    (copyOrder inShort = [1] ∧ 0 + batchLen inShort ⟨dBig, 0⟩ < descLen dBig / 64) ∧
    (outRun.rast.paused = false ∧ copyOrder outRun = [1] ∧ (outRun.slot 1).run = some ⟨dOut, 1⟩ ∧ descOut dOut = true ∧ descLoft dOut = false ∧ (outRun.pcfg 0).bme = true ∧ outRun.hbm.marks = [] ∧
      outRun.hbm.flips = [] ∧ 1 + batchLen outRun ⟨dOut, 1⟩ < descLen dOut / 64) := by
  repeat' apply And.intro
  all_goals decide +kernel

end Sys2Proof.Tests

namespace Sys2Proof.Tests

/-! ### Clears, pause, save and load -/

/-- Ports 0 and 1, the display-owning port being 0; counters that count; spar 1 absent. -/
def counted : State := { (((d0.setReg A.hbmCeCnt 5).setReg A.pwrCnt 0x30004).setReg (A.sparSat 2) 7) with fab := { d0.fab with map := [(1, 0x7F)] } }
theorem test_hbm_clear : (after (exec (.hbmClrCe 0) counted)).reg A.hbmCeCnt = 0 := by decide +kernel
theorem test_therm_clear : (after (exec (.pwrClrTherm 0) counted)).reg A.pwrCnt = 4 := by decide +kernel
theorem witness_CounterClears :
    ([A.hbmCntClr, A.loftCntClr, A.sparCntClr 1, A.sparCntClr 2, A.pwrCntClr, A.linkStatClr].all (fun a => decide (Served counted 0 a ∧ Served counted 1 a)) = true) ∧
    0 = counted.owner ∧ 1 ≠ counted.owner ∧ counted.absent 1 = true ∧ counted.absent 2 = false := by
  repeat' apply And.intro
  all_goals decide +kernel

def inPause (n : Nat) (s : State) : State := let t := s.setPauseState n; { t with rast := { t.rast with paused := true } }
/-- A part in state 5 whose reference is in its window. -/
def resuming : State := let t := inPause 5 d0; (t.setRf A.rastSyncStat 6 4 4).setSync { t.rast.sync with fsetDone := true }
/-- An image without sections at user HBM 0, with a change of the byte at one place. -/
def image (bad : Bool) : State :=
  let s := (inPause 4 d0)
  let body := num4 2 0x9160 ++ num4 1 0x82 ++ num4 1 (s.bitClass % 16) ++ num4 6 77 ++ num4 4 (admittedCrc s) ++ num4 8 (presentMask s) ++ List.replicate 42 0
  putAt 0 (body ++ num4 4 ((crc32c body).toNat + b2n bad)) s
theorem test_load_error : (after (exec .loadDone (image true))).rf A.sysPauseCtl 19 16 = 3 := by decide +kernel
theorem test_pause : (after (exec (.pause 0 3) d0)).pauseState = 1 ∧ (after (exec (.pause 0 3) d0)).rast.pauseAt = some 1 := by decide +kernel
theorem witness_PauseAndResume_requests :
    (Served d0 0 A.sysPauseCtl ∧ Served d0 1 A.sysPauseCtl ∧ 0 = d0.owner ∧ 1 ≠ d0.owner ∧ d0.pauseState = 0) ∧
    (Served (inPause 2 d0) 0 A.sysPauseCtl ∧ 0 = (inPause 2 d0).owner ∧ (inPause 2 d0).pauseState = 2) := by
  repeat' apply And.intro
  all_goals decide +kernel
theorem witness_PauseAndResume_images :
    ((inPause 3 d0).pauseState = 3 ∧ (image true).pauseState = 4 ∧ loadError (image true) 0 ≠ 0 ∧ (image false).pauseState = 4 ∧ loadError (image false) 0 = 0 ∧ (image true).rf A.sysSaveBase 22 0 = 0) ∧
    (resumeReady resuming = true ∧ resuming.rast.sync.fsetDone = true ∧ resumeReady d0 = false) := by
  repeat' apply And.intro
  all_goals decide +kernel

/-! ### Records, logs, background work and fitting jobs -/

def frec : FrameRec := ⟨5, 0x12, 4, 3, 2, 1, 8, 1234567, 0x1122334455667788, none⟩
def withDone (e : Option (BitVec 64)) (s : State) : State := { s with rcd := { s.rcd with done := [{ frec with expect := e }, frec] } }
def recOn : State := win 400 <| ((((withDone (some 0x1122334455667788) ready).setReg A.logRrecCtl 1).setReg A.logRrecWptr 130).setReg A.logRrecBase 2).setReg A.logRrecSize 1
def recDiff : State := win 400 (withDone (some 2) d0)
/-- A window that is too short for a record. -/
def recShort : State := win 39 recOn
def replayOff : State := (ready.setReg A.logRplyCtl 1).setReg A.logRplyRptr 200
def replayOn : State := putAt 0 ((List.range 32).map (fun i => BitVec.ofNat 8 (i * 7 + 1))) (ready.setReg A.logRplyCtl 1)
/-- The first codeword of the record is marked. -/
def replayBad : State := { ready.setReg A.logRplyCtl 1 with hbm := { ready.hbm with marks := [(1, 1)] } }
def logged : State := win 400 <| (ready.post [0] 0x0701 [(1, 5)]).post [0] 0x0301 [(1, 7)]
/-- The ring has 128 records: record 130 stands in place 2 (R336). -/
theorem test_record_deferred : (after (exec .frameRecordWrite recShort)).slk.deferTel = 1 ∧ (after (exec .frameRecordWrite recShort)).rcd.done.length = 2 := by decide +kernel
theorem test_record : (after (exec .frameRecordWrite recOn)).imgNum (8192 + 64) 7 = 0x12 * 2 ^ 48 + 5 := by decide +kernel
theorem test_record_differs : (smGet LogEntry.blank (after (exec .frameRecordWrite recDiff)).ev.box (recDiff.ev.seq % 4096)).code = 0x0404 := by decide +kernel
theorem test_black_box : (after (exec .blackBoxCopy logged)).imgNum (0x600000000 + 64 * logged.ev.seq - 128 ) 4 = logged.ev.seq - 2 := by decide +kernel
theorem witness_RecordKeeping_records :
    (recOn.rf A.logRrecCtl 0 0 = 1 ∧ 4096 * recOn.rf A.logRrecBase 22 0 + 32 * 2 + 32 ≤ userHbm ∧ Sound recOn.hbm) ∧
    ((withDone none ready).rf A.logRrecCtl 0 0 = 0 ∧ (withDone none ready).slk.win = false) ∧ (recOn.slk.win = true ∧ recOn.rast.paused = false ∧ frec.frame + 1 ≠ recOn.rast.frame ∧
      (recOn.slk.playAll [(8192 + 64) / 64]).2 = true ∧ (recShort.slk.playAll [(8192 + 64) / 64]).2 = false ∧ (recDiff.slk.playAll [0]).2 = true) ∧ (recDiff.rf A.logRrecCtl 0 0 = 0 ∧ (2#64) ≠ frec.sig) ∧ ready.rcd.done = [] ∧
    (replayNext replayOff = true ∧ max 1 (fld (replayOff.dueReg A.logRplySize) 22 0) * 128 ≤ 200 ∧ replayOff.rf A.logRplyCtl 0 0 = 1 ∧ replayOff.reg A.logRplyRptr = 200) ∧
    (replayNext replayOn = true ∧ (List.range 32).all (fun i => decide ((replayOn.hbm.fetch i).2 = 0)) = true) ∧
    (replayNext replayBad = true ∧ (List.range 32).any (fun i => decide ((replayBad.hbm.fetch i).2 ≠ 0)) = true) ∧ replayNext ready = false ∧
    ((logged.ev.seq + 2 ^ 32 - (logged.reg A.logHlogWptr).toNat) % 2 ^ 32 ≠ 0 ∧ Sound logged.hbm ∧ logged.slk.win = true ∧
      (logged.slk.playAll [0x600000000 / 64 + (logged.ev.seq - 2)]).2 = true) ∧ (ready.ev.seq + 2 ^ 32 - (ready.reg A.logHlogWptr).toNat) % 2 ^ 32 = 0 := by
  repeat' apply And.intro
  all_goals decide +kernel
def exportSt (v : Word) (s : State) : State := (((s.setReg A.logExpAddrLo 0x1040).setReg A.logExpAddrHi 2).setReg A.logExpIdx 0xFFFFF).setReg A.logExpCtl v
def exporting : State :=
  putAt (0x600000000 + 64 * 0xFFFFF) [7, 8] (putAt 0x600000000 [9] (exportSt 0x80000002 { d0 with slk := { d0.slk with win := true, winLen := 400 } }))
def exportShut : State := { exporting with slk := d0.slk }
def noBme : State := { exporting with cfg := [] }
/-- After the last entry of the event log comes the first (R609). -/
theorem test_export : (after (exec .logExportDone exporting)).hostByte 0 (0x200001040 + 1) = 8 ∧ (after (exec .logExportDone exporting)).hostByte 0 (0x200001040 + 64) = 9 := by decide +kernel
theorem witness_RecordKeeping_export :
    (Served d0 0 A.logExpCtl ∧ 0 = d0.owner ∧ Served d0 1 A.logExpCtl ∧ 1 ≠ d0.owner ∧ d0.rf A.logExpCtl 31 31 = 0 ∧ (d0.pcfg 0).bme = true) ∧
    (Served { d0 with cfg := [] } 0 A.logExpCtl ∧ (PortCfg.reset).bme = false) ∧
    (exporting.rf A.logExpCtl 31 31 = 1 ∧ (exporting.pcfg exporting.acc.exporter).bme = true ∧ exporting.hbm.marks = [] ∧ exporting.hbm.flips = [] ∧ exporting.rf A.logExpCtl 20 0 ≤ 1048576 ∧
      exporting.slk.win = true ∧ exporting.rast.paused = false ∧ telemetryWaits exporting = false) ∧
    (exportShut.rf A.logExpCtl 31 31 = 1 ∧ (exportShut.pcfg exportShut.acc.exporter).bme = true ∧ exportShut.stage ≠ 0xE ∧ exportShut.slk.win = false) ∧
    (noBme.rf A.logExpCtl 31 31 = 1 ∧ (noBme.pcfg noBme.acc.exporter).bme = false) := by
  repeat' apply And.intro
  all_goals decide +kernel

def scrubs (h l : Nat) (s : State) : State := (s.setReg A.hbmScrubCtl (BitVec.ofNat 32 h)).setReg A.loftScrubCtl (BitVec.ofNat 32 l)
/-- A raster of 50 lines of 8000 RU, 40 of them active, at a line. -/
def atRow (l : Nat) (s : State) : State := { s with rast := { s.rast with linesTotal := 50, linesActive := 40, linePeriod := 8000, line := l, tNum := 8000, tDen := 1 } }
/-- Only spars 0 and 1 exist. -/
def two (s : State) : State := { s with fab := { s.fab with map := (List.range 62).map (fun n => (n + 2, 0x7F)) } }
def quiet3 : State := atRow 3 (scrubs 0x200 0x01000200 ready)
def light3 : State := two (atRow 3 (scrubs 0x201 0x01000201 ready))
def light41 : State := two (atRow 41 (scrubs 0x201 0x01000201 ready))
def heavy39 : State := atRow 39 (scrubs 0x4001 0x01000200 ready)
def openIv (n : Nat) (s : State) : State := { s with slk := { s.slk with isOpen := true, left := n } }
/-- Two bits flipped in one codeword and three in another. -/
def flipped : Mem := { (Mem.zero.write ((List.range 16).map (fun i => (i, BitVec.ofNat 8 (i + 9), 0)))) with flips := [(0, 5), (1, 7)] }
theorem test_scrub_moves : (after (exec (.stackWindow []) light3)).rf A.hbmScrubPos 28 0 = 2 := by decide +kernel
theorem test_self_test : (after (exec (.selfTestStep [1] 7) (openIv 300 light3))).slk.left = 60 ∧ (after (exec (.selfTestStep [1] 7) (openIv 300 light3))).fab.failed = [1] := by decide +kernel
theorem witness_BackgroundWork :
    ((flipped.read 0).kind ≠ .ue ∧ (flipped.read 0).kind ≠ .clean ∧ (flipped.read 0).marked ≤ 1) ∧ (({ flipped with flips := [(0, 7)] } : Mem).read 0).kind = .ue ∧
    (light41.rast.paused = false ∧ insideBlock light41 = true) ∧ (let s := inPause 2 light3
     s.rast.paused = true ∧ s.hbm.marks = [] ∧ s.repairQ = [] ∧ s.slk.refGroup < 4) ∧
    (insideBlock light3 = false ∧ (reachSlack light3).hbm.marks = [] ∧ (reachSlack light3).hbm.flips = [] ∧ (reachSlack light3).repairQ = [] ∧
      (reachSlack light3).rf A.hbmScrubCtl 0 0 = 1) ∧
    (insideBlock quiet3 = false ∧ quiet3.rf A.hbmScrubCtl 0 0 = 0) ∧ (insideBlock heavy39 = false ∧ opensBlock heavy39 = true) ∧
    (light3.rast.paused = false ∧ (reachSlack light3).fab.loft.marks = [] ∧ (reachSlack light3).fab.loft.flips = [] ∧ (reachSlack light3).slk.loftCe = []) ∧
    ((openIv 300 light3).slk.isOpen = true ∧ 240 ≤ (openIv 300 light3).slk.left ∧ light3.slk.isOpen = false ∧ (openIv 300 light3).absent 1 = false ∧ (openIv 300 light3).fab.failed.contains 1 = false) := by
  repeat' apply And.intro
  all_goals decide +kernel

def fitIm : FitImage :=
  { image := 0, reefMask := 15, steps := 0, sparMask := 3, slotUse := 0, sUse := 0x6, bUse := 0, aUse := 1, gen := true, nbund := 2, psteps := 2, wlim := List.replicate 8 (0, 0), reefOfs := [0, 0, 0, 0]
    ranges := [⟨0, 16, false⟩], setMap := [], table := List.replicate 4 [(false, false, 100), (false, true, 200)], sets := [] }
/-- Job 1 is that of the background channel of slot 1, of port 0. -/
def fitted : State := (two d0).setSlot 1 { Slot.unused with st := .inUse, kind := .background, port := 0, job := some 1, fit := some fitIm, loaded := true, live := true }
def fitRun : State := (fitted.setReg (A.chanFitCtl 1) 1).setReg (A.chanFitAvail 1) 3
def fitBound : State := let t := openIv 250 (fitRun.setJob 1 { Job.idle with inStep := true, next := 1 }); { t with fab := { t.fab with ended := [(0, 1), (3, 2)] } }
def fitShort : State := openIv 150 (fitRun.setJob 1 { Job.idle with inStep := true, next := 1 })
def fitEnd : State := fitRun.setJob 1 { Job.idle with inStep := true, next := 2, gatherOwn := [(8, 3)], consec := 4 }
theorem test_fit_bundle : (after (exec .fitBundle fitBound)).slk.left = 50 ∧ ((after (exec .fitBundle fitBound)).job 1).running = true := by decide +kernel
theorem test_fit_complete : (after (exec (.fitStepComplete 1) fitEnd)).reg (A.chanFitStep 1) = 1 := by decide +kernel
theorem witness_FittingJobs_steps :
    (fitRun.jobFit 1 = some fitIm ∧ (fitRun.job 1).inStep = false ∧ (fitRun.job 1).stopping = false ∧ fitRun.rast.paused = false ∧ fitRun.rf (A.chanFitCtl 1) 0 0 = 1 ∧
      0 < signedDiff 32 (fitRun.reg (A.chanFitAvail 1)).toNat (fitRun.fitStep 1) ∧ fitIm.steps = 0 ∧ fitRun.rf (A.chanFitCtl 1) 4 4 = 0 ∧ fitRun.rf (A.chanFitCtl 1) 2 2 = 0) ∧
    (fitted.rf (A.chanFitCtl 1) 0 0 = 0 ∧ fitted.jobFit 2 = none) ∧
    (let s := reachOffer fitBound
     fitBound.slk.isOpen = true ∧ fitBound.rast.paused = false ∧ loftBatchWaits s = false ∧ bgOrder s = [(1, 1)] ∧ s.jobFit 1 = some fitIm ∧
      (fitIm.rows s.rast.reef)[(s.job 1).next]? = some (false, true, 200) ∧ bitOf fitIm.reefMask s.rast.reef = true ∧ false = s.slk.block ∧ 200 ≤ s.slk.left) ∧
    (let s := reachOffer fitShort
     fitShort.slk.isOpen = true ∧ loftBatchWaits s = false ∧ bgOrder s = [(1, 1)] ∧ fitFits s 1 = false ∧ (s.job 1).consec + 1 ≠ 65536) ∧ fitRun.slk.isOpen = false ∧
    (let s := fitReachEnd 1 fitEnd
     s.jobFit 1 = some fitIm ∧ (s.job 1).inStep = true ∧ (s.job 1).running = false ∧ fitIm.nbund ≤ (s.job 1).next) ∧
    ((openIv 9 ready).slk.isOpen = true ∧ bgOrder (reachOffer (openIv 9 ready)) = []) ∧
    (Served fitRun 0 (A.chanFitAvail 1) ∧ (fitRun.jobSlot 1).isSome = true ∧ 0 = fitRun.jobPort 1 ∧ Served fitRun 1 (A.chanFitAvail 1) ∧ 1 ≠ fitRun.jobPort 1) := by
  repeat' apply And.intro
  all_goals decide +kernel
/-- In an open block interval. -/
def ckptAsked : State :=
  let s := slack 500 ((fitRun.setReg (A.chanFitCtl 1) 0x11).setReg (A.chanFitCkbase 1) 2)
  { s with slk := { s.slk with block := true } }
def ckptMade : State := after (exec (.fitCkptDone 1) ((ckptAsked.setS 0 1 7).setReg (A.chanFitStep 1) 6))
def ckptBack : State := (((ckptMade.setReg (A.chanFitCtl 1) 4).setReg (A.chanFitStep 1) 0).setS 0 3 5).setS 0 1 1
def ckptNone : State := ckptAsked.setReg (A.chanFitCtl 1) 4
theorem test_checkpoint : (after (exec (.fitCkptRestore 1) ckptBack)).sReg 0 1 = 7 ∧ (after (exec (.fitCkptRestore 1) ckptBack)).sReg 0 3 = 5 := by decide +kernel
theorem witness_FittingJobs_checkpoints :
    (Served ckptAsked 0 (A.chanFitCtl 1) ∧ Served ckptAsked 1 (A.chanFitCtl 1) ∧ (ckptAsked.jobSlot 1).isSome = true ∧ 0 = ckptAsked.jobPort 1 ∧ 1 ≠ ckptAsked.jobPort 1) ∧
    (ckptAsked.jobFit 1 = some fitIm ∧ ckptAsked.rf (A.chanFitCtl 1) 4 4 = 1 ∧ (ckptAsked.job 1).inStep = false ∧ ckptAsked.slk.isOpen = true ∧ ckptAsked.slk.block = true) ∧ fitRun.rf (A.chanFitCtl 1) 4 4 = 0 ∧
    (ckptNone.jobFit 1 = some fitIm ∧ ckptNone.rf (A.chanFitCtl 1) 2 2 = 1 ∧ (ckptNone.job 1).restored = false ∧ ckptNone.fitStep 1 = 0 ∧ ckptNone.slk.isOpen = true ∧ (ckptNone.job 1).inStep = false ∧
      ckptGood ckptNone 1 8192 fitIm = false) ∧
    (ckptBack.jobFit 1 = some fitIm ∧ ckptBack.rf (A.chanFitCtl 1) 2 2 = 1 ∧ (ckptBack.job 1).restored = false ∧ (ckptBack.job 1).inStep = false ∧ ckptBack.fitStep 1 = 0 ∧
      ckptBack.rf (A.chanFitCkbase 1) 22 0 = 2 ∧ ckptBack.slk.isOpen = true ∧ ckptGood ckptBack 1 8192 fitIm = true) := by
  repeat' apply And.intro
  all_goals decide +kernel

end Sys2Proof.Tests

namespace Sys2Proof.Tests

/-! ### Ports, domain groups, links -/

/-- Port 1 has channels, queued admissions, a stalled access, and its reference clock is lost. -/
def portUsed : State :=
  let s := ((d0.setSlot 2 { Slot.unused with st := .inUse, port := 1, gen := 4 }).setSlot 3 { Slot.unused with st := .error, port := 1, kind := .copy }).setReg A.sysXingWedged 0x3FFF
  { s.setPreg 1 A.hostFenceInc 0 |>.setPreg 1 0x100080 5 with
    adm := [⟨2, 5, 1, 0, false⟩, ⟨1023, 5, 0, 0, false⟩], acc := { s.acc with stalled := [⟨1, 8, none⟩, ⟨0, 8, none⟩] }, aon := { s.aon with refLost := [1] } }
theorem test_port_reset : ((after (exec (.portReset 1) portUsed)).slot 2).st = .closing ∧ (after (exec (.portReset 1) portUsed)).adm.length = 1 ∧
    (after (exec (.portReset 1) portUsed)).reg A.sysXingWedged = 0x3FDD := by decide +kernel
theorem witness_PortAndGroupResets_port :
    portUsed.ports.contains 1 = true ∧ (portUsed.slot 2).port = 1 ∧ (portUsed.slot 2).st = .inUse ∧ (portUsed.slot 3).st = .error ∧ (portUsed.slot 2).passages = [] ∧ (portUsed.slot 3).passages = [] := by
  repeat' apply And.intro
  all_goals decide +kernel
def outOn : State := d0.setRf A.rastOutCtl 0 0 1
def inReset (m : Nat) : State := d0.setReg A.sysDrst (BitVec.ofNat 32 m)
def timeOn : State := (d0.setRf A.timeStat 1 0 2).setRf A.timeStat 3 3 1
theorem test_domain_done : (after (exec .domainResetDone (inReset 0xF1F))).reg A.sysDrst = 0 := by decide +kernel
theorem test_domain_time : (after (exec (.drstTime 0) timeOn)).servo = 0 ∧ (after (exec (.drstTime 0) timeOn)).rf A.timeStat 3 3 = 0 := by decide +kernel
theorem witness_PortAndGroupResets_groups :
    (Served outOn 0 A.sysDrst ∧ 0 = outOn.owner ∧ Served outOn 1 A.sysDrst ∧ 1 ≠ outOn.owner ∧ outOn.reg A.sysDrst = 0 ∧ outOn.rf A.rastOutCtl 0 0 = 1 ∧ d0.rf A.rastOutCtl 0 0 = 0 ∧ outOn.ports.contains 1 = true) ∧
    (timeOn.servo ≠ 0 ∧ timeOn.rf A.sysDrst 3 3 = 0) ∧ (Served stopped 0 A.sysDrst ∧ stopped.rast.paused = true ∧ stopped.rf A.sysDrst 4 4 = 0 ∧ outOn.rast.paused = false) ∧
    ((inReset 0x1F).rf A.sysDrst 11 0 = 0x1F ∧ (inReset 4).rf A.sysDrst 11 0 = 4 ∧ (inReset 0x109).rf A.sysDrst 11 0 = 0x109 ∧ bitOf 0x1F 1 = true ∧ bitOf 0x109 1 = false ∧ bitOf 0x109 2 = false) ∧
    (Served (inReset 0x1F) 0 A.sysDrst ∧ [0, 1, 2, 3, 4].all (fun k => bitAt ((inReset 0x1F).reg A.sysDrst) k) = true) := by
  repeat' apply And.intro
  all_goals decide +kernel
def lostRef : State := { d0 with aon := { d0.aon with refLost := [1] } }
def booting : State := { State.reset with bifur := 2 }
theorem test_cfg_read : (smGet ([], false) (after (exec (.configurationRequest 0 (.read 0)) d0)).answer 0).1 = [0x7A, 0x1E, 0x60, 0x91] := by decide +kernel
theorem test_cfg_bar : ((after (exec (.configurationRequest 0 (.bar 0 0x12345678)) d0)).pcfg 0).bar0 = 0x12000000 := by decide +kernel
theorem witness_PortLinks :
    (d0.ports.contains 0 = true ∧ (4#4).toNat ≤ 6 ∧ d0.aon.refLost.contains 0 = false) ∧ 6 < (7#4).toNat ∧ (lostRef.ports.contains 1 = true ∧ lostRef.aon.refLost.contains 1 = true) ∧
    (booting.ports.contains 0 = true ∧ booting.aon.refLost.contains 0 = false ∧ bitAt (booting.reg A.sysDrst) 8 = false ∧ booting.stage ≠ 0xF ∧ ¬(booting.stage = 0xE ∧ 0 = 0)) ∧
    (bitAt (d0.reg A.sysDrst) 8 = false ∧ d0.stage = 0xF) ∧ ((d0.setRf A.safeBootStat 3 0 0xE).stage = 0xE ∧ bitAt ((d0.setRf A.safeBootStat 3 0 0xE).reg A.sysDrst) 8 = false) := by
  repeat' apply And.intro
  all_goals decide +kernel

/-! ### Resets, the boot, the environment, fuses and the debug port -/

def heldUp : State := { d0 with aon := { d0.aon with held := true } }
def tripped : State := d0.setRf A.safeEnv 10 10 1
def coming (c : Nat) : State := State.reset.setRf A.safeRstCause 3 0 c
def stack : State := { putAt 5 [3] (d0.setReg A.safeRstCause 0x70003) with pending := [.halyardTick] }
theorem test_warm_counts : (after (exec (.warmReset { boot0 with fuseUe := true }) stack)).rf A.safeRstCause 31 16 = 8 ∧ (after (exec (.warmReset { boot0 with fuseUe := true }) stack)).stage = 0xE := by decide +kernel
theorem test_supply : (after (exec .supplyFault stack)).hbm = stack.hbm ∧ (after (exec .vddAonFall stack)).hbm = Mem.zero := by decide +kernel
theorem witness_Resets :
    (d0.resetScope = 3 ∧ Owning d0 0 A.safeRst ∧ Served d0 1 A.safeRst ∧ 1 ≠ d0.owner ∧ d0.rf A.safeEnv 10 10 = 0 ∧ d0.aon.held = false) ∧
    (2 ≤ (coming 2).resetScope ∧ (coming 2).resetScope ≤ 2 ∧ (coming 1).resetScope ≤ 1) ∧ (tripped.rf A.safeEnv 10 10 = 1 ∧ tripped.resetScope = 3) ∧ heldUp.aon.held = true := by
  repeat' apply And.intro
  all_goals decide +kernel
/-- A fabric reset in progress: spar 0 and 3 are fused as defective, spar 2 has failed its self-test. -/
def inFabric : State :=
  let s := (((stopped.setReg A.safeRst 2).setReg (A.sparBound 1 2) 9).setReg (A.sparSat 3) 4)
  { s with aon := { s.aon with fuses := { s.aon.fuses with defect := 9 } }, fab := { s.fab with sreg := [(3, 4)] } }
def booted7 : State := (d0.setRf A.safeBootStat 3 0 7).setReg A.sysXingWedged 5
def recovering : State := d0.setRf A.safeBootStat 3 0 0xE
theorem test_fabric : (after (exec (.fabricResetDone false) inFabric)).fab.sreg = [] ∧ (after (exec (.fabricResetDone false) inFabric)).bReg 1 2 = 9 := by decide +kernel
theorem test_boot_done : (after (exec .bootDone booted7)).stage = 0xF := by decide +kernel
theorem witness_FabricAndBoot :
    (Served stopped 0 A.safeRst ∧ 0 = stopped.owner ∧ stopped.rast.paused = true ∧ Served d0 0 A.safeRst ∧ d0.rast.paused = false ∧ Served d0 1 A.safeRst ∧ 1 ≠ d0.owner ∧ 0 = d0.owner) ∧
    (inFabric.rf A.safeRst 1 1 = 1 ∧ inFabric.fab.failed = [] ∧ d0.rf A.safeRst 1 1 = 0) ∧ (booted7.stage = 7 ∧ d0.stage ≠ 7) ∧
    (Served recovering 0 A.safeBootStat ∧ 0 = recovering.owner ∧ recovering.stage = 0xE ∧ recovering.aon.fuseBad = false) := by
  repeat' apply And.intro
  all_goals decide +kernel
theorem witness_FabricAndBoot_canonical : inFabric.Canonical := canonical_of _ (by decide +kernel)
def optical : State := { ((d0.setRf (A.linkPortStat 1) 1 0 2).setRf (A.linkPortCtl 1) 0 0 1).setWport 1 { (d0.wport 1) with signal := true } with aon := { d0.aon with optics := true } }
def unlit : State := { optical with aon := { optical.aon with optics := false } }
theorem test_short : (after (exec (.envOutShort (some 2) true) outOn)).out.shorted = true ∧ (after (exec (.envOutShort (some 2) true) outOn)).reg A.safeEnv = 0x80 := by decide +kernel
theorem test_optics : (after (exec .opticsUnpowered optical)).portState 1 = 0 ∧ (after (exec .opticsPowered unlit)).portState 1 = 1 := by decide +kernel
theorem witness_EnvironmentFaults :
    d0.rf A.safeEnv 10 10 = 0 ∧ tripped.rf A.safeEnv 10 10 = 1 ∧ d0.rf A.safeEnv 0 0 = 0 ∧ (d0.setReg A.safeEnv 0x7FF).rf A.safeEnv 0 0 = 1 ∧
    [1, 3].all (fun k => decide (d0.rf A.safeEnv k k = 0 ∧ (d0.setReg A.safeEnv 0x7FF).rf A.safeEnv k k = 1)) = true ∧
    outOn.rf A.rastOutCtl 0 0 = 1 ∧ d0.rf A.rastOutCtl 0 0 = 0 ∧ [5, 6, 7, 8, 9].all (fun k => decide (outOn.rf A.safeEnv k k = 0)) = true ∧ outOn.out.lost = false ∧
    optical.aon.optics = true ∧ unlit.aon.optics = false := by
  repeat' apply And.intro
  all_goals decide +kernel
def fused (r v : Nat) : State := let s := d0.setRf A.safeBootStat 18 12 5; { s with aon := { s.aon with fuses := { s.aon.fuses with revoke := r, svn := v }, keySlot := 1 } }
def hasImage : State := (d0.setReg (A.hostPartSize 0) 1).setRf A.safeBootStat 8 8 1
def noImage : State := d0.setReg (A.hostPartSize 0) 0
theorem test_unarmed : (after (exec (.debugKill 0 0 true) d0)).reg A.safeCmdStat = 0x30 ∧ (after (exec (.debugKill 0 0 true) d0)).aon.fuses = d0.aon.fuses := by decide +kernel
theorem test_revoke : (after (exec (.revokeKey 0 2 0xA5 true) (fused 1 3))).aon.fuses.revoke = 5 := by decide +kernel
theorem test_raise : (after (exec (.raiseSvn 0 0xA5 true) (fused 0 3))).aon.fuses.svn = 5 := by decide +kernel
theorem witness_FuseCommands :
    (Owning d0 0 A.safeCmd ∧ (0#8) ≠ 0xA5#8 ∧ Served d0 1 A.safeCmd ∧ 1 ≠ d0.owner) ∧
    (Owning (fused 0 3) 0 A.safeCmd ∧ (fused 0 3).aon.fuses.svn < (fused 0 3).rf A.safeBootStat 18 12 ∧ (fused 0 5).rf A.safeBootStat 18 12 ≤ (fused 0 5).aon.fuses.svn) ∧
    ((fused 13 3).aon.keySlot = 1 ∧ popCount 4 (fused 13 3).aon.fuses.revoke = 3 ∧ bitOf (fused 13 3).aon.fuses.revoke 1 = false ∧ popCount 4 (fused 1 3).aon.fuses.revoke ≠ 3) ∧
    [1, 2, 3].all (fun op => (fuseBits op 0 (fused 0 3)).isSome) = true ∧ (Owning noImage 0 A.safeCmd ∧ updateImage 0 noImage = none) := by
  repeat' apply And.intro
  all_goals decide +kernel
theorem witness_FuseCommands_update : Owning hasImage 0 A.safeCmd ∧ (updateImage 0 hasImage).isSome = true ∧ hasImage.rf A.safeBootStat 8 8 = 1 := by
  repeat' apply And.intro
  all_goals decide +kernel
def killed : State := { d0.setReg A.safeDbg 1 with aon := { d0.aon with loaded := { d0.aon.loaded with debugKill := true } } }
def unlocked : State := d0.setReg A.safeDbg 1
def tapAt (st : TapState) (ir : TapInstr) : State := { d0 with aon := { d0.aon with tap := { d0.aon.tap with st := st, ir := ir, shift := [true, false, true] } } }
theorem test_debug_read : (after (exec (.debugPortAccess (.read (.reg 0xD00000) 4)) unlocked)).aon.dbg = leBytes 4 (unlocked.reg 0xD00000).toNat := by decide +kernel
theorem test_tap_shift : (after (exec (.jtagTapClock false true []) (tapAt .shiftDr .bypass))).aon.tap.shift = [false, true, true] := by decide +kernel
theorem witness_DebugPorts :
    (Owning d0 0 A.safeDbg ∧ d0.aon.loaded.debugKill = false ∧ d0.rf A.safeDbg 0 0 = 0) ∧ (Owning killed 0 A.safeDbg ∧ killed.aon.loaded.debugKill = true) ∧ (Owning unlocked 0 A.safeDbg ∧ unlocked.rf A.safeDbg 0 0 = 1 ∧ unlocked.aon.loaded.debugKill = false) ∧
    ((tapAt .captureDr .idcode).aon.loaded.debugKill = false ∧ (tapAt .captureDr .idcode).aon.tap.st = .captureDr ∧ (tapAt .captureDr .idcode).aon.tap.ir = .idcode ∧
      (tapAt .captureDr .bypass).aon.tap.ir = .bypass ∧ (tapAt .shiftDr .bypass).aon.tap.st = .shiftDr) := by
  repeat' apply And.intro
  all_goals decide +kernel

end Sys2Proof.Tests
end

/-! SUPPORT. Reads of registers, and accesses that time out: what a served read comes to, what events and errors leave of a port's registers, and what an access that
expires changes; from these, the statement on reads and timeouts. -/

namespace Sys2Proof.Machine

/-! ### What a read of a register comes to -/

/-- A port of the strapped mode reads the word that holds the offset (R532). -/
theorem exec_latchingRead {p : Fin 4} {a : BitVec 24} {s : State} (h : s.ports.contains p.val = true) :
    exec (.latchingRead p a) s = .next (hostRead p (a.toNat - a.toNat % 4) s) := fromPort_next h _

theorem exec_hostFlush {p : Fin 4} {s : State} (h : s.ports.contains p.val = true) :
    exec (.hostFlush p) s = .next (hostRead p A.hostFlush s) := fromPort_next h _

theorem hostRead_served {s : State} {p a : Nat} (h : s.way p a true = .served) : hostRead p a s = takeRead p a s := by
  unfold hostRead; rw [h]

/-- A read that no BAR2 access of its port holds back lands at once (R535). -/
theorem takeRead_lands {s : State} {p a : Nat} (h : a = A.hostFlush → ∀ e ∈ s.bar2Q, e.1 ≠ p) : takeRead p a s = landRead p a s := by
  unfold takeRead
  refine if_neg ?_
  rintro ⟨ha, hq⟩
  obtain ⟨e, he, hp⟩ := List.any_eq_true.mp hq
  exact h ha e he (by simpa using hp)

/-- A read of HOST_FLUSH behind accesses of its port waits with them (R535). -/
theorem takeRead_waits {s : State} {p : Nat} (h : ∃ e ∈ s.bar2Q, e.1 = p) : takeRead p A.hostFlush s = bar2Take p .flush s := by
  unfold takeRead
  refine if_pos ⟨rfl, List.any_eq_true.mpr ?_⟩
  obtain ⟨e, he, hp⟩ := h
  exact ⟨e, he, by simpa using hp⟩

/-- A word as a completion reaches its port alone. -/
theorem answerWord_answered (p : Nat) (v : Word) (s : State) : Answered s (answerWord p v s) p (leBytes 4 v.toNat) := by
  unfold answerWord answer
  constructor
  · rw [smGet_smPut_same]
    simp [Function.comp_def]
  · intro q hq
    rw [smGet_smPut_ne _ _ _ hq]

/-- A read that latches nothing changes nothing but the answer to its port. -/
theorem landRead_unlatched {a : Nat} (h : latches a = []) (p : Nat) (s : State) : landRead p a s = answerWord p (readValue s p a) s := by
  unfold landRead latchFor; rw [h]; rfl

/-! ### The value of a register -/

/-- Every port reads the registers that are no spar's, no job's and none of the SAFE and LOG blocks (R638). -/
theorem regReadable_common {a : Nat} (hs : sparOf a = none) (ha : a < 0xD00000) (hf : ¬(0x108000 ≤ a ∧ a < 0x108200)) (s : State) (p : Nat) :
    regReadable s p a = true := by
  unfold regReadable deadSpar
  rw [hs, if_neg hf]
  simp [ha]

/-- A register that is neither latched nor shadowed reads as it stands. -/
theorem readValue_now {s : State} {p a : Nat} {r : RegRow} (ha : a < 0xF00000) (hr : regRow? a = some r) (hread : regReadable s p a = true)
    (hl : isLatched a = false) (hs : r.shadow = 0) : readValue s p a = regNow s p a r := by
  unfold readValue viewed
  simp [Nat.not_le.mpr ha, hr, hread, hl, hs]

/-- A latched register reads as its group's first register captured it (R643). -/
theorem readValue_latched {s : State} {p a : Nat} {r : RegRow} (ha : a < 0xF00000) (hr : regRow? a = some r) (hread : regReadable s p a = true)
    (hl : isLatched a = true) : readValue s p a = smGet (regReset a) s.acc.latch (p * 2 ^ 24 + a) := by
  unfold readValue
  simp [Nat.not_le.mpr ha, hr, hread, hl]

/-- A reserved address reads 0 (R636). -/
theorem readValue_reserved {a : Nat} (ha : a < 0xF00000) (hr : regRow? a = none) (s : State) (p : Nat) : readValue s p a = 0 := by
  unfold readValue
  simp [Nat.not_le.mpr ha, hr]

/-- The row of a read-only word: one for the part or, with `perPort`, one for each port. -/
def readOnlyRow (a fields : Nat) (perPort : Bool) : RegRow := ⟨a, 4, 1, 4, 1, 0, 0, 0, 0, 0, fields, 0, perPort⟩

theorem regRow_hostFlush : regRow? A.hostFlush = some (readOnlyRow A.hostFlush 0xFFFFFFFF true) := by decide
theorem regRow_rastFrameLo : regRow? A.rastFrameLo = some (readOnlyRow A.rastFrameLo 0xFFFFFFFF false) := by decide
theorem regRow_rastFrameHi : regRow? A.rastFrameHi = some (readOnlyRow A.rastFrameHi 0xFFFF false) := by decide
theorem regRow_rastPos : regRow? A.rastPos = some (readOnlyRow A.rastPos 0x71FFF false) := by decide

/-- HOST_FLUSH gives the port's count of BAR2 writes (R535). -/
theorem readValue_hostFlush (s : State) (p : Nat) : readValue s p A.hostFlush = s.preg p A.hostFlush := by
  rw [readValue_now (by decide) regRow_hostFlush (regReadable_common (by decide) (by decide) (by decide) s p) (by decide) rfl]
  exact BitVec.and_allOnes

/-- RAST_FRAME_LO gives the low word of F (R11). -/
theorem readValue_rastFrameLo (s : State) (p : Nat) : readValue s p A.rastFrameLo = BitVec.ofNat 32 s.rast.frame.toNat := by
  rw [readValue_now (by decide) regRow_rastFrameLo (regReadable_common (by decide) (by decide) (by decide) s p) (by decide) rfl]
  exact BitVec.and_allOnes

/-! ### The latched frame number (R643) -/

theorem latches_rastFrameLo : latches A.rastFrameLo = [A.rastFrameHi, A.rastPos] := by decide

/-- A read of RAST_FRAME_LO captures the high word of F and the position in its port's copies. -/
theorem latchFor_rastFrameLo (p : Nat) (s : State) : latchFor p A.rastFrameLo s = { s with acc := { s.acc with
    latch := smPut 0 (smPut 0 s.acc.latch (p * 2 ^ 24 + A.rastFrameHi) (regNow s p A.rastFrameHi (readOnlyRow A.rastFrameHi 0xFFFF false)))
      (p * 2 ^ 24 + A.rastPos) (regNow s p A.rastPos (readOnlyRow A.rastPos 0x71FFF false)) } } := by
  unfold latchFor
  rw [latches_rastFrameLo]
  simp only [List.foldl_cons, List.foldl_nil, regRow_rastFrameHi, regRow_rastPos]
  rfl

/-- It changes nothing but these copies. -/
theorem latchFor_rastFrameLo_only (p : Nat) (s : State) : ∃ l, latchFor p A.rastFrameLo s = { s with acc := { s.acc with latch := l } } :=
  ⟨_, latchFor_rastFrameLo p s⟩

/-- The captured high word is the whole of F above its low word: F has 48 bits. -/
theorem regNow_rastFrameHi (s : State) (p : Nat) :
    regNow s p A.rastFrameHi (readOnlyRow A.rastFrameHi 0xFFFF false) = BitVec.ofNat 32 (s.rast.frame.toNat / 2 ^ 32) := by
  have hf : s.rast.frame.toNat < 2 ^ 48 := s.rast.frame.isLt
  change BitVec.ofNat 32 (s.rast.frame.toNat / 2 ^ 32) &&& BitVec.ofNat 32 (2 ^ 16 - 1) = _
  apply BitVec.eq_of_toNat_eq
  rw [BitVec.toNat_and, BitVec.toNat_ofNat, BitVec.toNat_ofNat, Nat.mod_eq_of_lt (by decide : 2 ^ 16 - 1 < 2 ^ 32), Nat.and_two_pow_sub_one_eq_mod]
  omega

/-- The captured position holds the line in its low 13 bits. -/
theorem fld_regNow_rastPos (s : State) (p : Nat) :
    fld (regNow s p A.rastPos (readOnlyRow A.rastPos 0x71FFF false)) 12 0 = s.rast.line % 2 ^ 13 := by
  change fld (BitVec.ofNat 32 (s.rast.line % 2 ^ 13 + s.rast.reef * 2 ^ 16 + b2n (decide (s.rast.linesTotal ≤ s.rast.line)) * 2 ^ 18) &&&
    BitVec.ofNat 32 0x71FFF) 12 0 = _
  have hm : 0x71FFF % 2 ^ 32 % 2 ^ 13 = 2 ^ 13 - 1 := by decide
  unfold fld
  rw [BitVec.toNat_and, BitVec.toNat_ofNat, BitVec.toNat_ofNat, pow_zero, Nat.div_one, Nat.and_mod_two_pow, hm, Nat.and_two_pow_sub_one_eq_mod]
  omega

theorem readValue_rastFrameHi (u : State) (p : Nat) : readValue u p A.rastFrameHi = smGet 0 u.acc.latch (p * 2 ^ 24 + A.rastFrameHi) :=
  readValue_latched (by decide) regRow_rastFrameHi (regReadable_common (by decide) (by decide) (by decide) u p) (by decide)

theorem readValue_rastPos (u : State) (p : Nat) : readValue u p A.rastPos = smGet 0 u.acc.latch (p * 2 ^ 24 + A.rastPos) :=
  readValue_latched (by decide) regRow_rastPos (regReadable_common (by decide) (by decide) (by decide) u p) (by decide)

/-! ### The four parts of the statement on reads -/

theorem latchingRead_unlatched (p : Fin 4) (a : BitVec 24) (s : State) (hs : ServedRead s p (a.toNat - a.toNat % 4))
    (hl : latches (a.toNat - a.toNat % 4) = []) (hq : a.toNat - a.toNat % 4 = A.hostFlush → ∀ e ∈ s.bar2Q, e.1 ≠ p.val) :
    exec (.latchingRead p a) s = .next (answerWord p (readValue s p (a.toNat - a.toNat % 4)) s) := by
  rw [exec_latchingRead hs.1, hostRead_served hs.2, takeRead_lands hq, landRead_unlatched hl]

theorem hostFlush_lands (p : Fin 4) (s : State) (hs : ServedRead s p A.hostFlush) (hq : ∀ e ∈ s.bar2Q, e.1 ≠ p.val) :
    exec (.hostFlush p) s = .next (answerWord p (s.preg p A.hostFlush) s) := by
  rw [exec_hostFlush hs.1, hostRead_served hs.2, takeRead_lands (fun _ => hq), landRead_unlatched (by decide), readValue_hostFlush]

theorem latchingRead_rastFrameLo (p : Fin 4) (s : State) (hs : ServedRead s p A.rastFrameLo) :
    exec (.latchingRead p (BitVec.ofNat 24 A.rastFrameLo)) s =
      .next (answerWord p (BitVec.ofNat 32 s.rast.frame.toNat) (latchFor p A.rastFrameLo s)) := by
  have ha : (BitVec.ofNat 24 A.rastFrameLo).toNat - (BitVec.ofNat 24 A.rastFrameLo).toNat % 4 = A.rastFrameLo := by decide
  have hn : A.rastFrameLo ≠ A.hostFlush := by decide
  rw [exec_latchingRead hs.1, ha, hostRead_served hs.2, takeRead_lands (fun h => absurd h hn)]
  simp only [landRead, readValue_rastFrameLo, latchFor_rastFrameLo]

/-- RAST_FRAME_HI while the port's copies stand as the read of RAST_FRAME_LO left them (R643). -/
theorem captured_rastFrameHi {p : Nat} {s u : State} (h : u.acc.latch = (latchFor p A.rastFrameLo s).acc.latch) :
    readValue u p A.rastFrameHi = BitVec.ofNat 32 (s.rast.frame.toNat / 2 ^ 32) := by
  have hne : p * 2 ^ 24 + A.rastFrameHi ≠ p * 2 ^ 24 + A.rastPos := fun e => absurd (Nat.add_left_cancel e) (by decide)
  simp only [latchFor_rastFrameLo] at h
  rw [readValue_rastFrameHi, h, smGet_smPut_ne _ _ _ hne, smGet_smPut_same, regNow_rastFrameHi]

/-- The line of RAST_POS while the port's copies stand as the read of RAST_FRAME_LO left them (R643). -/
theorem captured_rastPos {p : Nat} {s u : State} (h : u.acc.latch = (latchFor p A.rastFrameLo s).acc.latch) :
    fld (readValue u p A.rastPos) 12 0 = s.rast.line % 2 ^ 13 := by
  simp only [latchFor_rastFrameLo] at h
  rw [readValue_rastPos, h, smGet_smPut_same, fld_regNow_rastPos]

theorem registerReads : Sys2Proof.Stated.RegisterReads := by
  refine ⟨?_, ?_, ?_, ?_, fun s p a ha hr => readValue_reserved ha hr s p⟩
  · intro p a s x hs hl hq
    exact ⟨_, latchingRead_unlatched p a s hs hl hq, rfl, answerWord_answered _ _ _⟩
  · intro p s hs
    have hc : ∀ u : State, u.acc.latch = (latchFor p A.rastFrameLo s).acc.latch →
        readValue u p A.rastFrameHi = BitVec.ofNat 32 (s.rast.frame.toNat / 2 ^ 32) ∧ fld (readValue u p A.rastPos) 12 0 = s.rast.line % 2 ^ 13 :=
      fun u hu => ⟨captured_rastFrameHi hu, captured_rastPos hu⟩
    have he := latchingRead_rastFrameLo p s hs
    obtain ⟨l, hl⟩ := latchFor_rastFrameLo_only p s
    rw [hl] at hc he
    have ha := answerWord_answered p (BitVec.ofNat 32 s.rast.frame.toNat) { s with acc := { s.acc with latch := l } }
    rw [BitVec.toNat_ofNat] at ha
    exact ⟨_, he, ha, rfl, hc⟩
  · intro p s hs hq
    rw [exec_hostFlush hs.1, hostRead_served hs.2, takeRead_waits hq]
  · intro p s hs hq
    exact ⟨_, hostFlush_lands p s hs hq, rfl, answerWord_answered _ _ _⟩

/-! ### What events and errors leave of a port's registers -/

/-- The registers of a port that an event, or an error of the port, can change (R531, R539, R556). -/
def noticeRegs : List Nat := [A.hostErr, A.hostEqTail, A.hostEqDrop, 0xF01000]

/-- From s to t the ports' registers changed only as events and errors change them, and no bit of HOST_ERR was lost. -/
structure Noticed (s t : State) : Prop where
  kept : ∀ p a, a < 2 ^ 24 → a ∉ noticeRegs → t.preg p a = s.preg p a
  err : ∀ p b, bitAt (s.preg p A.hostErr) b = true → bitAt (t.preg p A.hostErr) b = true

theorem bitAt_eq_getLsbD (w : Word) (b : Nat) : bitAt w b = w.getLsbD b := by
  unfold bitAt BitVec.getLsbD
  rw [Nat.testBit_eq_decide_div_mod_eq]

theorem bitAt_or (v w : Word) (b : Nat) : bitAt (v ||| w) b = (bitAt v b || bitAt w b) := by
  simp only [bitAt_eq_getLsbD, BitVec.getLsbD_or]

theorem bitAt_twoPow {b : Nat} (h : b < 32) : bitAt (BitVec.ofNat 32 (2 ^ b)) b = true := by
  rw [bitAt_eq_getLsbD, BitVec.getLsbD_ofNat]
  simp [h]

theorem preg_of_pregs {s t : State} (h : t.pregs = s.pregs) (p a : Nat) : t.preg p a = s.preg p a := by unfold State.preg; rw [h]

theorem Noticed.of_pregs {s t : State} (h : t.pregs = s.pregs) : Noticed s t :=
  ⟨fun p a _ _ => preg_of_pregs h p a, fun p b hb => by rwa [preg_of_pregs h]⟩

theorem Noticed.trans {s t u : State} (h : Noticed s t) (g : Noticed t u) : Noticed s u :=
  ⟨fun p a ha hn => (g.kept p a ha hn).trans (h.kept p a ha hn), fun p b hb => g.err p b (h.err p b hb)⟩

theorem Noticed.ite {s x y : State} (c : Prop) [Decidable c] (hx : Noticed s x) (hy : Noticed s y) : Noticed s (if c then x else y) := by
  split
  · exact hx
  · exact hy

/-- A notice register is set; HOST_ERR, to a word that holds every bit it had. -/
theorem setPreg_noticed (s : State) (p a : Nat) (w : Word) (ha : a ∈ noticeRegs)
    (hw : a = A.hostErr → ∀ b, bitAt (s.preg p A.hostErr) b = true → bitAt w b = true) : Noticed s (s.setPreg p a w) := by
  have hlt : a < 2 ^ 24 := by fin_cases ha <;> decide
  constructor
  · intro q x hx hn
    rw [State.preg_setPreg _ _ _ _ _ _ hlt hx, if_neg]
    rintro ⟨-, rfl⟩
    exact hn ha
  · intro q b hb
    rw [State.preg_setPreg _ _ _ _ _ _ hlt (by decide)]
    split
    · next h => exact hw h.2.symm b (h.1 ▸ hb)
    · exact hb

theorem ev_noticed (s : State) (x : Events) : Noticed s { s with ev := x } := Noticed.of_pregs rfl

theorem hostWrite_noticed (s : State) (p a : Nat) (bs : List Byte) : Noticed s (s.hostWrite p a bs) := Noticed.of_pregs rfl

theorem w1cSet_noticed (s : State) (k : Nat) (w : Word) : Noticed s (s.w1cSet k w) := ev_noticed s _

theorem signal_noticed (s : State) (p v : Nat) : Noticed s (s.signal p v) :=
  Noticed.ite _ (hostWrite_noticed s p _ _) (setPreg_noticed s p 0xF01000 _ (by decide) (fun e => absurd e (by decide)))

theorem ev_preg (s : State) (x : Events) (p a : Nat) : ({ s with ev := x } : State).preg p a = s.preg p a := rfl

theorem w1cSet_preg (s : State) (k : Nat) (w : Word) (p a : Nat) : (s.w1cSet k w).preg p a = s.preg p a := by
  unfold State.w1cSet
  exact ev_preg s _ p a

theorem hostErr_noticed (s : State) (p b : Nat) : Noticed s (s.hostErr p b) := by
  have hw := w1cSet_noticed s (p * 2 ^ 24 + A.hostErr) (BitVec.ofNat 32 (2 ^ b))
  have hs := setPreg_noticed (s.w1cSet (p * 2 ^ 24 + A.hostErr) (BitVec.ofNat 32 (2 ^ b))) p A.hostErr
    (s.preg p A.hostErr ||| BitVec.ofNat 32 (2 ^ b)) (by decide) (fun _ i hi => by
      rw [w1cSet_preg] at hi
      rw [bitAt_or, hi, Bool.true_or])
  exact Noticed.ite _ hw ((hw.trans hs).trans (signal_noticed _ p 1))

/-- An error of a port stands in its HOST_ERR (R539). -/
theorem hostErr_bit (s : State) (p : Nat) {b : Nat} (hb : b < 32) : bitAt ((s.hostErr p b).preg p A.hostErr) b = true := by
  by_cases h : bitAt (s.preg p A.hostErr) b = true
  · exact (hostErr_noticed s p b).err p b h
  · have he : s.hostErr p b = ((s.w1cSet (p * 2 ^ 24 + A.hostErr) (BitVec.ofNat 32 (2 ^ b))).setPreg p A.hostErr
        (s.preg p A.hostErr ||| BitVec.ofNat 32 (2 ^ b))).signal p 1 := if_neg h
    rw [he]
    refine (signal_noticed _ p 1).err p b ?_
    rw [State.preg_setPreg _ _ _ _ _ _ (by decide) (by decide), if_pos ⟨rfl, rfl⟩, bitAt_or, bitAt_twoPow hb, Bool.or_true]

theorem eqPut_noticed (s : State) (p code : Nat) (m : Bool) (l c : Nat) (b : List Byte) : Noticed s (s.eqPut p code m l c b) :=
  (hostWrite_noticed s p _ _).trans (setPreg_noticed _ p A.hostEqTail _ (by decide) (fun e => absurd e (by decide)))

theorem eqFlush_noticed (s : State) (p : Nat) : Noticed s (s.eqFlush p) := by
  unfold State.eqFlush
  simp only
  split
  · exact (eqPut_noticed s p 0x0108 false s.rast.line 0 _).trans (ev_noticed _ _)
  · exact Noticed.of_pregs rfl

theorem eqDeliver_noticed (s : State) (p code : Nat) (m : Bool) (l c : Nat) (b : List Byte) : Noticed s (s.eqDeliver p code m l c b).1 := by
  have h := eqFlush_noticed s p
  unfold State.eqDeliver
  generalize s.eqFlush p = s0 at h ⊢
  have hite : ∀ (c : Prop) [Decidable c] (x : State) (b : Nat), Noticed s x → Noticed s (if c then x.hostErr p b else x) :=
    fun c _ x b hx => Noticed.ite c (hx.trans (hostErr_noticed x p b)) hx
  simp only
  split
  · exact h.trans (eqPut_noticed s0 p code m l c b)
  · refine Noticed.ite _ ?_ (Noticed.trans ?_ (hostErr_noticed _ p 7))
    all_goals exact hite _ _ 4 ((h.trans (setPreg_noticed s0 p A.hostEqDrop _ (by decide) (fun e => absurd e (by decide)))).trans (ev_noticed _ _))

theorem deliveries_noticed (ps : List Nat) (code l c : Nat) (b : List Byte) (acc : State × Bool × Bool) :
    Noticed acc.1 (ps.foldl (fun (acc : State × Bool × Bool) p =>
      let m := smGet false acc.1.ev.mergeOf (p * 2 ^ 16 + code)
      let r := acc.1.eqDeliver p code m l c b
      ({ r.1 with ev := { r.1.ev with mergeOf := smPut false r.1.ev.mergeOf (p * 2 ^ 16 + code) false } }, acc.2.1 || r.2, acc.2.2 || m)) acc).1 := by
  induction ps generalizing acc with
  | nil => exact Noticed.of_pregs rfl
  | cons p t ih =>
    rw [List.foldl_cons]
    refine Noticed.trans ?_ (ih _)
    exact (eqDeliver_noticed acc.1 p code _ l c b).trans (ev_noticed _ _)

theorem post_noticed (s : State) (ps : List Nat) (code : Nat) (vs : List (Nat × Nat)) : Noticed s (s.post ps code vs) := by
  have h := deliveries_noticed ps code s.rast.line 0 (packVals vs) (s, false, false)
  unfold State.post State.postAt
  exact Noticed.ite _ h (h.trans (ev_noticed _ _))

/-! ### The timeout of an access -/

theorem exec_accessTimeout {p : Fin 4} {c : BitVec 16} {b : BootRun} {s : State} (h : s.ports.contains p.val = true) :
    exec (.accessTimeout p c b) s = .next (accessTimeout b p c.toNat s) := fromPort_next h _

/-- The way of an access does not turn on what waits or is latched. -/
theorem way_acc (s : State) (x : Access) (p a : Nat) (r : Bool) : ({ s with acc := x } : State).way p a r = s.way p a r := rfl

section oldest

variable {s : State} {p : Nat} {e : Stalled} (h : s.acc.stalled.find? (fun e => decide (e.port = p)) = some e) (b : BootRun) (c : Nat)
include h

theorem accessTimeout_stalled {k : Nat} (hw : s.way p e.addr e.value.isNone = .stalled k) :
    accessTimeout b p c s = expire p k e { s with acc := { s.acc with stalled := s.acc.stalled.erase e } } := by
  unfold accessTimeout
  simp only [h, way_acc, hw]

theorem accessTimeout_served (hw : s.way p e.addr e.value.isNone = .served) :
    accessTimeout b p c s = serveStalled b p c e { s with acc := { s.acc with stalled := s.acc.stalled.erase e } } := by
  unfold accessTimeout
  simp only [h, way_acc, hw]

end oldest

/-- The access told as timed out in its port's own registers (R566). -/
def timedOut (p : Nat) (e : Stalled) (s : State) : State :=
  let t := (onesFor p e s).hostErr p 0
  t.setPreg p A.hostTimeoutCnt (bumpFld (t.preg p A.hostTimeoutCnt) 0 16 1)

/-- All that the completion of an expired access changes is the answer. -/
theorem onesFor_only (p : Nat) (e : Stalled) (s : State) : ∃ x, onesFor p e s = { s with answer := x } := by
  unfold onesFor
  split
  · exact ⟨_, rfl⟩
  · exact ⟨s.answer, rfl⟩

/-- A read that expires completes with all ones (R566). -/
theorem onesFor_read {e : Stalled} (h : e.value = none) (p : Nat) (s : State) : Answered s (onesFor p e s) p [0xFF, 0xFF, 0xFF, 0xFF] := by
  have hv : leBytes 4 (0xFFFFFFFF : Word).toNat = [0xFF, 0xFF, 0xFF, 0xFF] := by decide
  have ha := answerWord_answered p 0xFFFFFFFF s
  rw [hv] at ha
  unfold onesFor
  rwa [if_pos (by rw [h]; rfl)]

/-- A write that expires is answered with nothing. -/
theorem onesFor_write {e : Stalled} (h : e.value ≠ none) (p : Nat) (s : State) : onesFor p e s = s := by
  unfold onesFor
  rw [if_neg (by simpa [Option.isNone_iff_eq_none] using h)]

theorem onesFor_preg (p : Nat) (e : Stalled) (s : State) (q a : Nat) : (onesFor p e s).preg q a = s.preg q a := by
  obtain ⟨x, hx⟩ := onesFor_only p e s
  rw [hx]
  rfl

section posted

variable {s t : State} (h : Posted s t)
include h

theorem Posted.acc_eq : t.acc = s.acc := by rw [h]
theorem Posted.rast_eq : t.rast = s.rast := by rw [h]
theorem Posted.fab_eq : t.fab = s.fab := by rw [h]
theorem Posted.hbm_eq : t.hbm = s.hbm := by rw [h]
theorem Posted.answer_eq : t.answer = s.answer := by rw [h]
theorem Posted.reg_eq (a : Nat) : t.reg a = s.reg a := by rw [h]; rfl

end posted

theorem timedOut_posted (p : Nat) (e : Stalled) (s : State) : Posted (onesFor p e s) (timedOut p e s) :=
  (hostErr_posted _ p 0).trans (setPreg_posted _ p A.hostTimeoutCnt _)

/-- TIMEOUT of HOST_ERR sets (R566). -/
theorem timedOut_hostErr (p : Nat) (e : Stalled) (s : State) : bitAt ((timedOut p e s).preg p A.hostErr) 0 = true := by
  have hne : ¬(p = p ∧ A.hostErr = A.hostTimeoutCnt) := by simp [A.hostErr, A.hostTimeoutCnt]
  unfold timedOut
  simp only
  rw [State.preg_setPreg _ _ _ _ _ _ (by decide) (by decide), if_neg hne]
  exact hostErr_bit _ p (by decide)

/-- A 16-bit counter at the foot of a word counts on, and stops at its top. -/
theorem fld_bumpFld_low16 (w : Word) : fld (bumpFld w 0 16 1) 15 0 = min (fld w 15 0 + 1) 65535 := by
  have hw : w.toNat < 2 ^ 32 := w.isLt
  unfold bumpFld setFld satAdd fld
  rw [BitVec.toNat_ofNat]
  omega

/-- HOST_TIMEOUT_CNT of the port counts on, saturating (R566). -/
theorem timedOut_count (p : Nat) (e : Stalled) (s : State) :
    (timedOut p e s).prf p A.hostTimeoutCnt 15 0 = min (s.prf p A.hostTimeoutCnt 15 0 + 1) 65535 := by
  unfold timedOut State.prf
  simp only
  rw [State.preg_setPreg _ _ _ _ _ _ (by decide) (by decide), if_pos ⟨rfl, rfl⟩, fld_bumpFld_low16,
    (hostErr_noticed _ p 0).kept p A.hostTimeoutCnt (by decide) (by decide), onesFor_preg]

/-- An access expires: its port is told, the crossing is wedged, and the event is posted (R566). -/
theorem expire_posted (p k : Nat) (e : Stalled) (s : State) :
    Posted ((timedOut p e s).setReg A.sysXingWedged ((timedOut p e s).reg A.sysXingWedged ||| BitVec.ofNat 32 (2 ^ k))) (expire p k e s) :=
  post_posted _ [p] 0x0106 [(1, k), (4, e.addr)]

theorem expire_noticed (p k : Nat) (e : Stalled) (s : State) : Noticed (timedOut p e s) (expire p k e s) :=
  (Noticed.of_pregs (State.setReg_pregs _ _ _)).trans (post_noticed _ [p] 0x0106 [(1, k), (4, e.addr)])

/-- What an expired access leaves as it was. -/
theorem expire_frame (p k : Nat) (e : Stalled) (s : State) :
    (expire p k e s).acc = s.acc ∧ (expire p k e s).hbm = s.hbm ∧ (expire p k e s).fab = s.fab ∧ (expire p k e s).rast = s.rast ∧
      (expire p k e s).answer = (onesFor p e s).answer := by
  have hx := expire_posted p k e s
  have ht := timedOut_posted p e s
  obtain ⟨x, ho⟩ := onesFor_only p e s
  rw [ho] at ht ⊢
  rw [hx.acc_eq, hx.hbm_eq, hx.fab_eq, hx.rast_eq, hx.answer_eq]
  simp only [State.setReg_acc, State.setReg_hbm, State.setReg_fab, State.setReg_rast, State.setReg_answer]
  exact ⟨ht.acc_eq, ht.hbm_eq, ht.fab_eq, ht.rast_eq, ht.answer_eq⟩

/-- An expired access wedges its crossing, and sets no other shared register (R566). -/
theorem expire_reg (p k : Nat) (e : Stalled) (s : State) (a : Nat) : (expire p k e s).reg a =
    if a = A.sysXingWedged then s.reg A.sysXingWedged ||| BitVec.ofNat 32 (2 ^ k) else s.reg a := by
  have hr : ∀ x, (timedOut p e s).reg x = s.reg x := by
    intro x
    rw [(timedOut_posted p e s).reg_eq]
    obtain ⟨y, ho⟩ := onesFor_only p e s
    rw [ho]
    rfl
  rw [(expire_posted p k e s).reg_eq, State.reg_setReg, hr, hr]

theorem accessTimeouts : Sys2Proof.Stated.AccessTimeouts := by
  intro p c b s e hp he u
  refine ⟨?_, ?_, ?_⟩
  · intro k hk hw
    obtain ⟨hacc, hhbm, hfab, hrast, hans⟩ := expire_frame p k e u
    refine ⟨expire p k e u, ?_, hacc, (expire_noticed p k e u).err p 0 (timedOut_hostErr p e u), ?_, ?_, ?_, ?_, ?_, hhbm, hfab, hrast⟩
    · rw [exec_accessTimeout hp, accessTimeout_stalled he b _ hw]
    · have hc := timedOut_count p e u
      unfold State.prf at hc ⊢
      rwa [(expire_noticed p k e u).kept p A.hostTimeoutCnt (by decide) (by decide)]
    · rw [expire_reg, if_pos rfl, bitAt_or, bitAt_twoPow (by omega), Bool.or_true]
    · intro hv
      have ha := onesFor_read hv p u
      unfold Answered at ha ⊢
      rwa [hans]
    · intro hv
      rw [hans, onesFor_write hv]
    · intro a ha
      rw [expire_reg, if_neg ha]
      rfl
  · intro hw hv
    rw [exec_accessTimeout hp, accessTimeout_served he b _ hw, serveStalled, hv]
  · intro w hw hv
    rw [exec_accessTimeout hp, accessTimeout_served he b _ hw, serveStalled, hv]

/-- Settles O42: a read is answered from the register as it stands, or from its port's copies, and an access that times out expires or is served. -/
theorem readsAndTimeouts : Obligations.ReadsAndTimeouts := ⟨registerReads, accessTimeouts⟩

end Sys2Proof.Machine

/-! SUPPORT. The statement on frame boundaries fails: a canonical state in which a B register and its SPAR_BOUND register differ after the boundary. -/

namespace Sys2Proof.Machine

/-! ### A register word between two SPAR_BOUND registers -/

/-- The part at the end of its first frame, with a word listed one byte past SPAR_BOUND0 of spar 0, where no register stands: State.Canonical asks of the
keys of the register words only that they rise. -/
def strayBound : State := { State.reset with regs := [(A.sparBound 0 0 + 1, 1)], rast := { State.reset.rast with due := true } }

theorem strayBound_canonical : strayBound.Canonical where
  hbm := rfl
  loft := rfl
  host := rfl
  hostBad := rfl
  regs := ⟨fun _ h => (nomatch h), trivial⟩
  pregs := trivial
  sreg := rfl
  breg := rfl
  areg := rfl
  gen := rfl
  slots := trivial
  jobs := trivial
  cfg := trivial

/-- The boundary takes B registers from the register words by the word that their address falls in (`boundWords`), so that B0 of spar 0 gets the stray word, while
SPAR_BOUND0 reads its reset value. -/
theorem strayBound_boundary : (frameBoundary [] strayBound).bReg 0 0 = 1 ∧ (frameBoundary [] strayBound).reg (A.sparBound 0 0) = 0 := by
  decide +kernel

/-- Refutes O25: a canonical state may list a register word at an address that is no multiple of 4, and the boundary then loads a B register from it and not
from its SPAR_BOUND register. -/
theorem not_frameBoundaries : ¬ Obligations.FrameBoundaries := by
  rintro ⟨starts, -⟩
  obtain ⟨t, ht, -, -, -, -, -, -, hbound, -⟩ := starts [] strayBound strayBound_canonical rfl rfl (by decide) rfl (.inl rfl)
  have he : frameBoundary [] strayBound = t := Host.Outcome.next.inj ht
  obtain ⟨hb, hr⟩ := strayBound_boundary
  have hbr := (hbound 0 0 (by decide) (by decide)).1
  rw [← he, hb, hr] at hbr
  exact absurd hbr (by decide)

end Sys2Proof.Machine

/-! SUPPORT. The queue, line lengths and the tick of a line: what a step takes from the queue, how a line's length is held to its limits, and what the line that ends
and the tick after it change. -/

namespace Sys2Proof.Machine

/-- Settles O1, by the two cases of the queue. -/
theorem stepRunsFront : Obligations.StepRunsFront := by
  refine ⟨fun _ _ _ => rfl, fun s h => ?_⟩
  unfold step
  rw [h]

/-! ### Line lengths -/

theorem ruPerCk_pos (reef : Nat) : 0 < ruPerCk reef := by
  unfold ruPerCk
  split <;> decide

/-- Outside the extension lines of a jump the accumulator is divided into cycles, held to the limits, and what is left over is carried (R366). -/
theorem lineLen_steady {s : State} (h : ¬(s.rast.sync.jump = true ∧ s.inExt = true)) :
    let k := ruPerCk s.rast.reef * 65536
    let x : Int := s.rast.sync.frac + s.rast.sync.nEst + s.rast.sync.c
    let p := min (max (x / k).toNat (pMin s.rast.linePeriod s.rast.reef)) (pMax s.rast.tNum s.rast.tDen s.rast.reef)
    lineLen s = (p, (min (max (x - (p : Int) * k) 0) ((k : Int) - 1)).toNat) := if_neg h

/-- A quotient that neither limit holds back stands as it is. -/
theorem clamp_eq_div {k lo hi : Nat} {x : Int} (hk : 0 < k) (h1 : ((lo * k : Nat) : Int) ≤ x) (h2 : x < (((hi + 1) * k : Nat) : Int)) :
    ((min (max (x / k).toNat lo) hi : Nat) : Int) = x / k := by
  have hk' : (0 : Int) < k := by exact_mod_cast hk
  have hlo : (lo : Int) ≤ x / k := (Int.le_ediv_iff_mul_le hk').mpr (by exact_mod_cast h1)
  have hhi : x / k < hi + 1 := (Int.ediv_lt_iff_lt_mul hk').mpr (by exact_mod_cast h2)
  omega

/-- Whole cycles and the remainder make up the accumulator again. -/
theorem cycles_add_rest {k p : Nat} {x : Int} (hk : 0 < k) (hp : (p : Int) = x / k) :
    ((p * k + (min (max (x - (p : Int) * k) 0) ((k : Int) - 1)).toNat : Nat) : Int) = x := by
  have hk' : (0 : Int) < k := by exact_mod_cast hk
  have hm := Int.emod_add_ediv_mul x k
  have h0 := Int.emod_nonneg x hk'.ne'
  have h1 := Int.emod_lt_of_pos x hk'
  rw [← hp] at hm
  push_cast
  omega

theorem lineLengths : Sys2Proof.Stated.LineLengths := by
  intro s k lo hi x
  refine ⟨fun h hle => ?_, fun hj he => if_pos ⟨hj, he⟩⟩
  have hk : 0 < k := Nat.mul_pos (ruPerCk_pos _) (by decide)
  rw [lineLen_steady h]
  refine ⟨le_min (le_max_right _ _) hle, min_le_right _ _, ?_, fun h1 h2 => cycles_add_rest hk (clamp_eq_div hk h1 h2)⟩
  change (min (max _ 0) ((k : Int) - 1)).toNat < k
  omega

/-! ### The end of a line -/

/-- Work that comes about after the line in progress leaves nothing due in it. -/
theorem CalmLine.noneBy {s : State} (h : CalmLine s) : s.noneBy (lineLen s).1 0 := by
  intro x hx
  have := h x hx
  simp only [Flight.by, decide_eq_false_iff_not]
  omega

/-- Coming to a cycle changes nothing but what the part knows of the cycle. -/
theorem reachCycle_only (s : State) (c : Nat) : ∃ k f, s.reachCycle c = { s with fab := { s.fab with cyc := k, fresh := f } } := by
  unfold State.reachCycle
  split
  · exact ⟨_, _, rfl⟩
  · exact ⟨s.fab.cyc, s.fab.fresh, rfl⟩

/-- With no choice of a lead missing at the cut line, no pair is lost (R349). -/
theorem lockCut_plain {s : State} (h : s.rast.line = cutLine s → lockFollower s = false) : lockCut s = s := by
  unfold lockCut
  refine if_neg ?_
  rintro ⟨hl, hf, -⟩
  rw [h hl] at hf
  exact absurd hf (by decide)

/-- A main link that is not off does not wake (R415). -/
theorem psrWake_plain {s : State} (h : s.rast.line = cutLine s → s.out.link ≠ .off) : psrWake s = s := by
  unfold psrWake
  refine if_neg ?_
  rintro ⟨hl, hf, -⟩
  exact h hl hf

/-- The part as the line in progress has ended with no other effect than its own, in cycle `k` (R337, R366, R450). -/
def lineEnded (k : Nat) (f : List (Nat × Nat)) (s : State) : State :=
  { closeLine (lineLen s).1 s with
    wire := []
    fab := { s.fab with cyc := k, fresh := f }
    tod := s.tod.advance ((lineLen s).1 * ruPerCk s.rast.reef)
    rast := { s.rast with time := endTime s, sync := { s.rast.sync with frac := (lineLen s).2 } } }

theorem lineEnd_calm {s : State} (hc : CalmLine s) (hp : PlainEnd s) : ∃ k f, lineEnd s = lineEnded k f s := by
  obtain ⟨k, f, hr⟩ := reachCycle_only { s with wire := [] } (lineLen s).1
  have hs := (settleTo_idle hc.noneBy).trans hr
  generalize hu : ({ s with wire := [], fab := { s.fab with cyc := k, fresh := f } } : State) = u at hs
  have hl : lockCut u = u := lockCut_plain (by subst hu; exact fun h => (hp h).1)
  have hw : psrWake u = u := psrWake_plain (by subst hu; exact fun h => (hp h).2)
  refine ⟨k, f, ?_⟩
  unfold lineEnd
  simp only [hs, hl, hw]
  subst hu
  rfl

/-! ### Work in flight over a tick -/

/-- Outside a frame's end no mark or signal in flight is silenced: every piece of work comes nearer by the line (R193). -/
theorem shiftFlight_places {s : State} (h : s.rast.due = false) (len : Nat) :
    (shiftFlight len s).fab.flight.map (fun x => (x.c, x.phase)) = s.fab.flight.map (fun x => (x.c - len, x.phase)) := by
  unfold shiftFlight
  simp only [h, Bool.false_and]
  rw [List.filter_eq_self.mpr, List.map_map]
  · rfl
  · intro x _
    cases x.work <;> rfl

/-- With nothing in flight only the cycle and the jobs' bundles change. -/
theorem shiftFlight_idle {s : State} (h : s.fab.flight = []) (len : Nat) :
    shiftFlight len s = { s with
      fab := { s.fab with cyc := 0, fresh := [] }
      jobs := s.jobs.map (fun e => (e.1, if e.2.running then { e.2 with start := e.2.start - len } else e.2)) } := by
  unfold shiftFlight
  simp only [h, List.filter_nil, List.map_nil]

/-! ### The word of a tick -/

theorem b2n_lt_two (b : Bool) : b2n b < 2 := by cases b <;> decide

theorem fld_tickWord (s : State) (h : s.rast.line ≠ 0) :
    fld (tickWord s) 12 0 = s.rast.line % 2 ^ 13 ∧ fld (tickWord s) 28 13 = s.rast.frame.toNat % 2 ^ 16 ∧ fld (tickWord s) 29 29 = 0 ∧
      fld (tickWord s) 30 30 = b2n s.slackLine ∧ fld (tickWord s) 32 31 = s.rast.reef % 4 ∧ fld (tickWord s) 33 33 = b2n s.rast.rpt ∧
      fld (tickWord s) 35 34 = 0 := by
  have h1 := b2n_lt_two s.slackLine
  have h2 := b2n_lt_two s.rast.rpt
  have h0 : b2n (decide (s.rast.line = 0)) = 0 := by rw [decide_eq_false h]; rfl
  unfold tickWord fld
  rw [BitVec.toNat_ofNat, h0]
  omega

/-! ### The tick -/

theorem halyardTick_still {s : State} (h : ¬ Runs s) : halyardTick s = s := by
  unfold halyardTick
  refine if_pos ?_
  by_contra hn
  simp only [not_or, Bool.not_eq_true] at hn
  exact h ⟨hn.2.1, hn.1, hn.2.2⟩

theorem Runs.not_still {s : State} (h : Runs s) : ¬(s.rast.due = true ∨ s.rast.paused = true ∨ s.halted = true) := by
  obtain ⟨hp, hd, hh⟩ := h
  simp [hp, hd, hh]

/-- Within a frame the next line begins. -/
theorem halyardTick_next {s : State} (h : Runs s) (he : frameEnds s (endTime s).toNat = false) :
    halyardTick s = deliver (closeSlack (lineLen s).1 (dropFetched (tickSegs (shiftFlight (lineLen s).1
      { lineEnd s with rast := { (lineEnd s).rast with line := (lineEnd s).rast.line + 1 } })))) := by
  unfold halyardTick
  rw [if_neg h.not_still]
  simp only
  rw [if_neg (by rw [← endTime, he]; decide)]

/-- After the last line the raster stands at the frame's end. -/
theorem halyardTick_last {s : State} (h : Runs s) (he : frameEnds s (endTime s).toNat = true) (hj : (lineEnd s).rast.sync.jump = false) :
    halyardTick s = shiftFlight (lineLen s).1 { lineEnd s with
      rast := { (lineEnd s).rast with due := true, sync := { (lineEnd s).rast.sync with followMiss := followMissed s (endTime s).toNat } } } := by
  have hje : jumpEnd (lineEnd s) = lineEnd s := by unfold jumpEnd; rw [if_neg (by rw [hj]; decide)]
  unfold halyardTick
  rw [if_neg h.not_still]
  simp only
  rw [if_pos (by rw [← endTime, he]), hje]
  rfl

/-- The raster with the number of the line to come. -/
def nextLine (s : State) : State := { s with rast := { s.rast with line := s.rast.line + 1 } }

/-- The part at the tick of the line after one that has ended in `s`, which was `len` cycles long (R19, R21, R207). -/
def tickAfter (len : Nat) (s : State) : State := deliver (closeSlack len (dropFetched (tickSegs (shiftFlight len (nextLine s)))))

theorem linePos_of_rast {s t : State} (ht : t.rast.linesTotal = s.rast.linesTotal) (f n : Nat) : t.linePos f n = s.linePos f n := by
  unfold State.linePos
  rw [ht]

/-- The segments that scan-out has read are those of the new line that were complete (R207). -/
theorem mem_tickSegs_scanned (s : State) (g : Seg) :
    g ∈ (tickSegs s).out.scanned ↔ g ∈ s.fab.segs ∧ g.ok = true ∧ g.st ≠ .sparOwned ∧ s.linePos g.frame.toNat g.line = s.nowPos := by
  unfold tickSegs
  simp only [List.mem_filter, Bool.decide_and, Bool.and_eq_true, decide_eq_true_eq, Bool.decide_eq_true]

/-- Segments of lines to come stay, and those of the next complete line pass to scan-out (R207). -/
theorem mem_tickSegs_segs (s : State) (g : Seg) :
    g ∈ (tickSegs s).fab.segs ↔ ∃ h ∈ s.fab.segs, s.nowPos < s.linePos h.frame.toNat h.line ∧
      g = { h with st := if h.ok = true ∧ h.st = .marked ∧ s.linePos h.frame.toNat h.line = s.nowPos + 1 then .scanOut else h.st } := by
  unfold tickSegs
  simp only [List.mem_map, List.mem_filter, decide_eq_true_eq, and_assoc]
  refine exists_congr fun h => and_congr_right fun _ => and_congr_right fun _ => ?_
  split <;> exact eq_comm

/-- A slack interval that stays open over a tick is a block interval, within the lines that it spans (R308). -/
theorem closeSlack_open {len : Nat} {s : State} (h : (closeSlack len s).slk.isOpen = true) :
    s.slk.isOpen = true ∧ s.slk.block = true ∧ s.rast.linesActive ≤ s.rast.line ∧ s.rast.line < s.rast.linesActive + 4 := by
  unfold closeSlack at h
  simp only [Bool.and_eq_true, decide_eq_true_eq, and_assoc] at h
  exact h

/-- The tick changes what the halyard carries and nothing else. The word stays a variable here: where its digits stand in the goal, comparing two states computes them. -/
theorem tickAfter_only (len : Nat) (s : State) : ∃ w, tickAfter len s =
    let u := closeSlack len (dropFetched (tickSegs (shiftFlight len (nextLine s))))
    { u with rast := { u.rast with tick := w } } := ⟨_, rfl⟩

theorem tickAfter_line (len : Nat) (s : State) : (tickAfter len s).rast.line = s.rast.line + 1 := by
  obtain ⟨w, h⟩ := tickAfter_only len s
  rw [h]
  rfl

theorem tickAfter_nowPos (len : Nat) (s : State) : (tickAfter len s).nowPos = (nextLine s).nowPos := by
  obtain ⟨w, h⟩ := tickAfter_only len s
  rw [h]
  rfl

theorem tickAfter_slackLine (len : Nat) (s : State) : (tickAfter len s).slackLine = (nextLine s).slackLine := by
  obtain ⟨w, h⟩ := tickAfter_only len s
  rw [h]
  rfl

/-- The output takes up the new line with its sync (R380). -/
theorem tickAfter_out (len : Nat) (s : State) : (tickAfter len s).out = { s.out with
    scanned := (tickAfter len s).out.scanned, line := [], sync := lineSync (tickAfter len s)
    fetched := (tickAfter len s).out.fetched, psn := (tickAfter len s).out.psn } := by
  obtain ⟨w, h⟩ := tickAfter_only len s
  rw [h]
  rfl

theorem mem_tickAfter_scanned {s u : State} (hs : u.fab.segs = s.fab.segs) (hl : u.rast.linesTotal = s.rast.linesTotal) (len : Nat) (g : Seg) :
    g ∈ (tickAfter len u).out.scanned ↔
      g ∈ s.fab.segs ∧ g.ok = true ∧ g.st ≠ .sparOwned ∧ s.linePos g.frame.toNat g.line = (tickAfter len u).nowPos := by
  rw [tickAfter_nowPos, ← hs, ← linePos_of_rast hl]
  exact mem_tickSegs_scanned (shiftFlight len (nextLine u)) g

theorem mem_tickAfter_segs {s u : State} (hs : u.fab.segs = s.fab.segs) (hl : u.rast.linesTotal = s.rast.linesTotal) (len : Nat) (g : Seg) :
    g ∈ (tickAfter len u).fab.segs ↔ ∃ h ∈ s.fab.segs, (tickAfter len u).nowPos < s.linePos h.frame.toNat h.line ∧
      g = { h with st := if h.ok = true ∧ h.st = .marked ∧ s.linePos h.frame.toNat h.line = (tickAfter len u).nowPos + 1 then .scanOut else h.st } := by
  simp only [tickAfter_nowPos, ← hs, ← linePos_of_rast hl]
  exact mem_tickSegs_segs (shiftFlight len (nextLine u)) g

theorem tickAfter_places {s u : State} (hf : u.fab.flight = s.fab.flight) (hd : u.rast.due = false) (len : Nat) :
    (tickAfter len u).fab.flight.map (fun x => (x.c, x.phase)) = s.fab.flight.map (fun x => (x.c - len, x.phase)) := by
  rw [← hf]
  exact shiftFlight_places (s := nextLine u) hd len

/-- The word of a tick names the line that it begins (R21). -/
theorem fld_tickAfter (len : Nat) (s : State) : let w := (tickAfter len s).rast.tick
    fld w 12 0 = (tickAfter len s).rast.line % 2 ^ 13 ∧ fld w 28 13 = s.rast.frame.toNat % 2 ^ 16 ∧ fld w 29 29 = 0 ∧
      fld w 30 30 = b2n (tickAfter len s).slackLine ∧ fld w 32 31 = s.rast.reef % 4 ∧ fld w 33 33 = b2n s.rast.rpt ∧ fld w 35 34 = 0 := by
  intro w
  have hw : w = tickWord (nextLine s) := rfl
  rw [hw, tickAfter_slackLine, tickAfter_line]
  exact fld_tickWord (nextLine s) (Nat.succ_ne_zero _)

theorem tickAfter_open {len : Nat} {s : State} (h : (tickAfter len s).slk.isOpen = true) : s.slk.isOpen = true ∧ s.slk.block = true ∧
    s.rast.linesActive ≤ (tickAfter len s).rast.line ∧ (tickAfter len s).rast.line < s.rast.linesActive + 4 := by
  rw [tickAfter_line]
  exact closeSlack_open (s := dropFetched (tickSegs (shiftFlight len (nextLine s)))) h

theorem exec_halyardTick_next {s : State} (hr : Runs s) (hc : CalmLine s) (hp : PlainEnd s) (he : frameEnds s (endTime s).toNat = false) :
    ∃ k f, exec .halyardTick s = .next (tickAfter (lineLen s).1 (lineEnded k f s)) := by
  obtain ⟨k, f, hl⟩ := lineEnd_calm hc hp
  refine ⟨k, f, congrArg Host.Outcome.next ?_⟩
  rw [halyardTick_next hr he, hl]
  rfl

theorem tickAdvances : Sys2Proof.Stated.TickAdvances := by
  refine ⟨fun s hr hc hp he => ?_, fun s hr hf hp he hj => ?_, fun s h => congrArg Host.Outcome.next (halyardTick_still h)⟩
  · intro len
    obtain ⟨k, f, hx⟩ := exec_halyardTick_next hr hc hp he
    have hd : s.rast.due = false := hr.2.1
    exact ⟨_, hx, rfl, rfl, fld_tickAfter len (lineEnded k f s), rfl, tickAfter_out len _, rfl, mem_tickAfter_scanned rfl rfl len,
      mem_tickAfter_segs rfl rfl len, tickAfter_places rfl hd len, tickAfter_open⟩
  · intro len
    have hc : CalmLine s := by intro x hx; rw [hf] at hx; exact absurd hx List.not_mem_nil
    obtain ⟨k, f, hl⟩ := lineEnd_calm hc hp
    refine congrArg Host.Outcome.next ?_
    rw [halyardTick_last hr he (by rw [hl]; exact hj), hl]
    refine (shiftFlight_idle ?_ _).trans ?_
    · exact hf
    · rfl

/-- Settles O22: a line's length is the accumulator's whole cycles held to the limits, and a tick is the end of the line in progress followed by what the next line's
first cycle does. -/
theorem halyardTicks : Obligations.HalyardTicks := ⟨lineLengths, tickAdvances⟩

end Sys2Proof.Machine

/-! SUPPORT. Fields of a register word: what a field placed in a word, or a counter in it, leaves of the others. -/

namespace Sys2Proof.Machine

theorem fld_lt {n : Nat} (w : BitVec n) (hi lo : Nat) : fld w hi lo < 2 ^ (hi + 1 - lo) := Nat.mod_lt _ (by positivity)

/-- A field and the bits below it stay below the bits above. -/
theorem field_lt (v x lo len : Nat) : v % 2 ^ len * 2 ^ lo + x % 2 ^ lo < 2 ^ (lo + len) := by
  have h1 : v % 2 ^ len + 1 ≤ 2 ^ len := Nat.mod_lt _ (by positivity)
  have h2 : x % 2 ^ lo < 2 ^ lo := Nat.mod_lt _ (by positivity)
  calc v % 2 ^ len * 2 ^ lo + x % 2 ^ lo < (v % 2 ^ len + 1) * 2 ^ lo := by rw [add_mul, one_mul]; omega
    _ ≤ 2 ^ len * 2 ^ lo := Nat.mul_le_mul_right _ h1
    _ = 2 ^ (lo + len) := by rw [pow_add, mul_comm]

/-- A word with a field placed in it, part by part. -/
theorem setFld_toNat (w : Word) {lo len : Nat} (v : Nat) (h : lo + len ≤ 32) :
    (setFld w lo len v).toNat = w.toNat / 2 ^ (lo + len) * 2 ^ (lo + len) + (v % 2 ^ len * 2 ^ lo + w.toNat % 2 ^ lo) := by
  have hw : w.toNat = w.toNat / 2 ^ (lo + len) * 2 ^ (lo + len) + (w.toNat / 2 ^ lo % 2 ^ len * 2 ^ lo + w.toNat % 2 ^ lo) := by
    have h1 := Nat.div_add_mod w.toNat (2 ^ lo)
    have h2 := Nat.div_add_mod (w.toNat / 2 ^ lo) (2 ^ len)
    rw [Nat.div_div_eq_div_mul, ← pow_add] at h2
    calc w.toNat = 2 ^ lo * (2 ^ len * (w.toNat / 2 ^ (lo + len)) + w.toNat / 2 ^ lo % 2 ^ len) + w.toNat % 2 ^ lo := by rw [h2, h1]
      _ = _ := by rw [pow_add]; ring
  have hv := field_lt v w.toNat lo len
  have hfit : w.toNat / 2 ^ (lo + len) * 2 ^ (lo + len) + 2 ^ (lo + len) ≤ 2 ^ 32 := by
    obtain ⟨k, hk⟩ := Nat.exists_eq_add_of_le h
    have hlt : w.toNat / 2 ^ (lo + len) < 2 ^ k := by
      rw [Nat.div_lt_iff_lt_mul (by positivity), ← pow_add, add_comm k, ← hk]
      exact w.isLt
    calc w.toNat / 2 ^ (lo + len) * 2 ^ (lo + len) + 2 ^ (lo + len) = (w.toNat / 2 ^ (lo + len) + 1) * 2 ^ (lo + len) := by ring
      _ ≤ 2 ^ k * 2 ^ (lo + len) := Nat.mul_le_mul_right _ hlt
      _ = 2 ^ 32 := by rw [← pow_add, add_comm k, ← hk]
  unfold setFld
  simp only
  rw [BitVec.toNat_ofNat, Nat.mod_eq_of_lt (by omega)]
  omega

/-- A field reads as it was placed. -/
theorem fld_setFld_same (w : Word) {hi lo len : Nat} (v : Nat) (h : lo + len ≤ 32) (he : hi + 1 = lo + len) : fld (setFld w lo len v) hi lo = v % 2 ^ len := by
  unfold fld
  rw [setFld_toNat w v h, he, Nat.add_sub_cancel_left, pow_add]
  have : (w.toNat / (2 ^ lo * 2 ^ len) * (2 ^ lo * 2 ^ len) + (v % 2 ^ len * 2 ^ lo + w.toNat % 2 ^ lo)) / 2 ^ lo = v % 2 ^ len + 2 ^ len * (w.toNat / (2 ^ lo * 2 ^ len)) := by
    rw [show w.toNat / (2 ^ lo * 2 ^ len) * (2 ^ lo * 2 ^ len) + (v % 2 ^ len * 2 ^ lo + w.toNat % 2 ^ lo) =
      2 ^ lo * (v % 2 ^ len + 2 ^ len * (w.toNat / (2 ^ lo * 2 ^ len))) + w.toNat % 2 ^ lo by ring,
      Nat.mul_add_div (by positivity), Nat.div_eq_of_lt (Nat.mod_lt _ (by positivity)), add_zero]
  rw [this, Nat.add_mul_mod_self_left, Nat.mod_mod]

/-- A field above the one placed stands. -/
theorem fld_setFld_above (w : Word) {hi lo len l : Nat} (v : Nat) (h : lo + len ≤ l) (hl : l ≤ 32) : fld (setFld w lo len v) hi l = fld w hi l := by
  obtain ⟨k, rfl⟩ := Nat.exists_eq_add_of_le h
  have hv := field_lt v w.toNat lo len
  unfold fld
  rw [pow_add 2 (lo + len) k, ← Nat.div_div_eq_div_mul, ← Nat.div_div_eq_div_mul, setFld_toNat w v (by omega), mul_comm (w.toNat / 2 ^ (lo + len)),
    Nat.mul_add_div (by positivity), Nat.div_eq_of_lt hv, add_zero]

/-- A field below the one placed stands. -/
theorem fld_setFld_below (w : Word) {hi lo len l : Nat} (v : Nat) (h : lo + len ≤ 32) (hl : hi < lo) : fld (setFld w lo len v) hi l = fld w hi l := by
  by_cases hlt : hi + 1 ≤ l
  · unfold fld; simp [Nat.sub_eq_zero_of_le hlt, Nat.mod_one]
  · have hm : (setFld w lo len v).toNat % 2 ^ (hi + 1) = w.toNat % 2 ^ (hi + 1) := by
      have hd : 2 ^ (hi + 1) ∣ 2 ^ lo := Nat.pow_dvd_pow 2 hl
      have hd' : 2 ^ (hi + 1) ∣ 2 ^ (lo + len) := Nat.pow_dvd_pow 2 (by omega)
      rw [setFld_toNat w v h, Nat.add_mod, Nat.mod_eq_zero_of_dvd (hd'.mul_left _), zero_add, Nat.mod_mod, Nat.add_mod,
        Nat.mod_eq_zero_of_dvd (hd.mul_left _), zero_add, Nat.mod_mod, Nat.mod_mod_of_dvd _ hd]
    have hf : ∀ x : Word, fld x hi l = x.toNat % 2 ^ (hi + 1) / 2 ^ l := by
      intro x
      unfold fld
      rw [show hi + 1 = l + (hi + 1 - l) by omega, pow_add, Nat.mod_mul_right_div_self, Nat.add_sub_cancel_left]
    rw [hf, hf, hm]

/-- A counter in a word counts on, and stops at its top (R152). -/
theorem fld_bumpFld_same (w : Word) {hi lo len : Nat} (k : Nat) (h : lo + len ≤ 32) (he : hi + 1 = lo + len) :
    fld (bumpFld w lo len k) hi lo = min (fld w hi lo + k) (2 ^ len - 1) := by
  have hp : 0 < 2 ^ len := by positivity
  unfold bumpFld satAdd
  rw [fld_setFld_same w _ h he, show lo + len - 1 = hi by omega, Nat.mod_eq_of_lt (by omega)]

section registers
variable (s : State) (a : Nat)

theorem State.rf_bump_same {hi lo : Nat} (k : Nat) (h : hi < 32) (hl : lo ≤ hi) : (s.bump a hi lo k).rf a hi lo = min (s.rf a hi lo + k) (2 ^ (hi + 1 - lo) - 1) := by
  unfold State.rf State.bump
  rw [State.reg_setReg_same]
  exact fld_bumpFld_same _ k (by omega) (by omega)

theorem State.rf_bump_above {hi lo m l : Nat} (k : Nat) (h : hi < l) (hl : l ≤ 32) (hlo : lo ≤ hi) : (s.bump a hi lo k).rf a m l = s.rf a m l := by
  unfold State.rf State.bump
  rw [State.reg_setReg_same]
  exact fld_setFld_above _ _ (by omega) hl

theorem State.rf_bump_below {hi lo m l : Nat} (k : Nat) (h : hi < 32) (hl : m < lo) (hlo : lo ≤ hi) : (s.bump a hi lo k).rf a m l = s.rf a m l := by
  unfold State.rf State.bump
  rw [State.reg_setReg_same]
  exact fld_setFld_below _ _ (by omega) hl

theorem State.rf_setRf_same {hi lo : Nat} (v : Nat) (h : hi < 32) (hl : lo ≤ hi) : (s.setRf a hi lo v).rf a hi lo = v % 2 ^ (hi + 1 - lo) := by
  unfold State.rf State.setRf
  rw [State.reg_setReg_same]
  exact fld_setFld_same _ v (by omega) (by omega)

theorem State.rf_setRf_below {hi lo m l : Nat} (v : Nat) (h : hi < 32) (hl : m < lo) (hlo : lo ≤ hi) : (s.setRf a hi lo v).rf a m l = s.rf a m l := by
  unfold State.rf State.setRf
  rw [State.reg_setReg_same]
  exact fld_setFld_below _ _ (by omega) hl

theorem State.reg_bump_ne {b : Nat} (hi lo k : Nat) (h : b ≠ a) : (s.bump a hi lo k).reg b = s.reg b := State.reg_setReg_ne s _ h

theorem State.reg_setRf_ne {b : Nat} (hi lo v : Nat) (h : b ≠ a) : (s.setRf a hi lo v).reg b = s.reg b := State.reg_setReg_ne s _ h

end registers

/-- The value of a low and a high register reads as it was written. -/
theorem State.loHi_setLoHi (s : State) {lo hi n v : Nat} (h : hi ≠ lo) (hn : 0 < n) (hn' : n ≤ 32) (hv : v < 2 ^ (32 + n)) : (s.setLoHi lo hi n v).loHi lo hi n = v := by
  have hq : v / 2 ^ 32 < 2 ^ n := by rw [Nat.div_lt_iff_lt_mul (by positivity), ← pow_add, add_comm]; exact hv
  unfold State.loHi State.setLoHi
  rw [State.reg_setReg_same, State.reg_setReg_ne _ _ h.symm, State.reg_setReg_same, fld_setFld_same _ _ (by omega) (by omega), Nat.mod_eq_of_lt hq, BitVec.toNat_ofNat]
  exact Nat.mod_add_div' v (2 ^ 32)

end Sys2Proof.Machine

/-! SUPPORT. The lead check and the underrun: what the check of one layer's line comes to, layer after layer, and what an underrun records. -/

namespace Sys2Proof.Machine

/-! ### One layer -/

/-- A layer that is no enabled line store layer is not checked (R410). -/
theorem checkLayer_unused {v : State} {l : Nat} (h : storeLayerOn v l = false) (f : Frame) (n : Nat) (s : State) : checkLayer v f n s l = s := by
  unfold checkLayer
  exact if_pos (by simp [h])

/-- A layer that is off is not checked (R411). -/
theorem checkLayer_off {s : State} {l n : Nat} {f : Frame} (h : s.layerOff l f.toNat n = true) (v : State) : checkLayer v f n s l = s := by
  unfold checkLayer
  exact if_pos (by simp [h])

/-- The line of a layer is complete: it has a segment, and every one is marked (R206). -/
def LineComplete (s : State) (f : Frame) (n l : Nat) : Prop :=
  (∃ g ∈ s.fab.segs, g.layer = l ∧ g.frame = f ∧ g.line = n) ∧ ∀ g ∈ s.fab.segs, g.layer = l → g.frame = f → g.line = n → g.st = .marked

theorem lineComplete_iff (s : State) (f : Frame) (n l : Nat) : LineComplete s f n l ↔
    s.fab.segs.filter (fun g => decide (g.layer = l ∧ g.frame = f ∧ g.line = n)) ≠ [] ∧
      (s.fab.segs.filter (fun g => decide (g.layer = l ∧ g.frame = f ∧ g.line = n))).all (fun g => decide (g.st = .marked)) = true := by
  unfold LineComplete
  refine and_congr ?_ ?_
  · rw [ne_eq, List.filter_eq_nil_iff]
    simp
  · simp only [List.all_eq_true, List.mem_filter, decide_eq_true_eq]
    exact ⟨fun h g hg => h g hg.1 hg.2.1 hg.2.2.1 hg.2.2.2, fun h g hg hl hf hn => h g ⟨hg, hl, hf, hn⟩⟩

/-- A segment of a confirmed line, as the state `s` finds the line's turn (R206, R207). -/
def confirmed (s : State) (f : Frame) (n : Nat) (g : Seg) : Seg :=
  { g with ok := true, st := if s.linePos f.toNat n = s.nowPos + 1 then .scanOut else g.st }

/-- A complete line is confirmed (R45, R206). -/
theorem checkLayer_complete {v s : State} {f : Frame} {n l : Nat} (hon : storeLayerOn v l = true) (hoff : s.layerOff l f.toNat n = false)
    (hc : LineComplete s f n l) : checkLayer v f n s l =
      { s with fab := { s.fab with segs := s.fab.segs.map (fun g => if g.layer = l ∧ g.frame = f ∧ g.line = n then confirmed s f n g else g) } } := by
  unfold checkLayer
  rw [if_neg (by simp [hon, hoff])]
  simp only
  rw [if_pos ((lineComplete_iff s f n l).mp hc)]
  simp only [decide_eq_true_eq, confirmed]

/-- A line that is not complete underruns with cause 0 (R210, R410). -/
theorem checkLayer_incomplete {v s : State} {f : Frame} {n l : Nat} (hon : storeLayerOn v l = true) (hoff : s.layerOff l f.toNat n = false)
    (hc : ¬ LineComplete s f n l) : checkLayer v f n s l = s.underrun l f.toNat n 0 := by
  unfold checkLayer
  rw [if_neg (by simp [hon, hoff])]
  simp only
  rw [if_neg (fun h => hc ((lineComplete_iff s f n l).mpr h))]

/-! ### Layer after layer -/

/-- A segment once the layers below `k` have been checked, all of them complete. -/
def confirmBelow (v s : State) (f : Frame) (n k : Nat) (g : Seg) : Seg :=
  if g.layer < k ∧ storeLayerOn v g.layer = true ∧ s.layerOff g.layer f.toNat n = false ∧ g.frame = f ∧ g.line = n then confirmed s f n g else g

section below
variable (v s : State) (f : Frame) (n k : Nat) (g : Seg)

theorem confirmBelow_layer : (confirmBelow v s f n k g).layer = g.layer := by unfold confirmBelow; split <;> rfl

theorem confirmBelow_of_le (h : k ≤ g.layer) : confirmBelow v s f n k g = g := if_neg (fun hg => absurd hg.1 (by omega))

/-- One more layer, which is not checked. -/
theorem confirmBelow_succ_skip (h : storeLayerOn v k = false ∨ s.layerOff k f.toNat n = true) : confirmBelow v s f n (k + 1) g = confirmBelow v s f n k g := by
  by_cases hk : g.layer = k
  · rw [confirmBelow_of_le v s f n k g hk.ge]
    refine if_neg ?_
    rintro ⟨-, hon, hoff, -⟩
    rw [hk] at hon hoff
    rcases h with h | h
    · exact absurd (hon.symm.trans h) (by decide)
    · exact absurd (hoff.symm.trans h) (by decide)
  · exact if_congr (and_congr_left' (by omega)) rfl rfl

/-- One more layer, which is complete. -/
theorem confirmBelow_succ_check (hon : storeLayerOn v k = true) (hoff : s.layerOff k f.toNat n = false) :
    confirmBelow v s f n (k + 1) g =
      let h := confirmBelow v s f n k g
      if h.layer = k ∧ h.frame = f ∧ h.line = n then confirmed s f n h else h := by
  simp only [confirmBelow_layer]
  by_cases hk : g.layer = k
  · rw [confirmBelow_of_le v s f n k g hk.ge]
    unfold confirmBelow
    rw [hk]
    simp [hon, hoff]
  · rw [if_neg (fun h => hk h.1)]
    exact if_congr (and_congr_left' (by omega)) rfl rfl

end below

/-- Where every layer that is checked has its line complete, the check confirms them one after the other. -/
theorem checks_confirm {v s : State} {f : Frame} {n : Nat} (k : Nat)
    (hc : ∀ l, l < k → storeLayerOn v l = true → s.layerOff l f.toNat n = false → LineComplete s f n l) :
    (List.range k).foldl (checkLayer v f n) s = { s with fab := { s.fab with segs := s.fab.segs.map (confirmBelow v s f n k) } } := by
  induction k with
  | zero =>
    have h0 : confirmBelow v s f n 0 = id := funext fun g => confirmBelow_of_le v s f n 0 g (Nat.zero_le _)
    rw [h0, List.map_id]
    rfl
  | succ k ih =>
    rw [List.range_succ, List.foldl_append, ih (fun l hl => hc l (by omega)), List.foldl_cons, List.foldl_nil]
    generalize hu : ({ s with fab := { s.fab with segs := s.fab.segs.map (confirmBelow v s f n k) } } : State) = u
    have hsegs : u.fab.segs = s.fab.segs.map (confirmBelow v s f n k) := by rw [← hu]
    have hoffs : u.layerOff k f.toNat n = s.layerOff k f.toNat n := by rw [← hu]; rfl
    by_cases hskip : storeLayerOn v k = false ∨ s.layerOff k f.toNat n = true
    · have hmap : confirmBelow v s f n (k + 1) = confirmBelow v s f n k := funext fun g => confirmBelow_succ_skip v s f n k g hskip
      rw [hmap, hu]
      rcases hskip with h | h
      · exact checkLayer_unused h f n u
      · exact checkLayer_off (hoffs.trans h) v
    · simp only [not_or, Bool.not_eq_false, Bool.not_eq_true] at hskip
      obtain ⟨hon, hoff⟩ := hskip
      have hcu : LineComplete u f n k := by
        obtain ⟨⟨g, hg, hl, hgf, hgn⟩, hall⟩ := hc k (by omega) hon hoff
        constructor
        · refine ⟨g, ?_, hl, hgf, hgn⟩
          rw [hsegs]
          exact List.mem_map.mpr ⟨g, hg, confirmBelow_of_le v s f n k g hl.ge⟩
        · intro x hx hxl hxf hxn
          rw [hsegs] at hx
          obtain ⟨y, hy, rfl⟩ := List.mem_map.mp hx
          rw [confirmBelow_layer] at hxl
          rw [confirmBelow_of_le v s f n k y hxl.ge] at hxf hxn ⊢
          exact hall y hy hxl hxf hxn
      rw [checkLayer_complete hon (hoffs.trans hoff) hcu]
      have hmap : s.fab.segs.map (confirmBelow v s f n (k + 1)) = u.fab.segs.map (fun g => if g.layer = k ∧ g.frame = f ∧ g.line = n then confirmed u f n g else g) := by
        rw [hsegs, List.map_map]
        refine List.map_congr_left fun g _ => ?_
        rw [confirmBelow_succ_check v s f n k g hon hoff, ← hu]
        rfl
      rw [hmap, ← hu]

/-- Where one layer alone is checked, the check is that layer's. -/
theorem checks_one {v : State} {l : Nat} (k : Nat) (hone : ∀ m, m < k → storeLayerOn v m = decide (m = l)) (f : Frame) (n : Nat) (s : State) :
    (List.range k).foldl (checkLayer v f n) s = if l < k then checkLayer v f n s l else s := by
  induction k with
  | zero => rfl
  | succ k ih =>
    rw [List.range_succ, List.foldl_append, ih (fun m hm => hone m (by omega)), List.foldl_cons, List.foldl_nil]
    have hk := hone k (by omega)
    by_cases hl : k = l
    · subst hl
      rw [if_neg (by omega), if_pos (by omega)]
    · rw [checkLayer_unused (by rw [hk]; exact decide_eq_false hl)]
      exact if_congr (by omega) rfl rfl

/-! ### The check of a line -/

theorem exec_leadCheck {s0 : State} {f : Frame} {n : Nat} (h : checkedLine (settleTo 0 1 s0) = some (f, n)) :
    exec .leadCheck s0 = .next (leadCheck (viewOf (settleTo 0 1 s0) f) f n (settleTo 0 1 s0)) := by
  refine congrArg Host.Outcome.next ?_
  unfold leadCheckNow
  simp only [h]

theorem leadChecks : Sys2Proof.Stated.LeadChecks := by
  intro s0 f n s v hline
  have hx : exec .leadCheck s0 = .next (leadCheck v f n s) := exec_leadCheck hline
  refine ⟨fun hcomp hn hres => ?_, fun h => ?_⟩
  · have hrun : leadCheck v f n s = (List.range 8).foldl (checkLayer v f n) s := by
      refine if_neg ?_
      rw [hcomp]
      rintro (h | h | h)
      · exact absurd h (by decide)
      · omega
      · exact hres h
    refine ⟨fun hc => ?_, fun l hl hone hoff hinc => ?_⟩
    · rw [hx, hrun, checks_confirm 8 hc]
      rfl
    · have hon : storeLayerOn v l = true := by rw [hone l hl]; exact decide_eq_true rfl
      have hbad : ¬ LineComplete s f n l := by
        rintro ⟨⟨g, hg, hat⟩, hall⟩
        rcases hinc with hnone | ⟨x, hx, hxl, hxf, hxn, hst⟩
        · exact hnone g hg hat
        · exact hst (hall x hx hxl hxf hxn)
      rw [hx, hrun, checks_one 8 hone, if_pos hl, checkLayer_incomplete hon hoff hbad]
  · rw [hx]
    refine congrArg Host.Outcome.next (if_pos ?_)
    rcases h with h | h
    · exact .inl (by rw [h]; rfl)
    · exact .inr h

/-! ### An underrun -/

/-- What an underrun writes into its registers: the first of the most recent frame with its place where `first`, one more in the count, and the layer's bit where the
frame is the current one, `now` (R412). -/
def noteUnderrun (first : Bool) (now : Prop) [Decidable now] (l f n cause : Nat) (s : State) : State :=
  let s1 := if first then (s.setLoHi A.rastUndrFLo A.rastUndrFHi 16 f).setReg A.rastUndrPos (BitVec.ofNat 32 (n + l * 2 ^ 16 + cause * 2 ^ 19)) else s
  let s2 := s1.bump A.rastUndrCnt 15 0 1
  if now then s2.setRf A.rastUndrCnt (24 + l) (24 + l) 1 else s2

/-- The layer is off, and its marked segments from the line on are the spars' again (R210, R411). -/
def switchedOff (l f n : Nat) (s : State) : State :=
  { s with
    off := (l, f, n) :: s.off
    fab := { s.fab with segs := s.fab.segs.map (fun g =>
      if g.layer = l ∧ g.frame = BitVec.ofNat 48 f ∧ n ≤ g.line ∧ g.st = .marked then { g with st := .sparOwned } else g) } }

/-- The underrun is the first of its frame that the registers hold (R412). -/
def firstUnderrun (s : State) (f : Nat) : Bool := decide (s.rf A.rastUndrCnt 15 0 = 0 ∨ s.loHi A.rastUndrFLo A.rastUndrFHi 16 < f)

/-- The part with the layer off and the underrun in its registers, before the event. -/
def underrunNoted (s : State) (l f n cause : Nat) : State :=
  noteUnderrun (firstUnderrun s f) (BitVec.ofNat 48 f = s.rast.frame) l f n cause (switchedOff l f n s)

theorem underrun_eq {s : State} {l f n : Nat} (h : s.layerOff l f n = false) (cause : Nat) : s.underrun l f n cause =
    ((underrunNoted s l f n cause).evt 3).post
      (uniq [s.owner, s.layerOwner l]) 0x020A [(6, f), (2, n), (1, l), (1, cause)] := by
  unfold State.underrun
  rw [if_neg (by rw [h]; decide)]
  rfl

section noted
variable (first : Bool) (now : Prop) [Decidable now] (l f n cause : Nat) (s : State)

/-- Only registers are written. -/
theorem noteUnderrun_only : noteUnderrun first now l f n cause s = { s with regs := (noteUnderrun first now l f n cause s).regs } := by
  unfold noteUnderrun
  cases first <;> by_cases h : now <;> simp only [h, if_true, if_false] <;> rfl

/-- The registers of an underrun alone are written. -/
theorem noteUnderrun_reg_other {a : Nat} (h : a ∉ [A.rastUndrFLo, A.rastUndrFHi, A.rastUndrPos, A.rastUndrCnt]) :
    (noteUnderrun first now l f n cause s).reg a = s.reg a := by
  simp only [List.mem_cons, List.not_mem_nil, or_false, not_or] at h
  obtain ⟨hlo, hhi, hpos, hcnt⟩ := h
  have hfirst : (if first then (s.setLoHi A.rastUndrFLo A.rastUndrFHi 16 f).setReg A.rastUndrPos (BitVec.ofNat 32 (n + l * 2 ^ 16 + cause * 2 ^ 19)) else s).reg a = s.reg a := by
    split
    · unfold State.setLoHi
      simp [hlo, hhi, hpos]
    · rfl
  unfold noteUnderrun
  simp only
  split
  · rw [State.reg_setRf_ne _ _ _ _ _ hcnt, State.reg_bump_ne _ _ _ _ _ hcnt, hfirst]
  · rw [State.reg_bump_ne _ _ _ _ _ hcnt, hfirst]

/-- What is written before the count leaves it. -/
theorem firstNoted_cnt (hi lo : Nat) :
    (if first then (s.setLoHi A.rastUndrFLo A.rastUndrFHi 16 f).setReg A.rastUndrPos (BitVec.ofNat 32 (n + l * 2 ^ 16 + cause * 2 ^ 19)) else s).rf A.rastUndrCnt hi lo =
      s.rf A.rastUndrCnt hi lo := by
  unfold State.rf
  split
  · unfold State.setLoHi
    simp [A.rastUndrFLo, A.rastUndrFHi, A.rastUndrPos, A.rastUndrCnt]
  · rfl

theorem noteUnderrun_count (hl : l < 8) : (noteUnderrun first now l f n cause s).rf A.rastUndrCnt 15 0 = min (s.rf A.rastUndrCnt 15 0 + 1) 65535 := by
  have hc := State.rf_bump_same (if first then (s.setLoHi A.rastUndrFLo A.rastUndrFHi 16 f).setReg A.rastUndrPos (BitVec.ofNat 32 (n + l * 2 ^ 16 + cause * 2 ^ 19)) else s)
    A.rastUndrCnt (hi := 15) (lo := 0) 1 (by decide) (by decide)
  rw [firstNoted_cnt] at hc
  unfold noteUnderrun
  simp only
  split
  · rw [State.rf_setRf_below _ _ _ (by omega) (by omega) le_rfl]
    exact hc
  · exact hc

theorem noteUnderrun_layer (hl : l < 8) :
    (noteUnderrun first now l f n cause s).rf A.rastUndrCnt (24 + l) (24 + l) = if now then 1 else s.rf A.rastUndrCnt (24 + l) (24 + l) := by
  unfold noteUnderrun
  simp only
  split
  · rw [State.rf_setRf_same _ _ _ (by omega) le_rfl, show 24 + l + 1 - (24 + l) = 1 by omega]
    rfl
  · rw [State.rf_bump_above _ _ _ (by omega) (by omega) (by decide), firstNoted_cnt]

/-- The count and the layer's bit leave the other registers of an underrun. -/
theorem noteUnderrun_reg_place {a : Nat} (h : a ≠ A.rastUndrCnt) : (noteUnderrun first now l f n cause s).reg a =
    (if first then (s.setLoHi A.rastUndrFLo A.rastUndrFHi 16 f).setReg A.rastUndrPos (BitVec.ofNat 32 (n + l * 2 ^ 16 + cause * 2 ^ 19)) else s).reg a := by
  unfold noteUnderrun
  simp only
  split
  · rw [State.reg_setRf_ne _ _ _ _ _ h, State.reg_bump_ne _ _ _ _ _ h]
  · rw [State.reg_bump_ne _ _ _ _ _ h]

/-- The frame of the first underrun is recorded (R412). -/
theorem noteUnderrun_frame (hf : f < 2 ^ 48) : (noteUnderrun true now l f n cause s).loHi A.rastUndrFLo A.rastUndrFHi 16 = f := by
  have h := State.loHi_setLoHi s (lo := A.rastUndrFLo) (hi := A.rastUndrFHi) (n := 16) (v := f) (by decide) (by decide) (by decide) hf
  unfold State.loHi at h ⊢
  rw [noteUnderrun_reg_place _ _ _ _ _ _ _ (by decide), noteUnderrun_reg_place _ _ _ _ _ _ _ (by decide), if_pos rfl,
    State.reg_setReg_ne _ _ (by decide), State.reg_setReg_ne _ _ (by decide)]
  exact h

theorem noteUnderrun_pos : (noteUnderrun true now l f n cause s).reg A.rastUndrPos = BitVec.ofNat 32 (n + l * 2 ^ 16 + cause * 2 ^ 19) := by
  rw [noteUnderrun_reg_place _ _ _ _ _ _ _ (by decide), if_pos rfl, State.reg_setReg_same]

end noted

theorem layerOff_switchedOff (l f n : Nat) (s : State) (m g k : Nat) :
    (switchedOff l f n s).layerOff m g k = (s.layerOff m g k || decide (m = l ∧ g = f ∧ n ≤ k)) := by
  unfold switchedOff State.layerOff
  simp only [List.any_cons]
  rw [Bool.or_comm]
  congr 1
  exact decide_eq_decide.mpr (and_congr eq_comm (and_congr_left' eq_comm))

theorem underrunSwitchesOff : Sys2Proof.Stated.UnderrunSwitchesOff := by
  intro s l f n cause hoff hl hf hn hcause t
  have ht := post_posted ((underrunNoted s l f n cause).evt 3)
    (uniq [s.owner, s.layerOwner l]) 0x020A [(6, f), (2, n), (1, l), (1, cause)]
  rw [← underrun_eq hoff] at ht
  change Posted _ t at ht
  clear_value t
  have hreg : ∀ a, t.reg a = (underrunNoted s l f n cause).reg a := ht.reg_eq
  have hrf : ∀ a hi lo, t.rf a hi lo = (underrunNoted s l f n cause).rf a hi lo :=
    fun a hi lo => by unfold State.rf; rw [hreg]
  have hloHi : t.loHi A.rastUndrFLo A.rastUndrFHi 16 =
      (underrunNoted s l f n cause).loHi A.rastUndrFLo A.rastUndrFHi 16 := by
    unfold State.loHi
    rw [hreg, hreg]
  rw [underrunNoted, noteUnderrun_only] at ht
  have hoffs : t.off = (switchedOff l f n s).off := by rw [ht]; rfl
  have hfab : t.fab = (switchedOff l f n s).fab := ht.fab_eq
  have hrcd : t.rcd.evt = s.rcd.evt ||| 8 := by rw [ht]; rfl
  refine ⟨fun m g k => ?_, ?_, ?_, ?_, fun h => ?_, fun h => ?_, hrcd, ht.hbm_eq, ht.rast_eq, ?_, fun a ha => ?_⟩
  · rw [← layerOff_switchedOff]
    unfold State.layerOff
    rw [hoffs]
  · rw [hfab]
    rfl
  · rw [hrf, underrunNoted, noteUnderrun_count _ _ _ _ _ _ _ hl]
    rfl
  · rw [hrf, underrunNoted, noteUnderrun_layer _ _ _ _ _ _ _ hl]
    rfl
  · have hfirst : firstUnderrun s f = true := decide_eq_true h
    have hpos : t.reg A.rastUndrPos = BitVec.ofNat 32 (n + l * 2 ^ 16 + cause * 2 ^ 19) := by rw [hreg, underrunNoted, hfirst, noteUnderrun_pos]
    refine ⟨by rw [hloHi, underrunNoted, hfirst, noteUnderrun_frame _ _ _ _ _ _ hf], ?_, ?_, ?_⟩ <;> unfold State.rf fld <;> rw [hpos, BitVec.toNat_ofNat] <;> omega
  · have hfirst : firstUnderrun s f = false := decide_eq_false h
    rw [hreg, underrunNoted, hfirst, noteUnderrun_reg_place _ _ _ _ _ _ _ (by decide)]
    rfl
  · rw [hfab]
    rfl
  · rw [hreg, underrunNoted, noteUnderrun_reg_other _ _ _ _ _ _ _ ha]
    rfl

/-- Settles O24, by what the check of one layer's line comes to, layer after layer, and by what an underrun writes. -/
theorem leadChecksAndUnderruns : Obligations.LeadChecksAndUnderruns := ⟨leadChecks, underrunSwitchesOff⟩

end Sys2Proof.Machine

/-! SUPPORT. The copy of admitted plans and the zeroing of what a withdrawn program declared: what one range of a memory, and one spar, comes to. -/

namespace Sys2Proof.Machine

theorem mem_uniq {α : Type} [DecidableEq α] (a : α) (l : List α) : a ∈ uniq l ↔ a ∈ l := by
  induction l with
  | nil => rfl
  | cons b t ih =>
    simp only [uniq, List.mem_cons, List.mem_filter, decide_eq_true_eq, ih]
    by_cases h : a = b <;> simp [h]

/-! ### A range of a memory -/

/-- A codeword lies whole within the range of `n` bytes from `a`. -/
def wholeIn (a n cw : Nat) : Bool := decide (a ≤ 8 * cw ∧ 8 * cw + 8 ≤ a + n)

/-- The codewords that lie whole within a range go. -/
def Mem.dropWhole (m : Mem) (a n : Nat) : Mem :=
  ⟨smDrop (fun b => decide (a ≤ b ∧ b < a + n) && wholeIn a n (b / 8)) m.bytes, smDrop (wholeIn a n) m.marks, smDrop (wholeIn a n) m.flips⟩

/-- The writes of zeros to the codewords that a range covers in part. -/
def edgeZeros (a n : Nat) : List (Nat × Byte × Nat) :=
  ((if n = 0 then [] else uniq [a / 8, (a + n - 1) / 8]).filter (fun cw => !wholeIn a n cw)).flatMap (fun cw =>
    ((List.range 8).filter (fun i => decide (a ≤ 8 * cw + i ∧ 8 * cw + i < a + n))).map (fun i => (8 * cw + i, (0 : Byte), 0)))

theorem Mem.clearRange_eq (m : Mem) (a n : Nat) : m.clearRange a n = (m.dropWhole a n).write (edgeZeros a n) := rfl

theorem edgeZeros_zero {a n : Nat} {w : Nat × Byte × Nat} (h : w ∈ edgeZeros a n) : w.2 = (0, 0) := by
  simp only [edgeZeros, List.mem_flatMap, List.mem_map] at h
  obtain ⟨cw, -, i, -, rfl⟩ := h
  rfl

/-- The zeros written are the bytes of the range in codewords that it covers in part. -/
theorem mem_edgeZeros (a n b : Nat) : (∃ w ∈ edgeZeros a n, w.1 = b) ↔ a ≤ b ∧ b < a + n ∧ wholeIn a n (b / 8) = false := by
  simp only [edgeZeros, List.mem_flatMap, List.mem_map, List.mem_filter, List.mem_range, decide_eq_true_eq, Bool.not_eq_true']
  constructor
  · rintro ⟨w, ⟨cw, ⟨-, hw⟩, i, ⟨hi, h1, h2⟩, rfl⟩, rfl⟩
    have hcw : (8 * cw + i) / 8 = cw := by omega
    exact ⟨h1, h2, by rw [hcw]; exact hw⟩
  · rintro ⟨h1, h2, hw⟩
    refine ⟨_, ⟨b / 8, ⟨?_, hw⟩, b % 8, ⟨by omega, by omega, by omega⟩, rfl⟩, by simp only; omega⟩
    rw [if_neg (by omega), mem_uniq]
    simp only [wholeIn, decide_eq_false_iff_not] at hw
    simp only [List.mem_cons, List.not_mem_nil, or_false]
    omega

theorem Mem.dropWhole_clean {m : Mem} (h : m.Clean) (a n : Nat) : (m.dropWhole a n).Clean := by
  intro cw
  unfold Mem.mark Mem.dropWhole
  simp only [smGet_smDrop]
  refine ⟨?_, ?_⟩ <;> split
  · rfl
  · exact (h cw).1
  · rfl
  · exact (h cw).2

/-- Writes of zeros make every byte written 0. -/
theorem writeBytes_zero (f : Nat → Byte) (ws : List (Nat × Byte × Nat)) (h : ∀ w ∈ ws, w.2.1 = 0) (b : Nat) :
    writeBytes f ws b = if ∃ w ∈ ws, w.1 = b then 0 else f b := by
  unfold writeBytes
  induction ws using List.reverseRecOn with
  | nil => simp
  | append_singleton l w ih =>
    rw [List.foldl_append, ih (fun x hx => h x (by simp [hx])), List.foldl_cons, List.foldl_nil, h w (by simp)]
    by_cases hw : w.1 = b
    · rw [if_pos hw, if_pos ⟨w, by simp, hw⟩]
    · rw [if_neg hw]
      refine if_congr ?_ rfl rfl
      simp [or_and_right, exists_or, hw]

theorem Mem.clearRange_clean {m : Mem} (h : m.Clean) (a n : Nat) : (m.clearRange a n).Clean := by
  rw [Mem.clearRange_eq]
  exact Mem.write_clean (Mem.dropWhole_clean h a n) _ (fun w hw => by rw [edgeZeros_zero hw])

/-- The bytes of the range are 0 and every other stands (R615). -/
theorem Mem.clearRange_byte {m : Mem} (h : m.Clean) (a n b : Nat) : (m.clearRange a n).byte b = if a ≤ b ∧ b < a + n then 0 else m.byte b := by
  rw [Mem.clearRange_eq, Mem.write_byte (Mem.dropWhole_clean h a n) _ (fun w hw => by rw [edgeZeros_zero hw]),
    writeBytes_zero _ _ (fun w hw => by rw [edgeZeros_zero hw])]
  have hb : (m.dropWhole a n).byte b = if a ≤ b ∧ b < a + n ∧ wholeIn a n (b / 8) = true then 0 else m.byte b := by
    unfold Mem.byte Mem.dropWhole
    rw [smGet_smDrop]
    refine if_congr ?_ rfl rfl
    simp [and_assoc]
  rw [hb]
  simp only [mem_edgeZeros]
  by_cases hin : a ≤ b ∧ b < a + n
  · cases hw : wholeIn a n (b / 8) <;> simp [hin]
  · rw [if_neg (fun x => hin ⟨x.1, x.2.1⟩), if_neg (fun x => hin ⟨x.1, x.2.1⟩), if_neg hin]

/-- The ranges of a bay that a program declared for itself are zeroed one after the other. -/
def clearRanges (n : Nat) (rs : List LoftRange) (m : Mem) : Mem := rs.foldl (fun m r => m.clearRange (bayKey n r.off) r.len) m

theorem clearRanges_clean {m : Mem} (h : m.Clean) (n : Nat) (rs : List LoftRange) : (clearRanges n rs m).Clean := by
  unfold clearRanges
  induction rs generalizing m with
  | nil => exact h
  | cons r t ih => exact ih (Mem.clearRange_clean h _ _)

theorem clearRanges_byte {m : Mem} (h : m.Clean) (n : Nat) (rs : List LoftRange) (b : Nat) :
    (clearRanges n rs m).byte b = if ∃ r ∈ rs, bayKey n r.off ≤ b ∧ b < bayKey n r.off + r.len then 0 else m.byte b := by
  unfold clearRanges
  induction rs generalizing m with
  | nil => simp
  | cons r t ih =>
    rw [List.foldl_cons, ih (Mem.clearRange_clean h _ _), Mem.clearRange_byte h]
    by_cases hr : bayKey n r.off ≤ b ∧ b < bayKey n r.off + r.len
    · rw [if_pos hr, ite_self, if_pos ⟨r, List.mem_cons_self, hr⟩]
    · rw [if_neg hr]
      refine if_congr ?_ rfl rfl
      simp [hr]

/-- A byte of a bay lies in a range of a bay where the bays are the same and the range holds its address. -/
theorem bayKey_in {r : LoftRange} (hr : r.off + r.len ≤ 2 ^ 23) {a : Nat} (ha : a < 2 ^ 23) (m n : Nat) :
    (bayKey m r.off ≤ bayKey n a ∧ bayKey n a < bayKey m r.off + r.len) ↔ n = m ∧ r.off ≤ a ∧ a < r.off + r.len := by
  unfold bayKey
  omega

/-! ### One spar -/

section spar
variable (z : Zeroing) (s : State) (m n : Nat)

theorem zeroSpar_sReg {k : Nat} (hk : k < 32) : (zeroSpar z s m).sReg n k = if n = m ∧ bitOf z.sUse k = true then 0 else s.sReg n k := by
  unfold State.sReg zeroSpar
  rw [smGet_smDrop, show (32 * n + k) / 32 = n by omega, show (32 * n + k) % 32 = k by omega]
  exact if_congr (by simp) rfl rfl

theorem zeroSpar_aReg {k : Nat} (hk : k < 8) : (zeroSpar z s m).aReg n k = if n = m ∧ bitOf z.aUse k = true then 0 else s.aReg n k := by
  unfold State.aReg zeroSpar
  rw [smGet_smDrop, show (8 * n + k) / 8 = n by omega, show (8 * n + k) % 8 = k by omega]
  exact if_congr (by simp) rfl rfl

theorem zeroSpar_gen : (zeroSpar z s m).genIdx n = if n = m ∧ z.gen = true then 0 else s.genIdx n := by
  unfold State.genIdx zeroSpar
  cases hg : z.gen
  · simp
  · simp only [if_true, and_true]
    exact smGet_smPut 0 s.fab.gen m n 0

theorem zeroSpar_half {h r c : Nat} (hh : h < 32) (hr : r < 64) (hc : c < 64) :
    (zeroSpar z s m).half n h r c = if n = m ∧ bitOf z.slots h = true then Half.zero else s.half n h r c := by
  have hk : crucKey n h r c / 4096 = 32 * n + h := by unfold crucKey; omega
  unfold State.half zeroSpar
  rw [smGet_smDrop, hk, show (32 * n + h) / 32 = n by omega, show (32 * n + h) % 32 = h by omega]
  exact if_congr (by simp) rfl rfl

/-- Records set to one value: each that is named reads it. -/
theorem smGet_foldl_smPut {α : Type} [DecidableEq α] (d v : α) (key : Nat → Nat) (l : List Nat) (x : List (Nat × α)) (q : Nat) :
    smGet d (l.foldl (fun y h => smPut d y (key h) v) x) q = if ∃ h ∈ l, key h = q then v else smGet d x q := by
  induction l generalizing x with
  | nil => simp
  | cons h t ih =>
    rw [List.foldl_cons, ih, smGet_smPut]
    by_cases hq : q = key h
    · rw [if_pos hq, ite_self, if_pos ⟨h, List.mem_cons_self, hq.symm⟩]
    · rw [if_neg hq]
      refine if_congr ?_ rfl rfl
      simp [Ne.symm hq]

theorem zeroSpar_descr {h : Nat} (hh : h < 32) : (zeroSpar z s m).descr n h = if n = m ∧ bitOf z.slots h = true then ⟨false, 0⟩ else s.descr n h := by
  unfold State.descr zeroSpar
  refine (smGet_foldl_smPut ⟨false, 0⟩ ⟨false, 0⟩ (fun h => 32 * m + h) _ s.fab.descr (32 * n + h)).trans (if_congr ?_ rfl rfl)
  simp only [List.mem_filter, List.mem_range]
  constructor
  · rintro ⟨x, ⟨hx, hb⟩, hq⟩
    obtain ⟨rfl, rfl⟩ : n = m ∧ x = h := by omega
    exact ⟨rfl, hb⟩
  · rintro ⟨rfl, hb⟩
    exact ⟨h, ⟨hh, hb⟩, rfl⟩

theorem zeroSpar_loft : (zeroSpar z s m).fab.loft = clearRanges m (z.ranges.filter (fun r => !r.shared)) s.fab.loft := rfl

/-- The bytes of a bay that the program declared for itself are 0 (R615). -/
theorem zeroSpar_fetch (hc : s.fab.loft.Clean) (hr : ∀ r ∈ z.ranges, r.off + r.len ≤ 2 ^ 23) {a : Nat} (ha : a < 2 ^ 23) :
    (zeroSpar z s m).fab.loft.fetch (bayKey n a) =
      if n = m ∧ ∃ r ∈ z.ranges, r.shared = false ∧ r.off ≤ a ∧ a < r.off + r.len then (0, 0) else s.fab.loft.fetch (bayKey n a) := by
  rw [zeroSpar_loft, (clearRanges_clean hc _ _).fetch, clearRanges_byte hc, hc.fetch]
  have hin : (∃ r ∈ z.ranges.filter (fun r => !r.shared), bayKey m r.off ≤ bayKey n a ∧ bayKey n a < bayKey m r.off + r.len) ↔
      n = m ∧ ∃ r ∈ z.ranges, r.shared = false ∧ r.off ≤ a ∧ a < r.off + r.len := by
    simp only [List.mem_filter, Bool.not_eq_true']
    constructor
    · rintro ⟨r, ⟨hmem, hs⟩, hb⟩
      obtain ⟨hnm, h1, h2⟩ := (bayKey_in (hr r hmem) ha m n).mp hb
      exact ⟨hnm, r, hmem, hs, h1, h2⟩
    · rintro ⟨hnm, r, hmem, hs, hb⟩
      exact ⟨r, ⟨hmem, hs⟩, (bayKey_in (hr r hmem) ha m n).mpr ⟨hnm, hb⟩⟩
  simp only [hin]
  split <;> rfl

end spar

/-! ### Spar after spar -/

/-- What one spar's turn does to what is read of it and of no other, all the turns do where the spar has one. `keep` is what a turn rests on. -/
theorem foldl_turns {α : Type} {f : State → Nat → State} {read : State → α} {n : Nat} {p : Prop} [Decidable p] {v : α} (keep : State → Prop)
    (hkeep : ∀ s m, keep s → keep (f s m)) (hf : ∀ s m, keep s → read (f s m) = if n = m ∧ p then v else read s)
    (l : List Nat) {s : State} (hs : keep s) : read (l.foldl f s) = if n ∈ l ∧ p then v else read s := by
  induction l generalizing s with
  | nil => simp
  | cons m t ih =>
    rw [List.foldl_cons, ih (hkeep s m hs), hf s m hs]
    by_cases hm : n = m ∧ p
    · rw [if_pos hm, ite_self, if_pos ⟨by rw [hm.1]; exact List.mem_cons_self, hm.2⟩]
    · rw [if_neg hm]
      refine if_congr ?_ rfl rfl
      rw [List.mem_cons, or_and_right, or_iff_right hm]

/-- Zeroing touches nothing but crucible, descriptor records, registers and bays. -/
theorem zeroSpars_only (z : Zeroing) (l : List Nat) (s : State) : let t := l.foldl (zeroSpar z) s
    t = { s with fab := { s.fab with crucible := t.fab.crucible, descr := t.fab.descr, sreg := t.fab.sreg, areg := t.fab.areg, gen := t.fab.gen, loft := t.fab.loft } } := by
  induction l generalizing s with
  | nil => rfl
  | cons m t ih =>
    intro u
    exact ih (zeroSpar z s m)

/-- The spars that a withdrawn program named and that are present. -/
def zeroedSpars (z : Zeroing) (s : State) : List Nat := (List.range 64).filter (fun n => bitOf z.spars n && !s.absent n)

theorem mem_zeroedSpars (z : Zeroing) (s : State) {n : Nat} (h : n < 64) : n ∈ zeroedSpars z s ↔ bitOf z.spars n = true ∧ s.absent n = false := by
  unfold zeroedSpars
  simp [h]

/-- What is read of a spar once all the turns are over. -/
theorem zeroedSpars_read {α : Type} {z : Zeroing} {s u : State} (read : State → α) {n : Nat} {p : Prop} [Decidable p] {v : α} (hn : n < 64)
    (hf : ∀ t m, read (zeroSpar z t m) = if n = m ∧ p then v else read t) :
    read ((zeroedSpars z s).foldl (zeroSpar z) u) = if (bitOf z.spars n = true ∧ s.absent n = false) ∧ p then v else read u :=
  (foldl_turns (fun _ => True) (fun _ _ => id) (fun t m _ => hf t m) _ trivial).trans (if_congr (and_congr_left' (mem_zeroedSpars z s hn)) rfl rfl)

/-! ### The commands -/

theorem exec_resourceZeroing (s0 : State) : exec .resourceZeroing s0 = .next (resourceZeroing (reachOffer s0)) := rfl

theorem resourceZeroing_idle {s : State} (h : s.zeroQ = [] ∨ s.slackOpen = false) : resourceZeroing s = s := by
  unfold resourceZeroing
  split
  · next z t hq =>
    refine if_neg ?_
    rcases h with h | h
    · exact absurd (h.symm.trans hq) (by simp)
    · rw [h]
      decide
  · rfl

theorem resourceZeroing_oldest {s : State} {z : Zeroing} {l : List Zeroing} (hq : s.zeroQ = z :: l) (ho : s.slackOpen = true) :
    resourceZeroing s = (zeroedSpars z s).foldl (zeroSpar z) { s with zeroQ := l } := by
  unfold resourceZeroing
  simp only [hq]
  exact if_pos ho

/-- Settles O46: the copy marks its slot, and zeroing takes the spars that the oldest program named in turn, each touching what is its own. -/
theorem planCopyAndZeroing : Obligations.PlanCopyAndZeroing := by
  refine ⟨fun n s h => ?_, fun n s hp hl ho => ?_, fun s0 h => ?_, fun s0 z l hq ho => ?_⟩
  · refine congrArg Host.Outcome.next (if_pos ?_)
    rw [Bool.not_eq_true']
    exact h
  · refine congrArg Host.Outcome.next (if_neg ?_)
    rw [hl, ho]
    rintro (⟨h1, h2⟩ | h | h)
    · exact hp.elim (fun h => h h1) (fun h => h h2)
    · exact absurd h (by decide)
    · exact absurd h (by decide)
  · rw [exec_resourceZeroing, resourceZeroing_idle h]
  · generalize hs : reachOffer s0 = s at hq ho ⊢
    have hx : exec .resourceZeroing s0 = .next ((zeroedSpars z s).foldl (zeroSpar z) { s with zeroQ := l }) := by
      rw [exec_resourceZeroing, hs, resourceZeroing_oldest hq ho]
    have honly := zeroSpars_only z (zeroedSpars z s) { s with zeroQ := l }
    refine ⟨_, hx, by rw [honly], honly, fun n hn => ?_⟩
    refine ⟨fun k hk => ?_, fun k hk => ?_, ?_, fun h r c hh hr hc => ?_, fun h hh => ?_, fun _ hm hf hr a ha => ?_⟩
    · exact zeroedSpars_read (fun t => t.sReg n k) hn (fun t m => zeroSpar_sReg z t m n hk)
    · exact zeroedSpars_read (fun t => t.aReg n k) hn (fun t m => zeroSpar_aReg z t m n hk)
    · exact zeroedSpars_read (fun t => t.genIdx n) hn (fun t m => zeroSpar_gen z t m n)
    · exact zeroedSpars_read (fun t => t.half n h r c) hn (fun t m => zeroSpar_half z t m n hh hr hc)
    · exact zeroedSpars_read (fun t => t.descr n h) hn (fun t m => zeroSpar_descr z t m n hh)
    · have hclean : ({ s with zeroQ := l } : State).fab.loft.Clean := Mem.clean_of_nil hm hf
      exact (foldl_turns (read := fun t => t.fab.loft.fetch (bayKey n a)) (fun t => t.fab.loft.Clean) (fun t m h => clearRanges_clean h m _)
        (fun t m h => zeroSpar_fetch z t m n h hr ha) _ hclean).trans (if_congr (and_congr_left' (mem_zeroedSpars z s hn)) rfl rfl)

end Sys2Proof.Machine

/-! SUPPORT. Background work: what scrub does to a sound memory, what a stack window and a slack interval come to, and the event of a spar that fails its self test. -/

namespace Sys2Proof.Machine

/-! ### Scrub of a memory -/

theorem scrubWrite_clean {m : Mem} {cw : Nat} (h : (m.read cw).kind = .clean) : scrubWrite m cw = m := by
  unfold scrubWrite
  simp only [h]

theorem scrubWrite_corrected {m : Mem} {cw : Nat} (h : (m.read cw).kind = .ce1 ∨ (m.read cw).kind = .ce2) :
    scrubWrite m cw = m.writeCw cw (m.read cw).data (m.read cw).marked := by
  unfold scrubWrite
  rcases h with h | h <;> simp only [h]

/-- A codeword that is not uncorrectable is written back as it reads, corrected (R518). -/
theorem scrubWrite_correctable {m : Mem} {cw : Nat} (h : (m.read cw).kind ≠ .ue) (hm : (m.read cw).marked ≤ 1) :
    (scrubWrite m cw).read cw = ⟨.clean, (m.read cw).data, (m.read cw).marked⟩ ∧ ∀ x, x ≠ cw → (scrubWrite m cw).read x = m.read x := by
  have hback : (m.writeCw cw (m.read cw).data (m.read cw).marked).read cw = ⟨.clean, (m.read cw).data, (m.read cw).marked⟩ := by
    rw [Mem.writeCw_read_same, Nat.min_eq_right hm]
  have hall : ∀ x, x ≠ cw → (m.writeCw cw (m.read cw).data (m.read cw).marked).read x = m.read x := fun x hx => Mem.writeCw_read_other m _ _ hx
  cases hk : (m.read cw).kind with
  | clean =>
    rw [scrubWrite_clean hk]
    exact ⟨by rw [← hk], fun _ _ => rfl⟩
  | ce1 =>
    rw [scrubWrite_corrected (.inl hk)]
    exact ⟨hback, hall⟩
  | ce2 =>
    rw [scrubWrite_corrected (.inr hk)]
    exact ⟨hback, hall⟩
  | ue => exact absurd hk h

/-- An uncorrectable codeword is written back with its mark (R518). -/
theorem scrubWrite_ue {m : Mem} {cw : Nat} (h : (m.read cw).kind = .ue) : (scrubWrite m cw).read cw = ⟨.clean, (m.read cw).data, 1⟩ := by
  unfold scrubWrite
  simp only [h]
  exact Mem.writeCw_read_same m cw _ 1

theorem Mem.Clean.not_tainted {m : Mem} (h : m.Clean) (cw : Nat) : m.tainted cw = false := by
  unfold Mem.tainted
  simp only [(h cw).1, (h cw).2, ne_eq, not_true_eq_false, decide_false, Bool.or_self]

section sound
variable {m : Mem} (h : m.Clean)
include h

theorem Mem.Clean.scrubWrite (cw : Nat) : scrubWrite m cw = m := scrubWrite_clean (by rw [h.read])

theorem Mem.Clean.sectorUe (x : Nat) : sectorUe m x = false := by
  unfold Machine.sectorUe
  simp [h.read]

theorem Mem.Clean.sectorCe (x : Nat) : sectorCe m x = false := by
  unfold Machine.sectorCe
  simp [h.read]

/-- A sector of a sound memory is written back as it stands. -/
theorem Mem.Clean.writeBack (x : Nat) : writeBack m x false = m := by
  unfold Machine.writeBack
  refine List.foldlRecOn (motive := fun t => t = m) _ _ rfl ?_
  rintro t rfl i -
  simp [h.scrubWrite]

end sound

/-- What every step of a run leaves as it is, the run leaves. -/
theorem foldl_fixed {α β : Type} {f : α → β → α} {s : α} (l : List β) (h : ∀ x ∈ l, f s x = s) : l.foldl f s = s := by
  induction l with
  | nil => rfl
  | cons x t ih => rw [List.foldl_cons, h x (by simp), ih (fun y hy => h y (by simp [hy]))]

theorem hbmReadCw_sound {s : State} (h : s.hbm.Clean) (src cw : Nat) : s.hbmReadCw src cw = s := by
  unfold State.hbmReadCw
  exact if_pos (by rw [h.not_tainted]; rfl)

theorem loftReadCw_sound {s : State} (h : s.fab.loft.Clean) (spar cw : Nat) (scrub : Bool) : s.loftReadCw spar cw scrub = s := by
  unfold State.loftReadCw
  exact if_pos (by rw [h.not_tainted]; rfl)

/-- Scrub of a sector of a sound HBM changes nothing (R518). -/
theorem scrubSector_sound {s : State} (h : s.hbm.Clean) (hard : List Nat) (x : Nat) : scrubSector hard s x = s := by
  unfold scrubSector
  simp only [h.sectorUe, Bool.false_and, Bool.false_eq_true, if_false]
  rw [foldl_fixed _ (fun i _ => hbmReadCw_sound h 2 (8 * x + i)), h.writeBack]

theorem scrubSectors_sound {s : State} (h : s.hbm.Clean) (hard l : List Nat) : l.foldl (scrubSector hard) s = s :=
  foldl_fixed l (fun x _ => scrubSector_sound h hard x)

/-! ### Refresh -/

/-- Refresh moves on to the next group and holds its banks (R514). -/
theorem refreshOnce_only (s : State) : ∃ pc bk, refreshOnce s =
    { s with slk := { s.slk with refGroup := (s.slk.refGroup + 1) % 4, pcFree := pc, bankFree := bk } } := ⟨_, _, rfl⟩

theorem refreshes_only (l : List Nat) (s : State) : ∃ g pc bk, l.foldl (fun t _ => refreshOnce t) s =
    { s with slk := { s.slk with refGroup := g, pcFree := pc, bankFree := bk } } ∧ (s.slk.refGroup < 4 → g = (s.slk.refGroup + l.length) % 4) := by
  induction l generalizing s with
  | nil => exact ⟨s.slk.refGroup, s.slk.pcFree, s.slk.bankFree, rfl, fun h => (Nat.mod_eq_of_lt h).symm⟩
  | cons x t ih =>
    obtain ⟨pc1, bk1, h1⟩ := refreshOnce_only s
    rw [List.foldl_cons, h1]
    obtain ⟨g, pc, bk, he, hg⟩ := ih { s with slk := { s.slk with refGroup := (s.slk.refGroup + 1) % 4, pcFree := pc1, bankFree := bk1 } }
    refine ⟨g, pc, bk, he, fun _ => ?_⟩
    rw [hg (Nat.mod_lt _ (by decide)), List.length_cons]
    simp only
    omega

/-- The refresh of a window: the next group, and in a pause those of a whole frame period (R514, R515). -/
theorem refresh_only (s : State) : ∃ g pc bk, refresh s = { s with slk := { s.slk with refGroup := g, pcFree := pc, bankFree := bk } } ∧
    (s.rast.paused = false → g = (s.slk.refGroup + 1) % 4) ∧
    (s.rast.paused = true → s.slk.refGroup < 4 → g = (s.slk.refGroup + (s.rast.linesTotal - 4)) % 4) := by
  unfold refresh
  cases hp : s.rast.paused
  · obtain ⟨pc, bk, he⟩ := refreshOnce_only s
    exact ⟨_, pc, bk, he, fun _ => rfl, fun h => absurd h (by decide)⟩
  · obtain ⟨g, pc, bk, he, hg⟩ := refreshes_only (List.range (s.rast.linesTotal - 4)) s
    rw [List.length_range] at hg
    exact ⟨g, pc, bk, he, fun h => absurd h (by decide), fun _ => hg⟩

/-! ### Scrub of HBM -/

/-- Accesses placed in a window change when its channels and banks are free. -/
theorem playAll_only (w : Slack) (l : List Nat) : ∃ pc bk, (w.playAll l).1 = { w with pcFree := pc, bankFree := bk } := by
  unfold Slack.playAll
  generalize true = b
  induction l generalizing w b with
  | nil => exact ⟨w.pcFree, w.bankFree, rfl⟩
  | cons x t ih => exact ih (w.play x) _

/-- What scrub in a sound HBM does to the registers, by whether it is enabled and whether its batch fits (R37, R518). -/
structure Scrubbed (s t : State) (n : Nat) (fits : Bool) : Prop where
  only : ∃ pc bk, t = { s with regs := t.regs, slk := { s.slk with pcFree := pc, bankFree := bk } }
  other : ∀ a, a ∉ [A.hbmScrubPos, A.hbmScrubStat, A.hbmDefer] → t.reg a = s.reg a
  still : s.rf A.hbmScrubCtl 0 0 = 0 ∨ fits = false → t.reg A.hbmScrubPos = s.reg A.hbmScrubPos
  moves : s.rf A.hbmScrubCtl 0 0 = 1 → fits = true → t.rf A.hbmScrubPos 28 0 = (s.rf A.hbmScrubPos 28 0 + n) % stackSectors
  defers : t.rf A.hbmDefer 15 0 = if s.rf A.hbmScrubCtl 0 0 = 1 ∧ fits = false then min (s.rf A.hbmDefer 15 0 + 1) 65535 else s.rf A.hbmDefer 15 0

theorem State.rf_bit_cases (s : State) (a b : Nat) : s.rf a b b = 0 ∨ s.rf a b b = 1 := by
  have h := fld_lt (s.reg a) b b
  rw [show b + 1 - b = 1 by omega] at h
  unfold State.rf
  omega

/-- A scrub that is not enabled. -/
theorem Scrubbed.disabled {s : State} (h : s.rf A.hbmScrubCtl 0 0 = 0) (n : Nat) (fits : Bool) : Scrubbed s s n fits where
  only := ⟨s.slk.pcFree, s.slk.bankFree, rfl⟩
  other _ _ := rfl
  still _ := rfl
  moves h1 := by rw [h] at h1; exact absurd h1 (by decide)
  defers := by rw [if_neg (by rw [h]; exact fun x => absurd x.1 (by decide))]

/-- A scrub batch that does not fit is deferred whole. -/
theorem Scrubbed.deferred {s : State} (h : s.rf A.hbmScrubCtl 0 0 = 1) (n : Nat) : Scrubbed s (deferScrub s) n false where
  only := ⟨s.slk.pcFree, s.slk.bankFree, rfl⟩
  other a ha := State.reg_bump_ne s _ _ _ _ (fun e => ha (by simp [e]))
  still _ := State.reg_bump_ne s _ _ _ _ (by decide)
  moves _ h2 := absurd h2 (by decide)
  defers := by rw [if_pos ⟨h, rfl⟩]; exact State.rf_bump_same s _ 1 (by decide) (by decide)

/-- The register writes of a batch that ran: the position, and a pass over the stack that it completed. -/
def scrubRegs (s : State) (next : Nat) : State :=
  let t := s.setReg A.hbmScrubPos (BitVec.ofNat 32 (next % stackSectors))
  if stackSectors ≤ next then t.bump A.hbmScrubStat 15 0 1 else t

theorem scrubRegs_only (s : State) (next : Nat) : scrubRegs s next = { s with regs := (scrubRegs s next).regs } := by
  unfold scrubRegs
  by_cases h : stackSectors ≤ next <;> simp only [h, if_true, if_false] <;> rfl

theorem scrubRegs_reg (s : State) (next : Nat) {a : Nat} (h : a ≠ A.hbmScrubStat) :
    (scrubRegs s next).reg a = if a = A.hbmScrubPos then BitVec.ofNat 32 (next % stackSectors) else s.reg a := by
  unfold scrubRegs
  simp only
  split
  · rw [State.reg_bump_ne _ _ _ _ _ h, State.reg_setReg]
  · rw [State.reg_setReg]

/-- A scrub batch that ran. -/
theorem Scrubbed.ran {s : State} (h : s.rf A.hbmScrubCtl 0 0 = 1) (l : List Nat) :
    Scrubbed s (scrubRegs { s with slk := (s.slk.playAll l).1 } (s.rf A.hbmScrubPos 28 0 + l.length)) l.length true where
  only := by
    obtain ⟨pc, bk, hw⟩ := playAll_only s.slk l
    refine ⟨pc, bk, ?_⟩
    rw [← hw]
    exact scrubRegs_only _ _
  other a ha := by
    simp only [List.mem_cons, List.not_mem_nil, or_false, not_or] at ha
    rw [scrubRegs_reg _ _ ha.2.1, if_neg ha.1]
    rfl
  still h1 := by
    rw [h] at h1
    exact absurd h1 (by decide)
  moves _ _ := by
    have hlt : (s.rf A.hbmScrubPos 28 0 + l.length) % stackSectors < 2 ^ 29 := (Nat.mod_lt _ (by decide)).trans (by decide)
    unfold State.rf fld at hlt ⊢
    rw [scrubRegs_reg _ _ (by decide), if_pos rfl, BitVec.toNat_ofNat]
    omega
  defers := by
    rw [if_neg (fun x => absurd x.2 (by decide))]
    unfold State.rf
    rw [scrubRegs_reg _ _ (by decide), if_neg (by decide)]
    rfl

/-- Scrub of a sound HBM (R37, R518). -/
theorem scrub_sound {s : State} (hc : s.hbm.Clean) (hard : List Nat) :
    Scrubbed s (scrub hard s) (scrubBatch s).length (s.slk.playAll (scrubBatch s)).2 := by
  rcases s.rf_bit_cases A.hbmScrubCtl 0 with h | h
  · have he : scrub hard s = s := if_pos h
    rw [he]
    exact .disabled h _ _
  · cases hf : (s.slk.playAll (scrubBatch s)).2
    · have he : scrub hard s = deferScrub s := by
        unfold scrub
        simp only [h, hf, one_ne_zero, Bool.false_eq_true, if_false]
      rw [he]
      exact .deferred h _
    · have hs : (scrubBatch s).foldl (scrubSector hard) { s with slk := (s.slk.playAll (scrubBatch s)).1 } = { s with slk := (s.slk.playAll (scrubBatch s)).1 } :=
        scrubSectors_sound (s := { s with slk := (s.slk.playAll (scrubBatch s)).1 }) hc hard _
      have he : scrub hard s = scrubRegs { s with slk := (s.slk.playAll (scrubBatch s)).1 } (s.rf A.hbmScrubPos 28 0 + (scrubBatch s).length) := by
        unfold scrub scrubRegs
        simp only [h, hf, hs, one_ne_zero, if_false, if_true]
      rw [he]
      exact .ran h _

/-! ### A stack window -/

/-- A calibration step takes its time from the window, or is deferred; the low half of HBM_DEFER and every other register stand (R515, R516). -/
theorem calibrate_only (s : State) : ∃ c n, calibrate s = { s with regs := (calibrate s).regs, slk := { s.slk with calDone := c, winLen := n } } ∧
    (∀ a, a ≠ A.hbmDefer → (calibrate s).reg a = s.reg a) ∧ (calibrate s).rf A.hbmDefer 15 0 = s.rf A.hbmDefer 15 0 := by
  unfold calibrate
  split
  · exact ⟨s.slk.calDone, s.slk.winLen, rfl, fun _ _ => rfl, rfl⟩
  · simp only
    split
    · exact ⟨_, _, rfl, fun _ _ => rfl, rfl⟩
    · exact ⟨s.slk.calDone, s.slk.winLen, rfl, fun a ha => State.reg_bump_ne s _ _ _ _ ha, State.rf_bump_below s _ _ (by decide) (by decide) (by decide)⟩

/-- The window as it opens, before anything runs in it (R513, R515). -/
def windowOpened (s0 s : State) : State :=
  { s with slk := { s.slk with
      win := true, winBlock := opensBlock s0 && !s0.rast.paused, winLen := windowLen s0, pcFree := [], bankFree := [], calDone := !s0.rast.paused && s.slk.calDone } }

theorem stackWindow_none {hard : List Nat} {s : State} (h : s.rf A.sysDrst 4 4 = 1 ∨ (s.rast.paused = false ∧ insideBlock s = true)) : stackWindow hard s = s := by
  unfold stackWindow State.memStopped
  refine if_pos ?_
  simpa using h

theorem stackWindow_opens {s0 s : State} (hs : (if s0.rast.paused then s0 else reachSlack s0) = s) (hd : s0.rf A.sysDrst 4 4 = 0)
    (hb : s0.rast.paused = true ∨ insideBlock s0 = false) (hq : s.repairQ = []) (hard : List Nat) :
    stackWindow hard s0 = serveBar2 (calibrate (scrub hard (refresh (windowOpened s0 s)))) := by
  obtain ⟨g, pc, bk, hr, -, -⟩ := refresh_only (windowOpened s0 s)
  have hrep : repair hard (refresh (windowOpened s0 s)) = refresh (windowOpened s0 s) := by
    rw [hr]
    exact if_pos hq
  have hopen : ¬((decide (s0.rf A.sysDrst 4 4 = 1) : Bool) = true ∨ ((!s0.rast.paused) = true ∧ insideBlock s0 = true)) := by
    rw [hd]
    rcases hb with h | h <;> simp [h]
  unfold stackWindow State.memStopped
  rw [if_neg hopen]
  simp only [hs]
  rw [← windowOpened, hrep]

/-! ### A slack interval -/

theorem setLoft_self (s : State) : s.setLoft s.fab.loft = s := rfl

/-- A sector of a sound bay read by loft scrub: the position moves on, and no bay has more corrections than before (R521, R522). -/
theorem loftScrubSector_moves {t : State} (hc : t.fab.loft.Clean) {n : Nat} (hle : smGet 0 t.slk.loftCe n ≤ t.rf A.loftScrubCtl 31 16) (hard : List Nat) :
    ∃ pos ce pass, loftScrubSector hard n t = { t with slk := { t.slk with loftPos := pos, loftCe := ce, loftPass := pass } } ∧
      ∀ q, smGet 0 ce q ≤ smGet 0 t.slk.loftCe q := by
  have hput : ∀ q, smGet 0 (smPut 0 t.slk.loftCe n (smGet 0 t.slk.loftCe n)) q = smGet 0 t.slk.loftCe q := by
    intro q
    rw [smGet_smPut]
    split
    · next h => rw [h]
    · rfl
  unfold loftScrubSector
  by_cases hr : generalRows t n = []
  · rw [if_pos hr]
    exact ⟨t.slk.loftPos, t.slk.loftCe, t.slk.loftPass, rfl, fun _ => le_rfl⟩
  · rw [if_neg hr]
    have hread : ∀ x, (List.range 8).foldl (fun u i => u.loftReadCw n (8 * x + i) true) t = t := fun x => foldl_fixed _ (fun i _ => loftReadCw_sound hc n _ true)
    have hce : ∀ x, b2n (sectorCe t.fab.loft x) = 0 := fun x => by rw [hc.sectorCe]; rfl
    have hth : ¬(t.rf A.loftScrubCtl 31 16 ≠ 0 ∧ t.rf A.loftScrubCtl 31 16 < smGet 0 t.slk.loftCe n) := by omega
    simp only [hc.sectorUe, Bool.false_and, Bool.false_eq_true, if_false, hc.writeBack, hread, setLoft_self, hce, add_zero, if_neg hth]
    split
    · refine ⟨_, _, _, rfl, fun q => ?_⟩
      rw [smGet_smPut, hput]
      split
      · exact Nat.zero_le _
      · exact le_rfl
    · exact ⟨_, _, t.slk.loftPass, rfl, fun q => (hput q).le⟩

/-- From s to t loft scrub has read some sectors: nothing but its positions and figures changed, and no bay's corrections came above the threshold (R521, R522). -/
def LoftScrubbed (s t : State) : Prop :=
  ∃ pos ce pass, t = { s with slk := { s.slk with loftPos := pos, loftCe := ce, loftPass := pass } } ∧ ∀ n, smGet 0 ce n ≤ s.rf A.loftScrubCtl 31 16

theorem LoftScrubbed.refl {s : State} (h : ∀ n, smGet 0 s.slk.loftCe n ≤ s.rf A.loftScrubCtl 31 16) : LoftScrubbed s s :=
  ⟨s.slk.loftPos, s.slk.loftCe, s.slk.loftPass, rfl, h⟩

theorem LoftScrubbed.sector {s t : State} (hc : s.fab.loft.Clean) (h : LoftScrubbed s t) (hard : List Nat) (n : Nat) : LoftScrubbed s (loftScrubSector hard n t) := by
  obtain ⟨pos, ce, pass, rfl, hle⟩ := h
  obtain ⟨pos', ce', pass', he, hle'⟩ := loftScrubSector_moves
    (t := { s with slk := { s.slk with loftPos := pos, loftCe := ce, loftPass := pass } }) hc (hle n) hard
  exact ⟨pos', ce', pass', he, fun q => (hle' q).trans (hle q)⟩

/-- The whole batch, in every bay (R521). -/
theorem LoftScrubbed.batch {s : State} (hc : s.fab.loft.Clean) (h : ∀ n, smGet 0 s.slk.loftCe n ≤ s.rf A.loftScrubCtl 31 16) (hard bays : List Nat) (n : Nat) :
    LoftScrubbed s (bays.foldl (fun t b => (List.range n).foldl (fun u _ => loftScrubSector hard b u) t) s) := by
  refine List.foldlRecOn bays _ (.refl h) fun t ht b _ => ?_
  exact List.foldlRecOn (List.range n) _ ht fun u hu _ _ => hu.sector hc hard b

/-- Passes that every bay has completed count, and the bays begin the next (R527). -/
theorem loftPasses_only (s : State) : ∃ pass, loftPasses s = { s with regs := (loftPasses s).regs, slk := { s.slk with loftPass := pass } } ∧
    (∀ a, a ≠ A.loftScrubStat → (loftPasses s).reg a = s.reg a) ∧ (loftPasses s).rf A.loftScrubStat 31 16 = s.rf A.loftScrubStat 31 16 := by
  unfold loftPasses
  split
  · exact ⟨_, rfl, fun a ha => State.reg_bump_ne s _ _ _ _ ha, State.rf_bump_above s _ _ (by decide) (by decide) (by decide)⟩
  · exact ⟨s.slk.loftPass, rfl, fun _ _ => rfl, rfl⟩

/-- The sectors of every bay that loft scrub reads in an interval (R521). -/
def loftBatch (s : State) : Nat := if s.slk.block then 64 * s.rf A.loftScrubCtl 11 8 else s.rf A.loftScrubCtl 11 8

/-- What loft scrub of sound bays does: it takes its time from the interval where its batch fits, and is deferred whole where it does not (R36, R37, R521). -/
structure LoftRan (s t : State) (fits : Bool) : Prop where
  only : ∃ pos ce pass, t = { s with regs := t.regs, slk := { s.slk with
    loftPos := pos, loftCe := ce, loftPass := pass, left := if fits then s.slk.left - ceilDiv (loftBatch s) 8 else s.slk.left } }
  other : ∀ a, a ≠ A.loftScrubStat → t.reg a = s.reg a
  defers : t.rf A.loftScrubStat 31 16 =
    if s.rf A.loftScrubCtl 0 0 = 1 ∧ fits = false then min (s.rf A.loftScrubStat 31 16 + 1) 65535 else s.rf A.loftScrubStat 31 16

theorem loftScrub_sound {s : State} (hc : s.fab.loft.Clean) (h : ∀ n, smGet 0 s.slk.loftCe n ≤ s.rf A.loftScrubCtl 31 16) (hard : List Nat) :
    LoftRan s (loftScrub hard s) (decide (s.rf A.loftScrubCtl 0 0 = 1 ∧ ceilDiv (loftBatch s) 8 ≤ s.slk.left)) := by
  rcases s.rf_bit_cases A.loftScrubCtl 0 with hctl | hctl
  · have he : loftScrub hard s = s := if_pos hctl
    have hf : decide (s.rf A.loftScrubCtl 0 0 = 1 ∧ ceilDiv (loftBatch s) 8 ≤ s.slk.left) = false := decide_eq_false (by omega)
    rw [he, hf]
    exact ⟨⟨_, _, _, rfl⟩, fun _ _ => rfl, by rw [if_neg (by omega)]⟩
  · by_cases hl : ceilDiv (loftBatch s) 8 ≤ s.slk.left
    · rw [decide_eq_true ⟨hctl, hl⟩]
      obtain ⟨pos, ce, pass, hb, -⟩ := LoftScrubbed.batch hc h hard s.spars (loftBatch s)
      have he : loftScrub hard s = loftPasses { s with slk := { s.slk with
          loftPos := pos, loftCe := ce, loftPass := pass, left := s.slk.left - ceilDiv (loftBatch s) 8 } } := by
        unfold loftScrub
        rw [if_neg (by omega)]
        simp only
        rw [← loftBatch, if_pos hl, hb]
      obtain ⟨pass', hp, hreg, hstat⟩ := loftPasses_only { s with slk := { s.slk with
        loftPos := pos, loftCe := ce, loftPass := pass, left := s.slk.left - ceilDiv (loftBatch s) 8 } }
      rw [he]
      exact ⟨⟨pos, ce, pass', hp⟩, hreg, by rw [if_neg (fun x => absurd x.2 (by decide))]; exact hstat⟩
    · rw [decide_eq_false (fun x => hl x.2)]
      have he : loftScrub hard s = s.bump A.loftScrubStat 31 16 1 := by
        unfold loftScrub
        rw [if_neg (by omega)]
        simp only
        rw [← loftBatch, if_neg hl]
      rw [he]
      exact ⟨⟨_, _, _, rfl⟩, fun a ha => State.reg_bump_ne s _ _ _ _ ha, by rw [if_pos ⟨hctl, rfl⟩]; exact State.rf_bump_same s _ 1 (by decide) (by decide)⟩

/-! ### Events in the black box -/

/-- From s to t no entry went to the black box. -/
def SameLog (s t : State) : Prop := t.ev.seq = s.ev.seq ∧ t.ev.box = s.ev.box

theorem SameLog.refl (s : State) : SameLog s s := ⟨rfl, rfl⟩

theorem SameLog.trans {s t u : State} (h : SameLog s t) (g : SameLog t u) : SameLog s u := ⟨g.1.trans h.1, g.2.trans h.2⟩

theorem SameLog.ite {s x y : State} (c : Prop) [Decidable c] (hx : SameLog s x) (hy : SameLog s y) : SameLog s (if c then x else y) := by
  split <;> assumption

theorem signal_sameLog (s : State) (p v : Nat) : SameLog s (s.signal p v) := .ite _ ⟨rfl, rfl⟩ ⟨rfl, rfl⟩

theorem w1c_sameLog (s : State) (x : List (Nat × Nat × Word)) : SameLog s { s with ev := { s.ev with w1c := x } } := ⟨rfl, rfl⟩

theorem w1cSet_sameLog (s : State) (k : Nat) (w : Word) : SameLog s (s.w1cSet k w) := w1c_sameLog s _

theorem setPreg_sameLog (s : State) (p a : Nat) (w : Word) : SameLog s (s.setPreg p a w) := ⟨rfl, rfl⟩

theorem hostErr_sameLog (s : State) (p b : Nat) : SameLog s (s.hostErr p b) := by
  unfold State.hostErr
  exact .ite _ (w1cSet_sameLog s _ _) (((w1cSet_sameLog s _ _).trans (setPreg_sameLog _ p _ _)).trans (signal_sameLog _ p 1))

theorem eqPut_sameLog (s : State) (p code : Nat) (m : Bool) (l c : Nat) (b : List Byte) : SameLog s (s.eqPut p code m l c b) := ⟨rfl, rfl⟩

theorem eqFlush_sameLog (s : State) (p : Nat) : SameLog s (s.eqFlush p) := .ite _ ⟨rfl, rfl⟩ (.refl s)

theorem eqDeliver_sameLog (s : State) (p code : Nat) (m : Bool) (l c : Nat) (b : List Byte) : SameLog s (s.eqDeliver p code m l c b).1 := by
  have h := eqFlush_sameLog s p
  unfold State.eqDeliver
  generalize s.eqFlush p = s0 at h ⊢
  simp only
  split
  · exact h.trans (eqPut_sameLog s0 p code m l c b)
  · have h4 : ∀ (k : Prop) [Decidable k] (x : State), SameLog s x → SameLog s (if k then x.hostErr p 4 else x) :=
      fun k _ x hx => .ite k (hx.trans (hostErr_sameLog x p 4)) hx
    refine .ite _ ?_ (SameLog.trans ?_ (hostErr_sameLog _ p 7))
    all_goals exact h4 _ _ (h.trans ⟨rfl, rfl⟩)

theorem deliveries_sameLog (ps : List Nat) (code l c : Nat) (b : List Byte) (acc : State × Bool × Bool) :
    SameLog acc.1 (ps.foldl (fun (acc : State × Bool × Bool) p =>
      let m := smGet false acc.1.ev.mergeOf (p * 2 ^ 16 + code)
      let r := acc.1.eqDeliver p code m l c b
      ({ r.1 with ev := { r.1.ev with mergeOf := smPut false r.1.ev.mergeOf (p * 2 ^ 16 + code) false } }, acc.2.1 || r.2, acc.2.2 || m)) acc).1 := by
  induction ps generalizing acc with
  | nil => exact .refl _
  | cons p t ih =>
    rw [List.foldl_cons]
    exact SameLog.trans ((eqDeliver_sameLog acc.1 p code _ l c b).trans ⟨rfl, rfl⟩) (ih _)

/-- An event that is recorded becomes the next entry of the black box (R607). -/
theorem postAt_event (s : State) (ps : List Nat) {code : Nat} (h : unloggedCode code = false) (c : Nat) (vs : List (Nat × Nat)) :
    Event s (s.postAt ps code c vs) code (packVals vs) := by
  have hp := postAt_posted s ps code c vs
  obtain ⟨hseq, hbox⟩ := deliveries_sameLog ps code s.rast.line c (packVals vs) (s, false, false)
  refine ⟨hp, ?_⟩
  unfold State.postAt
  simp only [h, Bool.false_eq_true, if_false]
  rw [logPut_seq, logPut_box, hseq]
  simp

/-! ### The self test -/

/-- A spar that fails is recorded with the physical spar below it (R109). -/
def sparFailed (s : State) (n : Nat) : State := { s with fab := { s.fab with failed := s.fab.failed ++ [n], badPhys := uniq (s.fab.badPhys ++ [s.phys n]) } }

theorem sparFails_event {s : State} {n : Nat} (hf : s.fab.failed.contains n = false) (ha : s.absent n = false) (c : Nat) :
    (sparFails c s n).fab = (sparFailed s n).fab ∧ Event (sparFailed s n) (sparFails c s n) 0x0301
      (leBytes 1 n ++ leBytes 1 (s.phys n) ++ leBytes 6 s.rast.frame.toNat ++ leBytes 2 s.rast.line ++ leBytes 2 c) := by
  have he : sparFails c s n = (sparFailed s n).postAt (sparFailed s n).ports 0x0301 c [(1, n), (1, s.phys n), s.vF, (2, s.rast.line), (2, c)] := by
    unfold sparFails
    rw [if_neg (by rw [hf, ha]; decide)]
    rfl
  rw [he]
  exact ⟨(postAt_posted _ _ _ _ _).fab_eq, postAt_event _ _ (by decide) c _⟩

/-- A step of the self test takes its 240 cycles, and each spar whose signature differs fails (R107, R109). -/
theorem selfTestStep_runs {s : State} (h : s.slk.isOpen = true ∧ 240 ≤ s.slk.left ∧ s.rast.paused = false) (fails : List (Fin 64)) (c : BitVec 16) :
    selfTestStep fails c s = fails.foldl (fun t n => sparFails c.toNat t n.val)
      { s with slk := { s.slk with left := s.slk.left - 240, selfStep := (s.slk.selfStep + 1) % 2048 } } := by
  obtain ⟨ho, hl, hp⟩ := h
  unfold selfTestStep
  exact if_pos ⟨ho, hl, by rw [hp]; rfl⟩

theorem selfTestStep_none {s : State} (h : ¬(s.slk.isOpen = true ∧ 240 ≤ s.slk.left ∧ s.rast.paused = false)) (fails : List (Fin 64)) (c : BitVec 16) :
    selfTestStep fails c s = s := by
  unfold selfTestStep
  refine if_neg fun ⟨ho, hl, hp⟩ => h ⟨ho, hl, ?_⟩
  rwa [Bool.not_eq_true'] at hp

/-! ### The statement -/

/-- What runs in a window over a sound HBM before the accesses that wait are served: refresh, the scrub batch and a calibration step (R513 to R518). -/
structure WindowRan (s0 s t : State) : Prop where
  only : t = { s with regs := t.regs, slk := t.slk }
  slk : ∃ g pc bk cal len, t.slk = { s.slk with
      win := true, winBlock := opensBlock s0 && !s0.rast.paused, winLen := len, pcFree := pc, bankFree := bk, calDone := cal, refGroup := g } ∧
    (s.rast.paused = false → g = (s.slk.refGroup + 1) % 4) ∧
    (s.rast.paused = true → s.slk.refGroup < 4 → g = (s.slk.refGroup + (s.rast.linesTotal - 4)) % 4)
  regs : ∃ v w, (∀ a, v.reg a = s.reg a) ∧ Scrubbed v w (scrubBatch s).length ((refresh (windowOpened s0 s)).slk.playAll (scrubBatch s)).2 ∧
    (∀ a, a ≠ A.hbmDefer → t.reg a = w.reg a) ∧ t.rf A.hbmDefer 15 0 = w.rf A.hbmDefer 15 0

theorem stackWindow_sound {s0 s : State} (hs : (if s0.rast.paused then s0 else reachSlack s0) = s) (hd : s0.rf A.sysDrst 4 4 = 0)
    (hb : s0.rast.paused = true ∨ insideBlock s0 = false) (hq : s.repairQ = []) (hc : s.hbm.Clean) (hard : List Nat) :
    ∃ t, stackWindow hard s0 = serveBar2 t ∧ WindowRan s0 s t := by
  have hx := stackWindow_opens hs hd hb hq hard
  generalize hv : refresh (windowOpened s0 s) = v at hx
  obtain ⟨g, pc, bk, hr, hg, hgp⟩ := refresh_only (windowOpened s0 s)
  rw [hv] at hr
  have hbatch : scrubBatch v = scrubBatch s := by rw [hr]; rfl
  have hscrub := scrub_sound (s := v) (by rw [hr]; exact hc) hard
  rw [hbatch] at hscrub
  obtain ⟨pc', bk', hw⟩ := hscrub.only
  obtain ⟨cal, len, ht, hreg, hdefer⟩ := calibrate_only (scrub hard v)
  refine ⟨_, hx, ?_, ⟨g, pc', bk', cal, len, ?_, hg, hgp⟩, ⟨v, scrub hard v, ?_, ?_, hreg, hdefer⟩⟩
  · rw [ht, hw, hr]
    rfl
  · rw [ht, hw, hr]
    rfl
  · intro a
    rw [hr]
    rfl
  · rw [hv]
    exact hscrub

/-- A slack interval as it opens (R308). -/
def intervalOpened (s0 s : State) : State :=
  { s with slk := { s.slk with
      isOpen := true, block := opensBlock s0, left := intervalLen s0, fin := (if s0.inExt then 0 else issueW s0.rast.linePeriod s0.rast.reef) + intervalLen s0 } }

theorem slackInterval_opens {s0 s : State} (hs : reachSlack s0 = s) (hp : s0.rast.paused = false) (hb : insideBlock s0 = false) (hard : List Nat) :
    slackInterval hard s0 = loftScrub hard (intervalOpened s0 s) := by
  unfold slackInterval
  rw [if_neg (by rw [hp, hb]; decide)]
  simp only [hs]
  rfl

theorem slackInterval_none {s : State} (h : s.rast.paused = true ∨ insideBlock s = true) (hard : List Nat) : slackInterval hard s = s := by
  unfold slackInterval
  exact if_pos h

section fails
variable {s : State} (w : Slack) {n : Nat} (hf : s.fab.failed.contains n = false) (ha : s.absent n = false) (c : Nat)
include hf ha

/-- What is left of the interval has no part in what a failing spar comes to. -/
theorem sparFails_failed : (sparFails c { s with slk := w } n).fab.failed = s.fab.failed ++ [n] := by
  rw [(sparFails_event (s := { s with slk := w }) hf ha c).1]
  rfl

theorem sparFails_told : let t := sparFails c { s with slk := w } n
    Event { s with slk := w, fab := { s.fab with failed := t.fab.failed, badPhys := t.fab.badPhys } } t 0x0301
      (leBytes 1 n ++ leBytes 1 (s.phys n) ++ leBytes 6 s.rast.frame.toNat ++ leBytes 2 s.rast.line ++ leBytes 2 c) := by
  obtain ⟨hfab, hev⟩ := sparFails_event (s := { s with slk := w }) hf ha c
  simp only [hfab]
  exact hev

end fails

/-- Settles O52: scrub writes back what it read; a window runs refresh, scrub and calibration, of which a sound memory sees nothing; an interval gives its first cycles to
loft scrub; and a failing spar's event is the next entry of the black box. -/
theorem backgroundWork : Obligations.BackgroundWork := by
  refine ⟨fun _ _ => scrubWrite_correctable, fun _ _ => scrubWrite_ue, fun hard s0 => ?_, fun hard s0 => ?_, fun fails c s => ?_⟩
  · generalize hs : (if s0.rast.paused then s0 else reachSlack s0) = s
    refine ⟨fun h => congrArg Host.Outcome.next (stackWindow_none h), fun hd hb hm hf hq => ?_⟩
    obtain ⟨t, hx, honly, ⟨g, pc, bk, cal, len, hslk, hg, hgp⟩, v, w, hv, hw, hreg, hdefer⟩ := stackWindow_sound hs hd hb hq (Mem.clean_of_nil hm hf) hard
    have hvf : ∀ a hi lo, v.rf a hi lo = s.rf a hi lo := fun a hi lo => by unfold State.rf; rw [hv]
    refine ⟨t, congrArg Host.Outcome.next hx, honly, by rw [hslk], by rw [hslk], fun h => ?_, fun h h4 => ?_, by rw [hslk], by rw [hslk], fun a ha => ?_,
      fun h => ?_, fun h1 h2 => ?_, ?_⟩
    · rw [hslk]
      exact hg h
    · rw [hslk]
      exact hgp h h4
    · rw [hreg a (fun h => ha (by simp [h])), hw.other a ha, hv]
    · rw [hreg _ (by decide), hw.still (by rwa [hvf]), hv]
    · rw [← hvf, ← hw.moves (by rwa [hvf]) h2]
      unfold State.rf
      rw [hreg _ (by decide)]
    · rw [hdefer, hw.defers, hvf, hvf]
      rfl
  · generalize hs : reachSlack s0 = s
    refine ⟨fun h => congrArg Host.Outcome.next (slackInterval_none h hard), fun hp hb hm hf hle => ?_⟩
    obtain ⟨⟨pos, ce, pass, honly⟩, hreg, hstat⟩ := loftScrub_sound (s := intervalOpened s0 s) (Mem.clean_of_nil hm hf) hle hard
    rw [← slackInterval_opens hs hp hb] at honly hreg hstat
    refine ⟨_, rfl, ?_, ?_, ?_, ?_, ?_, hreg, hstat⟩ <;> rw [honly] <;> rfl
  · refine ⟨fun h => ⟨congrArg Host.Outcome.next (selfTestStep_runs h [] c), fun n hfail habs => ?_⟩, fun h => congrArg Host.Outcome.next (selfTestStep_none h fails c)⟩
    exact ⟨_, congrArg Host.Outcome.next (selfTestStep_runs h [n] c), sparFails_failed _ hfail habs c.toNat, sparFails_told _ hfail habs c.toNat⟩

end Sys2Proof.Machine

/-! SUPPORT. Reads after writes of a memory in its canonical form. -/

namespace Sys2Proof.Machine

/-- A canonical map in which every key reads as unlisted lists nothing. -/
theorem smWf_eq_nil {α : Type} [DecidableEq α] {d : α} {m : List (Nat × α)} (h : smWf d m = true) (hd : ∀ q, smGet d m q = d) : m = [] :=
  smWf_ext d (b := none) h rfl hd

/-- A canonical memory whose codewords carry neither marks nor flipped bits lists none. -/
theorem Mem.Clean.lists_nil {m : Mem} (h : m.Clean) (hw : m.wf = true) : m.marks = [] ∧ m.flips = [] := by
  obtain ⟨-, hm, hf⟩ := (Mem.wf_iff m).mp hw
  exact ⟨smWf_eq_nil hm (fun q => (h q).1), smWf_eq_nil hf (fun q => (h q).2)⟩

/-- The writes of a run of clean bytes carry no poison. -/
theorem run_unpoisoned (a : Nat) (bs : List Byte) : ∀ w ∈ bs.zipIdx.map (fun b => (a + b.2, b.1, 0)), w.2.2 = 0 := by
  intro w hw
  obtain ⟨b, -, rfl⟩ := List.mem_map.mp hw
  rfl

/-- Settles O4: what a write of clean bytes leaves of a sound memory is sound, and each byte is that of the last write that names it. -/
theorem memoryReadAfterWrite : Obligations.MemoryReadAfterWrite := by
  intro m a bs hw hm hf
  have hc := Mem.clean_of_nil hm hf
  have hp := run_unpoisoned a bs
  have hw' := Mem.write_wf hw (bs.zipIdx.map (fun b => (a + b.2, b.1, 0)))
  refine ⟨fun k => ?_, hw', (Mem.write_clean hc _ hp).lists_nil hw'⟩
  rw [Mem.write_fetch hc _ hp, writeBytes_run, hc.fetch]
  split <;> rfl

end Sys2Proof.Machine

/-! SUPPORT. Clears of counters: what a write of one bit of a clear register comes to, from the owning port and from another. -/

namespace Sys2Proof.Machine

theorem OnlyRegs.refl (s : State) (l : List Nat) : OnlyRegs s s l := ⟨fun _ _ => rfl, rfl⟩

/-- One register set changes that register alone. -/
theorem setReg_onlyRegs (s : State) (a : Nat) (w : Word) : OnlyRegs s (s.setReg a w) [a] :=
  ⟨fun b hb => State.reg_setReg_ne s w (by simpa using hb), rfl⟩

theorem OnlyRegs.setReg {s t : State} {l : List Nat} (h : OnlyRegs s t l) {a : Nat} (ha : a ∈ l) (w : Word) : OnlyRegs s (t.setReg a w) l := by
  obtain ⟨hr, ht⟩ := h
  refine ⟨fun b hb => ?_, by rw [ht]; rfl⟩
  rw [State.reg_setReg_ne t w (ne_of_mem_of_not_mem ha hb).symm, hr b hb]

/-- Registers set one after another to one value: those, and no others, hold it. -/
theorem setRegs_onlyRegs (l : List Nat) (w : Word) (s : State) :
    OnlyRegs s (l.foldl (fun u a => u.setReg a w) s) l ∧ ∀ a ∈ l, (l.foldl (fun u a => u.setReg a w) s).reg a = w := by
  induction l using List.reverseRecOn with
  | nil => exact ⟨.refl s [], fun _ h => (nomatch h)⟩
  | append_singleton l a ih =>
    obtain ⟨⟨hother, honly⟩, hset⟩ := ih
    rw [List.foldl_append, List.foldl_cons, List.foldl_nil]
    refine ⟨OnlyRegs.setReg ⟨fun b hb => hother b (fun h => hb (List.mem_append_left _ h)), honly⟩ (by simp) w, fun b hb => ?_⟩
    by_cases hba : b = a
    · rw [hba, State.reg_setReg_same]
    · rw [State.reg_setReg_ne _ _ hba]
      exact hset b (by simpa [hba] using hb)

/-! ### The gate of a clear register -/

section gate
variable {p : Fin 4} {s : State} {a : Nat} (h : Served s p a)
include h

/-- A served write of the display-owning port to a clear register clears. -/
theorem clearBit_owner (ho : p.val = s.owner) (b : Nat) (f : Nat → State → State) : clearBit p a b f s = .next (f b s) := by
  unfold clearBit
  rw [ownerWrite_owner h.2 ho, fromPort_next h.1]

/-- A served write of another port to a clear register does nothing (R638). -/
theorem clearBit_other (ho : p.val ≠ s.owner) (b : Nat) (f : Nat → State → State) : clearBit p a b f s = .next s := by
  unfold clearBit
  rw [ownerWrite_other h.2 ho, fromPort_next h.1]

/-- A clear bit whose counters are all set to 0. -/
theorem clearBit_zeroes {c : Instr} {b : Nat} {f : Nat → State → State} {l : List Nat} (hc : exec c s = clearBit p a b f s)
    (hf : f b s = l.foldl (fun u a => u.setReg a 0) s) :
    (p.val = s.owner → ∃ t, exec c s = .next t ∧ OnlyRegs s t l ∧ ∀ a ∈ l, t.reg a = 0) ∧ (p.val ≠ s.owner → exec c s = .next s) := by
  refine ⟨fun ho => ⟨_, by rw [hc, clearBit_owner h ho, hf], setRegs_onlyRegs l 0 s⟩, fun ho => by rw [hc, clearBit_other h ho]⟩

/-- A clear bit of one spar's register: the counter keeps what it gains in the cycle (R76), and that of an absent spar is left (R112). -/
theorem clearBit_spar {c : Instr} {b n r : Nat} (hc : exec c s = clearBit p a b (sparClear n) s) (hf : s.absent n = false → sparClear n b s = freshOnly r s) :
    (p.val = s.owner → s.absent n = false → ∃ t, exec c s = .next t ∧ OnlyRegs s t [r] ∧ t.reg r = BitVec.ofNat 32 (smGet 0 s.fab.fresh r)) ∧
    (p.val ≠ s.owner ∨ s.absent n = true → exec c s = .next s) := by
  refine ⟨fun ho ha => ⟨freshOnly r s, by rw [hc, clearBit_owner h ho, hf ha], setReg_onlyRegs s _ _, State.reg_setReg_same s _ _⟩, fun hn => ?_⟩
  by_cases ho : p.val = s.owner
  · have ha : s.absent n = true := hn.resolve_left (not_not_intro ho)
    rw [hc, clearBit_owner h ho]
    unfold sparClear
    rw [if_pos ha]
  · rw [hc, clearBit_other h ho]

end gate

/-! ### The statement -/

theorem State.rf_setRf_above (s : State) (a : Nat) {hi lo m l : Nat} (v : Nat) (h : hi < l) (hl : l ≤ 32) (hlo : lo ≤ hi) : (s.setRf a hi lo v).rf a m l = s.rf a m l := by
  unfold State.rf State.setRf
  rw [State.reg_setReg_same]
  exact fld_setFld_above _ _ (by omega) hl

/-- The two counters of PWR_CNT: bit 0 clears the low one, bit 1 the high one, and each leaves the other. -/
theorem pwrClear_fields (s : State) :
    ((pwrClear 0 s).rf A.pwrCnt 15 0 = 0 ∧ (pwrClear 0 s).rf A.pwrCnt 31 16 = s.rf A.pwrCnt 31 16) ∧
    ((pwrClear 1 s).rf A.pwrCnt 31 16 = 0 ∧ (pwrClear 1 s).rf A.pwrCnt 15 0 = s.rf A.pwrCnt 15 0) :=
  ⟨⟨State.rf_setRf_same s _ 0 (by decide) (by decide), State.rf_setRf_above s _ 0 (by decide) (by decide) (by decide)⟩,
    State.rf_setRf_same s _ 0 (by decide) (by decide), State.rf_setRf_below s _ 0 (by decide) (by decide) (by decide)⟩

theorem exec_linkStatClr (p : Fin 4) (s : State) : exec (.linkStatClr p) s = fromPort p s (s.ownerWrite p A.linkStatClr 1 linkStatClr) := rfl

/-- Settles O49: a clear bit's effect is its list of registers set, behind the gate of the display-owning port. -/
theorem counterClears : Obligations.CounterClears := by
  refine ⟨fun p s x hx h => ?_, fun p n s x hx h => ?_, fun p s h => ⟨fun ho => ?_, fun ho => ?_⟩, fun p s h => ⟨fun ho => ?_, fun ho => ?_⟩⟩
  · simp only [List.mem_cons, List.not_mem_nil, or_false] at hx
    rcases hx with rfl | rfl | rfl | rfl | rfl | rfl | rfl | rfl | rfl | rfl
    case inr.inr.inr.inr.inr.inr.inr.inr.inr => exact clearBit_zeroes h rfl (by rw [List.foldl_map]; rfl)
    all_goals exact clearBit_zeroes h rfl rfl
  · simp only [List.mem_cons, List.not_mem_nil, or_false] at hx
    rcases hx with rfl | rfl | rfl
    all_goals exact clearBit_spar h rfl (fun ha => if_neg (by rw [ha]; decide))
  · exact ⟨⟨_, clearBit_owner h ho 0 pwrClear, setReg_onlyRegs s _ _, (pwrClear_fields s).1⟩,
      ⟨_, clearBit_owner h ho 1 pwrClear, setReg_onlyRegs s _ _, (pwrClear_fields s).2⟩⟩
  · exact ⟨clearBit_other h ho 0 pwrClear, clearBit_other h ho 1 pwrClear⟩
  · refine ⟨linkStatClr s, ?_, ⟨fun a ha => ?_, rfl⟩, ?_, ?_⟩
    · rw [exec_linkStatClr, ownerWrite_owner h.2 ho, fromPort_next h.1]
    · obtain ⟨hm, hr⟩ : a ≠ A.linkMusterStat ∧ a ≠ A.linkRedStat := by simpa using ha
      unfold linkStatClr
      rw [State.reg_setReg_ne _ _ hr, State.reg_setReg_ne _ _ hm]
    · unfold linkStatClr
      rw [State.reg_setReg_ne _ _ (by decide), State.reg_setReg_same]
      rfl
    · exact State.reg_setReg_same _ _ _
  · rw [exec_linkStatClr, ownerWrite_other h.2 ho, fromPort_next h.1]

end Sys2Proof.Machine

/-! SUPPORT. The statement on the fabric reset fails: a canonical state in which a B register and its SPAR_BOUND register differ after the reset. -/

namespace Sys2Proof.Machine

/-- The part with a fabric reset requested, and with the stray register word of `strayBound`. -/
def strayReset : State := strayBound.setReg A.safeRst 2

theorem strayReset_canonical : strayReset.Canonical := setReg_canonical strayBound_canonical _ _

/-- The reset takes B registers from the register words by the word that their address falls in (`boundWords`), so that B0 of spar 0 gets the stray word, while
SPAR_BOUND0 reads its reset value. -/
theorem strayReset_done : (fabricResetDone false strayReset).bReg 0 0 = 1 ∧ strayReset.reg (A.sparBound 0 0) = 0 := by
  decide +kernel

/-- Refutes O57: a canonical state may list a register word at an address that is no multiple of 4, and the fabric reset then loads a B register from it and
not from its SPAR_BOUND register. -/
theorem not_fabricAndBoot : ¬ Obligations.FabricAndBoot := by
  rintro ⟨-, reset, -⟩
  obtain ⟨u, t, ht, hev, -, -, -, -, -, -, -, -, -, hbound, -⟩ := (reset false strayReset).2 (by decide)
  obtain ⟨htold, -⟩ := hev
  have he : fabricResetDone false strayReset = t := Host.Outcome.next.inj ht
  obtain ⟨hb, hr⟩ := strayReset_done
  have hfab : t.fab = u.fab := by rw [htold]
  have hu := hbound strayReset_canonical 0 0 (by decide) (by decide)
  unfold State.bReg at hb hu
  rw [he, hfab] at hb
  rw [hb, hr] at hu
  exact absurd hu (by decide)

end Sys2Proof.Machine

/-! SUPPORT. Every step keeps the canonical forms: state function by state function, in the order of the model, and then command by command. -/

namespace Sys2Proof.Machine

/-! ### Updates that no form speaks of -/

section fields
variable {pending : List Instr} {rast : Raster} {ev : Events} {tod : Tod} {rcd : Rec} {slk : Slack} {out : Output} {inp : Input} {ptp : Ptp} {fleet : Fleet} {gov : Gov}
  {aon : Aon} {acc : Access} {repairQ hardRows : List Nat} {answer : List (Nat × List Byte × Bool)} {bifur bitClass grade free : Nat} {off : List (Nat × Nat × Nat)}
  {pends commits : List Commit} {wearo : List (Nat × Wearo)} {wire mgmt : List (Nat × List Byte)} {adm : List AdmReq} {zeroQ : List Zeroing} {bar2Q : List (Nat × Bar2Op)}
  {crucible : List (Nat × Half)} {descr : List (Nat × Descr)} {map muted ended fresh : List (Nat × Nat)} {failed badPhys ownerFaulted : List Nat}
  {gather : List (Nat × WatchFig)} {gatherOwn snapOwn : List (Nat × BitVec 16)} {segs : List Seg} {actor : Option Nat} {side cyc : Nat} {flight : List Flight}
  {storeFlips : List (Nat × BitVec 80)}

/-- An update of fields that hold no canonical form, whatever it gives them. -/
theorem State.Canonical.rest {s : State} (h : s.Canonical) : State.Canonical
    { s with
      pending, rast, ev, tod, rcd, slk, out, inp, ptp, fleet, gov, aon, acc, repairQ, hardRows, answer, bifur, bitClass, grade, free, off, pends, commits, wearo, wire, mgmt
      adm, zeroQ, bar2Q } :=
  ⟨h.hbm, h.loft, h.host, h.hostBad, h.regs, h.pregs, h.sreg, h.breg, h.areg, h.gen, h.slots, h.jobs, h.cfg⟩

/-- The same, with fields of the fabric among them. -/
theorem State.Canonical.fabRest {s : State} (h : s.Canonical) : State.Canonical
    { s with
      pending, rast, ev, tod, rcd, slk, out, inp, ptp, fleet, gov, aon, acc, repairQ, hardRows, answer, bifur, bitClass, grade, free, off, pends, commits, wearo, wire, mgmt
      adm, zeroQ, bar2Q
      fab := { s.fab with crucible, descr, map, muted, ended, fresh, failed, badPhys, ownerFaulted, gather, gatherOwn, snapOwn, segs, actor, side, cyc, flight, storeFlips } } :=
  ⟨h.hbm, h.loft, h.host, h.hostBad, h.regs, h.pregs, h.sreg, h.breg, h.areg, h.gen, h.slots, h.jobs, h.cfg⟩

end fields

theorem withHbm_canonical {s : State} (h : s.Canonical) {m : Mem} (hm : m.wf = true) : State.Canonical { s with hbm := m } :=
  ⟨hm, h.loft, h.host, h.hostBad, h.regs, h.pregs, h.sreg, h.breg, h.areg, h.gen, h.slots, h.jobs, h.cfg⟩

theorem withSlots_canonical {s : State} (h : s.Canonical) {l : List (Nat × Slot)} (hl : smRise none l) : State.Canonical { s with slots := l } :=
  ⟨h.hbm, h.loft, h.host, h.hostBad, h.regs, h.pregs, h.sreg, h.breg, h.areg, h.gen, hl, h.jobs, h.cfg⟩

theorem withJobs_canonical {s : State} (h : s.Canonical) {l : List (Nat × Job)} (hl : smRise none l) : State.Canonical { s with jobs := l } :=
  ⟨h.hbm, h.loft, h.host, h.hostBad, h.regs, h.pregs, h.sreg, h.breg, h.areg, h.gen, h.slots, hl, h.cfg⟩

/-- Values changed under their keys leave the keys rising. -/
theorem smRise_map {α : Type} (f : Nat × α → α) {m : List (Nat × α)} {b : Option Nat} (h : smRise b m) : smRise b (m.map (fun e => (e.1, f e))) := by
  induction m generalizing b with
  | nil => exact h
  | cons e t ih => exact ⟨h.1, ih h.2⟩

theorem withBreg_canonical {s : State} (h : s.Canonical) {l : List (Nat × Word)} (hl : smWf 0 l = true) : State.Canonical { s with fab := { s.fab with breg := l } } :=
  ⟨h.hbm, h.loft, h.host, h.hostBad, h.regs, h.pregs, h.sreg, hl, h.areg, h.gen, h.slots, h.jobs, h.cfg⟩

theorem ite_snd_canonical {β : Type} (c : Prop) [Decidable c] {x y : β × State} (hx : x.2.Canonical) (hy : y.2.Canonical) : (if c then x else y).2.Canonical := by
  split <;> assumption

/-- A run that carries a value beside the state. -/
theorem foldl_fst_canonical {α β : Type} (f : State × β → α → State × β) (hf : ∀ x a, x.1.Canonical → (f x a).1.Canonical) (l : List α) {x : State × β}
    (h : x.1.Canonical) : (l.foldl f x).1.Canonical := by
  induction l generalizing x with
  | nil => exact h
  | cons a t ih => exact ih (hf x a h)

/-! ### Memories and maps that are rewritten -/

theorem boundWords_wf (s : State) : smWf 0 (boundWords s) = true := smPutAll_wf 0 _ (smWf_nil 0)

theorem Mem.clearRange_wf {m : Mem} (h : m.wf = true) (a n : Nat) : (m.clearRange a n).wf = true := by
  obtain ⟨hb, hm, hf⟩ := (Mem.wf_iff m).mp h
  unfold Mem.clearRange
  extract_lets inner m1
  have h1 : m1.wf = true := (Mem.wf_iff m1).mpr ⟨smDrop_wf 0 (fun b => decide (a ≤ b ∧ b < a + n) && inner (b / 8)) hb, smDrop_wf 0 inner hm, smDrop_wf 0 inner hf⟩
  exact Mem.write_wf h1 _

/-- Flipped bits put in anew keep the one canonical form. -/
theorem Mem.withFlips_wf {m : Mem} (h : m.wf = true) {l : List (Nat × BitVec 80)} (hl : smWf 0 l = true) : Mem.wf { m with flips := l } = true := by
  obtain ⟨hb, hm, -⟩ := (Mem.wf_iff m).mp h
  exact (Mem.wf_iff _).mpr ⟨hb, hm, hl⟩

theorem scrubWrite_wf {m : Mem} (h : m.wf = true) (cw : Nat) : (scrubWrite m cw).wf = true := by
  unfold scrubWrite
  extract_lets r
  cases r.kind
  · exact h
  all_goals exact Mem.writeCw_wf h _ _ _

theorem writeBack_wf {m : Mem} (h : m.wf = true) (x : Nat) (hard : Bool) : (writeBack m x hard).wf = true := by
  have hstep : ∀ (l : List Nat) (t : Mem), t.wf = true → (l.foldl (fun t i =>
      if hard ∧ (m.read (8 * x + i)).kind = .ue then
        { scrubWrite t (8 * x + i) with flips := smPut 0 (scrubWrite t (8 * x + i)).flips (8 * x + i) (smGet 0 m.flips (8 * x + i)) }
      else scrubWrite t (8 * x + i)) t).wf = true := by
    intro l
    induction l with
    | nil => exact fun _ ht => ht
    | cons i l ih =>
      intro t ht
      have hw := scrubWrite_wf ht (8 * x + i)
      refine ih _ ?_
      beta_reduce
      split
      · exact Mem.withFlips_wf hw (smPut_wf _ _ _ ((Mem.wf_iff _).mp hw).2.2)
      · exact hw
  exact hstep _ m h

/-! ### Reads of a word that see the registers of its issue cycle

Their fabric is put back afterwards: what is canonical of them lies beside it. -/

/-- A state beside another fabric. -/
def State.beside (t : State) (f : Fabric) : State := { t with fab := f }

section beside
variable {s : State} {f : Fabric}

theorem setReg_beside (h : (s.beside f).Canonical) (a : Nat) (w : Word) : ((s.setReg a w).beside f).Canonical := setReg_canonical h a w

theorem bump_beside (h : (s.beside f).Canonical) (a hi lo k : Nat) : ((s.bump a hi lo k).beside f).Canonical := bump_canonical h a hi lo k

theorem ite_beside (c : Prop) [Decidable c] {x y : State} (hx : (x.beside f).Canonical) (hy : (y.beside f).Canonical) :
    ((if c then x else y).beside f).Canonical := by split <;> assumption

theorem foldl_beside {α : Type} (g : State → α → State) (hg : ∀ t x, (t.beside f).Canonical → ((g t x).beside f).Canonical) (l : List α)
    (h : (s.beside f).Canonical) : ((l.foldl g s).beside f).Canonical := by
  induction l generalizing s with
  | nil => exact h
  | cons x t ih => exact ih (hg s x h)

theorem post_beside (h : (s.beside f).Canonical) (ps : List Nat) (code : Nat) (vs : List (Nat × Nat)) : ((s.post ps code vs).beside f).Canonical := by
  have hs : PortForms s := ⟨h.host, h.hostBad, h.pregs⟩
  have hp := post_forms hs ps code vs
  refine h.posted ?_ ⟨hp.host, hp.hostBad, hp.pregs⟩
  unfold Posted State.beside
  rw [post_posted s ps code vs]

theorem loftReadCw_beside (h : (s.beside f).Canonical) (spar cw : Nat) (scrub : Bool) : ((s.loftReadCw spar cw scrub).beside f).Canonical := by
  unfold State.loftReadCw
  refine ite_beside _ h ?_
  extract_lets r last t _ _ s1
  have hl : ∀ (k : Nat) (t : State), (t.beside f).Canonical → ((last k t).beside f).Canonical := fun _ _ ht => setReg_beside ht _ _
  have hu : ∀ t : State, (t.beside f).Canonical → (State.beside (if t.rcd.ueLoft then t
      else { (t.post t.ports 0x0602 [t.vF, (1, spar), (4, cw * 8 % 2 ^ 23)]) with rcd := { t.rcd with ueLoft := true } }) f).Canonical :=
    fun _ ht => ite_beside _ ht (post_beside ht _ _ _).rest
  have hce := bump_beside (bump_beside h A.loftCeCnt 31 0 1) (A.loftBayErr spar) 15 0 1
  have hue := bump_beside (bump_beside h A.loftUeCnt 31 0 1) (A.loftBayErr spar) 31 16 1
  have hs1 : (s1.beside f).Canonical := by
    unfold s1
    cases r.kind
    · exact h
    · exact hl 1 _ hce
    · exact hl 2 _ hce
    · exact hu _ (hl 3 _ hue)
  exact ite_beside _ (bump_beside hs1 _ _ _ _) hs1

theorem hbmReadCw_beside (h : (s.beside f).Canonical) (src cw : Nat) : ((s.hbmReadCw src cw).beside f).Canonical := by
  unfold State.hbmReadCw
  refine ite_beside _ h ?_
  extract_lets r sec queue t _ _ s1
  have hq : ∀ t : State, (t.beside f).Canonical → ((queue t).beside f).Canonical :=
    fun _ ht => ite_beside _ ht (ite_beside _ ht.rest (bump_beside ht _ _ _ _))
  have hu : ∀ t : State, (t.beside f).Canonical → (State.beside (if t.rcd.ueHbm then t
      else { (t.post t.ports 0x0600 [t.vF, (4, sec), (1, src)]) with rcd := { t.rcd with ueHbm := true } }) f).Canonical :=
    fun _ ht => ite_beside _ ht (post_beside ht _ _ _).rest
  have hce := fun w => setReg_beside (bump_beside h A.hbmCeCnt 31 0 1) A.hbmLastCe w
  have hue := fun w v => setReg_beside (setReg_beside (setReg_beside (bump_beside h A.hbmUeCnt 31 0 1) A.hbmLastUe w) A.hbmLastUeFLo v) A.hbmLastUeFHi
  have hs1 : (s1.beside f).Canonical := by
    unfold s1
    cases r.kind
    · exact h
    · exact hq _ (hce _)
    · exact hq _ (hce _)
    · exact hu _ (hq _ (hue _ _ _))
  exact ite_beside _ (bump_beside hs1 _ _ _ _) hs1

end beside

theorem portReads_canonical {s : State} (hs : s.Canonical) {h : Held} {spar : Nat} {accs : List (Nat × Nat)} : (s.portReads h spar accs).Canonical := by
  have hh : ((s.held h).beside s.fab).Canonical := hs
  exact ite_beside _ hh (foldl_beside _ (fun _ cw ht => loftReadCw_beside ht spar cw false) _ hh)

theorem hbmPortReads_canonical {s : State} (hs : s.Canonical) {h : Held} {src a n : Nat} : (s.hbmPortReads h src a n).Canonical := by
  have hh : ((s.held h).beside s.fab).Canonical := hs
  exact ite_beside _ hh (foldl_beside _ (fun _ cw ht => hbmReadCw_beside ht src cw) _ hh)

/-! ### The functions of `Machine/State.lean` -/

theorem reset_canonical : State.reset.Canonical :=
  ⟨rfl, rfl, rfl, rfl, trivial, trivial, rfl, rfl, rfl, rfl, trivial, trivial, trivial⟩

/-! ### The functions of `Machine/Ops.lean` -/

theorem setPrf_canonical {s : State} (hs : s.Canonical) {p a hi lo v : Nat} : (s.setPrf p a hi lo v).Canonical := setPreg_canonical hs _ _ _

theorem hostWriteP_canonical {s : State} (hs : s.Canonical) {p a : Nat} {bs : List (Byte × Bool)} : (s.hostWriteP p a bs).Canonical :=
  hs.posted rfl (hostWriteP_forms hs.forms p a bs)

theorem signal_canonical {s : State} (hs : s.Canonical) {p v : Nat} : (s.signal p v).Canonical := hs.posted (signal_posted s p v) (signal_forms hs.forms p v)

theorem msixFlush_canonical {s : State} (hs : s.Canonical) {p : Nat} : (s.msixFlush p).Canonical :=
  ite_canonical _ (foldl_canonical _ (fun _ _ ht => ite_canonical _ (signal_canonical (setPreg_canonical ht _ _ _)) ht) _ hs) hs

theorem w1cSet_canonical {s : State} (hs : s.Canonical) {k : Nat} {w : Word} : (s.w1cSet k w).Canonical :=
  hs.posted (w1cSet_posted s k w) (w1cSet_forms hs.forms k w)

theorem eqFlush_canonical {s : State} (hs : s.Canonical) {p : Nat} : (s.eqFlush p).Canonical := hs.posted (eqFlush_posted s p) (eqFlush_forms hs.forms p)

theorem eqDeliver_canonical {s : State} (hs : s.Canonical) {p code : Nat} {merged : Bool} {l c : Nat} {payload : List Byte} :
    (s.eqDeliver p code merged l c payload).1.Canonical :=
  hs.posted (eqDeliver_posted s p code merged l c payload) (eqDeliver_forms hs.forms p code merged l c payload)

theorem logPut_canonical {s : State} (hs : s.Canonical) {e : LogEntry} : (s.logPut e).Canonical := hs.rest

theorem envSet_canonical {s : State} (hs : s.Canonical) {hi lo v : Nat} : (s.envSet hi lo v).Canonical := by
  unfold State.envSet
  extract_lets s1
  have hs1 : s1.Canonical := w1cSet_canonical (setRf_canonical hs _ _ _ _)
  exact setReg_canonical hs1 _ _

theorem hbmTake_canonical {s : State} (hs : s.Canonical) {src a n : Nat} : (s.hbmTake src a n).Canonical :=
  ite_canonical _ hs (foldl_canonical _ (fun _ _ ht => hbmReadCw_canonical ht _ _) _ hs)

/-! ### The functions of `Machine/FitOps.lean` -/

theorem fitPublish_canonical {s : State} (hs : s.Canonical) {n : Nat} : (fitPublish n s).Canonical := by
  unfold fitPublish
  extract_lets _ s1
  have hs1 : s1.Canonical := setRf_canonical hs _ _ _ _
  exact post_canonical (setJob_canonical hs1 _ _) _ _ _

theorem fitBundleEnd_canonical {s : State} (hs : s.Canonical) {ch : Nat} : (fitBundleEnd ch s).Canonical := by
  unfold fitBundleEnd
  split
  · extract_lets _ s1
    have hs1 : s1.Canonical := setJob_canonical hs _ _
    exact ite_canonical _ (ite_canonical _ (fitPublish_canonical hs1) hs1) hs
  · exact hs

/-! ### The functions of `Machine/Image.lean` -/

theorem putImage_canonical {s : State} (hs : s.Canonical) {src lo hi a : Nat} {l : List IByte} : (s.putImage src lo hi a l).Canonical :=
  withHbm_canonical (hbmMerge_canonical hs _ _) (Mem.write_wf hs.hbm _)

theorem readDescr_canonical {s : State} (hs : s.Canonical) {a spar x : Nat} : (readDescr s a spar x).Canonical := hs.fabRest

theorem readSlot_canonical {s : State} (hs : s.Canonical) {use a spar k : Nat} : (readSlot s use a spar k).Canonical := hs.fabRest

theorem readBay_canonical {s : State} (hs : s.Canonical) {a spar ofs len : Nat} : (readBay s a spar ofs len).Canonical :=
  setLoft_canonical hs (Mem.write_wf hs.loft _)

/-! ### The functions of `Machine/Clear.lean` -/

theorem freshOnly_canonical {t : State} (ht : t.Canonical) {a : Nat} : (freshOnly a t).Canonical := setReg_canonical ht _ _

theorem sparClear_canonical {t : State} (ht : t.Canonical) {n b : Nat} : (sparClear n b t).Canonical := by
  unfold sparClear
  refine ite_canonical _ ht ?_
  split <;> exact freshOnly_canonical ht

theorem hbmClear_canonical {t : State} (ht : t.Canonical) {b : Nat} : (hbmClear b t).Canonical := by
  unfold hbmClear
  split <;> exact setReg_canonical ht _ _

theorem loftClear_canonical {t : State} (ht : t.Canonical) {b : Nat} : (loftClear b t).Canonical := by
  unfold loftClear
  split
  · exact setReg_canonical ht _ _
  · exact setReg_canonical ht _ _
  · exact setReg_canonical ht _ _
  · exact setReg_canonical ht _ _
  · exact foldl_canonical _ (fun _ _ ht => setReg_canonical ht _ _) _ ht

theorem pwrClear_canonical {t : State} (ht : t.Canonical) {b : Nat} : (pwrClear b t).Canonical :=
  ite_canonical _ (setRf_canonical ht _ _ _ _) (setRf_canonical ht _ _ _ _)

/-! ### The functions of `Machine/Raster.lean` -/

theorem closeLine_canonical {s : State} (hs : s.Canonical) {p : Nat} : (closeLine p s).Canonical := hs.rest

theorem edgeSeen_canonical {s : State} (hs : s.Canonical) {src : Nat} : (edgeSeen src s).Canonical :=
  ite_canonical _ (setRf_canonical hs _ _ _ _) (ite_canonical _ (setRf_canonical hs _ _ _ _) hs)

theorem referenceEvent_canonical {s0 : State} (hs0 : s0.Canonical) {src : Nat} {falling : Bool} {t : BitVec 64} {k : BitVec 48} :
    (referenceEvent src falling t k s0).Canonical := by
  unfold referenceEvent
  extract_lets s
  have hs : s.Canonical := edgeSeen_canonical hs0
  exact ite_canonical _ hs.rest hs

theorem setSyncState_canonical {s : State} (hs : s.Canonical) {st : Nat} : (s.setSyncState st).Canonical := setRf_canonical hs _ _ _ _

theorem setSync_canonical {s : State} (hs : s.Canonical) {y : Sync} : (s.setSync y).Canonical := hs.rest

theorem takeSource_canonical {s : State} (hs : s.Canonical) {src : Nat} {clear : Bool} : (takeSource src clear s).Canonical := by
  unfold takeSource
  extract_lets s1 s2
  have hs1 : s1.Canonical := setSyncState_canonical (setRf_canonical hs _ _ _ _)
  have hs2 : s2.Canonical := ite_canonical _ (setRf_canonical hs1 _ _ _ _) hs1
  exact ite_canonical _ hs (setSync_canonical hs2)

theorem holdFollow_canonical {s : State} (hs : s.Canonical) : (holdFollow s).Canonical := ite_canonical _ (setSync_canonical hs) hs

theorem onPaired_canonical {s : State} (hs : s.Canonical) {t k : Nat} {phi : Int} {n : Option Nat} : (onPaired t k phi n s).Canonical := by
  unfold onPaired
  extract_lets s0
  have hs0 : s0.Canonical := setRf_canonical hs _ _ _ _
  split
  · exact ite_canonical _ (post_canonical (setSyncState_canonical (setSync_canonical hs0)) _ _ _) (setSync_canonical hs0)
  · exact ite_canonical _ (setSyncState_canonical (setSync_canonical hs0)) (setSync_canonical hs0)
  · exact ite_canonical _ (setSyncState_canonical (setSync_canonical hs0)) (setSync_canonical hs0)
  · exact hs0

theorem holdExpire_canonical {s : State} (hs : s.Canonical) : (holdExpire s).Canonical := ite_canonical _ (post_canonical (takeSource_canonical hs) _ _ _) hs

theorem onMissing_canonical {s : State} (hs : s.Canonical) {keep : Option Nat} {glitch : Bool} : (onMissing keep glitch s).Canonical := by
  unfold onMissing
  extract_lets s0
  have hs0 : s0.Canonical := ite_canonical _ (bump_canonical hs _ _ _ _) hs
  split
  · exact setSync_canonical hs0
  · exact hs0
  · exact ite_canonical _ (post_canonical (setSyncState_canonical (setSync_canonical hs0)) _ _ _) (setSync_canonical hs0)

theorem onIdle_canonical {s : State} (hs : s.Canonical) : (onIdle s).Canonical := setSync_canonical hs

theorem watchPrimary_canonical {s : State} (hs : s.Canonical) : (watchPrimary s).Canonical := by
  unfold watchPrimary
  extract_lets
  refine ite_canonical _ hs ?_
  split
  · extract_lets
    exact ite_canonical _ (post_canonical (takeSource_canonical hs) _ _ _) (setSync_canonical hs)
  · exact hs

theorem dropRefs_canonical {s : State} (hs : s.Canonical) : (dropRefs s).Canonical := setSync_canonical hs

theorem updateGen_canonical {s : State} (hs : s.Canonical) : (updateGen s).Canonical := by
  unfold updateGen
  extract_lets _ _ s1
  have hs1 : s1.Canonical := by
    unfold s1
    refine ite_canonical _ (setSync_canonical hs) ?_
    split
    · exact onIdle_canonical hs
    · exact onMissing_canonical hs
    · exact onPaired_canonical hs
  exact dropRefs_canonical (holdFollow_canonical (watchPrimary_canonical (holdExpire_canonical hs1)))

theorem ghostLine_canonical {s : State} (hs : s.Canonical) : (ghostLine s).Canonical := hs.rest

theorem ghostLines_canonical {s : State} (hs : s.Canonical) {n : Nat} : (ghostLines n s).Canonical := by
  induction n generalizing s with
  | zero => exact hs
  | succ n ih => exact ih (ghostLine_canonical hs)

theorem ghostEnd_canonical {s : State} (hs : s.Canonical) {n l : Nat} : (ghostEnd n l s).Canonical := by
  induction n generalizing l s with
  | zero => exact hs
  | succ n ih => exact ite_canonical _ (ghostLine_canonical hs) (ih (ghostLine_canonical hs))

theorem ghostFinish_canonical {s : State} (hs : s.Canonical) : (ghostFinish s).Canonical := ite_canonical _ hs (ghostEnd_canonical hs)

theorem ghostFrame_canonical {s : State} (hs : s.Canonical) : (ghostFrame s).Canonical := by
  unfold ghostFrame
  extract_lets t
  have ht : t.Canonical := ghostFinish_canonical hs
  exact ghostLines_canonical ht.rest

theorem updatePoint_canonical {s : State} (hs : s.Canonical) : (updatePoint s).Canonical :=
  ite_canonical _ hs (updateGen_canonical (ite_canonical _ (ghostFrame_canonical hs) hs))

/-! ### The functions of `Machine/Ptp.lean` -/

theorem setPtp_canonical {s : State} (hs : s.Canonical) {p : Ptp} : (s.setPtp p).Canonical := hs.rest

theorem setPtpPort_canonical {s : State} (hs : s.Canonical) {v : Nat} : (s.setPtpPort v).Canonical := setRf_canonical hs _ _ _ _

theorem setServo_canonical {s : State} (hs : s.Canonical) {st cause : Nat} : (s.setServo st cause).Canonical := by
  unfold State.setServo
  extract_lets _ _ s1 _ s2 s3
  have hs1 : s1.Canonical := setRf_canonical (setRf_canonical hs _ _ _ _) _ _ _ _
  have hs2 : s2.Canonical := setPtp_canonical hs1
  have hs3 : s3.Canonical := ite_canonical _ (post_canonical hs2 _ _ _) (ite_canonical _ (post_canonical hs2 _ _ _) hs2)
  exact ite_canonical _ hs (ite_canonical _ (post_canonical hs3 _ _ _) hs3)

theorem servoLoss_canonical {s : State} (hs : s.Canonical) : (servoLoss s).Canonical := ite_canonical _ (setServo_canonical hs) hs

theorem servoSelect_canonical {s : State} (hs : s.Canonical) : (servoSelect s).Canonical := ite_canonical _ (setServo_canonical hs) hs

theorem timeStep_canonical {s : State} (hs : s.Canonical) {d off : Int} {step : Nat} : (timeStep d off step s).Canonical := by
  unfold timeStep
  extract_lets s1 s2
  have hs1 : s1.Canonical := hs.rest
  have hs2 : s2.Canonical := setRf_canonical (setRf_canonical hs1 _ _ _ _) _ _ _ _
  exact post_canonical (setPtp_canonical hs2) _ _ _

theorem servoApply_canonical {s : State} (hs : s.Canonical) {off : Int} : (servoApply off s).Canonical := hs.rest

theorem servoNormal_canonical {s : State} (hs : s.Canonical) {off : Int} : (servoNormal off s).Canonical := by
  unfold servoNormal
  extract_lets _ s1 _ _ s2
  have hs1 : s1.Canonical := servoApply_canonical hs
  have hs2 : s2.Canonical := setPtp_canonical hs1
  split
  · exact ite_canonical _ (setServo_canonical hs2) hs2
  · exact ite_canonical _ (setServo_canonical hs1) hs1
  · exact setServo_canonical hs
  · exact hs

theorem measure_canonical {s : State} (hs : s.Canonical) {off : Int} : (measure off s).Canonical := by
  unfold measure
  extract_lets _ s0 _ _ s1 s2 _ s3
  have hs0 : s0.Canonical := servoSelect_canonical (setPtp_canonical (setReg_canonical hs _ _))
  have hs1 : s1.Canonical := setRf_canonical hs0 _ _ _ _
  have hs2 : s2.Canonical := evt_canonical (bump_canonical hs1 _ _ _ _) _
  have hs3 : s3.Canonical := ite_canonical _ hs2 (post_canonical (setPtp_canonical hs2) _ _ _)
  exact ite_canonical _ (setServo_canonical (evt_canonical (timeStep_canonical hs1) _))
    (ite_canonical _ (setServo_canonical hs3) (servoNormal_canonical (setPtp_canonical hs1)))

theorem ptpRestart_canonical {s : State} (hs : s.Canonical) : (ptpRestart s).Canonical := setPtpPort_canonical (setPtp_canonical hs)

theorem selectMaster_canonical {s : State} (hs : s.Canonical) {b : AnnounceSet} : (selectMaster b s).Canonical := by
  unfold selectMaster
  extract_lets _ _ _ s1 s2
  have hs1 : s1.Canonical := setPtp_canonical hs
  have hs2 : s2.Canonical := setPtpPort_canonical (setReg_canonical (setReg_canonical hs1 _ _) _ _)
  exact ite_canonical _ hs (servoSelect_canonical (ite_canonical _ (post_canonical hs2 _ _ _) hs2))

theorem noMaster_canonical {s : State} (hs : s.Canonical) {port : Nat} : (noMaster port s).Canonical :=
  servoLoss_canonical (setPtpPort_canonical (setPtp_canonical hs))

theorem bestMaster_canonical {s : State} (hs : s.Canonical) : (bestMaster s).Canonical := by
  unfold bestMaster
  split
  · exact hs
  · exact ite_canonical _ (noMaster_canonical hs) (ite_canonical _ (noMaster_canonical hs) (selectMaster_canonical hs))

theorem syncDone_canonical {s : State} (hs : s.Canonical) {t1 t2 cs : Int} : (syncDone t1 t2 cs s).Canonical := by
  unfold syncDone
  split
  · exact hs
  · extract_lets _ _ s1
    have hs1 : s1.Canonical := setReg_canonical hs _ _
    exact measure_canonical (ite_canonical _ (setPtpPort_canonical hs1) hs1)

theorem ptpSync_canonical {s : State} (hs : s.Canonical) {x : PtpHead} {b : SyncBody} : (ptpSync x b s).Canonical := by
  unfold ptpSync
  refine ite_canonical _ hs ?_
  split
  · exact syncDone_canonical hs
  · exact setPtp_canonical hs
  · split
    · exact ite_canonical _ (syncDone_canonical (setPtp_canonical hs)) hs
    · exact hs

theorem ptpDelayResp_canonical {s : State} (hs : s.Canonical) {x : PtpHead} {recv : Stamp} {dst : BitVec 64} {toPort : BitVec 16} :
    (ptpDelayResp x recv dst toPort s).Canonical := by
  unfold ptpDelayResp
  split
  · exact ite_canonical _ (setPtp_canonical hs) hs
  · exact hs

theorem delayReq_canonical {s : State} (hs : s.Canonical) {ru : Nat} : (delayReq ru s).Canonical := ite_canonical _ (setPtp_canonical hs) hs

theorem syncSend_canonical {s : State} (hs : s.Canonical) {ru : Nat} : (syncSend ru s).Canonical := ite_canonical _ (setPtp_canonical hs) hs

theorem delayReqReceipt_canonical {s : State} (hs : s.Canonical) {x : PtpHead} : (delayReqReceipt x s).Canonical := ite_canonical _ (setPtp_canonical hs) hs

theorem announceInterval_canonical {s : State} (hs : s.Canonical) : (announceInterval s).Canonical := ite_canonical _ (setPtp_canonical hs) hs

theorem ptpAnnounce_canonical {s : State} (hs : s.Canonical) {x : PtpHead} {d : AnnounceSet} : (ptpAnnounce x d s).Canonical :=
  ite_canonical _ hs (bestMaster_canonical (setPtp_canonical hs))

theorem announceTimeout_canonical {s : State} (hs : s.Canonical) : (announceTimeout s).Canonical :=
  ite_canonical _ (noMaster_canonical (setPtp_canonical hs)) hs

theorem holdoverExpiry_canonical {s : State} (hs : s.Canonical) : (holdoverExpiry s).Canonical := ite_canonical _ (setServo_canonical hs) hs

theorem timeCtlWrite_canonical {s : State} (hs : s.Canonical) {w : Word} : (timeCtlWrite w s).Canonical := by
  unfold timeCtlWrite
  extract_lets _ s1 _ s2
  have hs1 : s1.Canonical := setReg_canonical hs _ _
  have hs2 : s2.Canonical := ptpRestart_canonical (ite_canonical _ hs1 (setPtp_canonical hs1))
  exact ite_canonical _ hs (ite_canonical _ hs1 (ite_canonical _ (setServo_canonical hs2)
    (ite_canonical _ (servoSelect_canonical hs2) (servoLoss_canonical hs2))))

theorem ethCtlWrite_canonical {s : State} (hs : s.Canonical) {w : Word} : (ethCtlWrite w s).Canonical := by
  unfold ethCtlWrite
  extract_lets _ s1
  have hs1 : s1.Canonical := setReg_canonical hs _ _
  exact ite_canonical _ hs (ite_canonical _ hs1 (ite_canonical _ (ptpRestart_canonical (setPtp_canonical hs1))
    (servoLoss_canonical (ptpRestart_canonical (setRf_canonical hs1 _ _ _ _)))))

theorem ethLink_canonical {s : State} (hs : s.Canonical) {up : Bool} : (ethLink up s).Canonical := by
  unfold ethLink
  extract_lets s1
  have hs1 : s1.Canonical := ptpRestart_canonical (setRf_canonical hs _ _ _ _)
  exact ite_canonical _ hs (ite_canonical _ hs1 (servoLoss_canonical hs1))

theorem nonPtpFrame_canonical {s : State} (hs : s.Canonical) {f : EthArrival} : (nonPtpFrame f s).Canonical := ite_canonical _ hs (setPtp_canonical hs)

/-! ### The functions of `Machine/Link.lean` -/

theorem setWport_canonical {s : State} (hs : s.Canonical) {p : Nat} {x : Wearo} : (s.setWport p x).Canonical := hs.rest

theorem setPortState_canonical {s : State} (hs : s.Canonical) {p v : Nat} : (s.setPortState p v).Canonical := setRf_canonical hs _ _ _ _

theorem putFrame_canonical {s : State} (hs : s.Canonical) {p : Nat} {f : LinkFrame} : (putFrame p f s).Canonical := by
  unfold putFrame
  extract_lets s1
  have hs1 : s1.Canonical := hs.rest
  exact setWport_canonical hs1

theorem sendControl_canonical {s : State} (hs : s.Canonical) {p type : Nat} {payload : List Byte} : (sendControl p type payload s).Canonical :=
  putFrame_canonical hs

theorem pump_canonical {s : State} (hs : s.Canonical) {p c n : Nat} : (pump p c n s).Canonical := by
  induction n generalizing s with
  | zero => exact hs
  | succ n ih =>
    unfold pump
    extract_lets w x
    split
    · exact hs
    · exact ite_canonical _ (ih (putFrame_canonical (setWport_canonical hs))) hs

theorem pumpPort_canonical {s : State} (hs : s.Canonical) {p : Nat} : (pumpPort p s).Canonical := by
  unfold pumpPort
  extract_lets s1
  have hs1 : s1.Canonical := pump_canonical hs
  exact pump_canonical hs1

theorem sendSeq_canonical {s : State} (hs : s.Canonical) {p type : Nat} {payload : List Byte} : (sendSeq p type payload s).Canonical := by
  unfold sendSeq
  split
  · exact hs
  · exact ite_canonical _ (ite_canonical _ (bump_canonical hs _ _ _ _) (pumpPort_canonical (setWport_canonical hs))) hs

theorem quiet_canonical {s : State} (hs : s.Canonical) : (quiet s).Canonical := hs.rest

theorem lockLost_canonical {s : State} (hs : s.Canonical) {reason : Nat} : (lockLost reason s).Canonical := by
  unfold lockLost
  extract_lets s1 _ s2
  have hs1 : s1.Canonical := setRf_canonical (setRf_canonical hs _ _ _ _) _ _ _ _
  have hs2 : s2.Canonical := hs1.rest
  exact ite_canonical _ (post_canonical hs2 _ _ _) hs

theorem lanesFound_canonical {s : State} (hs : s.Canonical) {p : Nat} : (lanesFound p s).Canonical := by
  unfold lanesFound
  extract_lets _ s1
  have hs1 : s1.Canonical := setRf_canonical (setRf_canonical hs _ _ _ _) _ _ _ _
  exact ite_canonical _ (post_canonical hs1 _ _ _) hs1

theorem startTraining_canonical {s : State} (hs : s.Canonical) {p : Nat} : (startTraining p s).Canonical := by
  unfold startTraining
  extract_lets _ s0 s1
  have hs0 : s0.Canonical := lanesFound_canonical hs
  have hs1 : s1.Canonical := setWport_canonical hs0
  exact ite_canonical _ (sendControl_canonical (setPortState_canonical hs1)) (setPortState_canonical (setWport_canonical hs))

theorem portDown_canonical {s : State} (hs : s.Canonical) {p reason : Nat} : (portDown p reason s).Canonical := by
  unfold portDown
  extract_lets _ _ s1 s2 _ s3 s4 s5 s6
  have hs1 : s1.Canonical := ite_canonical _ (bump_canonical hs _ _ _ _) hs
  have hs2 : s2.Canonical := setRf_canonical (setPortState_canonical hs1) _ _ _ _
  have hs3 : s3.Canonical := setWport_canonical hs2
  have hs4 : s4.Canonical := ite_canonical _ (post_canonical hs3 _ _ _) hs3
  have hs5 : s5.Canonical := ite_canonical _ (servoLoss_canonical hs4) hs4
  have hs6 : s6.Canonical := ite_canonical _ (lockLost_canonical hs5) hs5
  exact startTraining_canonical hs6

theorem opticalSignal_canonical {s : State} (hs : s.Canonical) {p lanes pol : Nat} : (opticalSignal p lanes pol s).Canonical := by
  unfold opticalSignal
  extract_lets s0 _ _ s1
  have hs0 : s0.Canonical := quiet_canonical hs
  have hs1 : s1.Canonical := setWport_canonical hs0
  exact ite_canonical _ hs0 (ite_canonical _ hs1 (startTraining_canonical hs1))

theorem trainingTimeout_canonical {s : State} (hs : s.Canonical) {p : Nat} : (trainingTimeout p s).Canonical := by
  unfold trainingTimeout
  extract_lets s0 _ s1
  have hs0 : s0.Canonical := quiet_canonical hs
  have hs1 : s1.Canonical := setWport_canonical hs0
  exact ite_canonical _ (startTraining_canonical (ite_canonical _ (setRf_canonical hs1 _ _ _ _) hs1)) hs0

theorem lossOfSignal_canonical {s : State} (hs : s.Canonical) {p : Nat} : (lossOfSignal p s).Canonical := by
  unfold lossOfSignal
  extract_lets s0 _ s1
  have hs0 : s0.Canonical := quiet_canonical hs
  have hs1 : s1.Canonical := setWport_canonical hs0
  exact ite_canonical _ (ite_canonical _ (portDown_canonical hs1) hs1) hs0

theorem linkCtlWrite_canonical {s : State} (hs : s.Canonical) {p : Nat} {w : Word} : (linkCtlWrite p w s).Canonical := by
  unfold linkCtlWrite
  extract_lets _ s1
  have hs1 : s1.Canonical := setReg_canonical hs _ _
  exact ite_canonical _ hs (ite_canonical _ hs1 (ite_canonical _ (portDown_canonical hs1) (startTraining_canonical (setWport_canonical hs1))))

theorem portUpNow_canonical {s : State} (hs : s.Canonical) {p : Nat} : (portUpNow p s).Canonical := by
  unfold portUpNow
  extract_lets _ s1 s2 s3 s2' s3'
  have hs1 : s1.Canonical := setRf_canonical (setWport_canonical hs) _ _ _ _
  have hs2 : s2.Canonical := setPortState_canonical hs1
  have hs3 : s3.Canonical := post_canonical hs2 _ _ _
  have hs2' : s2'.Canonical := setPortState_canonical hs1
  have hs3' : s3'.Canonical := post_canonical hs2' _ _ _
  exact ite_canonical _ (ite_canonical _ (servoSelect_canonical hs3) hs3) (ite_canonical _ (lockLost_canonical hs3') hs3')

theorem sendNak_canonical {s : State} (hs : s.Canonical) {p c seen : Nat} : (sendNak p c seen s).Canonical := sendControl_canonical (setWport_canonical hs)

theorem nakAfter_canonical {s : State} (hs : s.Canonical) {p c seq : Nat} : (nakAfter p c seq s).Canonical :=
  ite_canonical _ (sendNak_canonical hs) (ite_canonical _ (setWport_canonical hs) (ite_canonical _ (sendNak_canonical hs) (setWport_canonical hs)))

theorem discardFrame_canonical {s : State} (hs : s.Canonical) {p : Nat} {bs : List Byte} : (discardFrame p bs s).Canonical := by
  unfold discardFrame
  extract_lets s1
  have hs1 : s1.Canonical := bump_canonical hs _ _ _ _
  exact ite_canonical _ (sendNak_canonical hs1) hs1

theorem ackFields_canonical {s : State} (hs : s.Canonical) {p : Nat} {f : LinkFrame} : (ackFields p f s).Canonical := setWport_canonical hs

theorem accept_canonical {s : State} (hs : s.Canonical) {p c : Nat} {f : LinkFrame} : (accept p c f s).2.Canonical :=
  ite_snd_canonical _ (setWport_canonical hs) (ite_snd_canonical _ (setWport_canonical hs) (nakAfter_canonical hs))

theorem deliverFrame_canonical {s : State} (hs : s.Canonical) {p : Nat} {f : LinkFrame} {run : LinkFrame → State → State}
    (hrun : ∀ a0 t, t.Canonical → (run a0 t).Canonical) :
    (deliverFrame p f run s).Canonical := by
  unfold deliverFrame
  split
  · exact hrun _ _ hs
  · extract_lets r
    have hr : r.2.Canonical := accept_canonical hs
    exact ite_canonical _ hs (ite_canonical _ (hrun _ _ hr) hr)

theorem receive_canonical {s : State} (hs : s.Canonical) {p type : Nat} {x : Rx} {run : LinkFrame → State → State}
    (hrun : ∀ a0 t, t.Canonical → (run a0 t).Canonical) :
    (receive p type x run s).Canonical := by
  unfold receive
  extract_lets s0 s1
  have hs0 : s0.Canonical := quiet_canonical hs
  have hs1 : s1.Canonical := bump_canonical hs0 _ _ _ _
  refine ite_canonical _ hs0 ?_
  split
  · exact discardFrame_canonical hs1
  · exact ite_canonical _ hs1 (pumpPort_canonical (deliverFrame_canonical (ite_canonical _ (ackFields_canonical hs1) hs1) (fun _ _ h4 => hrun _ _ h4)))

theorem onInfo_canonical {s : State} (hs : s.Canonical) {p : Nat} {f : LinkFrame} : (onInfo p f s).Canonical := by
  unfold onInfo
  extract_lets s1
  have hs1 : s1.Canonical := setReg_canonical hs _ _
  exact ite_canonical _ (setWport_canonical hs1) hs

theorem resend_canonical {s : State} (hs : s.Canonical) {p c from' : Nat} : (resend p c from' s).Canonical := by
  unfold resend
  extract_lets w x todo again y s1
  have hs1 : s1.Canonical := bump_canonical (setWport_canonical hs) _ _ _ _
  clear_value again
  split
  · exact hs
  · exact ite_canonical _ (portDown_canonical hs) (foldl_canonical _ (fun _ _ ht => putFrame_canonical ht) _ hs1)

theorem onNak_canonical {s : State} (hs : s.Canonical) {p : Nat} {f : LinkFrame} : (onNak p f s).Canonical := ite_canonical _ (resend_canonical hs) hs

theorem retryTimeout_canonical {s : State} (hs : s.Canonical) {p c : Nat} : (retryTimeout p c s).Canonical := by
  unfold retryTimeout
  extract_lets s0
  have hs0 : s0.Canonical := quiet_canonical hs
  split
  · exact hs0
  · exact resend_canonical hs0

theorem ackTimer_canonical {s : State} (hs : s.Canonical) {p : Nat} : (ackTimer p s).Canonical := by
  unfold ackTimer
  extract_lets s0
  have hs0 : s0.Canonical := quiet_canonical hs
  exact ite_canonical _ (sendControl_canonical hs0) hs0

theorem delayExchange_canonical {s : State} (hs : s.Canonical) {p ru : Nat} : (delayExchange p ru s).Canonical := by
  unfold delayExchange
  extract_lets s0
  have hs0 : s0.Canonical := quiet_canonical hs
  exact ite_canonical _ (sendControl_canonical (setWport_canonical hs0)) hs0

theorem onDreq_canonical {s : State} (hs : s.Canonical) {p ru2 ru3 : Nat} {f : LinkFrame} : (onDreq p ru2 ru3 f s).Canonical := sendControl_canonical hs

theorem parentTime_canonical {s : State} (hs : s.Canonical) {o : Int} {step : Nat} : (parentTime o step s).Canonical :=
  ite_canonical _ (setServo_canonical (timeStep_canonical hs)) (measure_canonical hs)

theorem onDresp_canonical {s : State} (hs : s.Canonical) {p ru : Nat} {f : LinkFrame} : (onDresp p ru f s).Canonical := by
  unfold onDresp
  extract_lets
  split
  · exact hs
  · extract_lets _ _ _ s1 _ s2
    have hs1 : s1.Canonical := setReg_canonical (setWport_canonical hs) _ _
    have hs2 : s2.Canonical := setWport_canonical hs1
    exact ite_canonical _ hs (ite_canonical _ (ite_canonical _ (portUpNow_canonical hs2) hs2) (ite_canonical _ (parentTime_canonical hs1) hs1))

theorem linkStatClr_canonical {s : State} (hs : s.Canonical) : (linkStatClr s).Canonical := setReg_canonical (setReg_canonical hs _ _) _ _

/-! ### The functions of `Machine/Operands.lean` -/

theorem nextStage_canonical {s : State} (hs : s.Canonical) {more : Bool} {i : Issue} {x : Held} {k : Nat} {acc : List (Nat × Nat)} {u : Nat} :
    (nextStage more i x k acc u s).Canonical :=
  ite_canonical _ (later_canonical hs _ _ _) hs

/-! ### The functions of `Machine/Tile.lean` -/

theorem setDescr_canonical {s : State} (hs : s.Canonical) {spar : Nat} {compact : Bool} {slot : Nat} {anchor : Int} :
    (s.setDescr spar compact slot anchor).Canonical :=
  hs.fabRest

theorem setHalves_canonical {s : State} (hs : s.Canonical) {l : List (Nat × Half)} : (s.setHalves l).Canonical := hs.fabRest

theorem kstepLand_canonical {s : State} (hs : s.Canonical) {x : KStep} : (kstepLand x s).Canonical :=
  bump_canonical (count_canonical (setHalves_canonical hs) _ _ _ _ _) _ _ _ _

theorem tileStage_canonical {s : State} (hs : s.Canonical) {conv : Bool} {f : TileF} {i : Issue} {x : Held} {k : Nat} {acc : List (Nat × Nat)} {u : Nat} :
    (tileStage conv f i x k acc u s).Canonical := by
  unfold tileStage
  extract_lets _ _ _ _ _ _ _ _ _ s1 _ s2
  have hs1 : s1.Canonical := foldl_canonical _ (fun _ _ ht => later_canonical ht _ _ _) _ hs
  have hs2 : s2.Canonical := portReads_canonical hs1
  exact ite_canonical _ (later_canonical hs2 _ _ _) hs2

theorem tileIssue_canonical {s : State} (hs : s.Canonical) {f : TileF} {i : Issue} {x : Held} : (tileIssue f i x s).Canonical := by
  unfold tileIssue
  extract_lets s1
  have hs1 : s1.Canonical := staged_canonical _ _ _ hs
  exact ite_canonical _ (later_canonical hs1 _ _ _) hs1

theorem wordMma_canonical {s : State} (hs : s.Canonical) {i : Issue} : (wordMma i s).Canonical :=
  issueWord_canonical _ _ _ (fun _ _ _ _ ht => tileIssue_canonical ht) _ hs

theorem wordConv_canonical {s : State} (hs : s.Canonical) {i : Issue} : (wordConv i s).Canonical :=
  issueWord_canonical _ _ _ (fun _ _ _ _ ht => tileIssue_canonical ht) _ hs

theorem tloadStage_canonical {s : State} (hs : s.Canonical) {f : TloadF} {i : Issue} {x : Held} {r : Nat} {acc : List (Nat × Nat)} {u : Nat} :
    (tloadStage f i x r acc u s).Canonical := by
  unfold tloadStage
  extract_lets _ _ _ _ _ s1
  have hs1 : s1.Canonical := portReads_canonical hs
  exact ite_canonical _ (later_canonical hs1 _ _ _) (foldl_canonical _ (fun _ _ hu => storeAt_canonical hu _ _ _ _ _) _ hs1)

theorem wordTload_canonical {s : State} (hs : s.Canonical) {i : Issue} : (wordTload i s).Canonical := issueStaged_canonical _ _ _ hs

/-! ### The functions of `Machine/Vector.lean` -/

theorem vecWrite_canonical {s : State} (hs : s.Canonical) {i : Issue} {x : Held} {b : Bounds} {dst bits v wr : Nat} {lanes : List Lane} :
    (vecWrite s i x b dst bits v wr lanes).Canonical := by
  unfold vecWrite
  extract_lets
  exact count_canonical (storeAt_canonical hs _ _ _ _ _) _ _ _ _ _

theorem binStage_canonical {s : State} (hs : s.Canonical) {fma : Bool} {ty : Ety} {op : Nat → Nat → Nat → Nat → Lane} {f : VecF} {i : Issue} {x : Held}
    {k : Nat} {acc : List (Nat × Nat)} {u : Nat} :
    (binStage fma ty op f i x k acc u s).Canonical := by
  unfold binStage
  extract_lets _ _ _ _ _ _ s1
  have hs1 : s1.Canonical := portReads_canonical hs
  exact ite_canonical _ (nextStage_canonical (vecWrite_canonical hs1)) (nextStage_canonical hs1)

theorem bfStage_canonical {s : State} (hs : s.Canonical) {op : Nat → Nat → Step16} {x : VecF} {i : Issue} {x' : Held} {n : Nat} {x'' : List (Nat × Nat)}
    {n' : Nat} :
    (bfStage op x i x' n x'' n' s).Canonical :=
  binStage_canonical hs

theorem s16Stage_canonical {s : State} (hs : s.Canonical) {op : Int → Int → Int} {x : VecF} {i : Issue} {x' : Held} {n : Nat} {x'' : List (Nat × Nat)}
    {n' : Nat} :
    (s16Stage op x i x' n x'' n' s).Canonical :=
  binStage_canonical hs

theorem fmaStage_canonical {s : State} (hs : s.Canonical) {x : VecF} {i : Issue} {x' : Held} {n : Nat} {x'' : List (Nat × Nat)} {n' : Nat} :
    (fmaStage x i x' n x'' n' s).Canonical :=
  binStage_canonical hs

theorem wordBin_canonical {s : State} (hs : s.Canonical) {opcode : Nat} {fma : Bool} {i : Issue} : (wordBin opcode fma i s).Canonical :=
  issueStaged_canonical _ _ _ hs

theorem cvtStage_canonical {s : State} (hs : s.Canonical) {f : VecF} {i : Issue} {x : Held} {v : Nat} {x' : List (Nat × Nat)} {u : Nat} :
    (cvtStage f i x v x' u s).Canonical := by
  unfold cvtStage
  extract_lets
  exact nextStage_canonical (vecWrite_canonical (portReads_canonical hs))

theorem wordVcvt_canonical {s : State} (hs : s.Canonical) {i : Issue} : (wordVcvt i s).Canonical := issueStaged_canonical _ _ _ hs

theorem vunStage_canonical {s : State} (hs : s.Canonical) {f : VecF} {i : Issue} {x : Held} {v : Nat} {x' : List (Nat × Nat)} {u : Nat} :
    (vunStage f i x v x' u s).Canonical := by
  unfold vunStage
  extract_lets
  exact nextStage_canonical (vecWrite_canonical (portReads_canonical hs))

theorem wordVun_canonical {s : State} (hs : s.Canonical) {i : Issue} : (wordVun i s).Canonical := issueStaged_canonical _ _ _ hs

theorem vredStage_canonical {s : State} (hs : s.Canonical) {f : VecF} {i : Issue} {x : Held} {v : Nat} {acc : List (Nat × Nat)} {u : Nat} :
    (vredStage f i x v acc u s).Canonical := by
  unfold vredStage
  extract_lets _ _ _ _ _ s1
  have hs1 : s1.Canonical := portReads_canonical hs
  exact ite_canonical _ (later_canonical hs1 _ _ _) (later_canonical (count_canonical hs1 _ _ _ _ _) _ _ _)

theorem wordVred_canonical {s : State} (hs : s.Canonical) {i : Issue} : (wordVred i s).Canonical := issueStaged_canonical _ _ _ hs

theorem vgenStage_canonical {s : State} (hs : s.Canonical) {f : VecF} {i : Issue} {x : Held} {v : Nat} {x' : List (Nat × Nat)} {u : Nat} :
    (vgenStage f i x v x' u s).Canonical := by
  unfold vgenStage
  extract_lets
  exact nextStage_canonical (vecWrite_canonical hs)

theorem wordVgen_canonical {s : State} (hs : s.Canonical) {i : Issue} : (wordVgen i s).Canonical :=
  issueWord_canonical _ _ _ (fun _ _ _ _ ht => later_canonical (staged_canonical _ _ _ ht) _ _ _) _ hs

/-! ### The functions of `Machine/Quant.lean` -/

theorem feedWatch_canonical {s : State} (hs : s.Canonical) {x : Held} {spar wid : Nat} {es : List WatchEl} : (feedWatch x spar wid es s).Canonical := by
  unfold feedWatch
  extract_lets
  split
  · extract_lets
    exact setJob_canonical hs _ _
  · exact hs.fabRest

theorem outWrite_canonical {s : State} (hs : s.Canonical) {i : Issue} {x : Held} {dst bits wr : Nat} {wen : Bool} {wid : Nat}
    {row : List (Option (Lane × Nat × WatchEl))} :
    (outWrite i x dst bits wr wen wid row s).Canonical := by
  unfold outWrite
  extract_lets _ _ _ s1
  have hs1 : s1.Canonical := count_canonical (storeAt_canonical hs _ _ _ _ _) _ _ _ _ _
  exact ite_canonical _ (feedWatch_canonical hs1) hs1

theorem rescStage_canonical {s : State} (hs : s.Canonical) {f : RescF} {i : Issue} {x : Held} {k : Nat} {acc : List (Nat × Nat)} {u : Nat} :
    (rescStage f i x k acc u s).Canonical := by
  unfold rescStage
  extract_lets _ _ _ _ _ _ s1 s2
  have hs1 : s1.Canonical := portReads_canonical hs
  have hs2 : s2.Canonical := outWrite_canonical hs1
  exact nextStage_canonical (bump_canonical hs2 _ _ _ _)

theorem wordResc_canonical {s : State} (hs : s.Canonical) {i : Issue} : (wordResc i s).Canonical := issueStaged_canonical _ _ _ hs

theorem quantStage_canonical {s : State} (hs : s.Canonical) {f : QuantF} {i : Issue} {x : Held} {k : Nat} {acc : List (Nat × Nat)} {u : Nat} :
    (quantStage f i x k acc u s).Canonical := by
  unfold quantStage
  extract_lets
  exact ite_canonical _ (later_canonical (portReads_canonical hs) _ _ _) (nextStage_canonical (outWrite_canonical (portReads_canonical hs)))

theorem wordQuant_canonical {s : State} (hs : s.Canonical) {i : Issue} : (wordQuant i s).Canonical := issueStaged_canonical _ _ _ hs

/-! ### The functions of `Machine/Fleet.lean` -/

theorem setFleet_canonical {s : State} (hs : s.Canonical) {x : Fleet} : (s.setFleet x).Canonical := hs.rest

theorem dropGather_canonical {s : State} (hs : s.Canonical) {g : Gather} : (dropGather g s).Canonical := setFleet_canonical hs

theorem putGather_canonical {s : State} (hs : s.Canonical) {g : Gather} : (putGather g s).Canonical := by
  unfold putGather
  extract_lets s1
  have hs1 : s1.Canonical := dropGather_canonical hs
  exact ite_canonical _ hs1 (setFleet_canonical hs1)

theorem sendTokens_canonical {s : State} (hs : s.Canonical) {g : Gather} : (sendTokens g s).Canonical :=
  ite_canonical _ (ite_canonical _ hs (sendSeq_canonical hs)) (sendSeq_canonical (ite_canonical _ hs (sendSeq_canonical hs)))

theorem beginPhase_canonical {s : State} (hs : s.Canonical) {line c n : Nat} {g : Gather} : (beginPhase line c n g s).Canonical := by
  induction n generalizing g s with
  | zero => exact putGather_canonical hs
  | succ n ih =>
    have ht := sendTokens_canonical hs (g := g)
    exact ite_canonical _ (putGather_canonical hs) (ite_canonical _ (ih hs) (ite_canonical _ (ih ht) (putGather_canonical ht)))

theorem startGather_canonical {s : State} (hs : s.Canonical) {c : Nat} {g : Gather} : (startGather c g s).Canonical := beginPhase_canonical hs

theorem addPart_canonical {s : State} (hs : s.Canonical) {c : Nat} {g : Gather} {phase : Nat} {v : List Nat} : (addPart c g phase v s).Canonical :=
  ite_canonical _ (beginPhase_canonical hs) (putGather_canonical hs)

theorem staleFrame_canonical {s : State} (hs : s.Canonical) {port : Nat} : (staleFrame port s).Canonical := by
  unfold staleFrame
  extract_lets s1
  have hs1 : s1.Canonical := bump_canonical hs _ _ _ _
  exact ite_canonical _ hs1 (post_canonical (setFleet_canonical hs1) _ _ _)

theorem forwardToken_canonical {s : State} (hs : s.Canonical) {p type hopsAt : Nat} {f : LinkFrame} : (forwardToken p type hopsAt f s).Canonical :=
  ite_canonical _ (sendSeq_canonical hs) hs

theorem onToken_canonical {s : State} (hs : s.Canonical) {p c type fAt phaseAt id port : Nat} {k : GatherKind} {v : List Nat} {f : LinkFrame} :
    (onToken p c type fAt phaseAt id port k v f s).Canonical :=
  ite_canonical _ (ite_canonical _ hs (staleFrame_canonical hs)) (addPart_canonical (forwardToken_canonical hs))

theorem onMuster_canonical {s : State} (hs : s.Canonical) {p ru : Nat} {f : LinkFrame} : (onMuster p ru f s).Canonical := onToken_canonical hs

theorem onReduce_canonical {s : State} (hs : s.Canonical) {p ru : Nat} {f : LinkFrame} : (onReduce p ru f s).Canonical := onToken_canonical hs

theorem musterArrive_canonical {s : State} (hs : s.Canonical) {f : Nat × Nat} {i : Issue} {x : Held} : (musterArrive f i x s).Canonical :=
  ite_canonical _ (putGather_canonical hs) (startGather_canonical hs)

theorem wordMuster_canonical {s : State} (hs : s.Canonical) {i : Issue} : (wordMuster i s).Canonical :=
  issueWord_canonical _ _ _ (fun _ _ _ _ ht => musterArrive_canonical ht) _ hs

theorem musterRelease_canonical {s : State} (hs : s.Canonical) {id : Nat} : (musterRelease id s).Canonical := by
  unfold musterRelease
  split
  · exact hs
  · split
    · exact hs
    · extract_lets _ _ s1
      have hs1 : s1.Canonical := putGather_canonical hs
      exact ite_canonical _ (dropGather_canonical (ite_canonical _ (setRf_canonical hs _ _ _ _) hs))
        (postAt_canonical (evt_canonical (bump_canonical hs1 _ _ _ _) _) _ _ _ _)

theorem contribute_canonical {s : State} (hs : s.Canonical) {f c want rid row : Nat} {v : List Nat} : (contribute f c want rid row v s).Canonical :=
  ite_canonical _ hs (ite_canonical _ (ite_canonical _ (startGather_canonical hs) (putGather_canonical hs)) (putGather_canonical hs))

theorem arsendStage_canonical {s : State} (hs : s.Canonical) {f : ReduceF} {i : Issue} {x : Held} {k : Nat} {acc : List (Nat × Nat)} {u : Nat} :
    (arsendStage f i x k acc u s).Canonical := by
  unfold arsendStage
  extract_lets _ _ _ s1 s2
  have hs1 : s1.Canonical := bump_canonical (count_canonical hs _ _ _ _ _) _ _ _ _
  have hs2 : s2.Canonical := ite_canonical _ (contribute_canonical hs1) hs1
  exact nextStage_canonical hs2

theorem wordArsend_canonical {s : State} (hs : s.Canonical) {i : Issue} : (wordArsend i s).Canonical := issueStaged_canonical _ _ _ hs

theorem lateReduction_canonical {s : State} (hs : s.Canonical) {port c rid : Nat} : (lateReduction port c rid s).Canonical := by
  unfold lateReduction
  extract_lets _ s1
  have hs1 : s1.Canonical := evt_canonical (bump_canonical (setFleet_canonical hs) _ _ _ _) _
  exact ite_canonical _ hs (postAt_canonical hs1 _ _ _ _)

theorem arlandStage_canonical {s : State} (hs : s.Canonical) {f : ReduceF} {i : Issue} {x : Held} {k : Nat} {x' : List (Nat × Nat)} {u : Nat} :
    (arlandStage f i x k x' u s).Canonical := by
  unfold arlandStage
  extract_lets _ _ s1
  have hs1 : s1.Canonical := by
    unfold s1
    split
    · exact later_canonical hs _ _ _
    · exact lateReduction_canonical (later_canonical hs _ _ _)
  exact ite_canonical _ (later_canonical hs1 _ _ _) hs1

theorem wordArland_canonical {s : State} (hs : s.Canonical) {i : Issue} : (wordArland i s).Canonical :=
  issueWord_canonical _ _ _ (fun _ _ _ _ ht => later_canonical ht _ _ _) _ hs

/-! ### The functions of `Machine/Gov.lean` -/

theorem setGov_canonical {s : State} (hs : s.Canonical) {g : Gov} : (s.setGov g).Canonical := hs.rest

theorem addEnergy_canonical {s : State} (hs : s.Canonical) {nj : List (BitVec 64)} : (addEnergy nj s).Canonical := by
  unfold addEnergy
  extract_lets s1
  have hs1 : s1.Canonical := foldl_canonical _ (fun _ _ ht => setLoHi_canonical ht _ _ _ _) _ hs
  exact setLoHi_canonical hs1 _ _ _ _

theorem readSensors_canonical {s : State} (hs : s.Canonical) {sens : List (Option (BitVec 12))} : (readSensors sens s).Canonical :=
  foldl_canonical _ (fun _ _ ht => setReg_canonical ht _ _) _ hs

theorem setNext_canonical {s : State} (hs : s.Canonical) {r : Nat} : (setNext r s).Canonical := by
  unfold setNext
  extract_lets t
  have ht : t.Canonical := setRf_canonical (setRf_canonical hs _ _ _ _) _ _ _ _
  exact ite_canonical _ ht (setGov_canonical ht)

theorem updateAccount_canonical {s : State} (hs : s.Canonical) : (updateAccount s).Canonical := setReg_canonical (setGov_canonical hs) _ _

theorem decideReef_canonical {s : State} (hs : s.Canonical) {rth : Nat} {t : Int} : (decideReef rth t s).Canonical := by
  unfold decideReef
  extract_lets _ _ _ s1 s2 s3 _ _ s4
  have hs1 : s1.Canonical := setGov_canonical (setRf_canonical (setRf_canonical hs _ _ _ _) _ _ _ _)
  have hs2 : s2.Canonical := ite_canonical _ (post_canonical (bump_canonical hs1 _ _ _ _) _ _ _) hs1
  have hs3 : s3.Canonical := foldl_canonical _ (fun _ _ h3 => ite_canonical _ h3 (post_canonical h3 _ _ _)) _ hs2
  have hs4 : s4.Canonical := setGov_canonical hs3
  exact ite_canonical _ (setNext_canonical hs4) hs4

theorem sampleHeat_canonical {s : State} (hs : s.Canonical) : (sampleHeat s).Canonical := by
  unfold sampleHeat
  extract_lets _ _ _ _ s1 s2
  have hs1 : s1.Canonical := setReg_canonical (setGov_canonical hs) _ _
  have hs2 : s2.Canonical := setRf_canonical hs1 _ _ _ _
  exact ite_canonical _ (post_canonical hs2 _ _ _) hs2

theorem decisionPoint_canonical {s : State} (hs : s.Canonical) {sens : List (Option (BitVec 12))} {nj : List (BitVec 64)} :
    (decisionPoint sens nj s).Canonical := by
  unfold decisionPoint
  extract_lets s1
  have hs1 : s1.Canonical := sampleHeat_canonical (updateAccount_canonical (addEnergy_canonical (readSensors_canonical hs)))
  exact ite_canonical _ hs (decideReef_canonical hs1)

theorem noteAgreed_canonical {s : State} (hs : s.Canonical) : (noteAgreed s).Canonical := by
  unfold noteAgreed
  split
  · exact ite_canonical _ (setNext_canonical hs) hs
  · exact hs

theorem fleetVote_canonical {s : State} (hs : s.Canonical) : (fleetVote s).Canonical := by
  unfold fleetVote
  extract_lets s0
  have hs0 : s0.Canonical := quiet_canonical hs
  exact ite_canonical _ (ite_canonical _ hs0 (noteAgreed_canonical (startGather_canonical hs0))) hs

theorem onReef_canonical {s : State} (hs : s.Canonical) {p ru : Nat} {f : LinkFrame} : (onReef p ru f s).Canonical :=
  ite_canonical _ hs (noteAgreed_canonical (onToken_canonical hs))

theorem fleetFallback_canonical {s : State} (hs : s.Canonical) : (fleetFallback s).Canonical := by
  unfold fleetFallback
  extract_lets _ _ s1
  have hs1 : s1.Canonical := setFleet_canonical hs
  exact ite_canonical _ (post_canonical (ite_canonical _ (setNext_canonical hs1) hs1) _ _ _) hs

theorem reefOverride_canonical {s : State} (hs : s.Canonical) {r rs : Nat} : (reefOverride r rs s).Canonical := post_canonical hs _ _ _

theorem applyReef_canonical {s0 : State} (hs0 : s0.Canonical) : (applyReef s0).2.2.2.Canonical := by
  unfold applyReef
  extract_lets rs rth agreed s
  have hs : s.Canonical := setRf_canonical hs0 _ _ _ _
  split
  · split
    · exact hs
    · exact reefOverride_canonical hs
  · split
    · split
      · split
        · exact hs
        · exact lockLost_canonical (reefOverride_canonical hs)
      · exact lockLost_canonical hs
    · split
      · exact hs
      · exact hs

theorem updateEst_canonical {s : State} (hs : s.Canonical) {t1 : BitVec 64} : (updateEst t1 s).Canonical := by
  unfold updateEst
  extract_lets _ _ _ _ s1
  have hs1 : s1.Canonical := setRf_canonical hs _ _ _ _
  exact setGov_canonical hs1

theorem switchReef_canonical {s : State} (hs : s.Canonical) {r : Nat} : (switchReef r s).Canonical := by
  unfold switchReef
  extract_lets _ s1 _ _ s2 _ s3
  have hs1 : s1.Canonical := setRf_canonical hs _ _ _ _
  have hs2 : s2.Canonical := hs1.rest
  have hs3 : s3.Canonical := bump_canonical (setGov_canonical hs2) _ _ _ _
  exact ite_canonical _ hs2 (ite_canonical _ (post_canonical hs3 _ _ _) hs3)

/-! ### The functions of `Machine/Stack.lean` -/

theorem stackJob_canonical {s : State} (hs : s.Canonical) {l : List Nat} {run defer : State → State} (hrun : ∀ t, t.Canonical → (run t).Canonical)
    (hdefer : ∀ t, t.Canonical → (defer t).Canonical) :
    (s.stackJob l run defer).Canonical :=
  ite_canonical _ hs (ite_canonical _ (hrun _ hs.rest) (hdefer _ hs))

theorem stackUse_canonical {s : State} (hs : s.Canonical) {x : Held} {a n : Nat} : (s.stackUse x a n).Canonical := ite_canonical _ hs hs.rest

/-! ### The functions of `Machine/Move.lean` -/

theorem ldhStage_canonical {s : State} (hs : s.Canonical) {f : MoveF} {i : Issue} {x : Held} {k : Nat} {x' : List (Nat × Nat)} {u : Nat} :
    (ldhStage f i x k x' u s).Canonical := by
  unfold ldhStage
  extract_lets
  exact nextStage_canonical (storeAt_canonical (hbmPortReads_canonical (stackUse_canonical hs)) _ _ _ _ _)

theorem wordLdh_canonical {s : State} (hs : s.Canonical) {i : Issue} : (wordLdh i s).Canonical := issueStaged_canonical _ _ _ hs

theorem sthStage_canonical {s : State} (hs : s.Canonical) {f : MoveF} {i : Issue} {x : Held} {k : Nat} {x' : List (Nat × Nat)} {u : Nat} :
    (sthStage f i x k x' u s).Canonical := by
  unfold sthStage
  extract_lets
  exact nextStage_canonical (later_canonical (portReads_canonical (stackUse_canonical hs)) _ _ _)

theorem wordSth_canonical {s : State} (hs : s.Canonical) {i : Issue} : (wordSth i s).Canonical := issueStaged_canonical _ _ _ hs

theorem rigStage_canonical {s : State} (hs : s.Canonical) {f : RigF} {i : Issue} {x : Held} {k : Nat} {x' : List (Nat × Nat)} {u : Nat} :
    (rigStage f i x k x' u s).Canonical := by
  unfold rigStage
  extract_lets
  exact nextStage_canonical (foldl_canonical _ (fun _ _ ht => storeAt_canonical ht _ _ _ _ _) _ (portReads_canonical hs))

theorem wordRig_canonical {s : State} (hs : s.Canonical) {i : Issue} : (wordRig i s).Canonical := issueStaged_canonical _ _ _ hs

theorem lscStage_canonical {s : State} (hs : s.Canonical) {f : MoveF} {i : Issue} {x : Held} {k : Nat} {x' : List (Nat × Nat)} {u : Nat} :
    (lscStage f i x k x' u s).Canonical := by
  unfold lscStage
  extract_lets
  exact nextStage_canonical (storeAt_canonical (portReads_canonical hs) _ _ _ _ _)

theorem wordLsc_canonical {s : State} (hs : s.Canonical) {i : Issue} : (wordLsc i s).Canonical := issueStaged_canonical _ _ _ hs

theorem idxrStage_canonical {s : State} (hs : s.Canonical) {f : Nat × Nat × Nat} {i : Issue} {x : Held} {k : Nat} {acc : List (Nat × Nat)} {u : Nat} :
    (idxrStage f i x k acc u s).Canonical := by
  unfold idxrStage
  extract_lets _ _ _ _ _ _ _ _ _ _ s1 s2
  have hs1 : s1.Canonical := ite_canonical _ hs (portReads_canonical hs)
  have hs2 : s2.Canonical := storeAt_canonical hs1 _ _ _ _ _
  exact ite_canonical _ (later_canonical (portReads_canonical hs) _ _ _) (ite_canonical _ (later_canonical hs2 _ _ _) hs2)

theorem wordIdxr_canonical {s : State} (hs : s.Canonical) {i : Issue} : (wordIdxr i s).Canonical := issueStaged_canonical _ _ _ hs

/-! ### The functions of `Machine/Planisher.lean` -/

theorem planWrite_canonical {s : State} (hs : s.Canonical) {occ k u : Nat} {groups : List (List PlanEl)} {i : Issue} {x : Held} :
    (planWrite occ k u groups i x s).Canonical :=
  count_canonical (foldl_canonical _ (fun _ _ ht => storeAt_canonical ht _ _ _ _ _) _ hs) _ _ _ _ _

theorem planInvalid_canonical {s : State} (hs : s.Canonical) {i : Issue} {x : Held} : (planInvalid i x s).Canonical := postAt_canonical hs _ _ _ _

theorem planBegin_canonical {s : State} (hs : s.Canonical) {i : Issue} {x : Held} {par : Nat} {parts : List (Nat × Nat)} {ok : Bool} :
    (planBegin i x par parts ok s).Canonical := by
  unfold planBegin
  extract_lets t
  have ht : t.Canonical := portReads_canonical hs
  exact ite_canonical _ ht (planInvalid_canonical ht)

theorem tapStage_canonical {s : State} (hs : s.Canonical) {d : TapWord} {f : PlanF} {ty : Ety} {ok : Bool} {addr : Nat → Nat → Nat → Nat → Int}
    {inp : Nat × Nat → Int × Nat × Bool} {out : Nat → (Nat → Nat → Nat × Nat × Int) → List (List PlanEl)} {i : Issue} {x : Held} {hd : Nat × Nat} {k : Nat} {acc : List (Nat × Nat)} {u : Nat} :
    (tapStage d f ty ok addr inp out i x hd k acc u s).Canonical := by
  unfold tapStage
  extract_lets _ _ _ _ _ _ _ _ _ _ _ _ _ _ _ s1
  have hs1 : s1.Canonical := portReads_canonical hs
  exact ite_canonical _ (nextStage_canonical (ite_canonical _ (planWrite_canonical hs) hs))
    (ite_canonical _ (nextStage_canonical (planWrite_canonical (portReads_canonical hs1))) (nextStage_canonical hs1))

theorem pfirstStage_canonical {s : State} (hs : s.Canonical) {f : PfirstF} {i : Issue} {x : Held} {k : Nat} {acc : List (Nat × Nat)} {u : Nat} :
    (pfirstStage f i x k acc u s).Canonical := by
  unfold pfirstStage
  extract_lets
  exact tapStage_canonical (ite_canonical _ (planBegin_canonical hs) hs)

theorem wordPfirst_canonical {s : State} (hs : s.Canonical) {i : Issue} : (wordPfirst i s).Canonical := issueStaged_canonical _ _ _ hs

theorem plastStage_canonical {s : State} (hs : s.Canonical) {f : PlastF} {i : Issue} {x : Held} {k : Nat} {acc : List (Nat × Nat)} {u : Nat} :
    (plastStage f i x k acc u s).Canonical := by
  unfold plastStage
  extract_lets
  exact tapStage_canonical (ite_canonical _ (planBegin_canonical hs) hs)

theorem wordPlast_canonical {s : State} (hs : s.Canonical) {i : Issue} : (wordPlast i s).Canonical := issueStaged_canonical _ _ _ hs

theorem pshufStage_canonical {s : State} (hs : s.Canonical) {f : PshufF} {i : Issue} {x : Held} {k : Nat} {acc : List (Nat × Nat)} {u : Nat} :
    (pshufStage f i x k acc u s).Canonical := by
  unfold pshufStage
  extract_lets _ _ _ _ _ _ s0 _ _ _ _ s1
  have hs0 : s0.Canonical := ite_canonical _ (planBegin_canonical hs) hs
  have hs1 : s1.Canonical := ite_canonical _ (storeAt_canonical (portReads_canonical hs0) _ _ _ _ _)
    (count_canonical (storeAt_canonical hs0 _ _ _ _ _) _ _ _ _ _)
  exact nextStage_canonical hs1

theorem wordPshuf_canonical {s : State} (hs : s.Canonical) {i : Issue} : (wordPshuf i s).Canonical := issueStaged_canonical _ _ _ hs

theorem pcropStage_canonical {s : State} (hs : s.Canonical) {f : PcropF} {i : Issue} {x : Held} {k : Nat} {acc : List (Nat × Nat)} {u : Nat} :
    (pcropStage f i x k acc u s).Canonical := by
  unfold pcropStage
  extract_lets _ _ _ _ _ _ _ _ _ _ _ _ s0 s1 _ s2
  have hs0 : s0.Canonical := ite_canonical _ (planBegin_canonical hs) hs
  have hs1 : s1.Canonical := ite_canonical _ hs0 (portReads_canonical hs0)
  have hs2 : s2.Canonical := ite_canonical _ (postAt_canonical hs1 _ _ _ _) hs1
  exact nextStage_canonical (planWrite_canonical hs2)

theorem wordPcrop_canonical {s : State} (hs : s.Canonical) {i : Issue} : (wordPcrop i s).Canonical := issueStaged_canonical _ _ _ hs

theorem pargStage_canonical {s : State} (hs : s.Canonical) {f : PargF} {i : Issue} {x : Held} {k : Nat} {acc : List (Nat × Nat)} {u : Nat} :
    (pargStage f i x k acc u s).Canonical := by
  unfold pargStage
  extract_lets _ _ _ _ _ _ _ _ _ _ _ _ _ _ s0 s1
  have hs0 : s0.Canonical := ite_canonical _ (planBegin_canonical hs) hs
  have hs1 : s1.Canonical := ite_canonical _ hs0 (portReads_canonical hs0)
  exact nextStage_canonical (ite_canonical _ (planWrite_canonical hs1) hs1)

theorem wordPargmax_canonical {s : State} (hs : s.Canonical) {i : Issue} : (wordPargmax i s).Canonical := issueStaged_canonical _ _ _ hs

/-! ### The functions of `Machine/Scalar.lean` -/

theorem wordBend_canonical {s : State} (hs : s.Canonical) {i : Issue} : (wordBend i s).Canonical :=
  issueWord_canonical _ _ _ (fun _ _ _ _ ht => ht.fabRest) _ hs

theorem wordSli_canonical {s : State} (hs : s.Canonical) {i : Issue} : (wordSli i s).Canonical :=
  issueWord_canonical _ _ _ (fun _ _ _ _ ht => later_canonical ht _ _ _) _ hs

theorem wordSop_canonical {s : State} (hs : s.Canonical) {i : Issue} : (wordSop i s).Canonical :=
  issueWord_canonical _ _ _ (fun _ _ _ _ ht => later_canonical ht _ _ _) _ hs

theorem wordSmovb_canonical {s : State} (hs : s.Canonical) {i : Issue} : (wordSmovb i s).Canonical :=
  issueWord_canonical _ _ _ (fun _ _ _ _ ht => later_canonical ht _ _ _) _ hs

theorem wordAli_canonical {s : State} (hs : s.Canonical) {i : Issue} : (wordAli i s).Canonical :=
  issueWord_canonical _ _ _ (fun _ _ _ _ ht => later_canonical ht _ _ _) _ hs

theorem wordAinc_canonical {s : State} (hs : s.Canonical) {i : Issue} : (wordAinc i s).Canonical :=
  issueWord_canonical _ _ _ (fun _ _ _ _ ht => later_canonical ht _ _ _) _ hs

theorem wordSget_canonical {s : State} (hs : s.Canonical) {i : Issue} : (wordSget i s).Canonical :=
  issueWord_canonical _ _ _ (fun _ _ _ _ ht => later_canonical ht _ _ _) _ hs

theorem wordGset_canonical {s : State} (hs : s.Canonical) {i : Issue} : (wordGset i s).Canonical :=
  issueWord_canonical _ _ _ (fun _ _ _ _ ht => later_canonical ht _ _ _) _ hs

/-! ### The functions of `Machine/Sync.lean` -/

theorem ingressRepeat_canonical {s : State} (hs : s.Canonical) {port n : Nat} : (ingressRepeat port n s).Canonical := by
  unfold ingressRepeat
  extract_lets s1 _ _ s2
  have hs1 : s1.Canonical := bump_canonical hs _ _ _ _
  have hs2 : s2.Canonical := hs1.rest
  exact post_canonical hs2 _ _ _

theorem pairMisuse_canonical {s : State} (hs : s.Canonical) {port n : Nat} : (pairMisuse port n s).Canonical := post_canonical hs _ _ _

theorem fenceTest_canonical {s : State} (hs : s.Canonical) {n : Nat} {i : Issue} {x : Held} : (fenceTest n i x s).Canonical := by
  unfold fenceTest
  extract_lets _ _ _ _ s1
  have hs1 : s1.Canonical := ingressRepeat_canonical hs
  exact ite_canonical _ (pairMisuse_canonical hs) (ite_canonical _ hs1 (ite_canonical _ (setReg_canonical hs _ _)
    (ite_canonical _ (post_canonical hs1 _ _ _) hs1)))

theorem wordFtest_canonical {s : State} (hs : s.Canonical) {i : Issue} : (wordFtest i s).Canonical :=
  issueWord_canonical _ _ _ (fun _ _ _ _ ht => fenceTest_canonical ht) _ hs

theorem fenceLand_canonical {s : State} (hs : s.Canonical) {ch n port pos : Nat} : (fenceLand ch n port pos s).Canonical :=
  ite_canonical _ (pairMisuse_canonical hs) (ite_canonical _ hs (ite_canonical _ (post_canonical (setReg_canonical hs _ _) _ _ _)
    (post_canonical (bump_canonical hs _ _ _ _) _ _ _)))

theorem wordFsig_canonical {s : State} (hs : s.Canonical) {i : Issue} : (wordFsig i s).Canonical :=
  issueWord_canonical _ _ _ (fun _ _ _ _ ht => later_canonical ht _ _ _) _ hs

theorem awaitLine_canonical {s : State} (hs : s.Canonical) {layer : Nat} {i : Issue} {x : Held} : (awaitLine layer i x s).Canonical :=
  foldl_canonical _ (fun _ _ ht => ownerFault_canonical ht _ _ _) _ hs

theorem wordAwait_canonical {s : State} (hs : s.Canonical) {i : Issue} : (wordAwait i s).Canonical :=
  issueWord_canonical _ _ _ (fun _ _ _ _ ht => awaitLine_canonical ht) _ hs

theorem emitSeg_canonical {s : State} (hs : s.Canonical) {f : EmitF} {i : Issue} {x : Held} : (emitSeg f i x s).Canonical := hs.fabRest

theorem wordEmit_canonical {s : State} (hs : s.Canonical) {i : Issue} : (wordEmit i s).Canonical :=
  issueWord_canonical _ _ _ (fun _ _ _ _ ht => emitSeg_canonical ht) _ hs

theorem markLand_canonical {s : State} (hs : s.Canonical) {ch spar layer line : Nat} {f : Frame} {pos : Nat} :
    (markLand ch spar layer line f pos s).Canonical :=
  ite_canonical _ hs hs.fabRest

theorem wordMark_canonical {s : State} (hs : s.Canonical) {i : Issue} : (wordMark i s).Canonical :=
  issueWord_canonical _ _ _ (fun _ _ _ _ ht => later_canonical ht _ _ _) _ hs

theorem egressRelease_canonical {s : State} (hs : s.Canonical) {p n : Nat} : (egressRelease p n s).Canonical :=
  ite_canonical _ (setRf_canonical hs _ _ _ _) hs

/-! ### The functions of `Machine/Control.lean` -/

theorem wordReserved_canonical {s : State} (hs : s.Canonical) {i : Issue} : (wordReserved i s).Canonical :=
  issueWord_canonical _ _ _ (fun _ _ _ _ ht => ht) _ hs

theorem binOf_canonical {s : State} (hs : s.Canonical) {op : Nat} {x : VecF} {i : Issue} {x' : Held} {n : Nat} {x'' : List (Nat × Nat)} {n' : Nat} :
    (binOf op x i x' n x'' n' s).Canonical := by
  unfold binOf
  split
  · exact bfStage_canonical hs
  · exact bfStage_canonical hs
  · exact bfStage_canonical hs
  · exact fmaStage_canonical hs
  · exact bfStage_canonical hs
  · exact bfStage_canonical hs
  · exact s16Stage_canonical hs
  · exact s16Stage_canonical hs
  · exact s16Stage_canonical hs
  · exact s16Stage_canonical hs
  · exact s16Stage_canonical hs

theorem wordOf_canonical {s : State} (hs : s.Canonical) {i : Issue} : (wordOf i s).Canonical := by
  unfold wordOf
  split
  · exact wordBend_canonical hs
  · exact wordSli_canonical hs
  · exact wordSop_canonical hs
  · exact wordSmovb_canonical hs
  · exact wordAli_canonical hs
  · exact wordAinc_canonical hs
  · exact wordSget_canonical hs
  · exact wordGset_canonical hs
  · exact wordFtest_canonical hs
  · exact wordFsig_canonical hs
  · exact wordAwait_canonical hs
  · exact wordMuster_canonical hs
  · exact wordEmit_canonical hs
  · exact wordMark_canonical hs
  · exact wordMma_canonical hs
  · exact wordConv_canonical hs
  · exact wordTload_canonical hs
  · exact wordArland_canonical hs
  · exact wordBin_canonical hs
  · exact wordBin_canonical hs
  · exact wordBin_canonical hs
  · exact wordBin_canonical hs
  · exact wordBin_canonical hs
  · exact wordBin_canonical hs
  · exact wordBin_canonical hs
  · exact wordBin_canonical hs
  · exact wordBin_canonical hs
  · exact wordBin_canonical hs
  · exact wordBin_canonical hs
  · exact wordVcvt_canonical hs
  · exact wordVun_canonical hs
  · exact wordVred_canonical hs
  · exact wordVgen_canonical hs
  · exact wordResc_canonical hs
  · exact wordQuant_canonical hs
  · exact wordArsend_canonical hs
  · exact wordLdh_canonical hs
  · exact wordSth_canonical hs
  · exact wordRig_canonical hs
  · exact wordLsc_canonical hs
  · exact wordIdxr_canonical hs
  · exact wordPfirst_canonical hs
  · exact wordPlast_canonical hs
  · exact wordPshuf_canonical hs
  · exact wordPcrop_canonical hs
  · exact wordPargmax_canonical hs
  · exact wordReserved_canonical hs

theorem stageWith_canonical {s : State} (hs : s.Canonical) {α : Type} {dec : State → Issue → Option α}
    {run : α → Issue → Held → Nat → List (Nat × Nat) → Nat → State → State} {i : Issue} {x : Held} {k : Nat} {acc : List (Nat × Nat)} {u : Nat} (hrun : ∀ a0 a1 a2 a3 a4 a5 t, t.Canonical → (run a0 a1 a2 a3 a4 a5 t).Canonical) :
    (stageWith dec run i x k acc u s).Canonical := by
  unfold stageWith
  split
  · exact hrun _ _ _ _ _ _ _ hs
  · exact hs

theorem stageOf_canonical {s : State} (hs : s.Canonical) {i : Issue} {x : Held} {k : Nat} {acc : List (Nat × Nat)} {u : Nat} :
    (stageOf i x k acc u s).Canonical := by
  unfold stageOf
  split
  · exact stageWith_canonical hs (fun _ _ _ _ _ _ _ ht => tileStage_canonical ht)
  · exact stageWith_canonical hs (fun _ _ _ _ _ _ _ ht => tileStage_canonical ht)
  · exact stageWith_canonical hs (fun _ _ _ _ _ _ _ ht => tloadStage_canonical ht)
  · exact stageWith_canonical hs (fun _ _ _ _ _ _ _ ht => arlandStage_canonical ht)
  · exact stageWith_canonical hs (fun _ _ _ _ _ _ _ ht => cvtStage_canonical ht)
  · exact stageWith_canonical hs (fun _ _ _ _ _ _ _ ht => vunStage_canonical ht)
  · exact stageWith_canonical hs (fun _ _ _ _ _ _ _ ht => vredStage_canonical ht)
  · exact stageWith_canonical hs (fun _ _ _ _ _ _ _ ht => vgenStage_canonical ht)
  · exact stageWith_canonical hs (fun _ _ _ _ _ _ _ ht => rescStage_canonical ht)
  · exact stageWith_canonical hs (fun _ _ _ _ _ _ _ ht => quantStage_canonical ht)
  · exact stageWith_canonical hs (fun _ _ _ _ _ _ _ ht => arsendStage_canonical ht)
  · exact stageWith_canonical hs (fun _ _ _ _ _ _ _ ht => ldhStage_canonical ht)
  · exact stageWith_canonical hs (fun _ _ _ _ _ _ _ ht => sthStage_canonical ht)
  · exact stageWith_canonical hs (fun _ _ _ _ _ _ _ ht => rigStage_canonical ht)
  · exact stageWith_canonical hs (fun _ _ _ _ _ _ _ ht => lscStage_canonical ht)
  · exact stageWith_canonical hs (fun _ _ _ _ _ _ _ ht => idxrStage_canonical ht)
  · exact stageWith_canonical hs (fun _ _ _ _ _ _ _ ht => pfirstStage_canonical ht)
  · exact stageWith_canonical hs (fun _ _ _ _ _ _ _ ht => plastStage_canonical ht)
  · exact stageWith_canonical hs (fun _ _ _ _ _ _ _ ht => pshufStage_canonical ht)
  · exact stageWith_canonical hs (fun _ _ _ _ _ _ _ ht => pcropStage_canonical ht)
  · exact stageWith_canonical hs (fun _ _ _ _ _ _ _ ht => pargStage_canonical ht)
  · exact stageWith_canonical hs (fun _ _ _ _ _ _ _ ht => binOf_canonical ht)

theorem loopIter_canonical {s : State} (hs : s.Canonical) {i : Issue} {k lead place u : Nat} : (loopIter i k lead place u s).Canonical := by
  unfold loopIter
  extract_lets _ _ s1
  have hs1 : s1.Canonical := foldl_canonical _ (fun _ _ ht => later_canonical ht _ _ _) _ hs
  exact ite_canonical _ (later_canonical hs1 _ _ _) hs1

theorem wordLoop_canonical {s : State} (hs : s.Canonical) {lead place : Nat} {i : Issue} : (wordLoop lead place i s).Canonical :=
  loopIter_canonical (issueWord_canonical _ _ _ (fun _ _ _ _ ht => ht) _ hs)

theorem issueAt_canonical {s : State} (hs : s.Canonical) {lead place : Nat} {i : Issue} : (issueAt lead place i s).Canonical :=
  ite_canonical _ (wordLoop_canonical hs) (wordOf_canonical hs)

/-! ### The functions of `Machine/Issue.lean` -/

theorem runWork_canonical {s : State} (hs : s.Canonical) {u : Nat} {w : Work} : (runWork u w s).Canonical := by
  unfold runWork
  split
  · extract_lets
    exact ite_canonical _ hs (issueAt_canonical hs)
  · exact ite_canonical _ hs (loopIter_canonical hs)
  · exact stageOf_canonical hs
  · exact storeNow_canonical hs _ _ _ _ _
  · exact landNow_canonical hs _ _ _ _ _
  · extract_lets
    exact withHbm_canonical (hbmMerge_canonical hs _ _) (Mem.write_wf hs.hbm _)
  · exact setS_canonical hs _ _ _
  · exact setB_canonical hs _ _ _
  · exact setA_canonical hs _ _ _
  · exact setGen_canonical hs _ _
  · exact setGen_canonical hs _ _
  · exact setDescr_canonical hs
  · exact kstepLand_canonical hs
  · exact setHalves_canonical hs
  · exact markLand_canonical hs
  · exact fenceLand_canonical hs
  · exact fitBundleEnd_canonical hs

theorem runPlace_canonical {s : State} (hs : s.Canonical) {c phase : Nat} : (runPlace c phase s).Canonical :=
  foldl_canonical _ (fun _ _ ht => runWork_canonical ht) _ (reachCycle_canonical hs.fabRest _)

theorem settle_canonical {s : State} (hs : s.Canonical) {n c phase : Nat} : (settle n c phase s).Canonical := by
  induction n generalizing s with
  | zero => exact hs
  | succ n ih =>
    unfold settle
    split
    · exact hs
    · exact ih (runPlace_canonical hs)

theorem settleTo_canonical {s : State} (hs : s.Canonical) {c phase : Nat} : (settleTo c phase s).Canonical :=
  reachCycle_canonical (settle_canonical hs.rest) _

theorem settleAll_canonical {s : State} (hs : s.Canonical) : (settleAll s).Canonical := settle_canonical hs.rest

theorem commandAt_canonical {s : State} (hs : s.Canonical) {word : Nat → Nat → Issue → State → State} {i : Issue}
    (hword : ∀ a0 a1 a2 t, t.Canonical → (word a0 a1 a2 t).Canonical) :
    (commandAt word i s).Canonical := by
  unfold commandAt
  extract_lets t
  have ht : t.Canonical := settleTo_canonical hs
  split
  · exact ht
  · exact hword _ _ _ _ ht

theorem settleMuster_canonical {s : State} (hs : s.Canonical) {id n : Nat} : (settleMuster id n s).Canonical := by
  induction n generalizing s with
  | zero => exact hs
  | succ n ih =>
    unfold settleMuster
    refine ite_canonical _ hs ?_
    split
    · exact hs
    · exact ih (runPlace_canonical hs)

theorem atRelease_canonical {s : State} (hs : s.Canonical) {id : Nat} : (atRelease id s).Canonical := by
  unfold atRelease
  extract_lets t
  have ht : t.Canonical := settleMuster_canonical hs.rest
  split
  · exact hs.rest
  · exact ite_canonical _ (reachCycle_canonical (settle_canonical ht) _) ht

/-! ### The functions of `Machine/Halyard.lean` -/

theorem tickSegs_canonical {s : State} (hs : s.Canonical) : (tickSegs s).Canonical := hs.fabRest

theorem dropFetched_canonical {s : State} (hs : s.Canonical) : (dropFetched s).Canonical := hs.rest

theorem closeSlack_canonical {s : State} (hs : s.Canonical) {len : Nat} : (closeSlack len s).Canonical := hs.rest

theorem shiftFlight_canonical {s : State} (hs : s.Canonical) {len : Nat} : (shiftFlight len s).Canonical :=
  (withJobs_canonical hs (smRise_map _ hs.jobs)).fabRest

theorem deliver_canonical {s : State} (hs : s.Canonical) : (deliver s).Canonical := hs.rest

theorem jumpEnd_canonical {s : State} (hs : s.Canonical) : (jumpEnd s).Canonical := ite_canonical _ (post_canonical hs.rest _ _ _) hs

theorem lockCut_canonical {s : State} (hs : s.Canonical) : (lockCut s).Canonical := ite_canonical _ (lockLost_canonical hs) hs

theorem psrWake_canonical {s : State} (hs : s.Canonical) : (psrWake s).Canonical := ite_canonical _ hs.rest hs

theorem lineEnd_canonical {s0 : State} (hs0 : s0.Canonical) : (lineEnd s0).Canonical := by
  unfold lineEnd
  extract_lets _ s s1
  have hs : s.Canonical := settleTo_canonical hs0
  have hs1 : s1.Canonical := closeLine_canonical (psrWake_canonical (lockCut_canonical hs))
  exact hs1.rest

theorem halyardTick_canonical {s : State} (hs : s.Canonical) : (halyardTick s).Canonical := by
  unfold halyardTick
  extract_lets _ _ s2 _ _ s3
  have hs2 : s2.Canonical := lineEnd_canonical hs
  have hs3 : s3.Canonical := (jumpEnd_canonical hs2).rest
  exact ite_canonical _ hs (ite_canonical _ (shiftFlight_canonical hs3.rest) (deliver_canonical
    (closeSlack_canonical (dropFetched_canonical (tickSegs_canonical (shiftFlight_canonical hs2.rest))))))

theorem checkLayer_canonical {s : State} (hs : s.Canonical) {v : State} {f : Frame} {n l : Nat} : (checkLayer v f n s l).Canonical :=
  ite_canonical _ hs (ite_canonical _ hs.fabRest (underrun_canonical hs _ _ _ _))

theorem leadCheck_canonical {s : State} (hs : s.Canonical) {v : State} {f : Frame} {n : Nat} : (leadCheck v f n s).Canonical :=
  ite_canonical _ hs (foldl_canonical _ (fun _ _ ht => checkLayer_canonical ht) _ hs)

/-! ### The functions of `Machine/Slack.lean` -/

theorem refreshOnce_canonical {s : State} (hs : s.Canonical) : (refreshOnce s).Canonical := hs.rest

theorem refresh_canonical {s : State} (hs : s.Canonical) : (refresh s).Canonical :=
  ite_canonical _ (foldl_canonical _ (fun _ _ ht => refreshOnce_canonical ht) _ hs) (refreshOnce_canonical hs)

theorem scrubSector_canonical {s : State} (hs : s.Canonical) {hard : List Nat} {x : Nat} : (scrubSector hard s x).Canonical := by
  unfold scrubSector
  extract_lets _ _ s1
  have hs1 : s1.Canonical := withHbm_canonical (foldl_canonical _ (fun _ _ ht => hbmReadCw_canonical ht _ _) _ hs) (writeBack_wf hs.hbm _ _)
  exact ite_canonical _ (post_canonical hs1.rest _ _ _) hs1

theorem deferScrub_canonical {s : State} (hs : s.Canonical) : (deferScrub s).Canonical := bump_canonical hs _ _ _ _

theorem repair_canonical {s : State} (hs : s.Canonical) {hard : List Nat} : (repair hard s).Canonical :=
  ite_canonical _ hs (ite_canonical _ (foldl_canonical _ (fun _ _ ht => scrubSector_canonical ht) _ hs.rest) (deferScrub_canonical hs))

theorem scrub_canonical {s : State} (hs : s.Canonical) {hard : List Nat} : (scrub hard s).Canonical := by
  unfold scrub
  extract_lets _ _ s1 _ s2
  have hs1 : s1.Canonical := foldl_canonical _ (fun _ _ ht => scrubSector_canonical ht) _ hs.rest
  have hs2 : s2.Canonical := setReg_canonical hs1 _ _
  exact ite_canonical _ hs (ite_canonical _ (ite_canonical _ (bump_canonical hs2 _ _ _ _) hs2) (deferScrub_canonical hs))

theorem calibrate_canonical {s : State} (hs : s.Canonical) : (calibrate s).Canonical :=
  ite_canonical _ hs (ite_canonical _ hs.rest (bump_canonical hs _ _ _ _))

theorem deferTel_canonical {s : State} (hs : s.Canonical) : (deferTel s).Canonical := hs.rest

theorem answer_canonical {s : State} (hs : s.Canonical) {p : Nat} {bs : List (Byte × Nat)} : (answer p bs s).Canonical := hs.rest

theorem bar2Run_canonical {s : State} (hs : s.Canonical) {p : Nat} {op : Bar2Op} : (bar2Run p op s).Canonical := by
  unfold bar2Run
  split
  · exact answer_canonical (hbmReads_canonical hs _ _ _ _)
  · exact setPreg_canonical (hbmWrite_canonical (hbmMerge_canonical hs _ _) _ _) _ _ _
  · exact answer_canonical hs

theorem bar2Serve_canonical {s : State} (hs : s.Canonical) {l : List (Nat × Bar2Op)} : (bar2Serve l s).Canonical := by
  induction l generalizing s with
  | nil => exact hs
  | cons e t ih => exact ite_canonical _ (ih hs.rest) (ih (bar2Run_canonical hs.rest))

theorem serveBar2_canonical {s : State} (hs : s.Canonical) : (serveBar2 s).Canonical :=
  ite_canonical _ hs (ite_canonical _ (foldl_canonical _ (fun _ _ ht => bar2Run_canonical ht) _ hs.rest) (ite_canonical _ (bar2Serve_canonical hs.rest) hs))

theorem bar2Take_canonical {s : State} (hs : s.Canonical) {p : Nat} {op : Bar2Op} : (bar2Take p op s).Canonical := serveBar2_canonical hs.rest

theorem bar2Drop_canonical {s : State} (hs : s.Canonical) {p : Nat} : (bar2Drop p s).Canonical := hs.rest

theorem reachSlack_canonical {s : State} (hs : s.Canonical) : (reachSlack s).Canonical := settleTo_canonical hs

theorem stackWindow_canonical {s : State} (hs : s.Canonical) {hard : List Nat} : (stackWindow hard s).Canonical := by
  unfold stackWindow
  extract_lets s1 _ s2
  have hs1 : s1.Canonical := ite_canonical _ hs (reachSlack_canonical hs)
  have hs2 : s2.Canonical := hs1.rest
  exact ite_canonical _ hs (serveBar2_canonical (calibrate_canonical (scrub_canonical (repair_canonical (refresh_canonical hs2)))))

theorem sparFails_canonical {s : State} (hs : s.Canonical) {c n : Nat} : (sparFails c s n).Canonical := by
  unfold sparFails
  extract_lets _ s1
  have hs1 : s1.Canonical := hs.fabRest
  exact ite_canonical _ hs (postAt_canonical hs1 _ _ _ _)

theorem bayFails_canonical {s : State} (hs : s.Canonical) {n cause : Nat} : (bayFails n cause s).Canonical :=
  ite_canonical _ hs (post_canonical (sparFails_canonical hs) _ _ _)

theorem loftScrubSector_canonical {s : State} (hs : s.Canonical) {hard : List Nat} {n : Nat} : (loftScrubSector hard n s).Canonical := by
  unfold loftScrubSector
  extract_lets rows total k x m bad s1 s2 ce th _ s3 s4
  have hs1 : s1.Canonical := setLoft_canonical (foldl_canonical _ (fun _ _ ht => loftReadCw_canonical ht _ _ _) _ hs) (writeBack_wf hs.loft _ _)
  have hs2 : s2.Canonical := ite_canonical _ (bayFails_canonical hs1) hs1
  clear_value s2
  have hs3 : s3.Canonical := hs2.rest
  have hs4 : s4.Canonical := ite_canonical _ (bayFails_canonical hs3) hs3
  clear_value s4
  exact ite_canonical _ hs (ite_canonical _ hs4.rest hs4.rest)

theorem loftPasses_canonical {s : State} (hs : s.Canonical) : (loftPasses s).Canonical := by
  unfold loftPasses
  extract_lets t
  have ht : t.Canonical := bump_canonical hs _ _ _ _
  exact ite_canonical _ ht.rest hs

theorem loftScrub_canonical {s : State} (hs : s.Canonical) {hard : List Nat} : (loftScrub hard s).Canonical := by
  unfold loftScrub
  extract_lets _ s1
  have hs1 : s1.Canonical := foldl_canonical _ (fun _ _ ht => foldl_canonical _ (fun _ _ hu => loftScrubSector_canonical hu) _ ht) _ hs
  exact ite_canonical _ hs (ite_canonical _ (loftPasses_canonical hs1.rest) (bump_canonical hs _ _ _ _))

theorem slackInterval_canonical {s : State} (hs : s.Canonical) {hard : List Nat} : (slackInterval hard s).Canonical := by
  unfold slackInterval
  extract_lets s1
  have hs1 : s1.Canonical := reachSlack_canonical hs
  exact ite_canonical _ hs (loftScrub_canonical hs1.rest)

theorem selfTestStep_canonical {s : State} (hs : s.Canonical) {fails : List (Fin 64)} {c : BitVec 16} : (selfTestStep fails c s).Canonical :=
  ite_canonical _ (foldl_canonical _ (fun _ _ ht => sparFails_canonical ht) _ hs.rest) hs

/-! ### The functions of `Machine/Record.lean` -/

theorem userWrite_canonical {s : State} (hs : s.Canonical) {a : Nat} {bs : List Byte} : (s.userWrite a bs).Canonical := putImage_canonical hs

theorem recordOut_canonical {s : State} (hs : s.Canonical) {r : FrameRec} : (recordOut r s).Canonical := by
  unfold recordOut
  extract_lets _ s0 s1
  have hs0 : s0.Canonical := hs.rest
  have hs1 : s1.Canonical := ite_canonical _ (setReg_canonical (userWrite_canonical hs0) _ _) hs0
  split
  · exact ite_canonical _ hs1 (post_canonical hs1 _ _ _)
  · exact hs1

theorem frameRecordWrite_canonical {s : State} (hs : s.Canonical) : (frameRecordWrite s).Canonical := by
  unfold frameRecordWrite
  split
  · exact serveBar2_canonical (stackJob_canonical hs (fun _ ht => recordOut_canonical ht) (fun _ ht => deferTel_canonical ht))
  · exact hs

theorem replayFetch_canonical {s : State} (hs : s.Canonical) : (replayFetch s).Canonical := by
  unfold replayFetch
  extract_lets _ _ t
  have ht : t.Canonical := hbmTake_canonical hs
  exact ite_canonical _ (ite_canonical _ ht.rest hs.rest) hs

theorem hlogCopy_canonical {s : State} (hs : s.Canonical) {q gap : Nat} : (hlogCopy q gap s).Canonical := by
  unfold hlogCopy
  extract_lets s1
  have hs1 : s1.Canonical := bump_canonical hs _ _ _ _
  exact setReg_canonical (withHbm_canonical hs1 (Mem.write_wf hs1.hbm _)) _ _

/-- The function itself: the kernel need not evaluate where the next entry of the log goes. -/
theorem blackBoxCopy_eq : blackBoxCopy = fun s => match hlogNext s with
    | some x => serveBar2 (s.stackJob [hlogBase / 64 + x.1 % 1048576] (hlogCopy x.1 x.2) deferTel)
    | none => s := rfl

theorem blackBoxCopy_canonical {s : State} (hs : s.Canonical) : (blackBoxCopy s).Canonical := by
  rw [blackBoxCopy_eq]
  beta_reduce
  generalize hlogNext s = o
  cases o with
  | none => exact hs
  | some x => exact serveBar2_canonical (stackJob_canonical hs (fun _ ht => hlogCopy_canonical ht) (fun _ ht => deferTel_canonical ht))

/-! ### The functions of `Machine/Fit.lean` -/

theorem fitStepStart_canonical {s : State} (hs : s.Canonical) {n : Nat} : (fitStepStart n s).Canonical := by
  unfold fitStepStart
  split
  · exact hs
  · exact ite_canonical _ (setJob_canonical hs _ _) hs

theorem fitDefer_canonical {s : State} (hs : s.Canonical) {n : Nat} : (fitDefer n s).Canonical := by
  unfold fitDefer
  extract_lets _ s1
  have hs1 : s1.Canonical := setJob_canonical (bump_canonical hs _ _ _ _) _ _
  exact ite_canonical _ (post_canonical (setJob_canonical hs1 _ _) _ _ _) hs1

theorem fitBundleStart_canonical {s : State} (hs : s.Canonical) {ch n : Nat} : (fitBundleStart ch n s).Canonical := by
  unfold fitBundleStart
  split
  · exact hs
  · extract_lets len start _ s1 _ _ s2
    have hs1 : s1.Canonical := setJob_canonical hs _ _
    have hs2 : s2.Canonical := hs1.fabRest
    exact later_canonical hs2 _ _ _

theorem fitOffer_canonical {s : State} (hs : s.Canonical) {l : List (Nat × Nat)} : (fitOffer l s).Canonical := by
  induction l generalizing s with
  | nil => exact hs
  | cons e t ih => exact ite_canonical _ (fitBundleStart_canonical hs) (ih (fitDefer_canonical hs))

theorem fitVerdict_canonical {s : State} (hs : s.Canonical) {n step : Nat} {g : FitImage} {w : Nat} : (fitVerdict n step g s w).Canonical :=
  ite_canonical _ (post_canonical hs _ _ _) hs

theorem fitStepComplete_canonical {s : State} (hs : s.Canonical) {n : Nat} : (fitStepComplete n s).Canonical := by
  unfold fitStepComplete
  split
  · exact hs
  · extract_lets _ _ s1 _ s2
    have hs1 : s1.Canonical := foldl_canonical _ (fun _ _ ht => fitVerdict_canonical ht) _ hs
    have hs2 : s2.Canonical := setJob_canonical (setReg_canonical hs1 _ _) _ _
    exact ite_canonical _ hs2 hs

theorem fitReachEnd_canonical {s : State} (hs : s.Canonical) {n : Nat} : (fitReachEnd n s).Canonical := ite_canonical _ (settleTo_canonical hs) hs

theorem fitAvail_canonical {s : State} (hs : s.Canonical) {p n : Nat} {v : Word} : (fitAvail p n v s).Canonical :=
  ite_canonical _ (setReg_canonical hs _ _) hs

theorem fitCkptRequest_canonical {s : State} (hs : s.Canonical) {p n : Nat} : (fitCkptRequest p n s).Canonical :=
  ite_canonical _ (setRf_canonical hs _ _ _ _) hs

theorem fitCkptDone_canonical {s : State} (hs : s.Canonical) {n : Nat} : (fitCkptDone n s).Canonical := by
  unfold fitCkptDone
  split
  · exact hs
  · exact ite_canonical _ (post_canonical (setRf_canonical (foldl_canonical _ (fun _ _ ht => bump_canonical ht _ _ _ _) _ (putImage_canonical hs)) _ _ _ _) _
      _ _) hs

theorem readCkptRegs_canonical {s : State} (hs : s.Canonical) {g : FitImage} {m a : Nat} : (readCkptRegs g m a s).1.Canonical := by
  unfold readCkptRegs
  extract_lets s1 s2
  have hs1 : s1.1.Canonical := foldl_fst_canonical _ (fun _ _ ht => setS_canonical ht _ _ _) _ hs
  have hs2 : s2.1.Canonical := foldl_fst_canonical _ (fun _ _ ht => setA_canonical ht _ _ _) _ hs1
  split
  · exact setGen_canonical hs2 _ _
  · exact hs2

theorem readCkptCrucible_canonical {s : State} (hs : s.Canonical) {g : FitImage} {m a : Nat} : (readCkptCrucible g m a s).1.Canonical := by
  unfold readCkptCrucible
  extract_lets descr
  have hd : ∀ {t : State}, t.Canonical → ∀ {b h : Nat}, (descr t b h).Canonical := fun ht => ite_canonical _ (readDescr_canonical ht) ht
  exact foldl_fst_canonical _ (fun _ _ ht => readSlot_canonical (hd (hd ht))) _ hs

theorem readBays_canonical {s : State} (hs : s.Canonical) {rs : List (Nat × Nat × Nat)} {a : Nat} : (readBays rs a s).1.Canonical :=
  foldl_fst_canonical _ (fun _ _ ht => readBay_canonical ht) _ hs

theorem ckptLoad_canonical {s : State} (hs : s.Canonical) {n a : Nat} {g : FitImage} : (ckptLoad n a g s).Canonical := by
  unfold ckptLoad
  extract_lets sp r1 snap r2 r3 r4 t
  have hr1 : r1.1.Canonical := foldl_fst_canonical _ (fun _ _ ht => readCkptRegs_canonical ht) _ hs
  have hr2 : r2.1.Canonical := foldl_fst_canonical _ (fun _ _ ht => readCkptCrucible_canonical ht) _ hr1
  have ht : t.Canonical := readBays_canonical (readBays_canonical hr2)
  exact setJob_canonical (setReg_canonical (setReg_canonical ht _ _) _ _) _ _

theorem fitCkptRestore_canonical {s : State} (hs : s.Canonical) {n : Nat} : (fitCkptRestore n s).Canonical := by
  unfold fitCkptRestore
  split
  · exact hs
  · extract_lets _ _ s1
    have hs1 : s1.Canonical := hbmTake_canonical hs
    exact ite_canonical _ (ite_canonical _ (ckptLoad_canonical hs1) (post_canonical hs1 _ _ _)) hs

theorem fitLatePub_canonical {s : State} (hs : s.Canonical) {n v : Nat} : (fitLatePub n v s).Canonical := by
  unfold fitLatePub
  extract_lets s1 _ _ s2 s3
  have hs1 : s1.Canonical := setRf_canonical hs _ _ _ _
  have hs2 : s2.Canonical := hs1.rest
  have hs3 : s3.Canonical := post_canonical hs2 _ _ _
  exact ite_canonical _ (post_canonical hs3 _ _ _) hs3

theorem fitPubBoundary_canonical {s : State} (hs : s.Canonical) {n : Nat} : (fitPubBoundary s n).Canonical := by
  unfold fitPubBoundary
  extract_lets
  split
  · exact hs
  · exact ite_canonical _ hs (ite_canonical _ (setReg_canonical hs _ _) (fitLatePub_canonical hs))

/-! ### The functions of `Machine/Compose.lean` -/

theorem fetchSector_canonical {s : State} (hs : s.Canonical) {l : Nat} {f : Frame} {n sec : Nat} {skip : Bool} :
    (fetchSector l f n sec skip s).Canonical := by
  unfold fetchSector
  extract_lets _ _ s1
  have hs1 : s1.Canonical := hbmReads_canonical hs _ _ _ _
  exact ite_canonical _ hs.rest hs1.rest

theorem layerFetch_canonical {s : State} (hs : s.Canonical) {v : State} {f : Frame} {n l : Nat} : (layerFetch v f n l s).Canonical :=
  ite_canonical _ hs (foldl_canonical _ (fun _ _ ht => fetchSector_canonical ht) _ hs)

theorem scanReads_canonical {s : State} (hs : s.Canonical) {g : Seg} : (scanReads s g).Canonical :=
  ite_canonical _ hs (foldl_canonical _ (fun _ _ ht => loftReadCw_canonical ht _ _ _) _ hs)

theorem poisonCheck_canonical {s : State} (hs : s.Canonical) {n l : Nat} : (poisonCheck n s l).Canonical := ite_canonical _ (underrun_canonical hs _ _ _ _) hs

theorem foldSignatures_canonical {s : State} (hs : s.Canonical) {n : Nat} {px codes : List (Nat × Nat × Nat)} : (foldSignatures n px codes s).Canonical :=
  hs.rest

theorem transmit_canonical {s : State} (hs : s.Canonical) {n : Nat} {codes : List (Nat × Nat × Nat)} : (transmit n codes s).Canonical :=
  ite_canonical _ hs.rest hs.rest

theorem scanoutLineRead_canonical {s : State} (hs : s.Canonical) : (scanoutLineRead s).Canonical := by
  unfold scanoutLineRead
  extract_lets _ s1 s2 _ _ s3
  have hs1 : s1.Canonical := foldl_canonical _ (fun _ _ ht => scanReads_canonical ht) _ hs
  have hs2 : s2.Canonical := foldl_canonical _ (fun _ _ hu => poisonCheck_canonical hu) _ hs1
  have hs3 : s3.Canonical := ite_canonical _ (foldSignatures_canonical hs2) hs2
  exact ite_canonical _ (ite_canonical _ (transmit_canonical hs) hs) (ite_canonical _ hs (transmit_canonical hs3))

theorem publishRegion_canonical {s : State} (hs : s.Canonical) {comp : Bool} {n : Nat} : (publishRegion comp s n).Canonical := by
  unfold publishRegion
  extract_lets _ _ _ _ _ _ _ _ _ s1 s2
  have hs1 : s1.Canonical := ite_canonical _ (setReg_canonical (setReg_canonical hs _ _) _ _) hs
  have hs2 : s2.Canonical := setReg_canonical hs1 _ _
  exact ite_canonical _ (post_canonical hs2 _ _ _) hs2

theorem freezeCount_canonical {s : State} (hs : s.Canonical) {same : Bool} {sig : BitVec 64} : (freezeCount same sig s).Canonical := by
  unfold freezeCount
  extract_lets s1
  have hs1 : s1.Canonical := bump_canonical hs _ _ _ _
  exact ite_canonical _ (ite_canonical _ (post_canonical hs1.rest _ _ _) hs1) ((setRf_canonical hs _ _ _ _).rest)

theorem freezeCheck_canonical {s : State} (hs : s.Canonical) {comp : Bool} : (freezeCheck comp s).Canonical := by
  unfold freezeCheck
  extract_lets _ s0 _ _ s1
  have hs0 : s0.Canonical := ite_canonical _ (setReg_canonical (setReg_canonical hs _ _) _ _) hs
  have hs1 : s1.Canonical := ite_canonical _ hs0.rest hs0
  exact ite_canonical _ hs1 (freezeCount_canonical hs1)

theorem publishRects_canonical {s : State} (hs : s.Canonical) : (publishRects s).Canonical :=
  foldl_canonical _ (fun _ _ ht => ite_canonical _ (setReg_canonical ht _ _) ht) _ hs

theorem signaturePublish_canonical {s : State} (hs : s.Canonical) : (signaturePublish s).Canonical := by
  unfold signaturePublish
  extract_lets _ s1 s2 s3
  have hs1 : s1.Canonical := foldl_canonical _ (fun _ _ ht => publishRegion_canonical ht) _ hs
  have hs2 : s2.Canonical := freezeCheck_canonical hs1
  have hs3 : s3.Canonical := ite_canonical _ (publishRects_canonical hs2) hs2
  exact hs3.rest

/-! ### The functions of `Machine/LockStep.lean` -/

theorem diverged_canonical {s : State} (hs : s.Canonical) {a : LineSet} {bad : List Nat} : (diverged a bad s).Canonical := by
  unfold diverged
  extract_lets _ _ _ s1 s2 _ s3
  have hs1 : s1.Canonical := setReg_canonical (setLoHi_canonical hs _ _ _ _) _ _
  have hs2 : s2.Canonical := setReg_canonical (setReg_canonical hs1 _ _) _ _
  have hs3 : s3.Canonical := setFleet_canonical (setRf_canonical hs2 _ _ _ _)
  exact post_canonical hs3 _ _ _

theorem compareSets_canonical {s : State} (hs : s.Canonical) {n : Nat} : (compareSets n s).Canonical := by
  induction n generalizing s with
  | zero => exact hs
  | succ n ih =>
    unfold compareSets
    split
    · exact ite_canonical _ (lockLost_canonical hs) (ite_canonical _ (ih (setFleet_canonical hs)) (diverged_canonical hs))
    · exact hs

theorem compareNow_canonical {s : State} (hs : s.Canonical) : (compareNow s).Canonical := compareSets_canonical hs

theorem lockSigSend_canonical {s0 : State} (hs0 : s0.Canonical) : (lockSigSend s0).Canonical := by
  unfold lockSigSend
  extract_lets s _ _ _ s1
  have hs : s.Canonical := settleTo_canonical hs0
  have hs1 : s1.Canonical := setFleet_canonical hs
  split
  · exact ite_canonical _ (compareNow_canonical (sendSeq_canonical hs1)) hs
  · exact hs

theorem onLockSet_canonical {s : State} (hs : s.Canonical) {f : LinkFrame} : (onLockSet f s).Canonical :=
  ite_canonical _ (compareNow_canonical (setFleet_canonical hs)) hs

theorem lockDeadline_canonical {s : State} (hs : s.Canonical) : (lockDeadline s).Canonical := ite_canonical _ (lockLost_canonical hs) hs

theorem lockReefSend_canonical {s : State} (hs : s.Canonical) : (lockReefSend s).Canonical := by
  unfold lockReefSend
  split
  · exact ite_canonical _ (sendSeq_canonical (quiet_canonical hs)) hs
  · exact hs

theorem onLockReef_canonical {s : State} (hs : s.Canonical) {p ru : Nat} {f : LinkFrame} : (onLockReef p ru f s).Canonical := by
  unfold onLockReef
  extract_lets _ _ s1
  have hs1 : s1.Canonical := setFleet_canonical hs
  exact ite_canonical _ (ite_canonical _ (ite_canonical _ (setNext_canonical hs1) hs1) (lockLost_canonical hs)) hs

/-! ### The functions of `Machine/Channel.lean` -/

theorem cmdDone_canonical {s : State} (hs : s.Canonical) {p result : Nat} : (cmdDone p result s).Canonical := setPreg_canonical hs _ _ _

theorem createCmd_canonical {s : State} (hs : s.Canonical) {p : Nat} : (createCmd p s).Canonical := by
  unfold createCmd
  extract_lets back job
  clear_value job
  refine ite_canonical _ (cmdDone_canonical hs) ?_
  split
  · exact cmdDone_canonical hs
  · refine ite_canonical _ (cmdDone_canonical hs) ?_
    extract_lets s1 s2 h s3
    have hs1 : s1.Canonical := setSlot_canonical hs _ _
    have hs2 : s2.Canonical := by
      unfold s2
      split
      · exact setReg_canonical (setReg_canonical (setReg_canonical (setReg_canonical (setJob_canonical hs1 _ _) _ _) _ _) _ _) _ _
      · exact hs1
    exact post_canonical (setPreg_canonical (cmdDone_canonical hs2) _ _ _) _ _ _

theorem dropQueued_canonical {s : State} (hs : s.Canonical) {n : Nat} : (dropQueued n s).Canonical := hs.rest

theorem destroyCmd_canonical {s : State} (hs : s.Canonical) {p c : Nat} : (destroyCmd p c s).Canonical := by
  unfold destroyCmd
  extract_lets _ _ _ s1
  have hs1 : s1.Canonical := dropQueued_canonical hs
  exact ite_canonical _ (cmdDone_canonical hs) (cmdDone_canonical (setSlot_canonical hs1 _ _))

theorem withdrawCmd_canonical {s : State} (hs : s.Canonical) {p c : Nat} : (withdrawCmd p c s).Canonical := by
  unfold withdrawCmd
  extract_lets _ _ _ _ _ s1
  have hs1 : s1.Canonical := dropQueued_canonical hs
  exact ite_canonical _ (cmdDone_canonical hs) (ite_canonical _ (cmdDone_canonical hs) (ite_canonical _ (cmdDone_canonical hs)
    (ite_canonical _ (cmdDone_canonical hs1) (cmdDone_canonical (setSlot_canonical hs1 _ _)))))

theorem admitCmd_canonical {s : State} (hs : s.Canonical) {p : Nat} : (admitCmd p s).Canonical := by
  unfold admitCmd
  extract_lets _ _ _ _ s1
  have hs1 : s1.Canonical := hs.rest
  exact ite_canonical _ (cmdDone_canonical hs) (ite_canonical _ (cmdDone_canonical hs) (ite_canonical _ (cmdDone_canonical hs)
    (ite_canonical _ (cmdDone_canonical hs) (cmdDone_canonical (setSlot_canonical hs1 _ _)))))

theorem unquarCmd_canonical {s : State} (hs : s.Canonical) {p : Nat} : (unquarCmd p s).Canonical :=
  ite_canonical _ (cmdDone_canonical hs) (ite_canonical _ (cmdDone_canonical hs) (ite_canonical _ (cmdDone_canonical hs)
    (cmdDone_canonical (setSlot_canonical hs _ _))))

theorem restartCmd_canonical {s : State} (hs : s.Canonical) {p : Nat} : (restartCmd p s).Canonical :=
  ite_canonical _ (cmdDone_canonical hs) (ite_canonical _ (cmdDone_canonical hs) (cmdDone_canonical (setSlot_canonical hs _ _)))

theorem cmdGo_canonical {s : State} (hs : s.Canonical) {p op c : Nat} : (cmdGo p op c s).Canonical := by
  unfold cmdGo
  split
  · exact createCmd_canonical hs
  · exact destroyCmd_canonical hs
  · exact admitCmd_canonical hs
  · exact withdrawCmd_canonical hs
  · exact unquarCmd_canonical hs
  · exact restartCmd_canonical hs
  · exact cmdDone_canonical hs

theorem fenceInc_canonical {s : State} (hs : s.Canonical) {p k : Nat} : (fenceInc p k s).Canonical := setPreg_canonical hs _ _ _

theorem tailWrite_canonical {s : State} (hs : s.Canonical) {p n : Nat} {v : Word} : (tailWrite p n v s).Canonical :=
  ite_canonical _ (setSlot_canonical hs _ _) hs

theorem tellBoot_canonical {s : State} (hs : s.Canonical) {p : Nat} : (tellBoot p s).Canonical := by
  unfold tellBoot
  extract_lets _ r
  have hr : r.1.Canonical := eqDeliver_canonical hs
  exact ite_canonical _ hr.rest hs

theorem eqCtlWrite_canonical {s : State} (hs : s.Canonical) {p : Nat} {v : Word} : (eqCtlWrite p v s).Canonical :=
  ite_canonical _ hs (tellBoot_canonical (eqFlush_canonical (setPreg_canonical hs _ _ _)))

theorem eqHeadWrite_canonical {s : State} (hs : s.Canonical) {p : Nat} {v : Word} : (eqHeadWrite p v s).Canonical :=
  eqFlush_canonical (setPreg_canonical hs _ _ _)

theorem eqInterrupt_canonical {s : State} (hs : s.Canonical) {p : Nat} : (eqInterrupt p s).Canonical := ite_canonical _ (signal_canonical hs.rest) hs

theorem mergedEvent_canonical {s : State} (hs : s.Canonical) {k n : Nat} {post : Option (Fin 4 × BitVec 16 × List Byte)} :
    (mergedEvent k n post s).Canonical := by
  unfold mergedEvent
  extract_lets s1
  have hs1 : s1.Canonical := bump_canonical hs _ _ _ _
  split
  · exact hs1
  · exact ite_canonical _ (post_canonical hs1.rest _ _ _) hs1

/-! ### The functions of `Machine/Display.lean` -/

theorem flip_canonical {s : State} (hs : s.Canonical) : (flip s).Canonical := by
  unfold flip
  extract_lets _ _ _ s1 s2
  have hs1 : s1.Canonical := setReg_canonical (setReg_canonical hs _ _) _ _
  have hs2 : s2.Canonical := setReg_canonical (setReg_canonical (setReg_canonical hs1 _ _) _ _) _ _
  exact ite_canonical _ (post_canonical hs2 _ _ _) hs2

theorem snapWatch_canonical {s : State} (hs : s.Canonical) {n : Nat} : (snapWatch s n).Canonical :=
  setReg_canonical (setReg_canonical (setReg_canonical (setLoHi_canonical hs _ _ _ _) _ _) _ _) _ _

theorem watchVerdict_canonical {s : State} (hs : s.Canonical) {n : Nat} : (watchVerdict s n).Canonical := ite_canonical _ (post_canonical hs _ _ _) hs

theorem watchSnapshot_canonical {s : State} (hs : s.Canonical) : (watchSnapshot s).Canonical := by
  unfold watchSnapshot
  extract_lets s1 s2
  have hs2 : s2.Canonical := foldl_canonical _ (fun _ _ ht => watchVerdict_canonical ht) _ (foldl_canonical _ (fun _ _ ht => snapWatch_canonical ht) _ hs)
  exact hs2.fabRest

theorem sinkLost_canonical {s : State} (hs : s.Canonical) : (sinkLost s).Canonical := ite_canonical _ hs (post_canonical hs.rest _ _ _)

theorem sinkHotPlug_canonical {s : State} (hs : s.Canonical) : (sinkHotPlug s).Canonical := ite_canonical _ hs.rest hs

theorem outputTrainingRetry_canonical {s : State} (hs : s.Canonical) : (outputTrainingRetry s).Canonical := ite_canonical _ hs.rest hs

theorem outputTrainingDone_canonical {s : State} (hs : s.Canonical) {k : Sink} {rev : Bool} {pol : BitVec 4} :
    (outputTrainingDone k rev pol s).Canonical := by
  unfold outputTrainingDone
  extract_lets _ _ _ _ s1 s2 s3
  have hs1 : s1.Canonical := hs.rest
  have hs2 : s2.Canonical := ite_canonical _ (setRf_canonical (setRf_canonical hs1 _ _ _ _) _ _ _ _) hs1
  have hs3 : s3.Canonical := setRf_canonical (setRf_canonical hs2 _ _ _ _) _ _ _ _
  exact ite_canonical _ (ite_canonical _ (post_canonical hs3 _ _ _) hs3) hs

theorem inputRefresh_canonical {s : State} (hs : s.Canonical) {old : Word} : (inputRefresh old s).Canonical := by
  unfold inputRefresh
  extract_lets s1 _ _ s2
  have hs1 : s1.Canonical := setRf_canonical hs _ _ _ _
  have hs2 : s2.Canonical := ite_canonical _ hs1.rest hs1
  exact ite_canonical _ (post_canonical hs2 _ _ _) hs2

theorem inputState_canonical {s : State} (hs : s.Canonical) {x' : InSignal} : (inputState x' s).Canonical := by
  unfold inputState
  extract_lets _ _ _ s1 t s2
  have hs1 : s1.Canonical := setReg_canonical (setReg_canonical hs _ _) _ _
  have ht : t.Canonical := setRf_canonical (setRf_canonical hs1 _ _ _ _) _ _ _ _
  have hs2 : s2.Canonical := ite_canonical _ (ite_canonical _ (post_canonical ht _ _ _) ht) hs1
  exact inputRefresh_canonical hs2

theorem ingressStart_canonical {s : State} (hs : s.Canonical) {n : Nat} : (ingressStart n s).Canonical := by
  unfold ingressStart
  extract_lets s1 _ s2
  have hs1 : s1.Canonical := bump_canonical (setRf_canonical hs _ _ _ _) _ _ _ _
  have hs2 : s2.Canonical := hs1.rest
  exact ite_canonical _ (post_canonical hs2 _ _ _) hs

theorem ingressDone_canonical {s : State} (hs : s.Canonical) {n : Nat} : (ingressDone n s).Canonical := by
  unfold ingressDone
  extract_lets s1
  have hs1 : s1.Canonical := setRf_canonical hs _ _ _ _
  exact hs1.rest

theorem takeSplits_canonical {s : State} (hs : s.Canonical) : (takeSplits s).Canonical := inputRefresh_canonical hs.rest

theorem inputFrameStart_canonical {s0 : State} (hs0 : s0.Canonical) : (inputFrameStart s0).Canonical := by
  unfold inputFrameStart
  extract_lets s _ s1
  have hs : s.Canonical := ite_canonical _ (takeSplits_canonical hs0) hs0
  have hs1 : s1.Canonical := ingressStart_canonical hs
  exact ite_canonical _ hs1.rest hs

theorem inputBay_canonical {s : State} (hs : s.Canonical) {base : Nat} {w : Word} {b : Nat} {px : List (List (BitVec 16))} {spar : Nat} :
    (inputBay base w b px s spar).Canonical := by
  unfold inputBay
  extract_lets _ _ _ _ _ _ s1
  have hs1 : s1.Canonical := setLoft_canonical (loftMerge_canonical hs _ _) (Mem.write_wf hs.loft _)
  exact ite_canonical _ hs (ite_canonical _ (post_canonical hs1.rest _ _ _) hs1)

theorem inputFrameStored_canonical {s : State} (hs : s.Canonical) {px : List (List (BitVec 16))} : (inputFrameStored px s).Canonical := by
  unfold inputFrameStored
  extract_lets _ _ _ _ _ _ _ _ s1
  have hs1 : s1.Canonical := ite_canonical _ (withHbm_canonical (hbmMerge_canonical hs _ _) (Mem.write_wf hs.hbm _))
    (foldl_canonical _ (fun _ _ ht => inputBay_canonical ht) _ hs)
  exact ite_canonical _ hs (ingressDone_canonical hs1.rest)

theorem auxRequest_canonical {s : State} (hs : s.Canonical) {r : AuxReq} : (auxRequest r s).Canonical := by
  unfold auxRequest
  split
  · exact hs.rest
  · extract_lets
    exact hs.rest
  · split
    · exact hs.rest
    · exact ite_canonical _ hs.rest (ite_canonical _ hs.rest hs.rest)
  · exact ite_canonical _ hs.rest hs.rest

theorem dpcdAccess_canonical {s : State} (hs : s.Canonical) {r : AuxReq} : (dpcdAccess r s).Canonical := ite_canonical _ (auxRequest_canonical hs) hs

theorem edidUpd_canonical {s : State} (hs : s.Canonical) {p : Nat} : (edidUpd p s).Canonical := ite_canonical _ hs.rest hs

theorem inHpdRelease_canonical {s : State} (hs : s.Canonical) : (inHpdRelease s).Canonical := ite_canonical _ hs.rest hs

/-! ### The functions of `Machine/Copy.lean` -/

theorem partViolation_canonical {s : State} (hs : s.Canonical) {p ofs : Nat} : (partViolation p ofs s).Canonical := by
  unfold partViolation
  extract_lets s1
  have hs1 : s1.Canonical := hostErr_canonical hs _ _
  exact ite_canonical _ hs1 (post_canonical hs1.rest _ _ _)

theorem bar2Read_canonical {s : State} (hs : s.Canonical) {p o n : Nat} : (bar2Read p o n s).Canonical :=
  ite_canonical _ (answer_canonical (hbmTake_canonical hs)) (ite_canonical _ (answer_canonical hs)
    (ite_canonical _ (bar2Take_canonical hs) (answer_canonical (partViolation_canonical hs))))

theorem bar2Write_canonical {s : State} (hs : s.Canonical) {p o : Nat} {ws : List (Option Byte)} {psn : Bool} : (bar2Write p o ws psn s).Canonical := by
  unfold bar2Write
  extract_lets _ _ s0
  have hs0 : s0.Canonical := ite_canonical _ (hostErr_canonical hs _ _) hs
  exact ite_canonical _ (withHbm_canonical hs0 (Mem.write_wf hs.hbm _)) (ite_canonical _ hs0
    (ite_canonical _ (bar2Take_canonical hs0) (partViolation_canonical hs0)))

theorem copyError_canonical {s : State} (hs : s.Canonical) {n cause : Nat} : (copyError n cause s).Canonical :=
  post_canonical (setSlot_canonical hs _ _) _ _ _

theorem descriptorStart_canonical {s : State} (hs : s.Canonical) {n : Nat} {ok : Bool} : (descriptorStart n ok s).Canonical :=
  ite_canonical _ hs (ite_canonical _ (copyError_canonical hs) (ite_canonical _ (copyError_canonical hs) (ite_canonical _ (setSlot_canonical hs _ _) hs)))

theorem producerWrites_canonical {s : State} (hs : s.Canonical) {x : Slot} {d : List Byte} {a len : Nat} : (producerWrites x d a len s).Canonical := by
  unfold producerWrites
  split
  · extract_lets
    exact ite_canonical _ (ingressStart_canonical hs) hs
  · exact hs

theorem hostLoftReads_canonical {s : State} (hs : s.Canonical) {spar a n : Nat} : (hostLoftReads s spar a n).Canonical :=
  ite_canonical _ hs (foldl_canonical _ (fun _ _ ht => loftReadCw_canonical ht _ _ _) _ hs)

theorem moveOut_canonical {s : State} (hs : s.Canonical) {x : Slot} {d : List Byte} {k n : Nat} : (moveOut x d k n s).Canonical :=
  ite_canonical _ (foldl_canonical _ (fun _ _ ht => ite_canonical _ (hostWriteP_canonical (hostLoftReads_canonical ht))
    (hostErr_canonical (hostLoftReads_canonical ht) _ _)) _ hs) (ite_canonical _ (hostWriteP_canonical (hbmReads_canonical hs _ _ _ _))
      (hostErr_canonical (hbmReads_canonical hs _ _ _ _) _ _))

theorem moveIn_canonical {s : State} (hs : s.Canonical) {x : Slot} {d : List Byte} {k n : Nat} {psn : Bool} : (moveIn x d k n psn s).Canonical := by
  unfold moveIn
  extract_lets _ _ s1
  have hs1 : s1.Canonical := producerWrites_canonical (ite_canonical _ (hostErr_canonical hs _ _) hs)
  exact ite_canonical _ (foldl_canonical _ (fun _ _ hu => setLoft_canonical hu (Mem.write_wf hu.loft _)) _ hs1) (hbmWrite_canonical hs1 _ _)

theorem descriptorDone_canonical {s : State} (hs : s.Canonical) {n : Nat} {d : List Byte} : (descriptorDone n d s).Canonical := by
  unfold descriptorDone
  extract_lets _ _ s1 s2 s3
  have hs1 : s1.Canonical := setSlot_canonical hs _ _
  have hs2 : s2.Canonical := by
    unfold s2
    refine ite_canonical _ ?_ hs1
    split
    · exact ingressDone_canonical hs1
    · exact hs1
  have hs3 : s3.Canonical := ite_canonical _ (fenceInc_canonical hs2) hs2
  exact ite_canonical _ (post_canonical hs3 _ _ _) hs3

theorem copyBatch_canonical {s : State} (hs : s.Canonical) {n : Nat} {c : CopyRun} {reply : HostReply} : (copyBatch n c reply s).Canonical := by
  unfold copyBatch
  extract_lets _ _ _ _ s1 s2
  have hs1 : s1.Canonical := hs.rest
  have hs2 : s2.Canonical := ite_canonical _ (moveOut_canonical hs1) (moveIn_canonical hs1)
  exact ite_canonical _ (copyError_canonical hs1) (ite_canonical _ (descriptorDone_canonical hs2) (setSlot_canonical hs2 _ _))

theorem deferCopy_canonical {s : State} (hs : s.Canonical) : (deferCopy s).Canonical := ite_canonical _ hs.rest hs

theorem copyServe_canonical {s : State} (hs : s.Canonical) {reply : HostReply} : (copyServe reply s).Canonical := by
  unfold copyServe
  refine ite_canonical _ hs ?_
  split
  · split
    · exact copyBatch_canonical hs
    · exact hs
  · exact deferCopy_canonical hs

theorem reachOffer_canonical {s : State} (hs : s.Canonical) : (reachOffer s).Canonical := ite_canonical _ (settleTo_canonical hs) hs

theorem planCopy_canonical {s : State} (hs : s.Canonical) {n : Nat} : (planCopy n s).Canonical :=
  ite_canonical _ hs (post_canonical (setSlot_canonical hs _ _) _ _ _)

theorem zeroSpar_canonical {s : State} (hs : s.Canonical) {z : Zeroing} {n : Nat} : (zeroSpar z s n).Canonical := by
  have hl : ∀ (l : List LoftRange) (m : Mem), m.wf = true → (l.foldl (fun m r => m.clearRange (bayKey n r.off) r.len) m).wf = true := by
    intro l
    induction l with
    | nil => exact fun _ hm => hm
    | cons r l ih => exact fun m hm => ih _ (Mem.clearRange_wf hm _ _)
  have hg : smWf 0 (if z.gen then smPut 0 s.fab.gen n 0 else s.fab.gen) = true := by
    split
    · exact smPut_wf _ _ _ hs.gen
    · exact hs.gen
  unfold zeroSpar
  extract_lets _ cells f
  exact ⟨hs.hbm, hl _ _ hs.loft, hs.host, hs.hostBad, hs.regs, hs.pregs, smDrop_wf 0 (fun k => decide (k / 32 = n) && bitOf z.sUse
    (k % 32)) hs.sreg, hs.breg, smDrop_wf 0 (fun k => decide (k / 8 = n) && bitOf z.aUse (k % 8)) hs.areg, hg, hs.slots, hs.jobs, hs.cfg⟩

theorem resourceZeroing_canonical {s : State} (hs : s.Canonical) : (resourceZeroing s).Canonical := by
  unfold resourceZeroing
  split
  · exact ite_canonical _ (foldl_canonical _ (fun _ _ ht => zeroSpar_canonical ht) _ hs.rest) hs
  · exact hs

/-! ### The functions of `Machine/Analyze.lean` -/

/-! ### The functions of `Machine/Admission.lean` -/

theorem admitDone_canonical {s : State} (hs : s.Canonical) {q : AdmReq} {r : Refused} : (admitDone q r s).Canonical := post_canonical hs _ _ _

theorem admitRefuse_canonical {s : State} (hs : s.Canonical) {q : AdmReq} {r : Refused} : (admitRefuse q r s).Canonical :=
  admitDone_canonical (setSlot_canonical hs _ _)

theorem admitTake_canonical {s : State} (hs : s.Canonical) {q : AdmReq} {gs : List Passage} {fit : Option FitImage} : (admitTake q gs fit s).Canonical := by
  unfold admitTake
  extract_lets x s1 s2 _ s3 s4
  have hs1 : s1.Canonical := setSlot_canonical hs _ _
  have hs2 : s2.Canonical := by
    unfold s2
    split
    · exact setReg_canonical (setReg_canonical (setReg_canonical (setJob_canonical hs1 _ _) _ _) _ _) _ _
    · exact hs1
  have hs3 : s3.Canonical := ite_canonical _ hs2 (setSync_canonical hs2)
  have hs4 : s4.Canonical := admitDone_canonical hs3
  exact ite_canonical _ (post_canonical hs4 _ _ _) hs4

theorem takeIf_canonical {s : State} (hs : s.Canonical) {p a n : Nat} : (takeIf p a n s).Canonical := ite_canonical _ (hbmTake_canonical hs) hs

theorem takeDir_canonical {s : State} (hs : s.Canonical) {p a d k n : Nat} : (takeDir p a d k n s).Canonical :=
  foldl_canonical _ (fun _ _ ht => takeIf_canonical ht) _ (takeIf_canonical hs)

theorem takePassage_canonical {s : State} (hs : s.Canonical) {p a r : Nat} : (takePassage p a r s).Canonical := by
  unfold takePassage
  extract_lets t
  have ht : t.Canonical := takeIf_canonical hs
  exact ite_canonical _ ht (takeDir_canonical ht)

theorem takePlan_canonical {s : State} (hs : s.Canonical) {p a : Nat} : (takePlan p a s).Canonical := by
  unfold takePlan
  extract_lets t
  have ht : t.Canonical := takeIf_canonical hs
  exact ite_canonical _ ht (foldl_canonical _ (fun _ _ hu => takePassage_canonical hu) _ ht)

theorem takeFit_canonical {s : State} (hs : s.Canonical) {p a : Nat} : (takeFit p a s).Canonical := by
  unfold takeFit
  extract_lets t
  have ht : t.Canonical := takeIf_canonical hs
  exact ite_canonical _ ht (foldl_canonical _ (fun _ _ hu => ite_canonical _ (takeIf_canonical hu) (takeDir_canonical (takeIf_canonical hu))) _ ht)

theorem admission_canonical {s : State} (hs : s.Canonical) : (admission s).Canonical := by
  unfold admission
  split
  · exact hs
  · extract_lets s1
    have hs1 : s1.Canonical := hs.rest
    refine ite_canonical _ (admitRefuse_canonical hs1) ?_
    split
    · split
      · exact admitRefuse_canonical (takeFit_canonical hs1)
      · exact ite_canonical _ hs (admitTake_canonical (takeFit_canonical hs1))
    · split
      · exact admitRefuse_canonical (takePlan_canonical hs1)
      · exact ite_canonical _ hs (admitTake_canonical (takePlan_canonical hs1))

/-! ### The functions of `Machine/Mode.lean` -/

theorem takeAll_canonical {s : State} (hs : s.Canonical) {cs : List Commit} : (takeAll cs s).Canonical :=
  foldl_canonical _ (fun _ _ ht => setReg_canonical ht _ _) _ hs

theorem setTiming_canonical {s : State} (hs : s.Canonical) {t : Timing} : (setTiming t s).Canonical := hs.rest

theorem virtualCommit_canonical {s : State} (hs : s.Canonical) {cs : List Commit} : (virtualCommit cs s).Canonical :=
  ite_canonical _ hs (ite_canonical _ (takeAll_canonical hs) (post_canonical hs _ _ _))

theorem retrain_canonical {s : State} (hs : s.Canonical) : (retrain s).Canonical := by
  unfold retrain
  extract_lets _ _ s1
  have hs1 : s1.Canonical := hs.rest
  exact post_canonical (evt_canonical hs1 _) _ _ _

theorem modeCommit_canonical {s : State} (hs : s.Canonical) {cs : List Commit} : (modeCommit cs s).2.Canonical := by
  unfold modeCommit
  extract_lets _ _ t _ _ _ _ _ d _ d' u
  have ht : t.Canonical := ite_canonical _ hs (ite_canonical _ (takeAll_canonical hs) (post_canonical hs _ _ _))
  have hd : d.Canonical := setTiming_canonical ht
  have hd' : d'.Canonical := setTiming_canonical ht.rest
  have hu : u.Canonical := ite_canonical _ (setTiming_canonical ht) (ite_canonical _ ht
    (ite_canonical _ (ite_canonical _ hd (retrain_canonical hd)) (ite_canonical _ hd' (retrain_canonical hd'))))
  exact hu

theorem trainProgress_canonical {s : State} (hs : s.Canonical) : (trainProgress s).Canonical := by
  unfold trainProgress
  extract_lets f freed _ s1
  have hfreed : ∀ {t : State}, t.Canonical → (freed t).Canonical := fun ht => ht.rest
  have hs1 : s1.Canonical := hfreed hs.rest
  split
  next t _ =>
    extract_lets s2
    have hs2 : s2.Canonical := hs.rest
    exact ite_canonical _ hs (ite_canonical _ (post_canonical hs1 _ _ _) (ite_canonical _ (post_canonical hs2 _ _ _)
      (ite_canonical _ (evt_canonical hs _) hs)))
  · exact ite_canonical _ (hfreed hs) hs

theorem srEnter_canonical {s : State} (hs : s.Canonical) : (srEnter s).Canonical := by
  unfold srEnter
  extract_lets _ _ _ s1
  have hs1 : s1.Canonical := (setRf_canonical hs _ _ _ _).rest
  exact post_canonical hs1 _ _ _

theorem srExit_canonical {s : State} (hs : s.Canonical) : (srExit s).Canonical := by
  unfold srExit
  extract_lets _ _ s1
  have hs1 : s1.Canonical := (setRf_canonical hs _ _ _ _).rest
  exact post_canonical hs1 _ _ _

theorem srRefused_canonical {s : State} (hs : s.Canonical) : (srRefused s).Canonical := post_canonical hs.rest _ _ _

theorem srTry_canonical {s : State} (hs : s.Canonical) {sent : Bool} : (srTry sent s).Canonical :=
  ite_canonical _ (srRefused_canonical hs) (ite_canonical _ (srEnter_canonical hs) hs.rest)

theorem srCommit_canonical {s : State} (hs : s.Canonical) {sent : Bool} {cs : List Commit} : (srCommit sent cs s).2.Canonical := by
  unfold srCommit
  extract_lets _ _ _ _ t
  have ht : t.Canonical := takeAll_canonical hs
  exact ite_snd_canonical _ (ite_canonical _ (srTry_canonical hs) hs) (ite_snd_canonical _ (ite_snd_canonical _ (srTry_canonical ht) (srRefused_canonical hs))
    (ite_snd_canonical _ (srExit_canonical ht) ht.rest))

theorem dirtyCommit_canonical {s : State} (hs : s.Canonical) {exits : Bool} {cs : List Commit} : (dirtyCommit exits cs s).Canonical := by
  unfold dirtyCommit
  extract_lets _ _ t _ _ u
  have ht : t.Canonical := takeAll_canonical hs
  have hu : u.Canonical := ht.rest
  exact ite_canonical _ hs.rest (ite_canonical _ (foldl_canonical _ (fun _ _ h3 => post_canonical h3 _ _ _) _ hu) hu)

/-! ### The functions of `Machine/Commit.lean` -/

theorem ownerCommit_canonical {s : State} (hs : s.Canonical) {cs : List Commit} : (ownerCommit cs s).Canonical := by
  unfold ownerCommit
  extract_lets _ _ _ t
  have ht : t.Canonical := setRf_canonical hs _ _ _ _
  exact ite_canonical _ hs (post_canonical ht _ _ _)

theorem partRefused_canonical {s : State} (hs : s.Canonical) {p a : Nat} : (partRefused p a s).Canonical := post_canonical (hostErr_canonical hs _ _) _ _ _

theorem partsCommit_canonical {s : State} (hs : s.Canonical) {cs : List Commit} : (partsCommit cs s).Canonical :=
  ite_canonical _ hs (ite_canonical _ (takeAll_canonical hs) (partRefused_canonical hs))

theorem rangeCommit_canonical {s : State} (hs : s.Canonical) {mine : List Commit} {inHbm : Bool} {base len a : Nat} :
    (rangeCommit mine inHbm base len a s).Canonical :=
  ite_canonical _ (partRefused_canonical hs) (takeAll_canonical hs)

theorem pairCommit_canonical {s : State} (hs : s.Canonical) {cs : List Commit} {n : Nat} : (pairCommit cs s n).Canonical :=
  ite_canonical _ hs (rangeCommit_canonical hs)

theorem fitCommit_canonical {s : State} (hs : s.Canonical) {cs : List Commit} {n : Nat} : (fitCommit cs s n).Canonical :=
  ite_canonical _ hs (rangeCommit_canonical hs)

theorem rrecCommit_canonical {s : State} (hs : s.Canonical) {cs : List Commit} : (rrecCommit cs s).Canonical := by
  unfold rrecCommit
  extract_lets _ _ _ t u
  have ht : t.Canonical := ite_canonical _ hs (rangeCommit_canonical hs)
  have hu : u.Canonical := takeAll_canonical ht
  exact ite_canonical _ hs (ite_canonical _ (setReg_canonical hu _ _) hu)

theorem rplyCommit_canonical {s : State} (hs : s.Canonical) {cs : List Commit} : (rplyCommit cs s).Canonical := by
  unfold rplyCommit
  extract_lets _ _ _ t u
  have ht : t.Canonical := ite_canonical _ hs (rangeCommit_canonical hs)
  have hu : u.Canonical := takeAll_canonical ht
  exact ite_canonical _ hs (ite_canonical _ ((setReg_canonical hu _ _).rest) hu)

theorem syncCommit_canonical {s : State} (hs : s.Canonical) {cs : List Commit} : (syncCommit cs s).Canonical := by
  unfold syncCommit
  extract_lets _ t
  have ht : t.Canonical := takeAll_canonical hs
  exact ite_canonical _ hs (ite_canonical _ ht (takeSource_canonical ht))

theorem inputCommit_canonical {s : State} (hs : s.Canonical) {cs : List Commit} : (inputCommit cs s).Canonical := by
  unfold inputCommit
  extract_lets _ t
  have ht : t.Canonical := takeAll_canonical hs
  exact ite_canonical _ hs ht.rest

theorem parentMoved_canonical {s : State} (hs : s.Canonical) : (parentMoved s).Canonical := by
  unfold parentMoved
  extract_lets _ t
  have ht : t.Canonical := hs.rest
  exact ite_canonical _ (servoLoss_canonical ht) ht

theorem fleetCommit_canonical {s : State} (hs : s.Canonical) {cs : List Commit} : (fleetCommit cs s).Canonical := by
  unfold fleetCommit
  extract_lets mine g refuse t u
  have ht : t.Canonical := takeAll_canonical hs
  have hu : u.Canonical := foldl_canonical _ (fun _ _ hv => portDown_canonical hv) _ (quiet_canonical ht)
  exact ite_canonical _ hs (ite_canonical _ (post_canonical hs _ _ _) (ite_canonical _ (post_canonical hs _ _ _)
    (ite_canonical _ ht (ite_canonical _ hu (parentMoved_canonical hu)))))

theorem redField_canonical {s : State} (hs : s.Canonical) {named : List Nat} {k : Nat} {w : Word} {i : Nat} : (redField named k w s i).Canonical :=
  ite_canonical _ (post_canonical hs _ _ _) (setRf_canonical hs _ _ _ _)

theorem redCommit_canonical {s : State} (hs : s.Canonical) {cs : List Commit} {k : Nat} : (redCommit cs s k).Canonical :=
  ite_canonical _ hs (foldl_canonical _ (fun _ _ ht => redField_canonical ht) _ hs)

theorem parentKept_canonical {t : State} (ht : t.Canonical) {s : State} : (parentKept s t).Canonical := ite_canonical _ (servoLoss_canonical ht) ht

theorem lockCommit_canonical {s : State} (hs : s.Canonical) {cs : List Commit} : (lockCommit cs s).Canonical := by
  unfold lockCommit
  extract_lets _ t _ _ _ u
  have ht : t.Canonical := takeAll_canonical hs
  have hu : u.Canonical := setFleet_canonical (setReg_canonical ht _ _)
  refine ite_canonical _ hs ?_
  refine ite_canonical _ ht ?_
  split
  · exact parentKept_canonical (ite_canonical _ (lockLost_canonical hu) hu)
  · exact hu

theorem rolesCommit_canonical {s : State} (hs : s.Canonical) {cs : List Commit} {n : Nat} : (rolesCommit cs s n).Canonical :=
  ite_canonical _ hs (ite_canonical _ (post_canonical hs _ _ _) (takeAll_canonical hs))

theorem powerCommit_canonical {s : State} (hs : s.Canonical) {cs : List Commit} {a : Nat} : (powerCommit cs s a).Canonical := by
  unfold powerCommit
  extract_lets
  refine ite_canonical _ hs ?_
  split
  · exact setReg_canonical hs _ _
  · exact hs

theorem zorderCommit_canonical {s : State} (hs : s.Canonical) {cs : List Commit} : (zorderCommit cs s).Canonical :=
  ite_canonical _ hs (ite_canonical _ (takeAll_canonical hs) (post_canonical hs _ _ _))

theorem layerRefused_canonical {s : State} (hs : s.Canonical) {l why : Nat} : (layerRefused l why s).Canonical := post_canonical hs _ _ _

theorem keepLayer_canonical {s : State} (hs : s.Canonical) {moded : Bool} {l : Nat} : (keepLayer moded l s).Canonical :=
  ite_canonical _ (layerRefused_canonical (setRf_canonical hs _ _ _ _)) hs

theorem layerCommit_canonical {s : State} (hs : s.Canonical) {cs : List Commit} {moded : Bool} {l : Nat} : (layerCommit cs moded s l).Canonical := by
  unfold layerCommit
  extract_lets _ t0 t
  have ht0 : t0.Canonical := takeAll_canonical hs
  have ht : t.Canonical := ite_canonical _ ht0 (setRf_canonical ht0 _ _ _ _)
  exact ite_canonical _ (keepLayer_canonical hs) (ite_canonical _ (keepLayer_canonical (layerRefused_canonical (setRf_canonical hs _ _ _ _)))
    (ite_canonical _ (keepLayer_canonical (partRefused_canonical hs)) (setRf_canonical ht _ _ _ _)))

theorem commitAll_canonical {s : State} (hs : s.Canonical) {sent : Bool} {cs : List Commit} : (commitAll sent cs s).Canonical := by
  unfold commitAll
  extract_lets s1 m r s2 s3 s4 s5 s6 s7 s8 s9
  have hs1 : s1.Canonical := takeAll_canonical (partsCommit_canonical (ownerCommit_canonical hs))
  have hm : m.2.Canonical := modeCommit_canonical (virtualCommit_canonical (syncCommit_canonical hs1))
  have hr : r.2.Canonical := srCommit_canonical hm
  have hs2 : s2.Canonical := dirtyCommit_canonical hr
  have hs3 : s3.Canonical := foldl_canonical _ (fun _ _ ht => fitCommit_canonical ht) _ (foldl_canonical _ (fun _ _ ht => pairCommit_canonical ht) _ hs2)
  have hs4 : s4.Canonical := rplyCommit_canonical (rrecCommit_canonical hs3)
  have hs5 : s5.Canonical := lockCommit_canonical (fleetCommit_canonical hs4)
  have hs6 : s6.Canonical := foldl_canonical _ (fun _ _ ht => redCommit_canonical ht) _ hs5
  have hs7 : s7.Canonical := foldl_canonical _ (fun _ _ ht => rolesCommit_canonical ht) _ hs6
  have hs8 : s8.Canonical := foldl_canonical _ (fun _ _ ht => powerCommit_canonical ht) _ hs7
  have hs9 : s9.Canonical := zorderCommit_canonical (inputCommit_canonical hs8)
  exact foldl_canonical _ (fun _ _ ht => layerCommit_canonical ht) _ hs9

/-! ### The functions of `Machine/Boot.lean` -/

theorem retirePos_canonical {s : State} (hs : s.Canonical) {vpp : Bool} {q : Nat} : (retirePos vpp s q).Canonical :=
  ite_canonical _ hs (ite_canonical _ hs.rest (post_canonical hs.rest _ _ _))

theorem remapEvent_canonical {s : State} (hs : s.Canonical) {n : Nat} : (remapEvent s n).Canonical :=
  ite_canonical _ (post_canonical hs _ _ _) (post_canonical hs _ _ _)

theorem withdrawAbsent_canonical {s : State} (hs : s.Canonical) {ch : Nat} : (withdrawAbsent s ch).Canonical := by
  unfold withdrawAbsent
  extract_lets _ _ _ s1 s2
  have hs1 : s1.Canonical := setSlot_canonical hs _ _
  have hs2 : s2.Canonical := by
    unfold s2
    split
    · exact setJob_canonical hs1 _ _
    · exact hs1
  exact ite_canonical _ (post_canonical hs2 _ _ _) hs

theorem clearFabric_canonical {s : State} (hs : s.Canonical) : (clearFabric s).Canonical := by
  unfold clearFabric
  extract_lets s1
  have hs1 : s1.Canonical :=
    foldl_canonical _ (fun _ _ ht => setReg_canonical (setReg_canonical (setReg_canonical (setReg_canonical ht _ _) _ _) _ _) _ _) _ hs
  clear_value s1
  exact ⟨hs1.hbm, Mem.zero_wf, hs1.host, hs1.hostBad, hs1.regs, hs1.pregs, smWf_nil 0, boundWords_wf s, smWf_nil 0, smWf_nil 0, hs1.slots, hs1.jobs, hs1.cfg⟩

theorem fabricReset_canonical {s : State} (hs : s.Canonical) {vpp : Bool} {spares : List Nat} : (fabricReset vpp spares s).Canonical := by
  unfold fabricReset
  extract_lets lost s1 m map _ _ _ s2 s3
  have hs1 : s1.Canonical := foldl_canonical _ (fun _ _ ht => retirePos_canonical ht) _ hs
  have hs2 : s2.Canonical := by
    clear_value s1
    exact clearFabric_canonical hs1.fabRest
  have hs3 : s3.Canonical := foldl_canonical _ (fun _ _ ht => remapEvent_canonical ht) _ hs2
  exact foldl_canonical _ (fun _ _ ht => withdrawAbsent_canonical ht) _ hs3

theorem fabricResetDone_canonical {s : State} (hs : s.Canonical) {vpp : Bool} : (fabricResetDone vpp s).Canonical := by
  unfold fabricResetDone
  extract_lets s1
  have hs1 : s1.Canonical := setRf_canonical (fabricReset_canonical hs) _ _ _ _
  exact ite_canonical _ hs (post_canonical hs1 _ _ _)

theorem fabricRequest_canonical {s : State} (hs : s.Canonical) : (fabricRequest s).Canonical :=
  ite_canonical _ (setRf_canonical hs _ _ _ _) (post_canonical hs _ _ _)

theorem resetBase_canonical {s : State} (hs : s.Canonical) {hlog : Bool} {cause : Nat} : (resetBase hlog cause s).Canonical := by
  have h0 := reset_canonical
  unfold resetBase
  extract_lets a keep boots _ _ _ z z1 z2
  have hz : z.Canonical := ⟨hs.hbm, h0.loft, hs.host, hs.hostBad, h0.regs, h0.pregs, h0.sreg, h0.breg, h0.areg, h0.gen, h0.slots, h0.jobs, h0.cfg⟩
  have hz1 : z1.Canonical := setReg_canonical (setReg_canonical hz _ _) _ _
  have hz2 : z2.Canonical := ite_canonical _ (setReg_canonical hz1 _ _) hz1
  exact ite_canonical _ (setReg_canonical hz2 _ _) hz2

theorem recovery_canonical {s : State} (hs : s.Canonical) : (recovery s).Canonical := setRf_canonical hs.rest _ _ _ _

theorem pprRow_canonical {s : State} (hs : s.Canonical) {x : Nat} : (pprRow s x).Canonical :=
  withHbm_canonical hs (Mem.withFlips_wf hs.hbm (smDrop_wf _ _ ((Mem.wf_iff _).mp hs.hbm).2.2))

theorem stageHbm_canonical {s : State} (hs : s.Canonical) : (stageHbm s).Canonical := by
  unfold stageHbm
  extract_lets _ s1
  have hs1 : s1.Canonical := foldl_canonical _ (fun _ _ ht => pprRow_canonical ht) _ hs
  exact setReg_canonical hs1.rest _ _

theorem rewriteRow_canonical {s : State} (hs : s.Canonical) {x : Nat} : (rewriteRow s x).Canonical := by
  unfold rewriteRow
  extract_lets _ s1
  have hs1 : s1.Canonical := withHbm_canonical hs (Mem.clearRange_wf hs.hbm _ _)
  refine ite_canonical _ hs ?_
  refine ite_canonical _ ?_ (ite_canonical _ hs (ite_canonical _ (bump_canonical hs1 _ _ _ _) hs1))
  split
  · exact withHbm_canonical hs (Mem.write_wf hs.hbm _)
  · exact hs

theorem stageZero_canonical {s : State} (hs : s.Canonical) {warm : Bool} : (stageZero warm s).Canonical := by
  unfold stageZero
  extract_lets _ s1
  have hs1 : s1.Canonical := stageHbm_canonical hs
  exact ite_canonical _ (foldl_canonical _ (fun _ _ hu => rewriteRow_canonical hu) _ (withHbm_canonical hs1 (Mem.clearRange_wf hs1.hbm _ _)))
    (withHbm_canonical hs1 Mem.zero_wf)

theorem slotRead_canonical {s : State} (hs : s.Canonical) {k : Nat} : (slotRead s k).Canonical := hbmTake_canonical hs

theorem acceptImage_canonical {s : State} (hs : s.Canonical) {slot src : Nat} {m : List Byte} : (acceptImage slot src m s).Canonical :=
  setRf_canonical (setRf_canonical hs.rest _ _ _ _) _ _ _ _

theorem rejectImage_canonical {s : State} (hs : s.Canonical) {cand reason : Nat} : (rejectImage cand reason s).Canonical :=
  post_canonical (setRf_canonical hs _ _ _ _) _ _ _

theorem tryFlash_canonical {s : State} (hs : s.Canonical) {l : List (Nat × Option (List Byte))} : (tryFlash l s).1.Canonical := by
  induction l generalizing s with
  | nil => exact hs
  | cons e t ih =>
    obtain ⟨k, m⟩ := e
    unfold tryFlash
    cases m with
    | none => exact ih (rejectImage_canonical hs)
    | some bs =>
      simp only
      split
      · exact ih (rejectImage_canonical hs)
      · exact acceptImage_canonical (withHbm_canonical hs (Mem.write_wf hs.hbm _))

theorem stageImage_canonical {s : State} (hs : s.Canonical) {warm : Bool} {held : Nat × Nat} {b : BootRun} : (stageImage warm held b s).1.Canonical := by
  unfold stageImage
  extract_lets rest m r t
  have hrest : ∀ {u : State}, u.Canonical → (rest u).1.Canonical := by
    intro u hu
    unfold rest
    split
    · exact hu
    · exact tryFlash_canonical hu
  have ht : t.Canonical := slotRead_canonical hs
  split
  · split
    · exact acceptImage_canonical ht
    · exact hrest (rejectImage_canonical ht)
  · exact hrest hs

theorem bootFail_canonical {s : State} (hs : s.Canonical) {q : Nat} : (bootFail s q).Canonical := by
  unfold bootFail
  split
  · exact sparFails_canonical hs
  · exact hs

theorem stageFabric_canonical {s : State} (hs : s.Canonical) {b : BootRun} : (stageFabric b s).Canonical := by
  unfold stageFabric
  extract_lets fails m map _ s1 s2
  have hs1 : s1.Canonical := foldl_canonical _ (fun _ _ ht => bootFail_canonical ht) _ hs.fabRest
  have hs2 : s2.Canonical := fabricReset_canonical hs1
  exact setRf_canonical (post_canonical hs2 _ _ _) _ _ _ _

theorem bootStages_canonical {s : State} (hs : s.Canonical) {warm : Bool} {held : Nat × Nat} {b : BootRun} : (bootStages warm held b s).Canonical := by
  unfold bootStages
  extract_lets _ s1 r
  have hs1 : s1.Canonical := hs.rest
  have hr : r.1.Canonical := stageImage_canonical (stageZero_canonical hs1)
  exact ite_canonical _ (recovery_canonical hs.rest) (ite_canonical _ (stageFabric_canonical hr) (recovery_canonical hr))

theorem warmReset_canonical {s : State} (hs : s.Canonical) {cause : Nat} {b : BootRun} : (warmReset cause b s).Canonical :=
  bootStages_canonical (resetBase_canonical hs)

theorem warmTrigger_canonical {s : State} (hs : s.Canonical) {cause : Nat} {b : BootRun} : (warmTrigger cause b s).Canonical :=
  ite_canonical _ hs (warmReset_canonical hs)

/-- Without any register word a state stays canonical. -/
theorem noRegs_canonical {s : State} (hs : s.Canonical) : State.Canonical { s with regs := [] } :=
  ⟨hs.hbm, hs.loft, hs.host, hs.hostBad, trivial, hs.pregs, hs.sreg, hs.breg, hs.areg, hs.gen, hs.slots, hs.jobs, hs.cfg⟩

theorem powerOnReset_canonical {s : State} (hs : s.Canonical) {strap : BitVec 2} {b : BootRun} : (powerOnReset strap b s).Canonical := by
  unfold powerOnReset
  extract_lets _ z
  have hz : z.Canonical := resetBase_canonical (noRegs_canonical hs).rest
  exact bootStages_canonical hz.rest

theorem coldReset_canonical {s : State} (hs : s.Canonical) {b : BootRun} : (coldReset b s).Canonical :=
  ite_canonical _ hs (bootStages_canonical (resetBase_canonical hs.rest))

theorem supplyFault_canonical {s : State} (hs : s.Canonical) : (supplyFault s).Canonical := by
  unfold supplyFault
  extract_lets _ _ z
  have hz : z.Canonical := setRf_canonical (resetBase_canonical hs) _ _ _ _
  exact setRf_canonical hz.rest _ _ _ _

theorem railsBack_canonical {s : State} (hs : s.Canonical) {b : BootRun} : (railsBack b s).Canonical := ite_canonical _ (warmReset_canonical hs) hs

theorem vddAonFall_canonical {s : State} (hs : s.Canonical) : (vddAonFall s).Canonical := by
  unfold vddAonFall
  extract_lets _ z
  have hz : z.Canonical := resetBase_canonical (noRegs_canonical hs).rest
  exact setReg_canonical (withHbm_canonical hz Mem.zero_wf).rest _ _

theorem bootDone_canonical {s : State} (hs : s.Canonical) : (bootDone s).Canonical := by
  unfold bootDone
  extract_lets s1
  have hs1 : s1.Canonical := setReg_canonical (setRf_canonical hs _ _ _ _) _ _
  exact ite_canonical _ hs (logPut_canonical hs1)

theorem recoveryGo_canonical {s : State} (hs : s.Canonical) {b : BootRun} : (recoveryGo b s).Canonical := by
  unfold recoveryGo
  extract_lets _ _ t
  have ht : t.Canonical := slotRead_canonical hs
  exact ite_canonical _ hs (ite_canonical _ (stageFabric_canonical (acceptImage_canonical ht)) (rejectImage_canonical ht))

/-! ### The functions of `Machine/Env.lean` -/

theorem thermalTrip_canonical {s : State} (hs : s.Canonical) {sensor reading : Nat} : (thermalTrip sensor reading s).Canonical := by
  unfold thermalTrip
  extract_lets s1 _ _ _ s2
  have hs1 : s1.Canonical := envSet_canonical hs
  have hs2 : s2.Canonical := hs1.rest
  exact ite_canonical _ hs (post_canonical hs2 _ _ _)

theorem thermalTripClear_canonical {s : State} (hs : s.Canonical) {b : BootRun} : (thermalTripClear b s).Canonical :=
  ite_canonical _ hs (ite_canonical _ (setRf_canonical hs.rest _ _ _ _) (warmReset_canonical hs))

theorem refclkLost_canonical {s : State} (hs : s.Canonical) : (refclkLost s).Canonical := ite_canonical _ hs (post_canonical (envSet_canonical hs) _ _ _)

theorem refclkRestored_canonical {s : State} (hs : s.Canonical) : (refclkRestored s).Canonical :=
  ite_canonical _ hs (post_canonical (setRf_canonical hs _ _ _ _) _ _ _)

theorem envSyncStuck_canonical {s : State} (hs : s.Canonical) {input : Nat} {level : Bool} : (envSyncStuck input level s).Canonical :=
  ite_canonical _ hs (post_canonical (envSet_canonical (setRf_canonical hs _ _ _ _)) _ _ _)

theorem envOutShort_canonical {s : State} (hs : s.Canonical) {lane : Option (Fin 4)} {level : Bool} : (envOutShort lane level s).Canonical := by
  unfold envOutShort
  extract_lets _ s1
  have hs1 : s1.Canonical := sinkLost_canonical (envSet_canonical hs)
  exact ite_canonical _ hs (post_canonical hs1.rest _ _ _)

theorem opticsPowered_canonical {s : State} (hs : s.Canonical) : (opticsPowered s).Canonical :=
  ite_canonical _ hs (foldl_canonical _ (fun _ _ ht => startTraining_canonical ht) _ (quiet_canonical hs.rest))

theorem opticsUnpowered_canonical {s : State} (hs : s.Canonical) : (opticsUnpowered s).Canonical :=
  ite_canonical _ hs (foldl_canonical _ (fun _ _ ht => setRf_canonical ht _ _ _ _) _ (foldl_canonical _
    (fun _ _ ht => portDown_canonical (setWport_canonical ht)) _ (quiet_canonical hs.rest)))

theorem safeResult_canonical {s : State} (hs : s.Canonical) {r : Nat} : (safeResult r s).Canonical := setReg_canonical hs _ _

theorem blowFuses_canonical {s : State} (hs : s.Canonical) {op slot n : Nat} : (blowFuses op slot n s).Canonical := hs.rest

theorem fuseCmd_canonical {s : State} (hs : s.Canonical) {op slot : Nat} {vpp : Bool} : (fuseCmd op slot vpp s).Canonical := by
  unfold fuseCmd
  split
  · exact safeResult_canonical hs
  · extract_lets s1
    have hs1 : s1.Canonical := safeResult_canonical (blowFuses_canonical hs)
    exact ite_canonical _ (safeResult_canonical hs) (post_canonical hs1.rest _ _ _)

theorem updateFlash_canonical {s : State} (hs : s.Canonical) {p : Nat} : (updateFlash p s).Canonical := by
  unfold updateFlash
  extract_lets
  split
  · exact safeResult_canonical (rejectImage_canonical hs)
  · extract_lets _ t _ s1
    have ht : t.Canonical := hbmReads_canonical hs _ _ _ _
    have hs1 : s1.Canonical := safeResult_canonical ht.rest
    exact ite_canonical _ (safeResult_canonical (rejectImage_canonical ht)) (post_canonical hs1 _ _ _)

theorem safeCmd_canonical {s : State} (hs : s.Canonical) {p : Nat} {w : Word} {vpp : Bool} : (safeCmd p w vpp s).Canonical := by
  unfold safeCmd
  refine ite_canonical _ (safeResult_canonical hs) ?_
  split
  · exact fuseCmd_canonical hs
  · exact fuseCmd_canonical hs
  · exact fuseCmd_canonical hs
  · exact updateFlash_canonical hs
  · exact hs

theorem fuseStopped_canonical {s : State} (hs : s.Canonical) {op slot n : Nat} {w : Word} : (fuseStopped op slot n w s).Canonical := by
  unfold fuseStopped
  refine ite_canonical _ (safeResult_canonical hs) ?_
  split
  · exact safeResult_canonical hs
  · exact safeResult_canonical (blowFuses_canonical hs)

theorem dbgWrite_canonical {s : State} (hs : s.Canonical) {p : Nat} {v : Word} : (dbgWrite p v s).Canonical := by
  unfold dbgWrite
  extract_lets _ s1
  have hs1 : s1.Canonical := ite_canonical _ (setRf_canonical hs _ _ _ _) (setRf_canonical hs _ _ _ _)
  exact ite_canonical _ hs (ite_canonical _ (post_canonical hs1 _ _ _) hs1)

theorem dbgPut_canonical {s : State} (hs : s.Canonical) {t : DbgTarget} {bs : List Byte} : (dbgPut t bs s).Canonical := by
  unfold dbgPut
  extract_lets
  split
  · exact setReg_canonical hs _ _
  · exact setPreg_canonical hs _ _ _
  · exact withHbm_canonical hs (Mem.write_wf hs.hbm _)
  · exact setLoft_canonical hs (Mem.write_wf hs.loft _)
  · exact setS_canonical hs _ _ _
  · exact setB_canonical hs _ _ _
  · exact setA_canonical hs _ _ _
  · exact setGen_canonical hs _ _
  · exact hs.fabRest

theorem debugAccess_canonical {s : State} (hs : s.Canonical) {r : DbgReq} : (debugAccess r s).Canonical := by
  unfold debugAccess
  extract_lets s1
  have hs1 : s1.Canonical := setRf_canonical hs _ _ _ _
  refine ite_canonical _ hs ?_
  split
  · exact hs1.rest
  · exact dbgPut_canonical hs1.rest

theorem tapClock_canonical {s : State} (hs : s.Canonical) {tms tdi : Bool} {pins : List Bool} : (tapClock tms tdi pins s).Canonical := hs.rest

theorem exportEnds_canonical {s : State} (hs : s.Canonical) {count : Nat} : (exportEnds count s).Canonical := by
  unfold exportEnds
  extract_lets s1
  have hs1 : s1.Canonical := setRf_canonical hs _ _ _ _
  exact post_canonical hs1 _ _ _

theorem exportWrite_canonical {s : State} (hs : s.Canonical) {p : Nat} {v : Word} : (exportWrite p v s).Canonical := by
  unfold exportWrite
  extract_lets _ s1
  have hs1 : s1.Canonical := setRf_canonical hs _ _ _ _
  exact ite_canonical _ hs (ite_canonical _ hs1 (ite_canonical _ (setRf_canonical hs1.rest _ _ _ _) (exportEnds_canonical hs1)))

theorem exportEntry_canonical {s : State} (hs : s.Canonical) {k : Nat} : (exportEntry s k).Canonical := hostWriteP_canonical (hbmReads_canonical hs _ _ _ _)

theorem exportDone_canonical {s : State} (hs : s.Canonical) : (exportDone s).Canonical :=
  ite_canonical _ hs (ite_canonical _ (exportEnds_canonical hs) (ite_canonical _ hs (exportEnds_canonical
    (foldl_canonical _ (fun _ _ ht => exportEntry_canonical ht) _ hs))))

/-! ### The functions of `Machine/Domain.lean` -/

theorem tellFed_canonical {s : State} (hs : s.Canonical) {p n : Nat} : (tellFed p n s).Canonical := ite_canonical _ hs (post_canonical hs _ _ _)

theorem portSlot_canonical {s : State} (hs : s.Canonical) {p n : Nat} : (portSlot p s n).Canonical := by
  unfold portSlot
  extract_lets _ s1
  have hs1 : s1.Canonical := by
    unfold s1
    split
    · exact setJob_canonical hs _ _
    · exact hs
  exact ite_canonical _ (setSlot_canonical (tellFed_canonical hs1) _ _) hs

theorem flightLost_canonical {s : State} (hs : s.Canonical) {k n : Nat} : (flightLost k n s).Canonical := bump_canonical hs _ _ _ _

theorem portReset_canonical {s : State} (hs : s.Canonical) {p : Nat} : (portReset p s).Canonical := by
  unfold portReset
  extract_lets s0 s1
  have hs1 : s1.Canonical :=
    bar2Drop_canonical (foldl_canonical _ (fun _ _ ht => portSlot_canonical ht) _ (flightLost_canonical (flightLost_canonical hs)))
  exact ⟨hs1.hbm, hs1.loft, hs1.host, hs1.hostBad, hs1.regs, smDrop_rise (fun k => decide (k / 2 ^ 24 = p) && portResetReg
    (k % 2 ^ 24)) hs1.pregs, hs1.sreg, hs1.breg, hs1.areg, hs1.gen, hs1.slots, hs1.jobs,
    smPut_rise PortCfg.reset p PortCfg.reset hs1.cfg (by simp)⟩

theorem unwedge_canonical {s : State} (hs : s.Canonical) {mask : Nat} : (unwedge mask s).Canonical := setReg_canonical hs _ _

theorem drstGroup_canonical {s : State} (hs : s.Canonical) {p k : Nat} : (drstGroup p s k).Canonical := by
  unfold drstGroup
  refine ite_canonical _ hs ?_
  extract_lets on
  have hon : on.Canonical := setRf_canonical hs _ _ _ _
  split
  · exact ite_canonical _ hon.rest hon
  · exact (inputState_canonical hon).rest
  · exact foldl_canonical _ (fun _ _ ht => portDown_canonical ht) _ (flightLost_canonical (quiet_canonical hon))
  · exact ptpRestart_canonical (setServo_canonical hon)
  · exact ite_canonical _ hon (post_canonical hs _ _ _)
  · exact ite_canonical _ hs (portReset_canonical hon)

theorem drstWrite_canonical {s : State} (hs : s.Canonical) {p : Nat} {v : Word} : (drstWrite p v s).Canonical :=
  foldl_canonical _ (fun _ _ ht => drstGroup_canonical ht) _ hs

theorem domainResetDone_canonical {s : State} (hs : s.Canonical) : (domainResetDone s).Canonical := by
  unfold domainResetDone
  extract_lets _ s1 _ s2 s3 s4
  have hs1 : s1.Canonical := unwedge_canonical (setReg_canonical hs _ _)
  have hs2 : s2.Canonical := ite_canonical _ hs1.rest hs1
  have hs3 : s3.Canonical := ite_canonical _ (foldl_canonical _ (fun _ _ h3 => startTraining_canonical h3) _ (quiet_canonical hs2)) hs2
  have hs4 : s4.Canonical := post_canonical hs3 _ _ _
  exact ite_canonical _ hs (ite_canonical _ (serveBar2_canonical hs4) hs4)

theorem linkTrained_canonical {s : State} (hs : s.Canonical) {p speed : Nat} : (linkTrained p speed s).Canonical := ite_canonical _ hs (setPrf_canonical hs)

theorem refClockLost_canonical {s : State} (hs : s.Canonical) {p : Nat} : (refClockLost p s).Canonical := ite_canonical _ hs (setPrf_canonical hs.rest)

theorem setCfg_canonical {s : State} (hs : s.Canonical) {p : Nat} {c : PortCfg} : (s.setCfg p c).Canonical :=
  ⟨hs.hbm, hs.loft, hs.host, hs.hostBad, hs.regs, hs.pregs, hs.sreg, hs.breg, hs.areg, hs.gen, hs.slots, hs.jobs, smPut_rise _ _ _ hs.cfg (by simp)⟩

theorem configuration_canonical {s : State} (hs : s.Canonical) {p : Nat} {r : CfgReq} : (configuration p r s).Canonical := by
  unfold configuration
  refine ite_canonical _ (answer_canonical hs) ?_
  refine ite_canonical _ hs.rest ?_
  extract_lets
  split
  · exact answer_canonical hs
  · exact eqFlush_canonical (msixFlush_canonical (answer_canonical (setCfg_canonical hs)))
  · exact answer_canonical (setCfg_canonical hs)
  · exact msixFlush_canonical (answer_canonical (setCfg_canonical hs))
  · exact answer_canonical (setCfg_canonical hs)

/-! ### The functions of `Machine/Boundary.lean` -/

theorem endFrame_canonical {s : State} (hs : s.Canonical) : (endFrame s).Canonical := by
  unfold endFrame
  extract_lets s1
  have hs1 : s1.Canonical := jumpEnd_canonical (lineEnd_canonical hs)
  exact ite_canonical _ hs (shiftFlight_canonical hs1.rest)

theorem recordEnd_canonical {s : State} (hs : s.Canonical) : (recordEnd s).Canonical := hs.rest

theorem fleetEnd_canonical {s : State} (hs : s.Canonical) : (fleetEnd s).Canonical := setFleet_canonical hs

theorem pauseHold_canonical {s : State} (hs : s.Canonical) : (pauseHold s).Canonical :=
  ite_canonical _ (ite_canonical _ (srEnter_canonical hs) (srRefused_canonical hs)) hs

theorem pauseNow_canonical {s0 : State} (hs0 : s0.Canonical) : (pauseNow s0).Canonical := by
  unfold pauseNow
  extract_lets s _ _ _ _ s1 s2 s3
  have hs : s.Canonical := settleAll_canonical hs0
  have hs1 : s1.Canonical := hs.rest
  have hs2 : s2.Canonical := setRf_canonical (setRf_canonical hs1 _ _ _ _) _ _ _ _
  have hs3 : s3.Canonical := post_canonical (setLoHi_canonical hs2 _ _ _ _) _ _ _
  exact serveBar2_canonical (pauseHold_canonical hs3)

theorem renumber_canonical {s : State} (hs : s.Canonical) {d : Frame} : (renumber d s).Canonical :=
  (withSlots_canonical hs (smRise_map _ hs.slots)).fabRest

theorem setFrame_canonical {s : State} (hs : s.Canonical) : (setFrame s).Canonical := by
  unfold setFrame
  extract_lets _ s1
  have hs1 : s1.Canonical := setSync_canonical hs
  refine ite_canonical _ hs ?_
  split
  · exact ite_canonical _ (renumber_canonical hs1) hs1
  · exact hs1

theorem releaseSlot_canonical {s : State} (hs : s.Canonical) {n : Nat} : (releaseSlot n s).Canonical := by
  unfold releaseSlot
  extract_lets _ s1 s2
  have hs1 : s1.Canonical := setSlot_canonical hs _ _
  have hs2 : s2.Canonical := by
    unfold s2
    split
    · exact setJob_canonical hs1 _ _
    · exact hs1
  exact hs2.rest

theorem freeSlotNow_canonical {s : State} (hs : s.Canonical) {n : Nat} : (freeSlotNow n s).Canonical :=
  ite_canonical _ (setSlot_canonical hs _ _) (post_canonical (setSlot_canonical hs _ _) _ _ _)

theorem leaveNow_canonical {s : State} (hs : s.Canonical) {n : Nat} {why : Leave} : (leaveNow n s why).Canonical := by
  unfold leaveNow
  extract_lets _ _ s1 _ t
  have hs1 : s1.Canonical := by
    unfold s1
    split
    · exact setJob_canonical hs _ _
    · exact hs
  have ht : t.Canonical := releaseSlot_canonical hs
  refine ite_canonical _ (setSlot_canonical hs1 _ _) ?_
  split
  · exact post_canonical ht _ _ _
  · exact post_canonical (freeSlotNow_canonical (post_canonical ht _ _ _)) _ _ _
  · exact freeSlotNow_canonical ht

theorem leaveSlot_canonical {s : State} (hs : s.Canonical) {n : Nat} : (leaveSlot s n).Canonical :=
  ite_canonical _ hs (foldl_canonical _ (fun _ _ ht => leaveNow_canonical ht) _ (setSlot_canonical hs _ _))

theorem portResetsEnd_canonical {s : State} (hs : s.Canonical) : (portResetsEnd s).Canonical := by
  unfold portResetsEnd
  extract_lets off sig t
  have hoff : ∀ {p l : Nat} {u : State}, u.Canonical → (off p l u).Canonical := fun hu => ite_canonical _ (setRf_canonical hu _ _ _ _) hu
  have hsig : ∀ {p n : Nat} {u : State}, u.Canonical → (sig p n u).Canonical := fun hu => ite_canonical _ (setRf_canonical hu _ _ _ _) hu
  have ht : t.Canonical := foldl_canonical _
    (fun _ _ hu => foldl_canonical _ (fun _ _ hv => hsig hv) _ (foldl_canonical _ (fun _ _ hv => hoff hv) _ hu)) _ hs
  exact ht.rest

theorem replayApply_canonical {s : State} (hs : s.Canonical) : (replayApply s).Canonical := by
  unfold replayApply
  extract_lets fetched _ s0 _ stop
  have hs0 : s0.Canonical := hs.rest
  have hstop : ∀ {code : Nat}, (stop code).Canonical := post_canonical hs0.rest _ _ _
  refine ite_canonical _ hs0 (ite_canonical _ hstop ?_)
  clear_value fetched
  split
  · exact ite_canonical _ (setReg_canonical hs0 _ _).rest hstop
  · exact hstop

theorem takeCommits_canonical {s : State} (hs : s.Canonical) {sent : Bool} : (takeCommits sent s).Canonical := by
  unfold takeCommits
  extract_lets cs
  exact commitAll_canonical hs.rest

theorem nextFrame_canonical {s : State} (hs : s.Canonical) : (nextFrame s).Canonical := hs.fabRest

theorem offNow_canonical {s : State} (hs : s.Canonical) : (offNow s).Canonical := setRf_canonical hs.rest _ _ _ _

theorem plansLive_canonical {s : State} (hs : s.Canonical) : (plansLive s).Canonical := withSlots_canonical hs (smRise_map _ hs.slots)

theorem dropMarks_canonical {s : State} (hs : s.Canonical) : (dropMarks s).Canonical := hs.fabRest

theorem settleIn_canonical {s : State} (hs : s.Canonical) : (settleIn s).Canonical := by
  unfold settleIn
  extract_lets t
  have ht : t.Canonical := dropMarks_canonical (holdFollow_canonical hs)
  exact ht.rest

theorem leaveHeld_canonical {s : State} (hs : s.Canonical) {held : Bool} : (leaveHeld held s).Canonical := ite_canonical _ (srExit_canonical hs) hs

theorem enterFrame_canonical {s : State} (hs : s.Canonical) {held sent : Bool} : (enterFrame held sent s).Canonical :=
  trainProgress_canonical (leaveHeld_canonical (takeCommits_canonical (portResetsEnd_canonical hs)))

theorem newFrame_canonical {s : State} (hs : s.Canonical) {held : Bool} : (newFrame held s).Canonical := by
  unfold newFrame
  extract_lets sent a s1 s2 s3 s4 _ s5 _ s6 s7
  have hs1 : s1.Canonical := fleetEnd_canonical (recordEnd_canonical (switchReef_canonical (applyReef_canonical hs)))
  have hs2 : s2.Canonical := setFrame_canonical (nextFrame_canonical hs1)
  have hs3 : s3.Canonical := foldl_canonical _ (fun _ _ ht => leaveSlot_canonical ht) _ hs2
  have hs4 : s4.Canonical := settleIn_canonical (inputRefresh_canonical (enterFrame_canonical hs3))
  have hs5 : s5.Canonical := plansLive_canonical (withBreg_canonical hs4 (boundWords_wf s4))
  have hs6 : s6.Canonical := hs5.rest
  have hs7 : s7.Canonical := foldl_canonical _ (fun _ _ ht => fitPubBoundary_canonical ht) _ (replayApply_canonical hs6)
  exact deliver_canonical (dropFetched_canonical (tickSegs_canonical (offNow_canonical hs7)))

theorem frameBoundary_canonical {s : State} (hs : s.Canonical) {nj : List (BitVec 64)} : (frameBoundary nj s).Canonical := by
  unfold frameBoundary
  extract_lets s1 s2
  have hs1 : s1.Canonical := endFrame_canonical hs
  have hs2 : s2.Canonical := updateEst_canonical (addEnergy_canonical hs1)
  exact ite_canonical _ hs (ite_canonical _ (pauseNow_canonical hs2) (newFrame_canonical hs2))

theorem dropGhosts_canonical {s : State} (hs : s.Canonical) : (dropGhosts s).Canonical := setSync_canonical hs

theorem resumed_canonical {s : State} (hs : s.Canonical) {nj : List (BitVec 64)} : (resumed nj s).Canonical := by
  unfold resumed
  extract_lets s1 _ s2 _ _ s3
  have hs1 : s1.Canonical := dropGhosts_canonical (ghostFinish_canonical (ite_canonical _ (ghostFrame_canonical hs) hs))
  have hs2 : s2.Canonical := addEnergy_canonical (setRf_canonical (setRf_canonical hs1 _ _ _ _) _ _ _ _)
  have hs3 : s3.Canonical := newFrame_canonical hs2.rest
  exact ite_canonical _ hs (post_canonical hs3 _ _ _)

/-! ### The functions of `Machine/Ahead.lean` -/

theorem ahead_canonical {s : State} (hs : s.Canonical) : (ahead s).Canonical := enterFrame_canonical hs.rest

theorem layerFetchNow_canonical {s : State} (hs : s.Canonical) {l : Nat} : (layerFetchNow l s).Canonical := by
  unfold layerFetchNow
  split
  · exact layerFetch_canonical hs
  · exact hs

theorem leadCheckNow_canonical {s0 : State} (hs0 : s0.Canonical) : (leadCheckNow s0).Canonical := by
  unfold leadCheckNow
  extract_lets s
  have hs : s.Canonical := settleTo_canonical hs0
  split
  · exact leadCheck_canonical hs
  · exact hs

/-! ### The functions of `Machine/Offer.lean` -/

theorem fitBundle_canonical {s : State} (hs : s.Canonical) : (fitBundle s).Canonical := by
  unfold fitBundle
  extract_lets t
  have ht : t.Canonical := reachOffer_canonical hs
  exact ite_canonical _ ht (fitOffer_canonical ht)

/-! ### The functions of `Machine/Pause.lean` -/

theorem setPauseState_canonical {s : State} (hs : s.Canonical) {v : Nat} : (s.setPauseState v).Canonical := setRf_canonical hs _ _ _ _

theorem pauseRequest_canonical {s : State} (hs : s.Canonical) {c : Nat} : (pauseRequest c s).Canonical :=
  ite_canonical _ ((setPauseState_canonical (setRf_canonical hs _ _ _ _)).rest) hs

theorem saveRequest_canonical {s : State} (hs : s.Canonical) : (saveRequest s).Canonical :=
  ite_canonical _ (setPauseState_canonical (setRf_canonical hs _ _ _ _)) hs

theorem saveDone_canonical {s : State} (hs : s.Canonical) : (saveDone s).Canonical := by
  unfold saveDone
  extract_lets _ _ s1 s2 s3
  have hs1 : s1.Canonical := putImage_canonical hs
  have hs2 : s2.Canonical := foldl_canonical _ (fun _ _ hu => bump_canonical hu _ _ _ _) _ hs1
  have hs3 : s3.Canonical := setPauseState_canonical (setRf_canonical (setReg_canonical hs2 _ _) _ _ _ _)
  exact ite_canonical _ (post_canonical hs3 _ _ _) hs

theorem loadReg_canonical {s : State} (hs : s.Canonical) {r a : Nat} : (s.loadReg r a).Canonical := setReg_canonical hs _ _

theorem loadRegs_canonical {s : State} (hs : s.Canonical) {a n : Nat} : (loadRegs a n s).Canonical :=
  ite_canonical _ hs (foldl_canonical _ (fun _ _ ht => loadReg_canonical ht) _ (loadReg_canonical
    (loadReg_canonical (loadReg_canonical (loadReg_canonical (setGen_canonical (foldl_canonical _ (fun _ _ ht => setA_canonical ht _ _ _) _
      (foldl_canonical _ (fun _ _ ht => setS_canonical ht _ _ _) _ hs)) _ _))))))

theorem loadCrucible_canonical {s : State} (hs : s.Canonical) {a n : Nat} : (loadCrucible a n s).Canonical :=
  foldl_canonical _ (fun _ _ ht => readSlot_canonical ht) _ (foldl_canonical _ (fun _ _ ht => readDescr_canonical ht) _ hs)

theorem loadBays_canonical {s : State} (hs : s.Canonical) {a mask : Nat} : (loadBays a mask s).Canonical :=
  foldl_canonical _ (fun _ _ ht => readBay_canonical ht) _ hs

theorem loadPair_canonical {s : State} (hs : s.Canonical) {a n : Nat} : (loadPair a s n).Canonical := by
  unfold loadPair
  extract_lets _ t
  have ht : t.Canonical := loadReg_canonical (loadReg_canonical hs)
  exact ht.rest

theorem loadWatch_canonical {s : State} (hs : s.Canonical) {a w : Nat} : (loadWatch a s w).Canonical := by
  unfold loadWatch
  extract_lets b t
  have ht : t.Canonical := foldl_canonical _ (fun _ _ hu => loadReg_canonical hu) _ hs
  clear_value t
  exact ht.fabRest

theorem loadJob_canonical {s : State} (hs : s.Canonical) {a n : Nat} : (loadJob a s n).Canonical := by
  unfold loadJob
  extract_lets _ _ t
  have ht : t.Canonical := foldl_canonical _ (fun _ _ ht => loadReg_canonical ht) _ hs
  exact setJob_canonical (setRf_canonical ht _ _ _ _) _ _

theorem shadowReset_canonical {s : State} (hs : s.Canonical) : (shadowReset s).Canonical := foldl_canonical _ (fun _ _ ht => setReg_canonical ht _ _) _ hs

theorem loadShadow_canonical {s : State} (hs : s.Canonical) {a n : Nat} : (loadShadow a n s).Canonical :=
  foldl_canonical _ (fun _ _ ht => setReg_canonical ht _ _) _ (shadowReset_canonical hs)

theorem loadMode_canonical {s : State} (hs : s.Canonical) {old : State} : (loadMode old s).Canonical := by
  unfold loadMode
  extract_lets _ t
  have ht : t.Canonical := setTiming_canonical hs
  exact ite_canonical _ ht ht.rest

theorem loadImage_canonical {s : State} (hs : s.Canonical) {a : Nat} : (loadImage a s).Canonical := by
  unfold loadImage
  extract_lets _ _ _ _ s0 s1 s2 s3 _ s4 s5 _ _ s6 s7
  have hs0 : s0.Canonical := renumber_canonical hs
  have hs1 : s1.Canonical := foldl_canonical _ (fun _ _ hu => loadRegs_canonical hu) _ hs0
  have hs2 : s2.Canonical := foldl_canonical _ (fun _ _ h3 => loadCrucible_canonical h3) _ hs1
  have hs3 : s3.Canonical := loadBays_canonical hs2
  have hs4 : s4.Canonical := hs3.fabRest
  have hs5 : s5.Canonical := foldl_canonical _ (fun _ _ h6 => loadJob_canonical h6) _ (foldl_canonical _ (fun _ _ h6 => loadWatch_canonical h6) _
    (foldl_canonical _ (fun _ _ h6 => loadPair_canonical h6) _ hs4))
  have hs6 : s6.Canonical := setFleet_canonical hs5
  have hs7 : s7.Canonical := loadMode_canonical (loadShadow_canonical hs6)
  exact setLoHi_canonical hs7 _ _ _ _

theorem loadRequest_canonical {s : State} (hs : s.Canonical) : (loadRequest s).Canonical :=
  ite_canonical _ (setPauseState_canonical (setRf_canonical hs _ _ _ _)) hs

theorem loadReads_canonical {s : State} (hs : s.Canonical) {a : Nat} : (loadReads a s).Canonical := by
  unfold loadReads
  extract_lets t
  have ht : t.Canonical := hbmTake_canonical hs
  exact ite_canonical _ (hbmTake_canonical ht) ht

theorem loadDone_canonical {s0 : State} (hs0 : s0.Canonical) : (loadDone s0).Canonical := by
  unfold loadDone
  extract_lets a s err fin t
  have hfin : ∀ {u : State}, u.Canonical → (fin u).Canonical := fun hu => setRf_canonical (setPauseState_canonical (setRf_canonical hu _ _ _ _)) _ _ _ _
  have hs : s.Canonical := loadReads_canonical hs0
  have ht : t.Canonical := hfin (loadImage_canonical hs)
  exact ite_canonical _ (ite_canonical _ (post_canonical ht _ _ _) (post_canonical (hfin hs) _ _ _)) hs0

theorem resumeRequest_canonical {s : State} (hs : s.Canonical) : (resumeRequest s).Canonical :=
  ite_canonical _ (decideReef_canonical (setPauseState_canonical (setRf_canonical hs _ _ _ _))) hs

theorem pauseCtlWrite_canonical {s : State} (hs : s.Canonical) {c : Nat} {w : Word} : (pauseCtlWrite c w s).Canonical := by
  unfold pauseCtlWrite
  extract_lets s1 s2 s3
  have hs1 : s1.Canonical := ite_canonical _ (pauseRequest_canonical hs) hs
  have hs2 : s2.Canonical := ite_canonical _ (saveRequest_canonical hs1) hs1
  have hs3 : s3.Canonical := ite_canonical _ (loadRequest_canonical hs2) hs2
  exact ite_canonical _ (resumeRequest_canonical hs3) hs3

/-! ### The functions of `Machine/Regs.lean` -/

theorem pendWrite_canonical {s : State} (hs : s.Canonical) {p a : Nat} {w m : Word} : (pendWrite p a w m s).Canonical := ite_canonical _ hs hs.rest

theorem commitLate_canonical {s : State} (hs : s.Canonical) {p : Nat} {t : Frame} : (commitLate p t s).Canonical := by
  unfold commitLate
  extract_lets _ s1 _ s2
  have hs1 : s1.Canonical := setPreg_canonical hs _ _ _
  have hs2 : s2.Canonical := setPreg_canonical hs1 _ _ _
  exact post_canonical (evt_canonical hs2 _) _ _ _

theorem commitGo_canonical {s : State} (hs : s.Canonical) {p c : Nat} : (commitGo p c s).Canonical := by
  unfold commitGo
  extract_lets _ _ _ s1
  have hs1 : s1.Canonical := hs.rest
  exact ite_canonical _ hs1 (commitLate_canonical hs1)

theorem clearBits_canonical {s : State} (hs : s.Canonical) {k : Nat} {w : Word} {f : Nat → State → State} (hf : ∀ a0 t, t.Canonical → (f a0 t).Canonical) :
    (clearBits k w f s).Canonical :=
  foldl_canonical _ (fun _ _ hu => hf _ _ hu) _ hs

theorem msixWrite_canonical {s : State} (hs : s.Canonical) {p a : Nat} {w : Word} : (msixWrite p a w s).Canonical :=
  ite_canonical _ (msixFlush_canonical (setPreg_canonical hs _ _ _)) hs

/-- What there is of a state is canonical. -/
def SomeCanonical (o : Option State) : Prop := ∀ t, o = some t → t.Canonical

theorem someCanonical_some {s : State} (hs : s.Canonical) : SomeCanonical (some s) := fun _ h => Option.some.inj h ▸ hs

theorem someCanonical_none : SomeCanonical none := fun _ h => nomatch h

theorem someCanonical_ite (c : Prop) [Decidable c] {x y : Option State} (hx : SomeCanonical x) (hy : SomeCanonical y) :
    SomeCanonical (if c then x else y) := by split <;> assumption

theorem wholeAction_canonical {s : State} (hs : s.Canonical) {b : BootRun} {p a c : Nat} {w : Word} : SomeCanonical (wholeAction b p a c w s) := by
  have hor : ∀ (c : Prop) [Decidable c] {x : State} {o : Option State}, x.Canonical → SomeCanonical o → SomeCanonical (if c then some x else o) :=
    fun c _ _ _ hx ho => someCanonical_ite c (someCanonical_some hx) ho
  unfold wholeAction
  refine hor _ (eqCtlWrite_canonical hs) <| hor _ (eqHeadWrite_canonical hs) <| hor _ (cmdGo_canonical hs) <| hor _ (fenceInc_canonical hs) <|
    hor _ (pauseCtlWrite_canonical hs) <| hor _ (drstWrite_canonical hs) <| hor _ (timeCtlWrite_canonical hs) <| hor _ (ethCtlWrite_canonical hs) <|
    hor _ (ite_canonical _ (linkStatClr_canonical hs) hs) <| hor _ (clearBits_canonical hs fun _ _ ht => hbmClear_canonical ht) <|
    hor _ (clearBits_canonical hs fun _ _ ht => loftClear_canonical ht) <| hor _ (clearBits_canonical hs fun _ _ ht => pwrClear_canonical ht) <|
    hor _ (ite_canonical _ (recoveryGo_canonical hs) hs) <| someCanonical_ite _ ?_ <| hor _ (dbgWrite_canonical hs) <| hor _ (safeCmd_canonical hs) <|
    hor _ (exportWrite_canonical hs) ?_
  · have h1 := ite_canonical (bitAt w 1 = true) (fabricRequest_canonical hs) hs
    exact someCanonical_some (ite_canonical _ (warmTrigger_canonical h1) h1)
  · split
    · exact hor _ (linkCtlWrite_canonical (quiet_canonical hs)) someCanonical_none
    · exact hor _ (clearBits_canonical hs fun _ _ ht => sparClear_canonical ht) someCanonical_none
    · exact someCanonical_none

theorem bitActions_canonical {s : State} (hs : s.Canonical) {p a c : Nat} {w : Word} : (bitActions p a c w s).Canonical :=
  ite_canonical _ (ite_canonical _ (commitGo_canonical hs) hs) (ite_canonical _ (ite_canonical _ (edidUpd_canonical hs) hs)
    (ite_canonical _ (ite_canonical _ (egressRelease_canonical hs) hs) (ite_canonical _ (ite_canonical _ (fitCkptRequest_canonical hs) hs) hs)))

theorem storeWrite_canonical {s : State} (hs : s.Canonical) {p a : Nat} {r : RegRow} {w m : Word} : (storeWrite p a r w m s).Canonical :=
  pendWrite_canonical (ite_canonical _ hs (ite_canonical _ (setPreg_canonical hs _ _ _) (setReg_canonical hs _ _)))

theorem landWrite_canonical {s : State} (hs : s.Canonical) {b : BootRun} {p a c : Nat} {w : Word} : (landWrite b p a c w s).Canonical := by
  unfold landWrite
  refine ite_canonical _ (msixWrite_canonical hs) ?_
  split
  · exact hs
  next r _ =>
    refine ite_canonical _ hs (ite_canonical _ (ite_canonical _ (tailWrite_canonical hs) hs) ?_)
    extract_lets m
    split
    next t ht => exact someCanonical_ite _ someCanonical_none (wholeAction_canonical hs) t ht
    · exact storeWrite_canonical (bitActions_canonical hs)

theorem hostWriteAt_canonical {s0 : State} (hs0 : s0.Canonical) {b : BootRun} {p a c : Nat} {w : Word} {be : BitVec 4} :
    (hostWriteAt b p a c w be s0).Canonical := by
  unfold hostWriteAt
  extract_lets s
  have hs : s.Canonical := settleTo_canonical hs0
  exact ite_canonical _ (hostPut_canonical hs _ _ _ (landWrite_canonical hs)) (hostErr_canonical hs _ _)

theorem latchFor_canonical {s : State} (hs : s.Canonical) {p a : Nat} : (latchFor p a s).Canonical := by
  unfold latchFor
  refine foldl_canonical _ ?_ _ hs
  intro _ _ ht
  split
  · exact ht.rest
  · exact ht

theorem answerWord_canonical {s : State} (hs : s.Canonical) {p : Nat} {v : Word} : (answerWord p v s).Canonical := answer_canonical hs

theorem landRead_canonical {s : State} (hs : s.Canonical) {p a : Nat} : (landRead p a s).Canonical := by
  unfold landRead
  extract_lets t
  have ht : t.Canonical := latchFor_canonical hs
  exact answerWord_canonical ht

theorem takeRead_canonical {s : State} (hs : s.Canonical) {p a : Nat} : (takeRead p a s).Canonical :=
  ite_canonical _ (bar2Take_canonical hs) (landRead_canonical hs)

theorem hostRead_canonical {s : State} (hs : s.Canonical) {p a : Nat} : (hostRead p a s).Canonical := by
  unfold hostRead
  split
  · exact takeRead_canonical hs
  · exact answerWord_canonical hs
  · exact answerWord_canonical (hostErr_canonical hs _ _)
  · exact hs.rest

theorem onesFor_canonical {s : State} (hs : s.Canonical) {p : Nat} {e : Stalled} : (onesFor p e s).Canonical := ite_canonical _ (answerWord_canonical hs) hs

theorem expire_canonical {s : State} (hs : s.Canonical) {p k : Nat} {e : Stalled} : (expire p k e s).Canonical := by
  unfold expire
  extract_lets s1 s2 s3
  have hs1 : s1.Canonical := hostErr_canonical (onesFor_canonical hs) _ _
  have hs2 : s2.Canonical := setPreg_canonical hs1 _ _ _
  have hs3 : s3.Canonical := setReg_canonical hs2 _ _
  exact post_canonical hs3 _ _ _

theorem serveStalled_canonical {s : State} (hs : s.Canonical) {b : BootRun} {p c : Nat} {e : Stalled} : (serveStalled b p c e s).Canonical := by
  unfold serveStalled
  split
  · exact landWrite_canonical hs
  · exact takeRead_canonical hs

theorem accessTimeout_canonical {s : State} (hs : s.Canonical) {b : BootRun} {p c : Nat} : (accessTimeout b p c s).Canonical := by
  unfold accessTimeout
  split
  · exact hs
  · extract_lets _ s1
    have hs1 : s1.Canonical := hs.rest
    split
    · exact serveStalled_canonical hs1
    · exact ite_canonical _ (answerWord_canonical hs1) hs1
    · exact expire_canonical hs1
    · exact expire_canonical hs1

/-! ### The commands -/

/-- A command that answers a state answers a canonical one. -/
def Keeps (o : Host.Outcome State Fault Refusal) : Prop := ∀ t, o = .next t → t.Canonical

theorem next_keeps {s : State} (hs : s.Canonical) : Keeps (.next s) := fun t h => by cases h; exact hs

theorem fault_keeps (f : Fault) : Keeps (.fault f) := fun _ h => nomatch h

theorem fromPort_keeps {t : State} (ht : t.Canonical) (p : Fin 4) (s : State) : Keeps (fromPort p s t) := by
  unfold fromPort
  split
  · exact next_keeps ht
  · exact fault_keeps _

section wrappers
variable {s : State} {p : Fin 4}

theorem clearBit_keeps (hs : s.Canonical) {a b : Nat} {f : Nat → State → State} (hf : ∀ b t, t.Canonical → (f b t).Canonical) : Keeps (clearBit p a b f s) :=
  fromPort_keeps (ownerWrite_canonical hs _ _ _ (hf _ _ hs)) p s

theorem commandWord_keeps (hs : s.Canonical) {word : Issue → State → State} (hw : ∀ i t, t.Canonical → (word i t).Canonical) {i : Issue} :
    Keeps (commandWord word i s) := next_keeps (commandAt_canonical hs fun _ _ j t => hw j t)

theorem goWrite_keeps (hs : s.Canonical) {op c : Nat} : Keeps (goWrite p op c s) := fromPort_keeps (hostPut_canonical hs _ _ _ (cmdGo_canonical hs)) p s

theorem safeCmdWrite_keeps (hs : s.Canonical) {w : Word} {vpp : Bool} : Keeps (safeCmdWrite p w vpp s) :=
  fromPort_keeps (ownerWrite_canonical hs _ _ _ (safeCmd_canonical hs)) p s

theorem drstCmd_keeps (hs : s.Canonical) {k : Nat} : Keeps (drstCmd p k s) := fromPort_keeps (ownerWrite_canonical hs _ _ _ (drstWrite_canonical hs)) p s

theorem pauseBit_keeps (hs : s.Canonical) {w : Word} {f : State → State} (hf : (f s).Canonical) : Keeps (pauseBit p w f s) :=
  fromPort_keeps (ownerWrite_canonical hs _ _ _ hf) p s

end wrappers

/-- Every command keeps the canonical forms. -/
theorem exec_keeps {s : State} (hs : s.Canonical) (c : Instr) : Keeps (exec c s) := by
  cases c with
  | halyardTick => exact next_keeps (halyardTick_canonical hs)
  | frameBoundary => exact next_keeps (frameBoundary_canonical hs)
  | updatePoint => exact next_keeps (updatePoint_canonical hs)
  | referenceEvent => exact next_keeps (referenceEvent_canonical hs)
  | decisionPoint => exact next_keeps (decisionPoint_canonical hs)
  | fleetReefVote => exact next_keeps (fleetVote_canonical hs)
  | lockstepReefSend => exact next_keeps (lockReefSend_canonical hs)
  | fleetReefFallback => exact next_keeps (fleetFallback_canonical hs)
  | leadCheck => exact next_keeps (leadCheckNow_canonical hs)
  | scanoutLineRead => exact next_keeps (scanoutLineRead_canonical hs)
  | layerFetch => exact next_keeps (layerFetchNow_canonical hs)
  | signaturePublish => exact next_keeps (signaturePublish_canonical hs)
  | flip => exact next_keeps (flip_canonical hs)
  | watchSnapshot => exact next_keeps (watchSnapshot_canonical hs)
  | bend => exact commandWord_keeps hs (fun _ _ ht => wordBend_canonical ht)
  | loop => exact next_keeps (commandAt_canonical hs (fun _ _ _ _ ht => wordLoop_canonical ht))
  | sli => exact commandWord_keeps hs (fun _ _ ht => wordSli_canonical ht)
  | sop => exact commandWord_keeps hs (fun _ _ ht => wordSop_canonical ht)
  | smovb => exact commandWord_keeps hs (fun _ _ ht => wordSmovb_canonical ht)
  | ali => exact commandWord_keeps hs (fun _ _ ht => wordAli_canonical ht)
  | ainc => exact commandWord_keeps hs (fun _ _ ht => wordAinc_canonical ht)
  | sget => exact commandWord_keeps hs (fun _ _ ht => wordSget_canonical ht)
  | gset => exact commandWord_keeps hs (fun _ _ ht => wordGset_canonical ht)
  | ftest => exact commandWord_keeps hs (fun _ _ ht => wordFtest_canonical ht)
  | fsig => exact commandWord_keeps hs (fun _ _ ht => wordFsig_canonical ht)
  | await => exact commandWord_keeps hs (fun _ _ ht => wordAwait_canonical ht)
  | muster => exact commandWord_keeps hs (fun _ _ ht => wordMuster_canonical ht)
  | musterRelease => exact next_keeps (musterRelease_canonical (atRelease_canonical hs))
  | emit => exact commandWord_keeps hs (fun _ _ ht => wordEmit_canonical ht)
  | mark => exact commandWord_keeps hs (fun _ _ ht => wordMark_canonical ht)
  | mma => exact commandWord_keeps hs (fun _ _ ht => wordMma_canonical ht)
  | conv => exact commandWord_keeps hs (fun _ _ ht => wordConv_canonical ht)
  | tload => exact commandWord_keeps hs (fun _ _ ht => wordTload_canonical ht)
  | arland => exact commandWord_keeps hs (fun _ _ ht => wordArland_canonical ht)
  | vadd => exact commandWord_keeps hs (fun _ _ ht => wordBin_canonical ht)
  | vsub => exact commandWord_keeps hs (fun _ _ ht => wordBin_canonical ht)
  | vmul => exact commandWord_keeps hs (fun _ _ ht => wordBin_canonical ht)
  | vfma => exact commandWord_keeps hs (fun _ _ ht => wordBin_canonical ht)
  | vmax => exact commandWord_keeps hs (fun _ _ ht => wordBin_canonical ht)
  | vmin => exact commandWord_keeps hs (fun _ _ ht => wordBin_canonical ht)
  | viadd => exact commandWord_keeps hs (fun _ _ ht => wordBin_canonical ht)
  | visub => exact commandWord_keeps hs (fun _ _ ht => wordBin_canonical ht)
  | vimul => exact commandWord_keeps hs (fun _ _ ht => wordBin_canonical ht)
  | vimax => exact commandWord_keeps hs (fun _ _ ht => wordBin_canonical ht)
  | vimin => exact commandWord_keeps hs (fun _ _ ht => wordBin_canonical ht)
  | vcvt => exact commandWord_keeps hs (fun _ _ ht => wordVcvt_canonical ht)
  | vun => exact commandWord_keeps hs (fun _ _ ht => wordVun_canonical ht)
  | vred => exact commandWord_keeps hs (fun _ _ ht => wordVred_canonical ht)
  | vgen => exact commandWord_keeps hs (fun _ _ ht => wordVgen_canonical ht)
  | resc => exact commandWord_keeps hs (fun _ _ ht => wordResc_canonical ht)
  | quant => exact commandWord_keeps hs (fun _ _ ht => wordQuant_canonical ht)
  | arsend => exact commandWord_keeps hs (fun _ _ ht => wordArsend_canonical ht)
  | ldh => exact commandWord_keeps hs (fun _ _ ht => wordLdh_canonical ht)
  | sth => exact commandWord_keeps hs (fun _ _ ht => wordSth_canonical ht)
  | rig => exact commandWord_keeps hs (fun _ _ ht => wordRig_canonical ht)
  | lsc => exact commandWord_keeps hs (fun _ _ ht => wordLsc_canonical ht)
  | idxr => exact commandWord_keeps hs (fun _ _ ht => wordIdxr_canonical ht)
  | pfirst => exact commandWord_keeps hs (fun _ _ ht => wordPfirst_canonical ht)
  | plast => exact commandWord_keeps hs (fun _ _ ht => wordPlast_canonical ht)
  | pshuf => exact commandWord_keeps hs (fun _ _ ht => wordPshuf_canonical ht)
  | pcrop => exact commandWord_keeps hs (fun _ _ ht => wordPcrop_canonical ht)
  | pargmax => exact commandWord_keeps hs (fun _ _ ht => wordPargmax_canonical ht)
  | inputFrameStart => exact next_keeps (inputFrameStart_canonical hs)
  | inputFrameStored => exact next_keeps (inputFrameStored_canonical hs)
  | inputState => exact next_keeps (inputState_canonical hs)
  | dpcdAccess => exact next_keeps (dpcdAccess_canonical hs)
  | edidUpd => exact fromPort_keeps (hostPut_canonical hs _ _ _ (edidUpd_canonical hs)) _ _
  | inHpdRelease => exact next_keeps (inHpdRelease_canonical hs)
  | egressRelease => exact fromPort_keeps (hostPut_canonical hs _ _ _ (egressRelease_canonical hs)) _ _
  | sinkLost => exact next_keeps (sinkLost_canonical hs)
  | outputTrainingDone => exact next_keeps (outputTrainingDone_canonical hs)
  | registerWrite => exact fromPort_keeps (hostWriteAt_canonical hs) _ _
  | latchingRead => exact fromPort_keeps (hostRead_canonical hs) _ _
  | hostFlush => exact fromPort_keeps (hostRead_canonical hs) _ _
  | bar2Read => exact fromPort_keeps (bar2Read_canonical hs) _ _
  | bar2Write => exact fromPort_keeps (bar2Write_canonical hs) _ _
  | accessTimeout => exact fromPort_keeps (accessTimeout_canonical hs) _ _
  | commitGo => exact fromPort_keeps (hostPut_canonical hs _ _ _ (commitGo_canonical hs)) _ _
  | create => exact goWrite_keeps hs
  | destroy => exact goWrite_keeps hs
  | admitCmd => exact goWrite_keeps hs
  | admission => exact next_keeps (admission_canonical hs)
  | withdraw => exact goWrite_keeps hs
  | unquar => exact goWrite_keeps hs
  | restart => exact goWrite_keeps hs
  | planCopy => exact next_keeps (planCopy_canonical hs)
  | resourceZeroing => exact next_keeps (resourceZeroing_canonical (reachOffer_canonical hs))
  | hostFenceInc => exact fromPort_keeps (hostPut_canonical hs _ _ _ (fenceInc_canonical hs)) _ _
  | tailWrite => exact fromPort_keeps (hostPut_canonical hs _ _ _ (tailWrite_canonical hs)) _ _
  | descriptorStart => exact next_keeps (descriptorStart_canonical hs)
  | copyBatch => exact next_keeps (copyServe_canonical (reachOffer_canonical hs))
  | eqHead => exact fromPort_keeps (hostPut_canonical hs _ _ _ (eqHeadWrite_canonical hs)) _ _
  | eqEnable => exact fromPort_keeps (hostPut_canonical hs _ _ _ (eqCtlWrite_canonical hs)) _ _
  | eqInterrupt => exact fromPort_keeps (eqInterrupt_canonical hs) _ _
  | portReset => exact fromPort_keeps (unwedge_canonical (portReset_canonical hs)) _ _
  | mergedEvent => exact next_keeps (mergedEvent_canonical hs)
  | pause => exact pauseBit_keeps hs (pauseRequest_canonical hs)
  | save => exact pauseBit_keeps hs (saveRequest_canonical hs)
  | saveDone => exact next_keeps (saveDone_canonical hs)
  | load => exact pauseBit_keeps hs (loadRequest_canonical hs)
  | loadDone => exact next_keeps (loadDone_canonical hs)
  | resume => exact pauseBit_keeps hs (resumeRequest_canonical hs)
  | resumed => exact next_keeps (resumed_canonical hs)
  | drstOut => exact drstCmd_keeps hs
  | drstIn => exact drstCmd_keeps hs
  | drstLink => exact drstCmd_keeps hs
  | drstTime => exact drstCmd_keeps hs
  | drstMem => exact drstCmd_keeps hs
  | drstHost => exact drstCmd_keeps hs
  | domainResetDone => exact next_keeps (domainResetDone_canonical hs)
  | frameRecordWrite => exact next_keeps (frameRecordWrite_canonical hs)
  | replayFetch => exact next_keeps (replayFetch_canonical hs)
  | lockstepSigSend => exact next_keeps (lockSigSend_canonical hs)
  | lockstepFrame => exact next_keeps (receive_canonical hs (fun _ _ ht => onLockSet_canonical ht))
  | lockstepDeadline => exact next_keeps (lockDeadline_canonical hs)
  | stackWindow => exact next_keeps (stackWindow_canonical hs)
  | slackInterval => exact next_keeps (slackInterval_canonical hs)
  | selfTestStep => exact next_keeps (selfTestStep_canonical hs)
  | fitStepStart => exact next_keeps (fitStepStart_canonical hs)
  | fitBundle => exact next_keeps (ite_canonical _ (fitBundle_canonical hs) hs)
  | fitStepComplete => exact next_keeps (fitStepComplete_canonical (fitReachEnd_canonical hs))
  | fitAvail => exact fromPort_keeps (hostPut_canonical hs _ _ _ (fitAvail_canonical hs)) _ _
  | fitCkptRequest => exact fromPort_keeps (hostPut_canonical hs _ _ _ (fitCkptRequest_canonical hs)) _ _
  | fitCkptDone => exact next_keeps (fitCkptDone_canonical hs)
  | fitCkptRestore => exact next_keeps (fitCkptRestore_canonical hs)
  | blackBoxCopy => exact next_keeps (blackBoxCopy_canonical hs)
  | ptpSync => exact next_keeps (ptpSync_canonical hs)
  | ptpDelayResp => exact next_keeps (ptpDelayResp_canonical hs)
  | delayReq => exact next_keeps (delayReq_canonical hs)
  | syncMessageSend => exact next_keeps (syncSend_canonical hs)
  | ptpAnnounce => exact next_keeps (ptpAnnounce_canonical hs)
  | announceReceiptTimeout => exact next_keeps (announceTimeout_canonical hs)
  | holdoverExpiry => exact next_keeps (holdoverExpiry_canonical hs)
  | accept => exact fromPort_keeps (ownerWrite_canonical hs _ _ _ (setRf_canonical hs _ _ _ _)) _ _
  | timeEthEn => exact fromPort_keeps (ownerWrite_canonical hs _ _ _ (ethCtlWrite_canonical hs)) _ _
  | nonPtpFrame => exact next_keeps (nonPtpFrame_canonical hs)
  | opticalSignal => exact next_keeps (opticalSignal_canonical hs)
  | trainingTimeout => exact next_keeps (trainingTimeout_canonical hs)
  | infoFrame => exact next_keeps (receive_canonical hs (fun _ _ ht => onInfo_canonical ht))
  | lossOfSignal => exact next_keeps (lossOfSignal_canonical hs)
  | ackFrame => exact next_keeps (receive_canonical hs (fun _ _ ht => ht))
  | nakFrame => exact next_keeps (receive_canonical hs (fun _ _ ht => onNak_canonical ht))
  | dreqFrame => exact next_keeps (receive_canonical hs (fun _ _ ht => onDreq_canonical ht))
  | drespFrame => exact next_keeps (receive_canonical hs (fun _ _ ht => onDresp_canonical ht))
  | musterFrame => exact next_keeps (receive_canonical (settleTo_canonical hs) (fun _ _ ht => onMuster_canonical ht))
  | reefFrame => exact next_keeps (receive_canonical hs (fun _ _ ht => onReef_canonical ht))
  | reduceFrame => exact next_keeps (receive_canonical (settleTo_canonical hs) (fun _ _ ht => onReduce_canonical ht))
  | mgmtFrame => exact next_keeps (receive_canonical hs (fun _ _ ht => ht.rest))
  | linkFrameDiscard => exact next_keeps (receive_canonical hs (fun _ _ ht => ht))
  | ackTimer => exact next_keeps (ackTimer_canonical hs)
  | retryTimeout => exact next_keeps (retryTimeout_canonical hs)
  | delayExchange => exact next_keeps (delayExchange_canonical hs)
  | portEnable => exact fromPort_keeps (ownerWrite_canonical hs _ _ _ (linkCtlWrite_canonical (quiet_canonical hs))) _ _
  | linkStatClr => exact fromPort_keeps (ownerWrite_canonical hs _ _ _ (linkStatClr_canonical hs)) _ _
  | sparClrSat => exact clearBit_keeps hs (fun _ _ ht => sparClear_canonical ht)
  | sparClrUfz => exact clearBit_keeps hs (fun _ _ ht => sparClear_canonical ht)
  | sparClrPoi => exact clearBit_keeps hs (fun _ _ ht => sparClear_canonical ht)
  | hbmClrCe => exact clearBit_keeps hs (fun _ _ ht => hbmClear_canonical ht)
  | hbmClrUe => exact clearBit_keeps hs (fun _ _ ht => hbmClear_canonical ht)
  | hbmClrMark => exact clearBit_keeps hs (fun _ _ ht => hbmClear_canonical ht)
  | hbmClrDefer => exact clearBit_keeps hs (fun _ _ ht => hbmClear_canonical ht)
  | hbmClrScrub => exact clearBit_keeps hs (fun _ _ ht => hbmClear_canonical ht)
  | loftClrCe => exact clearBit_keeps hs (fun _ _ ht => loftClear_canonical ht)
  | loftClrUe => exact clearBit_keeps hs (fun _ _ ht => loftClear_canonical ht)
  | loftClrMark => exact clearBit_keeps hs (fun _ _ ht => loftClear_canonical ht)
  | loftClrScrub => exact clearBit_keeps hs (fun _ _ ht => loftClear_canonical ht)
  | loftClrBay => exact clearBit_keeps hs (fun _ _ ht => loftClear_canonical ht)
  | pwrClrChanges => exact clearBit_keeps hs (fun _ _ ht => pwrClear_canonical ht)
  | pwrClrTherm => exact clearBit_keeps hs (fun _ _ ht => pwrClear_canonical ht)
  | powerOnReset => exact next_keeps (powerOnReset_canonical hs)
  | coldReset => exact next_keeps (coldReset_canonical hs)
  | warmReset => exact next_keeps (warmTrigger_canonical hs)
  | warm => exact fromPort_keeps (ownerWrite_canonical hs _ _ _ (warmTrigger_canonical hs)) _ _
  | supplyFault => exact next_keeps (supplyFault_canonical hs)
  | bootDone => exact next_keeps (bootDone_canonical hs)
  | recoveryGo => exact fromPort_keeps (ownerWrite_canonical hs _ _ _ (recoveryGo_canonical hs)) _ _
  | fabric => exact fromPort_keeps (ownerWrite_canonical hs _ _ _ (fabricRequest_canonical hs)) _ _
  | fabricResetDone => exact next_keeps (fabricResetDone_canonical hs)
  | debugKill => exact safeCmdWrite_keeps hs
  | raiseSvn => exact safeCmdWrite_keeps hs
  | revokeKey => exact safeCmdWrite_keeps hs
  | update => exact safeCmdWrite_keeps hs
  | debugUnlock => exact fromPort_keeps (ownerWrite_canonical hs _ _ _ (dbgWrite_canonical hs)) _ _
  | logExport => exact fromPort_keeps (ownerWrite_canonical hs _ _ _ (exportWrite_canonical hs)) _ _
  | logExportDone => exact next_keeps (exportDone_canonical hs)
  | thermalTrip => exact next_keeps (thermalTrip_canonical hs)
  | thermalTripClear => exact next_keeps (thermalTripClear_canonical hs)
  | refclkLost => exact next_keeps (refclkLost_canonical hs)
  | refclkRestored => exact next_keeps (refclkRestored_canonical hs)
  | envSyncStuck => exact next_keeps (envSyncStuck_canonical hs)
  | envOutShort => exact next_keeps (envOutShort_canonical hs)
  | opticsPowered => exact next_keeps (opticsPowered_canonical hs)
  | opticsUnpowered => exact next_keeps (opticsUnpowered_canonical hs)
  | delayReqReceipt => exact next_keeps (delayReqReceipt_canonical hs)
  | announceInterval => exact next_keeps (announceInterval_canonical hs)
  | ethLinkChange => exact next_keeps (ethLink_canonical hs)
  | pcieLinkTrained => exact fromPort_keeps (linkTrained_canonical hs) _ _
  | configurationRequest => exact fromPort_keeps (configuration_canonical hs) _ _
  | portReferenceClockLost => exact fromPort_keeps (refClockLost_canonical hs) _ _
  | sinkHotPlug => exact next_keeps (sinkHotPlug_canonical hs)
  | outputTrainingRetry => exact next_keeps (outputTrainingRetry_canonical hs)
  | railsBackWithinLimits => exact next_keeps (railsBack_canonical hs)
  | vddAonFall => exact next_keeps (vddAonFall_canonical hs)
  | lockstepReefReceipt => exact next_keeps (receive_canonical hs (fun _ _ ht => onLockReef_canonical ht))
  | jtagTapClock => exact next_keeps (tapClock_canonical hs)
  | debugPortAccess => exact next_keeps (debugAccess_canonical hs)
  | vppFuseOutOfLimits => exact fromPort_keeps (ownerWrite_canonical hs _ _ _ (fuseStopped_canonical hs)) _ _

/-- Settles O3, command by command: every write of a memory or a register file keeps its keys in order and lists no default. -/
theorem stepKeepsCanonical : Obligations.StepKeepsCanonical := by
  unfold Obligations.StepKeepsCanonical
  intro s t hs h
  unfold step at h
  split at h
  · exact next_keeps hs t h
  · exact exec_keeps hs.rest _ t h

end Sys2Proof.Machine

/-! SUPPORT. Work in flight comes about in its cycle, and the words that take more than a cycle only begin in theirs. -/

namespace Sys2Proof.Machine

/-! ### The first place in time -/

/-- Some of the work stands at its first place in time, and none comes before it. -/
theorem firstOf_spec {l : List Flight} {m : Nat × Nat} (h : firstOf l = some m) :
    (∃ x ∈ l, x.c = m.1 ∧ x.phase = m.2) ∧ ∀ y ∈ l, m.1 < y.c ∨ (m.1 = y.c ∧ m.2 ≤ y.phase) := by
  induction l generalizing m with
  | nil => simp [firstOf] at h
  | cons x t ih =>
    unfold firstOf at h
    cases ht : firstOf t with
    | none =>
      have hnil : t = [] := by
        cases t with
        | nil => rfl
        | cons y t =>
          unfold firstOf at ht
          cases hf : firstOf t with
          | none => simp [hf] at ht
          | some k => rw [hf] at ht; by_cases hy : y.by k.1 k.2 = true <;> simp [hy] at ht
      simp only [ht, Option.some.injEq] at h
      subst h hnil
      simp
    | some k =>
      obtain ⟨⟨z, hz, hzc⟩, hmin⟩ := ih ht
      rw [ht] at h
      by_cases hx : x.by k.1 k.2 = true
      · simp only [hx, if_true, Option.some.injEq] at h
        subst h
        simp only [Flight.by, decide_eq_true_eq] at hx
        refine ⟨⟨x, by simp⟩, fun y hy => ?_⟩
        rcases List.mem_cons.mp hy with rfl | hy
        · exact .inr ⟨rfl, Nat.le_refl _⟩
        · have := hmin y hy
          dsimp only
          omega
      · simp only [hx, Bool.false_eq_true, if_false, Option.some.injEq] at h
        subst h
        simp only [Flight.by, decide_eq_true_eq] at hx
        refine ⟨⟨z, by simp [hz], hzc⟩, fun y hy => ?_⟩
        rcases List.mem_cons.mp hy with rfl | hy
        · omega
        · exact hmin y hy

/-- Work that is due has a first place in time. -/
theorem firstOf_cons (x : Flight) (t : List Flight) : ∃ m, firstOf (x :: t) = some m := by
  unfold firstOf
  cases firstOf t with
  | none => exact ⟨_, rfl⟩
  | some k => dsimp only; split <;> exact ⟨_, rfl⟩

/-! ### One register write in flight -/

/-- One piece of work that begins nothing comes about alone. -/
theorem settleTo_one {s : State} {c phase : Nat} {w : Work} (h : s.fab.flight = [⟨c, phase, w⟩])
    (hw : (runWork c w (({ s with wire := [], fab := { s.fab with flight := [] } } : State).reachCycle c)).fab.flight = []) :
    settleTo c phase s = (runWork c w (({ s with wire := [], fab := { s.fab with flight := [] } } : State).reachCycle c)).reachCycle c := by
  have hplace : runPlace c phase { s with wire := [] } = runWork c w (({ s with wire := [], fab := { s.fab with flight := [] } } : State).reachCycle c) := by
    simp [runPlace, h]
  have hfirst : firstOf (({ s with wire := [] } : State).fab.flight.filter (fun x => x.by c phase)) = some (c, phase) := by
    simp [h, Flight.by, firstOf]
  have hfuel : (2 : Nat) ^ 40 = (2 ^ 40 - 1) + 1 := by decide
  unfold settleTo
  rw [hfuel, settle_first hfirst, hplace, settle_none]
  intro x hx
  rw [hw] at hx
  exact absurd hx (List.not_mem_nil)

theorem reachCycle_flight (s : State) (c : Nat) : (s.reachCycle c).fab.flight = s.fab.flight := by
  obtain ⟨y, f, h⟩ := reachCycle_only s c
  rw [h]

/-- The state in which one piece of work of cycle `c` comes about, and the clock moving on to `c`. -/
theorem settleTo_one_clock {s : State} {c phase : Nat} {w : Work} (h : s.fab.flight = [⟨c, phase, w⟩]) (hw : ∀ t : State, (runWork c w t).fab.flight = t.fab.flight) :
    ∃ y f y' f', settleTo c phase s =
      let t := runWork c w { s with wire := [], fab := { s.fab with flight := [], cyc := y, fresh := f } }
      { t with fab := { t.fab with cyc := y', fresh := f' } } := by
  obtain ⟨y, f, hy⟩ := reachCycle_only { s with wire := [], fab := { s.fab with flight := [] } } c
  obtain ⟨y', f', hy'⟩ := reachCycle_only (runWork c w { s with wire := [], fab := { s.fab with flight := [], cyc := y, fresh := f } }) c
  refine ⟨y, f, y', f', ?_⟩
  rw [settleTo_one h ((hw _).trans (reachCycle_flight _ c)), hy]
  exact hy'

section one
variable {s : State} {n d c phase : Nat}

theorem settleTo_setS {v : Word} (hd : d < 32) (h : s.fab.flight = [⟨c, phase, .setS n d v⟩]) : WroteS s (settleTo c phase s) n d v := by
  obtain ⟨y, f, y', f', e⟩ := settleTo_one_clock h (fun _ => rfl)
  rw [e]
  exact ⟨fun m j hj => State.sReg_setS s n d m j v hd hj, rfl⟩

theorem settleTo_setB {v : Word} (hd : d < 16) (h : s.fab.flight = [⟨c, phase, .setB n d v⟩]) : WroteB s (settleTo c phase s) n d v := by
  obtain ⟨y, f, y', f', e⟩ := settleTo_one_clock h (fun _ => rfl)
  rw [e]
  exact ⟨fun m j hj => State.bReg_setB s n d m j v hd hj, rfl⟩

theorem settleTo_setA {v : BitVec 40} (hd : d < 8) (h : s.fab.flight = [⟨c, phase, .setA n d v⟩]) : WroteA s (settleTo c phase s) n d v := by
  obtain ⟨y, f, y', f', e⟩ := settleTo_one_clock h (fun _ => rfl)
  rw [e]
  exact ⟨fun m j hj => State.aReg_setA s n d m j v hd hj, rfl⟩

theorem settleTo_setGen {v : BitVec 40} (h : s.fab.flight = [⟨c, phase, .setGen n v⟩]) : WroteGen s (settleTo c phase s) n v := by
  obtain ⟨y, f, y', f', e⟩ := settleTo_one_clock h (fun _ => rfl)
  rw [e]
  exact ⟨fun m => State.genIdx_setGen s n m v, rfl⟩

theorem settleTo_addGen (h : s.fab.flight = [⟨c, phase, .addGen n d⟩]) :
    WroteGen s (settleTo c phase s) n (BitVec.ofNat 40 ((s.genIdx n).toNat + d)) := by
  have hv : s.genIdx n + BitVec.ofNat 40 d = BitVec.ofNat 40 ((s.genIdx n).toNat + d) := by
    rw [BitVec.ofNat_add, BitVec.ofNat_toNat, BitVec.setWidth_eq]
  obtain ⟨y, f, y', f', e⟩ := settleTo_one_clock h (fun _ => rfl)
  rw [e, ← hv]
  exact ⟨fun m => State.genIdx_setGen s n m _, rfl⟩

end one

/-! ### Several writes of one S register -/

/-- Writes of one S register in flight, by their cycles. -/
def sWrites (n d : Nat) (l : List (Nat × Word)) : List Flight := l.map (fun x => ⟨x.1, 0, .setS n d x.2⟩)

/-- Writes of one value leave it. -/
theorem foldl_setS {n d : Nat} (hd : d < 32) {x : Nat × Word} {l : List (Nat × Word)} (hne : l ≠ []) (hl : ∀ y ∈ l, y = x) (t : State) :
    ((sWrites n d l).foldl (fun t y => runWork y.c y.work t) t).sReg n d = x.2 := by
  induction l generalizing t with
  | nil => exact absurd rfl hne
  | cons y l ih =>
    obtain rfl : y = x := hl y (by simp)
    cases l with
    | nil => simp [sWrites, runWork, State.sReg_setS _ n d n d y.2 hd hd]
    | cons z l => exact ih (by simp) (fun w hw => hl w (List.mem_cons_of_mem _ hw)) _

theorem foldl_setS_flight (n d : Nat) (l : List (Nat × Word)) (t : State) :
    ((sWrites n d l).foldl (fun t y => runWork y.c y.work t) t).fab.flight = t.fab.flight := by
  induction l generalizing t with
  | nil => rfl
  | cons y l ih => exact ih _

/-- The writes of one cycle come about: the register holds the value, and the other writes stay in flight. -/
theorem runPlace_sWrites {s : State} {n d : Nat} (hd : d < 32) {l : List (Nat × Word)} (h : s.fab.flight = sWrites n d l) {x : Nat × Word} (hx : x ∈ l)
    (hl : ∀ y ∈ l, y.1 = x.1 → y = x) :
    (runPlace x.1 0 s).sReg n d = x.2 ∧ (runPlace x.1 0 s).fab.flight = sWrites n d (l.filter (fun y => decide (y.1 ≠ x.1))) := by
  have hnow : s.fab.flight.filter (fun y => decide (y.c = x.1 ∧ y.phase = 0)) = sWrites n d (l.filter (fun y => decide (y.1 = x.1))) := by
    rw [h]; simp [sWrites, List.filter_map, Function.comp_def]
  have hrest : s.fab.flight.filter (fun y => decide (¬(y.c = x.1 ∧ y.phase = 0))) = sWrites n d (l.filter (fun y => decide (y.1 ≠ x.1))) := by
    rw [h]; simp [sWrites, List.filter_map, Function.comp_def]
  unfold runPlace
  simp only [hnow, hrest]
  constructor
  · refine foldl_setS hd ?_ (fun y hy => ?_) _
    · exact List.ne_nil_of_mem (List.mem_filter.mpr ⟨hx, by simp⟩)
    · obtain ⟨hy, hc⟩ := List.mem_filter.mp hy
      exact hl y hy (by simpa using hc)
  · rw [foldl_setS_flight, reachCycle_flight]

section several
variable {s : State} {n d c : Nat} {l : List (Nat × Word)}

theorem sWrites_by {y : Flight} (hy : y ∈ sWrites n d l) (c : Nat) : y.by c 2 = true ↔ y.c ≤ c := by
  obtain ⟨x, -, rfl⟩ := List.mem_map.mp hy
  simp only [Flight.by, decide_eq_true_eq]
  omega

/-- Before the first of the writes nothing comes about. -/
theorem settle_sWrites_early (h : s.fab.flight = sWrites n d l) (hl : ∀ x ∈ l, c < x.1) (k : Nat) : settle k c 2 s = s := by
  refine settle_none (fun y hy => ?_) k
  rw [h] at hy
  rw [← Bool.not_eq_true, sWrites_by hy]
  obtain ⟨x, hx, rfl⟩ := List.mem_map.mp hy
  exact Nat.not_le.mpr (hl x hx)

/-- Where one of the writes is due, the earliest comes first. -/
theorem firstOf_sWrites (h : s.fab.flight = sWrites n d l) {z : Nat × Word} (hz : z ∈ l) (hzc : z.1 ≤ c) :
    ∃ x ∈ l, firstOf (s.fab.flight.filter (fun y => y.by c 2)) = some (x.1, 0) ∧ ∀ y ∈ l, x.1 ≤ y.1 := by
  have hdue : ∀ x ∈ l, x.1 ≤ c → (⟨x.1, 0, .setS n d x.2⟩ : Flight) ∈ s.fab.flight.filter (fun y => y.by c 2) := by
    intro x hx hxc
    have hf : (⟨x.1, 0, .setS n d x.2⟩ : Flight) ∈ sWrites n d l := List.mem_map.mpr ⟨x, hx, rfl⟩
    exact List.mem_filter.mpr ⟨h ▸ hf, (sWrites_by hf c).mpr hxc⟩
  obtain ⟨y, t, e⟩ := List.exists_cons_of_ne_nil (List.ne_nil_of_mem (hdue z hz hzc))
  obtain ⟨m, hm⟩ := firstOf_cons y t
  rw [← e] at hm
  obtain ⟨⟨w, hw, hwc, hwp⟩, hmin⟩ := firstOf_spec hm
  obtain ⟨hwf, -⟩ := List.mem_filter.mp hw
  rw [h] at hwf
  obtain ⟨x, hx, rfl⟩ := List.mem_map.mp hwf
  obtain rfl : m = (x.1, 0) := Prod.ext hwc.symm hwp.symm
  refine ⟨x, hx, hm, fun y hy => ?_⟩
  have hle : x.1 ≤ z.1 := by have := hmin _ (hdue z hz hzc); dsimp only at this; omega
  by_cases hyc : y.1 ≤ c
  · have := hmin _ (hdue y hy hyc)
    dsimp only at this
    omega
  · omega

/-- Several writes of one S register leave what the latest of those that have come about gives (R91). -/
theorem settle_sWrites (hd : d < 32) {k : Nat} (hk : l.length ≤ k) (hn : (l.map (fun x => x.1)).Nodup) (h : s.fab.flight = sWrites n d l)
    {z : Nat × Word} (hz : z ∈ l) (hzc : z.1 ≤ c) (hmax : ∀ y ∈ l, y.1 ≤ c → y.1 ≤ z.1) : (settle k c 2 s).sReg n d = z.2 := by
  induction k generalizing s l with
  | zero =>
    obtain rfl := List.length_eq_zero_iff.mp (Nat.le_zero.mp hk)
    exact absurd hz List.not_mem_nil
  | succ k ih =>
    have hinj : ∀ x ∈ l, ∀ y ∈ l, y.1 = x.1 → y = x := fun x hx y hy e => List.inj_on_of_nodup_map hn hy hx e
    obtain ⟨x, hx, hfirst, hmin⟩ := firstOf_sWrites h hz hzc
    obtain ⟨hreg, hflight⟩ := runPlace_sWrites hd h hx (hinj x hx)
    have hsub : (l.filter (fun y => decide (y.1 ≠ x.1))).length ≤ k := by
      have : (l.filter (fun y => decide (y.1 ≠ x.1))).length < l.length :=
        List.length_filter_lt_length_iff_exists.mpr ⟨x, hx, by simp⟩
      omega
    have hnodup : ((l.filter (fun y => decide (y.1 ≠ x.1))).map (fun x => x.1)).Nodup := hn.sublist (List.filter_sublist.map _)
    have hmem : ∀ y, y ∈ l.filter (fun y => decide (y.1 ≠ x.1)) ↔ y ∈ l ∧ y.1 ≠ x.1 := fun y => by simp
    rw [settle_first hfirst]
    by_cases hzx : z.1 = x.1
    · obtain rfl := hinj x hx z hz hzx
      rw [settle_sWrites_early hflight, hreg]
      intro y hy
      obtain ⟨hyl, hyz⟩ := (hmem y).mp hy
      by_contra hyc
      have := hmax y hyl (by omega)
      have := hmin y hyl
      omega
    · exact ih hsub hnodup hflight ((hmem z).mpr ⟨hz, hzx⟩) (fun y hy hyc => hmax y ((hmem y).mp hy).1 hyc)

end several

theorem workInFlight : Sys2Proof.Stated.WorkInFlight := by
  refine ⟨fun s c phase h => ?_, fun s n d c l hd hl hn h => ⟨fun hlate => ?_, fun x hx hxc hmax => ?_⟩, fun s n d c phase => ?_⟩
  · refine settleTo_idle (fun x hx => ?_)
    have := h x hx
    simp only [Flight.by, decide_eq_false_iff_not]
    omega
  · obtain ⟨y, f, e⟩ := reachCycle_only { s with wire := [] } c
    have hs : ({ s with wire := [] } : State).fab.flight = sWrites n d l := h
    unfold settleTo
    rw [settle_sWrites_early hs hlate, e]
    rfl
  · obtain ⟨y, f, e⟩ := reachCycle_only (settle (2 ^ 40) c 2 { s with wire := [] }) c
    have hs : ({ s with wire := [] } : State).fab.flight = sWrites n d l := h
    unfold settleTo
    rw [e]
    exact settle_sWrites hd hl.le hn hs hx hxc hmax
  · exact ⟨fun v hd h => settleTo_setS hd h, fun v hd h => settleTo_setB hd h, fun v hd h => settleTo_setA hd h, fun v h => settleTo_setGen h,
      fun h => settleTo_addGen h⟩

/-! ### Words that take more than a cycle -/

/-- A word that is fetched, decodes and forms no bad address begins what it begins, with the registers and descriptors of its issue cycle (R224). -/
theorem commandWord_begins {α : Type} {dec : State → Issue → Option α} {chk : State → Issue → α → Option IssueFault} {f : α} {s : State} {i : Issue}
    (run : α → Issue → Held → State → State) (h : Issues s i dec chk f) :
    commandWord (issueWord dec chk run) i s = .next (run f i ((s.atIssue i).hold i) (s.atIssue i)) := by
  obtain ⟨⟨r, hfetch⟩, hdec, hchk⟩ := h
  unfold commandWord commandAt
  simp only [hfetch, issueWord, hdec, hchk]

theorem longWordsIssue : Sys2Proof.Stated.LongWordsIssue := by
  intro s i u begins tile
  have long : ∀ {α : Type} {dec : State → Issue → Option α} {chk : State → Issue → α → Option IssueFault} (f : α), Issues s i dec chk f →
      commandWord (issueWord dec chk staged) i s = .next begins := fun _ h => commandWord_begins staged h
  exact ⟨fun _ h => commandWord_begins tileIssue h, fun _ h => commandWord_begins tileIssue h, long, fun _ h => commandWord_begins _ h,
    long, long, long, long, long, long, long, long, long, long, long, long, long, long, fun _ h => commandWord_begins _ h, long, long, long, long, long, long, long, long,
    long, long, long, long, long⟩

/-- Settles O14: of the work in flight the earliest that is due comes about first, and a long word only begins its first read cycle. -/
theorem workOfWords : Obligations.WorkOfWords := ⟨workInFlight, longWordsIssue⟩

end Sys2Proof.Machine

/-! SUPPORT. Runs of whole codewords written to a memory. -/

namespace Sys2Proof.Machine

/-! ### Writes of whole codewords -/

/-- Writes of `n` bytes from an address on. -/
def runOf (a n : Nat) (g : Nat → Byte × Nat) : List (Nat × Byte × Nat) := (List.range n).map (fun j => (a + j, g j))

/-- What a codeword is written with, its bytes all named. -/
def wholeWrites (g : Nat → Byte) : List (Nat × Byte) := (List.range 8).map (fun i => (i, g i))

theorem runOf_add (a m n : Nat) (g : Nat → Byte × Nat) : runOf a (m + n) g = runOf a m g ++ runOf (a + m) n (fun j => g (m + j)) := by
  unfold runOf
  rw [List.range_add, List.map_append, List.map_map]
  simp [Function.comp_def, Nat.add_assoc]

/-- Writes of one codeword, all equally poisoned, make one group. -/
theorem groupByCw_same {cw p : Nat} {l t : List (Nat × Byte × Nat)} (hne : l ≠ []) (hl : ∀ w ∈ l, w.1 / 8 = cw ∧ w.2.2 = p)
    (ht : ∀ g ∈ groupByCw t, g.1 ≠ cw) : groupByCw (l ++ t) = (cw, l.map (fun w => (w.1 % 8, w.2.1)), p) :: groupByCw t := by
  induction l with
  | nil => exact absurd rfl hne
  | cons w l ih =>
    obtain ⟨a, b, q⟩ := w
    obtain ⟨ha, hq⟩ := hl (a, b, q) List.mem_cons_self
    dsimp only at ha hq
    subst ha hq
    cases l with
    | nil =>
      rcases hg : groupByCw t with _ | ⟨⟨c, ws, r⟩, gs⟩
      · simp [groupByCw, hg]
      · have hc : c ≠ a / 8 := ht (c, ws, r) (by rw [hg]; exact List.mem_cons_self)
        simp [groupByCw, hg, hc]
    | cons v l =>
      have ih := ih (by simp) (fun w hw => hl w (List.mem_cons_of_mem _ hw))
      rw [List.cons_append, groupByCw, ih]
      simp

/-- The groups of a run of whole codewords, each of them evenly poisoned: one per codeword. -/
theorem groupByCw_runOf (c k : Nat) (g : Nat → Byte × Nat) (hg : ∀ j, (g j).2 = (g (8 * (j / 8))).2) :
    groupByCw (runOf (8 * c) (8 * k) g) = (List.range k).map (fun x => (c + x, wholeWrites (fun i => (g (8 * x + i)).1), (g (8 * x)).2)) := by
  induction k generalizing c g with
  | zero => rfl
  | succ k ih =>
    have ih := ih (c + 1) (fun j => g (8 + j)) (fun j => by rw [hg (8 + j), hg (8 + 8 * (j / 8))]; congr 2; omega)
    rw [show 8 * (k + 1) = 8 + 8 * k by omega, runOf_add, show 8 * c + 8 = 8 * (c + 1) by omega,
      groupByCw_same (cw := c) (p := (g 0).2) (by simp [runOf, List.range_succ]), ih, List.range_succ_eq_map, List.map_cons, List.map_map]
    · refine List.cons_eq_cons.mpr ⟨?_, List.map_congr_left (fun x _ => ?_)⟩
      · refine Prod.ext rfl (Prod.ext ?_ rfl)
        simp only [runOf, wholeWrites, List.map_map]
        refine List.map_congr_left (fun i hi => ?_)
        rw [List.mem_range] at hi
        simp only [Function.comp_def, Nat.mul_zero, Nat.zero_add]
        rw [show (8 * c + i) % 8 = i by omega]
      · have hj : ∀ i, 8 + (8 * x + i) = 8 * (x + 1) + i := fun i => by omega
        simp only [Function.comp_def, hj, Nat.succ_eq_add_one]
        rw [show 8 + 8 * x = 8 * (x + 1) by omega, show c + 1 + x = c + (x + 1) by omega]
    · intro w hw
      obtain ⟨j, hj, rfl⟩ := List.mem_map.mp hw
      rw [List.mem_range] at hj
      refine ⟨by dsimp only; omega, ?_⟩
      rw [hg j, show 8 * (j / 8) = 0 by omega]
    · rw [ih]
      intro w hw
      obtain ⟨x, -, rfl⟩ := List.mem_map.mp hw
      dsimp only
      omega

theorem wholeWrites_full (g : Nat → Byte) : ((List.range 8).all (fun i => (wholeWrites g).any (fun p => p.1 = i))) = true := by
  refine List.all_eq_true.mpr (fun i hi => List.any_eq_true.mpr ⟨(i, g i), List.mem_map.mpr ⟨i, hi, rfl⟩, ?_⟩)
  simp

/-- A run of whole codewords covers none in part. -/
theorem partials_runOf (c k : Nat) (g : Nat → Byte × Nat) (hg : ∀ j, (g j).2 = (g (8 * (j / 8))).2) : partials (runOf (8 * c) (8 * k) g) = [] := by
  unfold partials
  rw [groupByCw_runOf c k g hg, List.filterMap_eq_nil_iff]
  intro w hw
  obtain ⟨x, -, rfl⟩ := List.mem_map.mp hw
  exact if_pos (wholeWrites_full _)

/-- A codeword written whole delivers what was written, poisoned where any of it was. -/
theorem Mem.merge_whole (m : Mem) (cw p : Nat) (g : Nat → Byte) (a : Nat) (ha : a / 8 = cw) :
    (m.merge cw (wholeWrites g) p).fetch a = (g (a % 8), if p = 0 then 0 else 2) := by
  have hi : a % 8 < 8 := Nat.mod_lt _ (by norm_num)
  have hbyte : ((wholeWrites g).foldl (fun (x : Byte) (q : Nat × Byte) => if q.1 = a % 8 then q.2 else x) 0) = g (a % 8) := by
    generalize a % 8 = i at hi
    interval_cases i <;> rfl
  unfold Mem.merge
  simp only [wholeWrites_full, if_true, Nat.max_zero]
  generalize hv : BitVec.ofNat 64 ((wholeWrites g).foldl (fun v (q : Nat × Byte) => v - v / 2 ^ (8 * q.1) % 256 * 2 ^ (8 * q.1) + q.2.toNat * 2 ^ (8 * q.1)) 0) = v
  have hvb : v.toNat / 2 ^ (8 * (a % 8)) % 256 = (g (a % 8)).toNat := by
    have hd : ∀ n : Nat, (BitVec.ofNat 64 n).toNat / 2 ^ (8 * (a % 8)) % 256 = n / 2 ^ (8 * (a % 8)) % 256 := by
      intro n
      rw [BitVec.toNat_ofNat]
      generalize a % 8 = k at hi
      interval_cases k <;> simp <;> omega
    rw [← hv, hd, put_bytes, Nat.zero_div, Nat.zero_mod]
    have := lastByte_nat (wholeWrites g) (a % 8) 0
    rw [hbyte] at this
    exact this
  have hcarried : (m.writeCw cw v p).carried cw = v := by
    unfold Mem.carried
    rw [Mem.writeCw_read_same, Mem.writeCw_word, Mem.writeCw_flips, if_pos rfl, if_pos rfl]
    simp
  unfold Mem.fetch
  rw [ha, hcarried, Mem.writeCw_read_same]
  refine Prod.ext ?_ ?_
  · apply BitVec.eq_of_toNat_eq
    rw [BitVec.toNat_ofNat]
    exact hvb
  · simp only [CwRead.psn]
    rcases p with _ | p
    · simp
    · simp

/-- A memory after a run of whole codewords. A poison level is that of a read: 0 or 2. -/
theorem Mem.write_runOf (m : Mem) (c k : Nat) (g : Nat → Byte × Nat) (hg : ∀ j, (g j).2 = (g (8 * (j / 8))).2) (hp : ∀ j, (g j).2 = 0 ∨ (g j).2 = 2) (a : Nat) :
    (m.write (runOf (8 * c) (8 * k) g)).fetch a = if 8 * c ≤ a ∧ a < 8 * c + 8 * k then g (a - 8 * c) else m.fetch a := by
  unfold Mem.write
  rw [groupByCw_runOf c k g hg]
  induction k with
  | zero => rw [if_neg (by omega)]; rfl
  | succ k ih =>
    rw [List.range_succ, List.map_append, List.foldl_append]
    simp only [List.map_cons, List.map_nil, List.foldl_cons, List.foldl_nil]
    by_cases ha : a / 8 = c + k
    · have hin : 8 * c ≤ a ∧ a < 8 * c + 8 * (k + 1) := by omega
      have e : a - 8 * c = 8 * k + a % 8 := by omega
      have hk : (g (8 * k + a % 8)).2 = (g (8 * k)).2 := by rw [hg, show 8 * ((8 * k + a % 8) / 8) = 8 * k by omega]
      rw [Mem.merge_whole _ _ _ _ _ ha, if_pos hin, e]
      refine Prod.ext rfl ?_
      rw [hk]
      rcases hp (8 * k) with h | h <;> simp [h]
    · have hother : ∀ (m : Mem) (ws : List (Nat × Byte)) (p : Nat), (m.merge (c + k) ws p).fetch a = m.fetch a := by
        intro m ws p
        unfold Mem.fetch
        rw [Mem.merge_read_other _ _ _ ha]
        unfold Mem.merge
        rw [Mem.writeCw_carried_other _ _ _ ha]
      rw [hother, ih]
      exact if_congr (by omega) rfl rfl

/-- What one read delivers of a codeword is poisoned as a whole. -/
theorem Mem.fetch_even (m : Mem) (a : Nat) : (m.fetch a).2 = (m.fetch (8 * (a / 8))).2 ∧ ((m.fetch a).2 = 0 ∨ (m.fetch a).2 = 2) := by
  unfold Mem.fetch CwRead.psn
  constructor
  · rw [show 8 * (a / 8) / 8 = a / 8 by omega]
  · dsimp only
    split <;> simp

/-- Bytes delivered by reads, written from an address on, are a run. -/
theorem moved_range (dst n : Nat) (f : Nat → Byte × Nat) : moved dst ((List.range n).map f) = runOf dst n f := by
  unfold moved runOf
  refine List.ext_getElem (by simp) (fun j h1 h2 => ?_)
  simp

/-! ### Work in flight that ends, in whatever order it comes about -/

/-- How much is still to come of some work, `μ` saying it of each piece. -/
def toCome (μ : Work → Nat) (l : List Flight) : Nat := (l.map (fun x => μ x.work)).sum

@[simp] theorem toCome_nil (μ : Work → Nat) : toCome μ [] = 0 := rfl

@[simp] theorem toCome_append (μ : Work → Nat) (l r : List Flight) : toCome μ (l ++ r) = toCome μ l + toCome μ r := by simp [toCome]

@[simp] theorem toCome_cons (μ : Work → Nat) (x : Flight) (l : List Flight) : toCome μ (x :: l) = μ x.work + toCome μ l := by simp [toCome]

theorem toCome_perm {μ : Work → Nat} {l r : List Flight} (h : l.Perm r) : toCome μ l = toCome μ r := (h.map _).sum_eq

theorem le_toCome (μ : Work → Nat) {l : List Flight} {x : Flight} (h : x ∈ l) : μ x.work ≤ toCome μ l :=
  List.single_le_sum (by simp) _ (List.mem_map.mpr ⟨x, h, rfl⟩)

/-- What holds of a part and of its work in flight, in whatever order the work comes about: `P` does not look at the order or at the clock, and each piece of work
keeps it, with less to come than before and within 1,024 cycles. -/
structure Anyhow (μ : Work → Nat) (P : List Work → State → Prop) : Prop where
  perm : ∀ {ws vs : List Work} {s : State}, ws.Perm vs → P ws s → P vs s
  clock : ∀ {ws : List Work} {s : State} (l : List Flight) (y : Nat) (f : List (Nat × Nat)), P ws s → P ws { s with fab := { s.fab with flight := l, cyc := y, fresh := f } }
  step : ∀ {w : Work} {ws : List Work} {s : State} (c : Nat), P (w :: ws) s → ∃ new : List Flight,
    (runWork c w s).fab.flight = s.fab.flight ++ new ∧ P (new.map (fun x => x.work) ++ ws) (runWork c w s) ∧ toCome μ new < μ w ∧ ∀ x ∈ new, x.c ≤ c + 1024

/-- No piece of work, nor what it begins, lasts to cycle `e`. -/
def EndsBy (μ : Work → Nat) (e : Nat) (l : List Flight) : Prop := ∀ x ∈ l, x.c + 1024 * μ x.work < e

section anyhow
variable {μ : Work → Nat} {P : List Work → State → Prop} {e : Nat} (A : Anyhow μ P)
include A

/-- The work of one place in time comes about. -/
theorem Anyhow.place {now : List Flight} {ws : List Work} {s : State} (h : P (now.map (fun x => x.work) ++ ws) s) (he : EndsBy μ e now) :
    ∃ new, (now.foldl (fun t x => runWork x.c x.work t) s).fab.flight = s.fab.flight ++ new ∧
      P (new.map (fun x => x.work) ++ ws) (now.foldl (fun t x => runWork x.c x.work t) s) ∧ toCome μ new + now.length ≤ toCome μ now ∧ EndsBy μ e new := by
  induction now generalizing ws s with
  | nil => exact ⟨[], by simp, h, by simp [toCome], fun x hx => absurd hx List.not_mem_nil⟩
  | cons x now ih =>
    obtain ⟨new1, hf1, hP1, hw1, hc1⟩ := A.step (w := x.work) (ws := now.map (fun x => x.work) ++ ws) x.c h
    have hx : x.c + 1024 * μ x.work < e := he x List.mem_cons_self
    have he1 : EndsBy μ e new1 := fun y hy => by
      have := le_toCome μ hy
      have := hc1 y hy
      omega
    have hP1 : P (now.map (fun x => x.work) ++ (new1.map (fun x => x.work) ++ ws)) (runWork x.c x.work s) := by
      refine A.perm ?_ hP1
      rw [← List.append_assoc, ← List.append_assoc]
      exact (List.perm_append_comm).append_right ws
    obtain ⟨new2, hf2, hP2, hw2, he2⟩ := ih hP1 (fun y hy => he y (List.mem_cons_of_mem _ hy))
    refine ⟨new1 ++ new2, ?_, ?_, ?_, ?_⟩
    · rw [List.foldl_cons, hf2, hf1, List.append_assoc]
    · rw [List.foldl_cons, List.map_append]
      refine A.perm ?_ hP2
      rw [← List.append_assoc]
      exact (List.perm_append_comm).append_right ws
    · rw [toCome_append, toCome_cons, List.length_cons]
      omega
    · intro y hy
      exact (List.mem_append.mp hy).elim (he1 y) (he2 y)

/-- One place in time: what was in flight elsewhere stays, and less is to come. -/
theorem Anyhow.runPlace {s : State} (h : P (s.fab.flight.map (fun x => x.work)) s) (he : EndsBy μ e s.fab.flight) {c phase : Nat}
    (hnow : ∃ x ∈ s.fab.flight, x.c = c ∧ x.phase = phase) :
    P ((runPlace c phase s).fab.flight.map (fun x => x.work)) (runPlace c phase s) ∧ EndsBy μ e (runPlace c phase s).fab.flight ∧
      toCome μ (runPlace c phase s).fab.flight < toCome μ s.fab.flight := by
  unfold Machine.runPlace
  generalize hn : s.fab.flight.filter (fun x => decide (x.c = c ∧ x.phase = phase)) = now
  generalize hr : s.fab.flight.filter (fun x => decide (¬(x.c = c ∧ x.phase = phase))) = rest
  have hperm : (now ++ rest).Perm s.fab.flight := by
    rw [← hn, ← hr]
    have := List.filter_append_perm (fun x : Flight => decide (x.c = c ∧ x.phase = phase)) s.fab.flight
    simpa using this
  have hpos : 0 < now.length := by
    obtain ⟨x, hx, hxc⟩ := hnow
    exact List.length_pos_of_mem (a := x) (by rw [← hn]; exact List.mem_filter.mpr ⟨hx, by simpa using hxc⟩)
  obtain ⟨y, f, hy⟩ := reachCycle_only { s with fab := { s.fab with flight := rest } } c
  have hP : P (now.map (fun x => x.work) ++ rest.map (fun x => x.work)) { s with fab := { s.fab with flight := rest, cyc := y, fresh := f } } := by
    refine A.clock rest y f (A.perm ?_ h)
    rw [← List.map_append]
    exact (hperm.map _).symm
  obtain ⟨new, hf, hPn, hw, hen⟩ := A.place hP (fun x hx => he x (hperm.mem_iff.mp (List.mem_append_left _ hx)))
  dsimp only
  rw [hy]
  rw [hf]
  refine ⟨A.perm ?_ hPn, fun x hx => ?_, ?_⟩
  · rw [List.map_append]
    exact List.perm_append_comm
  · rcases List.mem_append.mp hx with hx | hx
    · exact he x (hperm.mem_iff.mp (List.mem_append_right _ hx))
    · exact hen x hx
  · have := toCome_perm (μ := μ) hperm
    rw [toCome_append] at this ⊢
    dsimp only
    omega

/-- All of it comes about. -/
theorem Anyhow.settle {c phase n : Nat} (hec : e ≤ c) {s : State} (h : P (s.fab.flight.map (fun x => x.work)) s) (he : EndsBy μ e s.fab.flight)
    (hn : toCome μ s.fab.flight < n) : (settle n c phase s).fab.flight = [] ∧ P [] (settle n c phase s) := by
  induction n generalizing s with
  | zero => omega
  | succ n ih =>
    have hdue : s.fab.flight.filter (fun x => x.by c phase) = s.fab.flight := by
      refine List.filter_eq_self.mpr (fun x hx => ?_)
      have := he x hx
      simp only [Flight.by, decide_eq_true_eq]
      omega
    cases hl : s.fab.flight with
    | nil =>
      have hs : Machine.settle (n + 1) c phase s = s := by simp [Machine.settle, hl, firstOf]
      rw [hl] at h
      rw [hs]
      exact ⟨hl, h⟩
    | cons x t =>
      obtain ⟨m, hm⟩ := firstOf_cons x t
      rw [← hl] at hm
      obtain ⟨hex, -⟩ := firstOf_spec hm
      rw [← hdue] at hm
      rw [settle_first hm]
      obtain ⟨hP, hE, hW⟩ := A.runPlace h he hex
      exact ih hP hE (by omega)

/-- A word that begins with nothing else in flight leaves what holds once all of it has come about. -/
theorem Anyhow.settleAll {u : State} (hu : u.fab.flight = []) {c phase : Nat} {w : Work} (h : P [w] { u with wire := [] }) (hc : c < 2 ^ 16) (hw : μ w < 2 ^ 39) :
    (settleAll (u.later c phase w)).fab.flight = [] ∧ P [] (settleAll (u.later c phase w)) := by
  have hP : P [w] { u.later c phase w with wire := [] } := A.clock (s := { u with wire := [] }) (u.fab.flight ++ [(⟨c, phase, w⟩ : Flight)]) u.fab.cyc u.fab.fresh h
  unfold Machine.settleAll
  refine A.settle (e := 2 ^ 60) (by norm_num) ?_ ?_ ?_
  all_goals simp only [State.later, hu, List.nil_append] at hP ⊢
  · exact hP
  · intro x hx
    rw [List.mem_singleton.mp hx]
    dsimp only
    omega
  · simp only [toCome_cons, toCome_nil]
    omega

end anyhow

end Sys2Proof.Machine

/-! SUPPORT. Words that move bytes of a memory: what their reads and writes come to, in whatever order these come about. -/

namespace Sys2Proof.Machine

/-! ### Addresses that reach what they name -/

section reach
variable {s : State} {loc a : Nat}

theorem reach_own (h : s.aliasPair loc a = none ∧ s.fitAlias loc a = none) : s.reach loc false a = a := by
  unfold State.reach
  simp [h.1, h.2]

theorem held_reach_own (x : Held) (h : s.aliasPair loc a = none ∧ s.fitAlias loc a = none) : (s.held x).reach loc false a = a :=
  reach_own (s := s.held x) h

end reach

theorem bayKey_run {d a j : Nat} (h : 8 * a + j < 2 ^ 23) : bayKey d (8 * a + j) = 8 * (d * 2 ^ 20 + a) + j := by
  unfold bayKey
  rw [Nat.mod_eq_of_lt h]
  omega

/-! ### Runs that a bay is written with -/

/-- A run of whole codewords of a bay, each byte as `new` gives it. -/
def BayRun (new : Nat → Byte × Nat) (d : Nat) (ws : List (Nat × Byte × Nat)) : Prop :=
  ∃ a k, 0 < k ∧ 8 * a + 8 * k ≤ 2 ^ 23 ∧ ws = runOf (8 * a) (8 * k) (fun j => new (bayKey d (8 * a + j)))

/-- Each codeword is poisoned as a whole, as a read delivers it. -/
def Even (new : Nat → Byte × Nat) : Prop := ∀ b, (new b).2 = (new (8 * (b / 8))).2 ∧ ((new b).2 = 0 ∨ (new b).2 = 2)

/-- A memory after a run of whole codewords, each byte as `new` gives it. -/
theorem write_run {new : Nat → Byte × Nat} (hn : Even new) (m : Mem) (c k : Nat) :
    let ws := runOf (8 * c) (8 * k) (fun j => new (8 * c + j))
    partials ws = [] ∧ ∀ b, (m.write ws).fetch b = if ∃ w ∈ ws, w.1 = b then new b else m.fetch b := by
  have hev : ∀ j, (new (8 * c + j)).2 = (new (8 * c + 8 * (j / 8))).2 := fun j => by
    rw [(hn _).1]
    congr 2
    omega
  refine ⟨partials_runOf c k _ hev, fun b => ?_⟩
  rw [Mem.write_runOf _ _ _ _ hev (fun j => (hn _).2)]
  have hin : (∃ w ∈ runOf (8 * c) (8 * k) (fun j => new (8 * c + j)), w.1 = b) ↔ 8 * c ≤ b ∧ b < 8 * c + 8 * k := by
    simp only [runOf, List.mem_map, List.mem_range]
    constructor
    · rintro ⟨w, ⟨j, hj, rfl⟩, rfl⟩
      dsimp only
      omega
    · rintro ⟨h1, h2⟩
      exact ⟨_, ⟨b - 8 * c, by omega, rfl⟩, by dsimp only; omega⟩
  by_cases hb : 8 * c ≤ b ∧ b < 8 * c + 8 * k
  · rw [if_pos hb, if_pos (hin.mpr hb), show 8 * c + (b - 8 * c) = b by omega]
  · rw [if_neg hb, if_neg (fun h => hb (hin.mp h))]

section run
variable {new : Nat → Byte × Nat} {d : Nat} {ws : List (Nat × Byte × Nat)}

theorem BayRun.ne_nil (h : BayRun new d ws) : ws ≠ [] := by
  obtain ⟨a, k, hk, -, rfl⟩ := h
  simp [runOf]
  omega

theorem BayRun.addr_lt (h : BayRun new d ws) : ∀ w ∈ ws, w.1 < 2 ^ 23 := by
  obtain ⟨a, k, hk, hlt, rfl⟩ := h
  intro w hw
  obtain ⟨j, hj, rfl⟩ := List.mem_map.mp hw
  rw [List.mem_range] at hj
  dsimp only
  omega

/-- The run under the keys of the memory that holds all bays. -/
theorem BayRun.keys (h : BayRun new d ws) : ∃ c k, ws.map (fun w => (bayKey d w.1, w.2)) = runOf (8 * c) (8 * k) (fun j => new (8 * c + j)) := by
  obtain ⟨a, k, hk, hlt, rfl⟩ := h
  refine ⟨d * 2 ^ 20 + a, k, ?_⟩
  unfold runOf
  rw [List.map_map]
  refine List.map_congr_left (fun j hj => ?_)
  rw [List.mem_range] at hj
  simp only [Function.comp_def]
  rw [bayKey_run (by omega)]

/-- A write of a run comes to its issue cycle: where the spar owns what it writes, it lands as it is. -/
theorem storeNow_run (h : BayRun new d ws) {s : State} (hp : ∀ a, s.aliasPair 1 a = none ∧ s.fitAlias 1 a = none)
    (ho : ∀ g ∈ s.fab.segs, g.spar = d → g.st = .sparOwned) (x : Held) (u : Nat) :
    s.storeNow x u d ws [] = s.later (u + 4) 0 (.land d x.fg u ws []) := by
  have hf : ∀ a, s.foreignSeg d a = none := by
    intro a
    unfold State.foreignSeg
    rw [List.find?_eq_none]
    intro g hg
    simp only [decide_eq_true_eq]
    exact fun hc => hc.2.1 (ho g hg hc.1)
  rw [storeNow_own s x u d ws [] h.ne_nil (fun w _ => hf _), List.map_nil]
  have hw : ws.map (fun w => ((s.held x).reach 1 false w.1 % 2 ^ 23, w.2)) = ws := by
    refine (List.map_congr_left (fun w hw => ?_)).trans (List.map_id ws)
    rw [held_reach_own x (hp w.1), Nat.mod_eq_of_lt (h.addr_lt w hw)]
    rfl
  rw [hw]

/-- A run lands: nothing but its bytes, and the line signature where the foreground wrote them. -/
theorem landNow_run (hn : Even new) (h : BayRun new d ws) (s : State) (fg : Bool) (u : Nat) : ∃ m es,
    s.landNow d fg u ws [] = { s with fab := { s.fab with loft := m }, rcd := { s.rcd with entries := es } } ∧
      m = s.fab.loft.write (ws.map (fun w => (bayKey d w.1, w.2))) ∧
      ∀ b, m.fetch b = if ∃ w ∈ ws, bayKey d w.1 = b then new b else s.fab.loft.fetch b := by
  have hm : s.merged d ws [] = ws := by unfold State.merged; simp
  obtain ⟨c, k, hk⟩ := h.keys
  obtain ⟨hpart, hfetch⟩ := write_run hn s.fab.loft c k
  rw [← hk] at hpart hfetch
  have hl : s.loftMerge d (ws.map (fun w => (bayKey d w.1, w.2))) = s := by
    unfold State.loftMerge
    rw [hpart]
    exact ite_self s
  have hb : ∀ b, (∃ w ∈ ws.map (fun w => (bayKey d w.1, w.2)), w.1 = b) ↔ ∃ w ∈ ws, bayKey d w.1 = b := fun b => by simp
  unfold State.landNow
  simp only [hm, hl]
  cases fg
  · exact ⟨_, s.rcd.entries, rfl, rfl, fun b => (hfetch b).trans (if_congr (hb b) rfl rfl)⟩
  · exact ⟨_, _, rfl, rfl, fun b => (hfetch b).trans (if_congr (hb b) rfl rfl)⟩

end run

/-! ### Bytes on their way -/

/-- How many pieces of work are still to come of a word of `n` stages, none of which begins more than 64 writes. -/
def moveLeft (n : Nat) : Work → Nat
  | .stage _ _ k _ => 130 * (n - k)
  | .store .. => 2
  | .land .. => 1
  | .hbm _ => 1
  | _ => 0

/-- The bytes that a piece of work is still to write, a stage those that `T` gives. -/
def Writes (T : Nat → Nat → Prop) : Work → Nat → Prop
  | .stage _ _ k _, b => T k b
  | .store _ d ws _, b => ∃ w ∈ ws, bayKey d w.1 = b
  | .land d _ _ ws _, b => ∃ w ∈ ws, bayKey d w.1 = b
  | .hbm ws, b => ∃ w ∈ ws, w.1 = b
  | _, _ => False

/-- A memory whose bytes come from `old` to `new`: each reads as one of the two, and as `old` only while some work is still to write it. -/
structure Moving (T : Nat → Nat → Prop) (old new : Nat → Byte × Nat) (ws : List Work) (m : Mem) : Prop where
  between : ∀ b, m.fetch b = old b ∨ m.fetch b = new b
  left : ∀ b, m.fetch b = new b ∨ ∃ w ∈ ws, Writes T w b

section moving
variable {T : Nat → Nat → Prop} {old new : Nat → Byte × Nat} {ws : List Work} {m : Mem}

theorem Moving.perm {vs : List Work} (h : Moving T old new ws m) (hp : ws.Perm vs) : Moving T old new vs m :=
  ⟨h.between, fun b => (h.left b).imp id (fun ⟨w, hw, hb⟩ => ⟨w, hp.mem_iff.mp hw, hb⟩)⟩

/-- Some work leaves what it was to write to what it began. -/
theorem Moving.begins {w : Work} (h : Moving T old new (w :: ws) m) {vs : List Work} (hv : ∀ b, Writes T w b → ∃ v ∈ vs, Writes T v b) :
    Moving T old new (vs ++ ws) m := by
  refine ⟨h.between, fun b => (h.left b).imp id ?_⟩
  rintro ⟨x, hx, hb⟩
  rcases List.mem_cons.mp hx with rfl | hx
  · obtain ⟨v, hv, hb⟩ := hv b hb
    exact ⟨v, List.mem_append_left _ hv, hb⟩
  · exact ⟨x, List.mem_append_right _ hx, hb⟩

/-- Some work writes what it was to write. -/
theorem Moving.lands {w : Work} (h : Moving T old new (w :: ws) m) {m' : Mem} {p : Nat → Prop} [DecidablePred p] (hw : ∀ b, Writes T w b → p b)
    (hm : ∀ b, m'.fetch b = if p b then new b else m.fetch b) : Moving T old new ws m' := by
  constructor
  · intro b
    rw [hm]
    split
    · exact .inr rfl
    · exact h.between b
  · intro b
    rw [hm]
    split
    next => exact .inl rfl
    next hb =>
      refine (h.left b).imp id ?_
      rintro ⟨x, hx, hxb⟩
      rcases List.mem_cons.mp hx with rfl | hx
      · exact absurd (hw b hxb) hb
      · exact ⟨x, hx, hxb⟩

/-- Once nothing is in flight, every byte is what it was to become. -/
theorem Moving.done (h : Moving T old new [] m) (b : Nat) : m.fetch b = new b := (h.left b).resolve_right (by simp)

end moving

/-! ### Words that write bays -/

/-- A word that moves bytes to bays: which stages may come (`S`), what they are still to write (`T`), and what holds of the part beside its bays (`Fr`). Each
stage reads what it needs and begins writes. `sound`: the bays hold no marks, now and at the end. -/
structure BayMove (i : Issue) (h : Held) (O : Nat → Prop) (Fr : State → Prop) (sound : Prop) (old new : Nat → Byte × Nat) (S : Nat → List (Nat × Nat) → Prop) (T : Nat → Nat → Prop)
    (n : Nat) : Prop where
  even : Even new
  clean : sound → ∀ b, (new b).2 = 0
  plain : ∀ {t : State}, Fr t → ∀ a, t.aliasPair 1 a = none ∧ t.fitAlias 1 a = none
  own : ∀ {t : State}, Fr t → ∀ d, O d → ∀ g ∈ t.fab.segs, g.spar = d → g.st = .sparOwned
  keep : ∀ {t : State} (m : Mem) (es : List SigEntry) (l : List Flight) (y : Nat) (f : List (Nat × Nat)), Fr t →
    Fr { t with fab := { t.fab with loft := m, flight := l, cyc := y, fresh := f }, rcd := { t.rcd with entries := es } }
  stage : ∀ {t : State} {k : Nat} {acc : List (Nat × Nat)} (c : Nat), S k acc → Fr t → (∀ b, t.fab.loft.fetch b = old b ∨ t.fab.loft.fetch b = new b) →
    (sound → t.fab.loft.Clean) → ∃ (t' : State) (sts : List (Nat × Nat × List (Nat × Byte × Nat))) (nxt : List (Nat × List (Nat × Nat))),
      let new' := sts.map (fun x => (⟨x.1, 3, .store h x.2.1 x.2.2 []⟩ : Flight)) ++ nxt.map (fun x => ⟨c + 1, 3, .stage i h x.1 x.2⟩)
      runWork c (.stage i h k acc) t = { t' with fab := { t'.fab with flight := t.fab.flight ++ new' } } ∧ Fr t' ∧ t'.fab.loft = t.fab.loft ∧
      (∀ x ∈ sts, x.1 ≤ c + 1024 ∧ O x.2.1 ∧ BayRun new x.2.1 x.2.2) ∧ (∀ x ∈ nxt, S x.1 x.2) ∧
      (∀ b, T k b → (∃ x ∈ sts, ∃ w ∈ x.2.2, bayKey x.2.1 w.1 = b) ∨ ∃ x ∈ nxt, T x.1 b) ∧ sts.length ≤ 64 ∧ nxt.length ≤ 1 ∧ k < n ∧ ∀ x ∈ nxt, x.1 = k + 1

/-- What may be in flight of such a word. -/
def BayWork (i : Issue) (h : Held) (O : Nat → Prop) (new : Nat → Byte × Nat) (S : Nat → List (Nat × Nat) → Prop) : Work → Prop
  | .stage j g k acc => j = i ∧ g = h ∧ S k acc
  | .store g d ws keep => g = h ∧ keep = [] ∧ O d ∧ BayRun new d ws
  | .land d _ _ ws keep => keep = [] ∧ O d ∧ BayRun new d ws
  | _ => False

/-- What holds of the part while such a word comes about. -/
structure InMove (i : Issue) (h : Held) (O : Nat → Prop) (Fr : State → Prop) (sound : Prop) (old new : Nat → Byte × Nat) (S : Nat → List (Nat × Nat) → Prop) (T : Nat → Nat → Prop)
    (ws : List Work) (t : State) : Prop where
  frame : Fr t
  works : ∀ w ∈ ws, BayWork i h O new S w
  moving : Moving T old new ws t.fab.loft
  sound : sound → t.fab.loft.Clean

section baymove
variable {i : Issue} {h : Held} {O : Nat → Prop} {Fr : State → Prop} {sound : Prop} {old new : Nat → Byte × Nat} {S : Nat → List (Nat × Nat) → Prop} {T : Nat → Nat → Prop} {n : Nat}
  (B : BayMove i h O Fr sound old new S T n)
include B

/-- A stage comes about. -/
theorem BayMove.stepStage {ws : List Work} {t : State} {k : Nat} {acc : List (Nat × Nat)} (c : Nat)
    (hP : InMove i h O Fr sound old new S T (.stage i h k acc :: ws) t) (hS : S k acc) : ∃ fl : List Flight,
    (runWork c (.stage i h k acc) t).fab.flight = t.fab.flight ++ fl ∧
      InMove i h O Fr sound old new S T (fl.map (fun x => x.work) ++ ws) (runWork c (.stage i h k acc) t) ∧
      toCome (moveLeft n) fl < moveLeft n (.stage i h k acc) ∧ ∀ x ∈ fl, x.c ≤ c + 1024 := by
  obtain ⟨hFr, hW, hM, hC⟩ := hP
  obtain ⟨t', sts, nxt, hrun, hFr', hloft, hsts, hnxt, hT, hl1, hl2, hk, hk1⟩ := B.stage c hS hFr hM.between hC
  have hsum1 : toCome (moveLeft n) (sts.map (fun x => (⟨x.1, 3, .store h x.2.1 x.2.2 []⟩ : Flight))) = 2 * sts.length := by
    simp [toCome, moveLeft, Function.comp_def, Nat.mul_comm]
  have hsum2 : toCome (moveLeft n) (nxt.map (fun x => (⟨c + 1, 3, .stage i h x.1 x.2⟩ : Flight))) ≤ 130 * (n - (k + 1)) := by
    match nxt, hl2, hk1 with
    | [], _, _ => simp [toCome]
    | [x], _, hk1 => simp [toCome, moveLeft, hk1 x (by simp)]
  refine ⟨_, by rw [hrun], ⟨?_, ?_, ?_, ?_⟩, ?_, ?_⟩
  · rw [hrun]
    exact B.keep t'.fab.loft t'.rcd.entries _ t'.fab.cyc t'.fab.fresh hFr'
  · intro w hw
    rcases List.mem_append.mp hw with hw | hw
    · obtain ⟨x, hx, rfl⟩ := List.mem_map.mp hw
      rcases List.mem_append.mp hx with hx | hx
      · obtain ⟨y, hy, rfl⟩ := List.mem_map.mp hx
        obtain ⟨-, hO, hR⟩ := hsts y hy
        exact ⟨rfl, rfl, hO, hR⟩
      · obtain ⟨y, hy, rfl⟩ := List.mem_map.mp hx
        exact ⟨rfl, rfl, hnxt y hy⟩
    · exact hW w (List.mem_cons_of_mem _ hw)
  · rw [hrun]
    dsimp only
    rw [hloft]
    refine hM.begins (fun b hb => ?_)
    rcases hT b hb with ⟨x, hx, hw⟩ | ⟨x, hx, hxT⟩
    · exact ⟨_, List.mem_map.mpr ⟨_, List.mem_append_left _ (List.mem_map.mpr ⟨x, hx, rfl⟩), rfl⟩, hw⟩
    · exact ⟨_, List.mem_map.mpr ⟨_, List.mem_append_right _ (List.mem_map.mpr ⟨x, hx, rfl⟩), rfl⟩, hxT⟩
  · rw [hrun]
    dsimp only
    rw [hloft]
    exact hC
  · rw [toCome_append]
    dsimp only [moveLeft]
    omega
  · intro x hx
    rcases List.mem_append.mp hx with hx | hx
    · obtain ⟨y, hy, rfl⟩ := List.mem_map.mp hx
      exact (hsts y hy).1
    · obtain ⟨y, hy, rfl⟩ := List.mem_map.mp hx
      dsimp only
      omega

/-- Such a word comes about in whatever order. -/
theorem BayMove.anyhow : Anyhow (moveLeft n) (InMove i h O Fr sound old new S T) where
  perm := fun hp hP => ⟨hP.frame, fun w hw => hP.works w (hp.mem_iff.mpr hw), hP.moving.perm hp, hP.sound⟩
  clock := fun {_ s} l y f hP => ⟨B.keep s.fab.loft s.rcd.entries l y f hP.frame, hP.works, hP.moving, hP.sound⟩
  step := by
    intro w ws s c hP
    have hw := hP.works w List.mem_cons_self
    have hrest := fun v hv => hP.works v (List.mem_cons_of_mem w hv)
    cases w with
    | stage j g k acc =>
      obtain ⟨rfl, rfl, hS⟩ := hw
      exact B.stepStage c hP hS
    | store g d vs keep =>
      obtain ⟨rfl, rfl, hO, hR⟩ := hw
      have hrun : runWork c (.store g d vs []) s = s.later (c + 4) 0 (.land d g.fg c vs []) :=
        storeNow_run hR (B.plain hP.frame) (B.own hP.frame d hO) g c
      rw [hrun]
      refine ⟨[⟨c + 4, 0, .land d g.fg c vs []⟩], rfl, ⟨?_, ?_, ?_, hP.sound⟩, by simp [toCome, moveLeft], by simp⟩
      · exact B.keep s.fab.loft s.rcd.entries _ s.fab.cyc s.fab.fresh hP.frame
      · intro v hv
        rcases List.mem_cons.mp hv with rfl | hv
        · exact ⟨rfl, hO, hR⟩
        · exact hrest v hv
      · exact hP.moving.begins (fun b hb => ⟨.land d g.fg c vs [], by simp, hb⟩)
    | land d fg v vs keep =>
      obtain ⟨rfl, hO, hR⟩ := hw
      obtain ⟨m, es, hrun, hm, hfetch⟩ := landNow_run B.even hR s fg v
      have hrun : runWork c (.land d fg v vs []) s = _ := hrun
      rw [hrun]
      refine ⟨[], by simp, ⟨?_, hrest, ?_, ?_⟩, by simp [toCome, moveLeft], by simp⟩
      · exact B.keep m es s.fab.flight s.fab.cyc s.fab.fresh hP.frame
      · exact hP.moving.lands (p := fun b => ∃ w ∈ vs, bayKey d w.1 = b) (fun b hb => hb) hfetch
      · intro hs
        dsimp only
        rw [hm]
        refine Mem.write_clean (hP.sound hs) _ ?_
        obtain ⟨a, k, -, -, rfl⟩ := hR
        intro w hw
        obtain ⟨x, hx, rfl⟩ := List.mem_map.mp hw
        obtain ⟨j, -, rfl⟩ := List.mem_map.mp hx
        exact B.clean hs _
    | _ => exact hw.elim

end baymove

end Sys2Proof.Machine

/-! SUPPORT. The words that copy bytes to bays, RIG, LSC, IDXR and LDH, as pieces of one run. -/

namespace Sys2Proof.Machine

/-! ### A run of bytes put down in several bays -/

/-- The bytes of all bays with the bytes `src` standing in `len` bytes from `dst` of the bays `ds`. -/
def landed (old : Nat → Byte × Nat) (ds : List Nat) (dst len : Nat) (src : Nat → Byte × Nat) (b : Nat) : Byte × Nat :=
  if b / 2 ^ 23 ∈ ds ∧ dst ≤ b % 2 ^ 23 ∧ b % 2 ^ 23 < dst + len then src (b % 2 ^ 23 - dst) else old b

/-- The keys of those bytes from the p-th on. -/
def toLand (ds : List Nat) (dst len p b : Nat) : Prop := b / 2 ^ 23 ∈ ds ∧ dst + p ≤ b % 2 ^ 23 ∧ b % 2 ^ 23 < dst + len

theorem bayKey_spar {d a : Nat} : bayKey d a / 2 ^ 23 = d ∧ bayKey d a % 2 ^ 23 = a % 2 ^ 23 := by
  unfold bayKey
  omega

/-- The writes of the bytes [p, p + n) of the run. -/
def piece (dst p n : Nat) (src : Nat → Byte × Nat) : List (Nat × Byte × Nat) := moved (dst + p) ((List.range n).map (fun j => src (p + j)))

theorem piece_nil_iff (dst p n : Nat) (src : Nat → Byte × Nat) : piece dst p n src = [] ↔ n = 0 := by
  unfold piece
  rw [moved_range]
  simp [runOf]

section landed
variable {old : Nat → Byte × Nat} {ds : List Nat} {dst len : Nat} {src : Nat → Byte × Nat}

theorem landed_bay {d a : Nat} (ha : a < 2 ^ 23) :
    landed old ds dst len src (bayKey d a) = if d ∈ ds ∧ dst ≤ a ∧ a < dst + len then src (a - dst) else old (bayKey d a) := by
  unfold landed
  rw [bayKey_spar.1, bayKey_spar.2, Nat.mod_eq_of_lt ha]

theorem landed_even (ho : Even old) (hs : Even src) (hd : dst % 8 = 0) (hl : len % 8 = 0) : Even (landed old ds dst len src) := by
  intro b
  have h1 : 8 * (b / 8) / 2 ^ 23 = b / 2 ^ 23 := by omega
  have h2 : 8 * (b / 8) % 2 ^ 23 = 8 * (b % 2 ^ 23 / 8) := by omega
  unfold landed
  rw [h1, h2]
  by_cases hb : b / 2 ^ 23 ∈ ds ∧ dst ≤ b % 2 ^ 23 ∧ b % 2 ^ 23 < dst + len
  · have hb' : b / 2 ^ 23 ∈ ds ∧ dst ≤ 8 * (b % 2 ^ 23 / 8) ∧ 8 * (b % 2 ^ 23 / 8) < dst + len := ⟨hb.1, by omega, by omega⟩
    rw [if_pos hb, if_pos hb', show 8 * (b % 2 ^ 23 / 8) - dst = 8 * ((b % 2 ^ 23 - dst) / 8) by omega]
    exact hs _
  · have hb' : ¬(b / 2 ^ 23 ∈ ds ∧ dst ≤ 8 * (b % 2 ^ 23 / 8) ∧ 8 * (b % 2 ^ 23 / 8) < dst + len) := fun h => hb ⟨h.1, by omega, by omega⟩
    rw [if_neg hb, if_neg hb']
    exact ho b

theorem landed_clean (ho : ∀ b, (old b).2 = 0) (hs : ∀ b, (src b).2 = 0) (b : Nat) : (landed old ds dst len src b).2 = 0 := by
  unfold landed
  split
  · exact hs _
  · exact ho b

/-- Each piece is a run of whole codewords. -/
theorem piece_run {d p n : Nat} (hd : d ∈ ds) (ha : dst % 8 = 0) (hp : p % 8 = 0) (hn : n % 8 = 0) (h0 : n ≠ 0) (hle : p + n ≤ len) (hlt : dst + len ≤ 2 ^ 23) :
    BayRun (landed old ds dst len src) d (piece dst p n src) := by
  refine ⟨(dst + p) / 8, n / 8, by omega, by omega, ?_⟩
  rw [show 8 * ((dst + p) / 8) = dst + p by omega, show 8 * (n / 8) = n by omega]
  unfold piece
  rw [moved_range]
  unfold runOf
  refine List.map_congr_left (fun j hj => ?_)
  rw [List.mem_range] at hj
  dsimp only
  rw [landed_bay (by omega), if_pos ⟨hd, by omega, by omega⟩, show dst + p + j - dst = p + j by omega]

/-- What is still to land is in the next piece or behind it. -/
theorem toLand_piece {p n b : Nat} (h : toLand ds dst len p b) :
    (n ≠ 0 ∧ ∃ d ∈ ds, ∃ w ∈ piece dst p n src, bayKey d w.1 = b) ∨ toLand ds dst len (p + n) b := by
  obtain ⟨hd, h1, h2⟩ := h
  by_cases hb : b % 2 ^ 23 < dst + p + n
  · refine .inl ⟨by omega, b / 2 ^ 23, hd, ?_⟩
    unfold piece
    rw [moved_range]
    refine ⟨_, List.mem_map.mpr ⟨b % 2 ^ 23 - (dst + p), by rw [List.mem_range]; omega, rfl⟩, ?_⟩
    unfold bayKey
    dsimp only
    omega
  · exact .inr ⟨hd, by omega, h2⟩

end landed

/-! ### What a stage begins -/

/-- The writes to several bays that a stage begins. -/
theorem storeAll_eq (h : Held) (u : Nat) (ws : List (Nat × Byte × Nat)) (ds : List Nat) (s : State) :
    ds.foldl (fun t d => t.storeAt h u d ws []) s =
      { s with fab := { s.fab with flight := s.fab.flight ++ if ws = [] then [] else ds.map (fun d => ⟨u, 3, .store h d ws []⟩) } } := by
  by_cases hw : ws = []
  · have : ∀ (t : State) (d : Nat), t.storeAt h u d ws [] = t := fun t d => if_pos hw
    rw [foldl_fixed _ (fun d _ => this s d), if_pos hw, List.append_nil]
  · rw [if_neg hw]
    induction ds generalizing s with
    | nil => simp
    | cons d t ih =>
      have hd : s.storeAt h u d ws [] = s.later u 3 (.store h d ws []) := if_neg hw
      rw [List.foldl_cons, ih, hd]
      simp [State.later]

theorem nextStage_eq (more : Bool) (i : Issue) (h : Held) (k : Nat) (acc : List (Nat × Nat)) (u : Nat) (s : State) :
    nextStage more i h k acc u s = { s with fab := { s.fab with flight := s.fab.flight ++ if more = true then [⟨u, 3, .stage i h k acc⟩] else [] } } := by
  unfold nextStage
  cases more <;> simp [State.later]

/-- What a stage of a copying word comes to: after what it reads, its piece goes to every receiver, and the next stage follows where one is left. -/
def begins (i : Issue) (h : Held) (ds : List Nat) (k c late : Nat) (ws : List (Nat × Byte × Nat)) (more : Bool) (acc : List (Nat × Nat)) (s : State) : State :=
  nextStage more i h (k + 1) acc (c + 1) (ds.foldl (fun t d => t.storeAt h late d ws []) s)

/-- A word that puts down `len` bytes `src` piece by piece: stage k begins at byte `off k` of them, reads what it needs, and leaves the part as `Fr` says. -/
structure Pieces (i : Issue) (h : Held) (Fr : State → Prop) (sound : Prop) (old : Nat → Byte × Nat) (ds : List Nat) (dst len : Nat) (src : Nat → Byte × Nat)
    (S : Nat → List (Nat × Nat) → Prop) (off : Nat → Nat) (n : Nat) : Prop where
  spars : ds.length ≤ 64 ∧ ∀ d ∈ ds, d < 64
  range : dst % 8 = 0 ∧ len % 8 = 0 ∧ dst + len ≤ 2 ^ 23
  even : Even old ∧ Even src
  clean : sound → (∀ b, (old b).2 = 0) ∧ ∀ b, (src b).2 = 0
  plain : ∀ {t : State}, Fr t → ∀ a, t.aliasPair 1 a = none ∧ t.fitAlias 1 a = none
  own : ∀ {t : State}, Fr t → ∀ d, d ∈ ds → ∀ g ∈ t.fab.segs, g.spar = d → g.st = .sparOwned
  keep : ∀ {t : State} (m : Mem) (es : List SigEntry) (l : List Flight) (y : Nat) (f : List (Nat × Nat)), Fr t →
    Fr { t with fab := { t.fab with loft := m, flight := l, cyc := y, fresh := f }, rcd := { t.rcd with entries := es } }
  offs : ∀ k, off k % 8 = 0
  first : off 0 = 0
  stage : ∀ {t : State} {k : Nat} {acc : List (Nat × Nat)} (c : Nat), S k acc → Fr t →
    (∀ b, t.fab.loft.fetch b = old b ∨ t.fab.loft.fetch b = landed old ds dst len src b) → (sound → t.fab.loft.Clean) → k < n ∧
    ∃ (t' : State) (late m : Nat) (more : Bool) (acc' : List (Nat × Nat)),
      runWork c (.stage i h k acc) t = begins i h ds k c late (piece dst (off k) m src) more acc' t' ∧
      Fr t' ∧ t'.fab.loft = t.fab.loft ∧ t'.fab.flight = t.fab.flight ∧ late ≤ c + 1024 ∧ m % 8 = 0 ∧ off k + m ≤ len ∧
      if more = true then S (k + 1) acc' ∧ off (k + 1) = off k + m else len ≤ off k + m

section pieces
variable {i : Issue} {h : Held} {Fr : State → Prop} {sound : Prop} {old : Nat → Byte × Nat} {ds : List Nat} {dst len : Nat} {src : Nat → Byte × Nat}
  {S : Nat → List (Nat × Nat) → Prop} {off : Nat → Nat} {n : Nat} (C : Pieces i h Fr sound old ds dst len src S off n)
include C

theorem Pieces.bayMove : BayMove i h (· ∈ ds) Fr sound old (landed old ds dst len src) S (fun k => toLand ds dst len (off k)) n where
  even := landed_even C.even.1 C.even.2 C.range.1 C.range.2.1
  clean := fun hs => landed_clean (C.clean hs).1 (C.clean hs).2
  plain := C.plain
  own := C.own
  keep := C.keep
  stage := by
    intro t k acc c hS hFr hM hC
    obtain ⟨hk, t', late, m, more, acc', hrun, hFr', hloft, hfl, hlate, hm, hle, hnext⟩ := C.stage c hS hFr hM hC
    obtain ⟨ha, hl, hlt⟩ := C.range
    refine ⟨t', if m = 0 then [] else ds.map (fun d => (late, d, piece dst (off k) m src)), if more = true then [(k + 1, acc')] else [], ?_⟩
    refine ⟨?_, hFr', hloft, ?_, ?_, ?_, ?_, ?_, hk, ?_⟩
    · rw [hrun]
      unfold begins
      rw [nextStage_eq, storeAll_eq]
      dsimp only
      rw [hfl, List.append_assoc]
      simp only [piece_nil_iff]
      congr 4
      · split <;> simp [Function.comp_def]
      · split <;> rfl
    · intro x hx
      split at hx
      · exact absurd hx List.not_mem_nil
      · obtain ⟨d, hd, rfl⟩ := List.mem_map.mp hx
        exact ⟨hlate, hd, piece_run hd ha (C.offs k) hm ‹_› hle hlt⟩
    · intro x hx
      split at hx
      · rw [List.mem_singleton.mp hx]
        rw [if_pos ‹_›] at hnext
        exact hnext.1
      · exact absurd hx List.not_mem_nil
    · intro b hb
      rcases toLand_piece (n := m) (src := src) hb with ⟨h0, d, hd, hw⟩ | hb
      · refine .inl ⟨(late, d, piece dst (off k) m src), ?_, hw⟩
        rw [if_neg h0]
        exact List.mem_map.mpr ⟨d, hd, rfl⟩
      · cases more
        · rw [if_neg (by simp)] at hnext
          obtain ⟨-, h1, h2⟩ := hb
          omega
        · rw [if_pos rfl] at hnext
          refine .inr ⟨(k + 1, acc'), by simp, ?_⟩
          dsimp only
          rw [hnext.2]
          exact hb
    · split
      · simp
      · simpa using C.spars.1
    · split <;> simp
    · intro x hx
      split at hx
      · rw [List.mem_singleton.mp hx]
      · exact absurd hx List.not_mem_nil

/-- What the word leaves once all of it has come about: the bytes stand where they were to, and the rest of the part is as `Fr` says. -/
theorem Pieces.leaves {u : State} (hu : u.fab.flight = []) {c : Nat} (hc : c < 2 ^ 16) (hFr : Fr { u with wire := [] }) (hold : old = u.fab.loft.fetch) (hS : S 0 [])
    (hn : n < 2 ^ 30) (hs : sound → u.fab.loft.Clean) : let t := settleAll (u.later c 3 (.stage i h 0 []))
    t.fab.flight = [] ∧ Fr t ∧ ∀ b, t.fab.loft.fetch b = landed old ds dst len src b := by
  have hP : InMove i h (· ∈ ds) Fr sound old (landed old ds dst len src) S (fun k => toLand ds dst len (off k)) [.stage i h 0 []] { u with wire := [] } := by
    refine ⟨hFr, ?_, ⟨fun b => .inl (by rw [hold]), fun b => ?_⟩, hs⟩
    · intro w hw
      rw [List.mem_singleton.mp hw]
      exact ⟨rfl, rfl, hS⟩
    · by_cases hb : b / 2 ^ 23 ∈ ds ∧ dst ≤ b % 2 ^ 23 ∧ b % 2 ^ 23 < dst + len
      · refine .inr ⟨_, List.mem_singleton_self _, hb.1, ?_, hb.2.2⟩
        rw [C.first]
        exact hb.2.1
      · refine .inl ?_
        unfold landed
        rw [if_neg hb, hold]
  obtain ⟨hflight, hend⟩ := C.bayMove.anyhow.settleAll hu hP hc (by dsimp only [moveLeft]; omega)
  exact ⟨hflight, hend.frame, hend.moving.done⟩

end pieces

end Sys2Proof.Machine

/-! SUPPORT. RIG, LSC and IDXR: bytes of bays copied to bays. -/

namespace Sys2Proof.Machine

/-! ### Sound bays -/

theorem portReads_sound {s : State} (h : s.fab.loft.Clean) (x : Held) (spar : Nat) (accs : List (Nat × Nat)) : s.portReads x spar accs = s := by
  have hc : (s.held x).fab.loft.Clean := h
  have hr : (s.held x).loftReads spar accs = s.held x := by
    unfold State.loftReads
    rw [foldl_fixed _ (fun cw _ => loftReadCw_sound hc spar cw false)]
    exact ite_self _
  unfold State.portReads
  rw [hr]
  rfl

theorem Mem.Clean.fetch_poison {m : Mem} (h : m.Clean) (b : Nat) : (m.fetch b).2 = 0 := by rw [h.fetch]

theorem Even.of_zero {f : Nat → Byte × Nat} (h : ∀ b, (f b).2 = 0) : Even f := fun b => ⟨by rw [h, h], .inl (h b)⟩

/-! ### A part in which nothing but the bays has changed -/

/-- Nothing of the part has changed but the bays, the clock, what is in flight and the entries of the line signature. -/
def BaysOnly (u t : State) : Prop := ∃ (m : Mem) (es : List SigEntry) (l : List Flight) (y : Nat) (f : List (Nat × Nat)),
  t = { u with wire := [], fab := { u.fab with loft := m, flight := l, cyc := y, fresh := f }, rcd := { u.rcd with entries := es } }

section baysonly
variable {u t : State}

theorem BaysOnly.refl (u : State) : BaysOnly u { u with wire := [] } := ⟨u.fab.loft, u.rcd.entries, u.fab.flight, u.fab.cyc, u.fab.fresh, rfl⟩

theorem BaysOnly.only (h : BaysOnly u t) (hf : t.fab.flight = []) : OnlyBays u t := by
  obtain ⟨m, es, l, y, f, rfl⟩ := h
  obtain rfl : l = [] := hf
  rfl

theorem BaysOnly.plain (h : BaysOnly u t) {loc : Nat} (hp : ∀ a, u.aliasPair loc a = none ∧ u.fitAlias loc a = none) (a : Nat) :
    t.aliasPair loc a = none ∧ t.fitAlias loc a = none := by
  obtain ⟨m, es, l, y, f, rfl⟩ := h
  exact hp a

theorem BaysOnly.keep (h : BaysOnly u t) (m : Mem) (es : List SigEntry) (l : List Flight) (y : Nat) (f : List (Nat × Nat)) :
    BaysOnly u { t with fab := { t.fab with loft := m, flight := l, cyc := y, fresh := f }, rcd := { t.rcd with entries := es } } := by
  obtain ⟨m', es', l', y', f', rfl⟩ := h
  exact ⟨m, es, l, y, f, rfl⟩

theorem BaysOnly.segs (h : BaysOnly u t) : t.fab.segs = u.fab.segs := by
  obtain ⟨m, es, l, y, f, rfl⟩ := h
  rfl

theorem BaysOnly.rigDests (h : BaysOnly u t) (f : RigF) : rigDests t f = rigDests u f := by
  obtain ⟨m, es, l, y, f, rfl⟩ := h
  rfl

end baysonly

/-- A byte of a bay, where its address reaches what it names. -/
theorem loftByte_own {s : State} (hp : ∀ a, s.aliasPair 1 a = none ∧ s.fitAlias 1 a = none) (d a : Nat) : s.loftByte d a = s.fab.loft.fetch (bayKey d a) := by
  unfold State.loftByte
  rw [reach_own (hp a)]

theorem held_loftByte_own {s : State} (hp : ∀ a, s.aliasPair 1 a = none ∧ s.fitAlias 1 a = none) (x : Held) (d a : Nat) :
    (s.held x).loftByte d a = s.fab.loft.fetch (bayKey d a) := loftByte_own (s := s.held x) hp d a

/-- Bytes read are the bytes of `u` where none of them has been overwritten. -/
theorem bayRead_eq {t : State} (hp : ∀ a, t.aliasPair 1 a = none ∧ t.fitAlias 1 a = none) (x : Held) {n a len : Nat} {f : Nat → Byte × Nat}
    (h : ∀ j, j < len → t.fab.loft.fetch (bayKey n (a + j)) = f j) : (t.held x).bayRead n a len = (List.range len).map f := by
  unfold State.bayRead
  refine List.map_congr_left (fun j hj => ?_)
  rw [held_loftByte_own hp]
  exact h j (List.mem_range.mp hj)

/-! ### Copies -/

/-- What a stage of a copying word begins: its piece, at most 1,024 cycles later, and the next stage where something is left. -/
def CopyStep (u : State) (i : Issue) (ds : List Nat) (dst len : Nat) (src : Nat → Byte × Nat) (S : Nat → List (Nat × Nat) → Prop) (off : Nat → Nat) (t : State) (k : Nat)
    (acc : List (Nat × Nat)) (c : Nat) : Prop :=
  ∃ (late m : Nat) (more : Bool) (acc' : List (Nat × Nat)),
    runWork c (.stage i (u.hold i) k acc) t = begins i (u.hold i) ds k c late (piece dst (off k) m src) more acc' t ∧
    late ≤ c + 1024 ∧ m % 8 = 0 ∧ off k + m ≤ len ∧ if more = true then S (k + 1) acc' ∧ off (k + 1) = off k + m else len ≤ off k + m

/-- The bytes that are to stand as they stood in `u` stand so in `t`. -/
def Kept (u t : State) (ds : List Nat) (dst len : Nat) (src : Nat → Byte × Nat) : Prop :=
  ∀ b, landed u.fab.loft.fetch ds dst len src b = u.fab.loft.fetch b → t.fab.loft.fetch b = u.fab.loft.fetch b

/-- A stage of a word that copies bytes within the bays: it reads sound bays that still hold what is to be copied. -/
def CopyStage (u : State) (i : Issue) (ds : List Nat) (dst len : Nat) (src : Nat → Byte × Nat) (S : Nat → List (Nat × Nat) → Prop) (off : Nat → Nat) (n : Nat) : Prop :=
  ∀ {t : State} {k : Nat} {acc : List (Nat × Nat)} (c : Nat), S k acc → BaysOnly u t → t.fab.loft.Clean →
    Kept u t ds dst len src → k < n ∧ CopyStep u i ds dst len src S off t k acc c

section copies
variable {u : State} {i : Issue} {ds : List Nat} {dst len : Nat} {src : Nat → Byte × Nat} {S : Nat → List (Nat × Nat) → Prop} {off : Nat → Nat} {n : Nat}

theorem pieces_of_copy (hm : u.fab.loft.marks = []) (hf : u.fab.loft.flips = []) (hp : ∀ a, u.aliasPair 1 a = none ∧ u.fitAlias 1 a = none)
    (ho : ∀ d ∈ ds, ∀ g ∈ u.fab.segs, g.spar = d → g.st = .sparOwned) (hds : ds.length ≤ 64 ∧ ∀ d ∈ ds, d < 64)
    (hr : dst % 8 = 0 ∧ len % 8 = 0 ∧ dst + len ≤ 2 ^ 23) (hsrc : ∀ j, ∃ b, src j = u.fab.loft.fetch b) (hoff : off 0 = 0 ∧ ∀ k, off k % 8 = 0)
    (hst : CopyStage u i ds dst len src S off n) : Pieces i (u.hold i) (BaysOnly u) True u.fab.loft.fetch ds dst len src S off n := by
  have hc : u.fab.loft.Clean := Mem.clean_of_nil hm hf
  have hs0 : ∀ j, (src j).2 = 0 := fun j => by
    obtain ⟨b, hb⟩ := hsrc j
    rw [hb, hc.fetch_poison]
  exact
  { spars := hds
    range := hr
    even := ⟨.of_zero hc.fetch_poison, .of_zero hs0⟩
    clean := fun _ => ⟨hc.fetch_poison, hs0⟩
    plain := fun h => h.plain hp
    own := fun h d hd g hg => ho d hd g (h.segs ▸ hg)
    keep := fun m es l y f h => h.keep m es l y f
    offs := hoff.2
    first := hoff.1
    stage := fun {t k acc} c hS hFr hM hC => by
      obtain ⟨hk, late, m, more, acc', hrun, h⟩ := hst c hS hFr (hC trivial) (fun b hb => (hM b).elim id (fun e => e.trans hb))
      exact ⟨hk, t, late, m, more, acc', hrun, hFr, rfl, rfl, h⟩ }

/-- What such a word leaves. -/
theorem Pieces.copied (C : Pieces i (u.hold i) (BaysOnly u) True u.fab.loft.fetch ds dst len src S off n) (hcalm : u.fab.flight = [])
    (hm : u.fab.loft.marks = []) (hf : u.fab.loft.flips = []) (hp : ∀ a, u.aliasPair 1 a = none ∧ u.fitAlias 1 a = none) (hS : S 0 []) (hn : n < 2 ^ 30)
    (hlen : dst + len ≤ 0x600000) : let t := settleAll (u.later i.c.toNat 3 (.stage i (u.hold i) 0 []))
    OnlyBays u t ∧ OtherBytes u t ds dst len ∧ ∀ d ∈ ds, ∀ b, b < len → t.loftByte d (dst + b) = src b := by
  intro t
  obtain ⟨hflight, hB, hfetch⟩ := C.leaves hcalm i.c.isLt (BaysOnly.refl u) rfl hS hn (fun _ => Mem.clean_of_nil hm hf)
  have hpt := fun a => hB.plain hp a
  refine ⟨hB.only hflight, fun m x hm hx hout => ?_, fun d hd b hb => ?_⟩
  · rw [loftByte_own hpt, loftByte_own hp, hfetch, landed_bay (by omega), if_neg hout]
  · rw [loftByte_own hpt, hfetch, landed_bay (by omega), if_pos ⟨hd, by omega, by omega⟩, Nat.add_sub_cancel_left]

end copies

/-! ### Decoding -/

theorem headOk_op {i : Issue} {opcode unit : Nat} (h : headOk i opcode unit = true) : opOf i.word = opcode := by
  simp only [headOk, Bool.and_eq_true, decide_eq_true_eq] at h
  exact h.2.1

/-- A LDH, STH or LSC that decodes: at least one sector, at least one in a cycle. -/
theorem decMove_some {opcode : Nat} {s : State} {i : Issue} {f : MoveF} (h : decMove opcode s i = some f) :
    opOf i.word = opcode ∧ 1 ≤ f.rate ∧ 1 ≤ f.nsec ∧ f.nsec < 2 ^ 16 ∧ ∀ t, decMove opcode t i = some f := by
  have hall : ∀ t, decMove opcode t i = some f := fun _ => h
  unfold decMove at h
  dsimp only at h
  split at h
  next hc =>
    obtain ⟨hh, hn, hr, -⟩ := hc
    obtain rfl := Option.some.inj h
    exact ⟨headOk_op hh, hr, Nat.one_le_iff_ne_zero.mpr hn, fld_lt _ _ _, hall⟩
  next => cases h

theorem decRig_some {s : State} {i : Issue} {f : RigF} (h : decRig s i = some f) :
    opOf i.word = 0x82 ∧ 1 ≤ f.nchunk ∧ f.nchunk < 2 ^ 16 ∧ ∀ t, decRig t i = some f := by
  have hall : ∀ t, decRig t i = some f := fun _ => h
  unfold decRig at h
  dsimp only at h
  split at h
  next hc =>
    obtain ⟨hh, hn, -⟩ := hc
    obtain rfl := Option.some.inj h
    exact ⟨headOk_op hh, Nat.one_le_iff_ne_zero.mpr hn, fld_lt _ _ _, hall⟩
  next => cases h

theorem decIdxr_some {s : State} {i : Issue} {f : Nat × Nat × Nat} (h : decIdxr s i = some f) :
    opOf i.word = 0x84 ∧ 1 ≤ f.2.2 ∧ f.2.2 < 2 ^ 16 ∧ ∀ t, decIdxr t i = some f := by
  have hall : ∀ t, decIdxr t i = some f := fun _ => h
  unfold decIdxr at h
  dsimp only at h
  split at h
  next hc =>
    obtain ⟨hh, hn, -⟩ := hc
    obtain rfl := Option.some.inj h
    exact ⟨headOk_op hh, Nat.one_le_iff_ne_zero.mpr hn, fld_lt _ _ _, hall⟩
  next => cases h

/-- Ranges that pass the check lie in a bay and are aligned. -/
theorem loftCheck_none {s : State} {spar : Nat} {rds wrs : List (Nat × Nat × Nat)} (h : loftCheck s spar rds wrs = none) :
    ∀ r ∈ rds ++ wrs, r.1 + r.2.1 ≤ 0x600000 ∧ r.1 % r.2.2 = 0 := by
  unfold loftCheck at h
  dsimp only at h
  split at h
  next => cases h
  next hbad =>
    intro r hr
    have := fun hb => hbad (List.any_eq_true.mpr ⟨r, hr, hb⟩)
    simpa [loftOk] using this

/-! ### RIG -/

theorem stageOf_rig {i : Issue} (ho : opOf i.word = 0x82) {f : RigF} (hd : ∀ t, decRig t i = some f) (h : Held) (k : Nat) (acc : List (Nat × Nat)) (c : Nat) (t : State) :
    runWork c (.stage i h k acc) t = rigStage f i h k acc c t := by
  simp only [runWork, stageOf, ho, stageWith, hd]

/-- The bytes of the source are those of the part as the word issued: they are the destination's, or are not among them. -/
theorem landed_source {old : Nat → Byte × Nat} {ds : List Nat} {n src dst len : Nat} (ha : Apart src len dst len) (hs : src + len ≤ 2 ^ 23) {x : Nat} (hx : x < len) :
    landed old ds dst len (fun j => old (bayKey n (src + j))) (bayKey n (src + x)) = old (bayKey n (src + x)) := by
  rw [landed_bay (by omega)]
  split
  next hin =>
    obtain ⟨-, h1, h2⟩ := hin
    rcases ha with rfl | ha | ha
    · rw [show src + (src + x - src) = src + x by omega]
    · omega
    · omega
  next => rfl

/-- The addresses of an issued word are those of its issue. -/
theorem effAddr_hold (t u : State) (i : Issue) (n op : Nat) : effAddr (t.held (u.hold i)) n op = effAddr u n op := rfl

theorem chkRig_none {u : State} {i : Issue} {f : RigF} (h : chkRig (u.held (u.hold i)) i f = none) :
    (effAddr u i.spar.val f.dst + 256 * f.nchunk ≤ 0x600000 ∧ effAddr u i.spar.val f.dst % 64 = 0) ∧ effAddr u i.spar.val f.src + 256 * f.nchunk ≤ 0x600000 := by
  unfold chkRig at h
  dsimp only at h
  split at h
  next => cases h
  next hbad =>
    split at h
    next => cases h
    next hsrc =>
      refine ⟨?_, (loftCheck_none hsrc (effAddr u i.spar.val f.src, 256 * f.nchunk, 64) (by simp [effAddr_hold])).1⟩
      simp only [loftOk, Bool.or_eq_true, not_or, Bool.not_eq_true', decide_eq_true_eq, decide_eq_false_iff_not, not_not] at hbad
      exact hbad.1

theorem rigDests_lt (s : State) (f : RigF) : (rigDests s f).length ≤ 64 ∧ ∀ d ∈ rigDests s f, d < 64 := by
  constructor
  · refine (List.length_filter_le _ _).trans ((List.length_filter_le _ _).trans ?_)
    simp
  · intro d hd
    have := List.mem_of_mem_filter (List.mem_of_mem_filter hd)
    exact List.mem_range.mp this

theorem rig_copies {u : State} {i : Issue} {f : RigF} (hq : ∀ m, m < 64 → QuietBay u m) (hdec : decRig u i = some f)
    (hchk : chkRig (u.held (u.hold i)) i f = none) :
    let src := effAddr u i.spar.val f.src
    let dst := effAddr u i.spar.val f.dst
    let t := settleAll (staged f i (u.hold i) u)
    Apart src (256 * f.nchunk) dst (256 * f.nchunk) →
    OnlyBays u t ∧ OtherBytes u t (rigDests u f) dst (256 * f.nchunk) ∧
      ∀ d ∈ rigDests u f, ∀ b, b < 256 * f.nchunk → t.loftByte d (dst + b) = u.loftByte i.spar.val (src + b) := by
  intro src dst t ha
  obtain ⟨hop, hn1, hn2, hdec⟩ := decRig_some hdec
  obtain ⟨⟨hd1, hd2⟩, hs1⟩ := chkRig_none hchk
  obtain ⟨hcalm, hm, hf, hp, -⟩ := hq 0 (by norm_num)
  have hstage : CopyStage u i (rigDests u f) dst (256 * f.nchunk) (fun j => u.fab.loft.fetch (bayKey i.spar.val (src + j))) (fun k _ => k < f.nchunk) (fun k => 256 * k) f.nchunk := by
    intro t k acc c hk hB hC hkeep
    have hread : (t.held (u.hold i)).bayRead i.spar.val (src + 256 * k) 256 =
        (List.range 256).map (fun j => u.fab.loft.fetch (bayKey i.spar.val (src + (256 * k + j)))) :=
      bayRead_eq (fun a => hB.plain hp a) _ (fun j hj => by rw [Nat.add_assoc]; exact hkeep _ (landed_source ha (by omega) (by omega)))
    refine ⟨hk, c + 32, 256, decide (k + 1 < f.nchunk), [], ?_, by omega, rfl, by dsimp only; omega, ?_⟩
    · rw [stageOf_rig hop hdec]
      unfold rigStage begins piece
      simp only [effAddr_hold, hB.rigDests, portReads_sound hC]
      rw [hread]
    · simp only [decide_eq_true_eq]
      split <;> omega
  have C := pieces_of_copy hm hf hp (fun d hd g hg => (hq d ((rigDests_lt u f).2 d hd)).own g hg) (rigDests_lt u f) (by omega) (fun j => ⟨_, rfl⟩)
    ⟨rfl, fun k => by omega⟩ hstage
  obtain ⟨h1, h2, h3⟩ := C.copied hcalm hm hf hp hn1 (by omega) hd1
  exact ⟨h1, h2, fun d hd b hb => (h3 d hd b hb).trans (loftByte_own hp _ _).symm⟩

/-! ### LSC -/

theorem lt_ceilDiv {k a b : Nat} (hb : 1 ≤ b) : k < ceilDiv a b ↔ k * b < a := by
  unfold ceilDiv
  rw [Nat.lt_iff_add_one_le, Nat.le_div_iff_mul_le (by omega), Nat.add_one_mul]
  omega

/-- The pieces of a move: a stage takes RATE sectors, the last one what is left. -/
theorem MoveF.part_steps {f : MoveF} (hr : 1 ≤ f.rate) {k : Nat} (hk : k < f.occ) : (f.part k).1 = 64 * (k * f.rate) ∧ (f.part k).2 % 8 = 0 ∧
    64 * (k * f.rate) + (f.part k).2 ≤ 64 * f.nsec ∧
    if k + 1 < f.occ then 64 * ((k + 1) * f.rate) = 64 * (k * f.rate) + (f.part k).2 else 64 * f.nsec ≤ 64 * (k * f.rate) + (f.part k).2 := by
  have h1 := (lt_ceilDiv hr).mp hk
  have h2 : k + 1 < f.occ ↔ (k + 1) * f.rate < f.nsec := lt_ceilDiv hr
  rw [Nat.add_one_mul k f.rate] at h2 ⊢
  have hp : f.part k = (64 * (k * f.rate), 64 * min f.rate (f.nsec - k * f.rate)) := by
    unfold MoveF.part
    rw [Nat.mul_assoc]
  rw [hp]
  dsimp only
  generalize k * f.rate = p at h1 h2 ⊢
  refine ⟨rfl, by omega, by omega, ?_⟩
  split
  next hm => have := h2.mp hm; omega
  next hm => have := fun h => hm (h2.mpr h); omega

theorem MoveF.occ_le {f : MoveF} (hr : 1 ≤ f.rate) : f.occ ≤ f.nsec := by
  by_contra h
  have := (lt_ceilDiv hr).mp (Nat.lt_of_not_le h)
  have := Nat.le_mul_of_pos_right f.nsec hr
  omega

theorem MoveF.occ_pos {f : MoveF} (hr : 1 ≤ f.rate) (hn : 1 ≤ f.nsec) : 0 < f.occ := (lt_ceilDiv hr).mpr (by omega)

theorem stageOf_lsc {i : Issue} (ho : opOf i.word = 0x83) {f : MoveF} (hd : ∀ t, decMove 0x83 t i = some f) (h : Held) (k : Nat) (acc : List (Nat × Nat)) (c : Nat)
    (t : State) : runWork c (.stage i h k acc) t = lscStage f i h k acc c t := by
  simp only [runWork, stageOf, ho, stageWith, hd]

theorem lsc_copies {u : State} {i : Issue} {f : MoveF} (hq : QuietBay u i.spar.val) (hdec : decMove 0x83 u i = some f)
    (hchk : chkLsc (u.held (u.hold i)) i f = none) :
    let src := effAddr u i.spar.val f.y
    let dst := effAddr u i.spar.val f.x
    let t := settleAll (staged f i (u.hold i) u)
    Apart src (64 * f.nsec) dst (64 * f.nsec) →
    OnlyBays u t ∧ OtherBytes u t [i.spar.val] dst (64 * f.nsec) ∧
      ∀ b, b < 64 * f.nsec → t.loftByte i.spar.val (dst + b) = u.loftByte i.spar.val (src + b) := by
  intro src dst t ha
  obtain ⟨hop, hr1, hn1, hn2, hdec⟩ := decMove_some hdec
  have hck := loftCheck_none (s := u.held (u.hold i)) hchk
  have hs1 : src + 64 * f.nsec ≤ 0x600000 := (hck (src, 64 * f.nsec, 64) (by simp [src, effAddr_hold])).1
  obtain ⟨hd1, hd2⟩ : dst + 64 * f.nsec ≤ 0x600000 ∧ dst % 64 = 0 := hck (dst, 64 * f.nsec, 64) (by simp [dst, effAddr_hold])
  obtain ⟨hcalm, hm, hf, hp, hown⟩ := hq
  have hstage : CopyStage u i [i.spar.val] dst (64 * f.nsec) (fun j => u.fab.loft.fetch (bayKey i.spar.val (src + j))) (fun k _ => k < f.occ)
      (fun k => 64 * (k * f.rate)) f.occ := by
    intro t k acc c hk hB hC hkeep
    obtain ⟨hp1, hp2, hp3, hp4⟩ := MoveF.part_steps hr1 hk
    have hread : (t.held (u.hold i)).bayRead i.spar.val (src + 64 * (k * f.rate)) (f.part k).2 =
        (List.range (f.part k).2).map (fun j => u.fab.loft.fetch (bayKey i.spar.val (src + (64 * (k * f.rate) + j)))) :=
      bayRead_eq (fun a => hB.plain hp a) _ (fun j hj => by rw [Nat.add_assoc]; exact hkeep _ (landed_source ha (by omega) (by omega)))
    refine ⟨hk, c + 4, (f.part k).2, decide (k + 1 < f.occ), [], ?_, by omega, hp2, hp3, ?_⟩
    · rw [stageOf_lsc hop hdec]
      unfold lscStage begins piece
      simp only [effAddr_hold, portReads_sound hC, hp1]
      rw [hread]
      rfl
    · simp only [decide_eq_true_eq]
      split
      · rw [if_pos ‹_›] at hp4
        exact ⟨‹_›, hp4⟩
      · rw [if_neg ‹_›] at hp4
        exact hp4
  have hocc := MoveF.occ_le hr1
  have C := pieces_of_copy (ds := [i.spar.val]) hm hf hp (by simpa using hown) (by simp) (by omega) (fun j => ⟨_, rfl⟩)
    ⟨by simp, fun k => by omega⟩ hstage
  obtain ⟨h1, h2, h3⟩ := C.copied hcalm hm hf hp (MoveF.occ_pos hr1 hn1) (by omega) hd1
  exact ⟨h1, h2, fun b hb => (h3 _ (by simp) b hb).trans (loftByte_own hp _ _).symm⟩

/-! ### IDXR -/

theorem stageOf_idxr {i : Issue} (ho : opOf i.word = 0x84) {f : Nat × Nat × Nat} (hd : ∀ t, decIdxr t i = some f) (h : Held) (k : Nat) (acc : List (Nat × Nat)) (c : Nat)
    (t : State) : runWork c (.stage i h k acc) t = idxrStage f i h k acc c t := by
  simp only [runWork, stageOf, ho, stageWith, hd]

/-- The key of byte j of what an IDXR gathers: gather j / 512, entry j % 512 / 64 of it. -/
def idxrFrom (u : State) (n idx j : Nat) : Nat := idxSector (j % 512 / 64) (u.loftLe n (idx + 16 * (j / 512) + 2 * (j % 512 / 64)) 2).1 + j % 64

/-- What an IDXR carries from stage to stage: the entries of its block, as far as they belong to it. -/
def IdxrCarry (u : State) (n idx ng k : Nat) (acc : List (Nat × Nat)) : Prop :=
  4 * (k / 5) + (k % 5 - 1) < ng ∧ (k % 5 ≠ 0 → acc.length = 32 ∧
    ∀ e, e < 32 → 4 * (k / 5) + e / 8 < ng → acc[e]? = some (u.loftLe n (idx + 64 * (k / 5) + 2 * e) 2))

/-- A 16-bit entry is read as at the issue where its bytes still stand. -/
theorem loftLe_kept {t u : State} (hpt : ∀ a, t.aliasPair 1 a = none ∧ t.fitAlias 1 a = none) (hpu : ∀ a, u.aliasPair 1 a = none ∧ u.fitAlias 1 a = none) (x : Held)
    {n a : Nat} (h : ∀ j, j < 2 → t.fab.loft.fetch (bayKey n (a + j)) = u.fab.loft.fetch (bayKey n (a + j))) : (t.held x).loftLe n a 2 = u.loftLe n a 2 := by
  have hb : (List.range 2).map (fun j => (t.held x).loftByte n (a + j)) = (List.range 2).map (fun j => u.loftByte n (a + j)) := by
    refine List.map_congr_left (fun j hj => ?_)
    rw [held_loftByte_own hpt, loftByte_own hpu, h j (List.mem_range.mp hj)]
  unfold State.loftLe
  rw [hb]

/-- An entry read in sound bays is not poisoned. -/
theorem loftLe_sound {u : State} (hc : u.fab.loft.Clean) (hp : ∀ a, u.aliasPair 1 a = none ∧ u.fitAlias 1 a = none) (n a : Nat) : (u.loftLe n a 2).2 = 0 := by
  have h0 : ∀ j, (u.loftByte n (a + j)).2 = 0 := fun j => by rw [loftByte_own hp, hc.fetch_poison]
  unfold State.loftLe
  dsimp only
  rw [List.foldl_map]
  exact foldl_fixed _ (fun j _ => by rw [h0 j, Nat.max_self])

section idxr
variable {u : State} {i : Issue} {f : Nat × Nat × Nat} {dst idx : Nat}

/-- The entries of gather g of its block, as a stage takes them from what it carries. -/
theorem IdxrCarry.gather {n ng k : Nat} {acc : List (Nat × Nat)} (h : IdxrCarry u n idx ng k acc) (hk : k % 5 ≠ 0) :
    (acc.drop (8 * (k % 5 - 1))).take 8 = (List.range 8).map (fun e => u.loftLe n (idx + 16 * (4 * (k / 5) + k % 5 - 1) + 2 * e) 2) := by
  obtain ⟨hg, hacc⟩ := h
  obtain ⟨hlen, hacc⟩ := hacc hk
  refine List.ext_getElem? (fun e => ?_)
  by_cases he : e < 8
  · rw [List.getElem?_take_of_lt he, List.getElem?_drop, hacc _ (by omega) (by omega), List.getElem?_map, List.getElem?_range he, Option.map_some,
      show idx + 64 * (k / 5) + 2 * (8 * (k % 5 - 1) + e) = idx + 16 * (4 * (k / 5) + k % 5 - 1) + 2 * e by omega]
  · rw [List.getElem?_eq_none (by simp; omega), List.getElem?_eq_none (by simp; omega)]

/-- The bytes of the eight sectors of a gather, one after the other. -/
theorem gather_bytes {n : Nat} {v : State} {es : Nat → Nat × Nat} {src : Nat → Byte × Nat}
    (h : ∀ e, e < 8 → v.bayRead n (idxSector e (es e).1) 64 = (List.range 64).map (fun j => src (64 * e + j))) :
    (((List.range 8).map es).zipIdx.map (fun (x : (Nat × Nat) × Nat) => idxSector x.2 x.1.1)).flatMap (fun a => v.bayRead n a 64) = (List.range 512).map src := by
  have hz : ((List.range 8).map es).zipIdx.map (fun (x : (Nat × Nat) × Nat) => idxSector x.2 x.1.1) = (List.range 8).map (fun e => idxSector e (es e).1) := by
    refine List.ext_getElem (by simp) (fun e h1 h2 => ?_)
    simp
  rw [hz, List.flatMap_map]
  have hb : ∀ e ∈ List.range 8, v.bayRead n (idxSector e (es e).1) 64 = (List.range 64).map (fun j => src (64 * e + j)) := fun e he => h e (List.mem_range.mp he)
  have hr : ∀ k, (List.range k).flatMap (fun e => (List.range 64).map (fun j => src (64 * e + j))) = (List.range (64 * k)).map src := by
    intro k
    induction k with
    | zero => rfl
    | succ k ih =>
      rw [List.range_succ (n := k), List.flatMap_append, ih, Nat.mul_succ, List.range_add, List.map_append]
      simp
  rw [List.flatMap_congr hb, hr 8]

theorem chkIdxr_none {f : Nat × Nat × Nat} (h : chkIdxr (u.held (u.hold i)) i f = none) :
    effAddr u i.spar.val f.2.1 + 16 * f.2.2 ≤ 0x600000 ∧ effAddr u i.spar.val f.1 + 512 * f.2.2 ≤ 0x600000 ∧ effAddr u i.spar.val f.1 % 64 = 0 := by
  unfold chkIdxr at h
  dsimp only at h
  split at h
  next => cases h
  next hck =>
    have hall := loftCheck_none hck
    exact ⟨(hall (effAddr u i.spar.val f.2.1, 16 * f.2.2, 64) (by simp [effAddr_hold])).1, hall (effAddr u i.spar.val f.1, 512 * f.2.2, 64) (by simp [effAddr_hold])⟩

theorem idxSector_lt (e entry j : Nat) (he : e < 8) (hj : j < 64) : idxSector e entry + j < 2 ^ 23 := by
  unfold idxSector
  omega

/-- Bytes outside the destination are what they were. -/
theorem landed_apart {old : Nat → Byte × Nat} {ds : List Nat} {n a dst len : Nat} {src : Nat → Byte × Nat} (ha : a < 2 ^ 23) (h : a < dst ∨ dst + len ≤ a) :
    landed old ds dst len src (bayKey n a) = old (bayKey n a) := by
  rw [landed_bay ha, if_neg (by omega)]

/-- An IDXR that issues: it decodes, its ranges lie in its bay, and no byte that it reads is one that it writes. -/
structure IdxrIssued (u : State) (i : Issue) (f : Nat × Nat × Nat) (dst idx : Nat) : Prop where
  op : opOf i.word = 0x84
  dec : ∀ t, decIdxr t i = some f
  dst_eq : effAddr u i.spar.val f.1 = dst
  idx_eq : effAddr u i.spar.val f.2.1 = idx
  plain : ∀ a, u.aliasPair 1 a = none ∧ u.fitAlias 1 a = none
  clean : u.fab.loft.Clean
  range : idx + 16 * f.2.2 ≤ 0x600000 ∧ dst + 512 * f.2.2 ≤ 0x600000 ∧ dst % 64 = 0
  sectors : ∀ g e, g < f.2.2 → e < 8 → idxSector e (u.loftLe i.spar.val (idx + 16 * g + 2 * e) 2).1 + 64 ≤ dst ∨
    dst + 512 * f.2.2 ≤ idxSector e (u.loftLe i.spar.val (idx + 16 * g + 2 * e) 2).1
  entries : idx + 16 * f.2.2 ≤ dst ∨ dst + 512 * f.2.2 ≤ idx

/-- The bytes that an IDXR gathers, and how many of them come before stage k. -/
def idxrSrc (u : State) (n idx j : Nat) : Byte × Nat := u.fab.loft.fetch (bayKey n (idxrFrom u n idx j))
def idxrOff (k : Nat) : Nat := 512 * (4 * (k / 5) + (k % 5 - 1))

section issued
variable (H : IdxrIssued u i f dst idx) {t : State} {k : Nat} {acc : List (Nat × Nat)} (c : Nat) (hk : IdxrCarry u i.spar.val idx f.2.2 k acc)
  (hpt : ∀ a, t.aliasPair 1 a = none ∧ t.fitAlias 1 a = none) (hC : t.fab.loft.Clean) (hkeep : Kept u t [i.spar.val] dst (512 * f.2.2) (idxrSrc u i.spar.val idx))
include H hk hpt hC hkeep

/-- The first stage of a block reads its index sector and begins no write. -/
theorem idxr_readsEntries (h0 : k % 5 = 0) :
    CopyStep u i [i.spar.val] dst (512 * f.2.2) (idxrSrc u i.spar.val idx) (IdxrCarry u i.spar.val idx f.2.2) idxrOff t k acc c := by
  obtain ⟨hi1, hd1, hd2⟩ := H.range
  have hent := H.entries
  have hg := hk.1
  refine ⟨c, 0, true, (List.range 32).map (fun e => (t.held (u.hold i)).loftLe i.spar.val (idx + 64 * (k / 5) + 2 * e) 2), ?_, by omega, rfl, by unfold idxrOff; omega, ?_⟩
  · rw [stageOf_idxr H.op H.dec]
    unfold idxrStage
    simp only [effAddr_hold, H.idx_eq, portReads_sound hC, h0, if_true]
    rfl
  · refine ⟨⟨by omega, fun _ => ⟨by simp, fun e he hng => ?_⟩⟩, by unfold idxrOff; omega⟩
    rw [List.getElem?_map, List.getElem?_range he, Option.map_some, show (k + 1) / 5 = k / 5 by omega]
    refine congrArg some (loftLe_kept hpt H.plain _ (fun j hj => hkeep _ (landed_apart ?_ ?_)))
    all_goals omega

omit hC in
/-- Every other stage reads the eight sectors of its gather, which still hold what they held. -/
theorem idxr_readsSectors (h0 : k % 5 ≠ 0) : (((List.range 8).map (fun e => u.loftLe i.spar.val (idx + 16 * (4 * (k / 5) + k % 5 - 1) + 2 * e) 2)).zipIdx.map
      (fun (x : (Nat × Nat) × Nat) => idxSector x.2 x.1.1)).flatMap (fun a => (t.held (u.hold i)).bayRead i.spar.val a 64) =
    (List.range 512).map (fun j => idxrSrc u i.spar.val idx (idxrOff k + j)) := by
  have hg := hk.1
  refine gather_bytes (es := fun e => u.loftLe i.spar.val (idx + 16 * (4 * (k / 5) + k % 5 - 1) + 2 * e) 2) (fun e he => bayRead_eq hpt _ (fun j hj => ?_))
  have hs := H.sectors (4 * (k / 5) + k % 5 - 1) e (by omega) he
  have hfrom : idxrFrom u i.spar.val idx (idxrOff k + (64 * e + j)) = idxSector e (u.loftLe i.spar.val (idx + 16 * (4 * (k / 5) + k % 5 - 1) + 2 * e) 2).1 + j := by
    unfold idxrFrom idxrOff
    rw [show (512 * (4 * (k / 5) + (k % 5 - 1)) + (64 * e + j)) % 512 / 64 = e by omega,
      show (512 * (4 * (k / 5) + (k % 5 - 1)) + (64 * e + j)) / 512 = 4 * (k / 5) + k % 5 - 1 by omega,
      show (512 * (4 * (k / 5) + (k % 5 - 1)) + (64 * e + j)) % 64 = j by omega]
  unfold idxrSrc
  rw [hfrom]
  exact hkeep _ (landed_apart (idxSector_lt _ _ _ he hj) (by omega))

theorem idxr_gathers (h0 : k % 5 ≠ 0) :
    CopyStep u i [i.spar.val] dst (512 * f.2.2) (idxrSrc u i.spar.val idx) (IdxrCarry u i.spar.val idx f.2.2) idxrOff t k acc c := by
  have hread := idxr_readsSectors H hk hpt hkeep h0
  have hg := hk.1
  have hz : ((List.range 8).map (fun e => u.loftLe i.spar.val (idx + 16 * (4 * (k / 5) + k % 5 - 1) + 2 * e) 2)).foldl (fun a x => max a x.2) 0 = 0 := by
    rw [List.foldl_map]
    exact foldl_fixed _ (fun e _ => by rw [loftLe_sound H.clean H.plain, Nat.max_self])
  refine ⟨c + 4, 512, decide (4 * (k / 5) + k % 5 - 1 + 1 < f.2.2), acc, ?_, by omega, rfl, by unfold idxrOff; omega, ?_⟩
  · rw [stageOf_idxr H.op H.dec]
    unfold idxrStage begins piece nextStage
    simp only [effAddr_hold, H.dst_eq, h0, if_false, hk.gather h0, hz, ne_eq, not_true_eq_false, portReads_sound hC, List.foldl_cons, List.foldl_nil, decide_eq_true_eq]
    rw [hread, show 512 * (4 * (k / 5) + k % 5 - 1) = idxrOff k by unfold idxrOff; omega]
  · simp only [decide_eq_true_eq]
    unfold idxrOff
    split
    · refine ⟨⟨by omega, fun h1 => ?_⟩, by omega⟩
      rw [show (k + 1) / 5 = k / 5 by omega]
      exact hk.2 h0
    · omega

end issued

theorem IdxrIssued.stages (H : IdxrIssued u i f dst idx) :
    CopyStage u i [i.spar.val] dst (512 * f.2.2) (idxrSrc u i.spar.val idx) (IdxrCarry u i.spar.val idx f.2.2) idxrOff (5 * f.2.2 + 5) := by
  intro t k acc c hk hB hC hkeep
  have hg := hk.1
  refine ⟨by omega, ?_⟩
  by_cases h0 : k % 5 = 0
  · exact idxr_readsEntries H c hk (fun a => hB.plain H.plain a) hC hkeep h0
  · exact idxr_gathers H c hk (fun a => hB.plain H.plain a) hC hkeep h0

theorem idxr_copies {u : State} {i : Issue} {f : Nat × Nat × Nat} (hq : QuietBay u i.spar.val) (hdec : decIdxr u i = some f)
    (hchk : chkIdxr (u.held (u.hold i)) i f = none) :
    let n := i.spar.val
    let dst := effAddr u n f.1
    let idx := effAddr u n f.2.1
    let sector (g e : Nat) := idxSector e (u.loftLe n (idx + 16 * g + 2 * e) 2).1
    let t := settleAll (staged f i (u.hold i) u)
    (∀ g e, g < f.2.2 → e < 8 → sector g e + 64 ≤ dst ∨ dst + 512 * f.2.2 ≤ sector g e) → (idx + 16 * f.2.2 ≤ dst ∨ dst + 512 * f.2.2 ≤ idx) →
    OnlyBays u t ∧ OtherBytes u t [n] dst (512 * f.2.2) ∧
      ∀ g e b, g < f.2.2 → e < 8 → b < 64 → t.loftByte n (dst + 512 * g + 64 * e + b) = u.loftByte n (sector g e + b) := by
  intro n dst idx sector t hsec hidx
  obtain ⟨hop, hn1, hn2, hdec⟩ := decIdxr_some hdec
  obtain ⟨hcalm, hm, hf, hp, hown⟩ := hq
  have H : IdxrIssued u i f dst idx := ⟨hop, hdec, rfl, rfl, hp, Mem.clean_of_nil hm hf, chkIdxr_none hchk, hsec, hidx⟩
  obtain ⟨-, hd1, hd2⟩ := H.range
  have C := pieces_of_copy (ds := [n]) hm hf hp (by simpa using hown) (by simp [n]) (by omega) (fun j => ⟨_, rfl⟩) ⟨rfl, fun k => by unfold idxrOff; omega⟩ H.stages
  obtain ⟨h1, h2, h3⟩ := C.copied hcalm hm hf hp ⟨by omega, fun h => absurd rfl h⟩ (by omega) hd1
  refine ⟨h1, h2, fun g e b hg he hb => ?_⟩
  rw [show dst + 512 * g + 64 * e + b = dst + (512 * g + 64 * e + b) by omega]
  refine (h3 n (by simp) _ (by omega)).trans ?_
  rw [loftByte_own hp]
  unfold idxrFrom
  rw [show (512 * g + 64 * e + b) % 512 / 64 = e by omega, show (512 * g + 64 * e + b) / 512 = g by omega, show (512 * g + 64 * e + b) % 64 = b by omega]

end idxr

/-- Settles O19: a copying word puts its run of bytes down piece by piece, and the pieces come to the same whatever their order. -/
theorem copyWords : Obligations.CopyWords := by
  intro s i u n hq
  have hn := hq n i.spar.isLt
  exact ⟨fun f h ha => ⟨_, commandWord_begins staged h, rig_copies hq h.2.1 h.2.2 ha⟩, fun f h ha => ⟨_, commandWord_begins staged h, lsc_copies hn h.2.1 h.2.2 ha⟩,
    fun f h h1 h2 => ⟨_, commandWord_begins staged h, idxr_copies hn h.2.1 h.2.2 h1 h2⟩⟩

end Sys2Proof.Machine

/-! SUPPORT. LDH and STH: sectors moved between HBM and a bay. -/

namespace Sys2Proof.Machine

/-! ### What reads of HBM record -/

/-- From s to t nothing has changed of what moves bytes: HBM, the fabric, the stack window, the jobs and the registers below those of HBM. -/
structure HbmNoted (s t : State) : Prop where
  hbm : t.hbm = s.hbm
  fab : t.fab = s.fab
  slk : t.slk = s.slk
  jobs : t.jobs = s.jobs
  regs : ∀ a, a < 0x600000 → t.reg a = s.reg a

theorem HbmNoted.refl (s : State) : HbmNoted s s := ⟨rfl, rfl, rfl, rfl, fun _ _ => rfl⟩

section noted
variable {s t : State}

theorem HbmNoted.setReg (h : HbmNoted s t) {a : Nat} (ha : 0x600000 ≤ a) (w : Word) : HbmNoted s (t.setReg a w) :=
  ⟨h.hbm, h.fab, h.slk, h.jobs, fun b hb => (State.reg_setReg_ne t w (by omega)).trans (h.regs b hb)⟩

theorem HbmNoted.bump (h : HbmNoted s t) {a : Nat} (ha : 0x600000 ≤ a) (hi lo k : Nat) : HbmNoted s (t.bump a hi lo k) := h.setReg ha _

theorem HbmNoted.post (h : HbmNoted s t) (ps : List Nat) (code : Nat) (vs : List (Nat × Nat)) : HbmNoted s (t.post ps code vs) :=
  ⟨(post_hbm ..).trans h.hbm, (post_fab ..).trans h.fab, (post_slk ..).trans h.slk, (post_jobs ..).trans h.jobs, fun a ha => (post_reg ..).trans (h.regs a ha)⟩

theorem HbmNoted.withQueue (h : HbmNoted s t) (q : List Nat) : HbmNoted s { t with repairQ := q } := ⟨h.hbm, h.fab, h.slk, h.jobs, h.regs⟩

theorem HbmNoted.withRcd (h : HbmNoted s t) (r : Rec) : HbmNoted s { t with rcd := r } := ⟨h.hbm, h.fab, h.slk, h.jobs, h.regs⟩

theorem HbmNoted.hbmReadCw (h : HbmNoted s t) (src cw : Nat) : HbmNoted s (t.hbmReadCw src cw) := by
  unfold State.hbmReadCw
  split
  · exact h
  · extract_lets r sec queue t1 _ _ s1
    have hq : ∀ {x : State}, HbmNoted s x → HbmNoted s (queue x) := by
      intro x hx
      unfold queue
      split
      · exact hx
      · split
        · exact hx.withQueue _
        · exact hx.bump (by decide) _ _ _
    have h1 : HbmNoted s s1 := by
      unfold s1
      split
      · exact h
      · exact hq ((h.bump (by decide) _ _ _).setReg (by decide) _)
      · exact hq ((h.bump (by decide) _ _ _).setReg (by decide) _)
      · have hue : HbmNoted s t1 := hq ((((h.bump (by decide) _ _ _).setReg (by decide) _).setReg (by decide) _).setReg (by decide) _)
        split
        · exact hue
        · exact (hue.post _ _ _).withRcd _
    split
    · exact h1.bump (by decide) _ _ _
    · exact h1

theorem hbmReads_noted (s : State) (src : Nat) (host : Bool) (a n : Nat) : HbmNoted s (s.hbmReads src host a n) := by
  unfold State.hbmReads
  split
  · exact .refl s
  · exact List.foldlRecOn (motive := HbmNoted s) _ _ (.refl s) (fun t ht cw _ => ht.hbmReadCw src cw)

theorem HbmNoted.plain (h : HbmNoted s t) (loc a : Nat) : t.aliasPair loc a = s.aliasPair loc a ∧ t.fitAlias loc a = s.fitAlias loc a := by
  have hr : ∀ b hi lo, b < 0x600000 → t.rf b hi lo = s.rf b hi lo := fun b hi lo hb => by
    unfold State.rf
    rw [h.regs b hb]
  constructor
  · unfold State.aliasPair State.pairOn
    refine List.find?_congr (fun n hn => ?_)
    rw [List.mem_range] at hn
    rw [hr _ _ _ (by unfold A.rastPairCtl; omega), hr _ _ _ (by unfold A.rastPairCtl; omega), hr _ _ _ (by unfold A.rastPairBase; omega),
      hr _ _ _ (by unfold A.rastPairSize; omega)]
  · unfold State.fitAlias State.aliasOn State.job
    refine List.find?_congr (fun n hn => ?_)
    rw [List.mem_range] at hn
    rw [hr _ _ _ (by unfold A.chanFitCtl; omega), hr _ _ _ (by unfold A.chanFitCtl; omega), hr _ _ _ (by unfold A.chanFitPbase; omega),
      hr _ _ _ (by unfold A.chanFitPsize; omega), h.jobs]

end noted

/-- The reads of HBM of a word leave what moves bytes. -/
theorem hbmPortReads_noted (s : State) (h : Held) (src a n : Nat) : HbmNoted s (s.hbmPortReads h src a n) := by
  obtain ⟨h1, -, h3, h4, h5⟩ := hbmReads_noted (s.held h) src false a n
  exact ⟨h1, rfl, h3, h4, h5⟩

/-- A HBM without marks and flipped bits records nothing. -/
theorem hbmPortReads_quiet {s : State} (hm : s.hbm.marks = []) (hf : s.hbm.flips = []) (h : Held) (src a n : Nat) : s.hbmPortReads h src a n = s := by
  have hr : (s.held h).hbmReads src false a n = s.held h := if_pos ⟨hm, hf⟩
  unfold State.hbmPortReads
  rw [hr]
  rfl

/-- A use of HBM takes nothing but stack windows, and none for a passage (R513). -/
theorem stackUse_only (s : State) (h : Held) (a n : Nat) : ∃ k, s.stackUse h a n = { s with slk := k } ∧ (h.fg = true → k = s.slk) := by
  unfold State.stackUse
  cases hfg : h.fg
  · exact ⟨_, rfl, fun hc => absurd hc (by simp)⟩
  · exact ⟨s.slk, rfl, fun _ => rfl⟩

theorem hold_fg (u : State) (i : Issue) (h : (u.slot i.chan.val).job = none) : (u.hold i).fg = true := by
  unfold State.hold
  simp [h]

/-! ### LDH -/

/-- Nothing but the bays, the clock, what is in flight, the entries of the line signature and the stack window has changed. -/
def LoadsOnly (u t : State) : Prop := ∃ (k : Slack) (m : Mem) (es : List SigEntry) (l : List Flight) (y : Nat) (f : List (Nat × Nat)),
  t = { u with wire := [], slk := k, fab := { u.fab with loft := m, flight := l, cyc := y, fresh := f }, rcd := { u.rcd with entries := es } }

/-- What holds of the part while an LDH comes about. -/
structure Loading (u : State) (i : Issue) (t : State) : Prop where
  hbm : t.hbm = u.hbm
  plain : ∀ loc a, t.aliasPair loc a = u.aliasPair loc a ∧ t.fitAlias loc a = u.fitAlias loc a
  segs : t.fab.segs = u.fab.segs
  slack : (u.slot i.chan.val).job = none → t.slk = u.slk
  only : u.hbm.flips = [] → u.hbm.marks = [] → LoadsOnly u t

section loading
variable {u t : State} {i : Issue}

theorem Loading.start (u : State) (i : Issue) : Loading u i { u with wire := [] } :=
  ⟨rfl, fun _ _ => ⟨rfl, rfl⟩, rfl, fun _ => rfl, fun _ _ => ⟨u.slk, u.fab.loft, u.rcd.entries, u.fab.flight, u.fab.cyc, u.fab.fresh, rfl⟩⟩

theorem Loading.keep (h : Loading u i t) (m : Mem) (es : List SigEntry) (l : List Flight) (y : Nat) (f : List (Nat × Nat)) :
    Loading u i { t with fab := { t.fab with loft := m, flight := l, cyc := y, fresh := f }, rcd := { t.rcd with entries := es } } := by
  refine ⟨h.hbm, h.plain, h.segs, h.slack, fun hf hm => ?_⟩
  obtain ⟨k', m', es', l', y', f', rfl⟩ := h.only hf hm
  exact ⟨k', m, es, l, y, f, rfl⟩

/-- What an LDH reads leaves the part as it was but for what reads record. -/
theorem Loading.reads (h : Loading u i t) (src a n : Nat) : let t' := (t.stackUse (u.hold i) a n).hbmPortReads (u.hold i) src a n
    Loading u i t' ∧ t'.fab.loft = t.fab.loft ∧ t'.fab.flight = t.fab.flight := by
  obtain ⟨k, hk, hfg⟩ := stackUse_only t (u.hold i) a n
  rw [hk]
  have hn := hbmPortReads_noted { t with slk := k } (u.hold i) src a n
  refine ⟨⟨hn.hbm.trans h.hbm, fun loc b => ?_, (congrArg Fabric.segs hn.fab).trans h.segs, fun hj => ?_, fun hf hm => ?_⟩, congrArg Fabric.loft hn.fab, congrArg Fabric.flight hn.fab⟩
  · obtain ⟨h1, h2⟩ := hn.plain loc b
    exact ⟨h1.trans (h.plain loc b).1, h2.trans (h.plain loc b).2⟩
  · exact (hn.slk.trans (hfg (hold_fg u i hj))).trans (h.slack hj)
  · rw [hbmPortReads_quiet (h.hbm.symm ▸ hm) (h.hbm.symm ▸ hf)]
    obtain ⟨k', m', es', l', y', f', rfl⟩ := h.only hf hm
    exact ⟨k, m', es', l', y', f', rfl⟩

end loading

theorem stageOf_ldh {i : Issue} (ho : opOf i.word = 0x80) {f : MoveF} (hd : ∀ t, decMove 0x80 t i = some f) (h : Held) (k : Nat) (acc : List (Nat × Nat)) (c : Nat)
    (t : State) : runWork c (.stage i h k acc) t = ldhStage f i h k acc c t := by
  simp only [runWork, stageOf, ho, stageWith, hd]

theorem chkHbm_none {load : Bool} {u : State} {i : Issue} {f : MoveF} (h : chkHbm load (u.held (u.hold i)) i f = none) :
    (2 ^ 39 ≤ effAddr u i.spar.val f.y ∧ effAddr u i.spar.val f.y % 64 = 0) ∧
      effAddr u i.spar.val f.x + 64 * f.nsec ≤ 0x600000 ∧ effAddr u i.spar.val f.x % 64 = 0 := by
  unfold chkHbm at h
  dsimp only at h
  split at h
  next => cases h
  next hbad =>
    simp only [hbmOk, Bool.or_eq_true, not_or, Bool.not_eq_true', decide_eq_true_eq, decide_eq_false_iff_not, not_not] at hbad
    refine ⟨⟨hbad.1.1, hbad.2⟩, ?_⟩
    cases load
    · exact loftCheck_none h (effAddr u i.spar.val f.x, 64 * f.nsec, 64) (by simp [effAddr_hold])
    · exact loftCheck_none h (effAddr u i.spar.val f.x, 64 * f.nsec, 64) (by simp [effAddr_hold])

theorem hbmH_le (reef : Nat) : hbmH reef ≤ 480 := by
  unfold hbmH
  split <;> omega

theorem hbmByte_own {s : State} (hp : PlainHbm s) (a : Nat) : s.hbmByte false a = s.hbm.fetch a := by
  unfold State.hbmByte
  rw [reach_own (hp a)]

theorem held_hbmByte_own {s : State} (hp : PlainHbm s) (x : Held) (a : Nat) : (s.held x).hbmByte false a = s.hbm.fetch a := hbmByte_own (s := s.held x) hp a

theorem ldh_loads {u : State} {i : Issue} {f : MoveF} (hq : QuietBay u i.spar.val) (hh : PlainHbm u) (hdec : decMove 0x80 u i = some f)
    (hchk : chkHbm true (u.held (u.hold i)) i f = none) :
    let n := i.spar.val
    let l := effAddr u n f.x
    let h := effAddr u n f.y - 2 ^ 39
    let t := settleAll (staged f i (u.hold i) u)
    t.hbm = u.hbm ∧ OtherBytes u t [n] l (64 * f.nsec) ∧ (∀ b, b < 64 * f.nsec → t.loftByte n (l + b) = u.hbmByte false (h + b)) ∧
      ((u.slot i.chan.val).job = none → t.slk = u.slk) ∧ (u.hbm.flips = [] → u.hbm.marks = [] → OnlyBays { u with slk := t.slk } t) := by
  intro n l h t
  obtain ⟨hop, hr1, hn1, hn2, hdec⟩ := decMove_some hdec
  obtain ⟨⟨hy1, hy2⟩, hl1, hl2⟩ : (2 ^ 39 ≤ effAddr u n f.y ∧ effAddr u n f.y % 64 = 0) ∧ l + 64 * f.nsec ≤ 0x600000 ∧ l % 64 = 0 := chkHbm_none hchk
  have hh8 : h % 8 = 0 := by unfold h; omega
  obtain ⟨hcalm, hm, hf, hp, hown⟩ := hq
  have hcl : u.fab.loft.Clean := Mem.clean_of_nil hm hf
  have C : Pieces i (u.hold i) (Loading u i) False u.fab.loft.fetch [n] l (64 * f.nsec) (fun j => u.hbm.fetch (h + j)) (fun k _ => k < f.occ)
      (fun k => 64 * (k * f.rate)) f.occ :=
    { spars := by simp [n]
      range := by omega
      even := by
        refine ⟨.of_zero hcl.fetch_poison, fun b => ⟨?_, (u.hbm.fetch_even _).2⟩⟩
        dsimp only
        rw [(u.hbm.fetch_even _).1, show 8 * ((h + b) / 8) = h + 8 * (b / 8) by omega]
      clean := fun h => h.elim
      plain := fun ht a => by rw [(ht.plain 1 a).1, (ht.plain 1 a).2]; exact hp a
      own := fun ht d hd g hg e => hown g (ht.segs ▸ hg) (e.trans (List.mem_singleton.mp hd))
      keep := fun m es l y f ht => ht.keep m es l y f
      offs := fun k => by omega
      first := by simp
      stage := fun {t k acc} c hk ht _ _ => by
        obtain ⟨hp1, hp2, hp3, hp4⟩ := MoveF.part_steps hr1 hk
        have hpl : PlainHbm t := fun a => by rw [(ht.plain 0 a).1, (ht.plain 0 a).2]; exact hh a
        obtain ⟨ht', hloft, hfl⟩ := ht.reads (if (u.hold i).fg then 0 else 4) (h + 64 * (k * f.rate)) (f.part k).2
        have hH := hbmH_le (u.hold i).reef
        refine ⟨hk, _, c + hbmH (u.hold i).reef - 3, (f.part k).2, decide (k + 1 < f.occ), [], ?_, ht', hloft, hfl, by omega, hp2, hp3, ?_⟩
        · rw [stageOf_ldh hop hdec]
          unfold ldhStage begins piece
          simp only [effAddr_hold, hp1, held_hbmByte_own hpl, ht.hbm, Nat.add_assoc]
          rfl
        · simp only [decide_eq_true_eq]
          split
          · rw [if_pos ‹_›] at hp4
            exact ⟨‹_›, hp4⟩
          · rw [if_neg ‹_›] at hp4
            exact hp4 }
  have hocc := MoveF.occ_le hr1
  obtain ⟨hflight, hL, hfetch⟩ := C.leaves hcalm i.c.isLt (Loading.start u i) rfl (MoveF.occ_pos hr1 hn1) (by omega) (fun h => h.elim)
  have hpt : ∀ a, t.aliasPair 1 a = none ∧ t.fitAlias 1 a = none := fun a => C.plain hL a
  refine ⟨hL.hbm, fun m x hm hx hout => ?_, fun b hb => ?_, hL.slack, fun hf hm => ?_⟩
  · rw [loftByte_own hpt, loftByte_own hp]
    refine (hfetch _).trans ?_
    rw [landed_bay (by omega), if_neg hout]
  · rw [loftByte_own hpt, hbmByte_own hh]
    refine (hfetch _).trans ?_
    rw [landed_bay (by omega), if_pos ⟨by simp, by omega, by omega⟩, Nat.add_sub_cancel_left]
  · obtain ⟨k, m, es, fl, y, fr, ht⟩ := hL.only hf hm
    have ht : t = _ := ht
    have hfl : t.fab.flight = [] := hflight
    rw [ht] at hfl ⊢
    obtain rfl : fl = [] := hfl
    rfl

/-! ### STH -/

/-- Nothing but HBM, the clock, what is in flight and the stack window has changed, and that not for a passage. -/
def StoresOnly (u : State) (i : Issue) (t : State) : Prop := ∃ (k : Slack) (m : Mem) (l : List Flight) (y : Nat) (f : List (Nat × Nat)),
  t = { u with wire := [], slk := k, hbm := m, fab := { u.fab with flight := l, cyc := y, fresh := f } } ∧ ((u.slot i.chan.val).job = none → k = u.slk)

/-- HBM with the bytes `src` standing in `len` bytes from `dst`. -/
def stored (old : Nat → Byte × Nat) (dst len : Nat) (src : Nat → Byte × Nat) (b : Nat) : Byte × Nat :=
  if dst ≤ b ∧ b < dst + len then src (b - dst) else old b

theorem stored_in {old src : Nat → Byte × Nat} {dst len b : Nat} (hb : b < len) : stored old dst len src (dst + b) = src b := by
  unfold stored
  rw [if_pos (by omega), Nat.add_sub_cancel_left]

theorem stored_out {old src : Nat → Byte × Nat} {dst len a : Nat} (ha : ¬(dst ≤ a ∧ a < dst + len)) : stored old dst len src a = old a := if_neg ha

theorem stored_even {old src : Nat → Byte × Nat} {dst len : Nat} (ho : Even old) (hs : Even src) (hd : dst % 8 = 0) (hl : len % 8 = 0) :
    Even (stored old dst len src) := by
  intro b
  unfold stored
  by_cases hb : dst ≤ b ∧ b < dst + len
  · have hb' : dst ≤ 8 * (b / 8) ∧ 8 * (b / 8) < dst + len := by omega
    rw [if_pos hb, if_pos hb', show 8 * (b / 8) - dst = 8 * ((b - dst) / 8) by omega]
    exact hs _
  · have hb' : ¬(dst ≤ 8 * (b / 8) ∧ 8 * (b / 8) < dst + len) := by omega
    rw [if_neg hb, if_neg hb']
    exact ho b

/-- The writes of one stage are a run of whole codewords, each byte as it is to stand. -/
theorem piece_stored {old src : Nat → Byte × Nat} {dst len p n : Nat} (hd : dst % 8 = 0) (hp : p % 8 = 0) (hn : n % 8 = 0) (hle : p + n ≤ len) :
    piece dst p n src = runOf (8 * ((dst + p) / 8)) (8 * (n / 8)) (fun j => stored old dst len src (8 * ((dst + p) / 8) + j)) := by
  rw [show 8 * ((dst + p) / 8) = dst + p by omega, show 8 * (n / 8) = n by omega]
  unfold piece
  rw [moved_range]
  unfold runOf
  refine List.map_congr_left (fun j hj => ?_)
  rw [List.mem_range] at hj
  unfold stored
  dsimp only
  rw [if_pos (by omega), show dst + p + j - dst = p + j by omega]

/-- What may be in flight of an STH: its next stage, and runs of whole codewords of HBM. -/
def SthWork (i : Issue) (h : Held) (new : Nat → Byte × Nat) (n : Nat) : Work → Prop
  | .stage j g k _ => j = i ∧ g = h ∧ k < n
  | .hbm ws => ∃ c k, ws = runOf (8 * c) (8 * k) (fun j => new (8 * c + j))
  | _ => False

/-- What holds of the part while an STH comes about: HBM goes from what it was to `new`. -/
structure Storing (u : State) (i : Issue) (new : Nat → Byte × Nat) (T : Nat → Nat → Prop) (n : Nat) (ws : List Work) (t : State) : Prop where
  frame : StoresOnly u i t
  works : ∀ w ∈ ws, SthWork i (u.hold i) new n w
  moving : Moving T u.hbm.fetch new ws t.hbm

theorem StoresOnly.keep {u t : State} {i : Issue} (h : StoresOnly u i t) (m : Mem) (l : List Flight) (y : Nat) (f : List (Nat × Nat)) :
    StoresOnly u i { t with hbm := m, fab := { t.fab with flight := l, cyc := y, fresh := f } } := by
  obtain ⟨k', m', l', y', f', rfl, hk⟩ := h
  exact ⟨k', m, l, y, f, rfl, hk⟩

theorem StoresOnly.stack {u t : State} {i : Issue} (h : StoresOnly u i t) (a n : Nat) :
    StoresOnly u i (t.stackUse (u.hold i) a n) ∧ (t.stackUse (u.hold i) a n).hbm = t.hbm ∧ (t.stackUse (u.hold i) a n).fab = t.fab := by
  obtain ⟨k, hk, hfg⟩ := stackUse_only t (u.hold i) a n
  obtain ⟨k', m', l', y', f', rfl, hk'⟩ := h
  rw [hk]
  exact ⟨⟨k, m', l', y', f', rfl, fun hj => (hfg (hold_fg u i hj)).trans (hk' hj)⟩, rfl, rfl⟩

theorem StoresOnly.plain {u t : State} {i : Issue} (h : StoresOnly u i t) {loc : Nat} (hp : ∀ a, u.aliasPair loc a = none ∧ u.fitAlias loc a = none) (a : Nat) :
    t.aliasPair loc a = none ∧ t.fitAlias loc a = none := by
  obtain ⟨k', m', l', y', f', rfl, -⟩ := h
  exact hp a

theorem StoresOnly.loft {u t : State} {i : Issue} (h : StoresOnly u i t) : t.fab.loft = u.fab.loft := by
  obtain ⟨k', m', l', y', f', rfl, -⟩ := h
  rfl

theorem stageOf_sth {i : Issue} (ho : opOf i.word = 0x81) {f : MoveF} (hd : ∀ t, decMove 0x81 t i = some f) (h : Held) (k : Nat) (acc : List (Nat × Nat)) (c : Nat)
    (t : State) : runWork c (.stage i h k acc) t = sthStage f i h k acc c t := by
  simp only [runWork, stageOf, ho, stageWith, hd]

theorem hbmHw_le (reef : Nat) : hbmHw reef ≤ 400 := by
  unfold hbmHw
  split <;> omega

/-- A run lands in HBM: it changes nothing else, and no byte beside it. -/
theorem hbmLand_run {new : Nat → Byte × Nat} (hn : Even new) (s : State) (v c k : Nat) : let ws := runOf (8 * c) (8 * k) (fun j => new (8 * c + j))
    runWork v (.hbm ws) s = { s with hbm := s.hbm.write ws } ∧ ∀ b, (s.hbm.write ws).fetch b = if ∃ w ∈ ws, w.1 = b then new b else s.hbm.fetch b := by
  intro ws
  obtain ⟨hpart, hfetch⟩ := write_run hn s.hbm c k
  have hl : s.hbmMerge 0 ws = s := by
    unfold State.hbmMerge
    rw [hpart]
    exact ite_self s
  refine ⟨?_, hfetch⟩
  have hrun : runWork v (.hbm ws) s = { s.hbmMerge 0 ws with hbm := s.hbm.write ws } := rfl
  rw [hrun, hl]

section sth
variable {u : State} {i : Issue} {f : MoveF}

/-- Where an STH writes in HBM, and the bytes of the bay that it writes there. -/
def sthDst (u : State) (i : Issue) (f : MoveF) : Nat := effAddr u i.spar.val f.y - 2 ^ 39
def sthSrc (u : State) (i : Issue) (f : MoveF) (j : Nat) : Byte × Nat := u.fab.loft.fetch (bayKey i.spar.val (effAddr u i.spar.val f.x + j))

/-- What HBM is to read, and what stage k and those after it are still to write. -/
def sthNew (u : State) (i : Issue) (f : MoveF) : Nat → Byte × Nat := stored u.hbm.fetch (sthDst u i f) (64 * f.nsec) (sthSrc u i f)
def sthLeft (u : State) (i : Issue) (f : MoveF) (k b : Nat) : Prop := sthDst u i f + 64 * (k * f.rate) ≤ b ∧ b < sthDst u i f + 64 * f.nsec

/-- An STH that issues: it decodes, it writes whole codewords, and its bay holds no marks. -/
structure SthIssued (u : State) (i : Issue) (f : MoveF) : Prop where
  op : opOf i.word = 0x81
  dec : ∀ t, decMove 0x81 t i = some f
  rate : 1 ≤ f.rate
  plain : ∀ a, u.aliasPair 1 a = none ∧ u.fitAlias 1 a = none
  plainHbm : PlainHbm u
  clean : u.fab.loft.Clean
  aligned : sthDst u i f % 8 = 0

variable (H : SthIssued u i f)
include H

theorem sthNew_even : Even (sthNew u i f) := stored_even u.hbm.fetch_even (.of_zero (fun _ => H.clean.fetch_poison _)) H.aligned (by omega)

/-- A stage of an STH reads the bay, as it has been all along, and begins the write of its piece. -/
theorem sthStage_begins {t : State} (ht : StoresOnly u i t) {k : Nat} (hk : k < f.occ) (acc : List (Nat × Nat)) (c : Nat) :
    runWork c (.stage i (u.hold i) k acc) t = nextStage (decide (k + 1 < f.occ)) i (u.hold i) (k + 1) [] (c + 1)
      ((t.stackUse (u.hold i) (sthDst u i f + 64 * (k * f.rate)) (f.part k).2).later (c + hbmHw (u.hold i).reef) 0
        (.hbm (piece (sthDst u i f) (64 * (k * f.rate)) (f.part k).2 (sthSrc u i f)))) := by
  obtain ⟨hs, -, -⟩ := ht.stack (sthDst u i f + 64 * (k * f.rate)) (f.part k).2
  have hcs : (t.stackUse (u.hold i) (sthDst u i f + 64 * (k * f.rate)) (f.part k).2).fab.loft.Clean := by rw [hs.loft]; exact H.clean
  have hp1 : (f.part k).1 = 64 * (k * f.rate) := (MoveF.part_steps H.rate hk).1
  have hread : (t.held (u.hold i)).bayRead i.spar.val (effAddr u i.spar.val f.x + 64 * (k * f.rate)) (f.part k).2 =
      (List.range (f.part k).2).map (fun j => sthSrc u i f (64 * (k * f.rate) + j)) :=
    bayRead_eq (fun a => ht.plain H.plain a) _ (fun j _ => by rw [ht.loft, Nat.add_assoc]; rfl)
  have hreach : ∀ ws : List (Nat × Byte × Nat), ws.map (fun w => ((t.held (u.hold i)).reach 0 false w.1, w.2)) = ws := by
    intro ws
    refine (List.map_congr_left (fun w _ => ?_)).trans (List.map_id ws)
    rw [held_reach_own _ (ht.plain H.plainHbm w.1)]
    rfl
  rw [stageOf_sth H.op H.dec]
  unfold sthStage
  simp only [effAddr_hold, hp1]
  rw [hread, hreach]
  unfold sthDst at hcs ⊢
  rw [portReads_sound hcs]
  rfl

/-- What stage k was to write is in the write that it begins, or left to the next stage. -/
theorem sthLeft_next {k : Nat} (hk : k < f.occ) {b : Nat} (hb : sthLeft u i f k b) :
    (∃ w ∈ piece (sthDst u i f) (64 * (k * f.rate)) (f.part k).2 (sthSrc u i f), w.1 = b) ∨ (k + 1 < f.occ ∧ sthLeft u i f (k + 1) b) := by
  obtain ⟨-, -, -, hnext⟩ := MoveF.part_steps H.rate hk
  obtain ⟨h1, h2⟩ := hb
  by_cases hin : b < sthDst u i f + 64 * (k * f.rate) + (f.part k).2
  · refine .inl ?_
    unfold piece
    rw [moved_range]
    exact ⟨_, List.mem_map.mpr ⟨b - (sthDst u i f + 64 * (k * f.rate)), by rw [List.mem_range]; omega, rfl⟩, by dsimp only; omega⟩
  · refine .inr ?_
    unfold sthLeft
    split at hnext
    next hm => exact ⟨hm, by rw [hnext]; omega, h2⟩
    next => omega

theorem sth_stepStage {ws : List Work} {s : State} {k : Nat} {acc : List (Nat × Nat)} (c : Nat)
    (hP : Storing u i (sthNew u i f) (sthLeft u i f) f.occ (.stage i (u.hold i) k acc :: ws) s) (hk : k < f.occ) : ∃ fl : List Flight,
    (runWork c (.stage i (u.hold i) k acc) s).fab.flight = s.fab.flight ++ fl ∧
      Storing u i (sthNew u i f) (sthLeft u i f) f.occ (fl.map (fun x => x.work) ++ ws) (runWork c (.stage i (u.hold i) k acc) s) ∧
      toCome (moveLeft f.occ) fl < moveLeft f.occ (.stage i (u.hold i) k acc) ∧ ∀ x ∈ fl, x.c ≤ c + 1024 := by
  obtain ⟨-, hp2, hp3, -⟩ := MoveF.part_steps H.rate hk
  obtain ⟨hs, hhbm, hfab⟩ := hP.frame.stack (sthDst u i f + 64 * (k * f.rate)) (f.part k).2
  have hH := hbmHw_le (u.hold i).reef
  rw [sthStage_begins H hP.frame hk acc c, nextStage_eq]
  unfold State.later
  generalize s.stackUse (u.hold i) (sthDst u i f + 64 * (k * f.rate)) (f.part k).2 = s' at hs hhbm hfab ⊢
  refine ⟨⟨c + hbmHw (u.hold i).reef, 0, .hbm (piece (sthDst u i f) (64 * (k * f.rate)) (f.part k).2 (sthSrc u i f))⟩ ::
    if decide (k + 1 < f.occ) = true then [⟨c + 1, 3, .stage i (u.hold i) (k + 1) []⟩] else [], ?_, ⟨?_, fun w hw => ?_, ?_⟩, ?_, fun x hx => ?_⟩
  · dsimp only
    rw [hfab, List.append_assoc]
    rfl
  · exact hs.keep s'.hbm _ s'.fab.cyc s'.fab.fresh
  · rcases List.mem_append.mp hw with hw | hw
    · rcases List.mem_cons.mp hw with rfl | hw
      · exact ⟨_, _, piece_stored H.aligned (by omega) hp2 hp3⟩
      · split at hw
        · rw [List.mem_singleton.mp hw]
          exact ⟨rfl, rfl, of_decide_eq_true ‹_›⟩
        · exact absurd hw List.not_mem_nil
    · exact hP.works w (List.mem_cons_of_mem _ hw)
  · dsimp only
    rw [hhbm]
    refine hP.moving.begins (fun b hb => ?_)
    rcases sthLeft_next H hk hb with hw | ⟨hm, hb⟩
    · exact ⟨_, List.mem_cons_self, hw⟩
    · exact ⟨.stage i (u.hold i) (k + 1) [], by simp [hm], hb⟩
  · by_cases hm : k + 1 < f.occ
    all_goals
      simp only [hm, decide_true, decide_false, if_true, Bool.false_eq_true, if_false, toCome_cons, toCome_nil, moveLeft]
      omega
  · rcases List.mem_cons.mp hx with rfl | hx
    · dsimp only
      omega
    · split at hx
      · rw [List.mem_singleton.mp hx]
        dsimp only
        omega
      · exact absurd hx List.not_mem_nil

theorem sth_anyhow : Anyhow (moveLeft f.occ) (Storing u i (sthNew u i f) (sthLeft u i f) f.occ) where
  perm := fun hperm hP => ⟨hP.frame, fun w hw => hP.works w (hperm.mem_iff.mpr hw), hP.moving.perm hperm⟩
  clock := fun {_ s} l y g hP => ⟨hP.frame.keep s.hbm l y g, hP.works, hP.moving⟩
  step := by
    intro w ws s c hP
    have hw := hP.works w List.mem_cons_self
    cases w with
    | stage j g k acc =>
      obtain ⟨rfl, rfl, hk⟩ := hw
      exact sth_stepStage H c hP hk
    | hbm vs =>
      obtain ⟨a, k, rfl⟩ := hw
      obtain ⟨hrun, hfetch⟩ := hbmLand_run (sthNew_even H) s c a k
      rw [hrun]
      refine ⟨[], by simp, ⟨hP.frame.keep _ s.fab.flight s.fab.cyc s.fab.fresh, fun v hv => hP.works v (List.mem_cons_of_mem _ hv), ?_⟩, by simp [toCome, moveLeft], by simp⟩
      exact hP.moving.lands (p := fun b => ∃ w ∈ runOf (8 * a) (8 * k) (fun j => sthNew u i f (8 * a + j)), w.1 = b) (fun b hb => hb) hfetch
    | _ => exact hw.elim

end sth

theorem sth_stores {u : State} {i : Issue} {f : MoveF} (hq : QuietBay u i.spar.val) (hh : PlainHbm u) (hdec : decMove 0x81 u i = some f)
    (hchk : chkHbm false (u.held (u.hold i)) i f = none) :
    let t := settleAll (staged f i (u.hold i) u)
    t = { u.clockOf t with hbm := t.hbm, slk := t.slk } ∧ ((u.slot i.chan.val).job = none → t.slk = u.slk) ∧
      (∀ b, b < 64 * f.nsec → t.hbmByte false (sthDst u i f + b) = u.loftByte i.spar.val (effAddr u i.spar.val f.x + b)) ∧
      (∀ a, (a < sthDst u i f ∨ sthDst u i f + 64 * f.nsec ≤ a) → t.hbmByte false a = u.hbmByte false a) := by
  intro t
  obtain ⟨hop, hr1, hn1, hn2, hdec⟩ := decMove_some hdec
  obtain ⟨⟨hy1, hy2⟩, -⟩ := chkHbm_none hchk
  obtain ⟨hcalm, hm, hf, hp, -⟩ := hq
  have H : SthIssued u i f := ⟨hop, hdec, hr1, hp, hh, Mem.clean_of_nil hm hf, by unfold sthDst; omega⟩
  have hocc := MoveF.occ_le hr1
  have hstart : Storing u i (sthNew u i f) (sthLeft u i f) f.occ [.stage i (u.hold i) 0 []] { u with wire := [] } := by
    refine ⟨⟨u.slk, u.hbm, u.fab.flight, u.fab.cyc, u.fab.fresh, rfl, fun _ => rfl⟩, fun w hw => ?_, fun b => .inl rfl, fun b => ?_⟩
    · rw [List.mem_singleton.mp hw]
      exact ⟨rfl, rfl, MoveF.occ_pos hr1 hn1⟩
    · by_cases hb : sthDst u i f ≤ b ∧ b < sthDst u i f + 64 * f.nsec
      · exact .inr ⟨_, List.mem_singleton_self _, by omega, hb.2⟩
      · exact .inl (stored_out hb).symm
  obtain ⟨hflight, hS⟩ := (sth_anyhow H).settleAll hcalm hstart (c := i.c.toNat) (phase := 3) i.c.isLt (by dsimp only [moveLeft]; omega)
  have hfetch : ∀ b, t.hbm.fetch b = sthNew u i f b := hS.moving.done
  have hpt : PlainHbm t := fun a => hS.frame.plain hh a
  obtain ⟨k, m, fl, y, fr, ht, hk⟩ := hS.frame
  have ht : t = _ := ht
  have hfl : t.fab.flight = [] := hflight
  refine ⟨?_, fun hj => ?_, fun b hb => ?_, fun a ha => ?_⟩
  · rw [ht] at hfl ⊢
    obtain rfl : fl = [] := hfl
    rfl
  · rw [ht]
    exact hk hj
  · rw [hbmByte_own hpt, loftByte_own hp, hfetch]
    exact stored_in hb
  · rw [hbmByte_own hpt, hbmByte_own hh, hfetch]
    exact stored_out (by omega)

theorem loadAndStoreWords : Sys2Proof.Stated.LoadAndStoreWords := by
  intro s i f u n l h hq hh
  exact ⟨fun hi => ⟨_, commandWord_begins staged hi, ldh_loads hq hh hi.2.1 hi.2.2⟩,
    fun hi _ _ => ⟨_, commandWord_begins staged hi, sth_stores hq hh hi.2.1 hi.2.2⟩⟩

/-! ### Addresses that fault -/

/-- A word that is fetched and decodes but forms a bad address only posts its event (R72, R96). -/
theorem commandWord_faults {α : Type} {dec : State → Issue → Option α} {chk : State → Issue → α → Option IssueFault} (run : α → Issue → Held → State → State) {s : State}
    {i : Issue} (hf : Fetches (s.atIssue i) i) {f : α} (hd : dec (s.atIssue i) i = some f) {e : IssueFault}
    (hc : chk ((s.atIssue i).held ((s.atIssue i).hold i)) i f = some e) : commandWord (issueWord dec chk run) i s = .next (issueFault e i (s.atIssue i)) := by
  obtain ⟨r, hfetch⟩ := hf
  unfold commandWord commandAt
  simp only [hfetch, issueWord, hd, hc]

theorem loftCheck_address {s : State} {spar : Nat} {rds wrs : List (Nat × Nat × Nat)} {r : Nat × Nat × Nat} (hr : r ∈ rds ++ wrs) (h : 0x600000 < r.1 + r.2.1) :
    loftCheck s spar rds wrs = some .address := by
  unfold loftCheck
  refine if_pos (List.any_eq_true.mpr ⟨r, hr, ?_⟩)
  have hno : loftOk r.1 r.2.1 = false := decide_eq_false (by omega)
  simp [hno]

theorem addressFaults : Sys2Proof.Stated.AddressFaults := by
  intro s i e u v ends hfetch
  refine ⟨fun f hd hc => commandWord_faults staged hfetch hd hc, fun f hd hc => commandWord_faults staged hfetch hd hc, fun f hd hc => commandWord_faults staged hfetch hd hc,
    fun f hd hc => commandWord_faults staged hfetch hd hc, fun f hd hc => commandWord_faults staged hfetch hd hc, fun f _ hx => ?_, fun f _ hy => ?_, fun f _ hm ha => ?_⟩
  · unfold chkHbm
    dsimp only
    split
    · rfl
    · exact loftCheck_address (r := (effAddr u i.spar.val f.x, 64 * f.nsec, 64)) (by simp [v, effAddr_hold]) hx
  · have hno : hbmOk (effAddr v i.spar.val f.y) (64 * f.nsec) = false := decide_eq_false (fun h => Nat.not_lt.mpr h.1 hy)
    unfold chkHbm
    simp only [hno, Bool.not_false, Bool.true_or, if_true]
  · have ha' : v.absent f.dspar = true := ha
    unfold chkRig
    simp only [hm, ha', decide_true, Bool.and_self, Bool.or_true, if_true]

/-- Settles O20: LDH and STH move their sectors piece by piece, in whatever order these land, and a word with a bad address stops at its check. -/
theorem loadsAndStores : Obligations.LoadsAndStores := ⟨loadAndStoreWords, addressFaults⟩

end Sys2Proof.Machine

/-! SUPPORT. Fitting jobs: their steps, the offers of slack to them, and their checkpoints. -/

namespace Sys2Proof.Machine

theorem fld_whole (w : Word) : fld w 31 0 = w.toNat := by
  unfold fld
  have := w.isLt
  omega

theorem fld_bit (w : Word) (b : Nat) : fld w b b = 1 ↔ ¬fld w b b = 0 := by
  have : fld w b b < 2 ^ (b + 1 - b) := fld_lt w b b
  rw [Nat.add_sub_cancel_left] at this
  omega

/-! ### Steps -/

/-- What lets a step of a job start, clause by clause (R309, R310, R318, R322, R324). -/
theorem fitMayStart_iff {s : State} {n : Nat} {g : FitImage} (hg : s.jobFit n = some g) : fitMayStart s n = true ↔
    (s.job n).inStep = false ∧ (s.job n).stopping = false ∧ s.rast.paused = false ∧ s.rf (A.chanFitCtl n) 0 0 = 1 ∧
      0 < signedDiff 32 (s.reg (A.chanFitAvail n)).toNat (s.fitStep n) ∧ (g.steps = 0 ∨ s.fitStep n < g.steps) ∧
      s.rf (A.chanFitCtl n) 4 4 = 0 ∧ (s.rf (A.chanFitCtl n) 2 2 = 0 ∨ (s.job n).restored = true) := by
  have havail : s.rf (A.chanFitAvail n) 31 0 = (s.reg (A.chanFitAvail n)).toNat := fld_whole _
  have hckpt : s.ckptAsked n = false ↔ s.rf (A.chanFitCtl n) 4 4 = 0 := by
    unfold State.ckptAsked State.rf
    rw [decide_eq_false_iff_not, fld_bit, not_not]
  unfold fitMayStart
  simp only [hg, havail, Bool.and_eq_true, Bool.or_eq_true, Bool.not_eq_true', decide_eq_true_eq, hckpt, and_assoc]

theorem fitStepStart_image {s : State} {n : Nat} {g : FitImage} (hg : s.jobFit n = some g) : fitStepStart n s =
    if fitMayStart s n then s.setJob n { s.job n with inStep := true, running := false, next := g.nextFrom (s.fitStep n) 0 } else s := by
  unfold fitStepStart
  rw [hg]

theorem fitStepStart_none {s : State} {n : Nat} (hg : s.jobFit n = none) : fitStepStart n s = s := by
  unfold fitStepStart
  rw [hg]

theorem fitStepComplete_none {s : State} {n : Nat} (hg : s.jobFit n = none) : fitStepComplete n s = s := by
  unfold fitStepComplete
  rw [hg]

theorem fitStepComplete_early {s : State} {n : Nat} (h : (s.job n).inStep = false ∨ (s.job n).running = true) : fitStepComplete n s = s := by
  unfold fitStepComplete
  split
  · rfl
  · refine if_neg ?_
    rcases h with h | h <;> simp [h]

theorem posted_job {s t : State} (h : Posted s t) (n : Nat) : t.job n = s.job n := by
  unfold State.job
  rw [h]

/-- The verdict of a watch is an event or nothing. -/
theorem fitVerdict_posted (n step : Nat) (g : FitImage) (s : State) (w : Nat) : Posted s (fitVerdict n step g s w) := by
  unfold fitVerdict
  extract_lets f lim sat ufz
  split
  · exact post_posted _ _ _ _
  · exact .refl s

theorem fitVerdicts_posted (n step : Nat) (g : FitImage) (l : List Nat) (s : State) : Posted s (l.foldl (fitVerdict n step g) s) :=
  List.foldlRecOn (motive := Posted s) _ _ (.refl s) (fun _ ht w _ => ht.trans (fitVerdict_posted n step g _ w))

/-- A step whose bundles have all completed counts, and its watches are snapshot (R305, R309). -/
theorem fitStepComplete_counts {s : State} {n : Nat} {g : FitImage} (hg : s.jobFit n = some g) (h1 : (s.job n).inStep = true) (h2 : (s.job n).running = false)
    (h3 : g.nbund ≤ (s.job n).next) : ∃ t, Posted s t ∧ fitStepComplete n s =
      (t.setReg (A.chanFitStep n) (BitVec.ofNat 32 (s.fitStep n + 1))).setJob n
        { s.job n with inStep := false, next := 0, snapOwn := (s.job n).gatherOwn, gather := [], gatherOwn := [] } := by
  have hp := fitVerdicts_posted n (s.fitStep n) g (List.range 8) s
  have hj : ((List.range 8).foldl (fitVerdict n (s.fitStep n) g) s).job n = s.job n := posted_job hp n
  refine ⟨_, hp, ?_⟩
  generalize hu : (List.range 8).foldl (fitVerdict n (s.fitStep n) g) s = u at hj ⊢
  have hc : (s.job n).inStep = true ∧ (!(s.job n).running) = true ∧ g.nbund ≤ (s.job n).next := ⟨h1, by rw [h2]; rfl, h3⟩
  unfold fitStepComplete
  simp only [hg]
  rw [if_pos hc, hu, hj]

/-! ### Offers -/

theorem fitFits_iff {s : State} {n : Nat} {g : FitImage} (hg : s.jobFit n = some g) {b : Bool × Bool × Nat} (hb : (g.rows s.rast.reef)[(s.job n).next]? = some b) :
    fitFits s n = true ↔ bitOf g.reefMask s.rast.reef = true ∧ b.1 = s.slk.block ∧ b.2.2 ≤ s.slk.left := by
  unfold fitFits
  simp only [hg, hb, Bool.and_eq_true, decide_eq_true_eq, and_assoc]

theorem fitBundleStart_image {s : State} {ch n : Nat} {g : FitImage} (hg : s.jobFit n = some g) {b : Bool × Bool × Nat}
    (hb : (g.rows s.rast.reef)[(s.job n).next]? = some b) : fitBundleStart ch n s =
    { s with
      jobs := smPut Job.idle s.jobs n { s.job n with running := true, start := ((s.slk.fin - s.slk.left : Nat) : Int), len := b.2.2, consec := 0, starved := false }
      fab := { s.fab with ended := s.fab.ended.filter (fun e => decide (e.2 ≠ ch)), flight := s.fab.flight ++ [⟨s.slk.fin - s.slk.left + b.2.2, 0, .bundleEnd ch⟩] }
      slk := { s.slk with left := s.slk.left - b.2.2, lastBg := ch } } := by
  unfold fitBundleStart
  simp only [hg, hb]
  rfl

/-- An offer that the job does not take counts, and posts nothing but at the 65,536th in a row (R311). -/
theorem fitDefer_counts {s : State} {n : Nat} (h : (s.job n).consec + 1 ≠ 65536) :
    fitDefer n s = (s.bump (A.chanFitDefer n) 31 0 1).setJob n { s.job n with consec := (s.job n).consec + 1 } := by
  unfold fitDefer
  dsimp only
  rw [if_neg (fun hc => h hc.1)]

section offer
variable {s0 : State} (ho : s0.slk.isOpen = true) (hp : s0.rast.paused = false)
include ho hp

theorem exec_fitBundle_open : exec .fitBundle s0 = .next (fitBundle s0) :=
  congrArg Host.Outcome.next (if_pos ⟨ho, by rw [hp]; rfl⟩)

theorem exec_fitBundle_offers (hl : loftBatchWaits (reachOffer s0) = false) : exec .fitBundle s0 = .next (fitOffer (bgOrder (reachOffer s0)) (reachOffer s0)) := by
  rw [exec_fitBundle_open ho hp]
  unfold fitBundle
  dsimp only
  rw [hl]
  rfl

theorem exec_fitBundle_starts {ch n : Nat} {l : List (Nat × Nat)} {g : FitImage} {b : Bool × Bool × Nat} (hl : loftBatchWaits (reachOffer s0) = false)
    (hb : bgOrder (reachOffer s0) = (ch, n) :: l) (hg : (reachOffer s0).jobFit n = some g)
    (hr : (g.rows (reachOffer s0).rast.reef)[((reachOffer s0).job n).next]? = some b) (hm : bitOf g.reefMask (reachOffer s0).rast.reef = true)
    (hc : b.1 = (reachOffer s0).slk.block) (hlen : b.2.2 ≤ (reachOffer s0).slk.left) : exec .fitBundle s0 = .next (fitBundleStart ch n (reachOffer s0)) := by
  rw [exec_fitBundle_offers ho hp hl, hb]
  unfold fitOffer
  rw [if_pos ((fitFits_iff hg hr).mpr ⟨hm, hc, hlen⟩)]

theorem exec_fitBundle_defers {ch n : Nat} (hl : loftBatchWaits (reachOffer s0) = false) (hb : bgOrder (reachOffer s0) = [(ch, n)])
    (hf : fitFits (reachOffer s0) n = false) : exec .fitBundle s0 = .next (fitDefer n (reachOffer s0)) := by
  rw [exec_fitBundle_offers ho hp hl, hb]
  unfold fitOffer
  rw [hf]
  rfl

theorem exec_fitBundle_idle (h : bgOrder (reachOffer s0) = [] ∨ loftBatchWaits (reachOffer s0) = true) : exec .fitBundle s0 = .next (reachOffer s0) := by
  rw [exec_fitBundle_open ho hp]
  unfold fitBundle
  dsimp only
  cases hl : loftBatchWaits (reachOffer s0)
  · rw [h.resolve_right (by simp [hl])]
    rfl
  · rfl

end offer

/-- A write of AVAIL or of CKPT by a served port. -/
theorem served_put {p : Fin 4} {s : State} {a : Nat} (h : Served s p a) (v : Word) (f : State → State) : fromPort p s (s.hostPut p.val a v f) = .next (f s) := by
  rw [hostPut_served h.2, fromPort_next h.1]

theorem fittingSteps : Sys2Proof.Stated.FittingSteps := by
  refine ⟨fun n s g hg => ⟨fun may => ?_, fun may => ?_⟩, fun n s hg => congrArg _ (fitStepStart_none hg), fun n s0 h => ?_, ?_, ?_, fun s h => ?_,
    fun s0 ho hp h => exec_fitBundle_idle ho hp h, ?_, fun p n v s h => ⟨fun hp => ?_, fun hp => ?_⟩⟩
  · refine congrArg Host.Outcome.next ?_
    rw [fitStepStart_image hg, if_pos ((fitMayStart_iff hg).mpr may)]
  · refine congrArg Host.Outcome.next ?_
    rw [fitStepStart_image hg, if_neg (fun hm => may ((fitMayStart_iff hg).mp hm))]
  · refine congrArg Host.Outcome.next ?_
    rcases h with h | h
    · exact fitStepComplete_none h
    · exact fitStepComplete_early h
  · intro s0 ch n l g b ho hp s hl hb hg hr hm hc hlen at'
    refine ⟨_, exec_fitBundle_starts ho hp hl hb hg hr hm hc hlen, ?_⟩
    rw [fitBundleStart_image hg hr]
    refine ⟨rfl, rfl, ?_, fun m hm => ?_, rfl, fun e => ?_⟩
    · exact (State.job_setJob s n n _).trans (if_pos rfl)
    · exact (State.job_setJob s n m _).trans (if_neg hm)
    · simp
  · intro s0 ch n ho hp s hl hb hf hc
    refine ⟨_, exec_fitBundle_defers ho hp hl hb hf, ?_⟩
    rw [fitDefer_counts hc]
    refine ⟨rfl, ?_, fun m hm => ?_, fun a ha => State.reg_bump_ne s _ 31 0 1 ha, ?_⟩
    · exact (State.job_setJob _ n n _).trans (if_pos rfl)
    · exact (State.job_setJob _ n m _).trans (if_neg hm)
    · have := State.rf_bump_same s (a := A.chanFitDefer n) (hi := 31) (lo := 0) 1 (by decide) (by decide)
      unfold State.rf at this
      rw [fld_whole, fld_whole] at this
      exact this
  · refine congrArg Host.Outcome.next (if_neg ?_)
    rcases h with h | h <;> simp [h]
  · intro n s0 g s hg h1 h2 h3
    obtain ⟨t, ht, he⟩ := fitStepComplete_counts hg h1 h2 h3
    refine ⟨_, congrArg Host.Outcome.next he, ?_, ?_, fun a ha => ?_, fun m hm => ?_, ?_⟩
    · exact (State.job_setJob _ n.val n.val _).trans (if_pos rfl)
    · exact State.reg_setReg_same t _ _
    · exact (State.reg_setReg_ne t _ ha).trans (ht.reg_eq a)
    · refine (State.job_setJob _ n.val m _).trans ((if_neg hm).trans ?_)
      unfold State.job State.setReg
      rw [ht]
    · rw [ht]
      rfl
  · exact (served_put h v _).trans (congrArg _ (if_pos hp))
  · exact (served_put h v _).trans (congrArg _ (if_neg hp))

/-! ### Checkpoints written -/

theorem State.setRf_bits {s : State} (a hi lo v : Nat) : (s.setRf a hi lo v).reg a = setFld (s.reg a) lo (hi + 1 - lo) v := State.reg_setReg_same s a _

/-- A merge of bytes into HBM records what reads of HBM record. -/
theorem hbmMerge_noted (s : State) (src : Nat) (ws : List (Nat × Byte × Nat)) : HbmNoted s (s.hbmMerge src ws) := by
  unfold State.hbmMerge
  split
  · exact .refl s
  · exact List.foldlRecOn (motive := HbmNoted s) _ _ (.refl s) (fun t ht cw _ => ht.hbmReadCw src cw)

/-- A register bumped for each of some spars: only those counters change. -/
theorem foldl_bump_only (f : Nat → Nat) (l : List Nat) (s : State) : let t := l.foldl (fun (t : State) m => t.bump (A.sparCrucPerr m) 31 0 (f m)) s
    t = { s with regs := t.regs } ∧ ∀ r, (∀ m ∈ l, r ≠ A.sparCrucPerr m) → t.reg r = s.reg r := by
  induction l generalizing s with
  | nil => exact ⟨rfl, fun _ _ => rfl⟩
  | cons m t ih =>
    obtain ⟨h1, h2⟩ := ih (s.bump (A.sparCrucPerr m) 31 0 (f m))
    refine ⟨h1, fun r hr => (h2 r (fun k hk => hr k (List.mem_cons_of_mem _ hk))).trans ?_⟩
    exact State.reg_bump_ne s _ 31 0 _ (hr m List.mem_cons_self)

theorem jobSpars_nodup (s : State) (g : FitImage) : (jobSpars s g).Nodup := List.nodup_range.filter _

theorem mem_jobSpars_lt {s : State} {g : FitImage} {m : Nat} (h : m ∈ jobSpars s g) : m < 64 := List.mem_range.mp (List.mem_of_mem_filter h)

/-- What stands in place of a checkpoint request that is carried out, before its event. -/
def ckptWritten (n : Nat) (g : FitImage) (s : State) : State :=
  ((jobSpars s g).foldl (fun (t : State) m => t.bump (A.sparCrucPerr m) 31 0 ((ckptSlots g).foldl (fun a k => a + slotPerr s g.slotUse m k) 0))
    (s.putImage 4 (jobPart s n).1 (jobPart s n).2 (4096 * s.rf (A.chanFitCkbase n) 22 0) (ckptImage s n g))).setRf (A.chanFitCtl n) 4 4 0

theorem fitCkptDone_written {s : State} {n : Nat} {g : FitImage} (hg : s.jobFit n = some g) (h1 : s.rf (A.chanFitCtl n) 4 4 = 1) (h2 : (s.job n).inStep = false)
    (h3 : s.slk.isOpen = true) (h4 : s.slk.block = true) :
    fitCkptDone n s = (ckptWritten n g s).post [s.jobPort n] 0x0334 [(1, n), (4, s.fitStep n)] := by
  have hc : s.ckptAsked n = true ∧ (!(s.job n).inStep) = true ∧ s.slk.isOpen = true ∧ s.slk.block = true := ⟨decide_eq_true h1, by rw [h2]; rfl, h3, h4⟩
  unfold fitCkptDone
  simp only [hg]
  rw [if_pos hc]
  rfl

theorem fitCkptDone_idle {s : State} {n : Nat} (h : s.rf (A.chanFitCtl n) 4 4 = 0 ∨ (s.job n).inStep = true ∨ s.slk.isOpen = false ∨ s.slk.block = false) :
    fitCkptDone n s = s := by
  unfold fitCkptDone
  split
  · rfl
  · refine if_neg ?_
    unfold State.ckptAsked
    rcases h with h | h | h | h <;> simp [h]

/-- The registers that a written checkpoint leaves (R84, R322). -/
theorem ckptWritten_regs {s : State} {n : Nat} (hn : n < 8) (g : FitImage) :
    (ckptWritten n g s).reg (A.chanFitCtl n) = setFld (s.reg (A.chanFitCtl n)) 4 1 0 ∧
    (s.hbm.marks = [] → s.hbm.flips = [] →
      (∀ r, r ≠ A.chanFitCtl n → (∀ m, m < 64 → r ≠ A.sparCrucPerr m) → (ckptWritten n g s).reg r = s.reg r) ∧
      ckptWritten n g s = { s with hbm := (ckptWritten n g s).hbm, regs := (ckptWritten n g s).regs }) := by
  have hlow : A.chanFitCtl n < 0x600000 := by unfold A.chanFitCtl; omega
  have hput : s.hbm.marks = [] → s.hbm.flips = [] → ∀ lo hi a l, ∃ m, s.putImage 4 lo hi a l = { s with hbm := m } := by
    intro hm hf lo hi a l
    unfold State.putImage
    extract_lets ws u
    have hu : u = s := hbmMerge_quiet s 4 ws hm hf
    rw [hu]
    exact ⟨_, rfl⟩
  have hctl : ∀ lo hi a l, (s.putImage 4 lo hi a l).reg (A.chanFitCtl n) = s.reg (A.chanFitCtl n) := fun lo hi a l => (hbmMerge_noted s 4 _).regs _ hlow
  unfold ckptWritten
  generalize hp : s.putImage 4 (jobPart s n).1 (jobPart s n).2 (4096 * s.rf (A.chanFitCkbase n) 22 0) (ckptImage s n g) = p
  obtain ⟨h1, h2⟩ := foldl_bump_only (fun m => (ckptSlots g).foldl (fun a k => a + slotPerr s g.slotUse m k) 0) (jobSpars s g) p
  generalize (jobSpars s g).foldl (fun (t : State) m => t.bump (A.sparCrucPerr m) 31 0 ((ckptSlots g).foldl (fun a k => a + slotPerr s g.slotUse m k) 0)) p = q at h1 h2 ⊢
  refine ⟨?_, fun hm hf => ⟨fun r hr hs => ?_, ?_⟩⟩
  · rw [State.setRf_bits, h2 _ (fun m hm => by unfold A.chanFitCtl A.sparCrucPerr; omega), ← hp, hctl]
  · obtain ⟨m, he⟩ := hput hm hf (jobPart s n).1 (jobPart s n).2 (4096 * s.rf (A.chanFitCkbase n) 22 0) (ckptImage s n g)
    rw [State.reg_setRf_ne q _ 4 4 0 hr, h2 r (fun m hm => hs m (mem_jobSpars_lt hm)), ← hp, he]
    rfl
  · obtain ⟨m, he⟩ := hput hm hf (jobPart s n).1 (jobPart s n).2 (4096 * s.rf (A.chanFitCkbase n) 22 0) (ckptImage s n g)
    rw [h1, ← hp, he]
    rfl

theorem ckptWritten_hbm (s : State) (n : Nat) (g : FitImage) : (ckptWritten n g s).hbm =
    s.hbm.write (((ckptImage s n g).zipIdx.map (fun b => (4096 * s.rf (A.chanFitCkbase n) 22 0 + b.2, b.1.1, b.1.2))).filter
      (fun b => decide ((jobPart s n).1 ≤ b.1 ∧ b.1 < (jobPart s n).2))) := by
  unfold ckptWritten
  obtain ⟨h1, -⟩ := foldl_bump_only (fun m => (ckptSlots g).foldl (fun a k => a + slotPerr s g.slotUse m k) 0) (jobSpars s g)
    (s.putImage 4 (jobPart s n).1 (jobPart s n).2 (4096 * s.rf (A.chanFitCkbase n) 22 0) (ckptImage s n g))
  exact congrArg State.hbm h1

/-! ### Checkpoints loaded -/

/-- The registers of one kind of one spar, read back one after the other. -/
def readFile {α : Type} (set : State → Nat → α → State) (f : Nat → α) (w : Nat) (l : List Nat) (x : State × Nat) : State × Nat :=
  l.foldl (fun acc k => (set acc.1 k (f acc.2), acc.2 + w)) x

/-- Each register named holds what stands in its place, and no other register changes. -/
theorem readFile_spec {α : Type} (get : State → Nat → Nat → α) (set : State → Nat → α → State) {m B : Nat}
    (hset : ∀ s k v m' k', k < B → k' < B → get (set s k v) m' k' = if m' = m ∧ k' = k then v else get s m' k') (f : Nat → α) (w : Nat) {l : List Nat} (hl : ∀ k ∈ l, k < B)
    (hn : l.Nodup) (x : State × Nat) :
    (readFile set f w l x).2 = x.2 + w * l.length ∧ (∀ r k, l[r]? = some k → get (readFile set f w l x).1 m k = f (x.2 + w * r)) ∧
    ∀ m' k, k < B → ¬(m' = m ∧ k ∈ l) → get (readFile set f w l x).1 m' k = get x.1 m' k := by
  induction l generalizing x with
  | nil => exact ⟨rfl, by simp, fun _ _ _ _ => rfl⟩
  | cons a l ih =>
    obtain ⟨ha, hn⟩ := List.nodup_cons.mp hn
    obtain ⟨h1, h2, h3⟩ := ih (fun k hk => hl k (List.mem_cons_of_mem _ hk)) hn (set x.1 a (f x.2), x.2 + w)
    have haB := hl a List.mem_cons_self
    refine ⟨?_, fun r k hk => ?_, fun m' k hk hno => ?_⟩
    · refine h1.trans ?_
      rw [List.length_cons, Nat.mul_succ]
      dsimp only
      omega
    · cases r with
      | zero =>
        obtain rfl : a = k := by simpa using hk
        refine (h3 m a haB (fun h => ha h.2)).trans ?_
        exact (hset _ _ _ _ _ haB haB).trans (if_pos ⟨rfl, rfl⟩)
      | succ r =>
        refine (h2 r k (by simpa using hk)).trans ?_
        rw [Nat.mul_succ]
        dsimp only
        congr 1
        omega
    · refine (h3 m' k hk (fun h => hno ⟨h.1, List.mem_cons_of_mem _ h.2⟩)).trans ?_
      refine (hset _ _ _ _ _ haB hk).trans (if_neg ?_)
      rintro ⟨rfl, rfl⟩
      exact hno ⟨rfl, List.mem_cons_self⟩

/-- Nothing but S and A registers and GEN_IDX changed. -/
def FilesOnly (s t : State) : Prop := ∃ x y z, t = { s with fab := { s.fab with sreg := x, areg := y, gen := z } }

theorem FilesOnly.refl (s : State) : FilesOnly s s := ⟨_, _, _, rfl⟩

theorem FilesOnly.trans {s t u : State} (h : FilesOnly s t) (h' : FilesOnly t u) : FilesOnly s u := by
  obtain ⟨x, y, z, rfl⟩ := h
  obtain ⟨x', y', z', rfl⟩ := h'
  exact ⟨x', y', z', rfl⟩

theorem readFile_filesOnly {α : Type} {set : State → Nat → α → State} (hset : ∀ s k v, FilesOnly s (set s k v)) (f : Nat → α) (w : Nat) (l : List Nat) (x : State × Nat) :
    FilesOnly x.1 (readFile set f w l x).1 := by
  induction l generalizing x with
  | nil => exact .refl _
  | cons a l ih => exact (hset x.1 a (f x.2)).trans (ih _)

/-- The S registers that a fitting image declares, and the A registers. -/
def declS (g : FitImage) : List Nat := (List.range 32).filter (bitOf g.sUse)
def declA (g : FitImage) : List Nat := (List.range 8).filter (bitOf g.aUse)

/-- How many bytes of a checkpoint the declared registers of one spar take. -/
def ckptRegSize (g : FitImage) : Nat := 4 * (declS g).length + 5 * (declA g).length + (if g.gen then 5 else 0)

/-- The declared registers of spar m hold what stands from `a` on in the checkpoint, in the order in which they were written (R323, R324). -/
def RegsRead (s t : State) (g : FitImage) (m a : Nat) : Prop :=
  (∀ r k, (declS g)[r]? = some k → t.sReg m k = BitVec.ofNat 32 (s.imgNum (a + 4 * r) 4)) ∧
  ∀ r k, (declA g)[r]? = some k → t.aReg m k = BitVec.ofNat 40 (s.imgNum (a + 4 * (declS g).length + 5 * r) 5)

/-- Beside the declared registers of some spars, every S and A register reads as before. -/
def RegsKept (s t : State) (g : FitImage) (ms : List Nat) : Prop :=
  (∀ m k, k < 32 → ¬(m ∈ ms ∧ k ∈ declS g) → t.sReg m k = s.sReg m k) ∧ ∀ m k, k < 8 → ¬(m ∈ ms ∧ k ∈ declA g) → t.aReg m k = s.aReg m k

theorem declS_lt {g : FitImage} {k : Nat} (h : k ∈ declS g) : k < 32 := List.mem_range.mp (List.mem_of_mem_filter h)
theorem declA_lt {g : FitImage} {k : Nat} (h : k ∈ declA g) : k < 8 := List.mem_range.mp (List.mem_of_mem_filter h)

section read
variable (g : FitImage) (m : Nat) (s : State) (x : State × Nat)

/-- The declared S registers of spar m, its A registers and its GEN_IDX, read back from where the last reading ended. -/
def readS : State × Nat := readFile (fun t k v => t.setS m k v) (fun b => BitVec.ofNat 32 (s.imgNum b 4)) 4 (declS g) x
def readA : State × Nat := readFile (fun t k v => t.setA m k v) (fun b => BitVec.ofNat 40 (s.imgNum b 5)) 5 (declA g) x
def readGen : State × Nat := if g.gen then (x.1.setGen m (BitVec.ofNat 40 (s.imgNum x.2 5)), x.2 + 5) else x

theorem readCkptRegs_eq (a : Nat) : readCkptRegs g m a s = readGen g m s (readA g m s (readS g m s (s, a))) := rfl

theorem readS_filesOnly : FilesOnly x.1 (readS g m s x).1 := readFile_filesOnly (fun t _ _ => ⟨_, t.fab.areg, t.fab.gen, rfl⟩) _ _ _ _

theorem readA_filesOnly : FilesOnly x.1 (readA g m s x).1 := readFile_filesOnly (fun t _ _ => ⟨t.fab.sreg, _, t.fab.gen, rfl⟩) _ _ _ _

theorem readGen_filesOnly : FilesOnly x.1 (readGen g m s x).1 := by
  unfold readGen
  split
  · exact ⟨x.1.fab.sreg, x.1.fab.areg, _, rfl⟩
  · exact .refl _

/-- Reading S registers leaves the A registers, reading A registers the S registers, and reading GEN_IDX both. -/
theorem readS_areg : (readS g m s x).1.fab.areg = x.1.fab.areg :=
  List.foldlRecOn (motive := fun z : State × Nat => z.1.fab.areg = x.1.fab.areg) _ _ rfl (fun _ hz _ _ => hz)

theorem readA_sreg : (readA g m s x).1.fab.sreg = x.1.fab.sreg :=
  List.foldlRecOn (motive := fun z : State × Nat => z.1.fab.sreg = x.1.fab.sreg) _ _ rfl (fun _ hz _ _ => hz)

theorem readGen_files : (readGen g m s x).1.fab.sreg = x.1.fab.sreg ∧ (readGen g m s x).1.fab.areg = x.1.fab.areg ∧
    (readGen g m s x).2 = x.2 + if g.gen then 5 else 0 := by
  unfold readGen
  split <;> exact ⟨rfl, rfl, rfl⟩

/-- One spar's registers read back. -/
theorem readCkptRegs_spec (a : Nat) : let z := readCkptRegs g m a s
    z.2 = a + ckptRegSize g ∧ FilesOnly s z.1 ∧ RegsRead s z.1 g m a ∧ RegsKept s z.1 g [m] := by
  intro z
  have hz : z = readGen g m s (readA g m s (readS g m s (s, a))) := readCkptRegs_eq g m s a
  obtain ⟨s1, s2, s3⟩ := readFile_spec (m := m) State.sReg (fun t k v => t.setS m k v) (fun t k v m' k' hk hk' => State.sReg_setS t m k m' k' v hk hk')
    (fun b => BitVec.ofNat 32 (s.imgNum b 4)) 4 (fun k hk => declS_lt hk) (List.nodup_range.filter _) (s, a)
  have s4 := readS_filesOnly g m s (s, a)
  have s5 := readS_areg g m s (s, a)
  change (readS g m s (s, a)).2 = _ at s1
  change ∀ r k, (declS g)[r]? = some k → (readS g m s (s, a)).1.sReg m k = _ at s2
  change ∀ m' k, k < 32 → ¬(m' = m ∧ k ∈ declS g) → (readS g m s (s, a)).1.sReg m' k = s.sReg m' k at s3
  generalize readS g m s (s, a) = x at s1 s2 s3 s4 s5 hz
  obtain ⟨a1, a2, a3⟩ := readFile_spec (m := m) State.aReg (fun t k v => t.setA m k v) (fun t k v m' k' hk hk' => State.aReg_setA t m k m' k' v hk hk')
    (fun b => BitVec.ofNat 40 (s.imgNum b 5)) 5 (fun k hk => declA_lt hk) (List.nodup_range.filter _) x
  have a4 := readA_filesOnly g m s x
  have a5 := readA_sreg g m s x
  change (readA g m s x).2 = _ at a1
  change ∀ r k, (declA g)[r]? = some k → (readA g m s x).1.aReg m k = _ at a2
  change ∀ m' k, k < 8 → ¬(m' = m ∧ k ∈ declA g) → (readA g m s x).1.aReg m' k = x.1.aReg m' k at a3
  generalize readA g m s x = y at a1 a2 a3 a4 a5 hz
  have g1 := readGen_filesOnly g m s y
  obtain ⟨g2, g3, g4⟩ := readGen_files g m s y
  rw [← hz] at g1 g2 g3 g4
  have hS : ∀ m' k, z.1.sReg m' k = x.1.sReg m' k := fun m' k => by unfold State.sReg; rw [g2, a5]
  have hA : ∀ m' k, z.1.aReg m' k = y.1.aReg m' k := fun m' k => by unfold State.aReg; rw [g3]
  have hA0 : ∀ m' k, x.1.aReg m' k = s.aReg m' k := fun m' k => by unfold State.aReg; rw [s5]
  refine ⟨?_, s4.trans (a4.trans g1), ⟨fun r k hk => ?_, fun r k hk => ?_⟩, fun m' k hk hno => ?_, fun m' k hk hno => ?_⟩
  · rw [g4, a1, s1, ckptRegSize]
    omega
  · rw [hS]
    exact s2 r k hk
  · rw [hA, a2 r k hk, s1]
  · rw [hS]
    exact s3 m' k hk (fun h => hno ⟨List.mem_singleton.mpr h.1, h.2⟩)
  · rw [hA, a3 m' k hk (fun h => hno ⟨List.mem_singleton.mpr h.1, h.2⟩), hA0]

end read

theorem FilesOnly.imgNum {s t : State} (h : FilesOnly s t) (a n : Nat) : t.imgNum a n = s.imgNum a n := by
  obtain ⟨x, y, z, rfl⟩ := h
  rfl

/-- The registers of several spars read back, spar after spar. -/
def readSpars (g : FitImage) (sp : List Nat) (x : State × Nat) : State × Nat := sp.foldl (fun acc m => readCkptRegs g m acc.2 acc.1) x

theorem readSpars_spec (g : FitImage) {sp : List Nat} (hn : sp.Nodup) (s : State) (a : Nat) : let z := readSpars g sp (s, a)
    FilesOnly s z.1 ∧ (∀ i m, sp[i]? = some m → RegsRead s z.1 g m (a + ckptRegSize g * i)) ∧ RegsKept s z.1 g sp := by
  induction sp generalizing s a with
  | nil => exact ⟨.refl s, by simp, fun _ _ _ _ => rfl, fun _ _ _ _ => rfl⟩
  | cons m sp ih =>
    obtain ⟨hm, hn⟩ := List.nodup_cons.mp hn
    obtain ⟨h1, h2, ⟨hS, hA⟩, hkS, hkA⟩ := readCkptRegs_spec g m s a
    obtain ⟨i1, i2, iS, iA⟩ := ih hn (readCkptRegs g m a s).1 (readCkptRegs g m a s).2
    intro z
    have hz : z = readSpars g sp ((readCkptRegs g m a s).1, (readCkptRegs g m a s).2) := rfl
    rw [← hz] at i1 i2 iS iA
    refine ⟨h2.trans i1, fun i k hk => ?_, fun k j hj hno => ?_, fun k j hj hno => ?_⟩
    · cases i with
      | zero =>
        obtain rfl : m = k := by simpa using hk
        refine ⟨fun r j hj => ?_, fun r j hj => ?_⟩
        · rw [iS m j (declS_lt (List.mem_of_getElem? hj)) (fun h => hm h.1)]
          exact hS r j hj
        · rw [iA m j (declA_lt (List.mem_of_getElem? hj)) (fun h => hm h.1)]
          exact hA r j hj
      | succ i =>
        obtain ⟨hS', hA'⟩ := i2 i k (by simpa using hk)
        rw [h1, show a + ckptRegSize g + ckptRegSize g * i = a + ckptRegSize g * (i + 1) by rw [Nat.mul_succ]; omega] at hS' hA'
        exact ⟨fun r j hj => (hS' r j hj).trans (by rw [h2.imgNum]), fun r j hj => (hA' r j hj).trans (by rw [h2.imgNum])⟩
    · rw [iS k j hj (fun h => hno ⟨List.mem_cons_of_mem _ h.1, h.2⟩)]
      exact hkS k j hj (fun h => hno ⟨List.mem_cons.mpr (.inl (List.mem_singleton.mp h.1)), h.2⟩)
    · rw [iA k j hj (fun h => hno ⟨List.mem_cons_of_mem _ h.1, h.2⟩)]
      exact hkA k j hj (fun h => hno ⟨List.mem_cons.mpr (.inl (List.mem_singleton.mp h.1)), h.2⟩)

/-- Nothing but crucible, descriptors and bays changed. -/
def StoresLoaded (s t : State) : Prop := ∃ c d l, t = { s with fab := { s.fab with crucible := c, descr := d, loft := l } }

theorem StoresLoaded.refl (s : State) : StoresLoaded s s := ⟨_, _, _, rfl⟩

theorem StoresLoaded.trans {s t u : State} (h : StoresLoaded s t) (h' : StoresLoaded t u) : StoresLoaded s u := by
  obtain ⟨x, y, z, rfl⟩ := h
  obtain ⟨x', y', z', rfl⟩ := h'
  exact ⟨x', y', z', rfl⟩

theorem readDescr_loads (s : State) (a m h : Nat) : StoresLoaded s (readDescr s a m h) := ⟨s.fab.crucible, _, s.fab.loft, rfl⟩

theorem readSlot_loads (s : State) (use a m k : Nat) : StoresLoaded s (readSlot s use a m k) := ⟨_, s.fab.descr, s.fab.loft, rfl⟩

theorem readBay_loads (s : State) (a m ofs len : Nat) : StoresLoaded s (readBay s a m ofs len) := ⟨s.fab.crucible, s.fab.descr, _, rfl⟩

theorem readCkptCrucible_loads (g : FitImage) (m a : Nat) (s : State) : StoresLoaded s (readCkptCrucible g m a s).1 := by
  unfold readCkptCrucible
  extract_lets descr
  have hd : ∀ (t : State) (b h : Nat), StoresLoaded t (descr t b h) := fun t b h => by
    unfold descr
    split
    · exact readDescr_loads t b m h
    · exact .refl t
  exact List.foldlRecOn (motive := fun z : State × Nat => StoresLoaded s z.1) _ _ (.refl s)
    (fun z hz k _ => ((hz.trans (hd _ _ _)).trans (hd _ _ _)).trans (readSlot_loads _ _ _ _ _))

theorem readBays_loads (rs : List (Nat × Nat × Nat)) (a : Nat) (s : State) : StoresLoaded s (readBays rs a s).1 :=
  List.foldlRecOn (motive := fun z : State × Nat => StoresLoaded s z.1) _ _ (.refl s) (fun _ hz _ _ => hz.trans (readBay_loads _ _ _ _ _))

/-- A checkpoint loaded: the registers of its spars, what lies behind them, and the state of the job. -/
theorem ckptLoad_eq (n a : Nat) (g : FitImage) (s : State) : ∃ (t : State) (snap : List (Nat × BitVec 16)) (v : Word), StoresLoaded (readSpars g (jobSpars s g) (s, a + 64)).1 t ∧
    fld v 1 0 = s.imgNum (a + 12) 4 % 4 ∧
    ckptLoad n a g s = ((t.setReg (A.chanFitStep n) (BitVec.ofNat 32 (s.imgNum (a + 4) 4))).setReg (A.chanFitPstat n) v).setJob n
      { t.job n with restored := true, nextVer := s.imgNum (a + 8) 4, snapOwn := snap } := by
  unfold ckptLoad
  extract_lets sp r1 snap r2 r3 r4 t ver front
  refine ⟨t, snap, _, ?_, ?_, rfl⟩
  · have h2 : StoresLoaded r1.1 r2.1 := List.foldlRecOn (motive := fun z : State × Nat => StoresLoaded r1.1 z.1) _ _ (.refl r1.1)
      (fun _ hz m _ => hz.trans (readCkptCrucible_loads g m _ _))
    exact (h2.trans (readBays_loads _ r2.2 r2.1)).trans (readBays_loads _ r3.2 r3.1)
  · unfold fld
    rw [BitVec.toNat_ofNat]
    unfold front
    omega

theorem fitCkptRestore_tries {s : State} {n : Nat} {g : FitImage} (hg : s.jobFit n = some g) (h1 : s.rf (A.chanFitCtl n) 2 2 = 1) (h2 : (s.job n).restored = false)
    (h3 : (s.job n).inStep = false) (h4 : s.fitStep n = 0) (h5 : s.slk.isOpen = true) : let a := 4096 * s.rf (A.chanFitCkbase n) 22 0
    fitCkptRestore n s = if ckptGood s n a g then ckptLoad n a g (s.hbmTake 4 a (ckptLen s n g + 8))
      else (s.hbmTake 4 a (ckptLen s n g + 8)).post [s.jobPort n] 0x0335 [(1, n)] := by
  have hc : s.rf (A.chanFitCtl n) 2 2 = 1 ∧ (!(s.job n).restored) = true ∧ (!(s.job n).inStep) = true ∧ s.fitStep n = 0 ∧ s.slk.isOpen = true :=
    ⟨h1, by rw [h2]; rfl, by rw [h3]; rfl, h4, h5⟩
  unfold fitCkptRestore
  simp only [hg]
  rw [if_pos hc]

theorem fitCkptRestore_idle {s : State} {n : Nat}
    (h : s.rf (A.chanFitCtl n) 2 2 = 0 ∨ (s.job n).restored = true ∨ (s.job n).inStep = true ∨ s.fitStep n ≠ 0 ∨ s.slk.isOpen = false) : fitCkptRestore n s = s := by
  unfold fitCkptRestore
  split
  · rfl
  · refine if_neg ?_
    rcases h with h | h | h | h | h <;> simp [h]

theorem HbmNoted.imgNum {s t : State} (h : HbmNoted s t) (a n : Nat) : t.imgNum a n = s.imgNum a n := by
  unfold State.imgNum
  rw [h.hbm]

theorem HbmNoted.jobSpars {s t : State} (h : HbmNoted s t) (g : FitImage) : jobSpars t g = jobSpars s g := by
  unfold Machine.jobSpars State.absent State.phys
  rw [h.fab]

theorem hbmTake_noted (s : State) (src a n : Nat) : HbmNoted s (s.hbmTake src a n) := by
  unfold State.hbmTake
  split
  · exact .refl s
  · exact List.foldlRecOn (motive := HbmNoted s) _ _ (.refl s) (fun t ht cw _ => ht.hbmReadCw src cw)

/-- What a loaded checkpoint leaves (R324). -/
theorem ckptLoad_spec {n : Nat} (a : Nat) (g : FitImage) (s : State) : let t := ckptLoad n a g s
    t.reg (A.chanFitStep n) = BitVec.ofNat 32 (s.imgNum (a + 4) 4) ∧ (t.job n).restored = true ∧ (t.job n).nextVer = s.imgNum (a + 8) 4 ∧
    t.rf (A.chanFitPstat n) 1 0 = s.imgNum (a + 12) 4 % 4 ∧ t.hbm = s.hbm ∧ (∀ r, r ≠ A.chanFitStep n → r ≠ A.chanFitPstat n → t.reg r = s.reg r) ∧
    (∀ i m, (jobSpars s g)[i]? = some m → RegsRead s t g m (a + 64 + ckptRegSize g * i)) ∧ RegsKept s t g (jobSpars s g) := by
  obtain ⟨t, snap, v, hload, hv, he⟩ := ckptLoad_eq n a g s
  obtain ⟨hf, hread, hkept⟩ := readSpars_spec g (jobSpars_nodup s g) s (a + 64)
  have hne : A.chanFitStep n ≠ A.chanFitPstat n := by unfold A.chanFitStep A.chanFitPstat; omega
  generalize (readSpars g (jobSpars s g) (s, a + 64)).1 = u at hload hf hread hkept
  obtain ⟨x, y, z, rfl⟩ := hf
  obtain ⟨c, d, l, rfl⟩ := hload
  rw [he]
  refine ⟨?_, ?_, ?_, ?_, rfl, fun r h1 h2 => ?_, hread, hkept⟩
  · exact (State.reg_setReg_ne _ v hne).trans (State.reg_setReg_same _ _ _)
  · exact congrArg Job.restored ((State.job_setJob _ n n _).trans (if_pos rfl))
  · exact congrArg Job.nextVer ((State.job_setJob _ n n _).trans (if_pos rfl))
  · exact (congrArg (fun w => fld w 1 0) (State.reg_setReg_same _ _ v)).trans hv
  · exact (State.reg_setReg_ne _ v h2).trans (State.reg_setReg_ne _ _ h1)

theorem checkpoints : Sys2Proof.Stated.Checkpoints := by
  refine ⟨fun p n s h => ⟨fun hp => ?_, fun hp => ?_⟩, fun n s g hg h1 h2 h3 h4 => ?_, fun n s g _ h => congrArg _ (fitCkptDone_idle h),
    fun n s g hg h1 h2 h3 h4 h5 => ⟨fun hgood => ?_, fun hgood => ?_⟩, fun n s h => congrArg _ (fitCkptRestore_idle h)⟩
  · exact (served_put h _ _).trans (congrArg _ (if_pos hp))
  · exact (served_put h _ _).trans (congrArg _ (if_neg hp))
  · obtain ⟨hctl, hquiet⟩ := ckptWritten_regs (s := s) n.isLt g
    exact ⟨ckptWritten n g s, _, congrArg Host.Outcome.next (fitCkptDone_written hg h1 h2 h3 h4), ckptWritten_hbm s n g, hctl, hquiet, postAt_event _ _ (by decide) 0 _⟩
  · refine ⟨_, congrArg Host.Outcome.next ((fitCkptRestore_tries hg h1 h2 h3 h4 h5).trans (if_neg (by rw [hgood]; simp))), postAt_event _ _ (by decide) 0 _⟩
  · refine ⟨_, congrArg Host.Outcome.next ((fitCkptRestore_tries hg h1 h2 h3 h4 h5).trans (if_pos hgood)), ?_⟩
    have hn := hbmTake_noted s 4 (4096 * s.rf (A.chanFitCkbase n) 22 0) (ckptLen s n g + 8)
    have hquiet : s.hbm.marks = [] → s.hbm.flips = [] → s.hbmTake 4 (4096 * s.rf (A.chanFitCkbase n) 22 0) (ckptLen s n g + 8) = s := fun hm hf => if_pos ⟨hm, hf⟩
    generalize s.hbmTake 4 (4096 * s.rf (A.chanFitCkbase n) 22 0) (ckptLen s n g + 8) = u at hn hquiet ⊢
    obtain ⟨l1, l2, l3, l4, l5, l6, l7, l8, l9⟩ := ckptLoad_spec (n := n.val) (4096 * s.rf (A.chanFitCkbase n) 22 0) g u
    rw [hn.jobSpars] at l7 l8 l9
    have hS : ∀ m k, u.sReg m k = s.sReg m k := fun m k => by unfold State.sReg; rw [hn.fab]
    have hA : ∀ m k, u.aReg m k = s.aReg m k := fun m k => by unfold State.aReg; rw [hn.fab]
    refine ⟨l1.trans (by rw [hn.imgNum]), l2, l3.trans (hn.imgNum _ _), l4.trans (by rw [hn.imgNum]), l5.trans hn.hbm,
      fun hm hf r h1 h2 => (l6 r h1 h2).trans (by rw [hquiet hm hf]), fun i m hi => ?_, fun m k hk hno => (l8 m k hk hno).trans (hS m k),
      fun m k hk hno => (l9 m k hk hno).trans (hA m k)⟩
    obtain ⟨hs, ha⟩ := l7 i m hi
    exact ⟨fun r k hk => (hs r k hk).trans (by rw [hn.imgNum]; rfl), fun r k hk => (ha r k hk).trans (by rw [hn.imgNum]; rfl)⟩

/-- Settles O53: a step, an offer and a checkpoint each come to one equation, and what is read back is read register after register, spar after spar. -/
theorem fittingJobs : Obligations.FittingJobs := ⟨fittingSteps, checkpoints⟩

end Sys2Proof.Machine

/-! SUPPORT. The flip timestamp and the watch snapshot: what each writes into its registers, and what else it leaves alone. -/

namespace Sys2Proof.Machine

/-! ### The flip timestamp -/

/-- The flip registers as a flip leaves them (R417). -/
def flipShown (s : State) : State :=
  let t := s.rast.tod0.advance (outDelay s)
  ((((s.setReg A.rastFlipFLo (BitVec.ofNat 32 s.rast.frame.toNat)).setReg A.rastFlipFHi
    (BitVec.ofNat 32 (s.rast.frame.toNat / 2 ^ 32 + b2n (!pixelsSent s) * 2 ^ 31))).setReg A.rastFlipSLo (BitVec.ofNat 32 t.sec)).setReg A.rastFlipSHi
    (BitVec.ofNat 32 (t.sec / 2 ^ 32))).setReg A.rastFlipNs (BitVec.ofNat 32 t.ns)

/-- A flip shows its registers, and posts its event where it is asked for. -/
theorem flip_shown (s : State) : Posted (flipShown s) (flip s) ∧ (s.rf A.rastCommit 30 30 = 0 → flip s = flipShown s) := by
  unfold flip
  dsimp only
  split
  next h => exact ⟨post_posted _ _ _ _, fun h0 => by omega⟩
  next => exact ⟨.refl _, fun _ => rfl⟩

/-- A flip register is one of five words, and the others stand. -/
theorem flipShown_reg (s : State) (a : Nat) : (flipShown s).reg a =
    if a = A.rastFlipNs then BitVec.ofNat 32 (s.rast.tod0.advance (outDelay s)).ns
    else if a = A.rastFlipSHi then BitVec.ofNat 32 ((s.rast.tod0.advance (outDelay s)).sec / 2 ^ 32)
    else if a = A.rastFlipSLo then BitVec.ofNat 32 (s.rast.tod0.advance (outDelay s)).sec
    else if a = A.rastFlipFHi then BitVec.ofNat 32 (s.rast.frame.toNat / 2 ^ 32 + b2n (!pixelsSent s) * 2 ^ 31)
    else if a = A.rastFlipFLo then BitVec.ofNat 32 s.rast.frame.toNat else s.reg a := by
  unfold flipShown
  simp only [State.reg_setReg]

theorem flipShown_only (s : State) : flipShown s = { s with regs := (flipShown s).regs } := by
  unfold flipShown State.setReg
  rfl

/-- The high word of a flip holds the top of F, which has 48 bits, and VIRT. -/
theorem fld_flipHigh (F : Frame) (b : Bool) : fld (BitVec.ofNat 32 (F.toNat / 2 ^ 32 + b2n b * 2 ^ 31)) 15 0 = F.toNat / 2 ^ 32 ∧
    fld (BitVec.ofNat 32 (F.toNat / 2 ^ 32 + b2n b * 2 ^ 31)) 31 31 = b2n b := by
  have hF := F.isLt
  unfold fld
  rw [BitVec.toNat_ofNat]
  cases b
  all_goals
    simp only [b2n, if_true, Bool.false_eq_true, if_false]
    omega

theorem pixelsSent_iff (s : State) : pixelsSent s = true ↔ s.reading = true ∧ ∃ n, n < s.rast.linesActive ∧ sentRanges s n ≠ [] := by
  unfold pixelsSent
  simp [List.any_eq_true]

theorem b2n_virt (s : State) : b2n (!pixelsSent s) = if s.reading = true ∧ (∃ n, n < s.rast.linesActive ∧ sentRanges s n ≠ []) then 0 else 1 := by
  rw [← if_congr (pixelsSent_iff s) rfl rfl]
  cases pixelsSent s <;> rfl

/-! ### The watch snapshot -/

/-- What the registers of watch n show (R155). -/
def watchShown (t : State) (n : Nat) : Nat × Word × Word × Word :=
  (t.loHi (A.sysWatchNLo n) (A.sysWatchNHi n) 16, t.reg (A.sysWatchSat n), t.reg (A.sysWatchUfz n), t.reg (A.sysWatchAmax n))

/-- What they show of some figures. -/
def figShown (g : WatchFig) : Nat × Word × Word × Word :=
  (g.n % 2 ^ 48, BitVec.ofNat 32 (min g.sat (2 ^ 32 - 1)), BitVec.ofNat 32 (min g.ufz (2 ^ 32 - 1)), BitVec.ofNat 32 g.amax.toNat)

/-- A 48-bit count reads as its low 48 bits. -/
theorem loHi_setLoHi_mod (s : State) {lo hi : Nat} (v : Nat) (h : hi ≠ lo) : (s.setLoHi lo hi 16 v).loHi lo hi 16 = v % 2 ^ 48 := by
  unfold State.loHi State.setLoHi
  rw [State.reg_setReg_same, State.reg_setReg_ne _ _ h.symm, State.reg_setReg_same, fld_setFld_same _ _ (by omega) (by omega), BitVec.toNat_ofNat]
  omega

/-- The registers of a watch as its snapshot leaves them, and every other word. -/
theorem snapWatch_reg (s : State) (m a : Nat) : (snapWatch s m).reg a =
    if a = A.sysWatchAmax m then BitVec.ofNat 32 (lastFig s m).amax.toNat
    else if a = A.sysWatchUfz m then BitVec.ofNat 32 (min (lastFig s m).ufz (2 ^ 32 - 1))
    else if a = A.sysWatchSat m then BitVec.ofNat 32 (min (lastFig s m).sat (2 ^ 32 - 1))
    else (s.setLoHi (A.sysWatchNLo m) (A.sysWatchNHi m) 16 (lastFig s m).n).reg a := by
  unfold snapWatch
  simp only [State.reg_setReg]

theorem watchShown_snapWatch_same (s : State) (n : Nat) : watchShown (snapWatch s n) n = figShown (lastFig s n) := by
  have hn := loHi_setLoHi_mod s (lastFig s n).n (show A.sysWatchNHi n ≠ A.sysWatchNLo n by unfold A.sysWatchNHi A.sysWatchNLo; omega)
  have hl : (snapWatch s n).loHi (A.sysWatchNLo n) (A.sysWatchNHi n) 16 = (lastFig s n).n % 2 ^ 48 := by
    rw [← hn]
    unfold State.loHi
    simp only [snapWatch_reg, A.sysWatchNLo, A.sysWatchNHi, A.sysWatchSat, A.sysWatchUfz, A.sysWatchAmax, Nat.add_right_cancel_iff, Nat.reduceEqDiff, if_false]
  unfold watchShown figShown
  rw [hl]
  simp only [snapWatch_reg, A.sysWatchSat, A.sysWatchUfz, A.sysWatchAmax, Nat.add_right_cancel_iff, Nat.reduceEqDiff, if_true, if_false]

theorem snapWatch_reg_other (s : State) {m n : Nat} (h : n ≠ m) {a : Nat} (ha : 0x400 + 32 * n ≤ a ∧ a < 0x420 + 32 * n) : (snapWatch s m).reg a = s.reg a := by
  rw [snapWatch_reg, if_neg (by unfold A.sysWatchAmax; omega), if_neg (by unfold A.sysWatchUfz; omega), if_neg (by unfold A.sysWatchSat; omega)]
  unfold State.setLoHi
  rw [State.reg_setReg_ne _ _ (by unfold A.sysWatchNHi; omega), State.reg_setReg_ne _ _ (by unfold A.sysWatchNLo; omega)]

theorem watchShown_snapWatch_other (s : State) {m n : Nat} (h : n ≠ m) : watchShown (snapWatch s m) n = watchShown s n := by
  unfold watchShown State.loHi
  rw [snapWatch_reg_other s h (by unfold A.sysWatchNLo; omega), snapWatch_reg_other s h (by unfold A.sysWatchNHi; omega),
    snapWatch_reg_other s h (by unfold A.sysWatchSat; omega), snapWatch_reg_other s h (by unfold A.sysWatchUfz; omega),
    snapWatch_reg_other s h (by unfold A.sysWatchAmax; omega)]

theorem snapWatch_only (s : State) (n : Nat) : (snapWatch s n).fab = s.fab ∧ (snapWatch s n).hbm = s.hbm ∧ (snapWatch s n).rast = s.rast := by
  unfold snapWatch
  simp only [State.setReg_fab, State.setReg_hbm, State.setReg_rast, State.setLoHi_fab, State.setLoHi_hbm, State.setLoHi_rast, and_self]

theorem snapWatches_only (l : List Nat) (s : State) :
    (l.foldl snapWatch s).fab = s.fab ∧ (l.foldl snapWatch s).hbm = s.hbm ∧ (l.foldl snapWatch s).rast = s.rast := by
  induction l generalizing s with
  | nil => exact ⟨rfl, rfl, rfl⟩
  | cons n t ih =>
    obtain ⟨h1, h2, h3⟩ := snapWatch_only s n
    obtain ⟨g1, g2, g3⟩ := ih (snapWatch s n)
    rw [List.foldl_cons]
    exact ⟨g1.trans h1, g2.trans h2, g3.trans h3⟩

theorem lastFig_of_fab {s t : State} (h : t.fab = s.fab) (n : Nat) : lastFig t n = lastFig s n := by
  unfold lastFig
  rw [h]

/-- The snapshots of some watches. -/
theorem watchShown_snapWatches (l : List Nat) (s : State) {n : Nat} (hn : n ∈ l) : watchShown (l.foldl snapWatch s) n = figShown (lastFig s n) := by
  have hkeep : ∀ (t : State) (m : Nat), t.fab = s.fab → (snapWatch t m).fab = s.fab := fun t m ht => (snapWatch_only t m).1.trans ht
  have hturn : ∀ (t : State) (m : Nat), t.fab = s.fab → watchShown (snapWatch t m) n = if n = m ∧ True then figShown (lastFig s n) else watchShown t n := by
    intro t m ht
    by_cases hm : n = m
    · subst hm
      rw [if_pos ⟨rfl, trivial⟩, watchShown_snapWatch_same, lastFig_of_fab ht]
    · rw [if_neg (fun hc => hm hc.1), watchShown_snapWatch_other t hm]
  rw [foldl_turns (read := fun t => watchShown t n) (fun t => t.fab = s.fab) hkeep hturn l rfl, if_pos ⟨hn, trivial⟩]

/-- Verdicts only post events (R157). -/
theorem watchVerdict_posted (s : State) (n : Nat) : Posted s (watchVerdict s n) := by
  unfold watchVerdict
  dsimp only
  split
  · exact post_posted _ _ _ _
  · exact .refl _

theorem watchVerdicts_posted (l : List Nat) (s : State) : Posted s (l.foldl watchVerdict s) := by
  induction l generalizing s with
  | nil => exact .refl s
  | cons n t ih => exact (watchVerdict_posted s n).trans (ih _)

/-- What one side of a gather holds, moved to the keys of a spar's watch. -/
theorem smGet_ofSide {α : Type} (d : α) (m : List (Nat × α)) (side : Nat) {k : Nat} (hk : k < 512) :
    smGet d ((m.filter (fun e => decide (e.1 / 512 = side))).map (fun e => (e.1 % 512, e.2))) k = smGet d m (512 * side + k) := by
  induction m with
  | nil => rfl
  | cons e t ih =>
    have he : e.1 = 512 * side + k ↔ e.1 / 512 = side ∧ e.1 % 512 = k := by omega
    by_cases h1 : e.1 / 512 = side
    · by_cases h2 : e.1 % 512 = k
      · simp [smGet, h1, h2, he]
      · simp only [List.filter_cons, h1, decide_true, if_true, List.map_cons, smGet, h2, if_false, ih, he, and_false]
    · simp only [List.filter_cons, h1, decide_false, Bool.false_eq_true, if_false, ih, smGet, he, false_and]

/-- The figures of the frame before go, and those of the frame in progress stay. -/
theorem smGet_dropSide {α : Type} (d : α) (m : List (Nat × α)) {w side k : Nat} (hw : 0 < w) (hs : side < 2) (hk : k < w) :
    smGet d (smDrop (fun q => decide (q / w = 1 - side)) m) (w * (1 - side) + k) = d ∧
      smGet d (smDrop (fun q => decide (q / w = 1 - side)) m) (w * side + k) = smGet d m (w * side + k) := by
  have hq : ∀ x, (w * x + k) / w = x := fun x => by rw [Nat.mul_add_div hw, Nat.div_eq_of_lt hk, Nat.add_zero]
  rw [smGet_smDrop, smGet_smDrop, hq, hq]
  exact ⟨by simp, by rw [if_neg (by simp; omega)]⟩

/-- What stands as the gathering of the frame before ends: some watches' snapshots, and their verdicts. -/
def watchesTold (l : List Nat) (s : State) : State := l.foldl watchVerdict (l.foldl snapWatch s)

theorem watchesTold_only (l : List Nat) (s : State) : (watchesTold l s).fab = s.fab ∧ (watchesTold l s).hbm = s.hbm ∧ (watchesTold l s).rast = s.rast := by
  obtain ⟨h1, h3, h4⟩ := snapWatches_only l s
  have h2 := watchVerdicts_posted l (l.foldl snapWatch s)
  exact ⟨h2.fab_eq.trans h1, h2.hbm_eq.trans h3, h2.rast_eq.trans h4⟩

theorem watchShown_watchesTold (l : List Nat) (s : State) {n : Nat} (hn : n ∈ l) : watchShown (watchesTold l s) n = figShown (lastFig s n) := by
  rw [← watchShown_snapWatches l s hn]
  have h2 := watchVerdicts_posted l (l.foldl snapWatch s)
  unfold watchShown State.loHi watchesTold
  simp only [h2.reg_eq]

/-- A snapshot is what its watches show and tell, and the end of a gathering. -/
theorem watchSnapshot_eq (s : State) : ∃ l : List Nat, (∀ n, n < 8 → n ∈ l) ∧ watchSnapshot s = { watchesTold l s with fab := { s.fab with
    snapOwn := (s.fab.gatherOwn.filter (fun e => decide (e.1 / 512 = 1 - s.fab.side))).map (fun e => (e.1 % 512, e.2))
    gather := smDrop (fun k => decide (k / 8 = 1 - s.fab.side)) s.fab.gather
    gatherOwn := smDrop (fun k => decide (k / 512 = 1 - s.fab.side)) s.fab.gatherOwn } } := by
  unfold watchSnapshot
  have hmem : ∀ n, n < 8 → n ∈ List.range 8 := fun n hn => List.mem_range.mpr hn
  generalize List.range 8 = l at hmem ⊢
  have hfab := (watchesTold_only l s).1
  refine ⟨l, hmem, ?_⟩
  rw [← hfab]
  rfl

/-- What the registers show of figures, number by number. -/
theorem shown_iff {t : State} {n : Nat} {g : WatchFig} (h : watchShown t n = figShown g) :
    t.loHi (A.sysWatchNLo n) (A.sysWatchNHi n) 16 = g.n % 2 ^ 48 ∧ (t.reg (A.sysWatchSat n)).toNat = min g.sat (2 ^ 32 - 1) ∧
      (t.reg (A.sysWatchUfz n)).toNat = min g.ufz (2 ^ 32 - 1) ∧ t.rf (A.sysWatchAmax n) 15 0 = g.amax.toNat := by
  simp only [watchShown, figShown, Prod.mk.injEq] at h
  obtain ⟨h1, h2, h3, h4⟩ := h
  have ha := g.amax.isLt
  unfold State.rf fld
  rw [h1, h2, h3, h4]
  simp only [BitVec.toNat_ofNat]
  refine ⟨trivial, ?_, ?_, ?_⟩ <;> omega

/-- Settles O38, by what the flip registers show, and by the watches' turns, each in its own registers. -/
theorem flipAndWatch : Obligations.FlipAndWatch := by
  refine ⟨fun s => ?_, fun s hs => ?_⟩
  · obtain ⟨hp, h0⟩ := flip_shown s
    obtain ⟨hlow, hvirt⟩ := fld_flipHigh s.rast.frame (!pixelsSent s)
    have hs := flipShown_only s
    refine ⟨flip s, rfl, ?_, ?_, ?_, ?_, fun a ha => ?_, fun hc => ?_, ?_, ?_, ?_⟩
    · rw [hp.reg_eq, flipShown_reg]
      rfl
    · unfold State.rf
      rw [hp.reg_eq, flipShown_reg]
      exact hlow
    · unfold State.rf
      rw [hp.reg_eq, flipShown_reg, ← b2n_virt]
      exact hvirt
    · simp only [hp.reg_eq, flipShown_reg]
      exact ⟨rfl, rfl, rfl⟩
    · simp only [List.mem_cons, List.not_mem_nil, or_false, not_or] at ha
      obtain ⟨h1, h2, h3, h4, h5⟩ := ha
      rw [hp.reg_eq, flipShown_reg, if_neg h5, if_neg h4, if_neg h3, if_neg h2, if_neg h1]
    · rw [h0 hc]
      exact hs
    · rw [hp.hbm_eq, hs]
    · rw [hp.fab_eq, hs]
    · rw [hp.rast_eq, hs]
  · obtain ⟨l, hl, ht⟩ := watchSnapshot_eq s
    obtain ⟨-, hhbm, hrast⟩ := watchesTold_only l s
    refine ⟨watchSnapshot s, rfl, ?_⟩
    rw [ht]
    exact ⟨rfl, fun k hk => ⟨smGet_ofSide 0 _ _ hk, smGet_dropSide 0 _ (by norm_num) hs hk⟩, fun k hk => smGet_dropSide _ _ (by norm_num) hs hk, hhbm, hrast,
      fun n hn => shown_iff (watchShown_watchesTold l s (hl n hn))⟩

end Sys2Proof.Machine

/-! SUPPORT. Conversion: rounding to the nearest integer, the exponent that a value is rounded at, codes and their values; from these, that a conversion gives the nearest
value of its format. -/

namespace Sys2Proof.Machine

/-! ### The nearest integer -/

/-- M is the integer nearest to y, the even one at a tie. -/
def NearInt (M : Int) (y : ℚ) : Prop := 2 * |(M : ℚ) - y| ≤ 1 ∧ (2 * |(M : ℚ) - y| = 1 → M % 2 = 0)

section nearInt
variable {M K : Int} {y : ℚ}

/-- Two integers are not both nearer to y than half a unit. -/
theorem abs_sub_add_abs_sub_ge (y : ℚ) (hK : K ≠ M) : 1 ≤ |(M : ℚ) - y| + |(K : ℚ) - y| := by
  have h1 : (1 : ℚ) ≤ |((M - K : Int) : ℚ)| := by
    rw [← Int.cast_abs]
    exact_mod_cast Int.one_le_abs (sub_ne_zero.mpr (Ne.symm hK))
  have h2 : ((M - K : Int) : ℚ) = (M - y) - (K - y) := by push_cast; ring
  rw [h2] at h1
  exact h1.trans (abs_sub _ _)

variable (h : NearInt M y)
include h

theorem NearInt.le (K : Int) : |(M : ℚ) - y| ≤ |(K : ℚ) - y| := by
  by_cases hK : K = M
  · rw [hK]
  · have := abs_sub_add_abs_sub_ge y hK
    have := h.1
    linarith

theorem NearInt.even_of_tie (hK : K ≠ M) (ht : |(M : ℚ) - y| = |(K : ℚ) - y|) : M % 2 = 0 := by
  have := abs_sub_add_abs_sub_ge y hK
  have := h.1
  exact h.2 (by linarith)

theorem NearInt.neg : NearInt (-M) (-y) := by
  have e : |((-M : Int) : ℚ) - -y| = |(M : ℚ) - y| := by
    rw [← abs_neg]
    congr 1
    push_cast
    ring
  unfold NearInt
  rw [e]
  exact ⟨h.1, fun ht => by have := h.2 ht; omega⟩

end nearInt

/-- A fraction rounded to even is the nearest integer (R119). -/
theorem roundNat_near (n : Nat) {d : Nat} (hd : 0 < d) : NearInt (roundNat .even n d) ((n : ℚ) / d) := by
  have hd' : (0 : ℚ) < d := by exact_mod_cast hd
  have hn := Nat.div_add_mod n d
  have hr := Nat.mod_lt n hd
  have hn' : (n : ℚ) = d * (n / d : Nat) + (n % d : Nat) := by exact_mod_cast hn.symm
  have hy : (n : ℚ) / d = (n / d : Nat) + ((n % d : Nat) : ℚ) / d := by
    rw [hn', add_div, mul_div_cancel_left₀ _ hd'.ne']
  have h0 : (0 : ℚ) ≤ ((n % d : Nat) : ℚ) / d := by positivity
  have h1 : ((n % d : Nat) : ℚ) / d < 1 := by rw [div_lt_one hd']; exact_mod_cast hr
  have hlt : 2 * (n % d) < d ↔ 2 * (((n % d : Nat) : ℚ) / d) < 1 := by
    rw [mul_div_assoc', div_lt_one hd']
    exact_mod_cast Iff.rfl
  have hgt : d < 2 * (n % d) ↔ 1 < 2 * (((n % d : Nat) : ℚ) / d) := by
    rw [mul_div_assoc', one_lt_div hd']
    exact_mod_cast Iff.rfl
  unfold roundNat NearInt
  dsimp only
  rw [hy]
  generalize ((n % d : Nat) : ℚ) / d = x at *
  generalize n / d = q
  have hdown : |((q : Int) : ℚ) - ((q : ℚ) + x)| = x := by
    rw [Int.cast_natCast, sub_add_cancel_left, abs_neg, abs_of_nonneg h0]
  have hup : |(((q + 1 : Nat) : Int) : ℚ) - ((q : ℚ) + x)| = 1 - x := by
    rw [Int.cast_natCast, Nat.cast_succ, add_sub_add_left_eq_sub, abs_of_pos (by linarith)]
  split
  next h =>
    have := hlt.mp h
    rw [hdown]
    exact ⟨by linarith, fun _ => by linarith⟩
  next h =>
    have hx : 1 ≤ 2 * x := not_lt.mp (fun hc => h (hlt.mpr hc))
    split
    next g =>
      have := hgt.mp g
      rw [hup]
      exact ⟨by linarith, fun _ => by linarith⟩
    next g =>
      have hx' : 2 * x ≤ 1 := not_lt.mp (fun hc => g (hgt.mpr hc))
      split
      next ev =>
        rw [hdown]
        exact ⟨by linarith, fun _ => by omega⟩
      next ev =>
        rw [hup]
        exact ⟨by linarith, fun _ => by omega⟩

/-- The nearest integer keeps the bounds that are integers. -/
theorem NearInt.ge_of_le {M K : Int} {y : ℚ} (h : NearInt M y) (hK : (K : ℚ) ≤ y) : K ≤ M := by
  by_contra hc
  have hMK : (M : ℚ) + 1 ≤ K := by exact_mod_cast (by omega : M + 1 ≤ K)
  have := h.1
  rw [abs_sub_comm, abs_of_nonneg (by linarith)] at this
  linarith

theorem NearInt.le_of_ge {M K : Int} {y : ℚ} (h : NearInt M y) (hK : y ≤ (K : ℚ)) : M ≤ K := by
  have hn := h.neg.ge_of_le (K := -K) (by push_cast; linarith)
  omega

/-! ### What makes a conversion right -/

section nearest
variable {f : Fmt} {r v : ℚ} {c : Conv}

/-- A conversion that does not saturate is right where its value is the nearest, and the code even at a tie. -/
theorem nearest_kept (hc : c.code < 2 ^ f.bits) (hv : codeVal f c.code = some v) (hs : c.sat = false) (h0 : v = 0 → c.code = 0)
    (hu : c.ufz = true ↔ r ≠ 0 ∧ v = 0)
    (hn : ∀ k w, k < 2 ^ f.bits → codeVal f k = some w → |v - r| ≤ |w - r| ∧ (|v - r| = |w - r| → w ≠ v → c.code % 2 = 0)) : Nearest f r c :=
  ⟨hc, v, hv, hn, h0, hu, fun h => absurd h (by rw [hs]; decide), fun _ => hs⟩

/-- One that saturates is right where its value is the largest on its side, and the exact one lies beyond. -/
theorem nearest_saturated (hc : c.code < 2 ^ f.bits) (hv : codeVal f c.code = some v) (hu : c.ufz = false)
    (hn : (0 < v ∧ v < r ∧ ∀ k w, k < 2 ^ f.bits → codeVal f k = some w → w ≤ v) ∨ (v < 0 ∧ r < v ∧ ∀ k w, k < 2 ^ f.bits → codeVal f k = some w → v ≤ w)) :
    Nearest f r c := by
  have hne : v ≠ 0 := hn.elim (fun h => h.1.ne') (fun h => h.1.ne)
  have habs : |v| < |r| := by
    rcases hn with ⟨h1, h2, -⟩ | ⟨h1, h2, -⟩
    · rw [abs_of_pos h1, abs_of_pos (h1.trans h2)]; exact h2
    · rw [abs_of_neg h1, abs_of_neg (h2.trans h1)]; linarith
  refine ⟨hc, v, hv, fun k w hk hw => ?_, fun h => absurd h hne, ?_, fun _ => ⟨habs, fun k w hk hw => ?_⟩, fun h => absurd habs (not_lt.mpr h)⟩
  · rcases hn with ⟨h1, h2, hmax⟩ | ⟨h1, h2, hmin⟩
    · have := hmax k w hk hw
      rw [abs_of_neg (by linarith), abs_of_neg (by linarith)]
      exact ⟨by linarith, fun e hw => absurd (by linarith) hw⟩
    · have := hmin k w hk hw
      rw [abs_of_pos (by linarith), abs_of_pos (by linarith)]
      exact ⟨by linarith, fun e hw => absurd (by linarith) hw⟩
  · rw [hu]
    exact ⟨fun h => absurd h (by decide), fun h => absurd h.2 hne⟩
  · rcases hn with ⟨h1, h2, hmax⟩ | ⟨h1, h2, hmin⟩
    · exact ⟨fun _ => hmax k w hk hw, fun h => absurd h (not_le.mpr h1)⟩
    · exact ⟨fun h => absurd h (not_le.mpr h1), fun _ => hmin k w hk hw⟩

end nearest

/-- The integer that a fraction rounds to, its sign kept (R119). -/
theorem signedRound_near (n : Int) {d : Nat} (hd : 0 < d) :
    NearInt (if n < 0 then -(roundNat .even n.natAbs d : Int) else roundNat .even n.natAbs d) ((n : ℚ) / d) := by
  have h := roundNat_near n.natAbs hd
  by_cases hn : n < 0
  · have e : (n : ℚ) / d = -((n.natAbs : ℚ) / d) := by
      rw [Nat.cast_natAbs, abs_of_neg hn]
      push_cast
      ring
    rw [if_pos hn, e]
    exact h.neg
  · have e : (n : ℚ) / d = (n.natAbs : ℚ) / d := by
      rw [Nat.cast_natAbs, abs_of_nonneg (not_lt.mp hn)]
    rw [if_neg hn, e]
    exact h

/-! ### Integer formats -/

theorem isInt_cases {f : Fmt} (hf : f.isInt = true) : f = .a4 ∨ f = .a8 := by
  cases f <;> simp [Fmt.isInt] at hf ⊢

theorem codeVal_int {f : Fmt} (hf : f.isInt = true) (k : Nat) : codeVal f k = some ((toSigned f.bits k : Int) : ℚ) := by
  unfold codeVal Fmt.value
  simp [hf]

/-- A signed number of n bits lies between its limits. -/
theorem toSigned_bounds {n : Nat} (hn : 0 < n) (v : Nat) : -2 ^ (n - 1) ≤ toSigned n v ∧ toSigned n v < 2 ^ (n - 1) := by
  obtain ⟨m, rfl⟩ : ∃ m, n = m + 1 := ⟨n - 1, by omega⟩
  have h1 : v % 2 ^ (m + 1) < 2 ^ (m + 1) := Nat.mod_lt _ (by positivity)
  have h2 : (2 : Nat) ^ (m + 1) = 2 * 2 ^ m := by ring
  have h3 : ((2 : Int) ^ m) = ((2 ^ m : Nat) : Int) := by push_cast; ring
  have h4 : ((2 : Int) ^ (m + 1)) = ((2 ^ (m + 1) : Nat) : Int) := by push_cast; ring
  unfold toSigned
  dsimp only
  rw [Nat.add_sub_cancel, h3, h4]
  split <;> omega

/-- A number within the limits reads as it was put (R161). -/
theorem toSigned_lowBits {n : Nat} (hn : 0 < n) {v : Int} (h1 : -2 ^ (n - 1) ≤ v) (h2 : v < 2 ^ (n - 1)) : toSigned n (lowBits n v) = v := by
  obtain ⟨m, rfl⟩ : ∃ m, n = m + 1 := ⟨n - 1, by omega⟩
  have e1 : ((2 : Int) ^ m) = ((2 ^ m : Nat) : Int) := by push_cast; ring
  have e2 : ((2 : Int) ^ (m + 1)) = ((2 * 2 ^ m : Nat) : Int) := by push_cast; ring
  have e3 : (2 : Nat) ^ (m + 1) = 2 * 2 ^ m := by ring
  have hp : 0 < 2 ^ m := by positivity
  unfold toSigned lowBits
  dsimp only
  rw [Nat.add_sub_cancel] at *
  rw [e1] at h1 h2
  rw [e2, e3]
  generalize 2 ^ m = p at *
  have hm : (v % ((2 * p : Nat) : Int)).toNat = if 0 ≤ v then v.toNat else (v + 2 * p).toNat := by
    split
    next h => rw [Int.emod_eq_of_lt h (by omega)]
    next h =>
      rw [← Int.add_emod_right, Int.emod_eq_of_lt (by push_cast; omega) (by push_cast; omega)]
      push_cast
      rfl
  rw [hm, Nat.mod_eq_of_lt (by split <;> omega)]
  split <;> split <;> omega

theorem lowBits_lt (n : Nat) (v : Int) : lowBits n v < 2 ^ n := by
  unfold lowBits
  have h := Int.emod_lt_of_pos v (show (0 : Int) < 2 ^ n by positivity)
  have h0 := Int.emod_nonneg v (show (2 : Int) ^ n ≠ 0 by positivity)
  have e : ((2 : Int) ^ n) = ((2 ^ n : Nat) : Int) := by push_cast; ring
  omega

theorem lowBits_even {n : Nat} (hn : 0 < n) {v : Int} (hv : v % 2 = 0) : lowBits n v % 2 = 0 := by
  have h0 := Int.emod_nonneg v (show (2 : Int) ^ n ≠ 0 by positivity)
  have hd : v % 2 ^ n % 2 = v % 2 := Int.emod_emod_of_dvd v (dvd_pow_self 2 (by omega))
  unfold lowBits
  omega

/-- A conversion to an integer format gives the nearest value (R119). -/
theorem convInt_nearest {f : Fmt} (hf : f.isInt = true) (n : Int) {d : Nat} (hd : 0 < d) : Nearest f ((n : ℚ) / d) (convInt f.bits .even n d) := by
  have hb : 2 ≤ f.bits := by cases f <;> decide
  have hd' : (0 : ℚ) < d := by exact_mod_cast hd
  have hcode : ∀ {k : Nat} {w : ℚ}, codeVal f k = some w → ∃ K : Int, w = K ∧ -2 ^ (f.bits - 1) ≤ K ∧ K < 2 ^ (f.bits - 1) := by
    intro k w hw
    rw [codeVal_int hf] at hw
    exact ⟨_, (Option.some.inj hw).symm, toSigned_bounds (by omega) k⟩
  have hp : (1 : Int) < 2 ^ (f.bits - 1) := one_lt_pow₀ (by norm_num) (by omega)
  have hnear := signedRound_near n hd
  unfold convInt
  dsimp only
  split
  next h0 =>
    subst h0
    refine nearest_kept (v := 0) (by positivity) ?_ rfl (fun _ => rfl) (by simp) (fun k w _ _ => by simp)
    rw [codeVal_int hf]
    unfold toSigned
    simp
  next h0 =>
  have hr : (n : ℚ) / d ≠ 0 := div_ne_zero (by exact_mod_cast h0) hd'.ne'
  generalize (if n < 0 then -(roundNat .even n.natAbs d : Int) else roundNat .even n.natAbs d) = v at *
  have hin : ∀ {c : Conv}, c.code = lowBits f.bits v → c.sat = false → (c.ufz = true ↔ v = 0) → -2 ^ (f.bits - 1) ≤ v → v < 2 ^ (f.bits - 1) →
      Nearest f ((n : ℚ) / d) c := by
    intro c hc hs hu h1 h2
    refine nearest_kept (v := v) (hc ▸ lowBits_lt _ _) ?_ hs ?_ ?_ ?_
    · rw [codeVal_int hf, hc, toSigned_lowBits (by omega) h1 h2]
    · intro hv
      rw [hc, show v = 0 by exact_mod_cast hv]
      simp [lowBits]
    · rw [hu]
      exact ⟨fun h => ⟨hr, by exact_mod_cast h⟩, fun h => by exact_mod_cast h.2⟩
    · intro k w _ hw
      obtain ⟨K, rfl, -, -⟩ := hcode hw
      exact ⟨hnear.le K, fun ht hne => by rw [hc]; exact lowBits_even (by omega) (hnear.even_of_tie (by exact_mod_cast hne) ht)⟩
  split
  next hv0 => exact hin (by simp [hv0, lowBits]) rfl (by simp [hv0]) (by omega) (by omega)
  next hv0 =>
  split
  next hhi =>
    have hbig : ((2 ^ (f.bits - 1) - 1 : Int) : ℚ) < (n : ℚ) / d := by
      by_contra hc
      have := hnear.le_of_ge (not_lt.mp hc)
      omega
    have hnn : (0 : Int) ≤ 2 ^ (f.bits - 1) - 1 := by omega
    refine nearest_saturated (v := ((2 ^ (f.bits - 1) - 1 : Int) : ℚ)) ?_ ?_ rfl (.inl ⟨Int.cast_pos.mpr (by omega), hbig, ?_⟩)
    · rcases isInt_cases hf with rfl | rfl <;> decide
    · rw [codeVal_int hf]
      rcases isInt_cases hf with rfl | rfl <;> rfl
    · intro k w _ hw
      obtain ⟨K, rfl, -, hK⟩ := hcode hw
      exact Int.cast_le.mpr (by omega)
  next hhi =>
  split
  next hlo =>
    have hbig : (n : ℚ) / d < ((-2 ^ (f.bits - 1) : Int) : ℚ) := by
      by_contra hc
      have := hnear.ge_of_le (not_lt.mp hc)
      omega
    refine nearest_saturated (v := ((-2 ^ (f.bits - 1) : Int) : ℚ)) ?_ ?_ rfl (.inr ⟨Int.cast_lt_zero.mpr (by omega), hbig, ?_⟩)
    · exact Nat.pow_lt_pow_right (by norm_num) (by omega)
    · rw [codeVal_int hf]
      rcases isInt_cases hf with rfl | rfl <;> rfl
    · intro k w _ hw
      obtain ⟨K, rfl, hK, -⟩ := hcode hw
      exact Int.cast_le.mpr hK
  next hlo => exact hin rfl rfl (by simp [hv0]) (by omega) (by omega)

/-! ### The exponent that a value is rounded at -/

/-- A product with a power of two, its exponent split by sign as the model writes it. -/
theorem zpow_of_nonneg {e : Int} (he : 0 ≤ e) : (2 : ℚ) ^ e = ((2 ^ e.toNat : Nat) : ℚ) := by
  conv_lhs => rw [← Int.toNat_of_nonneg he]
  rw [zpow_natCast]
  push_cast
  rfl

theorem zpow_of_neg {e : Int} (he : e < 0) : (2 : ℚ) ^ e = (((2 ^ (-e).toNat : Nat) : ℚ))⁻¹ := by
  rw [← zpow_of_nonneg (by omega), zpow_neg, inv_inv]

theorem two_zpow_pos (e : Int) : (0 : ℚ) < 2 ^ e := zpow_pos (by norm_num) e

theorem two_zpow_succ (e : Int) : (2 : ℚ) ^ (e + 1) = 2 * 2 ^ e := by
  rw [zpow_add_one₀ (by norm_num), mul_comm]

theorem two_zpow_le {e g : Int} (h : e ≤ g) : (2 : ℚ) ^ e ≤ 2 ^ g := zpow_le_zpow_right₀ (by norm_num) h

/-- The logarithm of a number, as bounds on it. -/
theorem log2_bounds {n : Nat} (hn : 0 < n) : (2 : ℚ) ^ (Nat.log2 n : Int) ≤ n ∧ (n : ℚ) < 2 ^ ((Nat.log2 n : Int) + 1) := by
  have h1 := Nat.log2_self_le hn.ne'
  have h2 := Nat.lt_log2_self (n := n)
  refine ⟨?_, ?_⟩
  · rw [zpow_natCast]; exact_mod_cast h1
  · rw [show (Nat.log2 n : Int) + 1 = ((Nat.log2 n + 1 : Nat) : Int) by push_cast; rfl, zpow_natCast]; exact_mod_cast h2

/-- The floor of the logarithm of a fraction. -/
theorem floorLog2_bounds {n d : Nat} (hn : 0 < n) (hd : 0 < d) : (2 : ℚ) ^ floorLog2 n d ≤ (n : ℚ) / d ∧ (n : ℚ) / d < 2 ^ (floorLog2 n d + 1) := by
  obtain ⟨n1, n2⟩ := log2_bounds hn
  obtain ⟨d1, d2⟩ := log2_bounds hd
  have hd' : (0 : ℚ) < d := by exact_mod_cast hd
  unfold floorLog2
  dsimp only
  generalize hg : (Nat.log2 n : Int) - (Nat.log2 d : Int) = g
  have hlow : (2 : ℚ) ^ (g - 1) ≤ (n : ℚ) / d := by
    rw [le_div_iff₀ hd']
    calc (2 : ℚ) ^ (g - 1) * d ≤ 2 ^ (g - 1) * 2 ^ ((Nat.log2 d : Int) + 1) := by gcongr
      _ = 2 ^ (Nat.log2 n : Int) := by rw [← zpow_add₀ (by norm_num)]; congr 1; omega
      _ ≤ n := n1
  have hupp : (n : ℚ) / d < 2 ^ (g + 1) := by
    rw [div_lt_iff₀ hd']
    calc (n : ℚ) < 2 ^ ((Nat.log2 n : Int) + 1) := n2
      _ = 2 ^ (g + 1) * 2 ^ (Nat.log2 d : Int) := by rw [← zpow_add₀ (by norm_num)]; congr 1; omega
      _ ≤ 2 ^ (g + 1) * d := by gcongr
  have hbelow : (if 0 ≤ g then decide (n < d * 2 ^ g.toNat) else decide (n * 2 ^ (-g).toNat < d)) = decide ((n : ℚ) / d < 2 ^ g) := by
    split
    next h =>
      rw [decide_eq_decide, zpow_of_nonneg h, div_lt_iff₀ hd', mul_comm]
      exact_mod_cast Iff.rfl
    next h =>
      rw [decide_eq_decide, zpow_of_neg (by omega), div_lt_iff₀ hd', lt_inv_mul_iff₀ (by positivity), mul_comm]
      exact_mod_cast Iff.rfl
  rw [hbelow]
  by_cases h : (n : ℚ) / d < 2 ^ g
  · simpa [h] using hlow
  · simpa [h] using ⟨not_lt.mp h, hupp⟩

/-- The integer that a conversion rounds to at exponent e is the nearest to the value over 2^e. -/
theorem roundAt_near (a : Nat) {d : Nat} (hd : 0 < d) (e : Int) :
    NearInt (if 0 ≤ e then roundNat .even a (d * 2 ^ e.toNat) else roundNat .even (a * 2 ^ (-e).toNat) d : Nat) ((a : ℚ) / d / 2 ^ e) := by
  split
  next h =>
    have hn := roundNat_near a (d := d * 2 ^ e.toNat) (by positivity)
    rwa [Nat.cast_mul, ← zpow_of_nonneg h, ← div_div] at hn
  next h =>
    have hn := roundNat_near (a * 2 ^ (-e).toNat) hd
    rwa [Nat.cast_mul, mul_div_right_comm, show (((2 ^ (-e).toNat : Nat)) : ℚ) = (2 ^ e)⁻¹ by rw [zpow_of_neg (by omega), inv_inv], ← div_eq_mul_inv] at hn

/-! ### Codes of the floating formats -/

theorem float_cases {f : Fmt} (hf : f.isInt = false) : f = .e4m3 ∨ f = .e5m2 ∨ f = .bf16 := by
  cases f <;> simp [Fmt.isInt] at hf ⊢

/-- The largest exponent of a finite code. -/
def FloatPar.emax (p : FloatPar) : Int := p.emin + p.xmax - 1

/-- What a format's parameters have in common. -/
theorem float_params {f : Fmt} (hf : f.isInt = false) :
    0 < f.par.mant ∧ f.par.emin < f.par.emax ∧ 2 ^ f.par.mant ≤ f.par.mmax ∧ f.par.mmax < 2 ^ (f.par.mant + 1) := by
  rcases float_cases hf with rfl | rfl | rfl <;> decide

/-- Every finite code's value has at most mantissa bits + 1 bits at an exponent of the format (R115). -/
theorem float_value_bounds {f : Fmt} (hf : f.isInt = false) {k : Nat} {K E : Int} (h : f.value k = some (K, E)) :
    f.par.emin ≤ E ∧ E ≤ f.par.emax ∧ |K| < 2 ^ (f.par.mant + 1) ∧ (E = f.par.emax → |K| ≤ f.par.mmax) := by
  obtain ⟨-, hlt, hlo, hhi⟩ := float_params hf
  have ht : k % 2 ^ f.par.mant < 2 ^ f.par.mant := Nat.mod_lt _ (by positivity)
  have hp : 2 ^ (f.par.mant + 1) = 2 * 2 ^ f.par.mant := by ring
  have hp' : (2 : Int) ^ (f.par.mant + 1) = ((2 * 2 ^ f.par.mant : Nat) : Int) := by push_cast; ring
  unfold Fmt.value at h
  rw [if_neg (by simp [hf])] at h
  dsimp only at h
  rw [hp']
  unfold FloatPar.emax at *
  generalize k % 2 ^ f.par.mant = t at *
  generalize 2 ^ f.par.mant = q at *
  generalize k / q % 2 ^ (f.par.width - 1 - f.par.mant) = x at *
  have hsg : ∀ m : Int, |(if k / 2 ^ (f.par.width - 1) % 2 = 1 then -1 else 1) * m| = |m| := by
    intro m
    split <;> simp
  split at h
  next => cases h
  next hfin =>
  obtain ⟨rfl, rfl⟩ := Prod.mk.inj (Option.some.inj h)
  rw [hsg]
  by_cases hx : x = 0
  · rw [if_pos hx, if_pos hx, abs_of_nonneg (by omega)]
    omega
  · rw [if_neg hx, if_neg hx, abs_of_nonneg (by omega)]
    omega

/-- What a format's parameters have in common with its code's layout. -/
theorem float_layout {f : Fmt} (hf : f.isInt = false) :
    f.par.width = f.bits ∧ 2 ^ (f.bits - 1) = 2 ^ (f.bits - 1 - f.par.mant) * 2 ^ f.par.mant ∧ f.par.xmax < 2 ^ (f.bits - 1 - f.par.mant) := by
  rcases float_cases hf with rfl | rfl | rfl <;> decide

/-- The three fields of a code, taken apart again. -/
theorem code_fields {A B S X T : Nat} (hT : T < A) (hX : X < B) :
    (S * (B * A) + X * A + T) % A = T ∧ (S * (B * A) + X * A + T) / A % B = X ∧ (S * (B * A) + X * A + T) / (B * A) = S := by
  have hA : (S * (B * A) + X * A + T) = T + A * (X + B * S) := by ring
  have hd : (T + A * (X + B * S)) / A = X + B * S := by
    rw [Nat.add_mul_div_left _ _ (by omega), Nat.div_eq_of_lt hT, Nat.zero_add]
  refine ⟨?_, ?_, ?_⟩
  · rw [hA, Nat.add_mul_mod_self_left, Nat.mod_eq_of_lt hT]
  · rw [hA, hd, Nat.add_mul_mod_self_left, Nat.mod_eq_of_lt hX]
  · rw [hA, Nat.mul_comm B A, ← Nat.div_div_eq_div_mul, hd, Nat.add_mul_div_left _ _ (by omega), Nat.div_eq_of_lt hX, Nat.zero_add]

/-- A code's sign, as a factor. -/
def signOf (neg : Bool) : Int := if neg then -1 else 1

/-- The value of the code with the fields S, X and T (R115). -/
theorem value_of_fields {f : Fmt} (hf : f.isInt = false) (neg : Bool) {X T : Nat} (hT : T < 2 ^ f.par.mant) (hX : X ≤ f.par.xmax)
    (hfin : X = f.par.xmax → X ≠ 0 → 2 ^ f.par.mant + T ≤ f.par.mmax) :
    f.value (b2n neg * 2 ^ (f.bits - 1) + X * 2 ^ f.par.mant + T) =
      some (signOf neg * ((if X = 0 then T else 2 ^ f.par.mant + T : Nat) : Int), if X = 0 then f.par.emin else f.par.emin + X - 1) := by
  obtain ⟨hw, hsplit, hx⟩ := float_layout hf
  obtain ⟨h1, h2, h3⟩ := code_fields (S := b2n neg) hT (hX.trans_lt hx)
  rw [← hsplit] at h1 h2 h3
  unfold Fmt.value
  rw [if_neg (by simp [hf])]
  dsimp only
  rw [hw, h1, h2, h3, if_neg (by omega)]
  cases neg <;> simp [signOf, b2n, apply_ite (Nat.cast (R := Int))]

/-- The code of m × 2^e, by its fields. -/
theorem encode_fields (f : Fmt) (neg : Bool) {m : Nat} (e : Int) (hm : m < 2 ^ (f.par.mant + 1)) :
    f.encode neg m e = if m < 2 ^ f.par.mant then b2n neg * 2 ^ (f.par.width - 1) + 0 * 2 ^ f.par.mant + m
      else b2n neg * 2 ^ (f.par.width - 1) + (e - f.par.emin + 1).toNat * 2 ^ f.par.mant + (m - 2 ^ f.par.mant) := by
  unfold Fmt.encode
  dsimp only
  rw [if_neg hm.ne, if_neg hm.ne, Nat.zero_mul, Nat.add_zero]

/-- A mantissa that rounds up to the next power of two takes the next exponent. -/
theorem encode_carry (f : Fmt) (neg : Bool) (e : Int) : f.encode neg (2 ^ (f.par.mant + 1)) e = f.encode neg (2 ^ f.par.mant) (e + 1) := by
  have hlt : 2 ^ f.par.mant < 2 ^ (f.par.mant + 1) := Nat.pow_lt_pow_right (by norm_num) (by omega)
  unfold Fmt.encode
  simp [hlt.ne]

/-- The code of m × 2^e reads as it was made, and its last bit is that of m (R115). -/
theorem encode_value {f : Fmt} (hf : f.isInt = false) (neg : Bool) {m : Nat} {e : Int} (hm : m < 2 ^ (f.par.mant + 1)) (he : f.par.emin ≤ e)
    (hE : e ≤ f.par.emax) (hsub : m < 2 ^ f.par.mant → e = f.par.emin) (hmax : e = f.par.emax → m ≤ f.par.mmax) :
    f.value (f.encode neg m e) = some (signOf neg * m, e) ∧ f.encode neg m e < 2 ^ f.bits ∧ f.encode neg m e % 2 = m % 2 := by
  obtain ⟨hw, hsplit, hx⟩ := float_layout hf
  obtain ⟨hmant, hlt, hlo, hhi⟩ := float_params hf
  have hp : 2 ^ (f.par.mant + 1) = 2 * 2 ^ f.par.mant := by ring
  have hbits : 2 ^ f.bits = 2 * 2 ^ (f.bits - 1) := by rw [← Nat.pow_succ']; congr 1; cases f <;> rfl
  have heven : 2 ^ f.par.mant % 2 = 0 := Nat.mod_eq_zero_of_dvd (dvd_pow_self 2 hmant.ne')
  have hall : ∀ {X T : Nat}, T < 2 ^ f.par.mant → X ≤ f.par.xmax →
      b2n neg * 2 ^ (f.bits - 1) + X * 2 ^ f.par.mant + T < 2 ^ f.bits ∧ (b2n neg * 2 ^ (f.bits - 1) + X * 2 ^ f.par.mant + T) % 2 = T % 2 := by
    intro X T hT hX
    have hXm : (X + 1) * 2 ^ f.par.mant ≤ 2 ^ (f.bits - 1) := by rw [hsplit]; exact Nat.mul_le_mul_right _ (by omega)
    have hb : b2n neg * 2 ^ (f.bits - 1) ≤ 1 * 2 ^ (f.bits - 1) := Nat.mul_le_mul_right _ (by cases neg <;> decide)
    have h1 : b2n neg * 2 ^ (f.bits - 1) % 2 = 0 := by rw [hsplit, ← Nat.mul_assoc, Nat.mul_mod, heven, Nat.mul_zero]
    have h2 : X * 2 ^ f.par.mant % 2 = 0 := by rw [Nat.mul_mod, heven, Nat.mul_zero]
    rw [Nat.add_mul] at hXm
    omega
  unfold FloatPar.emax at *
  rw [encode_fields f neg e hm, hw]
  split
  next hlow =>
    refine ⟨?_, hall hlow (by omega)⟩
    rw [value_of_fields hf neg hlow (Nat.zero_le _) (fun _ h => absurd rfl h), if_pos rfl, if_pos rfl, hsub hlow]
  next hhigh =>
    have hT : m - 2 ^ f.par.mant < 2 ^ f.par.mant := by omega
    refine ⟨?_, (hall hT (by omega)).1, ?_⟩
    · rw [value_of_fields hf neg hT (by omega) (fun h _ => by have := hmax (by omega); omega), if_neg (by omega), if_neg (by omega),
        show 2 ^ f.par.mant + (m - 2 ^ f.par.mant) = m by omega, show f.par.emin + ((e - f.par.emin + 1).toNat : Int) - 1 = e by omega]
    · rw [(hall hT (by omega)).2]
      omega

/-- The same of a mantissa that may have rounded up to the next power of two. -/
theorem encode_codeVal {f : Fmt} (hf : f.isInt = false) (neg : Bool) {m : Nat} {e : Int} (hm : m ≤ 2 ^ (f.par.mant + 1)) (he : f.par.emin ≤ e)
    (hE : e ≤ f.par.emax) (hsub : m < 2 ^ f.par.mant → e = f.par.emin) (hmax : e = f.par.emax → m ≤ f.par.mmax) :
    codeVal f (f.encode neg m e) = some ((signOf neg : ℚ) * (m * 2 ^ e)) ∧ f.encode neg m e < 2 ^ f.bits ∧ f.encode neg m e % 2 = m % 2 := by
  obtain ⟨hmant, hlt, hlo, hhi⟩ := float_params hf
  have hp : 2 ^ (f.par.mant + 1) = 2 * 2 ^ f.par.mant := by ring
  have hof : ∀ {k n : Nat} {g : Int}, f.value k = some (signOf neg * n, g) → codeVal f k = some ((signOf neg : ℚ) * (n * 2 ^ g)) := by
    intro k n g h
    unfold codeVal
    rw [h]
    simp [mul_assoc]
  rcases hm.lt_or_eq with hlow | hcarry
  · obtain ⟨h1, h2⟩ := encode_value hf neg hlow he hE hsub hmax
    exact ⟨hof h1, h2⟩
  · have heven : 2 ^ f.par.mant % 2 = 0 := Nat.mod_eq_zero_of_dvd (dvd_pow_self 2 hmant.ne')
    obtain ⟨h1, h2, h3⟩ := encode_value hf neg (m := 2 ^ f.par.mant) (e := e + 1) (by omega) (by omega)
      (by have := hmax; omega) (fun h => absurd h (lt_irrefl _)) (fun _ => hlo)
    rw [hcarry, encode_carry]
    refine ⟨?_, h2, by omega⟩
    rw [hof h1, two_zpow_succ, hp]
    push_cast
    ring_nf

/-! ### Conversion to a floating format -/

/-- A magnitude at the exponent it is rounded at: it lies below twice the largest mantissa, and reaches the lowest normal one unless the exponent is the format's lowest. -/
theorem scaled_bounds {a d : Nat} (ha : 0 < a) (hd : 0 < d) (mant : Nat) (emin : Int) :
    (a : ℚ) / d / 2 ^ max (floorLog2 a d - mant) emin < 2 ^ (mant + 1) ∧
      (max (floorLog2 a d - mant) emin ≠ emin → (2 : ℚ) ^ mant ≤ (a : ℚ) / d / 2 ^ max (floorLog2 a d - mant) emin) := by
  obtain ⟨h1, h2⟩ := floorLog2_bounds ha hd
  generalize he : max (floorLog2 a d - mant) emin = e
  refine ⟨?_, fun hne => ?_⟩
  · rw [div_lt_iff₀ (two_zpow_pos e)]
    refine h2.trans_le ?_
    rw [← zpow_natCast, ← zpow_add₀ (by norm_num)]
    exact two_zpow_le (by push_cast; omega)
  · rw [le_div_iff₀ (two_zpow_pos e), ← zpow_natCast, ← zpow_add₀ (by norm_num), show ((mant : Int) + e) = floorLog2 a d by omega]
    exact h1

/-- No value of the format is nearer to y·2^e than M·2^e, where M is the integer nearest to y, and y is at least the lowest normal mantissa where a value of a lower exponent exists. -/
theorem NearInt.nearest_of_grid {M K : Int} {y : ℚ} {e E emin : Int} {q : Nat} (h : NearInt M y) (hy : e ≠ emin → (q : ℚ) ≤ y) (hE : emin ≤ E)
    (hK : |K| < 2 * q) :
    |(M : ℚ) * 2 ^ e - y * 2 ^ e| ≤ |(K : ℚ) * 2 ^ E - y * 2 ^ e| ∧
      (|(M : ℚ) * 2 ^ e - y * 2 ^ e| = |(K : ℚ) * 2 ^ E - y * 2 ^ e| → (K : ℚ) * 2 ^ E ≠ M * 2 ^ e → M % 2 = 0) := by
  have hpos := two_zpow_pos e
  have hscale : ∀ x : ℚ, |x * 2 ^ e - y * 2 ^ e| = |x - y| * 2 ^ e := by
    intro x
    rw [← sub_mul, abs_mul, abs_of_pos hpos]
  rcases le_or_gt e E with hle | hgt
  · have hgrid : (K : ℚ) * 2 ^ E = ((K * 2 ^ (E - e).toNat : Int) : ℚ) * 2 ^ e := by
      have : (2 : ℚ) ^ E = 2 ^ (E - e).toNat * 2 ^ e := by
        rw [← zpow_natCast, ← zpow_add₀ (by norm_num)]
        congr 1
        omega
      rw [this]
      push_cast
      ring
    rw [hgrid, hscale, hscale]
    refine ⟨mul_le_mul_of_nonneg_right (h.le _) hpos.le, fun ht hne => ?_⟩
    refine h.even_of_tie (K := K * 2 ^ (E - e).toNat) (fun hc => hne (by rw [hc])) (mul_right_cancel₀ hpos.ne' ht)
  · have hqy := hy (by omega)
    have hbelow : (K : ℚ) * 2 ^ E < q * 2 ^ e := by
      have h1 : (K : ℚ) < 2 * q := by exact_mod_cast (le_abs_self K).trans_lt hK
      calc (K : ℚ) * 2 ^ E < 2 * q * 2 ^ E := mul_lt_mul_of_pos_right h1 (two_zpow_pos E)
        _ = q * 2 ^ (E + 1) := by rw [two_zpow_succ]; ring
        _ ≤ q * 2 ^ e := by gcongr; exacts [by norm_num, by omega]
    have hqe : (q : ℚ) * 2 ^ e ≤ y * 2 ^ e := mul_le_mul_of_nonneg_right hqy hpos.le
    have hq := h.le (q : Int)
    have hlt : |(M : ℚ) * 2 ^ e - y * 2 ^ e| < |(K : ℚ) * 2 ^ E - y * 2 ^ e| := by
      calc |(M : ℚ) * 2 ^ e - y * 2 ^ e| = |(M : ℚ) - y| * 2 ^ e := hscale _
        _ ≤ |((q : Int) : ℚ) - y| * 2 ^ e := mul_le_mul_of_nonneg_right hq hpos.le
        _ = |(q : ℚ) * 2 ^ e - y * 2 ^ e| := by rw [hscale]; rfl
        _ = y * 2 ^ e - q * 2 ^ e := by rw [abs_sub_comm, abs_of_nonneg (by linarith)]
        _ < y * 2 ^ e - K * 2 ^ E := by linarith
        _ ≤ |(K : ℚ) * 2 ^ E - y * 2 ^ e| := by rw [abs_sub_comm]; exact le_abs_self _
    exact ⟨hlt.le, fun ht => absurd ht hlt.ne⟩

theorem signOf_mul_self (neg : Bool) : signOf neg * signOf neg = 1 := by cases neg <;> rfl

theorem abs_signOf_mul (neg : Bool) (x : ℚ) : |(signOf neg : ℚ) * x| = |x| := by cases neg <;> simp [signOf]

/-- Every finite code of a floating format, with its sign taken off. -/
theorem float_codeVal {f : Fmt} (hf : f.isInt = false) (neg : Bool) {k : Nat} {w : ℚ} (h : codeVal f k = some w) :
    ∃ K E : Int, w = signOf neg * ((K : ℚ) * 2 ^ E) ∧ f.par.emin ≤ E ∧ E ≤ f.par.emax ∧ |K| < 2 ^ (f.par.mant + 1) ∧ (E = f.par.emax → |K| ≤ f.par.mmax) := by
  obtain ⟨⟨K, E⟩, hv, rfl⟩ := Option.map_eq_some_iff.mp h
  have hab : |signOf neg * K| = |K| := by cases neg <;> simp [signOf]
  refine ⟨signOf neg * K, E, ?_, ?_⟩
  · have := signOf_mul_self neg
    push_cast
    rw [← mul_assoc, ← mul_assoc, ← Int.cast_mul, this]
    simp
  · rw [hab]
    exact float_value_bounds hf hv

/-- No finite value of a floating format exceeds mmax · 2^emax. -/
theorem float_le_max {f : Fmt} (hf : f.isInt = false) {K E : Int} (hE : E ≤ f.par.emax) (hK : |K| < 2 ^ (f.par.mant + 1)) (hmax : E = f.par.emax → |K| ≤ f.par.mmax) :
    (K : ℚ) * 2 ^ E ≤ f.par.mmax * 2 ^ f.par.emax := by
  obtain ⟨-, -, hlo, -⟩ := float_params hf
  rcases hE.lt_or_eq with hlt | rfl
  · have h1 : (K : ℚ) < 2 * 2 ^ f.par.mant := by
      have := (le_abs_self K).trans_lt hK
      rw [pow_succ'] at this
      exact_mod_cast this
    have h2 : ((2 : ℚ) ^ f.par.mant) ≤ f.par.mmax := by exact_mod_cast hlo
    calc (K : ℚ) * 2 ^ E ≤ 2 * 2 ^ f.par.mant * 2 ^ E := mul_le_mul_of_nonneg_right h1.le (two_zpow_pos E).le
      _ = 2 ^ f.par.mant * 2 ^ (E + 1) := by rw [two_zpow_succ]; ring
      _ ≤ f.par.mmax * 2 ^ f.par.emax := mul_le_mul h2 (two_zpow_le (by omega)) (two_zpow_pos _).le (by positivity)
  · refine mul_le_mul_of_nonneg_right ?_ (two_zpow_pos _).le
    exact_mod_cast (le_abs_self K).trans (hmax rfl)

/-- A conversion to a floating format gives the nearest value (R119). -/
theorem convFloat_nearest {f : Fmt} (hf : f.isInt = false) (n : Int) {d : Nat} (hd : 0 < d) : Nearest f ((n : ℚ) / d) (convFloat f .even n d) := by
  obtain ⟨hmant, hlt, hlo, hhi⟩ := float_params hf
  have hzero : codeVal f 0 = some 0 := by rcases float_cases hf with rfl | rfl | rfl <;> simp [codeVal, Fmt.value, Fmt.isInt, Fmt.par]
  unfold convFloat
  split
  next h0 => exact nearest_kept (v := 0) (by positivity) hzero rfl (fun _ => rfl) (by simp [h0]) (fun k w _ _ => by simp [h0])
  next h0 =>
  have ha : 0 < n.natAbs := Int.natAbs_pos.mpr h0
  have hd' : (0 : ℚ) < d := by exact_mod_cast hd
  obtain ⟨hupp, hlow⟩ := scaled_bounds ha hd f.par.mant f.par.emin
  have hnear := roundAt_near n.natAbs hd (max (floorLog2 n.natAbs d - f.par.mant) f.par.emin)
  have he : f.par.emin ≤ max (floorLog2 n.natAbs d - f.par.mant) f.par.emin := le_max_right _ _
  dsimp only
  generalize max (floorLog2 n.natAbs d - f.par.mant) f.par.emin = e at *
  generalize (if 0 ≤ e then roundNat .even n.natAbs (d * 2 ^ e.toNat) else roundNat .even (n.natAbs * 2 ^ (-e).toNat) d) = m at *
  have hr : (n : ℚ) / d = signOf (decide (n < 0)) * ((n.natAbs : ℚ) / d / 2 ^ e * 2 ^ e) := by
    rw [div_mul_cancel₀ _ (two_zpow_pos e).ne', Nat.cast_natAbs]
    by_cases hn : n < 0
    · simp [hn, signOf, abs_of_neg, neg_div]
    · simp [hn, signOf, abs_of_nonneg (not_lt.mp hn)]
  have hy0 : 0 < (n.natAbs : ℚ) / d / 2 ^ e := div_pos (div_pos (by exact_mod_cast ha) hd') (two_zpow_pos e)
  rw [hr]
  generalize decide (n < 0) = neg
  generalize (n.natAbs : ℚ) / d / 2 ^ e = y at *
  have hy : e ≠ f.par.emin → ((2 ^ f.par.mant : Nat) : ℚ) ≤ y := fun h => by push_cast; exact hlow h
  have hgrid : ∀ {c : Nat} {v : ℚ}, v = signOf neg * ((m : Int) * 2 ^ e) → (m % 2 = 0 → c % 2 = 0) →
      ∀ k w, k < 2 ^ f.bits → codeVal f k = some w → |v - signOf neg * (y * 2 ^ e)| ≤ |w - signOf neg * (y * 2 ^ e)| ∧
        (|v - signOf neg * (y * 2 ^ e)| = |w - signOf neg * (y * 2 ^ e)| → w ≠ v → c % 2 = 0) := by
    rintro c v rfl hc k w - hw
    obtain ⟨K, E, rfl, hE1, -, hK, -⟩ := float_codeVal hf neg hw
    obtain ⟨h1, h2⟩ := hnear.nearest_of_grid (q := 2 ^ f.par.mant) hy hE1 (by rw [pow_succ'] at hK; exact_mod_cast hK)
    rw [← mul_sub, ← mul_sub, abs_signOf_mul, abs_signOf_mul]
    exact ⟨h1, fun ht hne => hc (by have := h2 ht (fun hc => hne (by rw [hc])); omega)⟩
  have hrne : (signOf neg : ℚ) * (y * 2 ^ e) ≠ 0 :=
    mul_ne_zero (by cases neg <;> simp [signOf]) (mul_ne_zero hy0.ne' (two_zpow_pos e).ne')
  split
  next hm0 =>
    subst hm0
    exact nearest_kept (v := 0) (by positivity) hzero rfl (fun _ => rfl) (by simp [hrne]) (hgrid (by simp) (fun _ => rfl))
  next hm0 =>
  have hvne : (signOf neg : ℚ) * (m * 2 ^ e) ≠ 0 :=
    mul_ne_zero (by cases neg <;> simp [signOf]) (mul_ne_zero (by exact_mod_cast hm0) (two_zpow_pos e).ne')
  rw [show f.par.emin + f.par.xmax - 1 = f.par.emax from rfl]
  split
  next hbig =>
    obtain ⟨h1, h2, -⟩ := encode_codeVal hf neg (m := f.par.mmax) (e := f.par.emax) hhi.le hlt.le le_rfl (fun h => absurd h (by omega)) (fun _ => le_rfl)
    have hpos : (0 : ℚ) < f.par.mmax * 2 ^ f.par.emax := mul_pos (by exact_mod_cast (by positivity : 0 < 2 ^ f.par.mant).trans_le hlo) (two_zpow_pos _)
    have hbeyond : (f.par.mmax : ℚ) * 2 ^ f.par.emax < y * 2 ^ e := by
      simp only [Bool.or_eq_true, Bool.and_eq_true, decide_eq_true_eq] at hbig
      rcases hbig with (hbig | ⟨rfl, hbig⟩) | ⟨-, hbig⟩
      · have hq := hy (by omega)
        have hmm : (f.par.mmax : ℚ) < 2 * (2 ^ f.par.mant : Nat) := by rw [pow_succ'] at hhi; exact_mod_cast hhi
        calc (f.par.mmax : ℚ) * 2 ^ f.par.emax < 2 * (2 ^ f.par.mant : Nat) * 2 ^ f.par.emax := mul_lt_mul_of_pos_right hmm (two_zpow_pos _)
          _ = (2 ^ f.par.mant : Nat) * 2 ^ (f.par.emax + 1) := by rw [two_zpow_succ]; ring
          _ ≤ y * 2 ^ e := mul_le_mul hq (two_zpow_le (by omega)) (two_zpow_pos _).le hy0.le
      · refine mul_lt_mul_of_pos_right (not_le.mp fun hc => ?_) (two_zpow_pos _)
        have := hnear.le_of_ge (K := f.par.mmax) (by exact_mod_cast hc)
        omega
      · omega
    refine nearest_saturated h2 h1 rfl ?_
    have hle : ∀ {g k w}, codeVal f k = some w → signOf g * w ≤ f.par.mmax * 2 ^ f.par.emax := by
      intro g k w hw
      obtain ⟨K, E, rfl, -, hE, hK, hmx⟩ := float_codeVal hf g hw
      rw [← mul_assoc, ← Int.cast_mul, signOf_mul_self, Int.cast_one, one_mul]
      exact float_le_max hf hE hK hmx
    cases neg with
    | false =>
      left
      simp only [signOf, Bool.false_eq_true, if_false, Int.cast_one, one_mul]
      exact ⟨hpos, hbeyond, fun k w _ hw => by simpa [signOf] using hle (g := false) hw⟩
    | true =>
      right
      simp only [signOf, if_true, Int.cast_neg, Int.cast_one, neg_mul, one_mul]
      exact ⟨by linarith, by linarith, fun k w _ hw => by have := hle (g := true) hw; simp [signOf] at this; linarith⟩
  next hbig =>
    simp only [Bool.or_eq_true, Bool.and_eq_true, decide_eq_true_eq, not_or, not_and] at hbig
    have hmle : m ≤ 2 ^ (f.par.mant + 1) := by
      have := hnear.le_of_ge (K := ((2 ^ (f.par.mant + 1) : Nat) : Int)) (by push_cast; exact hupp.le)
      omega
    have hmlow : m < 2 ^ f.par.mant → e = f.par.emin := by
      intro hm
      by_contra hne
      have := hnear.ge_of_le (K := ((2 ^ f.par.mant : Nat) : Int)) (by exact_mod_cast hy hne)
      omega
    obtain ⟨h1, h2, h3⟩ := encode_codeVal hf neg hmle he (by omega) hmlow (fun h => by have := hbig.1.2 h; omega)
    exact nearest_kept h2 h1 rfl (fun h => absurd h hvne) (by simp [hvne]) (hgrid (by simp) (fun h => h3.trans h))

/-- Settles O13, by the integer nearest to the value over the exponent that R119 rounds at: no other code of the format lies nearer. -/
theorem conversionIsNearest : Obligations.ConversionIsNearest := by
  unfold Obligations.ConversionIsNearest
  intro f n d hd
  unfold convert convertT
  cases hf : f.isInt with
  | true => exact convInt_nearest hf n hd
  | false => exact convFloat_nearest hf n hd

end Sys2Proof.Machine

/-! SUPPORT. Vector arithmetic: dyadic values and their alignment, the BF16 codes and the order of their values; from these, the BF16 operations, the clamps of the
16-bit lanes, and the reductions. -/

namespace Sys2Proof.Machine

/-! ### Dyadic values -/

/-- The fraction of a dyadic value. -/
theorem dyad_value (m e : Int) : 0 < (dyad m e).2 ∧ ((dyad m e).1 : ℚ) / (dyad m e).2 = m * 2 ^ e := by
  unfold dyad
  split
  next h =>
    refine ⟨Nat.one_pos, ?_⟩
    rw [zpow_of_nonneg h]
    push_cast
    rw [div_one]
  next h =>
    refine ⟨Nat.two_pow_pos _, ?_⟩
    rw [zpow_of_neg (by omega), div_eq_mul_inv]

theorem convDyad_nearest (f : Fmt) (m e : Int) : Nearest f ((m : ℚ) * 2 ^ e) (convDyad f m e) := by
  obtain ⟨hd, hv⟩ := dyad_value m e
  rw [← hv]
  exact conversionIsNearest f _ _ hd

/-- A mantissa brought to a lower exponent keeps its value. -/
theorem align_value (m : Int) {g e : Int} (h : e ≤ g) : ((m * 2 ^ (g - e).toNat : Int) : ℚ) * 2 ^ e = m * 2 ^ g := by
  push_cast
  rw [← zpow_natCast, mul_assoc, ← zpow_add₀ (by norm_num)]
  congr 2
  omega

theorem dyadLt_iff (m1 e1 m2 e2 : Int) : dyadLt m1 e1 m2 e2 = true ↔ (m1 : ℚ) * 2 ^ e1 < m2 * 2 ^ e2 := by
  unfold dyadLt
  dsimp only
  rw [decide_eq_true_eq, ← align_value m1 (min_le_left e1 e2), ← align_value m2 (min_le_right e1 e2), mul_lt_mul_iff_left₀ (two_zpow_pos _)]
  exact Int.cast_lt.symm

/-! ### The codes of BF16 -/

theorem codeVal_eq_some {f : Fmt} {x : Nat} {a : ℚ} (h : codeVal f x = some a) : ∃ m e, f.value x = some (m, e) ∧ a = (m : ℚ) * 2 ^ e := by
  obtain ⟨⟨m, e⟩, hv, rfl⟩ := Option.map_eq_some_iff.mp h
  exact ⟨m, e, hv, rfl⟩

theorem codeVal_of_value {f : Fmt} {x : Nat} {m e : Int} (h : f.value x = some (m, e)) : codeVal f x = some ((m : ℚ) * 2 ^ e) := by
  unfold codeVal
  rw [h]
  rfl

theorem codeVal_eq_none {f : Fmt} {x : Nat} : codeVal f x = none ↔ f.value x = none := Option.map_eq_none_iff

/-- The magnitude of a BF16 code with the fraction t and the exponent field x (R115). -/
def bfMagnitude (t x : Nat) : Option (Nat × Int) :=
  if 254 < x ∨ (x = 254 ∧ x ≠ 0 ∧ 255 < 128 + t) then none else some (if x = 0 then t else 128 + t, if x = 0 then -133 else -133 + x - 1)

/-- A BF16 code's value is its magnitude with its sign. -/
theorem value_bf16 (x : Nat) : Fmt.value .bf16 x =
    (bfMagnitude (x % 128) (x / 128 % 256)).map (fun p => ((if x / 32768 % 2 = 1 then -1 else 1) * (p.1 : Int), p.2)) := by
  unfold Fmt.value bfMagnitude
  rw [if_neg (by decide)]
  dsimp only [Fmt.par]
  norm_num only
  split
  · rfl
  · simp only [Option.map_some, apply_ite (Nat.cast (R := Int))]

theorem codeVal_bf16_zero : codeVal .bf16 0 = some 0 := by simp [codeVal, Fmt.value, Fmt.isInt, Fmt.par]

/-- Inverting the sign of a code inverts its value. -/
theorem value_bfNeg (x : Nat) : Fmt.value .bf16 (bfNeg x) = (Fmt.value .bf16 x).map (fun p => (-p.1, p.2)) := by
  have ht : bfNeg x % 128 = x % 128 := by unfold bfNeg; split <;> omega
  have hx : bfNeg x / 128 % 256 = x / 128 % 256 := by unfold bfNeg; split <;> omega
  have hs : bfNeg x / 32768 % 2 = 1 - x / 32768 % 2 := by unfold bfNeg; split <;> omega
  rw [value_bf16, value_bf16, ht, hx, hs, Option.map_map]
  congr 1
  funext p
  rcases Nat.mod_two_eq_zero_or_one (x / 32768) with h | h <;> simp [h]

/-- Clearing the sign of a code gives the magnitude of its value. -/
theorem value_bfAbs (x : Nat) : Fmt.value .bf16 (x % 32768) = (Fmt.value .bf16 x).map (fun p => (|p.1|, p.2)) := by
  have ht : x % 32768 % 128 = x % 128 := by omega
  have hx : x % 32768 / 128 % 256 = x / 128 % 256 := by omega
  have hs : x % 32768 / 32768 % 2 = 0 := by omega
  rw [value_bf16, value_bf16, ht, hx, hs, Option.map_map]
  congr 1
  funext p
  rcases Nat.mod_two_eq_zero_or_one (x / 32768) with h | h <;> simp [h]

theorem codeVal_bfNeg {x : Nat} {a : ℚ} (h : codeVal .bf16 x = some a) : codeVal .bf16 (bfNeg x) = some (-a) := by
  obtain ⟨m, e, hv, rfl⟩ := codeVal_eq_some h
  rw [codeVal_of_value (by rw [value_bfNeg, hv]; rfl)]
  push_cast
  rw [neg_mul]

theorem codeVal_bfAbs {x : Nat} {a : ℚ} (h : codeVal .bf16 x = some a) : codeVal .bf16 (x % 32768) = some |a| := by
  obtain ⟨m, e, hv, rfl⟩ := codeVal_eq_some h
  rw [codeVal_of_value (by rw [value_bfAbs, hv]; rfl), abs_mul, abs_of_pos (two_zpow_pos e)]
  push_cast
  rfl

/-- The value of a finite code without a sign, by its fields (R115). -/
theorem codeVal_magnitude {a : Nat} {v : ℚ} (ha : a < 32768) (h : codeVal .bf16 a = some v) :
    v = ((if a / 128 = 0 then a % 128 else 128 + a % 128 : Nat) : ℚ) * 2 ^ (if a / 128 = 0 then (-133 : Int) else -133 + (a / 128 : Nat) - 1) := by
  obtain ⟨m, e, hv, rfl⟩ := codeVal_eq_some h
  have hx : a / 128 % 256 = a / 128 := by omega
  have hs : ¬a / 32768 % 2 = 1 := by omega
  rw [value_bf16, hx, if_neg hs] at hv
  unfold bfMagnitude at hv
  split at hv
  · cases hv
  · obtain ⟨rfl, rfl⟩ := Prod.mk.inj (Option.some.inj hv)
    rw [one_mul, Int.cast_natCast]

/-- The order of the codes without a sign is that of their values. -/
theorem codeVal_mono {a b : Nat} {v w : ℚ} (ha : codeVal .bf16 a = some v) (hb : codeVal .bf16 b = some w) (hlt : b < 32768) (h : a ≤ b) : v ≤ w := by
  rw [codeVal_magnitude (h.trans_lt hlt) ha, codeVal_magnitude hlt hb]
  have hxy : a / 128 ≤ b / 128 := by omega
  have ht : a % 128 < 128 := by omega
  have htu : a / 128 = b / 128 → a % 128 ≤ b % 128 := by omega
  generalize a / 128 = x at *
  generalize b / 128 = y at *
  generalize a % 128 = t at *
  generalize b % 128 = u at *
  have hpow := two_zpow_succ
  rcases hxy.lt_or_eq with hlt | rfl
  · have hy : y ≠ 0 := by omega
    have htop : ((if x = 0 then t else 128 + t : Nat) : ℚ) * 2 ^ (if x = 0 then (-133 : Int) else -133 + (x : Nat) - 1) ≤ (128 : ℚ) * 2 ^ (-133 + (x : Int)) := by
      by_cases hx : x = 0
      · subst hx
        have : (t : ℚ) ≤ 128 := by exact_mod_cast ht.le
        rw [if_pos rfl, if_pos rfl]
        exact mul_le_mul_of_nonneg_right this (two_zpow_pos _).le
      · have : ((128 + t : Nat) : ℚ) ≤ 256 := by exact_mod_cast (by omega)
        rw [if_neg hx, if_neg hx, show (-133 + (x : Int)) = (-133 + (x : Int) - 1) + 1 by ring, two_zpow_succ]
        have := mul_le_mul_of_nonneg_right this (two_zpow_pos (-133 + (x : Int) - 1)).le
        rw [show (-133 + (x : Int) - 1 + 1 - 1) = -133 + (x : Int) - 1 by ring]
        linarith
    refine htop.trans ?_
    rw [if_neg hy, if_neg hy]
    have h128 : (128 : ℚ) ≤ ((128 + u : Nat) : ℚ) := by exact_mod_cast Nat.le_add_right 128 u
    exact mul_le_mul h128 (two_zpow_le (by omega)) (two_zpow_pos _).le (by positivity)
  · have := htu rfl
    refine mul_le_mul_of_nonneg_right ?_ (two_zpow_pos _).le
    exact_mod_cast (by split <;> omega)

/-! ### The BF16 operations -/

section operations
variable {x y z : Nat} {a b c : ℚ} (hx : codeVal .bf16 x = some a) (hy : codeVal .bf16 y = some b)
include hx hy

theorem bfAdd_stepIs : StepIs (a + b) (bfAdd x y) := by
  obtain ⟨m1, e1, h1, rfl⟩ := codeVal_eq_some hx
  obtain ⟨m2, e2, h2, rfl⟩ := codeVal_eq_some hy
  unfold bfAdd
  rw [h1, h2]
  refine ⟨_, rfl, ?_⟩
  have h := convDyad_nearest .bf16 (m1 * 2 ^ (e1 - min e1 e2).toNat + m2 * 2 ^ (e2 - min e1 e2).toNat) (min e1 e2)
  rwa [Int.cast_add, add_mul, align_value m1 (min_le_left e1 e2), align_value m2 (min_le_right e1 e2)] at h

theorem bfSub_stepIs : StepIs (a - b) (bfSub x y) := by
  rw [sub_eq_add_neg]
  exact bfAdd_stepIs hx (codeVal_bfNeg hy)

theorem bfMul_stepIs : StepIs (a * b) (bfMul x y) := by
  obtain ⟨m1, e1, h1, rfl⟩ := codeVal_eq_some hx
  obtain ⟨m2, e2, h2, rfl⟩ := codeVal_eq_some hy
  unfold bfMul
  rw [h1, h2]
  refine ⟨_, rfl, ?_⟩
  have h := convDyad_nearest .bf16 (m1 * m2) (e1 + e2)
  rwa [Int.cast_mul, zpow_add₀ (by norm_num), mul_mul_mul_comm] at h

theorem bfFma_stepIs (hz : codeVal .bf16 z = some c) : StepIs (a * b + c) (bfFma x y z) := by
  obtain ⟨m1, e1, h1, rfl⟩ := codeVal_eq_some hx
  obtain ⟨m2, e2, h2, rfl⟩ := codeVal_eq_some hy
  obtain ⟨m3, e3, h3, rfl⟩ := codeVal_eq_some hz
  unfold bfFma
  rw [h1, h2, h3]
  refine ⟨_, rfl, ?_⟩
  have h := convDyad_nearest .bf16 (m1 * m2 * 2 ^ (e1 + e2 - min (e1 + e2) e3).toNat + m3 * 2 ^ (e3 - min (e1 + e2) e3).toNat) (min (e1 + e2) e3)
  rwa [Int.cast_add, add_mul, align_value (m1 * m2) (min_le_left (e1 + e2) e3), align_value m3 (min_le_right (e1 + e2) e3), Int.cast_mul,
    zpow_add₀ (by norm_num), mul_mul_mul_comm] at h

/-- MAX and MIN keep the input that is taken, and make a zero +0 (R160). -/
theorem bfMaxMin_take (isMax : Bool) : ∃ k, bfMaxMin isMax x y = .ok ⟨k, false, false⟩ ∧
    codeVal .bf16 k = some (if isMax then max a b else min a b) ∧ ((if isMax then max a b else min a b) ≠ 0 → k = x ∨ k = y) ∧
    ((if isMax then max a b else min a b) = 0 → k = 0) := by
  obtain ⟨m1, e1, h1, rfl⟩ := codeVal_eq_some hx
  obtain ⟨m2, e2, h2, rfl⟩ := codeVal_eq_some hy
  have htake : ∃ t : Bool, (if isMax then dyadLt m1 e1 m2 e2 else dyadLt m2 e2 m1 e1) = t ∧
      (if isMax then max ((m1 : ℚ) * 2 ^ e1) (m2 * 2 ^ e2) else min ((m1 : ℚ) * 2 ^ e1) (m2 * 2 ^ e2)) = if t then (m2 : ℚ) * 2 ^ e2 else m1 * 2 ^ e1 := by
    refine ⟨_, rfl, ?_⟩
    cases isMax with
    | true =>
      simp only [if_true, dyadLt_iff]
      split
      next h => exact max_eq_right h.le
      next h => exact max_eq_left (not_lt.mp h)
    | false =>
      simp only [Bool.false_eq_true, if_false, dyadLt_iff]
      split
      next h => exact min_eq_right h.le
      next h => exact min_eq_left (not_lt.mp h)
  obtain ⟨t, ht, hval⟩ := htake
  have hzero : ∀ m e : Int, (m : ℚ) * 2 ^ e = 0 ↔ m = 0 := fun m e => by simp [(two_zpow_pos e).ne']
  unfold bfMaxMin
  rw [h1, h2, hval]
  dsimp only
  rw [ht]
  refine ⟨_, rfl, ?_⟩
  cases t with
  | true =>
    simp only [if_true, hzero]
    by_cases hm : m2 = 0
    · simp [hm, codeVal_bf16_zero]
    · simp [hm, codeVal_of_value h2]
  | false =>
    simp only [Bool.false_eq_true, if_false, hzero]
    by_cases hm : m1 = 0
    · simp [hm, codeVal_bf16_zero]
    · simp [hm, codeVal_of_value h1]

end operations

/-- An input without a value leaves poison only (R162). -/
theorem bf_bad {x y : Nat} (z : Nat) (h : codeVal .bf16 x = none ∨ codeVal .bf16 y = none) :
    bfAdd x y = .bad ∧ bfMul x y = .bad ∧ bfFma x y z = .bad ∧ bfMaxMin true x y = .bad ∧ bfMaxMin false x y = .bad := by
  simp only [codeVal_eq_none] at h
  unfold bfAdd bfMul bfFma bfMaxMin
  rcases h with h | h
  · simp [h]
  · cases Fmt.value .bf16 x <;> simp [h]

/-! ### 16-bit lanes -/

/-- The integers clamp to 16 bits (R161). -/
theorem laneS16_clamp (v : Int) : toSigned 16 (laneS16 0 v).code = max (-32768) (min 32767 v) ∧
    ((laneS16 0 v).sat = true ↔ v < -32768 ∨ 32767 < v) ∧ (laneS16 0 v).poi = 0 := by
  unfold laneS16
  rw [if_neg (by simp)]
  split
  next h =>
    refine ⟨?_, by simp [h], rfl⟩
    rw [min_eq_left h.le]
    rfl
  next h =>
    split
    next g =>
      refine ⟨?_, by simp [g], rfl⟩
      rw [min_eq_right (by omega), max_eq_left (by omega)]
      rfl
    next g =>
      refine ⟨?_, by simp; omega, rfl⟩
      rw [min_eq_right (by omega), max_eq_right (by omega)]
      exact toSigned_lowBits (by norm_num) (by norm_num; omega) (by norm_num; omega)

theorem vectorArithmetic : Sys2Proof.Stated.VectorArithmetic := by
  refine ⟨fun x y z a b c hx hy hz _ _ => ?_, fun x y z h => bf_bad z h, laneS16_clamp, fun p v r hp => ?_⟩
  · exact ⟨bfAdd_stepIs hx hy, bfSub_stepIs hx hy, bfMul_stepIs hx hy, bfFma_stepIs hx hy hz, bfMaxMin_take hx hy true, bfMaxMin_take hx hy false⟩
  · unfold laneS16 laneBf
    rw [if_pos hp, if_pos hp]
    exact ⟨rfl, rfl⟩

/-! ### Reductions -/

/-- A fold of the greater of two numbers gives the start or a member, and no member is above it. -/
theorem foldl_max_spec (g : Nat → Nat) (l : List Nat) (a : Nat) :
    (l.foldl (fun k x => max k (g x)) a = a ∨ ∃ c ∈ l, l.foldl (fun k x => max k (g x)) a = g c) ∧ a ≤ l.foldl (fun k x => max k (g x)) a ∧
      ∀ c ∈ l, g c ≤ l.foldl (fun k x => max k (g x)) a := by
  induction l generalizing a with
  | nil => simp
  | cons x xs ih =>
    obtain ⟨h1, h2, h3⟩ := ih (max a (g x))
    rw [List.foldl_cons]
    refine ⟨?_, (le_max_left _ _).trans h2, ?_⟩
    · rcases h1 with h1 | ⟨c, hc, h1⟩
      · rcases max_choice a (g x) with hm | hm
        · exact .inl (h1.trans hm)
        · exact .inr ⟨x, List.mem_cons_self, h1.trans hm⟩
      · exact .inr ⟨c, List.mem_cons_of_mem _ hc, h1⟩
    · intro c hc
      rcases List.mem_cons.mp hc with rfl | hc
      · exact (le_max_right _ _).trans h2
      · exact h3 c hc

/-- A step of the reduction MAX. -/
def maxStep (k x : Nat) : Nat := match bfMaxMin true k x with | .ok r => r.code | .bad => k

theorem maxStep_value {k x : Nat} {a b : ℚ} (hk : codeVal .bf16 k = some a) (hx : codeVal .bf16 x = some b) : codeVal .bf16 (maxStep k x) = some (max a b) := by
  obtain ⟨c, hc, hv, -⟩ := bfMaxMin_take hk hx true
  unfold maxStep
  rw [hc]
  exact hv

/-- The fold of MAX over finite codes has the largest of their values. -/
theorem foldl_maxStep {l : List Nat} (hl : ∀ c ∈ l, codeVal .bf16 c ≠ none) {k : Nat} {a : ℚ} (hk : codeVal .bf16 k = some a) :
    ∃ v, codeVal .bf16 (l.foldl maxStep k) = some v ∧ (v = a ∨ ∃ c ∈ l, codeVal .bf16 c = some v) ∧ a ≤ v ∧
      ∀ c ∈ l, ∀ w, codeVal .bf16 c = some w → w ≤ v := by
  induction l generalizing k a with
  | nil => exact ⟨a, hk, .inl rfl, le_rfl, by simp⟩
  | cons x xs ih =>
    obtain ⟨b, hb⟩ := Option.ne_none_iff_exists'.mp (hl x List.mem_cons_self)
    obtain ⟨v, hv, hor, hav, hall⟩ := ih (fun c hc => hl c (List.mem_cons_of_mem _ hc)) (maxStep_value hk hb)
    refine ⟨v, hv, ?_, (le_max_left _ _).trans hav, ?_⟩
    · rcases hor with rfl | ⟨c, hc, hcv⟩
      · rcases max_choice a b with hm | hm
        · exact .inl hm
        · exact .inr ⟨x, List.mem_cons_self, by rw [hb, hm]⟩
      · exact .inr ⟨c, List.mem_cons_of_mem _ hc, hcv⟩
    · intro c hc w hw
      rcases List.mem_cons.mp hc with rfl | hc
      · obtain rfl := Option.some.inj (hb.symm.trans hw)
        exact (le_max_right _ _).trans hav
      · exact hall c hc w hw

/-- MAX of finite codes (R163). -/
theorem redResult_max (er : Int) {l : List Nat} (hne : l ≠ []) (hl : ∀ c ∈ l, codeVal .bf16 c ≠ none) :
    ∃ v, codeVal .bf16 (redResult 2 er l).1 = some v ∧ (∃ c ∈ l, codeVal .bf16 c = some v) ∧ ∀ c ∈ l, ∀ w, codeVal .bf16 c = some w → w ≤ v := by
  obtain ⟨c, t, rfl⟩ := List.exists_cons_of_ne_nil hne
  obtain ⟨a, ha⟩ := Option.ne_none_iff_exists'.mp (hl c List.mem_cons_self)
  have hcc : codeVal .bf16 (maxStep c c) = some a := by rw [maxStep_value ha ha, max_self]
  obtain ⟨v, hv, hor, hav, hall⟩ := foldl_maxStep (fun x hx => hl x (List.mem_cons_of_mem _ hx)) hcc
  refine ⟨v, hv, ?_, ?_⟩
  · rcases hor with rfl | ⟨x, hx, hxv⟩
    · exact ⟨c, List.mem_cons_self, ha⟩
    · exact ⟨x, List.mem_cons_of_mem _ hx, hxv⟩
  · intro x hx w hw
    rcases List.mem_cons.mp hx with rfl | hx
    · obtain rfl := Option.some.inj (ha.symm.trans hw)
      exact hav
    · exact hall x hx w hw

/-- ABSMAX of finite codes (R163). -/
theorem redResult_absmax (er : Int) {l : List Nat} (hne : l ≠ []) (hl : ∀ c ∈ l, codeVal .bf16 c ≠ none) :
    ∃ v, codeVal .bf16 (redResult 3 er l).1 = some v ∧ (∃ c ∈ l, ∃ w, codeVal .bf16 c = some w ∧ v = |w|) ∧ ∀ c ∈ l, ∀ w, codeVal .bf16 c = some w → |w| ≤ v := by
  obtain ⟨hor, -, hall⟩ := foldl_max_spec (fun x => x % 32768) l 0
  have hmem : ∃ c ∈ l, (redResult 3 er l).1 = c % 32768 := by
    rcases hor with h0 | h
    · obtain ⟨c, t, rfl⟩ := List.exists_cons_of_ne_nil hne
      have := hall c List.mem_cons_self
      exact ⟨c, List.mem_cons_self, h0.trans (by omega)⟩
    · exact h
  obtain ⟨c, hc, hk⟩ := hmem
  obtain ⟨a, ha⟩ := Option.ne_none_iff_exists'.mp (hl c hc)
  rw [hk]
  refine ⟨|a|, codeVal_bfAbs ha, ⟨c, hc, a, ha, rfl⟩, fun x hx w hw => codeVal_mono (codeVal_bfAbs hw) (codeVal_bfAbs ha) (Nat.mod_lt _ (by norm_num)) ?_⟩
  rw [← hk]
  exact hall x hx

/-- SUM and SUMSQ of no element are +0 and raise nothing (R163). -/
theorem redResult_empty (er : Int) : redResult 0 er [] = (0, 0, 0) ∧ redResult 1 er [] = (0, 0, 0) := by
  have hc : convDyad .bf16 0 er = ⟨0, false, false⟩ := by
    unfold convDyad convert convertT convFloat dyad
    split <;> simp [Fmt.isInt]
  have hsum : redResult 0 er [] = ((convDyad .bf16 0 er).code, 0 + b2n false + b2n (convDyad .bf16 0 er).sat, b2n (convDyad .bf16 0 er).ufz) := rfl
  have hsq : redResult 1 er [] = redResult 0 er [] := rfl
  rw [hsq, hsum, hc]
  exact ⟨rfl, rfl⟩

theorem vectorReductions : Sys2Proof.Stated.VectorReductions := by
  refine ⟨fun er => ⟨(redResult_empty er).1, (redResult_empty er).2, rfl, rfl⟩, fun er l hne hl => ?_⟩
  have hfin := fun c hc => (hl c hc).2
  exact ⟨redResult_max er hne hfin, redResult_absmax er hne hfin⟩

/-- Settles O16, by the one conversion of the exact result (O13), the clamps of 16 bits, and the order of the BF16 codes. -/
theorem vectorValues : Obligations.VectorValues := ⟨vectorArithmetic, vectorReductions⟩

end Sys2Proof.Machine

/-! SUPPORT. Rows of elements put down in a bay: what a write leaves of a memory in which no bit has flipped, the bytes that a row of lanes writes, and the landing of a row. -/

namespace Sys2Proof.Machine

/-! ### Memories in which no bit has flipped -/

section noflips
variable {m : Mem} (h : m.flips = [])
include h

theorem Mem.read_noFlips (cw : Nat) : m.read cw = ⟨.clean, m.word cw, m.mark cw⟩ := by
  unfold Mem.read
  rw [h]
  exact if_pos rfl

theorem Mem.carried_noFlips (cw : Nat) : m.carried cw = m.word cw := by
  unfold Mem.carried
  rw [Mem.read_noFlips h, h]
  split
  · rfl
  · simp [smGet]

/-- A byte is delivered as it was written, with the poison of its codeword's mark. -/
theorem Mem.fetch_noFlips (a : Nat) : m.fetch a = (m.byte a, if m.mark (a / 8) = 0 then 0 else 2) := by
  unfold Mem.fetch
  rw [Mem.read_noFlips h, Mem.carried_noFlips h]
  refine Prod.ext (BitVec.eq_of_toNat_eq ?_) ?_
  · have hw := m.word_byte (a / 8) (a % 8) (Nat.mod_lt _ (by norm_num))
    rw [show 8 * (a / 8) + a % 8 = a by omega] at hw
    rw [BitVec.toNat_ofNat]
    exact hw
  · simp only [CwRead.psn]
    by_cases hm : m.mark (a / 8) = 0 <;> simp [hm]

theorem Mem.not_tainted_noFlips {cw : Nat} (hm : m.mark cw = 0) : m.tainted cw = false := by
  unfold Mem.tainted
  rw [hm, h]
  rfl

theorem Mem.merge_noFlips (cw : Nat) (ws : List (Nat × Byte)) (p : Nat) : (m.merge cw ws p).flips = [] := by
  unfold Mem.merge Mem.writeCw
  dsimp only
  rw [h]
  rfl

/-- The bytes that a merge leaves do not depend on the marks. -/
theorem Mem.merge_byte_noFlips (cw : Nat) (ws : List (Nat × Byte)) (p a : Nat) : (m.merge cw ws p).byte a =
    if a / 8 = cw then ws.foldl (fun (x : Byte) (q : Nat × Byte) => if q.1 = a % 8 then q.2 else x) (m.byte a) else m.byte a := by
  have hc : ({ m with marks := [] } : Mem).Clean := Mem.clean_of_nil rfl h
  have e : (m.merge cw ws p).bytes = (({ m with marks := [] } : Mem).merge cw ws 0).bytes := by
    unfold Mem.merge
    rw [Mem.carried_noFlips h, hc.carried]
    rfl
  have hb := Mem.merge_byte hc cw ws a
  unfold Mem.byte at hb ⊢
  rw [e]
  exact hb

theorem Mem.merge_mark (cw : Nat) (ws : List (Nat × Byte)) (p x : Nat) :
    ((m.merge cw ws p).mark x ≠ 0 → m.mark x ≠ 0 ∨ (x = cw ∧ p ≠ 0)) ∧ (x = cw → p ≠ 0 → (m.merge cw ws p).mark x ≠ 0) ∧
      (x ≠ cw → (m.merge cw ws p).mark x = m.mark x) := by
  unfold Mem.merge
  simp only [Mem.writeCw_mark]
  rw [Mem.read_noFlips h]
  simp only [CwRead.psn]
  by_cases hx : x = cw
  · subst hx
    refine ⟨fun hne => ?_, fun _ hp => ?_, fun hne => absurd rfl hne⟩
    · by_contra hc
      simp only [not_or, not_and, ne_eq, not_not] at hc
      simp [hc.1, hc.2] at hne
    · rw [if_pos rfl]
      omega
  · exact ⟨fun hne => .inl (by rwa [if_neg hx] at hne), fun he => absurd he hx, fun _ => if_neg hx⟩

theorem Mem.merge_marks_nil (hm : m.marks = []) (cw : Nat) (ws : List (Nat × Byte)) : (m.merge cw ws 0).marks = [] := by
  have hc : m.Clean := Mem.clean_of_nil hm h
  unfold Mem.merge Mem.writeCw
  rw [hc.read, hm]
  simp [CwRead.psn, smPut]

/-- After groups of byte writes: no bit has flipped, and a byte is what the writes make of it. -/
theorem Mem.mergeAll_noFlips (gs : List (Nat × List (Nat × Byte) × Nat)) :
    (gs.foldl (fun acc g => acc.merge g.1 g.2.1 g.2.2) m).flips = [] ∧ (gs.foldl (fun acc g => acc.merge g.1 g.2.1 g.2.2) m).byte = groupBytes m.byte gs := by
  unfold groupBytes
  induction gs generalizing m with
  | nil => exact ⟨h, rfl⟩
  | cons g t ih =>
    rw [List.foldl_cons, List.foldl_cons]
    obtain ⟨h1, h2⟩ := ih (m := m.merge g.1 g.2.1 g.2.2) (Mem.merge_noFlips h _ _ _)
    refine ⟨h1, h2.trans ?_⟩
    congr 1
    exact funext (fun x => Mem.merge_byte_noFlips h g.1 g.2.1 g.2.2 x)

theorem Mem.write_noFlips (ws : List (Nat × Byte × Nat)) : (m.write ws).flips = [] := (Mem.mergeAll_noFlips h _).1

theorem Mem.write_byte_noFlips (ws : List (Nat × Byte × Nat)) (a : Nat) : (m.write ws).byte a = writeBytes m.byte ws a := by
  rw [← groupBytes_eq]
  exact congrFun (Mem.mergeAll_noFlips h _).2 a

/-- Unpoisoned writes put no mark into a memory without marks. -/
theorem Mem.write_marks_nil (hm : m.marks = []) {ws : List (Nat × Byte × Nat)} (hp : ∀ w ∈ ws, w.2.2 = 0) : (m.write ws).marks = [] := by
  have hg := groupByCw_sound ws hp
  unfold Mem.write
  generalize groupByCw ws = l at hg
  induction l generalizing m with
  | nil => exact hm
  | cons g t ih =>
    rw [List.foldl_cons, hg g List.mem_cons_self]
    exact ih (Mem.merge_noFlips h _ _ _) (Mem.merge_marks_nil h hm _ _) (fun x hx => hg x (List.mem_cons_of_mem _ hx))

end noflips

/-- Each group of writes is that of a codeword written, and poisoned by one of its writes where it is poisoned. -/
theorem groupByCw_mem {ws : List (Nat × Byte × Nat)} : ∀ g ∈ groupByCw ws, (∃ w ∈ ws, w.1 / 8 = g.1) ∧ (g.2.2 ≠ 0 → ∃ w ∈ ws, w.1 / 8 = g.1 ∧ w.2.2 ≠ 0) := by
  induction ws with
  | nil => simp [groupByCw]
  | cons w t ih =>
    obtain ⟨a, b, p⟩ := w
    have hlater : ∀ g ∈ groupByCw t, (∃ w ∈ (a, b, p) :: t, w.1 / 8 = g.1) ∧ (g.2.2 ≠ 0 → ∃ w ∈ (a, b, p) :: t, w.1 / 8 = g.1 ∧ w.2.2 ≠ 0) := by
      intro g hg
      obtain ⟨⟨w, hw, he⟩, h2⟩ := ih g hg
      refine ⟨⟨w, List.mem_cons_of_mem _ hw, he⟩, fun hp => ?_⟩
      obtain ⟨w, hw, he⟩ := h2 hp
      exact ⟨w, List.mem_cons_of_mem _ hw, he⟩
    rcases groupByCw_head a b p t with ⟨l, q, r, h1, h2⟩ | h2
    · rw [h2]
      intro g hg
      rcases List.mem_cons.mp hg with rfl | hg
      · refine ⟨⟨_, List.mem_cons_self, rfl⟩, fun hp => ?_⟩
        by_cases hp0 : p = 0
        · exact (hlater (a / 8, l, q) (by rw [h1]; exact List.mem_cons_self)).2 (by simpa [hp0] using hp)
        · exact ⟨_, List.mem_cons_self, rfl, hp0⟩
      · exact hlater g (by rw [h1]; exact List.mem_cons_of_mem _ hg)
    · rw [h2]
      intro g hg
      rcases List.mem_cons.mp hg with rfl | hg
      · exact ⟨⟨_, List.mem_cons_self, rfl⟩, fun hp => ⟨_, List.mem_cons_self, rfl, hp⟩⟩
      · exact hlater g hg

/-- Every write stands in the group of its codeword. -/
theorem groupByCw_covers {ws : List (Nat × Byte × Nat)} : ∀ w ∈ ws, ∃ g ∈ groupByCw ws, g.1 = w.1 / 8 ∧ w.2.2 ≤ g.2.2 := by
  induction ws with
  | nil => simp
  | cons w t ih =>
    obtain ⟨a, b, p⟩ := w
    rcases groupByCw_head a b p t with ⟨l, q, r, h1, h2⟩ | h2
    · rw [h1] at ih
      rw [h2]
      intro w hw
      rcases List.mem_cons.mp hw with rfl | hw
      · exact ⟨_, List.mem_cons_self, rfl, le_max_left _ _⟩
      · obtain ⟨g, hg, he, hle⟩ := ih w hw
        rcases List.mem_cons.mp hg with rfl | hg
        · exact ⟨_, List.mem_cons_self, he, hle.trans (le_max_right _ _)⟩
        · exact ⟨g, List.mem_cons_of_mem _ hg, he, hle⟩
    · rw [h2]
      intro w hw
      rcases List.mem_cons.mp hw with rfl | hw
      · exact ⟨_, List.mem_cons_self, rfl, le_rfl⟩
      · obtain ⟨g, hg, he, hle⟩ := ih w hw
        exact ⟨g, List.mem_cons_of_mem _ hg, he, hle⟩

/-- Writes in the order of their addresses make one group for each codeword. -/
theorem groupByCw_rising {ws : List (Nat × Byte × Nat)} (h : ws.Pairwise (fun v w => v.1 ≤ w.1)) : (groupByCw ws).Pairwise (fun v w => v.1 < w.1) := by
  induction ws with
  | nil => simp [groupByCw]
  | cons w t ih =>
    obtain ⟨a, b, p⟩ := w
    obtain ⟨hw, ht⟩ := List.pairwise_cons.mp h
    have ih := ih ht
    have hge : ∀ g ∈ groupByCw t, a / 8 ≤ g.1 := by
      intro g hg
      obtain ⟨⟨v, hv, he⟩, -⟩ := groupByCw_mem g hg
      have := hw v hv
      dsimp only at this
      omega
    rcases hg : groupByCw t with _ | ⟨⟨cw, l, q⟩, r⟩
    · simp [groupByCw, hg]
    · rw [hg] at ih hge
      obtain ⟨h1, h2⟩ := List.pairwise_cons.mp ih
      by_cases hcw : cw = a / 8
      · simp only [groupByCw, hg, hcw, if_true]
        exact List.pairwise_cons.mpr ⟨fun g hg => hcw ▸ h1 g hg, h2⟩
      · simp only [groupByCw, hg, if_neg hcw]
        refine List.pairwise_cons.mpr ⟨fun g hg => ?_, ih⟩
        have h0 := hge (cw, l, q) List.mem_cons_self
        dsimp only at h0
        rcases List.mem_cons.mp hg with rfl | hg
        · dsimp only
          omega
        · have := h1 g hg
          dsimp only at this ⊢
          omega

/-- The marks after writes in the order of their addresses. -/
theorem Mem.write_mark {m : Mem} (h : m.flips = []) {ws : List (Nat × Byte × Nat)} (hr : ws.Pairwise (fun v w => v.1 ≤ w.1)) (x : Nat) :
    ((m.write ws).mark x ≠ 0 → m.mark x ≠ 0 ∨ ∃ w ∈ ws, w.1 / 8 = x ∧ w.2.2 ≠ 0) ∧ ((∃ w ∈ ws, w.1 / 8 = x ∧ w.2.2 ≠ 0) → (m.write ws).mark x ≠ 0) ∧
      ((∀ w ∈ ws, w.1 / 8 ≠ x) → (m.write ws).mark x = m.mark x) := by
  have hfold : ∀ (gs : List (Nat × List (Nat × Byte) × Nat)) (m : Mem), m.flips = [] → gs.Pairwise (fun v w => v.1 < w.1) →
      let t := gs.foldl (fun acc g => acc.merge g.1 g.2.1 g.2.2) m
      (t.mark x ≠ 0 → m.mark x ≠ 0 ∨ ∃ g ∈ gs, g.1 = x ∧ g.2.2 ≠ 0) ∧ ((∃ g ∈ gs, g.1 = x ∧ g.2.2 ≠ 0) → t.mark x ≠ 0) ∧
        ((∀ g ∈ gs, g.1 ≠ x) → t.mark x = m.mark x) := by
    intro gs
    induction gs with
    | nil => intro m _ _; simp
    | cons g gs ih =>
      intro m hm hp
      obtain ⟨hg, hp⟩ := List.pairwise_cons.mp hp
      obtain ⟨i1, i2, i3⟩ := ih (m.merge g.1 g.2.1 g.2.2) (Mem.merge_noFlips hm _ _ _) hp
      obtain ⟨m1, m2, m3⟩ := Mem.merge_mark hm g.1 g.2.1 g.2.2 x
      rw [List.foldl_cons]
      refine ⟨fun ht => ?_, ?_, fun hno => ?_⟩
      · rcases i1 ht with ht | ⟨y, hy, he⟩
        · rcases m1 ht with ht | ⟨rfl, hp⟩
          · exact .inl ht
          · exact .inr ⟨g, List.mem_cons_self, rfl, hp⟩
        · exact .inr ⟨y, List.mem_cons_of_mem _ hy, he⟩
      · rintro ⟨y, hy, rfl, hpsn⟩
        rcases List.mem_cons.mp hy with rfl | hy
        · rw [i3 (fun z hz => (hg z hz).ne')]
          exact m2 rfl hpsn
        · exact i2 ⟨y, hy, rfl, hpsn⟩
      · rw [i3 (fun y hy => hno y (List.mem_cons_of_mem _ hy)), m3 (hno g List.mem_cons_self).symm]
  obtain ⟨f1, f2, f3⟩ := hfold (groupByCw ws) m h (groupByCw_rising hr)
  refine ⟨fun ht => ?_, ?_, fun hno => f3 (fun g hg => ?_)⟩
  · rcases f1 ht with ht | ⟨g, hg, rfl, hp⟩
    · exact .inl ht
    · exact .inr ((groupByCw_mem g hg).2 hp)
  · rintro ⟨w, hw, rfl, hp⟩
    obtain ⟨g, hg, he, hle⟩ := groupByCw_covers w hw
    exact f2 ⟨g, hg, he, by omega⟩
  · obtain ⟨⟨w, hw, he⟩, -⟩ := groupByCw_mem g hg
    rw [← he]
    exact hno w hw

/-- What bytes become of which each is written at most once. -/
theorem writeBytes_once {ws : List (Nat × Byte × Nat)} (h : ws.Pairwise (fun v w => v.1 < w.1)) (f : Nat → Byte) (a : Nat) :
    (∀ w ∈ ws, w.1 = a → writeBytes f ws a = w.2.1) ∧ ((∀ w ∈ ws, w.1 ≠ a) → writeBytes f ws a = f a) := by
  unfold writeBytes
  generalize f a = x
  induction ws generalizing x with
  | nil => simp
  | cons w t ih =>
    obtain ⟨hw, ht⟩ := List.pairwise_cons.mp h
    rw [List.foldl_cons]
    obtain ⟨i1, i2⟩ := ih ht (if w.1 = a then w.2.1 else x)
    constructor
    · intro v hv hva
      rcases List.mem_cons.mp hv with rfl | hv
      · rw [i2 (fun y hy => by have := hw y hy; omega), if_pos hva]
      · exact i1 v hv hva
    · intro hno
      rw [i2 (fun y hy => hno y (List.mem_cons_of_mem _ hy)), if_neg (hno w List.mem_cons_self)]

/-- A bank's own reads of codewords without marks record nothing. -/
theorem loftMerge_unmarked {s : State} (h : s.fab.loft.flips = []) (spar : Nat) {ws : List (Nat × Byte × Nat)} (hm : ∀ w ∈ ws, s.fab.loft.mark (w.1 / 8) = 0) :
    s.loftMerge spar ws = s := by
  unfold State.loftMerge
  split
  · rfl
  · refine foldl_fixed _ (fun cw hcw => ?_)
    obtain ⟨g, hg, he⟩ := List.mem_filterMap.mp hcw
    obtain ⟨⟨w, hw, hwg⟩, -⟩ := groupByCw_mem g hg
    have hcw : g.1 = cw := by
      split at he
      · cases he
      · exact Option.some.inj he
    unfold State.loftReadCw
    refine if_pos ?_
    rw [← hcw, ← hwg, Mem.not_tainted_noFlips h (hm w hw)]
    rfl

/-! ### The bytes of a row of lanes -/

/-- What a row of lanes writes in its byte j: the byte, its poison, and the half that the byte keeps where only one 4-bit lane of it writes. -/
def laneByte (bits : Nat) (codes : List (Option (Nat × Nat))) (j : Nat) : Option (Byte × Nat × Option Nat) :=
  if bits = 4 then
    match codes.getD (2 * j) none, codes.getD (2 * j + 1) none with
    | none, none => none
    | some l, none => some (BitVec.ofNat 8 (l.1 % 16), l.2, some 1)
    | none, some h => some (BitVec.ofNat 8 (h.1 % 16 * 16), h.2, some 0)
    | some l, some h => some (BitVec.ofNat 8 (l.1 % 16 + h.1 % 16 * 16), max l.2 h.2, none)
  else (codes.getD (j / (bits / 8)) none).map (fun c => ((leBytes (bits / 8) c.1).getD (j % (bits / 8)) 0, c.2, none))

/-- The byte writes of a row in `len` bytes from `base`, and the halves that they keep. -/
def rowWrites (base len bits : Nat) (codes : List (Option (Nat × Nat))) : List (Nat × Byte × Nat) :=
  (List.range len).filterMap (fun j => (laneByte bits codes j).map (fun b => (base + j, b.1, b.2.1)))

def rowKeeps (base len bits : Nat) (codes : List (Option (Nat × Nat))) : List (Nat × Nat) :=
  (List.range len).filterMap (fun j => (laneByte bits codes j).bind (fun b => b.2.2.map (fun k => (base + j, k))))

/-- What byte j of a row becomes. -/
def rowByte (bits : Nat) (codes : List (Option (Nat × Nat))) (j : Nat) (old : Byte) : Byte :=
  match laneByte bits codes j with
  | none => old
  | some (b, _, none) => b
  | some (b, _, some k) => BitVec.ofNat 8 (if k = 0 then b.toNat / 16 * 16 + old.toNat % 16 else old.toNat / 16 * 16 + b.toNat % 16)

theorem leBytes_eq (n v : Nat) : leBytes n v = (List.range n).map (fun k => BitVec.ofNat 8 (v / 256 ^ k)) := by
  induction n generalizing v with
  | zero => rfl
  | succ n ih =>
    rw [List.range_succ_eq_map, List.map_cons, List.map_map, leBytes, ih]
    simp [Function.comp_def, Nat.pow_succ', Nat.div_div_eq_div_mul]

theorem range_mul_flatMap (l b : Nat) : (List.range l).flatMap (fun k => (List.range b).map (fun x => k * b + x)) = List.range (l * b) := by
  induction l with
  | zero => simp
  | succ l ih =>
    rw [List.range_succ, List.flatMap_append, ih, Nat.succ_mul, List.range_add]
    simp

/-- The byte writes of a row of lanes, byte by byte. -/
theorem laneWrites_bytes {bits L : Nat} (hb : bits = 4 ∨ bits = 8 ∨ bits = 16) (base : Nat) {codes : List (Option (Nat × Nat))} (hc : codes.length = 2 * L) :
    laneWrites base bits codes = (rowWrites base (2 * L * bits / 8) bits codes, rowKeeps base (2 * L * bits / 8) bits codes) := by
  by_cases h4 : bits = 4
  · subst h4
    have hlen : (codes.length + 1) / 2 = 2 * L * 4 / 8 := by omega
    unfold laneWrites rowWrites rowKeeps
    simp only [if_true, hlen, List.filterMap_map]
    refine Prod.ext (List.filterMap_congr (fun j _ => ?_)) (List.filterMap_congr (fun j _ => ?_))
    · unfold laneByte
      dsimp only [Function.comp]
      cases codes.getD (2 * j) none <;> cases codes.getD (2 * j + 1) none <;> rfl
    · unfold laneByte
      dsimp only [Function.comp]
      cases codes.getD (2 * j) none <;> cases codes.getD (2 * j + 1) none <;> rfl
  · have hk : ∃ k, 0 < k ∧ bits / 8 = k ∧ 2 * L * bits / 8 = 2 * L * k := by rcases hb with rfl | rfl | rfl; exacts [absurd rfl h4, ⟨1, by omega⟩, ⟨2, by omega⟩]
    obtain ⟨k, hk0, hk, hlen⟩ := hk
    unfold laneWrites rowWrites rowKeeps
    rw [if_neg h4, hk, hlen]
    have hcode : ∀ l x, x < k → laneByte bits codes (l * k + x) = (codes.getD l none).map (fun c => (BitVec.ofNat 8 (c.1 / 256 ^ x), c.2, none)) := by
      intro l x hx
      unfold laneByte
      rw [if_neg h4, hk, Nat.mul_comm, Nat.mul_add_div hk0, Nat.div_eq_of_lt hx, Nat.mul_add_mod, Nat.mod_eq_of_lt hx, Nat.add_zero]
      simp [leBytes_eq, hx]
    refine Prod.ext ?_ ?_
    · have hz : codes.zipIdx = (List.range (2 * L)).map (fun l => (codes.getD l none, l)) := by
        refine List.ext_getElem (by simp [hc]) (fun l h1 h2 => ?_)
        have : l < codes.length := by simpa using h1
        simp [this]
      rw [hz, List.flatMap_map, ← range_mul_flatMap (2 * L) k, List.filterMap_flatMap]
      refine List.flatMap_congr (fun l _ => ?_)
      dsimp only
      rw [List.filterMap_map]
      cases hl : codes.getD l none with
      | none =>
        refine (List.filterMap_eq_nil_iff.mpr (fun x hx => ?_)).symm
        rw [Function.comp, hcode l x (List.mem_range.mp hx), hl]
        rfl
      | some c =>
        have hsome : ∀ x ∈ List.range k, ((fun j => (laneByte bits codes j).map (fun b => (base + j, b.1, b.2.1))) ∘ fun x => l * k + x) x =
            some (base + l * k + x, BitVec.ofNat 8 (c.1 / 256 ^ x), c.2) := by
          intro x hx
          rw [Function.comp, hcode l x (List.mem_range.mp hx), hl]
          simp [Nat.add_assoc]
        rw [List.filterMap_congr hsome, List.filterMap_eq_map']
        dsimp only
        rw [leBytes_eq]
        refine List.ext_getElem (by simp) (fun x h1 h2 => ?_)
        simp
    · refine (List.filterMap_eq_nil_iff.mpr (fun j _ => ?_)).symm
      unfold laneByte
      rw [if_neg h4]
      cases codes.getD (j / (bits / 8)) none <;> rfl

theorem mem_rowWrites {base len bits : Nat} {codes : List (Option (Nat × Nat))} {w : Nat × Byte × Nat} :
    w ∈ rowWrites base len bits codes ↔ ∃ j b, j < len ∧ laneByte bits codes j = some b ∧ w = (base + j, b.1, b.2.1) := by
  unfold rowWrites
  rw [List.mem_filterMap]
  constructor
  · rintro ⟨j, hj, he⟩
    obtain ⟨b, hb, rfl⟩ := Option.map_eq_some_iff.mp he
    exact ⟨j, b, List.mem_range.mp hj, hb, rfl⟩
  · rintro ⟨j, b, hj, hb, rfl⟩
    exact ⟨j, List.mem_range.mpr hj, by rw [hb]; rfl⟩

/-- What merging a row's byte once more makes of it is the same. -/
theorem rowByte_twice (bits : Nat) (codes : List (Option (Nat × Nat))) (j : Nat) (old : Byte) :
    rowByte bits codes j (rowByte bits codes j old) = rowByte bits codes j old := by
  unfold rowByte
  rcases laneByte bits codes j with _ | ⟨b, p, _ | k⟩
  · rfl
  · rfl
  · dsimp only
    refine BitVec.eq_of_toNat_eq ?_
    have := b.isLt
    have := old.isLt
    by_cases hk : k = 0
    · simp only [hk, if_true, BitVec.toNat_ofNat]
      omega
    · simp only [hk, if_false, BitVec.toNat_ofNat]
      omega

/-- The half that a byte of a row keeps. -/
theorem find_rowKeeps {base len bits j : Nat} {codes : List (Option (Nat × Nat))} (hj : j < len) {b : Byte × Nat × Option Nat} (hb : laneByte bits codes j = some b) :
    (rowKeeps base len bits codes).find? (fun k => decide (k.1 = base + j)) = b.2.2.map (fun k => (base + j, k)) := by
  have hmem : ∀ k, k ∈ rowKeeps base len bits codes → k.1 = base + j → b.2.2 = some k.2 := by
    intro k hk he
    obtain ⟨x, -, hx⟩ := List.mem_filterMap.mp hk
    obtain ⟨c, hc, hx⟩ := Option.bind_eq_some_iff.mp hx
    obtain ⟨q, hq, rfl⟩ := Option.map_eq_some_iff.mp hx
    obtain rfl : x = j := by dsimp only at he; omega
    rw [hb] at hc
    rw [Option.some.inj hc]
    exact hq
  cases hf : (rowKeeps base len bits codes).find? (fun k => decide (k.1 = base + j)) with
  | none =>
    rcases hk : b.2.2 with _ | k
    · rfl
    · have hin : (base + j, k) ∈ rowKeeps base len bits codes :=
        List.mem_filterMap.mpr ⟨j, List.mem_range.mpr hj, by rw [hb, Option.bind_some, hk]; rfl⟩
      exact absurd (List.find?_eq_none.mp hf _ hin) (by simp)
  | some k =>
    have he : k.1 = base + j := by simpa using List.find?_some hf
    rw [hmem k (List.mem_of_find?_eq_some hf) he, ← he]
    rfl

/-! ### A row lands -/

theorem bayKey_add {n base j : Nat} (h : base + j < 2 ^ 23) : bayKey n (base + j) = bayKey n base + j := by
  unfold bayKey
  omega

/-- The writes of a row as the bank merges them. -/
theorem merged_row (s : State) (n : Nat) {base len bits : Nat} (codes : List (Option (Nat × Nat))) :
    s.merged n (rowWrites base len bits codes) (rowKeeps base len bits codes) =
      (List.range len).filterMap (fun j => (laneByte bits codes j).map (fun b => (base + j, rowByte bits codes j (s.fab.loft.fetch (bayKey n (base + j))).1, b.2.1))) := by
  unfold State.merged
  conv_lhs => arg 2; rw [rowWrites]
  rw [List.map_filterMap]
  refine List.filterMap_congr (fun j hj => ?_)
  cases hb : laneByte bits codes j with
  | none => rfl
  | some b =>
    simp only [Option.map_some]
    rw [find_rowKeeps (List.mem_range.mp hj) hb]
    unfold rowByte
    rw [hb]
    obtain ⟨x, p, _ | k⟩ := b <;> rfl

/-- What a row's landing makes of the memory: its bytes become what the row makes of them, and its poisoned codewords are marked. -/
structure RowLanded (m m' : Mem) (B len bits : Nat) (codes : List (Option (Nat × Nat))) : Prop where
  flips : m'.flips = []
  byte : ∀ b, m'.byte b = if B ≤ b ∧ b < B + len then rowByte bits codes (b - B) (m.byte b) else m.byte b
  marked : ∀ cw, m'.mark cw ≠ 0 → m.mark cw ≠ 0 ∨ ∃ j b, j < len ∧ laneByte bits codes j = some b ∧ b.2.1 ≠ 0 ∧ (B + j) / 8 = cw
  marks : ∀ j b, j < len → laneByte bits codes j = some b → b.2.1 ≠ 0 → m'.mark ((B + j) / 8) ≠ 0
  keeps : ∀ cw, (∀ j, j < len → (B + j) / 8 ≠ cw) → m'.mark cw = m.mark cw
  nil : m.marks = [] → (∀ j b, j < len → laneByte bits codes j = some b → b.2.1 = 0) → m'.marks = []

theorem landNow_row {s : State} (h : s.fab.loft.flips = []) (n : Nat) (fg : Bool) (u : Nat) {base len bits : Nat} (codes : List (Option (Nat × Nat))) (hr : base + len ≤ 2 ^ 23)
    (hm : ∀ j b, j < len → laneByte bits codes j = some b → s.fab.loft.mark ((bayKey n base + j) / 8) = 0) : ∃ m es,
    s.landNow n fg u (rowWrites base len bits codes) (rowKeeps base len bits codes) =
      { s with fab := { s.fab with loft := m }, rcd := { s.rcd with entries := es } } ∧ RowLanded s.fab.loft m (bayKey n base) len bits codes := by
  unfold State.landNow
  simp only [merged_row]
  generalize hws : (List.range len).filterMap (fun j => (laneByte bits codes j).map (fun b => (base + j, rowByte bits codes j (s.fab.loft.fetch (bayKey n (base + j))).1, b.2.1))) = ws
  have hput : ws.map (fun w => (bayKey n w.1, w.2)) =
      (List.range len).filterMap (fun j => (laneByte bits codes j).map (fun b => (bayKey n base + j, rowByte bits codes j (s.fab.loft.byte (bayKey n base + j)), b.2.1))) := by
    rw [← hws, List.map_filterMap]
    refine List.filterMap_congr (fun j hj => ?_)
    have hj := List.mem_range.mp hj
    rw [bayKey_add (by omega), Mem.fetch_noFlips h, Option.map_map]
    refine congrArg (fun g => Option.map g (laneByte bits codes j)) (funext (fun b => ?_))
    rw [Function.comp, bayKey_add (by omega)]
  generalize hB : bayKey n base = B at hput hm
  have hmem : ∀ {w}, w ∈ ws.map (fun w => (bayKey n w.1, w.2)) ↔
      ∃ j b, j < len ∧ laneByte bits codes j = some b ∧ w = (B + j, rowByte bits codes j (s.fab.loft.byte (B + j)), b.2.1) := by
    intro w
    rw [hput, List.mem_filterMap]
    constructor
    · rintro ⟨j, hj, he⟩
      obtain ⟨b, hb, rfl⟩ := Option.map_eq_some_iff.mp he
      exact ⟨j, b, List.mem_range.mp hj, hb, rfl⟩
    · rintro ⟨j, b, hj, hb, rfl⟩
      exact ⟨j, List.mem_range.mpr hj, by rw [hb]; rfl⟩
  have hrise : (ws.map (fun w => (bayKey n w.1, w.2))).Pairwise (fun v w => v.1 < w.1) := by
    rw [hput]
    refine List.Pairwise.filterMap _ (fun x y hxy v hv w hw => ?_) List.pairwise_lt_range
    obtain ⟨b, -, rfl⟩ := Option.map_eq_some_iff.mp hv
    obtain ⟨c, -, rfl⟩ := Option.map_eq_some_iff.mp hw
    dsimp only
    omega
  have hmerge : s.loftMerge n (ws.map (fun w => (bayKey n w.1, w.2))) = s := by
    refine loftMerge_unmarked h n (fun w hw => ?_)
    obtain ⟨j, b, hj, hb, rfl⟩ := hmem.mp hw
    exact hm j b hj hb
  have hmark := fun x => Mem.write_mark h (hrise.imp (fun h => le_of_lt h)) x
  rw [hmerge]
  have hland : RowLanded s.fab.loft (s.fab.loft.write (ws.map (fun w => (bayKey n w.1, w.2)))) B len bits codes := by
    refine ⟨Mem.write_noFlips h _, fun b => ?_, fun cw hcw => ?_, fun j b hj hb hp => ?_, fun cw hcw => ?_, fun hnil hp => ?_⟩
    · rw [Mem.write_byte_noFlips h]
      obtain ⟨h1, h2⟩ := writeBytes_once hrise s.fab.loft.byte b
      by_cases hin : B ≤ b ∧ b < B + len
      · rw [if_pos hin]
        have e : B + (b - B) = b := by omega
        cases hb : laneByte bits codes (b - B) with
        | none =>
          rw [h2, rowByte, hb]
          intro w hw he
          obtain ⟨j, c, hj, hc, rfl⟩ := hmem.mp hw
          obtain rfl : j = b - B := by dsimp only at he; omega
          rw [hb] at hc
          cases hc
        | some c =>
          have := h1 _ (hmem.mpr ⟨b - B, c, by omega, hb, rfl⟩) e
          rw [this, e]
      · rw [if_neg hin, h2]
        intro w hw he
        obtain ⟨j, c, hj, hc, rfl⟩ := hmem.mp hw
        dsimp only at he
        omega
    · refine ((hmark cw).1 hcw).imp id ?_
      rintro ⟨w, hw, he, hp⟩
      obtain ⟨j, b, hj, hb, rfl⟩ := hmem.mp hw
      exact ⟨j, b, hj, hb, hp, he⟩
    · exact (hmark _).2.1 ⟨_, hmem.mpr ⟨j, b, hj, hb, rfl⟩, rfl, hp⟩
    · refine (hmark cw).2.2 (fun w hw => ?_)
      obtain ⟨j, b, hj, hb, rfl⟩ := hmem.mp hw
      exact hcw j hj
    · refine Mem.write_marks_nil h hnil (fun w hw => ?_)
      obtain ⟨j, b, hj, hb, rfl⟩ := hmem.mp hw
      exact hp j b hj hb
  cases fg
  · exact ⟨_, s.rcd.entries, rfl, hland⟩
  · exact ⟨_, _, rfl, hland⟩

/-- A row's write comes to its issue cycle: where the spar owns what it writes, it lands as it is. -/
theorem storeNow_row {s : State} {n : Nat} (hp : ∀ a, s.aliasPair 1 a = none ∧ s.fitAlias 1 a = none) (ho : ∀ g ∈ s.fab.segs, g.spar = n → g.st = .sparOwned) (x : Held) (u : Nat)
    {base len bits : Nat} {codes : List (Option (Nat × Nat))} (hr : base + len ≤ 2 ^ 23) (hne : rowWrites base len bits codes ≠ []) :
    s.storeNow x u n (rowWrites base len bits codes) (rowKeeps base len bits codes) =
      s.later (u + 4) 0 (.land n x.fg u (rowWrites base len bits codes) (rowKeeps base len bits codes)) := by
  have hf : ∀ a, s.foreignSeg n a = none := by
    intro a
    unfold State.foreignSeg
    rw [List.find?_eq_none]
    intro g hg
    simp only [decide_eq_true_eq]
    exact fun hc => hc.2.1 (ho g hg hc.1)
  rw [storeNow_own s x u n _ _ hne (fun w _ => hf _)]
  have hreach : ∀ a, a < 2 ^ 23 → (s.held x).reach 1 false a % 2 ^ 23 = a := fun a ha => by rw [held_reach_own x (hp a), Nat.mod_eq_of_lt ha]
  have hw : (rowWrites base len bits codes).map (fun w => ((s.held x).reach 1 false w.1 % 2 ^ 23, w.2)) = rowWrites base len bits codes := by
    refine (List.map_congr_left (fun w hw => ?_)).trans (List.map_id _)
    obtain ⟨j, b, hj, -, rfl⟩ := mem_rowWrites.mp hw
    rw [hreach _ (by dsimp only; omega)]
    rfl
  have hk : (rowKeeps base len bits codes).map (fun k => ((s.held x).reach 1 false k.1 % 2 ^ 23, k.2)) = rowKeeps base len bits codes := by
    refine (List.map_congr_left (fun k hk => ?_)).trans (List.map_id _)
    obtain ⟨j, hj, he⟩ := List.mem_filterMap.mp hk
    obtain ⟨b, -, he⟩ := Option.bind_eq_some_iff.mp he
    obtain ⟨q, -, rfl⟩ := Option.map_eq_some_iff.mp he
    have hj := List.mem_range.mp hj
    rw [hreach _ (by dsimp only; omega)]
    rfl
  rw [hw, hk]

/-! ### The elements of a row that has landed -/

/-- An element of a bay in which no bit has flipped, by its bytes. -/
theorem elemAt_noFlips {s : State} (hp : ∀ a, s.aliasPair 1 a = none ∧ s.fitAlias 1 a = none) (h : s.fab.loft.flips = []) {bits : Nat} (hb : bits = 4 ∨ bits = 8 ∨ bits = 16)
    {n base l len : Nat} (hl : l * bits / 8 + (bits + 7) / 8 ≤ len) (hr : base + len ≤ 2 ^ 23) :
    (elemAt s n base bits l).1 = if bits = 4 then (if l % 2 = 0 then (s.fab.loft.byte (bayKey n base + l / 2)).toNat % 16 else (s.fab.loft.byte (bayKey n base + l / 2)).toNat / 16)
      else if bits = 8 then (s.fab.loft.byte (bayKey n base + l)).toNat
      else (s.fab.loft.byte (bayKey n base + 2 * l)).toNat + 256 * (s.fab.loft.byte (bayKey n base + (2 * l + 1))).toNat := by
  have hbyte : ∀ j, j < len → (s.loftByte n (base + j)).1 = s.fab.loft.byte (bayKey n base + j) := by
    intro j hj
    rw [loftByte_own hp, Mem.fetch_noFlips h, bayKey_add (by omega)]
  unfold elemAt
  rcases hb with rfl | rfl | rfl
  · simp only [if_true]
    rw [hbyte _ (by omega)]
  · norm_num only [if_true, if_false]
    rw [hbyte _ (by omega)]
  · norm_num only [if_false]
    rw [hbyte _ (by omega), Nat.add_assoc base, hbyte _ (by omega)]

/-- The elements of a row whose bytes are what the row made of those of `u`: a lane that writes holds its code, and the others what they held. -/
theorem elemAt_rowByte {t u : State} (hpt : ∀ a, t.aliasPair 1 a = none ∧ t.fitAlias 1 a = none) (ht : t.fab.loft.flips = [])
    (hpu : ∀ a, u.aliasPair 1 a = none ∧ u.fitAlias 1 a = none) (hu : u.fab.loft.flips = []) {bits L : Nat} (hb : bits = 4 ∨ bits = 8 ∨ bits = 16) {n base l : Nat}
    {codes : List (Option (Nat × Nat))} (hl : l < 2 * L) (hr : base + 2 * L * bits / 8 ≤ 2 ^ 23)
    (h : ∀ j, j < 2 * L * bits / 8 → t.fab.loft.byte (bayKey n base + j) = rowByte bits codes j (u.fab.loft.byte (bayKey n base + j))) :
    (elemAt t n base bits l).1 = match codes.getD l none with | some c => c.1 % 2 ^ bits | none => (elemAt u n base bits l).1 := by
  have hl' : l * bits / 8 + (bits + 7) / 8 ≤ 2 * L * bits / 8 := by rcases hb with rfl | rfl | rfl <;> omega
  rw [elemAt_noFlips hpt ht hb hl' hr, elemAt_noFlips hpu hu hb hl' hr]
  rcases hb with rfl | rfl | rfl
  · simp only [if_true]
    rw [h _ (by omega)]
    unfold rowByte laneByte
    simp only [if_true]
    have := (u.fab.loft.byte (bayKey n base + l / 2)).isLt
    rcases Nat.mod_two_eq_zero_or_one l with he | he
    · rw [show 2 * (l / 2) = l by omega]
      simp only [he, if_true]
      cases codes.getD l none <;> cases codes.getD (l + 1) none <;> simp only [BitVec.toNat_ofNat] <;> norm_num only [if_true, if_false] <;> omega
    · rw [show 2 * (l / 2) = l - 1 by omega, show l - 1 + 1 = l by omega]
      simp only [he]
      cases codes.getD l none <;> cases codes.getD (l - 1) none <;> simp only [BitVec.toNat_ofNat] <;> norm_num only [if_true, if_false] <;> omega
  · norm_num only [if_true, if_false]
    rw [h _ (by omega)]
    unfold rowByte laneByte
    norm_num only [if_false]
    rw [Nat.div_one]
    cases codes.getD l none with
    | none => rfl
    | some c => simp [leBytes, Nat.mod_one]
  · norm_num only [if_false]
    rw [h _ (by omega), h _ (by omega)]
    unfold rowByte laneByte
    norm_num only [if_false]
    rw [show 2 * l / 2 = l by omega, show (2 * l + 1) / 2 = l by omega, show 2 * l % 2 = 0 by omega, show (2 * l + 1) % 2 = 1 by omega]
    cases codes.getD l none with
    | none => rfl
    | some c =>
      simp [leBytes]
      omega

end Sys2Proof.Machine

/-! SUPPORT. Words that put down rows of lanes: what holds of the bays while the rows are read, written and land, in whatever order this comes about. -/

namespace Sys2Proof.Machine

/-! ### Rows one after the other -/

/-- Rows of lanes in a bay, one after the other from `d` on: `count` rows of 2 × `half` elements of `bits` bits, each lane with its code and poison, or not written. -/
structure RowSet where
  n : Nat
  d : Nat
  half : Nat
  bits : Nat
  count : Nat
  codes : Nat → List (Option (Nat × Nat))

namespace RowSet

/-- The bytes of a row, and where row v begins: its address, and the key of its first byte. -/
def len (R : RowSet) : Nat := 2 * R.half * R.bits / 8
def base (R : RowSet) (v : Nat) : Nat := R.d + v * R.len
def key (R : RowSet) (v : Nat) : Nat := bayKey R.n R.d + v * R.len

/-- What row v writes, the halves it keeps, and what its byte j is written with. -/
def ws (R : RowSet) (v : Nat) : List (Nat × Byte × Nat) := rowWrites (R.base v) R.len R.bits (R.codes v)
def keep (R : RowSet) (v : Nat) : List (Nat × Nat) := rowKeeps (R.base v) R.len R.bits (R.codes v)
def lane (R : RowSet) (v j : Nat) : Option (Byte × Nat × Option Nat) := laneByte R.bits (R.codes v) j

/-- Byte j of row v is written poisoned. -/
def Poisoned (R : RowSet) (v j : Nat) : Prop := j < R.len ∧ ∃ b, R.lane v j = some b ∧ b.2.1 ≠ 0

/-- No row writes a poisoned lane. -/
def Unmarked (R : RowSet) : Prop := ∀ v j, v < R.count → ¬R.Poisoned v j

/-- What byte j of row v becomes. -/
def new (R : RowSet) (m : Mem) (v j : Nat) : Byte := rowByte R.bits (R.codes v) j (m.byte (R.key v + j))

/-- The rows lie in the bay; where some lane is poisoned, no two of them share a codeword. -/
structure Fits (R : RowSet) : Prop where
  bits : R.bits = 4 ∨ R.bits = 8 ∨ R.bits = 16
  codes : ∀ v, (R.codes v).length = 2 * R.half
  range : R.d + R.count * R.len ≤ 2 ^ 23
  apart : R.Unmarked ∨ (R.d % 8 = 0 ∧ R.len % 8 = 0)

section fits
variable {R : RowSet} (F : R.Fits)
include F

theorem Fits.base_lt {v : Nat} (hv : v < R.count) : R.base v + R.len ≤ 2 ^ 23 := by
  have := F.range
  have : (v + 1) * R.len ≤ R.count * R.len := Nat.mul_le_mul_right _ hv
  rw [Nat.add_one_mul] at this
  unfold base
  omega

theorem Fits.key_eq {v : Nat} (hv : v < R.count) (hl : 0 < R.len) : bayKey R.n (R.base v) = R.key v := by
  have := F.base_lt hv
  unfold base at *
  exact bayKey_add (by omega)

omit F in
/-- Two rows share no byte. -/
theorem rows_apart (R : RowSet) {v w : Nat} (h : v ≠ w) (j x : Nat) (hj : j < R.len) (hx : x < R.len) : R.key v + j ≠ R.key w + x := by
  unfold key
  rcases Nat.lt_or_gt_of_ne h with h | h
  · have : (v + 1) * R.len ≤ w * R.len := Nat.mul_le_mul_right _ h
    rw [Nat.add_one_mul] at this
    omega
  · have : (w + 1) * R.len ≤ v * R.len := Nat.mul_le_mul_right _ h
    rw [Nat.add_one_mul] at this
    omega

omit F in
/-- Where rows are aligned, they share no codeword. -/
theorem words_apart (ha : R.d % 8 = 0 ∧ R.len % 8 = 0) {v w : Nat} (h : v ≠ w) (j x : Nat) (hj : j < R.len) (hx : x < R.len) : (R.key v + j) / 8 ≠ (R.key w + x) / 8 := by
  obtain ⟨hd, hl⟩ := ha
  have hk : bayKey R.n R.d % 8 = 0 := by unfold bayKey; omega
  have hmod : ∀ u, u * R.len % 8 = 0 := fun u => by rw [Nat.mul_mod, hl, Nat.mul_zero]
  have := hmod v
  have := hmod w
  unfold key
  rcases Nat.lt_or_gt_of_ne h with h | h
  · have : (v + 1) * R.len ≤ w * R.len := Nat.mul_le_mul_right _ h
    rw [Nat.add_one_mul] at this
    omega
  · have : (w + 1) * R.len ≤ v * R.len := Nat.mul_le_mul_right _ h
    rw [Nat.add_one_mul] at this
    omega

end fits

/-! ### The memory while rows land -/

/-- The memory after the stages before `k`: row v is begun by stage `st v`, and `pend v` says that its write is on its way. A byte of a row is what it was or what it is to be; a row
that is not begun has left no trace, one that has landed all of it. -/
structure Landing (R : RowSet) (m0 : Mem) (st : Nat → Nat) (k : Nat) (pend : Nat → Prop) (m : Mem) : Prop where
  flips : m.flips = []
  rest : ∀ b, (∀ v, v < R.count → st v < k → ∀ j, j < R.len → b ≠ R.key v + j) → m.byte b = m0.byte b
  between : ∀ v j, v < R.count → j < R.len → m.byte (R.key v + j) = m0.byte (R.key v + j) ∨ m.byte (R.key v + j) = R.new m0 v j
  landed : ∀ v j, v < R.count → st v < k → ¬pend v → j < R.len → m.byte (R.key v + j) = R.new m0 v j
  marked : ∀ cw, m.mark cw ≠ 0 → ∃ v j, v < R.count ∧ st v < k ∧ ¬pend v ∧ R.Poisoned v j ∧ (R.key v + j) / 8 = cw
  marks : ∀ v j, v < R.count → st v < k → ¬pend v → R.Poisoned v j → m.mark ((R.key v + j) / 8) ≠ 0
  nil : R.Unmarked → m.marks = []

section landing
variable {R : RowSet} (F : R.Fits) {m0 m : Mem} {st : Nat → Nat} {k : Nat} {pend : Nat → Prop}

theorem Landing.start (hf : m0.flips = []) (hm : m0.marks = []) : Landing R m0 st 0 pend m0 where
  flips := hf
  rest := fun _ _ => rfl
  between := fun _ _ _ _ => .inl rfl
  landed := fun _ _ _ h => absurd h (Nat.not_lt_zero _)
  marked := fun cw h => absurd (by unfold Mem.mark; rw [hm]; rfl) h
  marks := fun _ _ _ h => absurd h (Nat.not_lt_zero _)
  nil := fun _ => hm

theorem Landing.congr (h : Landing R m0 st k pend m) {pend' : Nat → Prop} (hp : ∀ v, v < R.count → st v < k → (pend' v ↔ pend v)) : Landing R m0 st k pend' m where
  flips := h.flips
  rest := h.rest
  between := h.between
  landed := fun v j hv hs hn hj => h.landed v j hv hs (fun hc => hn ((hp v hv hs).mpr hc)) hj
  marked := fun cw hcw => by
    obtain ⟨v, j, hv, hs, hn, hpo⟩ := h.marked cw hcw
    exact ⟨v, j, hv, hs, fun hc => hn ((hp v hv hs).mp hc), hpo⟩
  marks := fun v j hv hs hn hpo => h.marks v j hv hs (fun hc => hn ((hp v hv hs).mpr hc)) hpo
  nil := h.nil

/-- A stage begins its rows, those that write anything. -/
theorem Landing.begun (h : Landing R m0 st k pend m) {pend' : Nat → Prop} (hp : ∀ v, v < R.count → st v < k → (pend' v ↔ pend v))
    (hn : ∀ v, v < R.count → st v = k → ¬pend' v → R.ws v = []) : Landing R m0 st (k + 1) pend' m := by
  have hnew : ∀ v, v < R.count → st v = k → ¬pend' v → ∀ j, j < R.len → R.lane v j = none := by
    intro v hv hs hno j hj
    cases hl : R.lane v j with
    | none => rfl
    | some b =>
      have : (R.base v + j, b.1, b.2.1) ∈ R.ws v := mem_rowWrites.mpr ⟨j, b, hj, hl, rfl⟩
      rw [hn v hv hs hno] at this
      exact absurd this List.not_mem_nil
  refine ⟨h.flips, fun b hb => h.rest b (fun v hv hs => hb v hv (by omega)), h.between, fun v j hv hs hno hj => ?_, fun cw hcw => ?_, fun v j hv hs hno hpo => ?_, h.nil⟩
  · rcases Nat.lt_succ_iff_lt_or_eq.mp hs with hs | hs
    · exact h.landed v j hv hs (fun hc => hno ((hp v hv hs).mpr hc)) hj
    · have he : R.new m0 v j = m0.byte (R.key v + j) := by
        have hl : laneByte R.bits (R.codes v) j = none := hnew v hv hs hno j hj
        unfold new rowByte
        rw [hl]
      rcases h.between v j hv hj with hb | hb
      · rw [hb, he]
      · exact hb
  · obtain ⟨v, j, hv, hs, hno, hpo⟩ := h.marked cw hcw
    exact ⟨v, j, hv, by omega, fun hc => hno ((hp v hv hs).mp hc), hpo⟩
  · rcases Nat.lt_succ_iff_lt_or_eq.mp hs with hs | hs
    · exact h.marks v j hv hs (fun hc => hno ((hp v hv hs).mpr hc)) hpo
    · obtain ⟨hj, b, hb, -⟩ := hpo
      rw [hnew v hv hs hno j hj] at hb
      cases hb

include F

/-- The codewords of a row whose write is on its way carry no mark. -/
theorem Landing.clear (h : Landing R m0 st k pend m) {v : Nat} (hp : pend v) {j : Nat} (hj : j < R.len) : m.mark ((R.key v + j) / 8) = 0 := by
  by_contra hc
  obtain ⟨w, x, hw, hs, hno, hpo, he⟩ := h.marked _ hc
  rcases F.apart with hu | ha
  · exact hu w x hw hpo
  · have hne : w ≠ v := fun e => hno (e ▸ hp)
    exact words_apart ha hne x j hpo.1 hj he

/-- A row lands. -/
theorem Landing.lands (h : Landing R m0 st k pend m) {v : Nat} (hv : v < R.count) (hs : st v < k) (hp : pend v) {m' : Mem}
    (hl : RowLanded m m' (R.key v) R.len R.bits (R.codes v)) : Landing R m0 st k (fun w => pend w ∧ w ≠ v) m' := by
  have hin : ∀ j, j < R.len → m'.byte (R.key v + j) = rowByte R.bits (R.codes v) j (m.byte (R.key v + j)) := by
    intro j hj
    rw [hl.byte, if_pos (by omega), Nat.add_sub_cancel_left]
  have hout : ∀ b, (∀ j, j < R.len → b ≠ R.key v + j) → m'.byte b = m.byte b := by
    intro b hb
    rw [hl.byte, if_neg (fun hc => hb (b - R.key v) (by omega) (by omega))]
  have hdone : ∀ j, j < R.len → m'.byte (R.key v + j) = R.new m0 v j := by
    intro j hj
    rw [hin j hj]
    rcases h.between v j hv hj with hb | hb
    · rw [hb]
      rfl
    · rw [hb]
      exact rowByte_twice _ _ _ _
  have hother : ∀ w j, w ≠ v → j < R.len → m'.byte (R.key w + j) = m.byte (R.key w + j) := fun w j hw hj => hout _ (fun x hx => R.rows_apart hw j x hj hx)
  refine ⟨hl.flips, fun b hb => ?_, fun w j hw hj => ?_, fun w j hw hs' hno hj => ?_, fun cw hcw => ?_, fun w j hw hs' hno hpo => ?_, fun hu => ?_⟩
  · rw [hout b (fun j hj => hb v hv hs j hj)]
    exact h.rest b hb
  · by_cases hwv : w = v
    · subst hwv
      exact .inr (hdone j hj)
    · rw [hother w j hwv hj]
      exact h.between w j hw hj
  · by_cases hwv : w = v
    · subst hwv
      exact hdone j hj
    · rw [hother w j hwv hj]
      exact h.landed w j hw hs' (fun hc => hno ⟨hc, hwv⟩) hj
  · rcases hl.marked cw hcw with hm | ⟨j, b, hj, hb, hpo, he⟩
    · obtain ⟨w, j, hw, hs', hno, hpo⟩ := h.marked cw hm
      exact ⟨w, j, hw, hs', fun hc => hno hc.1, hpo⟩
    · exact ⟨v, j, hv, hs, fun hc => hc.2 rfl, ⟨hj, b, hb, hpo⟩, he⟩
  · by_cases hwv : w = v
    · subst hwv
      obtain ⟨hj, b, hb, hpsn⟩ := hpo
      exact hl.marks j b hj hb hpsn
    · have hm := h.marks w j hw hs' (fun hc => hno ⟨hc, hwv⟩) hpo
      rcases F.apart with hu | ha
      · exact absurd hpo (hu w j hw)
      · rw [hl.keeps _ (fun x hx => words_apart ha (Ne.symm hwv) x j hx hpo.1)]
        exact hm
  · exact hl.nil (h.nil hu) (fun j b hj hb => by_contra fun hc => hu v j hv ⟨hj, b, hb, hc⟩)

end landing

end RowSet

/-! ### The word while it comes about -/

/-- How much of a word of K stages is still to come. -/
def rowLeft (K : Nat) : Work → Nat
  | .stage _ _ k _ => 140 * (K - k)
  | .store .. => 2
  | _ => 1

def Work.isStage : Work → Bool
  | .stage .. => true
  | _ => false

/-- The work that puts down row v. -/
def RowSet.Row (R : RowSet) (h : Held) (v : Nat) : Work → Prop
  | .store g n ws keep => g = h ∧ n = R.n ∧ ws = R.ws v ∧ keep = R.keep v ∧ ws ≠ []
  | .land n _ _ ws keep => n = R.n ∧ ws = R.ws v ∧ keep = R.keep v ∧ ws ≠ []
  | _ => False

theorem RowSet.Row.unique {R : RowSet} {h : Held} {v w : Nat} {x : Work} (hv : R.Row h v x) (hw : R.Row h w x) : v = w := by
  have hws : R.ws v = R.ws w ∧ R.ws v ≠ [] := by
    cases x with
    | store g n ws keep =>
      obtain ⟨-, -, h1, -, h2⟩ := hv
      obtain ⟨-, -, h3, -, -⟩ := hw
      exact ⟨h1 ▸ h3, h1 ▸ h2⟩
    | land n fg u ws keep =>
      obtain ⟨-, h1, -, h2⟩ := hv
      obtain ⟨-, h3, -, -⟩ := hw
      exact ⟨h1 ▸ h3, h1 ▸ h2⟩
    | _ => exact hv.elim
  obtain ⟨he, hne⟩ := hws
  obtain ⟨y, hy⟩ := List.exists_mem_of_ne_nil _ hne
  obtain ⟨j, b, hj, -, rfl⟩ := mem_rowWrites.mp hy
  rw [he] at hy
  obtain ⟨l, c, hl, -, hlc⟩ := mem_rowWrites.mp hy
  have hbase : R.base v + j = R.base w + l := congrArg Prod.fst hlc
  unfold RowSet.base at hbase
  by_contra hne
  rcases Nat.lt_or_gt_of_ne hne with hlt | hlt
  · have : (v + 1) * R.len ≤ w * R.len := Nat.mul_le_mul_right _ hlt
    rw [Nat.add_one_mul] at this
    omega
  · have : (w + 1) * R.len ≤ v * R.len := Nat.mul_le_mul_right _ hlt
    rw [Nat.add_one_mul] at this
    omega

/-- What a stage k in cycle c begins: the writes of its rows, and the next stage where one is left. -/
structure RowsBegun (R : RowSet) (i : Issue) (h : Held) (S : Nat → List (Nat × Nat) → Prop) (st : Nat → Nat) (K k c : Nat) (fl : List Flight) : Prop where
  soon : ∀ x ∈ fl, x.c ≤ c + 1024
  few : toCome (rowLeft K) fl < 140 * (K - k)
  works : ∀ x ∈ fl, (∃ acc, x.work = .stage i h (k + 1) acc ∧ k + 1 < K ∧ S (k + 1) acc) ∨ ∃ v, v < R.count ∧ st v = k ∧ R.Row h v x.work
  once : (fl.map (fun x => x.work)).Pairwise (fun w w' => ¬(w.isStage ∧ w'.isStage) ∧ ∀ v, ¬(R.Row h v w ∧ R.Row h v w'))
  next : k + 1 = K ∨ ∃ x ∈ fl, x.work.isStage
  rows : ∀ v, v < R.count → st v = k → R.ws v ≠ [] → ∃ x ∈ fl, R.Row h v x.work

/-- The writes of some rows, that of row v issued in cycle `wr v`. -/
def RowSet.stores (R : RowSet) (h : Held) (wr : Nat → Nat) (vs : List Nat) : List Flight :=
  (vs.filter (fun v => decide (R.ws v ≠ []))).map (fun v => ⟨wr v, 3, .store h R.n (R.ws v) (R.keep v)⟩)

/-- Rows written one after the other: their writes on their way, those that write anything. -/
theorem RowSet.storeAt_stores (R : RowSet) (h : Held) (wr : Nat → Nat) (t : State) (vs : List Nat) : vs.foldl (fun t v => t.storeAt h (wr v) R.n (R.ws v) (R.keep v)) t =
    { t with fab := { t.fab with flight := t.fab.flight ++ R.stores h wr vs } } := by
  induction vs generalizing t with
  | nil =>
    unfold RowSet.stores
    rw [List.filter_nil, List.map_nil, List.append_nil]
    rfl
  | cons v vs ih =>
    rw [List.foldl_cons, ih]
    unfold RowSet.stores State.storeAt
    by_cases hv : R.ws v = []
    · rw [if_pos hv, List.filter_cons_of_neg (by simpa using hv)]
    · rw [if_neg hv, List.filter_cons_of_pos (by simpa using hv), List.map_cons]
      unfold State.later
      rw [List.append_assoc]
      rfl

/-- The next stage, where one is left. -/
def nextStages (i : Issue) (h : Held) (more : Bool) (k u : Nat) (acc : List (Nat × Nat)) : List Flight := if more then [⟨u, 3, .stage i h k acc⟩] else []

theorem RowSet.row_store {R : RowSet} {h : Held} {v : Nat} (hne : R.ws v ≠ []) : R.Row h v (.store h R.n (R.ws v) (R.keep v)) := ⟨rfl, rfl, rfl, rfl, hne⟩

/-- A stage that begins the rows `vs`, each of them once. -/
theorem rowsBegun {R : RowSet} {i : Issue} {h : Held} {S : Nat → List (Nat × Nat) → Prop} {st : Nat → Nat} {K k c u : Nat} {wr : Nat → Nat} {vs : List Nat} {acc : List (Nat × Nat)}
    (hk : k < K) (hvs : ∀ v, v ∈ vs ↔ v < R.count ∧ st v = k) (hn : vs.Nodup) (hl : vs.length ≤ 64) (hwr : ∀ v ∈ vs, wr v ≤ c + 1024) (hu : u ≤ c + 1024) (hS : k + 1 < K → S (k + 1) acc) :
    RowsBegun R i h S st K k c (R.stores h wr vs ++ nextStages i h (decide (k + 1 < K)) (k + 1) u acc) := by
  have hstore : ∀ x ∈ R.stores h wr vs, ∃ v, v ∈ vs ∧ R.ws v ≠ [] ∧ x = ⟨wr v, 3, .store h R.n (R.ws v) (R.keep v)⟩ := by
    intro x hx
    obtain ⟨v, hv, rfl⟩ := List.mem_map.mp hx
    obtain ⟨hv, hne⟩ := List.mem_filter.mp hv
    exact ⟨v, hv, by simpa using hne, rfl⟩
  have hnext : ∀ x ∈ nextStages i h (decide (k + 1 < K)) (k + 1) u acc, k + 1 < K ∧ x = ⟨u, 3, .stage i h (k + 1) acc⟩ := by
    intro x hx
    unfold nextStages at hx
    split at hx
    next hm => exact ⟨of_decide_eq_true hm, List.mem_singleton.mp hx⟩
    next => exact absurd hx List.not_mem_nil
  refine ⟨fun x hx => ?_, ?_, fun x hx => ?_, ?_, ?_, fun v hv hs hne => ?_⟩
  · rcases List.mem_append.mp hx with hx | hx
    · obtain ⟨v, hv, -, rfl⟩ := hstore x hx
      exact hwr v hv
    · obtain ⟨-, rfl⟩ := hnext x hx
      exact hu
  · have h1 : toCome (rowLeft K) (R.stores h wr vs) ≤ 2 * 64 := by
      unfold RowSet.stores toCome
      rw [List.map_map]
      have hf := List.length_filter_le (fun v => decide (R.ws v ≠ [])) vs
      generalize vs.filter (fun v => decide (R.ws v ≠ [])) = l at hf
      have : (l.map ((fun x => rowLeft K x.work) ∘ fun v => (⟨wr v, 3, .store h R.n (R.ws v) (R.keep v)⟩ : Flight))).sum = 2 * l.length := by
        simp [Function.comp_def, rowLeft, Nat.mul_comm]
      omega
    have h2 : toCome (rowLeft K) (nextStages i h (decide (k + 1 < K)) (k + 1) u acc) ≤ 140 * (K - (k + 1)) := by
      unfold nextStages
      split
      · simp [rowLeft]
      · simp
    rw [toCome_append]
    omega
  · rcases List.mem_append.mp hx with hx | hx
    · obtain ⟨v, hv, hne, rfl⟩ := hstore x hx
      exact .inr ⟨v, ((hvs v).mp hv).1, ((hvs v).mp hv).2, RowSet.row_store hne⟩
    · obtain ⟨hm, rfl⟩ := hnext x hx
      exact .inl ⟨acc, rfl, hm, hS hm⟩
  · rw [List.map_append, List.pairwise_append]
    refine ⟨?_, ?_, fun w hw w' hw' => ?_⟩
    · unfold RowSet.stores
      rw [List.map_map, List.pairwise_map]
      refine (List.Pairwise.and_mem.mp (hn.filter _)).imp (fun {v w} hvw => ?_)
      obtain ⟨hv, hw, hne⟩ := hvw
      have hv := (List.mem_filter.mp hv).2
      have hw := (List.mem_filter.mp hw).2
      exact ⟨fun hc => (by cases hc.1), fun y hy => hne ((RowSet.Row.unique (RowSet.row_store (by simpa using hv)) hy.1).trans
        (RowSet.Row.unique (RowSet.row_store (by simpa using hw)) hy.2).symm)⟩
    · unfold nextStages
      split <;> simp
    · obtain ⟨x, hx, rfl⟩ := List.mem_map.mp hw
      obtain ⟨y, hy, rfl⟩ := List.mem_map.mp hw'
      obtain ⟨v, -, -, rfl⟩ := hstore x hx
      obtain ⟨-, rfl⟩ := hnext y hy
      exact ⟨fun hc => (by cases hc.1), fun v hc => hc.2⟩
  · by_cases hm : k + 1 < K
    · refine .inr ⟨⟨u, 3, .stage i h (k + 1) acc⟩, List.mem_append_right _ ?_, rfl⟩
      unfold nextStages
      rw [if_pos (decide_eq_true hm)]
      exact List.mem_singleton_self _
    · exact .inl (by omega)
  · refine ⟨⟨wr v, 3, .store h R.n (R.ws v) (R.keep v)⟩, List.mem_append_left _ ?_, RowSet.row_store hne⟩
    exact List.mem_map.mpr ⟨v, List.mem_filter.mpr ⟨(hvs v).mpr ⟨hv, hs⟩, by simpa using hne⟩, rfl⟩

/-- A word that puts down rows in K stages: `Fr k e` says what holds of the part beside its bays after k stages, `e` whether a write of a register (`X`) is on its way; stage k is
carried what `S` says, and begins the rows whose `st` it is. -/
structure RowsWord (R : RowSet) (i : Issue) (h : Held) (X : Work → Prop) (Fr : Nat → Prop → State → Prop) (S : Nat → List (Nat × Nat) → Prop) (st : Nat → Nat) (K : Nat) (m0 : Mem) :
    Prop where
  fits : R.Fits
  plain : ∀ {k : Nat} {e : Prop} {t : State}, Fr k e t → ∀ a, t.aliasPair 1 a = none ∧ t.fitAlias 1 a = none
  own : ∀ {k : Nat} {e : Prop} {t : State}, Fr k e t → ∀ g ∈ t.fab.segs, g.spar = R.n → g.st = .sparOwned
  keep : ∀ {k : Nat} {e : Prop} {t : State} (m : Mem) (es : List SigEntry) (l : List Flight) (y : Nat) (f : List (Nat × Nat)), Fr k e t →
    Fr k e { t with fab := { t.fab with loft := m, flight := l, cyc := y, fresh := f }, rcd := { t.rcd with entries := es } }
  other : ∀ {w : Work}, X w → w.isStage = false ∧ ∀ v, ¬R.Row h v w
  extra : ∀ {w : Work} {k : Nat} {t : State} (c : Nat), X w → Fr k True t →
    (runWork c w t).fab.flight = t.fab.flight ∧ (runWork c w t).fab.loft = t.fab.loft ∧ Fr k False (runWork c w t)
  stage : ∀ {t : State} {k : Nat} {acc : List (Nat × Nat)} {e : Prop} {pend : Nat → Prop} (c : Nat), k < K → S k acc → Fr k e t → R.Landing m0 st k pend t.fab.loft →
    ∃ fl, (runWork c (.stage i h k acc) t).fab.flight = t.fab.flight ++ fl ∧ (runWork c (.stage i h k acc) t).fab.loft = t.fab.loft ∧
      Fr (k + 1) e (runWork c (.stage i h k acc) t) ∧ RowsBegun R i h S st K k c fl

/-- What may be in flight after the stages before k. -/
def RowWork (R : RowSet) (i : Issue) (h : Held) (X : Work → Prop) (S : Nat → List (Nat × Nat) → Prop) (st : Nat → Nat) (K k : Nat) (w : Work) : Prop :=
  (∃ acc, w = .stage i h k acc ∧ k < K ∧ S k acc) ∨ (∃ v, v < R.count ∧ st v < k ∧ R.Row h v w) ∨ X w

/-- Two pieces of work are not both stages, nor both writes of the register, nor of one row. -/
def WorkApart (R : RowSet) (h : Held) (X : Work → Prop) (w w' : Work) : Prop := ¬(w.isStage ∧ w'.isStage) ∧ ¬(X w ∧ X w') ∧ ∀ v, ¬(R.Row h v w ∧ R.Row h v w')

theorem WorkApart.symm {R : RowSet} {h : Held} {X : Work → Prop} {w w' : Work} (hw : WorkApart R h X w w') : WorkApart R h X w' w :=
  ⟨fun hc => hw.1 hc.symm, fun hc => hw.2.1 hc.symm, fun v hc => hw.2.2 v hc.symm⟩

/-- What holds after the stages before k. -/
structure InRows (R : RowSet) (i : Issue) (h : Held) (X : Work → Prop) (Fr : Nat → Prop → State → Prop) (S : Nat → List (Nat × Nat) → Prop) (st : Nat → Nat) (K : Nat) (m0 : Mem) (k : Nat)
    (ws : List Work) (t : State) : Prop where
  frame : Fr k (∃ w ∈ ws, X w) t
  works : ∀ w ∈ ws, RowWork R i h X S st K k w
  once : ws.Pairwise (WorkApart R h X)
  next : k = K ∨ ∃ w ∈ ws, w.isStage
  landing : R.Landing m0 st k (fun v => ∃ w ∈ ws, R.Row h v w) t.fab.loft

section rowsword
variable {R : RowSet} {i : Issue} {h : Held} {X : Work → Prop} {Fr : Nat → Prop → State → Prop} {S : Nat → List (Nat × Nat) → Prop} {st : Nat → Nat} {K : Nat} {m0 : Mem} {k : Nat}

theorem InRows.perm {ws vs : List Work} {t : State} (hp : ws.Perm vs) (H : InRows R i h X Fr S st K m0 k ws t) : InRows R i h X Fr S st K m0 k vs t := by
  have hex : ∀ p : Work → Prop, (∃ w ∈ ws, p w) ↔ ∃ w ∈ vs, p w := fun p => ⟨fun ⟨w, hw, h⟩ => ⟨w, hp.mem_iff.mp hw, h⟩, fun ⟨w, hw, h⟩ => ⟨w, hp.mem_iff.mpr hw, h⟩⟩
  refine ⟨?_, fun w hw => H.works w (hp.mem_iff.mpr hw), (hp.pairwise_iff (fun h => h.symm)).mp H.once, H.next.imp id (hex _).mp, H.landing.congr (fun v _ _ => (hex _).symm)⟩
  rw [← propext (hex X)]
  exact H.frame

variable (W : RowsWord R i h X Fr S st K m0)
include W

/-- A stage comes about. -/
theorem RowsWord.stepStage {ws : List Work} {t : State} {acc : List (Nat × Nat)} (c : Nat) (H : InRows R i h X Fr S st K m0 k (.stage i h k acc :: ws) t) (hk : k < K) (hS : S k acc) :
    ∃ fl : List Flight, (runWork c (.stage i h k acc) t).fab.flight = t.fab.flight ++ fl ∧
      InRows R i h X Fr S st K m0 (k + 1) (fl.map (fun x => x.work) ++ ws) (runWork c (.stage i h k acc) t) ∧
      toCome (rowLeft K) fl < rowLeft K (.stage i h k acc) ∧ ∀ x ∈ fl, x.c ≤ c + 1024 := by
  obtain ⟨hws, hrest⟩ := List.pairwise_cons.mp H.once
  have hnot : ¬X (.stage i h k acc) := fun hx => by cases (W.other hx).1
  have hstage : ∀ w ∈ ws, w.isStage = false := fun w hw => by simpa [Work.isStage] using (hws w hw).1
  have hold : ∀ w ∈ ws, (∃ v, v < R.count ∧ st v < k ∧ R.Row h v w) ∨ X w := by
    intro w hw
    rcases H.works w (List.mem_cons_of_mem _ hw) with ⟨acc', rfl, -⟩ | hrow | hx
    · cases hstage _ hw
    · exact .inl hrow
    · exact .inr hx
  obtain ⟨fl, hfl, hloft, hFr, B⟩ := W.stage c hk hS H.frame H.landing
  have hflX : ∀ w ∈ fl.map (fun x => x.work), ¬X w := by
    intro w hw hx
    obtain ⟨x, hx', rfl⟩ := List.mem_map.mp hw
    rcases B.works x hx' with ⟨acc', he, -⟩ | ⟨v, -, -, hrow⟩
    · rw [he] at hx
      cases (W.other hx).1
    · exact (W.other hx).2 v hrow
  have hflRow : ∀ x ∈ fl, ∀ v, R.Row h v x.work → v < R.count ∧ st v = k := by
    intro x hx v hrow
    rcases B.works x hx with ⟨acc', he, -⟩ | ⟨w, hw, hsw, hrow'⟩
    · rw [he] at hrow
      exact hrow.elim
    · rw [hrow.unique hrow']
      exact ⟨hw, hsw⟩
  have hwsRow : ∀ w ∈ ws, ∀ v, R.Row h v w → st v < k := by
    intro w hw v hrow
    rcases hold w hw with ⟨v', -, hs, hrow'⟩ | hx
    · rw [hrow.unique hrow']
      exact hs
    · exact absurd hrow ((W.other hx).2 v)
  refine ⟨fl, hfl, ⟨?_, fun w hw => ?_, ?_, ?_, ?_⟩, B.few, B.soon⟩
  · have he : (∃ w ∈ fl.map (fun x => x.work) ++ ws, X w) ↔ ∃ w ∈ Work.stage i h k acc :: ws, X w := by
      constructor
      · rintro ⟨w, hw, hx⟩
        rcases List.mem_append.mp hw with hw | hw
        · exact absurd hx (hflX w hw)
        · exact ⟨w, List.mem_cons_of_mem _ hw, hx⟩
      · rintro ⟨w, hw, hx⟩
        rcases List.mem_cons.mp hw with rfl | hw
        · exact absurd hx hnot
        · exact ⟨w, List.mem_append_right _ hw, hx⟩
    rw [propext he]
    exact hFr
  · rcases List.mem_append.mp hw with hw | hw
    · obtain ⟨x, hx, rfl⟩ := List.mem_map.mp hw
      rcases B.works x hx with ⟨acc', he, hm, hS'⟩ | ⟨v, hv, hs, hrow⟩
      · exact .inl ⟨acc', he, hm, hS'⟩
      · exact .inr (.inl ⟨v, hv, by omega, hrow⟩)
    · rcases hold w hw with ⟨v, hv, hs, hrow⟩ | hx
      · exact .inr (.inl ⟨v, hv, by omega, hrow⟩)
      · exact .inr (.inr hx)
  · rw [List.pairwise_append]
    refine ⟨(List.Pairwise.and_mem.mp B.once).imp (fun {w w'} hw => ⟨hw.2.2.1, fun hc => hflX w hw.1 hc.1, hw.2.2.2⟩), hrest, fun w hw w' hw' => ?_⟩
    refine ⟨fun hc => by rw [hstage w' hw'] at hc; exact absurd hc.2 (by simp), fun hc => hflX w hw hc.1, fun v hc => ?_⟩
    obtain ⟨x, hx, rfl⟩ := List.mem_map.mp hw
    have h1 := (hflRow x hx v hc.1).2
    have h2 := hwsRow w' hw' v hc.2
    omega
  · refine B.next.imp id ?_
    rintro ⟨x, hx, hxs⟩
    exact ⟨x.work, List.mem_append_left _ (List.mem_map.mpr ⟨x, hx, rfl⟩), hxs⟩
  · rw [hloft]
    refine H.landing.begun (fun v hv hs => ?_) (fun v hv hs hno => ?_)
    · constructor
      · rintro ⟨w, hw, hrow⟩
        rcases List.mem_append.mp hw with hw | hw
        · obtain ⟨x, hx, rfl⟩ := List.mem_map.mp hw
          have := (hflRow x hx v hrow).2
          omega
        · exact ⟨w, List.mem_cons_of_mem _ hw, hrow⟩
      · rintro ⟨w, hw, hrow⟩
        rcases List.mem_cons.mp hw with rfl | hw
        · exact hrow.elim
        · exact ⟨w, List.mem_append_right _ hw, hrow⟩
    · by_contra hne
      obtain ⟨x, hx, hrow⟩ := B.rows v hv hs hne
      exact hno ⟨x.work, List.mem_append_left _ (List.mem_map.mpr ⟨x, hx, rfl⟩), hrow⟩

/-- A write comes to its issue cycle. -/
theorem RowsWord.stepStore {ws : List Work} {t : State} {v c : Nat} (H : InRows R i h X Fr S st K m0 k (.store h R.n (R.ws v) (R.keep v) :: ws) t) (hv : v < R.count) (hs : st v < k)
    (hne : R.ws v ≠ []) : runWork c (.store h R.n (R.ws v) (R.keep v)) t = t.later (c + 4) 0 (.land R.n h.fg c (R.ws v) (R.keep v)) ∧
      InRows R i h X Fr S st K m0 k (.land R.n h.fg c (R.ws v) (R.keep v) :: ws) (t.later (c + 4) 0 (.land R.n h.fg c (R.ws v) (R.keep v))) := by
  obtain ⟨hws, hrest⟩ := List.pairwise_cons.mp H.once
  have hrow : ∀ w, R.Row h w (.land R.n h.fg c (R.ws v) (R.keep v)) ↔ R.Row h w (.store h R.n (R.ws v) (R.keep v)) := fun w =>
    ⟨fun ⟨h1, h2, h3, h4⟩ => ⟨rfl, h1, h2, h3, h4⟩, fun ⟨_, h1, h2, h3, h4⟩ => ⟨h1, h2, h3, h4⟩⟩
  have hland : R.Row h v (.land R.n h.fg c (R.ws v) (R.keep v)) := (hrow v).mpr (RowSet.row_store hne)
  have hX1 : ¬X (.store h R.n (R.ws v) (R.keep v)) := fun hx => (W.other hx).2 v (RowSet.row_store hne)
  have hX2 : ¬X (.land R.n h.fg c (R.ws v) (R.keep v)) := fun hx => (W.other hx).2 v hland
  refine ⟨storeNow_row (W.plain H.frame) (W.own H.frame) h c (W.fits.base_lt hv) hne, ?_, fun w hw => ?_, ?_, ?_, ?_⟩
  · have he : (∃ w ∈ Work.land R.n h.fg c (R.ws v) (R.keep v) :: ws, X w) ↔ ∃ w ∈ Work.store h R.n (R.ws v) (R.keep v) :: ws, X w := by simp [hX1, hX2]
    rw [propext he]
    exact W.keep t.fab.loft t.rcd.entries _ t.fab.cyc t.fab.fresh H.frame
  · rcases List.mem_cons.mp hw with rfl | hw
    · exact .inr (.inl ⟨v, hv, hs, hland⟩)
    · exact H.works w (List.mem_cons_of_mem _ hw)
  · refine List.pairwise_cons.mpr ⟨fun w hw => ⟨fun hc => (by cases hc.1), fun hc => hX2 hc.1, fun x hc => ?_⟩, hrest⟩
    exact (hws w hw).2.2 x ⟨(hrow x).mp hc.1, hc.2⟩
  · refine H.next.imp id ?_
    rintro ⟨w, hw, hst⟩
    rcases List.mem_cons.mp hw with rfl | hw
    · cases hst
    · exact ⟨w, List.mem_cons_of_mem _ hw, hst⟩
  · refine H.landing.congr (fun w _ _ => ?_)
    simp only [List.mem_cons, exists_eq_or_imp, hrow]

/-- A row lands. -/
theorem RowsWord.stepLand {ws : List Work} {t : State} {v u c : Nat} {fg : Bool} (H : InRows R i h X Fr S st K m0 k (.land R.n fg u (R.ws v) (R.keep v) :: ws) t) (hv : v < R.count)
    (hs : st v < k) (hne : R.ws v ≠ []) : (runWork c (.land R.n fg u (R.ws v) (R.keep v)) t).fab.flight = t.fab.flight ∧
      InRows R i h X Fr S st K m0 k ws (runWork c (.land R.n fg u (R.ws v) (R.keep v)) t) := by
  obtain ⟨hws, hrest⟩ := List.pairwise_cons.mp H.once
  have hland : R.Row h v (.land R.n fg u (R.ws v) (R.keep v)) := ⟨rfl, rfl, rfl, hne⟩
  have hX : ¬X (.land R.n fg u (R.ws v) (R.keep v)) := fun hx => (W.other hx).2 v hland
  have hlen : 0 < R.len := by
    obtain ⟨y, hy⟩ := List.exists_mem_of_ne_nil _ hne
    obtain ⟨j, b, hj, -⟩ := mem_rowWrites.mp hy
    omega
  have hkey := W.fits.key_eq hv hlen
  obtain ⟨m, es, hrun, hl⟩ := landNow_row (s := t) H.landing.flips R.n fg u (base := R.base v) (len := R.len) (bits := R.bits) (R.codes v) (W.fits.base_lt hv)
    (fun j b hj _ => by rw [hkey]; exact H.landing.clear W.fits ⟨_, List.mem_cons_self, hland⟩ hj)
  rw [hkey] at hl
  have hrun : runWork c (.land R.n fg u (R.ws v) (R.keep v)) t = _ := hrun
  rw [hrun]
  refine ⟨rfl, ?_, fun w hw => H.works w (List.mem_cons_of_mem _ hw), hrest, ?_, ?_⟩
  · have he : (∃ w ∈ ws, X w) ↔ ∃ w ∈ Work.land R.n fg u (R.ws v) (R.keep v) :: ws, X w := by simp [hX]
    rw [propext he]
    exact W.keep m es t.fab.flight t.fab.cyc t.fab.fresh H.frame
  · refine H.next.imp id ?_
    rintro ⟨w, hw, hst⟩
    rcases List.mem_cons.mp hw with rfl | hw
    · cases hst
    · exact ⟨w, hw, hst⟩
  · refine (H.landing.lands W.fits hv hs ⟨_, List.mem_cons_self, hland⟩ hl).congr (fun w _ _ => ?_)
    constructor
    · rintro ⟨x, hx, hrow⟩
      refine ⟨⟨x, List.mem_cons_of_mem _ hx, hrow⟩, ?_⟩
      rintro rfl
      exact (hws x hx).2.2 w ⟨hland, hrow⟩
    · rintro ⟨⟨x, hx, hrow⟩, hne⟩
      rcases List.mem_cons.mp hx with rfl | hx
      · exact absurd (hrow.unique hland) hne
      · exact ⟨x, hx, hrow⟩

/-- The register is written. -/
theorem RowsWord.stepExtra {ws : List Work} {t : State} {w : Work} {c : Nat} (H : InRows R i h X Fr S st K m0 k (w :: ws) t) (hx : X w) :
    (runWork c w t).fab.flight = t.fab.flight ∧ InRows R i h X Fr S st K m0 k ws (runWork c w t) := by
  obtain ⟨hws, hrest⟩ := List.pairwise_cons.mp H.once
  have hT : (∃ y ∈ w :: ws, X y) ↔ True := iff_of_true ⟨w, List.mem_cons_self, hx⟩ trivial
  have hF : (∃ y ∈ ws, X y) ↔ False := iff_of_false (fun ⟨y, hy, hxy⟩ => (hws y hy).2.1 ⟨hx, hxy⟩) id
  have hframe := H.frame
  rw [propext hT] at hframe
  obtain ⟨hfl, hloft, hFr⟩ := W.extra c hx hframe
  obtain ⟨hst, hrow⟩ := W.other hx
  refine ⟨hfl, ?_, fun y hy => H.works y (List.mem_cons_of_mem _ hy), hrest, ?_, ?_⟩
  · rw [propext hF]
    exact hFr
  · refine H.next.imp id ?_
    rintro ⟨y, hy, hys⟩
    rcases List.mem_cons.mp hy with rfl | hy
    · rw [hst] at hys
      cases hys
    · exact ⟨y, hy, hys⟩
  · rw [hloft]
    refine H.landing.congr (fun v _ _ => ?_)
    simp [hrow v]

/-- Such a word comes about in whatever order. -/
theorem RowsWord.anyhow : Anyhow (rowLeft K) (fun ws t => ∃ k, InRows R i h X Fr S st K m0 k ws t) where
  perm := fun hp ⟨k, H⟩ => ⟨k, H.perm hp⟩
  clock := fun {_ s} l y f ⟨k, H⟩ => ⟨k, W.keep s.fab.loft s.rcd.entries l y f H.frame, H.works, H.once, H.next, H.landing⟩
  step := by
    rintro w ws s c ⟨k, H⟩
    rcases H.works w List.mem_cons_self with ⟨acc, rfl, hk, hS⟩ | ⟨v, hv, hs, hrow⟩ | hx
    · obtain ⟨fl, h1, h2, h3, h4⟩ := W.stepStage c H hk hS
      exact ⟨fl, h1, ⟨_, h2⟩, h3, h4⟩
    · cases w with
      | store g n vs keep =>
        obtain ⟨rfl, rfl, rfl, rfl, hne⟩ := hrow
        obtain ⟨hrun, H'⟩ := W.stepStore (c := c) H hv hs hne
        rw [hrun]
        exact ⟨[⟨c + 4, 0, .land R.n g.fg c (R.ws v) (R.keep v)⟩], rfl, ⟨k, H'⟩, by simp [rowLeft], by simp⟩
      | land n fg u vs keep =>
        obtain ⟨rfl, rfl, rfl, hne⟩ := hrow
        obtain ⟨hfl, H'⟩ := W.stepLand (c := c) H hv hs hne
        exact ⟨[], by rw [hfl, List.append_nil], ⟨k, H'⟩, by simp [rowLeft], by simp⟩
      | _ => exact hrow.elim
    · obtain ⟨hfl, H'⟩ := W.stepExtra (c := c) H hx
      have hpos : 0 < rowLeft K w := by
        obtain ⟨hst, -⟩ := W.other hx
        cases w with
        | stage => cases hst
        | _ => simp [rowLeft]
      exact ⟨[], by rw [hfl, List.append_nil], ⟨k, H'⟩, by simpa using hpos, by simp⟩

/-- What such a word leaves, begun with nothing else in flight (a write of a register that it makes at once aside). -/
theorem RowsWord.leaves {u t : State} {c : Nat} (hc : c < 2 ^ 16) (hK : 0 < K) (hK' : K < 2 ^ 20) (hst : ∀ v, v < R.count → st v < K) {xs : List Flight}
    (hxs : ∀ x ∈ xs, X x.work ∧ x.c < 2 ^ 17) (hone : xs.length ≤ 1) (hu : u.fab.flight = ⟨c, 3, .stage i h 0 []⟩ :: xs) (hS : S 0 [])
    (hFr : Fr 0 (∃ x ∈ xs, X x.work) { u with wire := [] }) (hm0 : m0 = u.fab.loft) (hf : m0.flips = []) (hm : m0.marks = []) (ht : t = settleAll u) :
    t.fab.flight = [] ∧ Fr K False t ∧ R.Landing m0 st K (fun _ => False) t.fab.loft := by
  have hworks : ∀ w ∈ xs.map (fun x => x.work), X w := by
    intro w hw
    obtain ⟨x, hx, rfl⟩ := List.mem_map.mp hw
    exact (hxs x hx).1
  have hstage : ¬X (.stage i h 0 []) := fun hx => by cases (W.other hx).1
  have hP : InRows R i h X Fr S st K m0 0 (u.fab.flight.map (fun x => x.work)) { u with wire := [] } := by
    rw [hu, List.map_cons]
    refine ⟨?_, fun w hw => ?_, ?_, .inr ⟨_, List.mem_cons_self, rfl⟩, ?_⟩
    · have he : (∃ w ∈ Work.stage i h 0 [] :: xs.map (fun x => x.work), X w) ↔ ∃ x ∈ xs, X x.work := by simp [hstage]
      rw [propext he]
      exact hFr
    · rcases List.mem_cons.mp hw with rfl | hw
      · exact .inl ⟨[], rfl, hK, hS⟩
      · exact .inr (.inr (hworks w hw))
    · refine List.pairwise_cons.mpr ⟨fun w hw => ⟨fun hc => ?_, fun hc => hstage hc.1, fun v hc => hc.1⟩, ?_⟩
      · rw [(W.other (hworks w hw)).1] at hc
        cases hc.2
      · match xs, hone with
        | [], _ => simp
        | [x], _ => simp
    · rw [hm0]
      exact RowSet.Landing.start (hm0 ▸ hf) (hm0 ▸ hm)
  have hleft : ∀ x ∈ xs, rowLeft K x.work ≤ 2 := by
    intro x hx
    have hst := (W.other (hxs x hx).1).1
    cases hw : x.work with
    | stage => rw [hw] at hst; cases hst
    | store => exact le_rfl
    | _ => exact Nat.le_succ 1
  have hends : EndsBy (rowLeft K) (2 ^ 60) u.fab.flight := by
    rw [hu]
    intro x hx
    rcases List.mem_cons.mp hx with rfl | hx
    · dsimp only [rowLeft]
      omega
    · have := hleft x hx
      have := (hxs x hx).2
      omega
  have hfew : toCome (rowLeft K) u.fab.flight < 2 ^ 40 := by
    rw [hu, toCome_cons]
    have : toCome (rowLeft K) xs ≤ 2 := by
      match xs, hone, hleft with
      | [], _, _ => simp
      | [x], _, hleft => simpa using hleft x List.mem_cons_self
    dsimp only [rowLeft]
    omega
  obtain ⟨hflight, k, H⟩ := W.anyhow.settle (e := 2 ^ 60) (c := 2 ^ 64) (phase := 4) (n := 2 ^ 40) (s := { u with wire := [] }) (by norm_num) ⟨0, hP⟩ hends hfew
  have ht' : t = settle (2 ^ 40) (2 ^ 64) 4 { u with wire := [] } := ht
  rw [← ht'] at hflight H
  obtain rfl : k = K := H.next.resolve_right (by simp)
  refine ⟨hflight, ?_, H.landing.congr (fun v _ _ => by simp)⟩
  have hframe := H.frame
  rwa [propext (iff_of_false (by simp) id : (∃ w ∈ ([] : List Work), X w) ↔ False)] at hframe

end rowsword

end Sys2Proof.Machine

/-! SUPPORT. What words read while their rows land, and what they count. -/

namespace Sys2Proof.Machine

/-! ### Reads of bytes that no row has reached -/

/-- Aliases are read from registers below 0x600000 and from the steps of jobs. -/
theorem alias_congr {s t : State} (hr : ∀ b, b < 0x600000 → t.reg b = s.reg b) (hj : ∀ n, (t.job n).inStep = (s.job n).inStep) (loc a : Nat) :
    t.aliasPair loc a = s.aliasPair loc a ∧ t.fitAlias loc a = s.fitAlias loc a := by
  have hr : ∀ b hi lo, b < 0x600000 → t.rf b hi lo = s.rf b hi lo := fun b hi lo hb => by
    unfold State.rf
    rw [hr b hb]
  constructor
  · unfold State.aliasPair State.pairOn
    refine List.find?_congr (fun n hn => ?_)
    rw [List.mem_range] at hn
    rw [hr _ _ _ (by unfold A.rastPairCtl; omega), hr _ _ _ (by unfold A.rastPairCtl; omega), hr _ _ _ (by unfold A.rastPairBase; omega),
      hr _ _ _ (by unfold A.rastPairSize; omega)]
  · unfold State.fitAlias State.aliasOn
    refine List.find?_congr (fun n hn => ?_)
    rw [List.mem_range] at hn
    rw [hr _ _ _ (by unfold A.chanFitCtl; omega), hr _ _ _ (by unfold A.chanFitCtl; omega), hr _ _ _ (by unfold A.chanFitPbase; omega),
      hr _ _ _ (by unfold A.chanFitPsize; omega), hj]

/-- A byte outside a row. -/
theorem RowSet.Fits.outside {R : RowSet} (F : R.Fits) {a v j : Nat} (ha : a < 2 ^ 23) (hv : v < R.count) (hb : a < R.base v ∨ R.base v + R.len ≤ a) (hj : j < R.len) :
    bayKey R.n a ≠ R.key v + j := by
  intro he
  have := F.base_lt hv
  rw [← F.key_eq hv (by omega), ← bayKey_add (by omega)] at he
  unfold bayKey at he
  omega

section landing
variable {R : RowSet} (F : R.Fits) {m0 m : Mem} {st : Nat → Nat} {k : Nat} {pend : Nat → Prop} (h : R.Landing m0 st k pend m) (hf : m0.flips = []) (hm : m0.marks = [])
include F h

/-- The codeword of a byte that no row begun takes in carries no mark. -/
theorem RowSet.Landing.mark_rest {b : Nat} (hb : ∀ v, v < R.count → st v < k → ∀ j, j < R.len → b ≠ R.key v + j) : m.mark (b / 8) = 0 := by
  by_contra hc
  obtain ⟨v, j, hv, hs, -, hpo, he⟩ := h.marked _ hc
  rcases F.apart with hu | ⟨hd, hl⟩
  · exact hu v j hv hpo
  · have hkey : R.key v % 8 = 0 := by
      have : v * R.len % 8 = 0 := by rw [Nat.mul_mod, hl, Nat.mul_zero]
      unfold RowSet.key bayKey
      omega
    have hj := hpo.1
    exact hb v hv hs (b - R.key v) (by omega) (by omega)

include hf hm

theorem RowSet.Landing.fetch_rest {b : Nat} (hb : ∀ v, v < R.count → st v < k → ∀ j, j < R.len → b ≠ R.key v + j) : m.fetch b = m0.fetch b := by
  rw [Mem.fetch_noFlips h.flips, Mem.fetch_noFlips hf, h.rest b hb, h.mark_rest F hb, if_pos rfl, if_pos (by unfold Mem.mark; rw [hm]; rfl)]

/-- A byte of the bay outside the rows begun is delivered as the word found it. -/
theorem RowSet.Landing.fetch_kept {a : Nat} (ha : a < 2 ^ 23) (hb : ∀ v, v < R.count → st v < k → a < R.base v ∨ R.base v + R.len ≤ a) :
    m.fetch (bayKey R.n a) = m0.fetch (bayKey R.n a) := h.fetch_rest F hf hm (fun v hv hs _ hj => F.outside ha hv (hb v hv hs) hj)

omit hf hm in
/-- Its codeword carries no mark. -/
theorem RowSet.Landing.mark_kept {a : Nat} (ha : a < 2 ^ 23) (hb : ∀ v, v < R.count → st v < k → a < R.base v ∨ R.base v + R.len ≤ a) :
    m.mark (bayKey R.n a / 8) = 0 := h.mark_rest F (fun v hv hs _ hj => F.outside ha hv (hb v hv hs) hj)

end landing

/-- An element is read as at the issue where its bytes still stand. -/
theorem elemAt_kept {t u : State} (hpt : ∀ a, t.aliasPair 1 a = none ∧ t.fitAlias 1 a = none) (hpu : ∀ a, u.aliasPair 1 a = none ∧ u.fitAlias 1 a = none) (x : Held) {n base bits l len : Nat}
    (hb : bits = 4 ∨ bits = 8 ∨ bits = 16) (hl : l * bits / 8 + (bits + 7) / 8 ≤ len)
    (h : ∀ j, j < len → t.fab.loft.fetch (bayKey n (base + j)) = u.fab.loft.fetch (bayKey n (base + j))) : elemAt (t.held x) n base bits l = elemAt u n base bits l := by
  have hbyte : ∀ j, j < len → (t.held x).loftByte n (base + j) = u.loftByte n (base + j) := fun j hj => by
    rw [held_loftByte_own hpt, loftByte_own hpu, h j hj]
  unfold elemAt
  rcases hb with rfl | rfl | rfl
  · simp only [if_true]
    rw [hbyte _ (by omega)]
  · norm_num only [if_true, if_false]
    rw [hbyte _ (by omega)]
  · norm_num only [if_false]
    rw [hbyte _ (by omega), Nat.add_assoc base, hbyte _ (by omega)]

/-- An element of a sound bay is not poisoned. -/
theorem elemAt_sound {u : State} (hc : u.fab.loft.Clean) (hp : ∀ a, u.aliasPair 1 a = none ∧ u.fitAlias 1 a = none) (n base bits l : Nat) : (elemAt u n base bits l).2 = 0 := by
  have h0 : ∀ a, (u.loftByte n a).2 = 0 := fun a => by rw [loftByte_own hp, hc.fetch_poison]
  unfold elemAt
  split
  · exact h0 _
  · split
    · exact h0 _
    · dsimp only
      rw [h0, h0, Nat.max_self]

/-- A bay in which the codewords read carry no mark records nothing. -/
theorem portReads_unmarked {s : State} (hp : ∀ a, s.aliasPair 1 a = none ∧ s.fitAlias 1 a = none) (hf : s.fab.loft.flips = []) (x : Held) (n : Nat) {accs : List (Nat × Nat)}
    (hm : ∀ a ∈ accs, ∀ j, j < a.2 → s.fab.loft.mark (bayKey n (a.1 + j) / 8) = 0) : s.portReads x n accs = s := by
  have hr : (s.held x).loftReads n accs = s.held x := by
    unfold State.loftReads
    split
    · rfl
    · refine foldl_fixed _ (fun cw hcw => ?_)
      obtain ⟨a, ha, hcw⟩ := List.mem_flatMap.mp hcw
      obtain ⟨j, hj, rfl⟩ := List.mem_map.mp ((mem_uniq _ _).mp hcw)
      rw [held_reach_own x (hp _)]
      unfold State.loftReadCw
      refine if_pos ?_
      have hft : (s.held x).fab.loft = s.fab.loft := rfl
      rw [hft, Mem.not_tainted_noFlips hf (hm a ha j (List.mem_range.mp hj))]
      rfl
  unfold State.portReads
  rw [hr]
  rfl

/-! ### What rows leave -/

/-- Rows whose lanes carry no poison write none. -/
theorem RowSet.unmarked_of_codes {R : RowSet} (h : ∀ v l c, v < R.count → (R.codes v).getD l none = some c → c.2 = 0) : R.Unmarked := by
  rintro v j hv ⟨-, x, hx, hp⟩
  unfold RowSet.lane laneByte at hx
  split at hx
  · cases h1 : (R.codes v).getD (2 * j) none <;> cases h2 : (R.codes v).getD (2 * j + 1) none <;> rw [h1, h2] at hx <;> simp only [reduceCtorEq, Option.some.injEq] at hx <;> subst hx
    · exact hp (h v _ _ hv h2)
    · exact hp (h v _ _ hv h1)
    · dsimp only at hp
      have := h v _ _ hv h1
      have := h v _ _ hv h2
      omega
  · obtain ⟨c, hc, rfl⟩ := Option.map_eq_some_iff.mp hx
    exact hp (h v _ _ hv hc)

section left
variable {R : RowSet} (F : R.Fits) {t u : State} {st : Nat → Nat} {K : Nat} (h : R.Landing u.fab.loft st K (fun _ => False) t.fab.loft) (hst : ∀ v, v < R.count → st v < K)
  (hpt : ∀ a, t.aliasPair 1 a = none ∧ t.fitAlias 1 a = none) (hpu : ∀ a, u.aliasPair 1 a = none ∧ u.fitAlias 1 a = none) (hf : u.fab.loft.flips = []) (hm : u.fab.loft.marks = [])
include F h hst hpt hpu hf

/-- A lane of a row that has landed holds its code, where the row writes it, and what it held elsewhere. -/
theorem RowSet.Landing.elem {v l : Nat} (hv : v < R.count) (hl : l < 2 * R.half) : (elemAt t R.n (R.base v) R.bits l).1 =
    (((R.codes v).getD l none).map (fun c => c.1 % 2 ^ R.bits)).getD (elemAt u R.n (R.base v) R.bits l).1 := by
  have hlen : 2 * R.half * R.bits / 8 = R.len := rfl
  have hle := F.base_lt hv
  rw [elemAt_rowByte hpt h.flips hpu hf F.bits hl (by rw [hlen]; exact hle) (fun j hj => ?_)]
  · cases (R.codes v).getD l none <;> rfl
  · rw [hlen] at hj
    rw [F.key_eq hv (by omega)]
    exact h.landed v j hv (hst v hv) id hj

include hm in
omit hst in
/-- Bytes outside the rows are as they were. -/
theorem RowSet.Landing.loftByte_rest {m a : Nat} (ha : a < 2 ^ 23) (hout : m ≠ R.n ∨ a < R.d ∨ R.d + R.count * R.len ≤ a) : t.loftByte m a = u.loftByte m a := by
  rw [loftByte_own hpt, loftByte_own hpu]
  refine h.fetch_rest F hf hm (fun v hv _ j hj he => ?_)
  have hle := F.base_lt hv
  rw [← F.key_eq hv (by omega), ← bayKey_add (by omega)] at he
  have hv' : (v + 1) * R.len ≤ R.count * R.len := Nat.mul_le_mul_right _ hv
  rw [Nat.add_one_mul] at hv'
  unfold RowSet.base bayKey at *
  omega

omit hpu hf in
/-- A lane that a row has written poisoned is delivered poisoned. -/
theorem RowSet.Landing.elem_poisoned {v l : Nat} (hv : v < R.count) (hl : l < 2 * R.half) {c : Nat × Nat} (hc : (R.codes v).getD l none = some c) (hp : c.2 ≠ 0) :
    (elemAt t R.n (R.base v) R.bits l).2 ≠ 0 := by
  have hbyte : ∀ j, R.Poisoned v j → (t.loftByte R.n (R.base v + j)).2 ≠ 0 := by
    intro j hj
    have hle := F.base_lt hv
    rw [loftByte_own hpt, Mem.fetch_noFlips h.flips, bayKey_add (by have := hj.1; omega), F.key_eq hv (by have := hj.1; omega)]
    rw [if_neg (h.marks v j hv (hst v hv) id hj)]
    exact two_ne_zero
  have hlen : R.len = 2 * R.half * R.bits / 8 := rfl
  unfold elemAt
  rcases F.bits with hb | hb | hb
  · rw [if_pos hb]
    refine hbyte _ ⟨by rw [hlen, hb]; omega, ?_⟩
    unfold RowSet.lane laneByte
    rw [if_pos hb]
    rcases Nat.mod_two_eq_zero_or_one l with he | he
    · rw [show 2 * (l / 2) = l by omega, hc]
      cases (R.codes v).getD (l + 1) none with
      | none => exact ⟨_, rfl, hp⟩
      | some x => exact ⟨_, rfl, by dsimp only; omega⟩
    · rw [show 2 * (l / 2) = l - 1 by omega, show l - 1 + 1 = l by omega, hc]
      cases (R.codes v).getD (l - 1) none with
      | none => exact ⟨_, rfl, hp⟩
      | some x => exact ⟨_, rfl, by dsimp only; omega⟩
  · rw [if_neg (by omega), if_pos hb]
    refine hbyte _ ⟨by rw [hlen, hb]; omega, ?_⟩
    unfold RowSet.lane laneByte
    rw [if_neg (by omega), hb, show l / (8 / 8) = l by omega, hc]
    exact ⟨_, rfl, hp⟩
  · rw [if_neg (by omega), if_neg (by omega)]
    have hlow := hbyte (2 * l) ⟨by rw [hlen, hb]; omega, by
      unfold RowSet.lane laneByte
      rw [if_neg (by omega), hb, show 2 * l / (16 / 8) = l by omega, hc]
      exact ⟨_, rfl, hp⟩⟩
    dsimp only
    omega

end left

/-! ### Counters -/

/-- Nothing but registers, and the clock's note of what they gained, has changed. -/
def RegsOnly (s t : State) : Prop := ∃ r f, t = { s with regs := r, fab := { s.fab with fresh := f } }

theorem RegsOnly.trans {s t u : State} (h : RegsOnly s t) (h' : RegsOnly t u) : RegsOnly s u := by
  obtain ⟨r, f, rfl⟩ := h
  obtain ⟨r', f', rfl⟩ := h'
  exact ⟨r', f', rfl⟩

theorem State.tally_only (s : State) (a k : Nat) : RegsOnly s (s.tally a k) := ⟨_, _, rfl⟩

/-- The counters of a spar are three registers. -/
theorem counters_apart (n : Nat) : A.sparSat n ≠ A.sparUfz n ∧ A.sparSat n ≠ A.sparPoi n ∧ A.sparUfz n ≠ A.sparPoi n := by
  unfold A.sparSat A.sparUfz A.sparPoi
  omega

theorem State.tally_reg (s : State) (a k : Nat) {b : Nat} (h : b ≠ a) : (s.tally a k).reg b = s.reg b := State.reg_setReg_ne s _ h

theorem State.tally_rf (s : State) (a k : Nat) : (s.tally a k).rf a 31 0 = min (s.rf a 31 0 + k) (2 ^ 32 - 1) :=
  State.rf_bump_same s (a := a) (hi := 31) (lo := 0) k (by decide) (by decide)

/-- The counters of spar n advance by a, b and c, each held at 2^32 − 1, and no other register changes (R150). -/
structure Counted (s t : State) (n a b c : Nat) : Prop where
  regs : ∀ x, x ∉ [A.sparSat n, A.sparUfz n, A.sparPoi n] → t.reg x = s.reg x
  sat : t.rf (A.sparSat n) 31 0 = min (s.rf (A.sparSat n) 31 0 + a) (2 ^ 32 - 1)
  ufz : t.rf (A.sparUfz n) 31 0 = min (s.rf (A.sparUfz n) 31 0 + b) (2 ^ 32 - 1)
  poi : t.rf (A.sparPoi n) 31 0 = min (s.rf (A.sparPoi n) 31 0 + c) (2 ^ 32 - 1)

theorem State.rf_lt (s : State) (a : Nat) : s.rf a 31 0 ≤ 2 ^ 32 - 1 := by
  have : fld (s.reg a) 31 0 < 2 ^ (31 + 1 - 0) := fld_lt _ _ _
  unfold State.rf
  omega

theorem Counted.zero (s : State) (n : Nat) : Counted s s n 0 0 0 :=
  ⟨fun _ _ => rfl, by have := s.rf_lt (A.sparSat n); omega, by have := s.rf_lt (A.sparUfz n); omega, by have := s.rf_lt (A.sparPoi n); omega⟩

theorem Counted.trans {s t u : State} {n a b c a' b' c' : Nat} (h : Counted s t n a b c) (h' : Counted t u n a' b' c') : Counted s u n (a + a') (b + b') (c + c') where
  regs := fun x hx => (h'.regs x hx).trans (h.regs x hx)
  sat := by rw [h'.sat, h.sat]; omega
  ufz := by rw [h'.ufz, h.ufz]; omega
  poi := by rw [h'.poi, h.poi]; omega

theorem Counted.congr {s t s' t' : State} {n a b c : Nat} (h : Counted s t n a b c) (hs : s'.regs = s.regs) (ht : t'.regs = t.regs) : Counted s' t' n a b c := by
  have hs' : ∀ x, s'.reg x = s.reg x := fun x => by unfold State.reg; rw [hs]
  have ht' : ∀ x, t'.reg x = t.reg x := fun x => by unfold State.reg; rw [ht]
  obtain ⟨h1, h2, h3, h4⟩ := h
  unfold State.rf at h2 h3 h4
  exact ⟨fun x hx => by rw [ht', hs', h1 x hx], by unfold State.rf; rw [ht', hs', h2], by unfold State.rf; rw [ht', hs', h3], by unfold State.rf; rw [ht', hs', h4]⟩

theorem State.tallies_counted (s : State) (n a b c : Nat) : Counted s (((s.tally (A.sparSat n) a).tally (A.sparUfz n) b).tally (A.sparPoi n) c) n a b c := by
  obtain ⟨h1, h2, h3⟩ := counters_apart n
  refine ⟨fun x hx => ?_, ?_, ?_, ?_⟩
  · simp only [List.mem_cons, List.not_mem_nil, or_false, not_or] at hx
    rw [State.tally_reg _ _ _ hx.2.2, State.tally_reg _ _ _ hx.2.1, State.tally_reg _ _ _ hx.1]
  · unfold State.rf
    rw [State.tally_reg _ _ _ h2, State.tally_reg _ _ _ h1]
    exact State.tally_rf s _ a
  · unfold State.rf
    rw [State.tally_reg _ _ _ h3]
    refine (State.tally_rf _ _ b).trans ?_
    unfold State.rf
    rw [State.tally_reg _ _ _ h1.symm]
  · refine (State.tally_rf _ _ c).trans ?_
    unfold State.rf
    rw [State.tally_reg _ _ _ h3.symm, State.tally_reg _ _ _ h2.symm]

/-- A word counts: registers and the clock's note of them, and the event bit where the poison is hard (R150, R336). -/
theorem State.count_counted (s : State) (n a b c : Nat) (hard : Bool) : Counted s (s.count n a b c hard) n a b c ∧
    ∃ r f e, s.count n a b c hard = { s with regs := r, fab := { s.fab with fresh := f }, rcd := { s.rcd with evt := e } } ∧ (hard = false → e = s.rcd.evt) := by
  have h := s.tallies_counted n a b c
  have ho : RegsOnly s (((s.tally (A.sparSat n) a).tally (A.sparUfz n) b).tally (A.sparPoi n) c) :=
    ((State.tally_only _ _ _).trans (State.tally_only _ _ _)).trans (State.tally_only _ _ _)
  unfold State.count
  dsimp only
  generalize ((s.tally (A.sparSat n) a).tally (A.sparUfz n) b).tally (A.sparPoi n) c = t at h ho
  obtain ⟨r, f, rfl⟩ := ho
  split
  next hh => exact ⟨h.congr rfl rfl, _, _, _, rfl, fun hf => absurd hh.1 (by rw [hf]; simp)⟩
  next => exact ⟨h, _, _, s.rcd.evt, rfl, fun _ => rfl⟩

end Sys2Proof.Machine

/-! SUPPORT. Vector words: their rows of 256 lanes, what a stage of them begins and counts, and what they leave. -/

namespace Sys2Proof.Machine

/-! ### The rows of a vector word -/

/-- The rows of a vector word: lane l of vector v, where the write bounds pass. -/
def vecRows (u : State) (n d bits nvec : Nat) (b : Bounds) (lane : Nat → Nat → Lane) : RowSet where
  n := n
  d := d
  half := 128
  bits := bits
  count := nvec
  codes := fun v => (List.range 256).map (fun (l : Nat) =>
    if b.writes u n (b.oR + (v : Int)) (b.oC + (l : Int)) then some ((lane v l).code, (lane v l).mark) else none)

/-- The lanes of vector v that the write bounds let write. -/
def openRow (u : State) (n : Nat) (b : Bounds) (v : Nat) : List (Nat × Nat) :=
  (List.range 256).filterMap (fun (l : Nat) => if b.writes u n (b.oR + (v : Int)) (b.oC + (l : Int)) then some (v, l) else none)

theorem openLanes_succ (u : State) (n : Nat) (b : Bounds) (v : Nat) : openLanes u n b (v + 1) = openLanes u n b v ++ openRow u n b v := by
  unfold openLanes openRow
  rw [List.range_succ (n := v), List.flatMap_append]
  simp only [List.flatMap_cons, List.flatMap_nil, List.append_nil]

/-- How many of the lanes of the vectors before v count. -/
def laneCount (u : State) (n : Nat) (b : Bounds) (p : Nat → Nat → Bool) (v : Nat) : Nat := ((openLanes u n b v).filter (fun x => p x.1 x.2)).length

theorem laneCount_succ (u : State) (n : Nat) (b : Bounds) (p : Nat → Nat → Bool) (v : Nat) :
    laneCount u n b p (v + 1) = laneCount u n b p v + ((openRow u n b v).filter (fun x => p x.1 x.2)).length := by
  unfold laneCount
  rw [openLanes_succ, List.filter_append, List.length_append]

theorem zipIdx_range_map {α : Type} (g : Nat → α) (len : Nat) : ((List.range len).map g).zipIdx = (List.range len).map (fun l => (g l, l)) := by
  refine List.ext_getElem (by simp) (fun l h1 h2 => ?_)
  simp

section vecrows
variable (u : State) (i : Issue) {d bits nvec : Nat} (b : Bounds) (lane : Nat → Nat → Lane)

theorem vecRows_len (n : Nat) (hb : bits = 4 ∨ bits = 8 ∨ bits = 16) : (vecRows u n d bits nvec b lane).len = 32 * bits := by
  unfold RowSet.len vecRows
  dsimp only
  rcases hb with rfl | rfl | rfl <;> rfl

theorem vecRows_base (n v : Nat) (hb : bits = 4 ∨ bits = 8 ∨ bits = 16) : (vecRows u n d bits nvec b lane).base v = d + v * 32 * bits := by
  unfold RowSet.base
  rw [vecRows_len u b lane n hb, Nat.mul_assoc]
  rfl

theorem vecRows_code (n v l : Nat) (hl : l < 256) : ((vecRows u n d bits nvec b lane).codes v).getD l none =
    if b.writes u n (b.oR + (v : Int)) (b.oC + (l : Int)) then some ((lane v l).code, (lane v l).mark) else none := by
  unfold vecRows
  simp [hl]

/-- Lanes without a mark write no poison. -/
theorem vecRows_unmarked (n : Nat) (hm : ∀ v l, v < nvec → l < 256 → (lane v l).mark = 0) : (vecRows u n d bits nvec b lane).Unmarked := by
  refine RowSet.unmarked_of_codes (fun v l c hv hc => ?_)
  by_cases hl : l < 256
  · rw [vecRows_code u b lane n v l hl, Option.ite_none_right_eq_some] at hc
    rw [← Option.some.inj hc.2]
    exact hm v l hv hl
  · rw [List.getD_eq_default _ _ (by simp [vecRows]; omega)] at hc
    cases hc

/-- A vector written: its row's write on its way, and its open lanes counted. -/
theorem vecWrite_eq (t : State) (hb : bits = 4 ∨ bits = 8 ∨ bits = 16) (v wr : Nat) :
    let R := vecRows u i.spar.val d bits nvec b lane
    let count (p : Nat → Nat → Bool) : Nat := ((openRow u i.spar.val b v).filter (fun x => p x.1 x.2)).length
    vecWrite t i (u.hold i) b d bits v wr ((List.range 256).map (lane v)) =
      (t.storeAt (u.hold i) wr i.spar.val (R.ws v) (R.keep v)).count i.spar.val (count (fun v l => (lane v l).sat)) (count (fun v l => (lane v l).ufz))
        (count (fun v l => decide ((lane v l).poi ≠ 0))) ((openRow u i.spar.val b v).any (fun x => decide ((lane x.1 x.2).poi = 2))) := by
  intro R count
  have hw : ∀ r c : Int, b.writes (t.held (u.hold i)) i.spar.val r c = b.writes u i.spar.val r c := fun _ _ => rfl
  have hrow : (((List.range 256).map (lane v)).zipIdx).map (fun (x : Lane × Nat) => if b.writes u i.spar.val (b.oR + (v : Int)) (b.oC + (x.2 : Int)) then some x.1 else none) =
      (List.range 256).map (fun (l : Nat) => if b.writes u i.spar.val (b.oR + (v : Int)) (b.oC + (l : Int)) then some (lane v l) else none) := by
    rw [zipIdx_range_map, List.map_map]
    rfl
  have hdone : ((List.range 256).map (fun (l : Nat) => if b.writes u i.spar.val (b.oR + (v : Int)) (b.oC + (l : Int)) then some (lane v l) else none)).filterMap (fun o => o) =
      (openRow u i.spar.val b v).map (fun x => lane x.1 x.2) := by
    unfold openRow
    rw [List.filterMap_map, List.map_filterMap]
    refine List.filterMap_congr (fun l _ => ?_)
    dsimp only [Function.comp]
    split <;> rfl
  have hcodes : ((List.range 256).map (fun (l : Nat) => if b.writes u i.spar.val (b.oR + (v : Int)) (b.oC + (l : Int)) then some (lane v l) else none)).map
      (fun o => o.map (fun x => (x.code, x.mark))) = R.codes v := by
    rw [List.map_map]
    simp only [R, vecRows]
    refine List.map_congr_left (fun l _ => ?_)
    dsimp only [Function.comp]
    split <;> rfl
  have hlanes : laneWrites (d + v * 32 * bits) bits (R.codes v) = (R.ws v, R.keep v) := by
    rw [laneWrites_bytes hb (L := 128) (d + v * 32 * bits) (by simp [R, vecRows])]
    unfold RowSet.ws RowSet.keep
    rw [vecRows_base u b lane i.spar.val v hb, vecRows_len u b lane i.spar.val hb, show 2 * 128 * bits / 8 = 32 * bits by omega]
    rfl
  unfold vecWrite
  simp only [hw]
  rw [hrow, hdone, hcodes, hlanes]
  simp only [List.filter_map, List.length_map, List.any_map, Function.comp_def]
  rfl

end vecrows

/-! ### The part while a vector word comes about -/

/-- Nothing of the part has changed but its bays, clock, work in flight, registers, generator indices and the entries of the line signature; `G` says what the indices are. -/
def VecOnly (u : State) (G : Prop → List (Nat × BitVec 40) → Prop) (e : Prop) (t : State) : Prop :=
  ∃ (m : Mem) (es : List SigEntry) (l : List Flight) (y : Nat) (f : List (Nat × Nat)) (r : List (Nat × Word)) (g : List (Nat × BitVec 40)), G e g ∧
    t = { u with wire := [], fab := { u.fab with loft := m, flight := l, cyc := y, fresh := f, gen := g }, regs := r, rcd := { u.rcd with entries := es } }

/-- The same with the counters of spar n, after the stages before k: the lanes of the vectors before `done k` have counted. -/
structure VecFrame (u : State) (n : Nat) (b : Bounds) (lane : Nat → Nat → Lane) (done : Nat → Nat) (G : Prop → List (Nat × BitVec 40) → Prop) (k : Nat) (e : Prop) (t : State) : Prop where
  only : VecOnly u G e t
  counted : Counted u t n (laneCount u n b (fun v l => (lane v l).sat) (done k)) (laneCount u n b (fun v l => (lane v l).ufz) (done k))
    (laneCount u n b (fun v l => decide ((lane v l).poi ≠ 0)) (done k))

section vecframe
variable {u t : State} {n : Nat} {b : Bounds} {lane : Nat → Nat → Lane} {done : Nat → Nat} {G : Prop → List (Nat × BitVec 40) → Prop} {k : Nat} {e : Prop}

theorem VecFrame.plain (h : VecFrame u n b lane done G k e t) (hp : ∀ a, u.aliasPair 1 a = none ∧ u.fitAlias 1 a = none) (a : Nat) :
    t.aliasPair 1 a = none ∧ t.fitAlias 1 a = none := by
  have hr : ∀ x, x < 0x600000 → t.reg x = u.reg x := fun x hx => h.counted.regs x (by
    simp only [List.mem_cons, List.not_mem_nil, or_false, not_or]
    unfold A.sparSat A.sparUfz A.sparPoi
    omega)
  have hj : ∀ j, (t.job j).inStep = (u.job j).inStep := by
    obtain ⟨m, es, l, y, f, r, g, -, rfl⟩ := h.only
    exact fun _ => rfl
  obtain ⟨h1, h2⟩ := alias_congr hr hj 1 a
  rw [h1, h2]
  exact hp a

theorem VecFrame.segs (h : VecFrame u n b lane done G k e t) : t.fab.segs = u.fab.segs := by
  obtain ⟨m, es, l, y, f, r, g, -, rfl⟩ := h.only
  rfl

theorem VecFrame.keep (h : VecFrame u n b lane done G k e t) (m : Mem) (es : List SigEntry) (l : List Flight) (y : Nat) (f : List (Nat × Nat)) :
    VecFrame u n b lane done G k e { t with fab := { t.fab with loft := m, flight := l, cyc := y, fresh := f }, rcd := { t.rcd with entries := es } } := by
  refine ⟨?_, h.counted.congr rfl rfl⟩
  obtain ⟨m', es', l', y', f', r, g, hg, rfl⟩ := h.only
  exact ⟨m, es, l, y, f, r, g, hg, rfl⟩

theorem VecFrame.start (hG : G e u.fab.gen) (h0 : done 0 = 0) : VecFrame u n b lane done G 0 e { u with wire := [] } := by
  refine ⟨⟨u.fab.loft, u.rcd.entries, u.fab.flight, u.fab.cyc, u.fab.fresh, u.regs, u.fab.gen, hG, rfl⟩, ?_⟩
  rw [h0]
  exact (Counted.zero u n).congr rfl rfl

/-- A vector whose lanes have counted. -/
theorem VecFrame.count (h : VecFrame u n b lane done G k e t) {v : Nat} (hv : done k = v) (hv' : done (k + 1) = v + 1) :
    VecFrame u n b lane done G (k + 1) e (t.count n (((openRow u n b v).filter (fun x => (lane x.1 x.2).sat)).length) (((openRow u n b v).filter (fun x => (lane x.1 x.2).ufz)).length)
      (((openRow u n b v).filter (fun x => decide ((lane x.1 x.2).poi ≠ 0))).length) false) := by
  obtain ⟨hc, r, f, ev, he, hev⟩ := t.count_counted n (((openRow u n b v).filter (fun x => (lane x.1 x.2).sat)).length) (((openRow u n b v).filter (fun x => (lane x.1 x.2).ufz)).length)
    (((openRow u n b v).filter (fun x => decide ((lane x.1 x.2).poi ≠ 0))).length) false
  refine ⟨?_, ?_⟩
  · obtain ⟨m, es, l, y, f', r', g, hg, rfl⟩ := h.only
    rw [he, hev rfl]
    exact ⟨m, es, l, y, f, r, g, hg, rfl⟩
  · have := h.counted.trans hc
    rw [hv', laneCount_succ, laneCount_succ, laneCount_succ, ← hv]
    rw [← hv] at this
    exact this

end vecframe

/-! ### What a vector word leaves -/

/-- What a stage of a vector word comes to: it begins vector v with the lanes `lane v`, or nothing, and the next stage where one is left. -/
def VecStep (u : State) (i : Issue) (d bits nvec : Nat) (b : Bounds) (lane : Nat → Nat → Lane) (S : Nat → List (Nat × Nat) → Prop) (st done : Nat → Nat) (K : Nat) (t : State) (k : Nat)
    (acc : List (Nat × Nat)) (c : Nat) : Prop :=
  ∃ (acc' : List (Nat × Nat)) (c' : Nat), c' ≤ c + 1024 ∧ (k + 1 < K → S (k + 1) acc') ∧
    ((done (k + 1) = done k ∧ (∀ v, v < nvec → st v ≠ k) ∧
        runWork c (.stage i (u.hold i) k acc) t = nextStage (decide (k + 1 < K)) i (u.hold i) (k + 1) acc' c' t) ∨
      ∃ v wr, wr ≤ c + 1024 ∧ done k = v ∧ done (k + 1) = v + 1 ∧ v < nvec ∧ (∀ w, w < nvec → (st w = k ↔ w = v)) ∧
        runWork c (.stage i (u.hold i) k acc) t =
          nextStage (decide (k + 1 < K)) i (u.hold i) (k + 1) acc' c' (vecWrite t i (u.hold i) b d bits v wr ((List.range 256).map (lane v))))

/-- A vector word that issues: its destination lies in its bay, its lanes mark nothing and go back to no hard error, and each stage reads a sound bay in which only vectors before its own have
been overwritten. -/
structure VecWord (u : State) (i : Issue) (d bits nvec : Nat) (b : Bounds) (lane : Nat → Nat → Lane) (S : Nat → List (Nat × Nat) → Prop) (st done : Nat → Nat) (K : Nat) : Prop where
  quiet : QuietBay u i.spar.val
  width : bits = 4 ∨ bits = 8 ∨ bits = 16
  range : d + nvec * 32 * bits ≤ 0x600000
  lanes : ∀ v l, v < nvec → l < 256 → (lane v l).mark = 0 ∧ (lane v l).poi ≠ 2
  start : S 0 [] ∧ done 0 = 0 ∧ done K = nvec ∧ 0 < K ∧ K < 2 ^ 20 ∧ ∀ v, v < nvec → st v < K
  stage : ∀ {t : State} {k : Nat} {acc : List (Nat × Nat)} (c : Nat), k < K → S k acc → (∀ a, t.aliasPair 1 a = none ∧ t.fitAlias 1 a = none) → t.fab.loft.Clean →
    (∀ a, a < 2 ^ 23 → (∀ v, v < nvec → st v < k → a < d + v * 32 * bits ∨ d + v * 32 * bits + 32 * bits ≤ a) →
      t.fab.loft.fetch (bayKey i.spar.val a) = u.fab.loft.fetch (bayKey i.spar.val a)) → VecStep u i d bits nvec b lane S st done K t k acc c

section vecword
variable {u : State} {i : Issue} {d bits nvec : Nat} {b : Bounds} {lane : Nat → Nat → Lane} {S : Nat → List (Nat × Nat) → Prop} {st done : Nat → Nat} {K : Nat}
  (V : VecWord u i d bits nvec b lane S st done K)
include V

theorem VecWord.fits : (vecRows u i.spar.val d bits nvec b lane).Fits where
  bits := V.width
  codes := fun _ => by simp [vecRows]
  range := by
    have := V.range
    rw [vecRows_len u b lane i.spar.val V.width]
    simp only [vecRows]
    rw [← Nat.mul_assoc]
    omega
  apart := .inl (vecRows_unmarked u b lane i.spar.val (fun v l hv hl => (V.lanes v l hv hl).1))

theorem VecWord.rowsWord {X : Work → Prop} {G : Prop → List (Nat × BitVec 40) → Prop} (hX : ∀ {w}, X w → w.isStage = false ∧ ∀ v, ¬(vecRows u i.spar.val d bits nvec b lane).Row (u.hold i) v w)
    (hG : ∀ {w} (c : Nat) (t : State), X w → ∃ g, runWork c w t = { t with fab := { t.fab with gen := g } } ∧ (G True t.fab.gen → G False g)) :
    RowsWord (vecRows u i.spar.val d bits nvec b lane) i (u.hold i) X (VecFrame u i.spar.val b lane done G) S st K u.fab.loft where
  fits := V.fits
  plain := fun h => h.plain V.quiet.plain
  own := fun h g hg => V.quiet.own g (h.segs ▸ hg)
  keep := fun m es l y f h => h.keep m es l y f
  other := hX
  extra := by
    intro w k t c hx h
    obtain ⟨g, hrun, hg⟩ := hG c t hx
    rw [hrun]
    refine ⟨rfl, rfl, ?_, h.counted.congr rfl rfl⟩
    obtain ⟨m, es, l, y, f, r, g', hg', rfl⟩ := h.only
    exact ⟨m, es, l, y, f, r, g, hg hg', rfl⟩
  stage := by
    intro t k acc e pend c hk hS hFr hL
    have hbase := fun v => vecRows_base (d := d) (nvec := nvec) u b lane i.spar.val v V.width
    have hlen := vecRows_len (d := d) (nvec := nvec) u b lane i.spar.val V.width
    have hnil := hL.nil (vecRows_unmarked u b lane i.spar.val (fun v l hv hl => (V.lanes v l hv hl).1))
    have hkept : ∀ a, a < 2 ^ 23 → (∀ v, v < nvec → st v < k → a < d + v * 32 * bits ∨ d + v * 32 * bits + 32 * bits ≤ a) →
        t.fab.loft.fetch (bayKey i.spar.val a) = u.fab.loft.fetch (bayKey i.spar.val a) := fun a ha hb =>
      hL.fetch_kept V.fits V.quiet.flips V.quiet.marks ha (fun v hv hs => by rw [hbase, hlen]; exact hb v hv hs)
    obtain ⟨acc', c', hc', hS', ⟨hd, hst, hrun⟩ | ⟨v, wr, hwr, hd, hd', hv, hst, hrun⟩⟩ := V.stage c hk hS (hFr.plain V.quiet.plain) (Mem.clean_of_nil hnil hL.flips) hkept
    · refine ⟨_, ?_, ?_, ?_, rowsBegun (vs := []) (wr := fun _ => c) hk (fun v => ⟨fun h => absurd h List.not_mem_nil, fun h => absurd h.2 (hst v h.1)⟩) List.nodup_nil (by simp) (by omega) hc' hS'⟩
      · rw [hrun, nextStage_eq]
        rfl
      · rw [hrun, nextStage_eq]
      · rw [hrun, nextStage_eq]
        have h := hFr.keep t.fab.loft t.rcd.entries (t.fab.flight ++ if decide (k + 1 < K) = true then [⟨c', 3, .stage i (u.hold i) (k + 1) acc'⟩] else []) t.fab.cyc t.fab.fresh
        obtain ⟨h1, h2⟩ := h
        exact ⟨h1, by rw [hd]; exact h2⟩
    · have hsoft : (openRow u i.spar.val b v).any (fun x => decide ((lane x.1 x.2).poi = 2)) = false := by
        rw [List.any_eq_false]
        intro x hx
        obtain ⟨l, hl, he⟩ := List.mem_filterMap.mp hx
        split at he
        · obtain rfl := Option.some.inj he
          simpa using (V.lanes v l hv (List.mem_range.mp hl)).2
        · cases he
      rw [vecWrite_eq u i b lane (nvec := nvec) t V.width v wr, hsoft] at hrun
      have hstore := (vecRows u i.spar.val d bits nvec b lane).storeAt_stores (u.hold i) (fun _ => wr) t [v]
      generalize hfl : (vecRows u i.spar.val d bits nvec b lane).stores (u.hold i) (fun _ => wr) [v] = fl at hstore
      have hstore : t.storeAt (u.hold i) wr i.spar.val ((vecRows u i.spar.val d bits nvec b lane).ws v) ((vecRows u i.spar.val d bits nvec b lane).keep v) = _ := hstore
      rw [hstore] at hrun
      have hFr1 := (hFr.keep t.fab.loft t.rcd.entries (t.fab.flight ++ fl) t.fab.cyc t.fab.fresh).count hd hd'
      obtain ⟨-, r, f, ev, hcount, -⟩ := State.count_counted { t with fab := { t.fab with flight := t.fab.flight ++ fl } } i.spar.val
        (((openRow u i.spar.val b v).filter (fun x => (lane x.1 x.2).sat)).length) (((openRow u i.spar.val b v).filter (fun x => (lane x.1 x.2).ufz)).length)
        (((openRow u i.spar.val b v).filter (fun x => decide ((lane x.1 x.2).poi ≠ 0))).length) false
      refine ⟨fl ++ nextStages i (u.hold i) (decide (k + 1 < K)) (k + 1) c' acc', ?_, ?_, ?_, ?_⟩
      · rw [hrun, hcount, nextStage_eq, ← List.append_assoc]
        rfl
      · rw [hrun, hcount, nextStage_eq]
      · rw [hrun, nextStage_eq]
        rw [hcount] at hFr1 ⊢
        exact hFr1.keep t.fab.loft t.rcd.entries _ t.fab.cyc f
      · rw [← hfl]
        refine rowsBegun hk (fun w => ?_) (List.nodup_singleton v) (by simp) (fun _ _ => hwr) hc' hS'
        rw [List.mem_singleton]
        exact ⟨fun h => ⟨h ▸ hv, (hst w (h ▸ hv)).mpr h⟩, fun h => (hst w h.1).mp h.2⟩

/-- What a vector word leaves, a write of a generator index that it makes at once aside. -/
theorem VecWord.leaves {X : Work → Prop} {G : Prop → List (Nat × BitVec 40) → Prop}
    (hX : ∀ {w}, X w → w.isStage = false ∧ ∀ v, ¬(vecRows u i.spar.val d bits nvec b lane).Row (u.hold i) v w)
    (hG : ∀ {w} (c : Nat) (t : State), X w → ∃ g, runWork c w t = { t with fab := { t.fab with gen := g } } ∧ (G True t.fab.gen → G False g))
    {xs : List Flight} (hxs : ∀ x ∈ xs, X x.work ∧ x.c < 2 ^ 17) (hone : xs.length ≤ 1) (hg : G (∃ x ∈ xs, X x.work) u.fab.gen) :
    let t := settleAll { u with fab := { u.fab with flight := ⟨i.c.toNat, 3, .stage i (u.hold i) 0 []⟩ :: xs } }
    G False t.fab.gen ∧ VectorWrote u { t with fab := { t.fab with gen := u.fab.gen } } i.spar.val d bits nvec b lane := by
  intro t
  obtain ⟨hS, h0, hdone, hK, hK', hst⟩ := V.start
  obtain ⟨hcalm, hm, hf, hp, hown⟩ := V.quiet
  have W := V.rowsWord hX hG
  have hun : (vecRows u i.spar.val d bits nvec b lane).Unmarked := vecRows_unmarked u b lane i.spar.val (fun v l hv hl => (V.lanes v l hv hl).1)
  obtain ⟨hflight, hFr, hL⟩ := W.leaves (u := { u with fab := { u.fab with flight := ⟨i.c.toNat, 3, .stage i (u.hold i) 0 []⟩ :: xs } }) (t := t) i.c.isLt hK hK' hst hxs hone rfl hS
    ((VecFrame.start hg h0).keep u.fab.loft u.rcd.entries _ u.fab.cyc u.fab.fresh) rfl hf hm rfl
  have hnil := hL.nil hun
  have hpt := hFr.plain hp
  have hbase := fun v => vecRows_base (d := d) (nvec := nvec) u b lane i.spar.val v V.width
  have hlen := vecRows_len (d := d) (nvec := nvec) u b lane i.spar.val V.width
  have hrest : ∀ m a, a < 2 ^ 23 → (m ≠ i.spar.val ∨ a < d ∨ d + nvec * 32 * bits ≤ a) → t.loftByte m a = u.loftByte m a := by
    intro m a ha hout
    refine hL.loftByte_rest V.fits hpt hp hf hm ha ?_
    rw [hlen]
    simp only [vecRows]
    rwa [← Nat.mul_assoc]
  obtain ⟨m, es, l, y, fr, r, g, hg, ht⟩ := hFr.only
  have hgen : t.fab.gen = g := by rw [ht]
  have hfl : l = [] := by rw [ht] at hflight; exact hflight
  refine ⟨by rw [hgen]; exact hg, fun v l hv hl => ?_, fun _ => ⟨hnil, hL.flips⟩, fun a ha hout => ?_, fun m a _ hm ha => ?_, ?_, ?_, ?_, ?_, ?_⟩
  · have helem := hL.elem V.fits hst hpt hp hf hv (l := l) hl
    rw [vecRows_code u b lane i.spar.val v l hl, hbase] at helem
    refine helem.trans ?_
    split <;> rfl
  · exact hrest _ a (by omega) (.inr hout)
  · exact hrest m a (by omega) (.inl hm)
  · exact hFr.counted.regs
  · have := hFr.counted.sat
    rw [hdone] at this
    exact this
  · have := hFr.counted.ufz
    rw [hdone] at this
    exact this
  · have := hFr.counted.poi
    rw [hdone] at this
    exact this
  · subst hfl
    generalize t = t' at ht
    subst ht
    rfl

end vecword

end Sys2Proof.Machine

/-! SUPPORT. The vector words one by one: what their stages read and begin; from these, what each of them leaves. -/

namespace Sys2Proof.Machine

/-! ### What vector words read -/

/-- The elements of a vector that a word reads, as its issue found them. -/
def vecOf (u : State) (n : Nat) (b : Bounds) (base bits : Nat) (ty : Ety) (v : Nat) : List (Nat × Nat) := (List.range 256).map (vecEl u n b base bits ty v)

theorem vecEls_kept {t u : State} (hpt : ∀ a, t.aliasPair 1 a = none ∧ t.fitAlias 1 a = none) (hpu : ∀ a, u.aliasPair 1 a = none ∧ u.fitAlias 1 a = none) (i : Issue) (b : Bounds) {n base bits : Nat}
    (ty : Ety) {v : Nat} (hb : bits = 4 ∨ bits = 8 ∨ bits = 16)
    (h : ∀ j, j < 32 * bits → t.fab.loft.fetch (bayKey n (base + v * 32 * bits + j)) = u.fab.loft.fetch (bayKey n (base + v * 32 * bits + j))) :
    vecEls (t.held (u.hold i)) n b base bits ty v = vecOf u n b base bits ty v := by
  unfold vecEls vecOf
  refine List.map_congr_left (fun l hl => ?_)
  rw [List.mem_range] at hl
  unfold vecEl
  rw [elemAt_kept hpt hpu (u.hold i) hb (len := 32 * bits) (by rcases hb with rfl | rfl | rfl <;> omega) h]
  rfl

theorem vecEl_sound {u : State} (hc : u.fab.loft.Clean) (hp : ∀ a, u.aliasPair 1 a = none ∧ u.fitAlias 1 a = none) (n : Nat) (b : Bounds) (base bits : Nat) (ty : Ety) (v l : Nat) :
    (vecEl u n b base bits ty v l).2 = 0 := by
  unfold vecEl
  split
  · exact elemAt_sound hc hp _ _ _ _
  · rfl

/-- A vector of a source that is its destination, or apart from it, is not reached by the rows before its own. -/
theorem source_apart {d src bo bi nvec v a : Nat} (h : Apart d (nvec * 32 * bo) src (nvec * 32 * bi)) (hne : bi ≠ bo → d ≠ src) (hv : v < nvec) (ha : src + v * 32 * bi ≤ a)
    (ha' : a < src + v * 32 * bi + 32 * bi) {w : Nat} (hw : w < v) : a < d + w * 32 * bo ∨ d + w * 32 * bo + 32 * bo ≤ a := by
  have h1 : (v + 1) * (32 * bi) ≤ nvec * (32 * bi) := Nat.mul_le_mul_right _ hv
  have h2 : (w + 1) * (32 * bo) ≤ v * (32 * bo) := Nat.mul_le_mul_right _ hw
  have h3 : (v + 1) * (32 * bo) ≤ nvec * (32 * bo) := Nat.mul_le_mul_right _ hv
  rw [Nat.add_one_mul, ← Nat.mul_assoc, ← Nat.mul_assoc] at h1 h2 h3
  rcases h with rfl | h | h
  · by_cases he : bi = bo
    · subst he
      omega
    · exact absurd rfl (hne he)
  · omega
  · omega

/-! ### Decoding -/

theorem decVec_some {opcode : Nat} {i : Issue} {f : VecF} (h : decVec opcode i = some f) : opOf i.word = opcode ∧ 0 < f.nvec ∧ f.nvec < 1024 := by
  unfold decVec at h
  dsimp only at h
  split at h
  · cases h
  · split at h
    · cases h
    · split at h
      next hc =>
        obtain rfl := Option.some.inj h
        have : fld i.word 21 12 < 2 ^ (21 + 1 - 12) := fld_lt _ _ _
        exact ⟨headOk_op hc.1, Nat.pos_of_ne_zero hc.2.2.1, by dsimp only; omega⟩
      · cases h

theorem decBin_some {opcode : Nat} {s : State} {i : Issue} {f : VecF} (h : decBin opcode s i = some f) : opOf i.word = opcode ∧ 0 < f.nvec ∧ f.nvec < 1024 := by
  unfold decBin at h
  split at h
  next hv =>
    split at h
    · obtain rfl := Option.some.inj h
      exact decVec_some hv
    · cases h
  · cases h

theorem decUn_some {opcode m : Nat} {s : State} {i : Issue} {f : VecF} (h : decUn opcode m s i = some f) : opOf i.word = opcode ∧ 0 < f.nvec ∧ f.nvec < 1024 := by
  unfold decUn at h
  split at h
  next hv =>
    split at h
    · obtain rfl := Option.some.inj h
      exact decVec_some hv
    · cases h
  · cases h

theorem decVgen_some {s : State} {i : Issue} {f : VecF} (h : decVgen s i = some f) : opOf i.word = 0x5E ∧ 0 < f.nvec ∧ f.nvec < 1024 := by
  unfold decVgen at h
  split at h
  next hv =>
    split at h
    · obtain rfl := Option.some.inj h
      exact decVec_some hv
    · cases h
  · cases h

theorem decVred_some {s : State} {i : Issue} {f : VecF} (h : decVred s i = some f) : opOf i.word = 0x5D ∧ 0 < f.nvec ∧ f.nvec < 1024 := by
  unfold decVred at h
  split at h
  next hv =>
    rw [Option.ite_none_right_eq_some] at h
    obtain rfl := Option.some.inj h.2
    exact decVec_some hv
  · cases h

/-! ### What a word leaves that writes no register -/

theorem VecWord.leavesStaged {u : State} {i : Issue} {d bits nvec : Nat} {b : Bounds} {lane : Nat → Nat → Lane} {S : Nat → List (Nat × Nat) → Prop} {st done : Nat → Nat} {K : Nat}
    (V : VecWord u i d bits nvec b lane S st done K) {α : Type} (f : α) : VectorWrote u (settleAll (staged f i (u.hold i) u)) i.spar.val d bits nvec b lane := by
  obtain ⟨hgen, hw⟩ := V.leaves (X := fun _ => False) (G := fun _ g => g = u.fab.gen) (fun h => h.elim) (fun _ _ h => h.elim) (xs := []) (by simp) (by simp) rfl
  have hbegin : staged f i (u.hold i) u = { u with fab := { u.fab with flight := ⟨i.c.toNat, 3, .stage i (u.hold i) 0 []⟩ :: [] } } := by
    unfold staged State.later
    rw [V.quiet.calm]
    rfl
  rw [← hbegin] at hgen hw
  rw [← hgen] at hw
  exact hw

/-! ### Binary words -/

section bin
variable (u : State) (n : Nat) (f : VecF) (fma : Bool) (ty : Ety) (op : Nat → Nat → Nat → Nat → Lane)

/-- The operands of lane l of vector v. -/
def binX (v l : Nat) : Nat × Nat := vecEl u n f.bnd (effAddr u n f.src1) 16 ty v l
def binY (v l : Nat) : Nat × Nat := if f.s2k = 0 then vecEl u n f.bnd (effAddr u n f.src2) 16 ty v l else (binScalar u n f, 0)
def binZ (v l : Nat) : Nat × Nat := if fma then vecEl u n f.bnd (effAddr u n f.dst) 16 ty v l else (0, 0)

/-- Lane l of vector v of a binary word. -/
def binLane (v l : Nat) : Lane :=
  op (max (max (binX u n f ty v l).2 (binY u n f ty v l).2) (binZ u n f fma ty v l).2) (binX u n f ty v l).1 (binY u n f ty v l).1 (binZ u n f fma ty v l).1

/-- What a binary word carries from stage to stage: the operands of its vector that it has read. -/
def binCarry (k : Nat) (acc : List (Nat × Nat)) : Prop :=
  acc = (List.range (k % binReads fma f)).flatMap (fun j => vecOf u n f.bnd (binSrc u n f j) 16 ty (k / binReads fma f))

end bin

theorem binReads_cases (fma : Bool) (f : VecF) : binReads fma f = 1 + (if f.s2k = 0 then 1 else 0) + if fma then 1 else 0 := by
  unfold binReads b2n
  simp

theorem map_range_const {α : Type} (a : α) (k : Nat) : (List.range k).map (fun _ => a) = List.replicate k a := by
  rw [List.map_const', List.length_range]

/-- A block of a list of blocks of one length. -/
theorem flatMap_block {α : Type} (g : Nat → List α) {len m : Nat} (hg : ∀ j, (g j).length = len) {j : Nat} (hj : j < m) :
    (((List.range m).flatMap g).drop (len * j)).take len = g j := by
  induction m with
  | zero => omega
  | succ m ih =>
    have hl : ((List.range m).flatMap g).length = len * m := by
      rw [List.length_flatMap]
      simp [hg, Nat.mul_comm]
    rw [List.range_succ, List.flatMap_append]
    simp only [List.flatMap_cons, List.flatMap_nil, List.append_nil]
    rcases Nat.lt_succ_iff_lt_or_eq.mp hj with hj | rfl
    · have hle : len * j + len ≤ len * m := by
        have := Nat.mul_le_mul_left len (Nat.succ_le_of_lt hj)
        rwa [Nat.mul_succ] at this
      rw [List.drop_append_of_le_length (by omega), List.take_append_of_le_length (by rw [List.length_drop]; omega), ih hj]
    · rw [← hl, List.drop_left, ← hg j, List.take_length]

section bin
variable {u : State} {i : Issue} {f : VecF} {fma : Bool} {ty : Ety} {op : Nat → Nat → Nat → Nat → Lane}

/-- The lanes that the last stage of a vector makes of what the word has read. -/
theorem binLanes (n v : Nat) : let nl := binReads fma f
    let acc := (List.range nl).flatMap (fun j => vecOf u n f.bnd (binSrc u n f j) 16 ty v)
    let ys := if f.s2k = 0 then (acc.drop 256).take 256 else List.replicate 256 (binScalar u n f, 0)
    let zs := if fma then acc.drop (256 * (nl - 1)) else List.replicate 256 (0, 0)
    (((acc.take 256).zip ys).zip zs).map (fun x => op (max (max x.1.1.2 x.1.2.2) x.2.2) x.1.1.1 x.1.2.1 x.2.1) = (List.range 256).map (binLane u n f fma ty op v) := by
  intro nl acc ys zs
  have hlen : ∀ j, (vecOf u n f.bnd (binSrc u n f j) 16 ty v).length = 256 := fun j => by simp [vecOf]
  have hblock := fun j (hj : j < nl) => flatMap_block (fun j => vecOf u n f.bnd (binSrc u n f j) 16 ty v) hlen hj
  have hnl : nl = 1 + (if f.s2k = 0 then 1 else 0) + if fma then 1 else 0 := binReads_cases fma f
  have hx : acc.take 256 = (List.range 256).map (binX u n f ty v) := by
    have := hblock 0 (by omega)
    rw [Nat.mul_zero, List.drop_zero] at this
    exact this
  have hy : ys = (List.range 256).map (binY u n f ty v) := by
    unfold ys
    by_cases h0 : f.s2k = 0
    · have := hblock 1 (by rw [hnl, if_pos h0]; omega)
      rw [Nat.mul_one] at this
      rw [if_pos h0]
      refine this.trans (List.map_congr_left (fun l _ => ?_))
      unfold binY binSrc
      rw [if_pos h0, if_neg (by omega), if_pos ⟨rfl, h0⟩]
    · rw [if_neg h0, ← map_range_const]
      exact List.map_congr_left (fun l _ => by rw [binY, if_neg h0])
  have hz : zs = (List.range 256).map (binZ u n f fma ty v) := by
    unfold zs
    cases fma with
    | true =>
      have hb := hblock (nl - 1) (by omega)
      have hl : acc.length = 256 * nl := by
        unfold acc
        rw [List.length_flatMap]
        simp [hlen, Nat.mul_comm]
      rw [List.take_of_length_le (by rw [List.length_drop, hl]; omega)] at hb
      rw [if_pos rfl]
      refine hb.trans (List.map_congr_left (fun l _ => ?_))
      have hj : ¬(nl - 1 = 0) ∧ ¬(nl - 1 = 1 ∧ f.s2k = 0) := by
        rw [hnl, if_pos rfl]
        split <;> omega
      unfold binZ binSrc
      rw [if_pos rfl, if_neg hj.1, if_neg hj.2]
    | false =>
      rw [if_neg (by simp), ← map_range_const]
      rfl
  rw [hx, hy, hz, List.zip_map', List.zip_map', List.map_map]
  rfl

theorem chkBin_none {n : Nat} (hn : i.spar.val = n) (h : chkBin fma (u.held (u.hold i)) i f = none) : ∀ j, j < binReads fma f → binSrc u n f j + f.nvec * 512 ≤ 0x600000 ∧
    effAddr u n f.dst + f.nvec * 512 ≤ 0x600000 := by
  subst hn
  have hall := loftCheck_none h
  have hd : effAddr u i.spar.val f.dst + f.nvec * 512 ≤ 0x600000 := (hall (effAddr u i.spar.val f.dst, f.nvec * 512, 64) (by simp [effAddr_hold])).1
  intro j hj
  refine ⟨?_, hd⟩
  unfold binSrc
  split
  · exact (hall (effAddr u i.spar.val f.src1, f.nvec * 512, 64) (by simp [effAddr_hold])).1
  · split
    next h0 => exact (hall (effAddr u i.spar.val f.src2, f.nvec * 512, 64) (by simp [effAddr_hold, h0.2])).1
    · exact hd

theorem binReads_bounds (fma : Bool) (f : VecF) : 1 ≤ binReads fma f ∧ binReads fma f ≤ 3 := by
  rw [binReads_cases]
  split <;> split <;> omega

/-- The read after the last of a vector is the first of the next. -/
theorem succ_of_last {k m : Nat} (hm : 0 < m) (h : k % m + 1 = m) : k + 1 = (k / m + 1) * m ∧ (k + 1) / m = k / m + 1 ∧ (k + 1) % m = 0 := by
  have hk : k + 1 = (k / m + 1) * m := by
    have := Nat.div_add_mod' k m
    rw [Nat.add_one_mul]
    omega
  refine ⟨hk, ?_, ?_⟩
  · rw [hk, Nat.mul_div_cancel _ hm]
  · rw [hk, Nat.mul_mod_left]

/-- The read after another is of the same vector. -/
theorem succ_of_not_last {k m : Nat} (h : k % m + 1 < m) : (k + 1) / m = k / m ∧ (k + 1) % m = k % m + 1 := by
  have hk : k + 1 = (k % m + 1) + m * (k / m) := by
    have := Nat.div_add_mod k m
    omega
  constructor
  · rw [hk, Nat.add_mul_div_left _ _ (by omega), Nat.div_eq_of_lt h, Nat.zero_add]
  · rw [hk, Nat.add_mul_mod_self_left, Nat.mod_eq_of_lt h]

/-- A stage of a binary word reads an operand of its vector; the last one begins the vector's write. -/
theorem bin_vecStep (hq : QuietBay u i.spar.val) (ha1 : Apart (effAddr u i.spar.val f.dst) (f.nvec * 512) (effAddr u i.spar.val f.src1) (f.nvec * 512))
    (ha2 : f.s2k = 0 → Apart (effAddr u i.spar.val f.dst) (f.nvec * 512) (effAddr u i.spar.val f.src2) (f.nvec * 512)) (hchk : chkBin fma (u.held (u.hold i)) i f = none)
    (hrun : ∀ k acc c t, runWork c (.stage i (u.hold i) k acc) t = binStage fma ty op f i (u.hold i) k acc c t) {t : State} {k : Nat} {acc : List (Nat × Nat)} (c : Nat)
    (hk : k < f.nvec * binReads fma f) (hS : binCarry u i.spar.val f fma ty k acc) (hpt : ∀ a, t.aliasPair 1 a = none ∧ t.fitAlias 1 a = none) (hct : t.fab.loft.Clean)
    (hkept : ∀ a, a < 2 ^ 23 → (∀ v, v < f.nvec → v * binReads fma f + (binReads fma f - 1) < k →
      a < effAddr u i.spar.val f.dst + v * 32 * 16 ∨ effAddr u i.spar.val f.dst + v * 32 * 16 + 32 * 16 ≤ a) →
      t.fab.loft.fetch (bayKey i.spar.val a) = u.fab.loft.fetch (bayKey i.spar.val a)) :
    VecStep u i (effAddr u i.spar.val f.dst) 16 f.nvec f.bnd (binLane u i.spar.val f fma ty op) (binCarry u i.spar.val f fma ty)
      (fun v => v * binReads fma f + (binReads fma f - 1)) (fun k => k / binReads fma f) (f.nvec * binReads fma f) t k acc c := by
  have hp := hq.plain
  have hck := chkBin_none rfl hchk
  obtain ⟨hnl0, hnl3⟩ := binReads_bounds fma f
  have hdm := Nat.div_add_mod k (binReads fma f)
  have hmod := Nat.mod_lt k hnl0
  have hv : k / binReads fma f < f.nvec := Nat.div_lt_of_lt_mul (by rwa [Nat.mul_comm])
  rw [Nat.mul_comm] at hdm
  have hst : ∀ w, w * binReads fma f + (binReads fma f - 1) < k → w < k / binReads fma f := by
    intro w hw
    by_contra hge
    have := Nat.mul_le_mul_right (binReads fma f) (Nat.le_of_not_lt hge)
    omega
  have hread : vecEls (t.held (u.hold i)) i.spar.val f.bnd (binSrc u i.spar.val f (k % binReads fma f)) 16 ty (k / binReads fma f) =
      vecOf u i.spar.val f.bnd (binSrc u i.spar.val f (k % binReads fma f)) 16 ty (k / binReads fma f) := by
    refine vecEls_kept hpt hp i f.bnd ty (.inr (.inr rfl)) (fun j hj => hkept _ ?_ (fun w hw hs => ?_))
    · have := (hck _ hmod).1
      have : (k / binReads fma f + 1) * (32 * 16) ≤ f.nvec * (32 * 16) := Nat.mul_le_mul_right _ hv
      omega
    · have hap : Apart (effAddr u i.spar.val f.dst) (f.nvec * 32 * 16) (binSrc u i.spar.val f (k % binReads fma f)) (f.nvec * 32 * 16) := by
        rw [Nat.mul_assoc]
        unfold binSrc
        split
        · exact ha1
        · split
          next h0 => exact ha2 h0.2
          · exact .inl rfl
      exact source_apart hap (fun h => absurd rfl h) hv (Nat.le_add_right _ _) (by omega) (hst w hs)
  have hsrc : ∀ j, binSrc (t.held (u.hold i)) i.spar.val f j = binSrc u i.spar.val f j := fun _ => rfl
  have hscalar : binScalar (t.held (u.hold i)) i.spar.val f = binScalar u i.spar.val f := rfl
  have hd : effAddr (t.held (u.hold i)) i.spar.val f.dst = effAddr u i.spar.val f.dst := rfl
  rw [VecStep, hrun]
  unfold binStage
  simp only [hsrc, hread, hscalar, hd, portReads_sound hct]
  rw [hS]
  have hacc : (List.range (k % binReads fma f)).flatMap (fun j => vecOf u i.spar.val f.bnd (binSrc u i.spar.val f j) 16 ty (k / binReads fma f)) ++
      vecOf u i.spar.val f.bnd (binSrc u i.spar.val f (k % binReads fma f)) 16 ty (k / binReads fma f) =
      (List.range (k % binReads fma f + 1)).flatMap (fun j => vecOf u i.spar.val f.bnd (binSrc u i.spar.val f j) 16 ty (k / binReads fma f)) := by
    rw [List.range_succ, List.flatMap_append]
    simp
  rw [hacc]
  by_cases hlast : k % binReads fma f + 1 = binReads fma f
  · obtain ⟨hk1, hdiv, hmod1⟩ := succ_of_last hnl0 hlast
    refine ⟨[], c + 1, by omega, fun _ => ?_, .inr ⟨k / binReads fma f, c + (if fma then 6 else 5), by split <;> omega, rfl, hdiv, hv, fun w _ => ?_, ?_⟩⟩
    · unfold binCarry
      rw [hmod1]
      rfl
    · constructor
      · intro h
        have h1 : (w + 1) * binReads fma f = (k / binReads fma f + 1) * binReads fma f := by rw [← hk1, Nat.add_one_mul]; omega
        have := Nat.eq_of_mul_eq_mul_right (by omega) h1
        omega
      · rintro rfl
        omega
    · rw [if_pos (decide_eq_true hlast), hlast, binLanes]
  · obtain ⟨hdiv, hmod1⟩ := succ_of_not_last (show k % binReads fma f + 1 < binReads fma f by omega)
    refine ⟨_, c + 1, by omega, fun _ => ?_, .inl ⟨hdiv, fun w _ h => ?_, (if_neg (by simpa using hlast)).trans rfl⟩⟩
    · unfold binCarry
      rw [hmod1, hdiv]
    · have hw : w = k / binReads fma f := by
        rw [← h, Nat.add_comm, Nat.add_mul_div_right _ _ (by omega), Nat.div_eq_of_lt (by omega), Nat.zero_add]
      rw [← hw] at hdm
      omega

/-- A binary word that issues is a vector word: it reads its operands one after the other, and writes a vector with the last of them. -/
theorem bin_vecWord (hq : QuietBay u i.spar.val) (ha1 : Apart (effAddr u i.spar.val f.dst) (f.nvec * 512) (effAddr u i.spar.val f.src1) (f.nvec * 512))
    (ha2 : f.s2k = 0 → Apart (effAddr u i.spar.val f.dst) (f.nvec * 512) (effAddr u i.spar.val f.src2) (f.nvec * 512)) (hn : 0 < f.nvec) (hn' : f.nvec < 1024)
    (hchk : chkBin fma (u.held (u.hold i)) i f = none) (hop : ∀ x y z, (op 0 x y z).mark = 0 ∧ (op 0 x y z).poi ≠ 2)
    (hrun : ∀ k acc c t, runWork c (.stage i (u.hold i) k acc) t = binStage fma ty op f i (u.hold i) k acc c t) :
    VecWord u i (effAddr u i.spar.val f.dst) 16 f.nvec f.bnd (binLane u i.spar.val f fma ty op) (binCarry u i.spar.val f fma ty)
      (fun v => v * binReads fma f + (binReads fma f - 1)) (fun k => k / binReads fma f) (f.nvec * binReads fma f) := by
  obtain ⟨hcalm, hm, hf, hp, -⟩ := id hq
  have hc : u.fab.loft.Clean := Mem.clean_of_nil hm hf
  have hck := chkBin_none rfl hchk
  obtain ⟨hnl0, hnl3⟩ := binReads_bounds fma f
  refine ⟨hq, .inr (.inr rfl), ?_, fun v l _ _ => ?_, ⟨?_, ?_, ?_, ?_, ?_, fun v hv => ?_⟩,
    fun c hk hS hpt hct hkept => bin_vecStep hq ha1 ha2 hchk hrun c hk hS hpt hct hkept⟩
  · have := (hck 0 (by omega)).2
    omega
  · have hx : (binX u i.spar.val f ty v l).2 = 0 := vecEl_sound hc hp _ _ _ _ _ _ _
    have hy : (binY u i.spar.val f ty v l).2 = 0 := by
      unfold binY
      split
      · exact vecEl_sound hc hp _ _ _ _ _ _ _
      · rfl
    have hz : (binZ u i.spar.val f fma ty v l).2 = 0 := by
      unfold binZ
      split
      · exact vecEl_sound hc hp _ _ _ _ _ _ _
      · rfl
    unfold binLane
    rw [hx, hy, hz]
    exact hop _ _ _
  · simp [binCarry]
  · exact Nat.zero_div _
  · exact Nat.mul_div_cancel _ hnl0
  · exact Nat.mul_pos hn hnl0
  · have : f.nvec * binReads fma f ≤ 1024 * 3 := Nat.mul_le_mul hn'.le hnl3
    omega
  · have : (v + 1) * binReads fma f ≤ f.nvec * binReads fma f := Nat.mul_le_mul_right _ hv
    rw [Nat.add_one_mul] at this
    omega

end bin

/-- The stages of a binary word are those of its operation (R160, R161). -/
theorem runWork_bin {i : Issue} {opcode : Nat} {f : VecF} (ho : opOf i.word = opcode) (hlo : 0x50 ≤ opcode) (hhi : opcode ≤ 0x5A) (hd : ∀ t, decBin opcode t i = some f) (h : Held) (k : Nat)
    (acc : List (Nat × Nat)) (c : Nat) (t : State) : runWork c (.stage i h k acc) t = binOf opcode f i h k acc c t := by
  have hstage : stageOf i h k acc c t = stageWith (decBin opcode) (binOf opcode) i h k acc c t := by
    unfold stageOf
    split <;> try omega
    rw [ho]
  rw [runWork, hstage, stageWith, hd]

/-- What a binary word leaves. -/
theorem binWord_wrote {s : State} {i : Issue} {opcode : Nat} {f : VecF} {fma : Bool} (ty : Ety) (op : Nat → Nat → Nat → Nat → Lane) (hq : QuietBay (s.atIssue i) i.spar.val)
    (ha1 : Apart (effAddr (s.atIssue i) i.spar.val f.dst) (f.nvec * 512) (effAddr (s.atIssue i) i.spar.val f.src1) (f.nvec * 512))
    (ha2 : f.s2k = 0 → Apart (effAddr (s.atIssue i) i.spar.val f.dst) (f.nvec * 512) (effAddr (s.atIssue i) i.spar.val f.src2) (f.nvec * 512))
    (hi : Issues s i (decBin opcode) (chkBin fma) f) (hlo : 0x50 ≤ opcode) (hhi : opcode ≤ 0x5A) (hb : binOf opcode = binStage fma ty op) (hop : ∀ x y z, (op 0 x y z).mark = 0 ∧ (op 0 x y z).poi ≠ 2) :
    VectorWrote (s.atIssue i) (settleAll (staged f i ((s.atIssue i).hold i) (s.atIssue i))) i.spar.val (effAddr (s.atIssue i) i.spar.val f.dst) 16 f.nvec f.bnd
      (binLane (s.atIssue i) i.spar.val f fma ty op) := by
  obtain ⟨-, hdec, hchk⟩ := hi
  obtain ⟨ho, hn, hn'⟩ := decBin_some hdec
  refine (bin_vecWord hq ha1 ha2 hn hn' hchk hop (fun k acc c t => ?_)).leavesStaged f
  rw [runWork_bin ho hlo hhi (fun t => hdec), hb]

theorem laneBf_sound (r : Step16) : (laneBf 0 r).mark = 0 ∧ (laneBf 0 r).poi ≠ 2 := by
  unfold laneBf
  rw [if_neg (by decide)]
  cases r with
  | ok c => exact ⟨rfl, by dsimp only; decide⟩
  | bad => exact ⟨rfl, by decide⟩

theorem laneS16_sound (v : Int) : (laneS16 0 v).mark = 0 ∧ (laneS16 0 v).poi ≠ 2 := by
  unfold laneS16
  rw [if_neg (by decide)]
  split
  · exact ⟨rfl, by dsimp only; decide⟩
  · split <;> exact ⟨rfl, by dsimp only; decide⟩

/-- The second operand of a binary word, as R250 gives it. -/
theorem binY_eq (u : State) (n : Nat) (f : VecF) (ty : Ety) (v l : Nat) : binY u n f ty v l =
    if f.s2k = 0 then vecEl u n f.bnd (effAddr u n f.src2) 16 ty v l else if f.s2k = 1 then ((u.sReg n f.src2).toNat % 65536, 0) else (f.src2 % 65536, 0) := by
  unfold binY binScalar
  split
  · rfl
  · split <;> rfl

theorem binaryVectorWords : Sys2Proof.Stated.BinaryVectorWords := by
  intro s i f u n d x y z bf s16 hq ha1 ha2 is
  have hy : ∀ ty v l, y ty v l = binY u n f ty v l := fun ty v l => (binY_eq u n f ty v l).symm
  have hbf : ∀ op, binLane u n f false (.el .bf16) (fun p a b _ => laneBf p (op a b)) = bf op := fun op => by
    funext v l
    simp only [bf, hy, binLane, binZ, Bool.false_eq_true, if_false, Nat.max_zero]
    rfl
  have hs16 : ∀ op : Int → Int → Int, binLane u n f false .s16 (fun p a b _ => laneS16 p (op (toSigned 16 a) (toSigned 16 b))) = s16 op := fun op => by
    funext v l
    simp only [s16, hy, binLane, binZ, Bool.false_eq_true, if_false, Nat.max_zero]
    rfl
  have words {opcode : Nat} {c : Instr} (ty : Ety) (op : Nat → Nat → Nat → Nat → Lane) (hc : exec c s = commandWord (issueWord (decBin opcode) (chkBin false) staged) i s) (hlo : 0x50 ≤ opcode)
      (hhi : opcode ≤ 0x5A) (hb : binOf opcode = binStage false ty op) (hop : ∀ x y z, (op 0 x y z).mark = 0 ∧ (op 0 x y z).poi ≠ 2) : is opcode c (binLane u n f false ty op) := fun hi =>
    ⟨_, hc.trans (commandWord_begins staged hi), binWord_wrote ty op hq ha1 ha2 hi hlo hhi hb hop⟩
  have floats {opcode : Nat} {c : Instr} (op : Nat → Nat → Step16) (hc : exec c s = commandWord (issueWord (decBin opcode) (chkBin false) staged) i s) (hlo : 0x50 ≤ opcode) (hhi : opcode ≤ 0x5A)
      (hb : binOf opcode = bfStage op) : is opcode c (bf op) := hbf op ▸ words (.el .bf16) (fun p a b _ => laneBf p (op a b)) hc hlo hhi hb (fun _ _ _ => laneBf_sound _)
  have ints {opcode : Nat} {c : Instr} (op : Int → Int → Int) (hc : exec c s = commandWord (issueWord (decBin opcode) (chkBin false) staged) i s) (hlo : 0x50 ≤ opcode) (hhi : opcode ≤ 0x5A)
      (hb : binOf opcode = s16Stage op) : is opcode c (s16 op) :=
    hs16 op ▸ words .s16 (fun p a b _ => laneS16 p (op (toSigned 16 a) (toSigned 16 b))) hc hlo hhi hb (fun _ _ _ => laneS16_sound _)
  refine ⟨floats bfAdd rfl (by decide) (by decide) rfl, floats bfSub rfl (by decide) (by decide) rfl, floats bfMul rfl (by decide) (by decide) rfl,
    floats (bfMaxMin true) rfl (by decide) (by decide) rfl, floats (bfMaxMin false) rfl (by decide) (by decide) rfl, ints (· + ·) rfl (by decide) (by decide) rfl,
    ints (· - ·) rfl (by decide) (by decide) rfl, ints (· * ·) rfl (by decide) (by decide) rfl, ints max rfl (by decide) (by decide) rfl, ints min rfl (by decide) (by decide) rfl, fun hi => ?_⟩
  refine ⟨_, commandWord_begins staged hi, ?_⟩
  have hfma : binLane u n f true (.el .bf16) (fun p a b c => laneBf p (bfFma a b c)) =
      fun v l => laneBf (max (max (x (.el .bf16) v l).2 (y (.el .bf16) v l).2) (z v l).2) (bfFma (x (.el .bf16) v l).1 (y (.el .bf16) v l).1 (z v l).1) := by
    funext v l
    simp only [hy]
    rfl
  rw [← hfma]
  exact binWord_wrote (.el .bf16) _ hq ha1 ha2 hi (by decide) (by decide) rfl (fun _ _ _ => laneBf_sound _)

/-! ### Words of one stage per vector -/

section single
variable {u : State} {i : Issue} {d bits nvec : Nat} {b : Bounds} {lane : Nat → Nat → Lane}

/-- A word whose stage v begins vector v is a vector word. -/
theorem single_vecWord (hq : QuietBay u i.spar.val) (hb : bits = 4 ∨ bits = 8 ∨ bits = 16) (hrange : d + nvec * 32 * bits ≤ 0x600000) (hn : 0 < nvec) (hn' : nvec < 1024)
    (hlane : ∀ v l, (lane v l).mark = 0 ∧ (lane v l).poi ≠ 2) {dc dw : Nat} (hdc : dc ≤ 1024) (hdw : dw ≤ 1024)
    (hrun : ∀ (t : State) (v : Nat) (acc : List (Nat × Nat)) (c : Nat), v < nvec → (∀ a, t.aliasPair 1 a = none ∧ t.fitAlias 1 a = none) → t.fab.loft.Clean →
      (∀ a, a < 2 ^ 23 → (∀ w, w < nvec → w < v → a < d + w * 32 * bits ∨ d + w * 32 * bits + 32 * bits ≤ a) →
        t.fab.loft.fetch (bayKey i.spar.val a) = u.fab.loft.fetch (bayKey i.spar.val a)) →
      runWork c (.stage i (u.hold i) v acc) t =
        nextStage (decide (v + 1 < nvec)) i (u.hold i) (v + 1) [] (c + dc) (vecWrite t i (u.hold i) b d bits v (c + dw) ((List.range 256).map (lane v)))) :
    VecWord u i d bits nvec b lane (fun _ _ => True) id id nvec where
  quiet := hq
  width := hb
  range := hrange
  lanes := fun v l _ _ => hlane v l
  start := ⟨trivial, rfl, rfl, hn, by omega, fun _ hv => hv⟩
  stage := fun {t v acc} c hv _ hp hc hk =>
    ⟨[], c + dc, Nat.add_le_add_left hdc c, fun _ => trivial, .inr ⟨v, c + dw, Nat.add_le_add_left hdw c, rfl, rfl, hv, fun _ _ => Iff.rfl, hrun t v acc c hv hp hc hk⟩⟩

/-- A word that reads each vector of its source as it begins the same vector of its destination. -/
theorem unary_vecWord {f : VecF} {bi bo : Nat} {ty : Ety} {out : Nat × Nat → Lane} (hq : QuietBay u i.spar.val) (hbi : bi = 4 ∨ bi = 8 ∨ bi = 16) (hbo : bo = 4 ∨ bo = 8 ∨ bo = 16)
    (hchk : chkUn bi bo (u.held (u.hold i)) i f = none) (hn : 0 < f.nvec) (hn' : f.nvec < 1024)
    (hap : Apart (effAddr u i.spar.val f.dst) (f.nvec * 32 * bo) (effAddr u i.spar.val f.src1) (f.nvec * 32 * bi)) (hne : bi ≠ bo → effAddr u i.spar.val f.dst ≠ effAddr u i.spar.val f.src1)
    (hout : ∀ x, x.2 = 0 → (out x).mark = 0 ∧ (out x).poi ≠ 2) {dc dw : Nat} (hdc : dc ≤ 1024) (hdw : dw ≤ 1024)
    (hrun : ∀ (t : State) (v : Nat) (acc : List (Nat × Nat)) (c : Nat), runWork c (.stage i (u.hold i) v acc) t =
      nextStage (decide (v + 1 < f.nvec)) i (u.hold i) (v + 1) [] (c + dc)
        (vecWrite (t.portReads (u.hold i) i.spar.val (vecAccs (t.held (u.hold i)) i.spar.val f.bnd (effAddr u i.spar.val f.src1) bi v)) i (u.hold i) f.bnd (effAddr u i.spar.val f.dst) bo v (c + dw)
          ((vecEls (t.held (u.hold i)) i.spar.val f.bnd (effAddr u i.spar.val f.src1) bi ty v).map out))) :
    VecWord u i (effAddr u i.spar.val f.dst) bo f.nvec f.bnd (fun v l => out (vecEl u i.spar.val f.bnd (effAddr u i.spar.val f.src1) bi ty v l)) (fun _ _ => True) id id f.nvec := by
  obtain ⟨-, hm, hf, hp, -⟩ := id hq
  have hall := loftCheck_none hchk
  have hsrc : effAddr u i.spar.val f.src1 + f.nvec * 32 * bi ≤ 0x600000 := (hall (effAddr u i.spar.val f.src1, f.nvec * 32 * bi, 64) (by simp [effAddr_hold])).1
  have hdst : effAddr u i.spar.val f.dst + f.nvec * 32 * bo ≤ 0x600000 := (hall (effAddr u i.spar.val f.dst, f.nvec * 32 * bo, 64) (by simp [effAddr_hold])).1
  refine single_vecWord hq hbo hdst hn hn' (fun v l => ?_) hdc hdw (fun t v acc c hv hpt hct hkept => ?_)
  · exact hout _ (vecEl_sound (Mem.clean_of_nil hm hf) hp _ _ _ _ _ _ _)
  · have hread : vecEls (t.held (u.hold i)) i.spar.val f.bnd (effAddr u i.spar.val f.src1) bi ty v = vecOf u i.spar.val f.bnd (effAddr u i.spar.val f.src1) bi ty v := by
      refine vecEls_kept hpt hp i f.bnd ty hbi (fun j hj => hkept _ ?_ (fun w _ hw => source_apart hap hne hv (Nat.le_add_right _ _) (by omega) hw))
      have h1 : (v + 1) * (32 * bi) ≤ f.nvec * (32 * bi) := Nat.mul_le_mul_right _ hv
      rw [Nat.add_one_mul, ← Nat.mul_assoc, ← Nat.mul_assoc] at h1
      omega
    have hmap : (vecOf u i.spar.val f.bnd (effAddr u i.spar.val f.src1) bi ty v).map out =
        (List.range 256).map (fun l => out (vecEl u i.spar.val f.bnd (effAddr u i.spar.val f.src1) bi ty v l)) := List.map_map
    rw [hrun, hread, portReads_sound hct, hmap]

end single

/-! ### VCVT and VUN -/

theorem cvtShape_bits (func : Nat) : ((cvtShape func).1 = 4 ∨ (cvtShape func).1 = 8 ∨ (cvtShape func).1 = 16) ∧ ((cvtShape func).2.1 = 4 ∨ (cvtShape func).2.1 = 8 ∨ (cvtShape func).2.1 = 16) := by
  unfold cvtShape
  split <;> decide

/-- A conversion of a sound element marks nothing and goes back to no hard error. -/
theorem cvtLane_sound (func : Nat) (e : Nat × Nat) (h : e.2 = 0) : (cvtLane func e.2 e.1).mark = 0 ∧ (cvtLane func e.2 e.1).poi ≠ 2 := by
  rw [h]
  unfold cvtLane
  split
  case h_1 =>
    rw [if_neg (by decide)]
    cases Fmt.value .bf16 e.1 with
    | none => exact ⟨rfl, by decide⟩
    | some p => exact laneS16_sound _
  case h_2 => exact laneBf_sound _
  case h_3 => exact laneS16_sound _
  case h_4 =>
    rw [if_neg (by decide)]
    exact ⟨rfl, by dsimp only; decide⟩
  case h_5 =>
    dsimp only
    cases Fmt.value (if func = 4 then Fmt.e4m3 else Fmt.e5m2) e.1 with
    | none => exact ⟨rfl, by decide⟩
    | some p => exact laneBf_sound _

theorem runWork_vcvt {i : Issue} {f : VecF} (ho : opOf i.word = 0x5B) (hd : ∀ t, decUn 0x5B 5 t i = some f) (h : Held) (k : Nat) (acc : List (Nat × Nat)) (c : Nat) (t : State) :
    runWork c (.stage i h k acc) t = cvtStage f i h k acc c t := by
  simp only [runWork, stageOf, ho, stageWith, hd]

theorem runWork_vun {i : Issue} {f : VecF} (ho : opOf i.word = 0x5C) (hd : ∀ t, decUn 0x5C 7 t i = some f) (h : Held) (k : Nat) (acc : List (Nat × Nat)) (c : Nat) (t : State) :
    runWork c (.stage i h k acc) t = vunStage f i h k acc c t := by
  simp only [runWork, stageOf, ho, stageWith, hd]

theorem vunSteps_le (func : Nat) : vunSteps func ≤ 6 := by
  unfold vunSteps
  split <;> decide

theorem vcvt_wrote {s : State} {i : Issue} {f : VecF} (hq : QuietBay (s.atIssue i) i.spar.val) (hi : Issues s i (decUn 0x5B 5) chkVcvt f)
    (hap : Apart (effAddr (s.atIssue i) i.spar.val f.dst) (f.nvec * 32 * (cvtShape f.func).2.1) (effAddr (s.atIssue i) i.spar.val f.src1) (f.nvec * 32 * (cvtShape f.func).1))
    (hne : (cvtShape f.func).1 ≠ (cvtShape f.func).2.1 → effAddr (s.atIssue i) i.spar.val f.dst ≠ effAddr (s.atIssue i) i.spar.val f.src1) :
    VectorWrote (s.atIssue i) (settleAll (staged f i ((s.atIssue i).hold i) (s.atIssue i))) i.spar.val (effAddr (s.atIssue i) i.spar.val f.dst) (cvtShape f.func).2.1 f.nvec f.bnd
      (fun v l => (fun e : Nat × Nat => cvtLane f.func e.2 e.1) (vecEl (s.atIssue i) i.spar.val f.bnd (effAddr (s.atIssue i) i.spar.val f.src1) (cvtShape f.func).1 (cvtShape f.func).2.2 v l)) := by
  obtain ⟨-, hdec, hchk⟩ := hi
  obtain ⟨ho, hn, hn'⟩ := decUn_some hdec
  obtain ⟨hbi, hbo⟩ := cvtShape_bits f.func
  exact (unary_vecWord hq hbi hbo hchk hn hn' hap hne (cvtLane_sound f.func) (dc := 1) (dw := 5) (by decide) (by decide)
    (fun t v acc c => runWork_vcvt ho (fun _ => hdec) _ v acc c t)).leavesStaged f

theorem vun_wrote {s : State} {i : Issue} {f : VecF} (hq : QuietBay (s.atIssue i) i.spar.val) (hi : Issues s i (decUn 0x5C 7) (chkUn 16 16) f)
    (hap : Apart (effAddr (s.atIssue i) i.spar.val f.dst) (f.nvec * 512) (effAddr (s.atIssue i) i.spar.val f.src1) (f.nvec * 512)) :
    VectorWrote (s.atIssue i) (settleAll (staged f i ((s.atIssue i).hold i) (s.atIssue i))) i.spar.val (effAddr (s.atIssue i) i.spar.val f.dst) 16 f.nvec f.bnd
      (fun v l => (fun e : Nat × Nat => laneBf e.2 (vunFunc f.func e.1)) (vecEl (s.atIssue i) i.spar.val f.bnd (effAddr (s.atIssue i) i.spar.val f.src1) 16 (.el .bf16) v l)) := by
  obtain ⟨-, hdec, hchk⟩ := hi
  obtain ⟨ho, hn, hn'⟩ := decUn_some hdec
  have hsteps := vunSteps_le f.func
  exact (unary_vecWord hq (.inr (.inr rfl)) (.inr (.inr rfl)) hchk hn hn' (by rwa [Nat.mul_assoc]) (fun h => absurd rfl h) (fun _ h => by rw [h]; exact laneBf_sound _) (dc := vunSteps f.func) (dw := vunSteps f.func + 8)
    (by omega) (by omega) (fun t v acc c => runWork_vun ho (fun _ => hdec) _ v acc c t)).leavesStaged f

/-! ### VGEN -/

/-- The vector indices with k added to that of spar n. -/
def gensAfter (u : State) (n k : Nat) : List (Nat × BitVec 40) := (u.setGen n (u.genIdx n + BitVec.ofNat 40 k)).fab.gen

theorem genIdx_gensAfter {u t : State} {n k : Nat} (h : t.fab.gen = gensAfter u n k) (m : Nat) : t.genIdx m = if m = n then BitVec.ofNat 40 ((u.genIdx n).toNat + k) else u.genIdx m := by
  have hv : u.genIdx n + BitVec.ofNat 40 k = BitVec.ofNat 40 ((u.genIdx n).toNat + k) := by
    rw [BitVec.ofNat_add, BitVec.ofNat_toNat, BitVec.setWidth_eq]
  have hm := State.genIdx_setGen u n m (u.genIdx n + BitVec.ofNat 40 k)
  rw [hv] at hm
  rw [← hm, ← hv]
  unfold State.genIdx
  rw [h]
  rfl

/-- The write of a vector index that VGEN makes as it issues. -/
def GenPending (u : State) (n k : Nat) (pending : Prop) (g : List (Nat × BitVec 40)) : Prop := (pending → g = u.fab.gen) ∧ (¬pending → g = gensAfter u n k)

theorem GenPending.lands {u t : State} {n k : Nat} (c : Nat) : ∃ g, runWork c (.addGen n k) t = { t with fab := { t.fab with gen := g } } ∧ (GenPending u n k True t.fab.gen → GenPending u n k False g) := by
  refine ⟨gensAfter t n k, rfl, fun h => ⟨fun hf => hf.elim, fun _ => ?_⟩⟩
  have hg := h.1 trivial
  unfold gensAfter State.setGen State.genIdx
  rw [hg]

theorem runWork_vgen {i : Issue} {f : VecF} (ho : opOf i.word = 0x5E) (hd : ∀ t, decVgen t i = some f) (h : Held) (k : Nat) (acc : List (Nat × Nat)) (c : Nat) (t : State) :
    runWork c (.stage i h k acc) t = vgenStage f i h k acc c t := by
  simp only [runWork, stageOf, ho, stageWith, hd]

/-- Lane l of vector v of VGEN. -/
def vgenLane (u : State) (i : Issue) (f : VecF) (v l : Nat) : Lane :=
  ⟨genLane (bitAt i.word 42) (genValue
    (BitVec.ofNat 64 ((u.sReg i.spar.val (fld i.word 47 43)).toNat + (u.sReg i.spar.val (fld i.word 47 43 + 1)).toNat * 2 ^ 32)) f.src1
    (((u.genIdx i.spar.val).toNat + v * 256 + l) % 2 ^ 40)), 0, false, false, 0⟩

theorem vgen_wrote {s : State} {i : Issue} {f : VecF} (hq : QuietBay (s.atIssue i) i.spar.val) (hi : Issues s i decVgen chkVgen f) :
    let u := s.atIssue i
    let t := settleAll ((staged f i (u.hold i) u).later (i.c.toNat + 1) 0 (.addGen i.spar.val (f.nvec * 256)))
    t.fab.gen = gensAfter u i.spar.val (f.nvec * 256) ∧
      VectorWrote u { t with fab := { t.fab with gen := u.fab.gen } } i.spar.val (effAddr u i.spar.val f.dst) 16 f.nvec f.bnd (vgenLane u i f) := by
  intro u t
  obtain ⟨-, hdec, hchk⟩ := hi
  obtain ⟨ho, hn, hn'⟩ := decVgen_some hdec
  have hchk : chkVgen (u.held (u.hold i)) i f = none := hchk
  have hdst : effAddr u i.spar.val f.dst + f.nvec * 512 ≤ 0x600000 := (loftCheck_none hchk (effAddr u i.spar.val f.dst, f.nvec * 512, 64) (by simp [effAddr_hold])).1
  have V : VecWord u i (effAddr u i.spar.val f.dst) 16 f.nvec f.bnd (vgenLane u i f) (fun _ _ => True) id id f.nvec :=
    single_vecWord hq (.inr (.inr rfl)) (by rwa [Nat.mul_assoc]) hn hn' (fun _ _ => ⟨rfl, Nat.zero_ne_add_one 1⟩) (dc := 1) (dw := 7) (by decide) (by decide)
      (fun t v acc c _ _ _ _ => (runWork_vgen ho (fun _ => hdec) _ v acc c t).trans rfl)
  have hbegin : (staged f i (u.hold i) u).later (i.c.toNat + 1) 0 (.addGen i.spar.val (f.nvec * 256)) =
      { u with fab := { u.fab with flight := ⟨i.c.toNat, 3, .stage i (u.hold i) 0 []⟩ :: [⟨i.c.toNat + 1, 0, .addGen i.spar.val (f.nvec * 256)⟩] } } := by
    unfold staged State.later
    rw [hq.calm]
    rfl
  have hl := V.leaves (X := fun w => w = .addGen i.spar.val (f.nvec * 256)) (G := GenPending u i.spar.val (f.nvec * 256)) (fun h => by subst h; exact ⟨rfl, fun v h => by cases h⟩)
    (fun c t h => by subst h; exact GenPending.lands c) (xs := [⟨i.c.toNat + 1, 0, .addGen i.spar.val (f.nvec * 256)⟩]) (fun x hx => by
      obtain rfl := List.mem_singleton.mp hx
      have := i.c.isLt
      exact ⟨rfl, by dsimp only; omega⟩) (by simp) ⟨fun _ => rfl, fun h => absurd ⟨_, List.mem_singleton.mpr rfl, rfl⟩ h⟩
  rw [← hbegin] at hl
  exact ⟨hl.1.2 id, hl.2⟩

/-! ### VRED -/

/-- The elements of the open lanes of the vectors before v. -/
def openEls (u : State) (n : Nat) (f : VecF) (v : Nat) : List (Nat × Nat) :=
  (openLanes u n f.bnd v).map (fun p => vecEl u n f.bnd (effAddr u n f.src1) 16 (.el .bf16) p.1 p.2)

/-- What VRED comes to after v vectors. -/
def vredResult (u : State) (n : Nat) (f : VecF) (v : Nat) : Nat × Tally :=
  vredOut f.func (if f.ers then toSigned 12 (u.sReg n (f.src2 % 32)).toNat else toSigned 12 f.src2) (openEls u n f v)

/-- Nothing but the registers and the S registers differs from u, the clock aside. -/
def ScalarsOnly (u : State) (r : List (Nat × Word)) (w : List (Nat × Word)) (t : State) : Prop :=
  ∃ l y g, t = { u with wire := [], regs := r, fab := { u.fab with sreg := w, flight := l, cyc := y, fresh := g } }

theorem openEls_succ (u : State) (n : Nat) (f : VecF) (v : Nat) : openEls u n f (v + 1) = openEls u n f v ++
    ((vecOf u n f.bnd (effAddr u n f.src1) 16 (.el .bf16) v).zipIdx).filterMap (fun (x : (Nat × Nat) × Nat) =>
      if f.bnd.writes u n (f.bnd.oR + (v : Int)) (f.bnd.oC + (x.2 : Int)) then some x.1 else none) := by
  unfold openEls
  rw [openLanes_succ, List.map_append]
  unfold vecOf openRow
  rw [zipIdx_range_map, List.filterMap_map, List.map_filterMap]
  congr 1
  refine List.filterMap_congr (fun l _ => ?_)
  dsimp only [Function.comp]
  split <;> rfl

/-- The registers that a spar's count leaves, whatever else the state holds. -/
theorem State.count_regs_congr {s t : State} (h : t.regs = s.regs) (n a b c : Nat) : (t.count n a b c false).regs = (s.count n a b c false).regs := by
  have hc : ∀ x : State, (x.count n a b c false).regs = (((x.tally (A.sparSat n) a).tally (A.sparUfz n) b).tally (A.sparPoi n) c).regs := fun x => by
    unfold State.count
    rw [if_neg (by simp)]
  have ht : ∀ {x y : State} (r k : Nat), x.regs = y.regs → (x.tally r k).regs = (y.tally r k).regs := fun r k hxy => by
    simp only [State.tally, State.bump, State.setReg, State.reg, hxy]
  rw [hc, hc]
  exact ht _ _ (ht _ _ (ht _ _ h))

/-- How many stages of VRED are to come. -/
def vredLeft (nvec : Nat) : Work → Nat
  | .stage _ _ v _ => nvec + 1 - v
  | _ => 1

/-- VRED under way: the next of its reads, or its write of Sd, or nothing is left. -/
def Vreding (u : State) (i : Issue) (f : VecF) (ws : List Work) (t : State) : Prop :=
  let n := i.spar.val
  let k := fld i.word 95 91
  let r := vredResult u n f f.nvec
  let counted := (u.count n r.2.sat r.2.ufz r.2.poi false).regs
  (∃ v, v < f.nvec ∧ ws = [.stage i (u.hold i) v (openEls u n f v).reverse] ∧ ScalarsOnly u u.regs u.fab.sreg t) ∨
    (ws = [.setS n k (BitVec.ofNat 32 r.1)] ∧ ScalarsOnly u counted u.fab.sreg t) ∨
    (ws = [] ∧ ScalarsOnly u counted (u.setS n k (BitVec.ofNat 32 r.1)).fab.sreg t)

theorem runWork_vred {i : Issue} {f : VecF} (ho : opOf i.word = 0x5D) (hd : ∀ t, decVred t i = some f) (h : Held) (k : Nat) (acc : List (Nat × Nat)) (c : Nat) (t : State) :
    runWork c (.stage i h k acc) t = vredStage f i h k acc c t := by
  simp only [runWork, stageOf, ho, stageWith, hd]

section vred
variable {u : State} {i : Issue} {f : VecF} (hq : QuietBay u i.spar.val) (hrun : ∀ t v acc c, runWork c (.stage i (u.hold i) v acc) t = vredStage f i (u.hold i) v acc c t)
  (hsoft : (vredResult u i.spar.val f f.nvec).2.hard = false)
include hq hrun

/-- A stage of VRED adds the open elements of its vector; the last one counts, and begins the write of Sd. -/
theorem vred_stage {t : State} {v : Nat} (c : Nat) (ht : ScalarsOnly u u.regs u.fab.sreg t) : runWork c (.stage i (u.hold i) v (openEls u i.spar.val f v).reverse) t =
    if v + 1 < f.nvec then t.later (c + 1) 3 (.stage i (u.hold i) (v + 1) (openEls u i.spar.val f (v + 1)).reverse)
    else (t.count i.spar.val (vredResult u i.spar.val f (v + 1)).2.sat (vredResult u i.spar.val f (v + 1)).2.ufz (vredResult u i.spar.val f (v + 1)).2.poi
        (vredResult u i.spar.val f (v + 1)).2.hard).later (c + 15) 0 (.setS i.spar.val (fld i.word 95 91) (BitVec.ofNat 32 (vredResult u i.spar.val f (v + 1)).1)) := by
  obtain ⟨-, hm, hf, hp, -⟩ := hq
  have hbay : t.fab.loft = u.fab.loft ∧ ∀ a, t.aliasPair 1 a = none ∧ t.fitAlias 1 a = none := by
    obtain ⟨l, y, g, rfl⟩ := ht
    exact ⟨rfl, fun a => hp a⟩
  obtain ⟨hloft, hpt⟩ := hbay
  have hc : t.fab.loft.Clean := by
    rw [hloft]
    exact Mem.clean_of_nil hm hf
  have hread : vecEls (t.held (u.hold i)) i.spar.val f.bnd (effAddr u i.spar.val f.src1) 16 (.el .bf16) v = vecOf u i.spar.val f.bnd (effAddr u i.spar.val f.src1) 16 (.el .bf16) v :=
    vecEls_kept hpt hp i f.bnd _ (.inr (.inr rfl)) (fun _ _ => by rw [hloft])
  have hsrc : effAddr (t.held (u.hold i)) i.spar.val f.src1 = effAddr u i.spar.val f.src1 := rfl
  unfold vredResult
  rw [hrun, openEls_succ]
  unfold vredStage
  dsimp only
  rw [portReads_sound hc, hsrc, hread, List.reverse_append, List.reverse_append, List.reverse_reverse, List.reverse_reverse]
  rfl

include hsoft

/-- VRED's work comes about a piece at a time. -/
theorem vred_anyhow : Anyhow (vredLeft f.nvec) (Vreding u i f) where
  perm := by
    rintro ws vs t hp (⟨v, hv, rfl, h⟩ | ⟨rfl, h⟩ | ⟨rfl, h⟩)
    · exact .inl ⟨v, hv, List.singleton_perm.mp hp |>.symm, h⟩
    · exact .inr (.inl ⟨List.singleton_perm.mp hp |>.symm, h⟩)
    · exact .inr (.inr ⟨List.nil_perm.mp hp, h⟩)
  clock := by
    have hclock : ∀ {r w t} (l : List Flight) (y : Nat) (g : List (Nat × Nat)), ScalarsOnly u r w t → ScalarsOnly u r w { t with fab := { t.fab with flight := l, cyc := y, fresh := g } } := by
      rintro r w t l y g ⟨l', y', g', rfl⟩
      exact ⟨l, y, g, rfl⟩
    rintro ws t l y g (⟨v, hv, rfl, h⟩ | ⟨rfl, h⟩ | ⟨rfl, h⟩)
    · exact .inl ⟨v, hv, rfl, hclock l y g h⟩
    · exact .inr (.inl ⟨rfl, hclock l y g h⟩)
    · exact .inr (.inr ⟨rfl, hclock l y g h⟩)
  step := by
    rintro w ws t c (⟨v, hv, he, h⟩ | ⟨he, h⟩ | ⟨he, -⟩)
    · obtain ⟨rfl, rfl⟩ := List.cons.inj he
      rw [vred_stage hq hrun c h]
      split
      next hmore =>
        refine ⟨[_], rfl, .inl ⟨v + 1, hmore, rfl, ?_⟩, by simp only [toCome_cons, toCome_nil, vredLeft]; omega, by simp⟩
        obtain ⟨l, y, g, rfl⟩ := h
        exact ⟨_, y, g, rfl⟩
      next hlast =>
        have hv1 : v + 1 = f.nvec := by omega
        rw [hv1, hsoft]
        have hregs : t.regs = u.regs := by
          obtain ⟨l, y, g, rfl⟩ := h
          rfl
        have hcount := State.count_regs_congr hregs i.spar.val (vredResult u i.spar.val f f.nvec).2.sat (vredResult u i.spar.val f f.nvec).2.ufz (vredResult u i.spar.val f f.nvec).2.poi
        obtain ⟨-, r, g', e, hc, he⟩ := t.count_counted i.spar.val (vredResult u i.spar.val f f.nvec).2.sat (vredResult u i.spar.val f f.nvec).2.ufz (vredResult u i.spar.val f f.nvec).2.poi false
        rw [hc] at hcount ⊢
        rw [he rfl]
        refine ⟨[_], rfl, .inr (.inl ⟨rfl, ?_⟩), by simp only [toCome_cons, toCome_nil, vredLeft]; omega, by simp⟩
        rw [← hcount]
        obtain ⟨l, y, g, rfl⟩ := h
        exact ⟨_, y, g', rfl⟩
    · obtain ⟨rfl, rfl⟩ := List.cons.inj he
      refine ⟨[], (List.append_nil _).symm, .inr (.inr ⟨rfl, ?_⟩), by simp [vredLeft], by simp⟩
      obtain ⟨l, y, g, rfl⟩ := h
      exact ⟨l, y, g, rfl⟩
    · cases he

/-- What VRED leaves. -/
theorem vred_leaves (hn : 0 < f.nvec) (hn' : f.nvec < 1024) : ScalarsOnly u (u.count i.spar.val (vredResult u i.spar.val f f.nvec).2.sat (vredResult u i.spar.val f f.nvec).2.ufz (vredResult u i.spar.val f f.nvec).2.poi false).regs
    (u.setS i.spar.val (fld i.word 95 91) (BitVec.ofNat 32 (vredResult u i.spar.val f f.nvec).1)).fab.sreg (settleAll (staged f i (u.hold i) u)) := by
  have hstart : Vreding u i f [.stage i (u.hold i) 0 []] { u with wire := [] } := .inl ⟨0, hn, rfl, u.fab.flight, u.fab.cyc, u.fab.fresh, rfl⟩
  obtain ⟨-, h⟩ := (vred_anyhow hq hrun hsoft).settleAll hq.calm (c := i.c.toNat) (phase := 3) hstart i.c.isLt (by dsimp only [vredLeft]; omega)
  obtain ⟨v, -, he, -⟩ | ⟨he, -⟩ | ⟨-, h⟩ := h
  · cases he
  · cases he
  · exact h

end vred

/-- A register whose field of 32 bits keeps its value keeps its value. -/
theorem State.reg_eq_of_rf {s t : State} {a : Nat} (h : t.rf a 31 0 = s.rf a 31 0) : t.reg a = s.reg a := by
  unfold State.rf at h
  rw [fld_whole, fld_whole] at h
  exact BitVec.eq_of_toNat_eq h

/-- The worst poison of elements none of which is delivered poisoned: 1 where one is invalid. -/
theorem worst_poison (els : List (Nat × Nat)) (hs : ∀ x ∈ els, x.2 = 0) :
    els.foldl (fun p x => max p (if x.2 ≠ 0 then x.2 else if (Fmt.value .bf16 x.1).isNone then 1 else 0)) 0 = if ∃ x ∈ els, codeVal .bf16 x.1 = none then 1 else 0 := by
  have hstep : ∀ (l : List (Nat × Nat)) (p : Nat), (∀ x ∈ l, x.2 = 0) → l.foldl (fun p x => max p (if x.2 ≠ 0 then x.2 else if (Fmt.value .bf16 x.1).isNone then 1 else 0)) p =
      max p (if ∃ x ∈ l, codeVal .bf16 x.1 = none then 1 else 0) := by
    intro l
    induction l with
    | nil => simp
    | cons x l ih =>
      intro p hl
      have hx : x.2 = 0 := hl x List.mem_cons_self
      rw [List.foldl_cons, ih _ (fun y hy => hl y (List.mem_cons_of_mem _ hy)), if_neg (by simp [hx]), Nat.max_assoc]
      congr 1
      simp only [List.exists_mem_cons_iff, codeVal_eq_none, Option.isNone_iff_eq_none]
      by_cases h1 : Fmt.value .bf16 x.1 = none <;> by_cases h2 : ∃ y ∈ l, Fmt.value .bf16 y.1 = none <;> simp [h1, h2]
  rw [hstep els 0 hs, Nat.zero_max]

/-- A reduction with an invalid lane is poisoned (R163). -/
theorem vredOut_invalid {func : Nat} {er : Int} {els : List (Nat × Nat)} (hs : ∀ x ∈ els, x.2 = 0) (h : ∃ x ∈ els, codeVal .bf16 x.1 = none) : vredOut func er els = (0x7FC0, ⟨0, 0, 1, false⟩) := by
  unfold vredOut
  rw [worst_poison els hs, if_pos h]
  rfl

theorem vredOut_finite {func : Nat} {er : Int} {els : List (Nat × Nat)} (hs : ∀ x ∈ els, x.2 = 0) (h : ¬∃ x ∈ els, codeVal .bf16 x.1 = none) :
    let r := redResult func er (els.map (fun x => x.1))
    vredOut func er els = (r.1, ⟨r.2.1, r.2.2, 0, false⟩) := by
  unfold vredOut
  rw [worst_poison els hs, if_neg h]
  rfl

/-- What the registers read after VRED. -/
theorem vred_wrote {u : State} {i : Issue} {f : VecF} (hq : QuietBay u i.spar.val) (hdec : decVred u i = some f) {code : Nat} {T : Tally}
    (hr : vredResult u i.spar.val f f.nvec = (code, T)) (hsoft : T.hard = false) :
    let t := settleAll (staged f i (u.hold i) u)
    t.sReg i.spar.val (fld i.word 95 91) = BitVec.ofNat 32 code ∧ Counted u t i.spar.val T.sat T.ufz T.poi ∧
      (∀ m k, k < 32 → (m ≠ i.spar.val ∨ k ≠ fld i.word 95 91) → t.sReg m k = u.sReg m k) ∧ t.fab.loft = u.fab.loft := by
  intro t
  obtain ⟨ho, hn, hn'⟩ := decVred_some hdec
  have h := vred_leaves hq (fun t v acc c => runWork_vred ho (fun _ => hdec) _ v acc c t) (by rw [hr]; exact hsoft) hn hn'
  rw [hr] at h
  change ScalarsOnly u _ _ t at h
  have hk : fld i.word 95 91 < 32 := fld_lt i.word 95 91
  have hs : t.fab.sreg = (u.setS i.spar.val (fld i.word 95 91) (BitVec.ofNat 32 code)).fab.sreg ∧ t.regs = (u.count i.spar.val T.sat T.ufz T.poi false).regs ∧ t.fab.loft = u.fab.loft := by
    clear_value t
    obtain ⟨l, y, g, rfl⟩ := h
    exact ⟨rfl, rfl, rfl⟩
  obtain ⟨hsreg, hregs, hloft⟩ := hs
  have hread : ∀ m j, j < 32 → t.sReg m j = if m = i.spar.val ∧ j = fld i.word 95 91 then BitVec.ofNat 32 code else u.sReg m j := fun m j hj => by
    rw [← State.sReg_setS u _ _ m j _ hk hj]
    unfold State.sReg
    rw [hsreg]
  refine ⟨by rw [hread _ _ hk, if_pos ⟨rfl, rfl⟩], (State.count_counted u _ _ _ _ false).1.congr rfl hregs, fun m k hk' hne => ?_, hloft⟩
  rw [hread m k hk', if_neg (by tauto)]

theorem openEls_sound {u : State} {n : Nat} (hq : QuietBay u n) (f : VecF) (v : Nat) : ∀ x ∈ openEls u n f v, x.2 = 0 := by
  intro x hx
  obtain ⟨p, -, rfl⟩ := List.mem_map.mp hx
  exact vecEl_sound (Mem.clean_of_nil hq.marks hq.flips) hq.plain _ _ _ _ _ _ _

theorem Counted.sat_zero {s t : State} {n b c : Nat} (h : Counted s t n 0 b c) : t.reg (A.sparSat n) = s.reg (A.sparSat n) :=
  State.reg_eq_of_rf (by rw [h.sat, Nat.add_zero]; exact Nat.min_eq_left (s.rf_lt _))

theorem Counted.poi_zero {s t : State} {n a b : Nat} (h : Counted s t n a b 0) : t.reg (A.sparPoi n) = s.reg (A.sparPoi n) :=
  State.reg_eq_of_rf (by rw [h.poi, Nat.add_zero]; exact Nat.min_eq_left (s.rf_lt _))

theorem otherVectorWords : Sys2Proof.Stated.OtherVectorWords := by
  intro s i f u n d src hq
  refine ⟨fun hi hap hne => ⟨_, commandWord_begins staged hi, vcvt_wrote hq hi hap hne⟩, fun hi hap => ⟨_, commandWord_begins staged hi, vun_wrote hq hi hap⟩, fun hi => ?_, fun hi => ?_⟩
  · obtain ⟨hgen, hw⟩ := vgen_wrote hq hi
    exact ⟨_, commandWord_begins _ hi, by rw [genIdx_gensAfter hgen, if_pos rfl], fun m hm => by rw [genIdx_gensAfter hgen, if_neg hm], hw⟩
  · intro codes r
    have hcodes : codes = (openEls u n f f.nvec).map (fun x => x.1) := by
      unfold openEls
      rw [List.map_map]
      rfl
    have hsound := openEls_sound hq f f.nvec
    have hinvalid : (∃ c ∈ codes, codeVal .bf16 c = none) ↔ ∃ x ∈ openEls u n f f.nvec, codeVal .bf16 x.1 = none := by
      rw [hcodes]
      simp only [List.mem_map, exists_exists_and_eq_and]
    refine ⟨fun hbad => ⟨_, commandWord_begins staged hi, ?_⟩, fun hfin => ⟨_, commandWord_begins staged hi, ?_⟩⟩
    · have hr : vredResult u n f f.nvec = (0x7FC0, ⟨0, 0, 1, false⟩) := vredOut_invalid hsound (hinvalid.mp hbad)
      obtain ⟨hsd, hc, hother, hloft⟩ := vred_wrote hq hi.2.1 hr rfl
      exact ⟨hsd, hc.poi, hc.sat_zero, hother, hloft⟩
    · have hr := vredOut_finite (func := f.func) (er := if f.ers then toSigned 12 (u.sReg n (f.src2 % 32)).toNat else toSigned 12 f.src2) hsound
        (fun h => (hinvalid.mpr h).elim (fun c hc => hfin c hc.1 hc.2))
      rw [← hcodes] at hr
      obtain ⟨hsd, hc, hother, hloft⟩ := vred_wrote hq hi.2.1 hr rfl
      exact ⟨hsd, hc.sat, hc.ufz, hc.poi_zero, hother, hloft⟩

/-- Settles O15: each vector word is a sequence of stages whose rows land in bytes that no later stage reads, whatever else is in flight between them. -/
theorem vectorWords : Obligations.VectorWords := ⟨binaryVectorWords, otherVectorWords⟩

end Sys2Proof.Machine

/-! SUPPORT. TLOAD: its 64 stages read the rows of a tile, and the last of them begins the packed vectors, one per column (R248). -/

namespace Sys2Proof.Machine

theorem decTload_some {s : State} {i : Issue} {f : TloadF} (h : decTload s i = some f) : opOf i.word = 0x42 ∧ (f.bits = 4 ∨ f.bits = 8 ∨ f.bits = 16) := by
  unfold decTload at h
  dsimp only at h
  split at h
  · cases h
  · split at h
    · cases h
    · rw [Option.ite_none_right_eq_some] at h
      obtain ⟨⟨ho, hb, -⟩, h⟩ := h
      obtain rfl := Option.some.inj h
      refine ⟨headOk_op ho, ?_⟩
      dsimp only
      interval_cases fld i.word 31 30 <;> simp

theorem runWork_tload {i : Issue} {f : TloadF} (ho : opOf i.word = 0x42) (hd : ∀ t, decTload t i = some f) (h : Held) (k : Nat) (acc : List (Nat × Nat)) (c : Nat) (t : State) :
    runWork c (.stage i h k acc) t = tloadStage f i h k acc c t := by
  simp only [runWork, stageOf, ho, stageWith, hd]

/-- Element (r, c) of the source tile of TLOAD: the pad where a read bound does not pass. -/
def tloadEl (u : State) (n : Nat) (f : TloadF) (r c : Nat) : Nat × Nat :=
  if f.bnd.reads u n (f.bnd.oR + (r : Int)) (f.bnd.oC + (c : Int)) then elemAt u n (effAddr u n f.src + r * f.pitch) f.bits c else (tloadPad u n f, 0)

/-- The rows that TLOAD writes: column c of the source tile, packed. -/
def tloadRows (u : State) (n : Nat) (f : TloadF) : RowSet where
  n := n
  d := effAddr u n f.dst
  half := 32
  bits := f.bits
  count := 64
  codes := fun c => (List.range 64).map (fun (q : Nat) => if f.bnd.writes u n (f.bnd.oR + (q : Int)) (f.bnd.oC + (c : Int)) then some (tloadEl u n f q c) else none)

/-- What stage k of TLOAD carries: the rows that it has read. -/
def tloadCarry (u : State) (n : Nat) (f : TloadF) (k : Nat) : List (Nat × Nat) := (List.range k).flatMap (fun r => (List.range 64).map (tloadEl u n f r))

/-- An element of a list of blocks of one length. -/
theorem flatMap_getD {α : Type} (g : Nat → List α) {len m : Nat} (hg : ∀ j, (g j).length = len) {j c : Nat} (hj : j < m) (hc : c < len) (x : α) :
    ((List.range m).flatMap g).getD (len * j + c) x = (g j).getD c x := by
  rw [← flatMap_block g hg hj]
  simp [List.getD_eq_getElem?_getD, hc]

section tload
variable {u : State} {i : Issue} {f : TloadF} (hq : QuietBay u i.spar.val) (hb : f.bits = 4 ∨ f.bits = 8 ∨ f.bits = 16) (hchk : chkTload (u.held (u.hold i)) i f = none)
include hb

theorem tloadRows_len (n : Nat) : (tloadRows u n f).len = 8 * f.bits := by
  unfold RowSet.len tloadRows
  dsimp only
  rcases hb with h | h | h <;> rw [h]

theorem tloadRows_base (n c : Nat) : (tloadRows u n f).base c = effAddr u n f.dst + c * 8 * f.bits := by
  unfold RowSet.base
  rw [tloadRows_len hb, Nat.mul_assoc]
  rfl

omit hb in
theorem tloadRows_code (n : Nat) {r : Nat} (c : Nat) (hr : r < 64) : ((tloadRows u n f).codes c).getD r none =
    if f.bnd.writes u n (f.bnd.oR + (r : Int)) (f.bnd.oC + (c : Int)) then some (tloadEl u n f r c) else none := by
  unfold tloadRows
  simp [hr]

include hq in
omit hb in
theorem tloadEl_sound (r c : Nat) : (tloadEl u i.spar.val f r c).2 = 0 := by
  unfold tloadEl
  split
  · exact elemAt_sound (Mem.clean_of_nil hq.marks hq.flips) hq.plain _ _ _ _
  · rfl

include hq in
omit hb in
theorem tloadRows_unmarked : (tloadRows u i.spar.val f).Unmarked := by
  refine RowSet.unmarked_of_codes (fun v l c hv hc => ?_)
  by_cases hl : l < 64
  · rw [tloadRows_code i.spar.val v hl, Option.ite_none_right_eq_some] at hc
    rw [← Option.some.inj hc.2]
    exact tloadEl_sound hq l v
  · rw [List.getD_eq_default _ _ (by simp [tloadRows]; omega)] at hc
    cases hc

include hq hchk

theorem tloadRows_fits : (tloadRows u i.spar.val f).Fits where
  bits := hb
  codes := fun c => by simp [tloadRows]
  range := by
    rw [tloadRows_len hb]
    have := (loftCheck_none hchk (effAddr u i.spar.val f.dst, 64 * 8 * f.bits, 1) (by simp [effAddr_hold])).1
    simp only [tloadRows]
    omega
  apart := .inl (tloadRows_unmarked hq)

/-- A column as the last stage writes it. -/
theorem tload_column {t : State} {v : Nat} (hv : v < 64) : laneWrites (effAddr u i.spar.val f.dst + v * 8 * f.bits) f.bits ((List.range 64).map (fun (q : Nat) =>
      if f.bnd.writes (t.held (u.hold i)) i.spar.val (f.bnd.oR + (q : Int)) (f.bnd.oC + (v : Int)) then some ((tloadCarry u i.spar.val f 64).getD (64 * q + v) (0, 0)) else none)) =
    ((tloadRows u i.spar.val f).ws v, (tloadRows u i.spar.val f).keep v) := by
  have hel : ∀ q, q < 64 → (tloadCarry u i.spar.val f 64).getD (64 * q + v) (0, 0) = tloadEl u i.spar.val f q v := fun q hq => by
    unfold tloadCarry
    rw [flatMap_getD _ (len := 64) (fun _ => by simp) hq hv]
    simp [hv]
  have hcodes : (List.range 64).map (fun (q : Nat) =>
      if f.bnd.writes (t.held (u.hold i)) i.spar.val (f.bnd.oR + (q : Int)) (f.bnd.oC + (v : Int)) then some ((tloadCarry u i.spar.val f 64).getD (64 * q + v) (0, 0)) else none) =
      (tloadRows u i.spar.val f).codes v := by
    simp only [tloadRows]
    refine List.map_congr_left (fun q hq => ?_)
    rw [hel q (List.mem_range.mp hq)]
    rfl
  rw [hcodes, laneWrites_bytes hb (L := 32) _ ((tloadRows_fits hq hb hchk).codes v)]
  unfold RowSet.ws RowSet.keep
  rw [tloadRows_base hb]
  rfl

/-- A stage of TLOAD reads its row as the word found it; the last begins every column. -/
theorem tload_rowsWord (hrun : ∀ t k acc c, runWork c (.stage i (u.hold i) k acc) t = tloadStage f i (u.hold i) k acc c t) :
    RowsWord (tloadRows u i.spar.val f) i (u.hold i) (fun _ => False) (fun _ _ t => BaysOnly u t) (fun k acc => acc = tloadCarry u i.spar.val f k) (fun _ => 63) 64 u.fab.loft where
  fits := tloadRows_fits hq hb hchk
  plain := fun h => h.plain hq.plain
  own := fun h g hg => hq.own g (h.segs ▸ hg)
  keep := fun m es l y f h => h.keep m es l y f
  other := fun h => h.elim
  extra := fun _ h => h.elim
  stage := by
    intro t k acc e pend c hk hS hFr hL
    have F := tloadRows_fits hq hb hchk
    have hnone : ∀ b, t.fab.loft.fetch b = u.fab.loft.fetch b := fun b => hL.fetch_rest F hq.flips hq.marks (fun v _ hv => by omega)
    have hclean : t.fab.loft.Clean := Mem.clean_of_nil (hL.nil (tloadRows_unmarked hq)) hL.flips
    have hpt := hFr.plain hq.plain
    have hread : ∀ r l, elemAt (t.held (u.hold i)) i.spar.val (effAddr u i.spar.val f.src + r * f.pitch) f.bits l = elemAt u i.spar.val (effAddr u i.spar.val f.src + r * f.pitch) f.bits l :=
      fun r l => elemAt_kept hpt hq.plain (u.hold i) hb le_rfl (fun _ _ => hnone _)
    have hacc : acc ++ (List.range 64).map (fun (l : Nat) => if f.bnd.reads (t.held (u.hold i)) i.spar.val (f.bnd.oR + (k : Int)) (f.bnd.oC + (l : Int)) then
        elemAt (t.held (u.hold i)) i.spar.val (effAddr (t.held (u.hold i)) i.spar.val f.src + k * f.pitch) f.bits l else (tloadPad (t.held (u.hold i)) i.spar.val f, 0)) =
        tloadCarry u i.spar.val f (k + 1) := by
      unfold tloadCarry
      rw [List.range_succ (n := k), List.flatMap_append, hS]
      simp only [List.flatMap_cons, List.flatMap_nil, List.append_nil]
      congr 1
      refine List.map_congr_left (fun l _ => ?_)
      unfold tloadEl
      rw [← hread]
      rfl
    rw [hrun]
    unfold tloadStage
    dsimp only
    rw [hacc, portReads_sound hclean]
    by_cases hlast : k < 63
    · rw [if_pos hlast]
      refine ⟨[⟨c + 1, 3, .stage i (u.hold i) (k + 1) (tloadCarry u i.spar.val f (k + 1))⟩], rfl, rfl, hFr.keep t.fab.loft t.rcd.entries _ t.fab.cyc t.fab.fresh, ?_⟩
      have B := rowsBegun (R := tloadRows u i.spar.val f) (i := i) (h := u.hold i) (S := fun k acc => acc = tloadCarry u i.spar.val f k) (st := fun _ => 63) (c := c) (u := c + 1)
        (wr := fun _ => c) (vs := []) hk (fun v => ⟨fun h => absurd h List.not_mem_nil, fun h => by omega⟩) List.nodup_nil (by simp) (by simp) (by omega) (fun _ => rfl)
      rw [decide_eq_true (by omega)] at B
      exact B
    · rw [if_neg hlast]
      obtain rfl : k = 63 := by omega
      have hrows : (List.range 64).foldl (fun (t' : State) v =>
          let w := laneWrites (effAddr (t.held (u.hold i)) i.spar.val f.dst + v * 8 * f.bits) f.bits ((List.range 64).map (fun (q : Nat) =>
            if f.bnd.writes (t.held (u.hold i)) i.spar.val (f.bnd.oR + (q : Int)) (f.bnd.oC + (v : Int)) then some ((tloadCarry u i.spar.val f (63 + 1)).getD (64 * q + v) (0, 0)) else none))
          t'.storeAt (u.hold i) (c + 5 + v) i.spar.val w.1 w.2) t = _ :=
        (List.foldl_ext _ _ _ (fun a v hv => by
          dsimp only
          rw [show effAddr (t.held (u.hold i)) i.spar.val f.dst = effAddr u i.spar.val f.dst from rfl, tload_column hq hb hchk (t := t) (List.mem_range.mp hv)]
          rfl)).trans
          ((tloadRows u i.spar.val f).storeAt_stores (u.hold i) (fun v => c + 5 + v) t (List.range 64))
      rw [hrows]
      refine ⟨_, rfl, rfl, hFr.keep t.fab.loft t.rcd.entries _ t.fab.cyc t.fab.fresh, ?_⟩
      have B := rowsBegun (R := tloadRows u i.spar.val f) (i := i) (h := u.hold i) (S := fun k acc => acc = tloadCarry u i.spar.val f k) (st := fun _ => 63) (K := 64) (c := c) (u := c)
        (wr := fun v => c + 5 + v) (vs := List.range 64) (acc := []) hk (fun v => by rw [List.mem_range]; exact ⟨fun h => ⟨h, rfl⟩, fun h => h.1⟩) List.nodup_range (by simp)
        (fun v hv => by rw [List.mem_range] at hv; omega) (by omega) (fun h => by omega)
      rw [decide_eq_false (by omega)] at B
      unfold nextStages at B
      rw [if_neg (by simp), List.append_nil] at B
      exact B

end tload

theorem padCode_lt (s : State) (n : Nat) (b : Bounds) (ty : Ety) : padCode s n b ty < 2 ^ ty.bits := by
  unfold padCode
  split
  · exact Nat.two_pow_pos _
  · exact Nat.mod_lt _ (Nat.two_pow_pos _)
  · split <;> decide

theorem tloadPad_lt {f : TloadF} (hb : f.bits = 4 ∨ f.bits = 8 ∨ f.bits = 16) (s : State) (n : Nat) : tloadPad s n f < 2 ^ f.bits := by
  unfold tloadPad
  split
  · exact Nat.mod_lt _ (Nat.two_pow_pos _)
  · rcases hb with h | h | h <;> rw [h]
    · exact padCode_lt s n f.bnd (.el .a4)
    · exact padCode_lt s n f.bnd (.el .a8)
    · exact padCode_lt s n f.bnd (.el .bf16)

theorem elemAt_lt {bits : Nat} (hb : bits = 4 ∨ bits = 8 ∨ bits = 16) (s : State) (n base l : Nat) : (elemAt s n base bits l).1 < 2 ^ bits := by
  have hbyte : ∀ a, (s.loftByte n a).1.toNat < 256 := fun a => (s.loftByte n a).1.isLt
  unfold elemAt
  rcases hb with rfl | rfl | rfl
  · rw [if_pos rfl]
    have := hbyte (base + l / 2)
    dsimp only
    split <;> omega
  · rw [if_neg (by decide), if_pos rfl]
    exact hbyte _
  · rw [if_neg (by decide), if_neg (by decide)]
    have := hbyte (base + 2 * l)
    have := hbyte (base + 2 * l + 1)
    dsimp only
    omega

theorem tloadEl_lt {f : TloadF} (hb : f.bits = 4 ∨ f.bits = 8 ∨ f.bits = 16) (u : State) (n r c : Nat) : (tloadEl u n f r c).1 < 2 ^ f.bits := by
  unfold tloadEl
  split
  · exact elemAt_lt hb _ _ _ _
  · exact tloadPad_lt hb u n

theorem transposeWord : Sys2Proof.Stated.TransposeWord := by
  intro s i f u n d hq hi
  obtain ⟨-, hdec, hchk⟩ := id hi
  obtain ⟨ho, hb⟩ := decTload_some hdec
  have hchk : chkTload (u.held (u.hold i)) i f = none := hchk
  have F := tloadRows_fits hq hb hchk
  have W := tload_rowsWord hq hb hchk (fun t k acc c => runWork_tload ho (fun _ => hdec) _ k acc c t)
  have hbegin : staged f i (u.hold i) u = { u with fab := { u.fab with flight := ⟨i.c.toNat, 3, .stage i (u.hold i) 0 []⟩ :: [] } } := by
    unfold staged State.later
    rw [hq.calm]
    rfl
  refine ⟨_, commandWord_begins staged hi, ?_⟩
  change _ ∧ _
  obtain ⟨-, hFr, hL⟩ := W.leaves (u := staged f i (u.hold i) u) (xs := []) (t := settleAll (staged f i (u.hold i) u)) i.c.isLt (by decide) (by decide) (fun _ _ => by decide) (by simp) (by simp)
    (by rw [hbegin]) rfl (by rw [hbegin]; exact (BaysOnly.refl u).keep u.fab.loft u.rcd.entries _ u.fab.cyc u.fab.fresh) (by rw [hbegin]) hq.flips hq.marks rfl
  generalize settleAll (staged f i (u.hold i) u) = t at hFr hL
  have hpt := hFr.plain hq.plain
  have hst : ∀ v, v < (tloadRows u i.spar.val f).count → 63 < 64 := fun _ _ => by decide
  have hclean : t.fab.loft.Clean := Mem.clean_of_nil (hL.nil (tloadRows_unmarked hq)) hL.flips
  have hlen := tloadRows_len (u := u) hb n
  have hbase := fun c => tloadRows_base (u := u) hb n c
  refine ⟨?_, fun r c hr hc => ?_, fun a ha hout => ?_, fun m a _ hm ha => ?_⟩
  · obtain ⟨m, es, l, y, g, rfl⟩ := hFr
    rfl
  · have he := hL.elem F hst hpt hq.plain hq.flips (v := c) (l := r) hc hr
    rw [tloadRows_code i.spar.val c hr, hbase] at he
    refine Prod.ext ?_ ?_
    · refine he.trans ?_
      split
      · exact Nat.mod_eq_of_lt (tloadEl_lt hb u n r c)
      · rfl
    · have h0 := elemAt_sound hclean hpt n (d + c * 8 * f.bits) f.bits r
      have h1 := elemAt_sound (Mem.clean_of_nil hq.marks hq.flips) hq.plain n (d + c * 8 * f.bits) f.bits r
      have h2 := tloadEl_sound hq (f := f) r c
      rw [h0]
      split
      · exact h2.symm
      · exact h1.symm
  · have hout : a < effAddr u i.spar.val f.dst ∨ effAddr u i.spar.val f.dst + 512 * f.bits ≤ a := hout
    refine hL.loftByte_rest F hpt hq.plain hq.flips hq.marks (by omega) (.inr ?_)
    rw [hlen]
    simp only [tloadRows]
    omega
  · exact hL.loftByte_rest F hpt hq.plain hq.flips hq.marks (by omega) (.inl hm)

end Sys2Proof.Machine

/-! SUPPORT. RESC and QUANT beside their rows: what they count, and the watches that they feed (R143, R150, R153). -/

namespace Sys2Proof.Machine

/-! ### The part beside the bays -/

/-- Nothing but bytes of the bays, registers, watches, the event register, the clock and the entries of the line signature has changed, and no job begins or ends a step. -/
def OutOnly (u t : State) : Prop :=
  ∃ (m : Mem) (es : List SigEntry) (l : List Flight) (y : Nat) (f : List (Nat × Nat)) (r : List (Nat × Word)) (e : Nat) (js : List (Nat × Job)) (ga : List (Nat × WatchFig))
    (go : List (Nat × BitVec 16)),
    (∀ j, (smGet Job.idle js j).inStep = (u.job j).inStep) ∧
      t = { u with wire := [], jobs := js, regs := r, fab := { u.fab with loft := m, flight := l, cyc := y, fresh := f, gather := ga, gatherOwn := go },
                   rcd := { u.rcd with entries := es, evt := e } }

/-- The same with the counters of spar n, and no register but those and `others` written. -/
structure OutFrame (u : State) (n : Nat) (others : List Nat) (sat ufz poi : Nat) (t : State) : Prop where
  only : OutOnly u t
  regs : ∀ x, x ∉ [A.sparSat n, A.sparUfz n, A.sparPoi n] → x ∉ others → t.reg x = u.reg x
  sat : t.rf (A.sparSat n) 31 0 = min (u.rf (A.sparSat n) 31 0 + sat) (2 ^ 32 - 1)
  ufz : t.rf (A.sparUfz n) 31 0 = min (u.rf (A.sparUfz n) 31 0 + ufz) (2 ^ 32 - 1)
  poi : t.rf (A.sparPoi n) 31 0 = min (u.rf (A.sparPoi n) 31 0 + poi) (2 ^ 32 - 1)

section outframe
variable {u t : State} {n : Nat} {others : List Nat} {a b c : Nat}

theorem OutOnly.inStep (h : OutOnly u t) (j : Nat) : (t.job j).inStep = (u.job j).inStep := by
  obtain ⟨m, es, l, y, f, r, e, js, ga, go, hj, rfl⟩ := h
  exact hj j

theorem OutOnly.segs (h : OutOnly u t) : t.fab.segs = u.fab.segs := by
  obtain ⟨m, es, l, y, f, r, e, js, ga, go, hj, rfl⟩ := h
  rfl

theorem OutFrame.plain (h : OutFrame u n others a b c t) (ho : ∀ x ∈ others, 0x600000 ≤ x) (hp : ∀ a, u.aliasPair 1 a = none ∧ u.fitAlias 1 a = none) (x : Nat) :
    t.aliasPair 1 x = none ∧ t.fitAlias 1 x = none := by
  have hr : ∀ x, x < 0x600000 → t.reg x = u.reg x := fun x hx => h.regs x (by
    simp only [List.mem_cons, List.not_mem_nil, or_false, not_or]
    unfold A.sparSat A.sparUfz A.sparPoi
    omega) (fun hm => by have := ho x hm; omega)
  obtain ⟨h1, h2⟩ := alias_congr hr h.only.inStep 1 x
  rw [h1, h2]
  exact hp x

theorem OutOnly.keep (h : OutOnly u t) (m : Mem) (es : List SigEntry) (l : List Flight) (y : Nat) (f : List (Nat × Nat)) :
    OutOnly u { t with fab := { t.fab with loft := m, flight := l, cyc := y, fresh := f }, rcd := { t.rcd with entries := es } } := by
  obtain ⟨m', es', l', y', f', r, e, js, ga, go, hj, rfl⟩ := h
  exact ⟨m, es, l, y, f, r, e, js, ga, go, hj, rfl⟩

theorem OutFrame.keep (h : OutFrame u n others a b c t) (m : Mem) (es : List SigEntry) (l : List Flight) (y : Nat) (f : List (Nat × Nat)) :
    OutFrame u n others a b c { t with fab := { t.fab with loft := m, flight := l, cyc := y, fresh := f }, rcd := { t.rcd with entries := es } } :=
  ⟨h.only.keep m es l y f, h.regs, h.sat, h.ufz, h.poi⟩

theorem OutFrame.start (u : State) (n : Nat) (others : List Nat) : OutFrame u n others 0 0 0 { u with wire := [] } := by
  obtain ⟨-, h1, h2, h3⟩ := Counted.zero u n
  exact ⟨⟨u.fab.loft, u.rcd.entries, u.fab.flight, u.fab.cyc, u.fab.fresh, u.regs, u.rcd.evt, u.jobs, u.fab.gather, u.fab.gatherOwn, fun _ => rfl, rfl⟩, fun _ _ _ => rfl, h1, h2, h3⟩

/-- The counters advance. -/
theorem OutFrame.count (h : OutFrame u n others a b c t) (a' b' c' : Nat) (hard : Bool) : OutFrame u n others (a + a') (b + b') (c + c') (t.count n a' b' c' hard) ∧
    (t.count n a' b' c' hard).fab.flight = t.fab.flight ∧ (t.count n a' b' c' hard).fab.loft = t.fab.loft := by
  obtain ⟨hc, r, f, e, he, -⟩ := t.count_counted n a' b' c' hard
  refine ⟨⟨?_, fun x hx hx' => (hc.regs x hx).trans (h.regs x hx hx'), by rw [hc.sat, h.sat]; omega, by rw [hc.ufz, h.ufz]; omega, by rw [hc.poi, h.poi]; omega⟩, by rw [he], by rw [he]⟩
  rw [he]
  obtain ⟨m, es, l, y, f', r', e', js, ga, go, hj, rfl⟩ := h.only
  exact ⟨m, es, l, y, f, r, e, js, ga, go, hj, rfl⟩

/-- A watch is fed. -/
theorem OutFrame.feed (h : OutFrame u n others a b c t) (x : Held) (m wid : Nat) (es : List WatchEl) : OutFrame u n others a b c (feedWatch x m wid es t) ∧
    (feedWatch x m wid es t).fab.flight = t.fab.flight ∧ (feedWatch x m wid es t).fab.loft = t.fab.loft := by
  have honly : OutOnly u (feedWatch x m wid es t) ∧ (feedWatch x m wid es t).regs = t.regs ∧ (feedWatch x m wid es t).fab.flight = t.fab.flight ∧ (feedWatch x m wid es t).fab.loft = t.fab.loft := by
    obtain ⟨m', es', l, y, f, r, e, js, ga, go, hj, rfl⟩ := h.only
    unfold feedWatch
    split
    next k _ =>
      refine ⟨⟨m', es', l, y, f, r, e, _, ga, go, fun j => ?_, rfl⟩, rfl, rfl, rfl⟩
      rw [smGet_smPut]
      split
      next hjk =>
        subst hjk
        exact hj _
      · exact hj j
    · exact ⟨⟨m', es', l, y, f, r, e, js, _, _, hj, rfl⟩, rfl, rfl, rfl⟩
  obtain ⟨ho, hr, hf, hl⟩ := honly
  have hreg : ∀ x', (feedWatch x m wid es t).reg x' = t.reg x' := fun x' => by
    unfold State.reg
    rw [hr]
  refine ⟨⟨ho, fun x' hx hx' => (hreg x').trans (h.regs x' hx hx'), ?_, ?_, ?_⟩, hf, hl⟩
  · exact (congrArg (fun w => fld w 31 0) (hreg _)).trans h.sat
  · exact (congrArg (fun w => fld w 31 0) (hreg _)).trans h.ufz
  · exact (congrArg (fun w => fld w 31 0) (hreg _)).trans h.poi

/-- Another register advances. -/
theorem OutFrame.bump (h : OutFrame u n others a b c t) {x : Nat} (hx : x ∈ others) (hn : x ∉ [A.sparSat n, A.sparUfz n, A.sparPoi n]) (k : Nat) : OutFrame u n others a b c (t.bump x 31 0 k) := by
  have hreg : ∀ y, y ≠ x → (t.bump x 31 0 k).reg y = t.reg y := fun y hy => State.reg_setReg_ne t _ hy
  simp only [List.mem_cons, List.not_mem_nil, or_false, not_or] at hn
  obtain ⟨h1, h2, h3⟩ := hn
  refine ⟨?_, fun y hy hy' => (hreg y (fun he => hy' (he ▸ hx))).trans (h.regs y hy hy'), ?_, ?_, ?_⟩
  · obtain ⟨m, es, l, y, f, r, e, js, ga, go, hj, rfl⟩ := h.only
    exact ⟨m, es, l, y, f, _, e, js, ga, go, hj, rfl⟩
  · exact (congrArg (fun w => fld w 31 0) (hreg _ (Ne.symm h1))).trans h.sat
  · exact (congrArg (fun w => fld w 31 0) (hreg _ (Ne.symm h2))).trans h.ufz
  · exact (congrArg (fun w => fld w 31 0) (hreg _ (Ne.symm h3))).trans h.poi

end outframe

/-! ### An output vector -/

/-- What the lanes that a row writes add to SAT, to UFZ and to POI. -/
def rowSat (row : List (Option (Lane × Nat × WatchEl))) : Nat := (row.filterMap (fun o => o)).foldl (fun a o => a + o.2.1) 0
def rowUfz (row : List (Option (Lane × Nat × WatchEl))) : Nat := ((row.filterMap (fun o => o)).filter (fun o => o.1.ufz)).length
def rowPoi (row : List (Option (Lane × Nat × WatchEl))) : Nat := ((row.filterMap (fun o => o)).filter (fun o => decide (o.1.poi ≠ 0))).length

/-- An output vector: its row's write on its way, and its lanes counted. -/
theorem outWrite_frame {R : RowSet} (F : R.Fits) {u t : State} {i : Issue} (hn : i.spar.val = R.n) {others : List Nat} {a b c : Nat} (h : OutFrame u R.n others a b c t) (x : Held) {v wr : Nat}
    (wen : Bool) (wid : Nat) {row : List (Option (Lane × Nat × WatchEl))} (hrow : row.map (fun o => o.map (fun x => (x.1.code, x.1.mark))) = R.codes v) :
    OutFrame u R.n others (a + rowSat row) (b + rowUfz row) (c + rowPoi row) (outWrite i x (R.base v) R.bits wr wen wid row t) ∧
      (outWrite i x (R.base v) R.bits wr wen wid row t).fab.flight = t.fab.flight ++ R.stores x (fun _ => wr) [v] ∧
      (outWrite i x (R.base v) R.bits wr wen wid row t).fab.loft = t.fab.loft := by
  have hlanes : laneWrites (R.base v) R.bits (R.codes v) = (R.ws v, R.keep v) := laneWrites_bytes F.bits (L := R.half) (R.base v) (F.codes v)
  have hstore : t.storeAt x wr R.n (R.ws v) (R.keep v) = _ := R.storeAt_stores x (fun _ => wr) t [v]
  have h1 := h.keep t.fab.loft t.rcd.entries (t.fab.flight ++ R.stores x (fun _ => wr) [v]) t.fab.cyc t.fab.fresh
  unfold outWrite
  dsimp only
  rw [hrow, hlanes, hn]
  dsimp only
  rw [hstore]
  obtain ⟨h2, hf, hl⟩ := h1.count (rowSat row) (rowUfz row) (rowPoi row) ((row.filterMap (fun o => o)).any (fun o => decide (o.1.poi = 2)))
  cases wen with
  | false => exact ⟨h2, hf, hl⟩
  | true =>
    obtain ⟨h3, hf', hl'⟩ := h2.feed x R.n wid ((row.filterMap (fun o => o)).map (fun o => o.2.2))
    exact ⟨h3, hf'.trans hf, hl'.trans hl⟩

end Sys2Proof.Machine

/-! SUPPORT. RESC: stage k reads row ROW0 + k of a slot and begins the write of its row (R142, R143, R257). -/

namespace Sys2Proof.Machine

/-! ### Numbers of a bay -/

theorem loftLe_bytes {t u : State} (hpt : ∀ a, t.aliasPair 1 a = none ∧ t.fitAlias 1 a = none) (hpu : ∀ a, u.aliasPair 1 a = none ∧ u.fitAlias 1 a = none) (x : Held) {n a len : Nat}
    (h : ∀ b, t.fab.loft.fetch b = u.fab.loft.fetch b) : (t.held x).loftLe n a len = u.loftLe n a len := by
  have hb : (List.range len).map (fun j => (t.held x).loftByte n (a + j)) = (List.range len).map (fun j => u.loftByte n (a + j)) :=
    List.map_congr_left (fun j _ => by rw [held_loftByte_own hpt, loftByte_own hpu, h])
  unfold State.loftLe
  rw [hb]

/-- A number of a sound bay is not poisoned. -/
theorem loftLe_unpoisoned {u : State} (hc : u.fab.loft.Clean) (hp : ∀ a, u.aliasPair 1 a = none ∧ u.fitAlias 1 a = none) (n a len : Nat) : (u.loftLe n a len).2 = 0 := by
  unfold State.loftLe
  dsimp only
  rw [List.foldl_map]
  exact foldl_fixed _ (fun j _ => by rw [loftByte_own hp, hc.fetch_poison, Nat.max_zero])

/-! ### What RESC writes -/

theorem decResc_some {s : State} {i : Issue} {f : RescF} (h : decResc s i = some f) : opOf i.word = 0x70 ∧ 0 < f.nrows ∧ f.nrows ≤ 64 := by
  unfold decResc at h
  dsimp only at h
  split at h
  · split at h
    · cases h
    · rw [Option.ite_none_right_eq_some] at h
      obtain ⟨hc, h⟩ := h
      obtain rfl := Option.some.inj h
      exact ⟨headOk_op hc.1, hc.2.2.2.2.1, hc.2.2.2.2.2.1⟩
  · cases h

theorem runWork_resc {u : State} {i : Issue} {f : RescF} (ho : opOf i.word = 0x70) (hd : decResc u i = some f) (k : Nat) (acc : List (Nat × Nat)) (c : Nat) (t : State) :
    runWork c (.stage i (u.hold i) k acc) t = rescStage f i (u.hold i) k acc c t := by
  have hd : decResc (t.held (u.hold i)) i = some f := hd
  simp only [runWork, stageOf, ho, stageWith, hd]

section resc
variable (u : State) (n : Nat) (f : RescF)

/-- Element j of output row k, and what it adds to the counters and to a watch. -/
def rescOut (k j : Nat) : Lane × Nat × WatchEl :=
  let e := readEntry u n f.compact f.slot (f.row0 + k) j
  let q := rescValue f e.v (rescMul u n f (rescVector u n f) j).1 (u.descr n ((slotRecs f.compact f.slot).headD 0)).anchor
  outEl f.ofmt .even e.poison e.clamped q.1 q.2

/-- The write bounds let element j of row k be written. -/
def rescOpens (k j : Nat) : Bool := f.bnd.writes u n (f.bnd.oR + ((f.row0 + k : Nat) : Int)) (f.bnd.oC + (j : Int))

def rescRow (k : Nat) : List (Option (Lane × Nat × WatchEl)) := (List.range 64).map (fun j => if rescOpens u n f k j then some (rescOut u n f k j) else none)

def rescRows : RowSet where
  n := n
  d := effAddr u n f.dst
  half := 32
  bits := f.ofmt.bits
  count := f.nrows
  codes := fun k => (rescRow u n f k).map (fun o => o.map (fun x => (x.1.code, x.1.mark)))

theorem Fmt.bits_cases (g : Fmt) : g.bits = 4 ∨ g.bits = 8 ∨ g.bits = 16 := by cases g <;> decide

theorem rescRows_len : (rescRows u n f).len = f.ofmt.vec := by
  unfold RowSet.len rescRows Fmt.vec
  dsimp only
  omega

theorem rescRows_base (k : Nat) : (rescRows u n f).base k = effAddr u n f.dst + k * f.ofmt.vec := by
  unfold RowSet.base
  rw [rescRows_len]
  rfl

theorem rescRows_code (k : Nat) {j : Nat} (hj : j < 64) : ((rescRows u n f).codes k).getD j none =
    if rescOpens u n f k j then some ((rescOut u n f k j).1.code, (rescOut u n f k j).1.mark) else none := by
  unfold rescRows rescRow
  simp only [List.map_map, List.getD_eq_getElem?_getD, List.getElem?_map, List.getElem?_range hj, Option.map_some, Option.getD_some, Function.comp]
  split <;> rfl

end resc

theorem rescRows_fits {u : State} {i : Issue} {f : RescF} (hchk : chkResc (u.held (u.hold i)) i f = none) : (rescRows u i.spar.val f).Fits where
  bits := f.ofmt.bits_cases
  codes := fun k => by simp [rescRows, rescRow]
  range := by
    rw [rescRows_len]
    have : effAddr u i.spar.val f.dst + f.nrows * f.ofmt.vec ≤ 0x600000 := (loftCheck_none hchk (effAddr u i.spar.val f.dst, f.nrows * f.ofmt.vec, 64) (by simp [effAddr_hold])).1
    simp only [rescRows]
    omega
  apart := by
    have : effAddr u i.spar.val f.dst % 64 = 0 := (loftCheck_none hchk (effAddr u i.spar.val f.dst, f.nrows * f.ofmt.vec, 64) (by simp [effAddr_hold])).2
    rw [rescRows_len]
    simp only [rescRows, Fmt.vec]
    exact .inr ⟨by omega, by omega⟩

/-- The counts of the rows before k. -/
def rowsSum (g : List (Option (Lane × Nat × WatchEl)) → Nat) (row : Nat → List (Option (Lane × Nat × WatchEl))) (k : Nat) : Nat := ((List.range k).map (fun v => g (row v))).sum

theorem rowsSum_succ (g : List (Option (Lane × Nat × WatchEl)) → Nat) (row : Nat → List (Option (Lane × Nat × WatchEl))) (k : Nat) : rowsSum g row (k + 1) = rowsSum g row k + g (row k) := by
  unfold rowsSum
  rw [List.range_succ (n := k), List.map_append, List.sum_append]
  simp

section rescstage
variable {u : State} {i : Issue} {f : RescF} (hq : QuietBay u i.spar.val) (hchk : chkResc (u.held (u.hold i)) i f = none)
include hq hchk

omit hchk in
/-- The multipliers of a sound bay are not poisoned. -/
theorem rescMul_sound (j : Nat) : (rescMul u i.spar.val f (rescVector u i.spar.val f) j).2 = 0 := by
  have hvec : ∀ x ∈ rescVector u i.spar.val f, x.2 = 0 := by
    intro x hx
    unfold rescVector at hx
    split at hx
    · obtain ⟨l, -, rfl⟩ := List.mem_map.mp hx
      exact loftLe_unpoisoned (Mem.clean_of_nil hq.marks hq.flips) hq.plain _ _ _
    · exact absurd hx List.not_mem_nil
  unfold rescMul
  split
  · rfl
  · rfl
  · dsimp only
    rw [List.getD_eq_getElem?_getD]
    cases hg : (rescVector u i.spar.val f)[j]? with
    | none => rfl
    | some x => exact hvec x (List.mem_of_getElem? hg)

omit hchk in
/-- The row that stage k makes of the entries, which no stage changes. -/
theorem rescRow_stage {t : State} (hcruc : t.fab.crucible = u.fab.crucible) (k : Nat) :
    (List.range 64).map (fun (j : Nat) =>
      if f.bnd.writes (t.held (u.hold i)) i.spar.val (f.bnd.oR + ((f.row0 + k : Nat) : Int)) (f.bnd.oC + (j : Int)) then
        some (outEl f.ofmt .even (max (readEntry (t.held (u.hold i)) i.spar.val f.compact f.slot (f.row0 + k) j).poison (rescMul (t.held (u.hold i)) i.spar.val f (rescVector u i.spar.val f) j).2)
          (readEntry (t.held (u.hold i)) i.spar.val f.compact f.slot (f.row0 + k) j).clamped
          (rescValue f (readEntry (t.held (u.hold i)) i.spar.val f.compact f.slot (f.row0 + k) j).v (rescMul (t.held (u.hold i)) i.spar.val f (rescVector u i.spar.val f) j).1
            ((t.held (u.hold i)).descr i.spar.val ((slotRecs f.compact f.slot).headD 0)).anchor).1
          (rescValue f (readEntry (t.held (u.hold i)) i.spar.val f.compact f.slot (f.row0 + k) j).v (rescMul (t.held (u.hold i)) i.spar.val f (rescVector u i.spar.val f) j).1
            ((t.held (u.hold i)).descr i.spar.val ((slotRecs f.compact f.slot).headD 0)).anchor).2)
      else none) = rescRow u i.spar.val f k := by
  refine List.map_congr_left (fun j _ => ?_)
  have he : readEntry (t.held (u.hold i)) i.spar.val f.compact f.slot (f.row0 + k) j = readEntry u i.spar.val f.compact f.slot (f.row0 + k) j := by
    unfold readEntry State.entry State.half
    rw [show (t.held (u.hold i)).fab.crucible = u.fab.crucible from hcruc]
  have hmul : rescMul (t.held (u.hold i)) i.spar.val f (rescVector u i.spar.val f) j = rescMul u i.spar.val f (rescVector u i.spar.val f) j := rfl
  rw [he, hmul, rescMul_sound hq, Nat.max_zero]
  rfl

/-- A stage of RESC reads its row, and stage 0 the multipliers before any row is begun. -/
theorem resc_rowsWord (hrun : ∀ k acc c t, runWork c (.stage i (u.hold i) k acc) t = rescStage f i (u.hold i) k acc c t) :
    RowsWord (rescRows u i.spar.val f) i (u.hold i) (fun _ => False)
      (fun k _ => OutFrame u i.spar.val [A.sparCrucPerr i.spar.val] (rowsSum rowSat (rescRow u i.spar.val f) k) (rowsSum rowUfz (rescRow u i.spar.val f) k)
        (rowsSum rowPoi (rescRow u i.spar.val f) k))
      (fun k acc => 0 < k → acc = rescVector u i.spar.val f) id f.nrows u.fab.loft where
  fits := rescRows_fits hchk
  plain := fun h => h.plain (by simp [A.sparCrucPerr]; omega) hq.plain
  own := fun h g hg => hq.own g (h.only.segs ▸ hg)
  keep := fun m es l y f h => h.keep m es l y f
  other := fun h => h.elim
  extra := fun _ h => h.elim
  stage := by
    intro t k acc e pend c hk hS hFr hL
    have F := rescRows_fits hchk
    have hpt := hFr.plain (by simp [A.sparCrucPerr]; omega) hq.plain
    have hfirst : k = 0 → ∀ v, v < (rescRows u i.spar.val f).count → id v < k → ∀ j, j < (rescRows u i.spar.val f).len → ∀ b : Nat, b ≠ (rescRows u i.spar.val f).key v + j :=
      fun h0 v _ hv => absurd (h0 ▸ hv) (Nat.not_lt_zero _)
    have hvec : (if k = 0 then rescVector (t.held (u.hold i)) i.spar.val f else acc) = rescVector u i.spar.val f := by
      split
      next h0 =>
        unfold rescVector
        simp only [loftLe_bytes hpt hq.plain (u.hold i) (fun b => hL.fetch_rest F hq.flips hq.marks (fun v hv hs j hj => hfirst h0 v hv hs j hj b))]
        rfl
      next h0 => exact hS (by omega)
    have hport : ∀ accs : List (Nat × Nat), t.portReads (u.hold i) i.spar.val (if f.msrc = 2 ∧ k = 0 then accs else []) = t := fun accs => by
      refine portReads_unmarked hpt hL.flips _ _ (fun a ha j _ => hL.mark_rest F (fun v hv hs l hl => ?_))
      split at ha
      next h0 => exact hfirst h0.2 v hv hs l hl _
      next => exact absurd ha List.not_mem_nil
    have hcruc : t.fab.crucible = u.fab.crucible := by
      obtain ⟨m, es, l, y, g, r, ev, js, ga, go, -, rfl⟩ := hFr.only
      rfl
    obtain ⟨perr, hstage⟩ : ∃ perr, rescStage f i (u.hold i) k acc c t = nextStage (decide (k + 1 < f.nrows)) i (u.hold i) (k + 1) (rescVector u i.spar.val f) (c + 1)
        ((outWrite i (u.hold i) ((rescRows u i.spar.val f).base k) (rescRows u i.spar.val f).bits (c + 5) f.wen f.wid (rescRow u i.spar.val f k) t).bump (A.sparCrucPerr i.spar.val) 31 0 perr) := by
      unfold rescStage
      dsimp only
      rw [hvec, hport, ← rescRow_stage hq hcruc k, rescRows_base, List.map_map]
      exact ⟨_, rfl⟩
    obtain ⟨h1, hfl, hlo⟩ := outWrite_frame F (R := rescRows u i.spar.val f) (i := i) rfl hFr (u.hold i) (v := k) (wr := c + 5) f.wen f.wid (row := rescRow u i.spar.val f k) rfl
    have h2 := h1.bump (List.mem_singleton_self _) (by simp [A.sparCrucPerr, A.sparSat, A.sparUfz, A.sparPoi, rescRows]) perr
    rw [hrun, hstage, nextStage_eq]
    have hloft : ∀ s : State, (s.bump (A.sparCrucPerr i.spar.val) 31 0 perr).fab = s.fab := fun _ => rfl
    refine ⟨(rescRows u i.spar.val f).stores (u.hold i) (fun _ => c + 5) [k] ++ nextStages i (u.hold i) (decide (k + 1 < f.nrows)) (k + 1) (c + 1) (rescVector u i.spar.val f), ?_, ?_, ?_, ?_⟩
    · dsimp only
      rw [hloft, hfl, List.append_assoc]
      rfl
    · dsimp only
      rw [hloft, hlo]
    · rw [rowsSum_succ, rowsSum_succ, rowsSum_succ]
      generalize (outWrite i (u.hold i) ((rescRows u i.spar.val f).base k) (rescRows u i.spar.val f).bits (c + 5) f.wen f.wid (rescRow u i.spar.val f k) t).bump (A.sparCrucPerr i.spar.val) 31 0 perr = z at h2
      exact h2.keep z.fab.loft z.rcd.entries _ z.fab.cyc z.fab.fresh
    · refine rowsBegun hk (fun v => ?_) (List.nodup_singleton k) (by simp) (fun _ _ => by omega) (by omega) (fun _ _ => rfl)
      rw [List.mem_singleton]
      exact ⟨fun h => ⟨h ▸ hk, h⟩, fun h => h.2⟩

end rescstage

/-! ### The elements and the counts -/

theorem outEl_poisoned {f : Fmt} {tie : Tie} {p : Nat} (hp : p ≠ 0) (extra : Bool) (num : Int) (den : Nat) :
    outEl f tie p extra num den = (⟨f.poison, if f.isInt then p else 0, false, false, p⟩, 0, ⟨0, 0, 0⟩) := if_pos hp

theorem outEl_clean (f : Fmt) (tie : Tie) (extra : Bool) (num : Int) (den : Nat) : (outEl f tie 0 extra num den).1.code = (convertT tie f num den).code ∧
    (outEl f tie 0 extra num den).1.poi = 0 ∧ (outEl f tie 0 extra num den).2.1 = b2n extra + b2n (convertT tie f num den).sat := ⟨rfl, rfl, rfl⟩

theorem Fmt.poison_lt (f : Fmt) : f.poison < 2 ^ f.bits := by cases f <;> decide

theorem convert_code_lt (f : Fmt) (n : Int) {d : Nat} (hd : 0 < d) : (convert f n d).code < 2 ^ f.bits := (conversionIsNearest f n d hd).1

theorem rescValue_pos (f : RescF) (v m anchor : Int) : 0 < (rescValue f v m anchor).2 := by
  unfold rescValue
  split
  · exact Nat.two_pow_pos _
  · split <;> exact Nat.two_pow_pos _

theorem filterMap_ite {α β : Type} (p : α → Bool) (g : α → β) (l : List α) : l.filterMap (fun x => if p x then some (g x) else none) = (l.filter p).map g := by
  induction l with
  | nil => rfl
  | cons x l ih => cases hx : p x <;> simp [hx, ih]

theorem foldl_add_sum {α : Type} (g : α → Nat) (l : List α) : l.foldl (fun a x => a + g x) 0 = (l.map g).sum := by
  rw [List.sum_eq_foldl, List.foldl_map]

theorem sum_filter_ite {α : Type} (p : α → Bool) (w : α → Nat) (l : List α) : ((l.filter p).map w).sum = (l.map (fun x => if p x then w x else 0)).sum := by
  induction l with
  | nil => rfl
  | cons x l ih => cases hx : p x <;> simp [hx, ih]

/-- The cells of an output that the write bounds let write. -/
def openCells (opens : Nat → Nat → Bool) (k : Nat) : List (Nat × Nat) := (List.range k).flatMap (fun k => ((List.range 64).filter (opens k)).map (fun j => (k, j)))

/-- A sum over the open cells, row by row. -/
theorem openCells_sum (opens : Nat → Nat → Bool) (p : Nat × Nat → Bool) (w : Nat × Nat → Nat) (k : Nat) : (((openCells opens k).filter p).map w).sum =
    ((List.range k).map (fun k => ((((List.range 64).filter (opens k)).filter (fun j => p (k, j))).map (fun j => w (k, j))).sum)).sum := by
  unfold openCells
  induction k with
  | zero => rfl
  | succ k ih =>
    rw [List.range_succ (n := k), List.flatMap_append, List.filter_append, List.map_append, List.sum_append, ih, List.map_append, List.sum_append]
    simp only [List.flatMap_cons, List.flatMap_nil, List.append_nil, List.map_cons, List.map_nil, List.sum_cons, List.sum_nil, Nat.add_zero, List.filter_map, List.map_map]
    rfl

section resccount
variable (u : State) (n : Nat) (f : RescF)

theorem rescRow_open (k : Nat) : (rescRow u n f k).filterMap (fun o => o) = ((List.range 64).filter (rescOpens u n f k)).map (rescOut u n f k) := by
  unfold rescRow
  rw [List.filterMap_map]
  exact filterMap_ite _ _ _

/-- The entry that element j of row k is made of. -/
abbrev rescEntry (k j : Nat) : EntryRead := readEntry u n f.compact f.slot (f.row0 + k) j

/-- The value that an element of an entry without poison is converted from. -/
abbrev rescQuot (k j : Nat) : Int × Nat :=
  rescValue f (rescEntry u n f k j).v (rescMul u n f (rescVector u n f) j).1 (u.descr n ((slotRecs f.compact f.slot).headD 0)).anchor

theorem rescOut_code {k j : Nat} (h : (rescEntry u n f k j).poison = 0) : (rescOut u n f k j).1.code = (convert f.ofmt (rescQuot u n f k j).1 (rescQuot u n f k j).2).code := by
  unfold rescOut
  dsimp only
  rw [h]
  exact (outEl_clean _ _ _ _ _).1

theorem rescOut_code_poisoned {k j : Nat} (h : (rescEntry u n f k j).poison ≠ 0) : (rescOut u n f k j).1.code = f.ofmt.poison := congrArg (fun o => o.1.code) (outEl_poisoned h _ _ _)

theorem rescOut_mark_poisoned {k j : Nat} (h : (rescEntry u n f k j).poison ≠ 0) :
    (rescOut u n f k j).1.mark = if f.ofmt.isInt then (rescEntry u n f k j).poison else 0 := congrArg (fun o => o.1.mark) (outEl_poisoned h _ _ _)

theorem rescOut_poi (k j : Nat) : (rescOut u n f k j).1.poi = (rescEntry u n f k j).poison := by
  unfold rescOut
  dsimp only
  by_cases h : (rescEntry u n f k j).poison = 0
  · rw [h, (outEl_clean _ _ _ _ _).2.1]
  · rw [outEl_poisoned h]

theorem rescOut_sat (k j : Nat) : (rescOut u n f k j).2.1 = if (rescEntry u n f k j).poison = 0 then
    b2n (rescEntry u n f k j).clamped + b2n (convert f.ofmt (rescQuot u n f k j).1 (rescQuot u n f k j).2).sat else 0 := by
  unfold rescOut
  dsimp only
  split
  next h => rw [h]; exact (outEl_clean _ _ _ _ _).2.2
  next h => rw [outEl_poisoned h]

theorem rescRow_sat (k : Nat) : rowSat (rescRow u n f k) = ((((List.range 64).filter (rescOpens u n f k)).filter (fun j => decide ((rescEntry u n f k j).poison = 0))).map (fun j =>
    b2n (rescEntry u n f k j).clamped + b2n (convert f.ofmt (rescQuot u n f k j).1 (rescQuot u n f k j).2).sat)).sum := by
  unfold rowSat
  rw [rescRow_open, foldl_add_sum, List.map_map, sum_filter_ite (fun j => decide ((rescEntry u n f k j).poison = 0))]
  refine congrArg List.sum (List.map_congr_left (fun j _ => ?_))
  rw [Function.comp, rescOut_sat]
  simp only [decide_eq_true_eq]

theorem rescRow_poi (k : Nat) : rowPoi (rescRow u n f k) = (((List.range 64).filter (rescOpens u n f k)).filter (fun j => decide ((rescEntry u n f k j).poison ≠ 0))).length := by
  unfold rowPoi
  rw [rescRow_open, List.filter_map, List.length_map]
  refine congrArg List.length (List.filter_congr (fun j _ => ?_))
  rw [Function.comp, rescOut_poi]

end resccount

theorem rescaleWord : Sys2Proof.Stated.RescaleWord := by
  intro s i f u n d anchor e q opens cells hq hi
  obtain ⟨-, hdec, hchk⟩ := id hi
  obtain ⟨ho, hn0, hn⟩ := decResc_some hdec
  have hchk : chkResc (u.held (u.hold i)) i f = none := hchk
  have F := rescRows_fits hchk
  have W := resc_rowsWord hq hchk (runWork_resc ho hdec)
  have hbegin : staged f i (u.hold i) u = { u with fab := { u.fab with flight := ⟨i.c.toNat, 3, .stage i (u.hold i) 0 []⟩ :: [] } } := by
    unfold staged State.later
    rw [hq.calm]
    rfl
  have hst : ∀ v, v < (rescRows u i.spar.val f).count → id v < f.nrows := fun _ h => h
  refine ⟨_, commandWord_begins staged hi, ?_⟩
  change _ ∧ _
  obtain ⟨-, hFr, hL⟩ := W.leaves (u := staged f i (u.hold i) u) (xs := []) (t := settleAll (staged f i (u.hold i) u)) i.c.isLt hn0 (by omega) hst (by simp) (by simp)
    (by rw [hbegin]) (fun h => absurd h (Nat.lt_irrefl 0)) (by rw [hbegin]; exact (OutFrame.start u n _).keep u.fab.loft u.rcd.entries _ u.fab.cyc u.fab.fresh) (by rw [hbegin]) hq.flips hq.marks rfl
  generalize settleAll (staged f i (u.hold i) u) = t at hFr hL
  have hpt := hFr.plain (by simp [A.sparCrucPerr]; omega) hq.plain
  have hlen := rescRows_len u n f
  have hbase := rescRows_base u n f
  have hbits : (rescRows u n f).bits = f.ofmt.bits := rfl
  have helem : ∀ k j, k < f.nrows → j < 64 → (elemAt t n (d + k * f.ofmt.vec) f.ofmt.bits j).1 =
      if opens k j then (rescOut u n f k j).1.code % 2 ^ f.ofmt.bits else (elemAt u n (d + k * f.ofmt.vec) f.ofmt.bits j).1 := fun k j hk hj => by
    have he := hL.elem F hst hpt hq.plain hq.flips hk (l := j) hj
    rw [rescRows_code u n f k hj, hbase] at he
    refine he.trans ?_
    change ((if opens k j then _ else _ : Option (Nat × Nat)).map _).getD _ = _
    split <;> rfl
  have hcells : cells = openCells (rescOpens u n f) f.nrows := rfl
  have hself : t.fab.crucible = u.fab.crucible ∧ t.fab.descr = u.fab.descr ∧ t.fab.sreg = u.fab.sreg := by
    obtain ⟨m, es, l, y, g, r, ev, js, ga, go, -, rfl⟩ := hFr.only
    exact ⟨rfl, rfl, rfl⟩
  obtain ⟨hcruc, hdescr, hsreg⟩ := hself
  refine ⟨hcruc, hdescr, hsreg, fun k j hk hj hop => ⟨fun hp => ?_, fun hp => ⟨?_, fun hint => ?_⟩⟩, fun k j hk hj hop => ?_, fun a ha hout => ?_, fun m a _ hm ha => ?_, ?_, ?_⟩
  · have hcode : (rescOut u n f k j).1.code = (convert f.ofmt (q k j).1 (q k j).2).code := rescOut_code u n f hp
    rw [helem k j hk hj, if_pos hop, hcode]
    exact Nat.mod_eq_of_lt (convert_code_lt _ _ (rescValue_pos _ _ _ _))
  · rw [helem k j hk hj, if_pos hop, rescOut_code_poisoned u n f hp]
    exact Nat.mod_eq_of_lt f.ofmt.poison_lt
  · have hmark : (rescOut u n f k j).1.mark = (e k j).poison := (rescOut_mark_poisoned u n f hp).trans (if_pos hint)
    have hc := rescRows_code u n f k hj
    rw [if_pos (show rescOpens u n f k j = true from hop)] at hc
    have := hL.elem_poisoned F hst hpt (v := k) (l := j) hk hj hc (by dsimp only; rw [hmark]; exact hp)
    rw [hbase] at this
    exact this
  · rw [helem k j hk hj, hop]
    rfl
  · have hout : a < effAddr u i.spar.val f.dst ∨ effAddr u i.spar.val f.dst + f.nrows * f.ofmt.vec ≤ a := hout
    refine hL.loftByte_rest F hpt hq.plain hq.flips hq.marks (by omega) (.inr ?_)
    rw [hlen]
    exact hout
  · exact hL.loftByte_rest F hpt hq.plain hq.flips hq.marks (by omega) (.inl hm)
  · have hsat := hFr.sat
    rw [hcells, openCells_sum]
    refine hsat.trans ?_
    unfold rowsSum
    simp only [rescRow_sat]
    rfl
  · have hpoi := hFr.poi
    have hlength : ∀ l : List (Nat × Nat), l.length = (l.map (fun _ => 1)).sum := fun l => by simp
    rw [hcells, hlength, openCells_sum]
    refine hpoi.trans ?_
    unfold rowsSum
    simp only [rescRow_poi, List.map_const', List.sum_replicate, Nat.mul_one, smul_eq_mul]
    rfl

end Sys2Proof.Machine

/-! SUPPORT. QUANT: scale stages that fill the scale buffer, then a stage per vector (R144 to R148, R258, R259). -/

namespace Sys2Proof.Machine

/-! ### The codewords of a vector's read -/

theorem mem_eraseRepsBy_loop {α : Type} (r : α → α → Bool) {x : α} : ∀ (l : List α) (a : α) (rs : List α), x ∈ List.eraseRepsBy.loop r a l rs → x = a ∨ x ∈ l ∨ x ∈ rs := by
  intro l
  induction l with
  | nil =>
    intro a rs h
    simpa [List.eraseRepsBy.loop, or_comm] using h
  | cons b l ih =>
    intro a rs h
    unfold List.eraseRepsBy.loop at h
    split at h
    · exact (ih a rs h).imp id (Or.imp (List.mem_cons_of_mem _) id)
    · rcases ih b (a :: rs) h with rfl | h | h
      · exact .inr (.inl List.mem_cons_self)
      · exact .inr (.inl (List.mem_cons_of_mem _ h))
      · exact (List.mem_cons.mp h).imp id .inr

theorem mem_of_eraseReps {x : Nat} {l : List Nat} (h : x ∈ l.eraseReps) : x ∈ l := by
  cases l with
  | nil => exact h
  | cons a l => 
    rcases mem_eraseRepsBy_loop _ l a [] h with rfl | h | h
    · exact List.mem_cons_self
    · exact List.mem_cons_of_mem _ h
    · exact absurd h List.not_mem_nil

/-- A read of elements reads codewords that hold a byte of one of them. -/
theorem oneRead_mem {els : List (Nat × Nat)} {a : Nat × Nat} (h : a ∈ oneRead els) : ∃ e ∈ els, ∃ b, (b = e.1 ∨ b = e.1 + e.2 - 1) ∧ a = (8 * (b / 8), 8) := by
  obtain ⟨cw, hcw, rfl⟩ := List.mem_map.mp h
  obtain ⟨e, he, hcw⟩ := List.mem_flatMap.mp (mem_of_eraseReps ((mem_uniq _ _).mp hcw))
  simp only [List.mem_cons, List.not_mem_nil, or_false] at hcw
  rcases hcw with rfl | rfl
  · exact ⟨e, he, e.1, .inl rfl, rfl⟩
  · exact ⟨e, he, e.1 + e.2 - 1, .inr rfl, rfl⟩

/-- The read of a vector finds no mark where the bytes of the vector have none. -/
theorem vecAccs_unmarked {m : Mem} (s : State) (n : Nat) (b : Bounds) {base bits v : Nat} (hb : bits = 8 ∨ bits = 16)
    (hm : ∀ a, base + v * 32 * bits ≤ a → a < base + v * 32 * bits + 32 * bits → m.mark (bayKey n a / 8) = 0) :
    ∀ a ∈ vecAccs s n b base bits v, ∀ j, j < a.2 → m.mark (bayKey n (a.1 + j) / 8) = 0 := by
  intro a ha j hj
  obtain ⟨e, he, x, hx, rfl⟩ := oneRead_mem ha
  obtain ⟨l, hl, he⟩ := List.mem_filterMap.mp he
  rw [List.mem_range] at hl
  rw [Option.ite_none_right_eq_some] at he
  obtain rfl := Option.some.inj he.2
  have hcw : bayKey n (8 * (x / 8) + j) / 8 = bayKey n x / 8 := by
    dsimp only at hj
    unfold bayKey
    omega
  rw [hcw]
  dsimp only at hx
  rcases hb with rfl | rfl <;> exact hm x (by omega) (by omega)

/-! ### What QUANT writes -/

theorem decQuant_some {s : State} {i : Issue} {f : QuantF} (h : decQuant s i = some f) :
    opOf i.word = 0x71 ∧ 0 < f.nvec ∧ f.nvec < 1024 ∧ f.ofmt ≠ .bf16 ∧ (f.grp = 32 ∨ f.grp = 64 ∨ f.grp = 128) ∧ (f.burn = 0 ∨ f.burn = 32 ∨ f.burn = 64 ∨ f.burn = 128) := by
  unfold decQuant at h
  dsimp only at h
  split at h
  · split at h
    · cases h
    · rw [Option.ite_none_right_eq_some] at h
      obtain ⟨⟨ho, -, hg, hf, hn⟩, h⟩ := h
      obtain rfl := Option.some.inj h
      have : fld i.word 14 5 < 2 ^ (14 + 1 - 5) := fld_lt _ _ _
      have hb : fld i.word 16 15 < 2 ^ (16 + 1 - 15) := fld_lt _ _ _
      refine ⟨headOk_op ho, Nat.pos_of_ne_zero hn, by dsimp only; omega, hf, ?_, ?_⟩
      · dsimp only
        interval_cases fld i.word 21 20 <;> simp
      · dsimp only
        generalize fld i.word 16 15 = b at hb
        norm_num at hb
        interval_cases b <;> simp
  · cases h

theorem runWork_quant {i : Issue} {f : QuantF} (ho : opOf i.word = 0x71) (hd : ∀ t, decQuant t i = some f) (h : Held) (k : Nat) (acc : List (Nat × Nat)) (c : Nat) (t : State) :
    runWork c (.stage i h k acc) t = quantStage f i h k acc c t := by
  simp only [runWork, stageOf, ho, stageWith, hd]

section quant
variable (u : State) (n : Nat) (f : QuantF)

/-- The scale codes that the first k sectors hold. -/
def quantBuf (k : Nat) : List (Nat × Nat) := (List.range k).flatMap (quantSector u n f)

/-- The scales of all groups. -/
def quantScales : List (Nat × Nat) := quantBuf u n f (quantScaleSecs f)

/-- The write bounds let lane l of vector v be written. -/
def quantOpens (v l : Nat) : Bool := f.bnd.writes u n (f.bnd.oR + (v : Int)) (f.bnd.oC + (l : Int))

def quantRow (v : Nat) : List (Option (Lane × Nat × WatchEl)) :=
  ((quantVec u n f (quantScales u n f) v).zipIdx).map (fun (o : (Lane × Nat × WatchEl) × Nat) => if quantOpens u n f v o.2 then some o.1 else none)

def quantRows : RowSet where
  n := n
  d := effAddr u n f.dst
  half := 128
  bits := f.ofmt.bits
  count := f.nvec
  codes := fun v => (quantRow u n f v).map (fun o => o.map (fun x => (x.1.code, x.1.mark)))

theorem quantRows_len : (quantRows u n f).len = 32 * f.ofmt.bits := by
  unfold RowSet.len quantRows
  dsimp only
  omega

theorem quantRows_base (v : Nat) : (quantRows u n f).base v = effAddr u n f.dst + v * 32 * f.ofmt.bits := by
  unfold RowSet.base
  rw [quantRows_len, Nat.mul_assoc]
  rfl

end quant

/-- The bits of an output of QUANT. -/
theorem quant_bits {f : QuantF} (h : f.ofmt ≠ .bf16) : f.ofmt.bits = 4 ∨ f.ofmt.bits = 8 := by
  cases hf : f.ofmt with
  | bf16 => exact absurd hf h
  | a4 => exact .inl rfl
  | _ => exact .inr rfl

theorem chkQuant_none {u : State} {i : Issue} {f : QuantF} (hchk : chkQuant (u.held (u.hold i)) i f = none) :
    effAddr u i.spar.val f.src + f.nvec * 512 ≤ 0x600000 ∧ effAddr u i.spar.val f.dst + f.nvec * 32 * f.ofmt.bits ≤ 0x600000 ∧ effAddr u i.spar.val f.dst % 64 = 0 := by
  have hall := loftCheck_none hchk
  have hd := hall (effAddr u i.spar.val f.dst, f.nvec * 32 * f.ofmt.bits, 64) (by simp [effAddr_hold])
  exact ⟨(hall (effAddr u i.spar.val f.src, f.nvec * 512, 64) (by simp [effAddr_hold])).1, hd.1, hd.2⟩

theorem quantRows_fits {u : State} {i : Issue} {f : QuantF} (hchk : chkQuant (u.held (u.hold i)) i f = none) : (quantRows u i.spar.val f).Fits where
  bits := f.ofmt.bits_cases
  codes := fun v => by simp [quantRows, quantRow, quantVec]
  range := by
    obtain ⟨-, h, -⟩ := chkQuant_none hchk
    rw [quantRows_len]
    simp only [quantRows]
    rw [← Nat.mul_assoc]
    omega
  apart := by
    obtain ⟨-, -, h⟩ := chkQuant_none hchk
    rw [quantRows_len]
    simp only [quantRows]
    exact .inr ⟨by omega, by omega⟩

section quantstage
variable {u : State} {i : Issue} {f : QuantF} (hq : QuietBay u i.spar.val)
include hq

theorem quantSector_kept {t : State} (hpt : ∀ a, t.aliasPair 1 a = none ∧ t.fitAlias 1 a = none) (h : ∀ b, t.fab.loft.fetch b = u.fab.loft.fetch b) (k : Nat) :
    quantSector (t.held (u.hold i)) i.spar.val f k = quantSector u i.spar.val f k := by
  have hel : ∀ base l, elemAt (t.held (u.hold i)) i.spar.val base 16 l = elemAt u i.spar.val base 16 l ∧ elemAt (t.held (u.hold i)) i.spar.val base 8 l = elemAt u i.spar.val base 8 l :=
    fun base l => ⟨elemAt_kept hpt hq.plain (u.hold i) (.inr (.inr rfl)) le_rfl (fun _ _ => h _), elemAt_kept hpt hq.plain (u.hold i) (.inr (.inl rfl)) le_rfl (fun _ _ => h _)⟩
  unfold quantSector
  simp only [(hel _ _).1, (hel _ _).2]
  rfl

theorem quantVec_kept {t : State} (hpt : ∀ a, t.aliasPair 1 a = none ∧ t.fitAlias 1 a = none) (hclass : t.bitClass = u.bitClass) {v : Nat}
    (h : ∀ j, j < 512 → t.fab.loft.fetch (bayKey i.spar.val (effAddr u i.spar.val f.src + v * 512 + j)) = u.fab.loft.fetch (bayKey i.spar.val (effAddr u i.spar.val f.src + v * 512 + j)))
    (buf : List (Nat × Nat)) : quantVec (t.held (u.hold i)) i.spar.val f buf v = quantVec u i.spar.val f buf v := by
  have hin : ∀ l, l < 256 → quantIn (t.held (u.hold i)) i.spar.val f v l = quantIn u i.spar.val f v l := fun l hl => by
    have hel : elemAt (t.held (u.hold i)) i.spar.val (effAddr u i.spar.val f.src + v * 512) 16 l = elemAt u i.spar.val (effAddr u i.spar.val f.src + v * 512) 16 l :=
      elemAt_kept hpt hq.plain (u.hold i) (.inr (.inr rfl)) (len := 512) (by omega) h
    unfold quantIn
    rw [← hel]
    rfl
  have hxs : (List.range 256).map (fun l => elOpnd .bf16 (quantIn (t.held (u.hold i)) i.spar.val f v l)) = (List.range 256).map (fun l => elOpnd .bf16 (quantIn u i.spar.val f v l)) :=
    List.map_congr_left (fun l hl => by rw [hin l (List.mem_range.mp hl)])
  have htie : burnTie (t.held (u.hold i)) = burnTie u := by
    unfold burnTie
    rw [show (t.held (u.hold i)).bitClass = u.bitClass from hclass]
  unfold quantVec
  rw [hxs, htie]

variable (hchk : chkQuant (u.held (u.hold i)) i f = none) (hf : f.ofmt ≠ .bf16) (hd : effAddr u i.spar.val f.dst ≤ effAddr u i.spar.val f.src ∨
  effAddr u i.spar.val f.src + f.nvec * 512 ≤ effAddr u i.spar.val f.dst)
include hchk hf hd

omit hq in
/-- No vector is written before the word has read it. -/
theorem quantRows_behind {v w a : Nat} (hv : v < f.nvec) (hw : w < v) (ha : effAddr u i.spar.val f.src + v * 512 ≤ a) (ha' : a < effAddr u i.spar.val f.src + v * 512 + 512) :
    a < 2 ^ 23 ∧ (a < (quantRows u i.spar.val f).base w ∨ (quantRows u i.spar.val f).base w + (quantRows u i.spar.val f).len ≤ a) := by
  obtain ⟨hsrc, -, -⟩ := chkQuant_none hchk
  have h1 : (v + 1) * 512 ≤ f.nvec * 512 := Nat.mul_le_mul_right _ hv
  rw [quantRows_base, quantRows_len]
  refine ⟨by omega, ?_⟩
  rcases hd with hd | hd
  · have hb : f.ofmt.bits ≤ 8 := by rcases quant_bits hf with h | h <;> omega
    have h2 : (w + 1) * (32 * f.ofmt.bits) ≤ v * (32 * 8) := Nat.mul_le_mul hw (Nat.mul_le_mul_left 32 hb)
    rw [Nat.add_one_mul, ← Nat.mul_assoc] at h2
    omega
  · omega

/-- What stage k of QUANT is given: the codes of the sectors that the stages before it have read. -/
def QuantBuffered (u : State) (n : Nat) (f : QuantF) (k : Nat) (acc : List (Nat × Nat)) : Prop := acc = quantBuf u n f (min k (quantScaleSecs f))

/-- What stage k of QUANT leaves: its rows begun, and the next stage; no byte changes. -/
def QuantBegins (u : State) (i : Issue) (f : QuantF) (k : Nat) (acc : List (Nat × Nat)) (c : Nat) (t : State) : Prop :=
  ∃ fl, (quantStage f i (u.hold i) k acc c t).fab.flight = t.fab.flight ++ fl ∧ (quantStage f i (u.hold i) k acc c t).fab.loft = t.fab.loft ∧
    (∃ a b d, OutFrame u i.spar.val [] a b d (quantStage f i (u.hold i) k acc c t)) ∧
    RowsBegun (quantRows u i.spar.val f) i (u.hold i) (QuantBuffered u i.spar.val f) (fun v => quantScaleSecs f + v) (quantScaleSecs f + f.nvec) k c fl

section begins
variable {t : State} {acc : List (Nat × Nat)} {pend : Nat → Prop} {c : Nat} (hFr : ∃ a b d, OutFrame u i.spar.val [] a b d t)
include hFr

omit hf hd in
/-- A stage that fills a sector of the scale buffer: no vector is begun yet. -/
theorem quantBegins_scale (hn : 0 < f.nvec) {k : Nat} (hsc : k < quantScaleSecs f) (hS : QuantBuffered u i.spar.val f k acc)
    (hL : (quantRows u i.spar.val f).Landing u.fab.loft (fun v => quantScaleSecs f + v) k pend t.fab.loft) : QuantBegins u i f k acc c t := by
  obtain ⟨a0, b0, c0, hFr⟩ := hFr
  have F := quantRows_fits hchk
  have hpt := hFr.plain (by simp) hq.plain
  have hfirst : ∀ v, v < (quantRows u i.spar.val f).count → quantScaleSecs f + v < k → ∀ j, j < (quantRows u i.spar.val f).len → ∀ b : Nat, b ≠ (quantRows u i.spar.val f).key v + j :=
    fun v _ hv => by omega
  have hsame : ∀ b, t.fab.loft.fetch b = u.fab.loft.fetch b := fun b => hL.fetch_rest F hq.flips hq.marks (fun v hv hs j hj => hfirst v hv hs j hj b)
  have hbuf : acc ++ quantSector u i.spar.val f k = quantBuf u i.spar.val f (k + 1) := by
    rw [hS, Nat.min_eq_left (Nat.le_of_lt hsc)]
    unfold quantBuf
    rw [List.range_succ (n := k), List.flatMap_append]
    simp
  unfold QuantBegins quantStage
  dsimp only
  rw [if_pos hsc, quantSector_kept hq hpt hsame, hbuf, portReads_unmarked hpt hL.flips _ _ (fun x _ j _ => hL.mark_rest F (fun v hv hs l hl => hfirst v hv hs l hl _))]
  have hnext : QuantBuffered u i.spar.val f (k + 1) (quantBuf u i.spar.val f (k + 1)) := by
    unfold QuantBuffered
    rw [Nat.min_eq_left hsc]
  refine ⟨[⟨c + 1, 3, .stage i (u.hold i) (k + 1) (quantBuf u i.spar.val f (k + 1))⟩], rfl, rfl, ⟨a0, b0, c0, hFr.keep t.fab.loft t.rcd.entries _ t.fab.cyc t.fab.fresh⟩, ?_⟩
  have B := rowsBegun (R := quantRows u i.spar.val f) (i := i) (h := u.hold i) (S := QuantBuffered u i.spar.val f)
    (st := fun v => quantScaleSecs f + v) (K := quantScaleSecs f + f.nvec) (c := c) (u := c + 1) (wr := fun _ => c) (vs := []) (by omega)
    (fun v => ⟨fun h => absurd h List.not_mem_nil, fun h => by omega⟩) List.nodup_nil (by simp) (by simp) (by omega) (fun _ => hnext)
  rw [decide_eq_true (by omega)] at B
  exact B

/-- A stage that begins the vector that it reads: the scale buffer is full, and no row that landed lies over the vector. -/
theorem quantBegins_vec {v : Nat} (hv : v < f.nvec) (hS : QuantBuffered u i.spar.val f (quantScaleSecs f + v) acc)
    (hL : (quantRows u i.spar.val f).Landing u.fab.loft (fun v => quantScaleSecs f + v) (quantScaleSecs f + v) pend t.fab.loft) : QuantBegins u i f (quantScaleSecs f + v) acc c t := by
  obtain ⟨a0, b0, c0, hFr⟩ := hFr
  have F := quantRows_fits hchk
  have hpt := hFr.plain (by simp) hq.plain
  have hbehind : ∀ {a : Nat}, effAddr u i.spar.val f.src + v * 512 ≤ a → a < effAddr u i.spar.val f.src + v * 512 + 512 → a < 2 ^ 23 ∧ ∀ w, w < (quantRows u i.spar.val f).count →
      quantScaleSecs f + w < quantScaleSecs f + v → a < (quantRows u i.spar.val f).base w ∨ (quantRows u i.spar.val f).base w + (quantRows u i.spar.val f).len ≤ a := fun ha ha' => by
    refine ⟨?_, fun w _ hw => (quantRows_behind hchk hf hd hv (by omega) ha ha').2⟩
    obtain ⟨hsrc, -, -⟩ := chkQuant_none hchk
    have h1 : (v + 1) * 512 ≤ f.nvec * 512 := Nat.mul_le_mul_right _ hv
    omega
  have hclass : t.bitClass = u.bitClass := by
    obtain ⟨m, es, l, y, g, r, ev, js, ga, go, -, rfl⟩ := hFr.only
    rfl
  have hvec := quantVec_kept hq hpt hclass (v := v) (f := f) (fun j hj => hL.fetch_kept F hq.flips hq.marks (hbehind (by omega) (by omega)).1 (hbehind (by omega) (by omega)).2)
    (quantScales u i.spar.val f)
  have hport := portReads_unmarked hpt hL.flips (u.hold i) i.spar.val (vecAccs_unmarked (t.held (u.hold i)) i.spar.val f.bnd (base := effAddr u i.spar.val f.src) (v := v) (.inr rfl)
    (fun a ha ha' => hL.mark_kept F (hbehind (by omega) (by omega)).1 (hbehind (by omega) (by omega)).2))
  have hacc : acc = quantScales u i.spar.val f := by
    rw [hS, Nat.min_eq_right (Nat.le_add_right _ _)]
    rfl
  obtain ⟨h1, hfl, hlo⟩ := outWrite_frame F (R := quantRows u i.spar.val f) (i := i) rfl hFr (u.hold i) (v := v) (wr := c + (if f.burn = 0 then 6 else 13)) f.wen f.wid
    (row := quantRow u i.spar.val f v) rfl
  have hmore : decide (v + 1 < f.nvec) = decide (quantScaleSecs f + v + 1 < quantScaleSecs f + f.nvec) := decide_eq_decide.mpr (by omega)
  have hwrite : outWrite i (u.hold i) (effAddr (t.held (u.hold i)) i.spar.val f.dst + v * 32 * f.ofmt.bits) f.ofmt.bits (c + (if f.burn = 0 then 6 else 13)) f.wen f.wid
      (((quantVec u i.spar.val f (quantScales u i.spar.val f) v).zipIdx).map (fun (o : (Lane × Nat × WatchEl) × Nat) =>
        if f.bnd.writes (t.held (u.hold i)) i.spar.val (f.bnd.oR + (v : Int)) (f.bnd.oC + (o.2 : Int)) then some o.1 else none))
      (t.portReads (u.hold i) i.spar.val (vecAccs (t.held (u.hold i)) i.spar.val f.bnd (effAddr (t.held (u.hold i)) i.spar.val f.src) 16 v)) =
      outWrite i (u.hold i) ((quantRows u i.spar.val f).base v) (quantRows u i.spar.val f).bits (c + (if f.burn = 0 then 6 else 13)) f.wen f.wid (quantRow u i.spar.val f v) t := by
    rw [quantRows_base]
    exact congrArg _ hport
  unfold QuantBegins quantStage
  dsimp only
  rw [if_neg (by omega), Nat.add_sub_cancel_left, hacc, hvec, hwrite, nextStage_eq, hmore]
  generalize outWrite i (u.hold i) ((quantRows u i.spar.val f).base v) (quantRows u i.spar.val f).bits (c + (if f.burn = 0 then 6 else 13)) f.wen f.wid (quantRow u i.spar.val f v) t = z
    at h1 hfl hlo
  refine ⟨(quantRows u i.spar.val f).stores (u.hold i) (fun _ => c + (if f.burn = 0 then 6 else 13)) [v] ++
    nextStages i (u.hold i) (decide (quantScaleSecs f + v + 1 < quantScaleSecs f + f.nvec)) (quantScaleSecs f + v + 1) (c + 1) (quantScales u i.spar.val f), ?_, hlo, ?_, ?_⟩
  · dsimp only
    rw [hfl, List.append_assoc]
    rfl
  · exact ⟨_, _, _, h1.keep z.fab.loft z.rcd.entries _ z.fab.cyc z.fab.fresh⟩
  · refine rowsBegun (by omega) (fun w => ?_) (List.nodup_singleton v) (by simp) (fun _ _ => by split <;> omega) (by omega) (fun _ => ?_)
    · rw [List.mem_singleton]
      exact ⟨fun h => ⟨h ▸ hv, by rw [h]⟩, fun h => by omega⟩
    · unfold QuantBuffered
      rw [Nat.min_eq_right (by omega)]
      rfl

end begins

/-- A stage of QUANT fills a sector of the scale buffer before any vector is begun, or begins the vector that it reads. -/
theorem quant_rowsWord (hn : 0 < f.nvec) (hrun : ∀ k acc c t, runWork c (.stage i (u.hold i) k acc) t = quantStage f i (u.hold i) k acc c t) :
    RowsWord (quantRows u i.spar.val f) i (u.hold i) (fun _ => False) (fun _ _ t => ∃ a b c, OutFrame u i.spar.val [] a b c t)
      (QuantBuffered u i.spar.val f) (fun v => quantScaleSecs f + v) (quantScaleSecs f + f.nvec) u.fab.loft where
  fits := quantRows_fits hchk
  plain := fun ⟨_, _, _, h⟩ => h.plain (by simp) hq.plain
  own := fun ⟨_, _, _, h⟩ g hg => hq.own g (h.only.segs ▸ hg)
  keep := fun m es l y f ⟨a, b, c, h⟩ => ⟨a, b, c, h.keep m es l y f⟩
  other := fun h => h.elim
  extra := fun _ h => h.elim
  stage := by
    intro t k acc e pend c hk hS hFr hL
    rw [hrun]
    change QuantBegins u i f k acc c t
    by_cases hsc : k < quantScaleSecs f
    · exact quantBegins_scale hq hchk hFr hn hsc hS hL
    · obtain ⟨v, rfl⟩ : ∃ v, k = quantScaleSecs f + v := ⟨k - quantScaleSecs f, by omega⟩
      exact quantBegins_vec hq hchk hf hd hFr (by omega) hS hL

end quantstage

end Sys2Proof.Machine

/-! SUPPORT. The values that QUANT writes: one conversion of an exact quotient (R144 to R147). -/

namespace Sys2Proof.Machine

/-! ### An exact quotient -/

theorem dyadDiv_value (m e : Int) {sm : Int} (hs : 0 < sm) (se : Int) :
    0 < (dyadDiv m e sm se).2 ∧ ((dyadDiv m e sm se).1 : ℚ) / ((dyadDiv m e sm se).2 : ℚ) = (m : ℚ) * 2 ^ e / ((sm : ℚ) * 2 ^ se) := by
  have hsm : ((sm.natAbs : Nat) : ℚ) = (sm : ℚ) := by
    rw [← Int.cast_natCast, Int.natAbs_of_nonneg hs.le]
  have hpos : (0 : ℚ) < (sm : ℚ) := by exact_mod_cast hs
  have hd : (2 : ℚ) ^ e = 2 ^ (e - se) * 2 ^ se := by rw [← zpow_add₀ two_ne_zero, sub_add_cancel]
  have hse := two_zpow_pos se
  unfold dyadDiv
  dsimp only
  split
  next h =>
    refine ⟨Int.natAbs_pos.mpr hs.ne', ?_⟩
    rw [hsm, hd, zpow_of_nonneg h]
    push_cast
    field_simp
  next h =>
    refine ⟨Nat.mul_pos (Int.natAbs_pos.mpr hs.ne') (Nat.two_pow_pos _), ?_⟩
    push_cast
    rw [hsm, hd, zpow_of_neg (not_le.mp h)]
    push_cast
    field_simp

/-- A scale code is not negative (R123, R124). -/
theorem scOpnd_nonneg {bf : Bool} {cp : Nat × Nat} {m e : Int} (h : scOpnd bf cp = .val m e) : 0 ≤ m := by
  unfold scOpnd at h
  split at h
  · cases h
  · cases hv : scaleValue bf cp.1 with
    | none => rw [hv] at h; cases h
    | some x =>
      rw [hv] at h
      cases h
      unfold scaleValue at hv
      split at hv
      · cases hb : Fmt.value .bf16 cp.1 with
        | none => rw [hb] at hv; cases hv
        | some y =>
          rw [hb] at hv
          dsimp only at hv
          split at hv
          · cases hv
          next hn =>
            rw [← Option.some.inj hv]
            exact not_lt.mp hn
      · split at hv
        · cases hv
        · rw [← Option.some.inj hv]
          exact zero_le_one

theorem scOpnd_bad {bf : Bool} {cp : Nat × Nat} {p : Nat} (h : scOpnd bf cp = .bad p) : p ≠ 0 := by
  unfold scOpnd at h
  split at h
  next hp =>
    cases h
    exact hp
  · cases hv : scaleValue bf cp.1 with
    | none => rw [hv] at h; cases h; decide
    | some x => rw [hv] at h; cases h

/-- The scale of a group is positive, or poisons it (R145). -/
theorem quantScale_cases (f : QuantF) (buf : List (Nat × Nat)) (e : Nat) : (∃ sm se, quantScale f buf e = .val sm se ∧ 0 < sm) ∨ ∃ p, quantScale f buf e = .bad p ∧ p ≠ 0 := by
  unfold quantScale
  split
  · exact .inl ⟨1, 0, rfl, one_pos⟩
  · cases h : scOpnd (decide (f.sfmt = 2)) (buf.getD (e / f.grp) (0, 0)) with
    | bad p => exact .inr ⟨p, rfl, scOpnd_bad h⟩
    | val m x =>
      have hm := scOpnd_nonneg h
      dsimp only
      split
      · exact .inr ⟨1, rfl, one_ne_zero⟩
      next h0 => exact .inl ⟨m, x, rfl, lt_of_le_of_ne hm (Ne.symm h0)⟩

/-! ### The lanes of a vector -/

/-- What a lane writes of its operand and its scale. -/
def quantLane (f : Fmt) (tie : Tie) (y sc : Opnd) : Lane × Nat × WatchEl :=
  match y, sc with
  | .val m e, .val sm se => outEl f tie 0 false (dyadDiv m e sm se).1 (dyadDiv m e sm se).2
  | .bad p, .bad q => outEl f .even (max p q) false 0 1
  | .bad p, _ => outEl f .even p false 0 1
  | _, .bad q => outEl f .even q false 0 1

/-- The elements of the burnisher's block that lane l is in. -/
def quantBlock (u : State) (n : Nat) (f : QuantF) (v l : Nat) : List Opnd := (List.range f.burn).map (fun j => elOpnd .bf16 (quantIn u n f v (l / f.burn * f.burn + j)))

/-- What the burnisher makes of a block, for the lane at r in it. -/
def burned (r : Nat) (blk : List Opnd) : Opnd :=
  let p := blk.foldl (fun (a : Nat) x => match x with | .bad q => max a q | .val _ _ => a) 0
  if p ≠ 0 then .bad p
  else
    let b := burnSum r (blk.filterMap (fun x => match x with | .val m e => some (m, e) | .bad _ => none))
    .val b.1 b.2

/-- The operand of lane l of vector v. -/
def quantOperand (u : State) (n : Nat) (f : QuantF) (v l : Nat) : Opnd := if f.burn = 0 then elOpnd .bf16 (quantIn u n f v l) else burned (l % f.burn) (quantBlock u n f v l)

theorem block_within {burn l : Nat} (hb : burn = 32 ∨ burn = 64 ∨ burn = 128) (hl : l < 256) : l / burn * burn + burn ≤ 256 := by
  rcases hb with rfl | rfl | rfl <;> omega

theorem quantVec_getD {f : QuantF} (hb : f.burn = 0 ∨ f.burn = 32 ∨ f.burn = 64 ∨ f.burn = 128) (u : State) (n : Nat) (buf : List (Nat × Nat)) (v : Nat) {l : Nat} (hl : l < 256) :
    (quantVec u n f buf v)[l]? = some (quantLane f.ofmt (if f.burn = 0 then .even else burnTie u) (quantOperand u n f v l) (quantScale f buf (v * 256 + l))) := by
  have hblk : f.burn ≠ 0 → (((List.range 256).map (fun l => elOpnd .bf16 (quantIn u n f v l))).drop (l / f.burn * f.burn)).take f.burn = quantBlock u n f v l := fun h0 => by
    have hw := block_within (hb.resolve_left h0) hl
    refine List.ext_getElem (by simp [quantBlock]; omega) (fun j h1 h2 => ?_)
    simp [quantBlock]
  have hx : ((List.range 256).map (fun l => elOpnd .bf16 (quantIn u n f v l))).getD l (.val 0 0) = elOpnd .bf16 (quantIn u n f v l) := by simp [hl]
  unfold quantVec
  rw [List.getElem?_map, List.getElem?_range hl, Option.map_some]
  dsimp only
  rw [hx]
  unfold quantOperand
  by_cases h0 : f.burn = 0
  · simp only [if_pos h0]
    rfl
  · rw [hblk h0]
    simp only [if_neg h0]
    rfl

/-! ### The burnisher -/

theorem foldl_signed {α : Type} (c : α → Prop) [DecidablePred c] (g : α → Int) (l : List α) (a : Int) :
    l.foldl (fun a x => if c x then a - g x else a + g x) a = a + (l.map (fun x => if c x then -g x else g x)).sum := by
  induction l generalizing a with
  | nil => simp
  | cons x l ih =>
    rw [List.foldl_cons, ih, List.map_cons, List.sum_cons]
    split <;> ring

theorem foldl_min_le (ms : List (Int × Int)) (a : Int) : ms.foldl (fun a x => min a x.2) a ≤ a ∧ ∀ x ∈ ms, ms.foldl (fun a x => min a x.2) a ≤ x.2 := by
  induction ms generalizing a with
  | nil => exact ⟨le_rfl, fun x hx => absurd hx List.not_mem_nil⟩
  | cons y ms ih =>
    obtain ⟨h1, h2⟩ := ih (min a y.2)
    rw [List.foldl_cons]
    refine ⟨h1.trans (min_le_left _ _), fun x hx => ?_⟩
    rcases List.mem_cons.mp hx with rfl | hx
    · exact h1.trans (min_le_right _ _)
    · exact h2 x hx

/-- The sum of a block is the exact sum of its elements with the signs of a row of the Sylvester matrix (R146). -/
theorem burnSum_value (r : Nat) (ms : List (Int × Int)) : ((burnSum r ms).1 : ℚ) * 2 ^ (burnSum r ms).2 =
    ((ms.map (fun x => (x.1 : ℚ) * 2 ^ x.2)).zipIdx.map (fun p => if popCount 8 (r &&& p.2) % 2 = 1 then -p.1 else p.1)).sum := by
  obtain ⟨-, hle⟩ := foldl_min_le ms 127
  unfold burnSum
  dsimp only
  generalize ms.foldl (fun a x => min a x.2) 127 = e0 at hle
  rw [foldl_signed (fun x : (Int × Int) × Nat => popCount 8 (r &&& x.2) % 2 = 1) (fun x => x.1.1 * 2 ^ (x.1.2 - e0).toNat), zero_add, Int.cast_list_sum, ← List.sum_map_mul_right, List.map_map,
    List.zipIdx_map, List.map_map]
  refine congrArg List.sum (List.map_congr_left (fun x hx => ?_))
  have hx' : e0 ≤ x.1.2 := hle x.1 (List.fst_mem_of_mem_zipIdx hx)
  have hpow : (2 : ℚ) ^ x.1.2 = 2 ^ (x.1.2 - e0).toNat * 2 ^ e0 := by
    have := zpow_of_nonneg (sub_nonneg.mpr hx')
    push_cast at this
    rw [← this, ← zpow_add₀ two_ne_zero, sub_add_cancel]
  simp only [Function.comp, Prod.map, id]
  split <;> (push_cast; rw [hpow]; ring)

/-! ### The code of a lane -/

theorem elOpnd_val {x : Nat × Nat} (h0 : x.2 = 0) {a : ℚ} (h : codeVal .bf16 x.1 = some a) : ∃ m e, elOpnd .bf16 x = .val m e ∧ a = (m : ℚ) * 2 ^ e := by
  obtain ⟨m, e, hv, ha⟩ := codeVal_eq_some h
  refine ⟨m, e, ?_, ha⟩
  unfold elOpnd
  rw [if_neg (by simp [h0]), hv]

theorem elOpnd_invalid {x : Nat × Nat} (h0 : x.2 = 0) (h : codeVal .bf16 x.1 = none) : elOpnd .bf16 x = .bad 1 := by
  unfold elOpnd
  rw [if_neg (by simp [h0]), codeVal_eq_none.mp h]

/-- A block of clean elements is not poisoned. -/
theorem burned_vals (r : Nat) (ms : List (Int × Int)) : burned r (ms.map (fun x => .val x.1 x.2)) = .val (burnSum r ms).1 (burnSum r ms).2 := by
  have hp : (ms.map (fun x : Int × Int => Opnd.val x.1 x.2)).foldl (fun (a : Nat) x => match x with | .bad q => max a q | .val _ _ => a) 0 = 0 :=
    foldl_fixed _ (fun x hx => by
      obtain ⟨y, -, rfl⟩ := List.mem_map.mp hx
      rfl)
  have hms : (ms.map (fun x : Int × Int => Opnd.val x.1 x.2)).filterMap (fun x => match x with | .val m e => some (m, e) | .bad _ => none) = ms := by
    rw [List.filterMap_map]
    exact List.filterMap_some
  unfold burned
  dsimp only
  rw [hp, hms]
  rfl

theorem quantIn_sound {u : State} {n : Nat} (hq : QuietBay u n) (f : QuantF) (v l : Nat) : (quantIn u n f v l).2 = 0 := by
  unfold quantIn
  dsimp only
  split
  · rfl
  · split
    · exact elemAt_sound (Mem.clean_of_nil hq.marks hq.flips) hq.plain _ _ _ _
    · rfl

/-- A lane whose operand has a value is its one conversion (R144). -/
theorem quantLane_nearest (f : Fmt) {y sc : Opnd} {m e sm se : Int} (hy : y = .val m e) (hs : sc = .val sm se) (hpos : 0 < sm) :
    ∃ c, c.code = (quantLane f .even y sc).1.code ∧ Nearest f ((m : ℚ) * 2 ^ e / ((sm : ℚ) * 2 ^ se)) c := by
  obtain ⟨hd, hv⟩ := dyadDiv_value m e hpos se
  have hn := conversionIsNearest f (dyadDiv m e sm se).1 (dyadDiv m e sm se).2 hd
  rw [hv] at hn
  subst hy hs
  exact ⟨_, rfl, hn⟩

/-- A lane with an operand or a scale that is poisoned is the poison code (R145). -/
theorem quantLane_poison (f : Fmt) (tie : Tie) {y sc : Opnd} (h : (∃ p, y = .bad p ∧ p ≠ 0 ∧ ∃ sm se, sc = .val sm se) ∨ ∃ q, sc = .bad q ∧ q ≠ 0) :
    (quantLane f tie y sc).1.code = f.poison := by
  rcases h with ⟨p, rfl, hp, sm, se, rfl⟩ | ⟨q, rfl, hq⟩
  · exact congrArg (fun o => o.1.code) (outEl_poisoned hp false 0 1)
  · cases y with
    | val m e => exact congrArg (fun o => o.1.code) (outEl_poisoned hq false 0 1)
    | bad p => exact congrArg (fun o => o.1.code) (outEl_poisoned (show max p q ≠ 0 by omega) false 0 1)

/-- The integer and the exponent of an operand that has them. -/
def Opnd.pair : Opnd → Int × Int
  | .val m e => (m, e)
  | .bad _ => (0, 0)

/-- A block of clean elements rotated (R146). -/
theorem quantBlock_value {u : State} {n : Nat} (hq : QuietBay u n) (f : QuantF) (v l r : Nat) {xs : List ℚ} (hlen : xs.length = f.burn)
    (hx : ∀ j (h : j < xs.length), codeVal .bf16 (quantIn u n f v (l / f.burn * f.burn + j)).1 = some xs[j]) :
    ∃ m e, burned r (quantBlock u n f v l) = .val m e ∧ (m : ℚ) * 2 ^ e = (xs.zipIdx.map (fun p => if popCount 8 (r &&& p.2) % 2 = 1 then -p.1 else p.1)).sum := by
  have hel : ∀ j (h : j < xs.length), ∃ m e, elOpnd .bf16 (quantIn u n f v (l / f.burn * f.burn + j)) = .val m e ∧ xs[j] = (m : ℚ) * 2 ^ e := fun j h =>
    elOpnd_val (quantIn_sound hq f v _) (hx j h)
  have hvals : ((quantBlock u n f v l).map Opnd.pair).map (fun x => .val x.1 x.2) = quantBlock u n f v l := by
    unfold quantBlock
    rw [List.map_map, List.map_map]
    refine List.map_congr_left (fun j hj => ?_)
    obtain ⟨m, e, he, -⟩ := hel j (by rw [hlen]; exact List.mem_range.mp hj)
    simp only [Function.comp, he]
    rfl
  have hxs : ((quantBlock u n f v l).map Opnd.pair).map (fun x => (x.1 : ℚ) * 2 ^ x.2) = xs := by
    refine List.ext_getElem (by simp [quantBlock, hlen]) (fun j h1 h2 => ?_)
    obtain ⟨m, e, he, ha⟩ := hel j h2
    simp only [quantBlock, List.getElem_map, List.getElem_range, he, ha]
    rfl
  have hb := burned_vals r ((quantBlock u n f v l).map Opnd.pair)
  rw [hvals] at hb
  exact ⟨_, _, hb, by rw [burnSum_value, hxs]⟩

/-! ### What QUANT leaves -/

/-- Lane l of vector v. -/
def quantOut (u : State) (n : Nat) (f : QuantF) (v l : Nat) : Lane :=
  (quantLane f.ofmt (if f.burn = 0 then .even else burnTie u) (quantOperand u n f v l) (quantScale f (quantScales u n f) (v * 256 + l))).1

theorem quantRows_code {u : State} {n : Nat} {f : QuantF} (hb : f.burn = 0 ∨ f.burn = 32 ∨ f.burn = 64 ∨ f.burn = 128) (v : Nat) {l : Nat} (hl : l < 256) :
    ((quantRows u n f).codes v).getD l none = if quantOpens u n f v l then some ((quantOut u n f v l).code, (quantOut u n f v l).mark) else none := by
  have hv := quantVec_getD hb u n (quantScales u n f) v hl
  unfold quantRows quantRow
  dsimp only
  rw [List.getD_eq_getElem?_getD, List.getElem?_map, List.getElem?_map, List.getElem?_zipIdx, hv]
  simp only [Option.map_some, Option.getD_some, Nat.zero_add]
  split <;> rfl

/-- The scale buffer fills in few cycles. -/
theorem quantScaleSecs_lt {f : QuantF} (hn : f.nvec < 1024) (hg : f.grp = 32 ∨ f.grp = 64 ∨ f.grp = 128) : quantScaleSecs f < 2 ^ 19 := by
  have hle : ∀ a b, ceilDiv a b ≤ a + b - 1 := fun a b => Nat.div_le_self _ _
  have h1 := hle (f.nvec * 256) f.grp
  have h2 := hle (ceilDiv (f.nvec * 256) f.grp) 64
  have h3 := hle (ceilDiv (f.nvec * 256) f.grp) 32
  unfold quantScaleSecs
  split
  · decide
  · split <;> omega

theorem quantScale_pos {f : QuantF} {buf : List (Nat × Nat)} {idx : Nat} {sm se : Int} (h : quantScale f buf idx = .val sm se) : 0 < sm := by
  rcases quantScale_cases f buf idx with ⟨_, _, h', hpos⟩ | ⟨_, h', -⟩
  · obtain ⟨rfl, rfl⟩ := Opnd.val.inj (h'.symm.trans h)
    exact hpos
  · cases h'.symm.trans h

theorem quantScale_bad {f : QuantF} {buf : List (Nat × Nat)} {idx p : Nat} (h : quantScale f buf idx = .bad p) : p ≠ 0 := by
  rcases quantScale_cases f buf idx with ⟨_, _, h', -⟩ | ⟨_, h', hp⟩
  · cases h'.symm.trans h
  · rwa [← Opnd.bad.inj (h'.symm.trans h)]

/-- A lane whose operand and scale are values holds the code nearest to their quotient, ties to even. -/
theorem quantOut_nearest {u : State} {n : Nat} {f : QuantF} {v l : Nat} {m e sm se : Int} (htie : (if f.burn = 0 then .even else burnTie u) = Tie.even)
    (hy : quantOperand u n f v l = .val m e) (hscale : quantScale f (quantScales u n f) (v * 256 + l) = .val sm se) :
    ∃ c, c.code = (quantOut u n f v l).code % 2 ^ f.ofmt.bits ∧ Nearest f.ofmt ((m : ℚ) * 2 ^ e / ((sm : ℚ) * 2 ^ se)) c := by
  obtain ⟨c, hc, hnear⟩ := quantLane_nearest f.ofmt hy hscale (quantScale_pos hscale)
  have hout : (quantOut u n f v l).code = c.code := by
    unfold quantOut
    rw [htie]
    exact hc.symm
  refine ⟨c, ?_, hnear⟩
  rw [hout, Nat.mod_eq_of_lt hnear.1]

/-- A lane with no value to convert, or no scale to convert by, holds the poison code. -/
theorem quantOut_poison {u : State} {n : Nat} {f : QuantF} {v l : Nat} (h : (∃ p, quantOperand u n f v l = .bad p ∧ p ≠ 0 ∧ ∃ sm se, quantScale f (quantScales u n f) (v * 256 + l) = .val sm se) ∨
    ∃ p, quantScale f (quantScales u n f) (v * 256 + l) = .bad p ∧ p ≠ 0) : (quantOut u n f v l).code % 2 ^ f.ofmt.bits = f.ofmt.poison := by
  have hcode : (quantOut u n f v l).code = f.ofmt.poison := quantLane_poison f.ofmt _ h
  rw [hcode]
  exact Nat.mod_eq_of_lt f.ofmt.poison_lt

/-- What QUANT leaves: its frame, and its rows landed. -/
theorem quant_leaves {u : State} {i : Issue} {f : QuantF} (hq : QuietBay u i.spar.val) (hdec : decQuant u i = some f) (hchk : chkQuant (u.held (u.hold i)) i f = none)
    (hd : effAddr u i.spar.val f.dst ≤ effAddr u i.spar.val f.src ∨ effAddr u i.spar.val f.src + f.nvec * 512 ≤ effAddr u i.spar.val f.dst) :
    (∃ a b c, OutFrame u i.spar.val [] a b c (settleAll (staged f i (u.hold i) u))) ∧
      (quantRows u i.spar.val f).Landing u.fab.loft (fun v => quantScaleSecs f + v) (quantScaleSecs f + f.nvec) (fun _ => False) (settleAll (staged f i (u.hold i) u)).fab.loft := by
  obtain ⟨ho, hn0, hn, hf, hg, hb⟩ := decQuant_some hdec
  have W := quant_rowsWord hq hchk hf hd hn0 (fun k acc c t => runWork_quant ho (fun _ => hdec) _ k acc c t)
  have hbegin : staged f i (u.hold i) u = { u with fab := { u.fab with flight := ⟨i.c.toNat, 3, .stage i (u.hold i) 0 []⟩ :: [] } } := by
    unfold staged State.later
    rw [hq.calm]
    rfl
  have hst : ∀ v, v < (quantRows u i.spar.val f).count → quantScaleSecs f + v < quantScaleSecs f + f.nvec := fun _ h => Nat.add_lt_add_left h _
  have hsecs := quantScaleSecs_lt hn hg
  exact (W.leaves (u := staged f i (u.hold i) u) (xs := []) i.c.isLt (by omega) (by omega) hst (by simp) (by simp)
    (by rw [hbegin]) (by simp [QuantBuffered, quantBuf]) (by rw [hbegin]; exact ⟨0, 0, 0, (OutFrame.start u _ _).keep u.fab.loft u.rcd.entries _ u.fab.cyc u.fab.fresh⟩) (by rw [hbegin])
    hq.flips hq.marks rfl).2

theorem quantiseWord : Sys2Proof.Stated.QuantiseWord := by
  intro s i f u n d src buf hq hi hd
  refine ⟨_, commandWord_begins staged hi, ?_⟩
  change _ ∧ _
  obtain ⟨-, hdec, hchk⟩ := hi
  obtain ⟨-, hn0, hn, hf, -, hb⟩ := decQuant_some hdec
  have hchk : chkQuant (u.held (u.hold i)) i f = none := hchk
  obtain ⟨hFr, hL⟩ := quant_leaves hq hdec hchk hd
  have F := quantRows_fits hchk
  generalize settleAll (staged f i (u.hold i) u) = t at hFr hL
  obtain ⟨a0, b0, c0, hFr⟩ := hFr
  have hpt := hFr.plain (by simp) hq.plain
  have hlen := quantRows_len u n f
  have hbase := quantRows_base u n f
  have hst : ∀ v, v < (quantRows u i.spar.val f).count → quantScaleSecs f + v < quantScaleSecs f + f.nvec := fun _ h => Nat.add_lt_add_left h _
  have helem : ∀ v l, v < f.nvec → l < 256 → (elemAt t n (d + v * 32 * f.ofmt.bits) f.ofmt.bits l).1 =
      if quantOpens u n f v l then (quantOut u n f v l).code % 2 ^ f.ofmt.bits else (elemAt u n (d + v * 32 * f.ofmt.bits) f.ofmt.bits l).1 := fun v l hv hl => by
    have he := hL.elem F hst hpt hq.plain hq.flips hv (l := l) hl
    rw [quantRows_code hb v hl, hbase] at he
    refine he.trans ?_
    split <;> rfl
  refine ⟨fun v l hv hl hop => ?_, fun v l p hv hl hop hbad => ?_, fun v l hv hl hop => ?_, fun a ha hout => ?_, fun m a _ hm ha => ?_, fun a ha => hFr.regs a ha List.not_mem_nil⟩
  · intro code x sm se hscale
    have hcode : code = (quantOut u n f v l).code % 2 ^ f.ofmt.bits := (helem v l hv hl).trans (if_pos hop)
    rw [hcode]
    refine ⟨fun h0 a ha => ?_, fun h0 hx => ?_, fun h0 hclass xs hxs hx => ?_⟩
    · obtain ⟨m, e, hy, rfl⟩ := elOpnd_val (quantIn_sound hq f v l) ha
      exact quantOut_nearest (if_pos h0) ((if_pos h0).trans hy) hscale
    · exact quantOut_poison (.inl ⟨1, (if_pos h0).trans (elOpnd_invalid (quantIn_sound hq f v l) hx), one_ne_zero, sm, se, hscale⟩)
    · obtain ⟨m, e, hy, hsum⟩ := quantBlock_value hq f v l (l % f.burn) hxs hx
      rw [← hsum]
      refine quantOut_nearest ?_ ((if_neg h0).trans hy) hscale
      rw [if_neg h0]
      unfold burnTie
      rw [hclass, if_neg (by decide)]
  · rw [helem v l hv hl, if_pos (show quantOpens u n f v l = true from hop)]
    exact quantOut_poison (.inr ⟨p, hbad, quantScale_bad hbad⟩)
  · rw [helem v l hv hl, if_neg (by rw [show quantOpens u n f v l = false from hop]; simp)]
  · have hout : a < effAddr u i.spar.val f.dst ∨ effAddr u i.spar.val f.dst + f.nvec * 32 * f.ofmt.bits ≤ a := hout
    refine hL.loftByte_rest F hpt hq.plain hq.flips hq.marks (by omega) (.inr ?_)
    rw [hlen]
    simp only [quantRows]
    rwa [← Nat.mul_assoc]
  · exact hL.loftByte_rest F hpt hq.plain hq.flips hq.marks (by omega) (.inl hm)

/-- Settles O18: TLOAD, RESC and QUANT are sequences of stages whose rows land in bytes that no later stage reads; the values are those of the conversion of O13. -/
theorem tileMoves : Obligations.TileMoves := ⟨transposeWord, rescaleWord, quantiseWord⟩

end Sys2Proof.Machine

/-! SUPPORT. Work in flight whose pieces do not commute: it comes about place after place, and within a place in the order in which it was begun (R224). -/

namespace Sys2Proof.Machine

/-- A piece of work lies at a place in time. -/
def Flight.lies (x : Flight) (c phase : Nat) : Bool := decide (x.c = c ∧ x.phase = phase)

/-- The work of a place put first, in the order in which it was begun. -/
def sift (l : List Flight) (c phase : Nat) : List Flight := l.filter (fun x => x.lies c phase) ++ l.filter (fun x => !x.lies c phase)

/-- What holds of a part and of its work in flight while this comes about in order: putting first the work of its earliest place keeps `P`, `P` does not look at the clock, and the first piece of
work keeps it, with less to come than before and within 1,024 cycles. -/
structure InTime (μ : Work → Nat) (P : List Flight → State → Prop) : Prop where
  sift : ∀ {l : List Flight} {s : State} {c phase : Nat}, (∀ y ∈ l, c < y.c ∨ (c = y.c ∧ phase ≤ y.phase)) → P l s → P (sift l c phase) s
  clock : ∀ {l : List Flight} {s : State} (fl : List Flight) (y : Nat) (f : List (Nat × Nat)), P l s → P l { s with fab := { s.fab with flight := fl, cyc := y, fresh := f } }
  step : ∀ {x : Flight} {l : List Flight} {s : State}, P (x :: l) s → ∃ new : List Flight,
    (runWork x.c x.work s).fab.flight = s.fab.flight ++ new ∧ P (l ++ new) (runWork x.c x.work s) ∧ toCome μ new < μ x.work ∧ ∀ y ∈ new, y.c ≤ x.c + 1024

section intime
variable {μ : Work → Nat} {P : List Flight → State → Prop} {e : Nat} (A : InTime μ P)
include A

/-- The work of one place in time comes about in order. -/
theorem InTime.place {now rest : List Flight} {s : State} (h : P (now ++ rest) s) (he : EndsBy μ e now) :
    ∃ new, (now.foldl (fun t x => runWork x.c x.work t) s).fab.flight = s.fab.flight ++ new ∧ P (rest ++ new) (now.foldl (fun t x => runWork x.c x.work t) s) ∧
      toCome μ new + now.length ≤ toCome μ now ∧ EndsBy μ e new := by
  induction now generalizing rest s with
  | nil => exact ⟨[], by simp, by simpa using h, by simp, fun x hx => absurd hx List.not_mem_nil⟩
  | cons x now ih =>
    rw [List.cons_append] at h
    obtain ⟨new1, hf1, hP1, hw1, hc1⟩ := A.step h
    rw [List.append_assoc] at hP1
    have hx : x.c + 1024 * μ x.work < e := he x List.mem_cons_self
    obtain ⟨new2, hf2, hP2, hw2, he2⟩ := ih hP1 (fun y hy => he y (List.mem_cons_of_mem _ hy))
    refine ⟨new1 ++ new2, ?_, ?_, ?_, fun y hy => ?_⟩
    · rw [List.foldl_cons, hf2, hf1, List.append_assoc]
    · rw [List.foldl_cons, ← List.append_assoc]
      exact hP2
    · rw [toCome_append, toCome_cons, List.length_cons]
      omega
    · rcases List.mem_append.mp hy with hy | hy
      · have := le_toCome μ hy
        have := hc1 y hy
        omega
      · exact he2 y hy

/-- The earliest place in time: less is to come afterwards. -/
theorem InTime.runPlace {s : State} (h : P s.fab.flight s) (he : EndsBy μ e s.fab.flight) {c phase : Nat} (hnow : ∃ x ∈ s.fab.flight, x.c = c ∧ x.phase = phase)
    (hfirst : ∀ y ∈ s.fab.flight, c < y.c ∨ (c = y.c ∧ phase ≤ y.phase)) :
    P (runPlace c phase s).fab.flight (runPlace c phase s) ∧ EndsBy μ e (runPlace c phase s).fab.flight ∧ toCome μ (runPlace c phase s).fab.flight < toCome μ s.fab.flight := by
  have hrest : s.fab.flight.filter (fun x => decide (¬(x.c = c ∧ x.phase = phase))) = s.fab.flight.filter (fun x => !x.lies c phase) := List.filter_congr (fun x _ => decide_not)
  have hP := A.sift hfirst h
  have hperm : (Machine.sift s.fab.flight c phase).Perm s.fab.flight := List.filter_append_perm (fun x : Flight => x.lies c phase) s.fab.flight
  have hpos : 0 < (s.fab.flight.filter (fun x => x.lies c phase)).length := by
    obtain ⟨x, hx, hxc⟩ := hnow
    exact List.length_pos_of_mem (List.mem_filter.mpr ⟨hx, decide_eq_true hxc⟩)
  unfold Machine.sift at hP hperm
  unfold Machine.runPlace
  dsimp only
  rw [hrest]
  unfold Flight.lies at *
  generalize s.fab.flight.filter (fun x => decide (x.c = c ∧ x.phase = phase)) = now at hP hperm hpos ⊢
  generalize s.fab.flight.filter (fun x => !decide (x.c = c ∧ x.phase = phase)) = rest at hP hperm ⊢
  obtain ⟨y, f, hy⟩ := reachCycle_only { s with fab := { s.fab with flight := rest } } c
  rw [hy]
  obtain ⟨new, hf, hPn, hw, hen⟩ := A.place (A.clock rest y f hP) (fun x hx => he x (hperm.mem_iff.mp (List.mem_append_left _ hx)))
  rw [hf]
  refine ⟨hPn, fun x hx => ?_, ?_⟩
  · rcases List.mem_append.mp hx with hx | hx
    · exact he x (hperm.mem_iff.mp (List.mem_append_right _ hx))
    · exact hen x hx
  · have := toCome_perm (μ := μ) hperm
    rw [toCome_append] at this ⊢
    dsimp only
    omega

/-- All of it comes about. -/
theorem InTime.settle {c phase n : Nat} (hec : e ≤ c) {s : State} (h : P s.fab.flight s) (he : EndsBy μ e s.fab.flight) (hn : toCome μ s.fab.flight < n) :
    (settle n c phase s).fab.flight = [] ∧ P [] (settle n c phase s) := by
  induction n generalizing s with
  | zero => omega
  | succ n ih =>
    have hdue : s.fab.flight.filter (fun x => x.by c phase) = s.fab.flight := by
      refine List.filter_eq_self.mpr (fun x hx => ?_)
      have := he x hx
      simp only [Flight.by, decide_eq_true_eq]
      omega
    cases hl : s.fab.flight with
    | nil =>
      have hs : Machine.settle (n + 1) c phase s = s := by simp [Machine.settle, hl, firstOf]
      rw [hl] at h
      rw [hs]
      exact ⟨hl, h⟩
    | cons x t =>
      obtain ⟨m, hm⟩ := firstOf_cons x t
      rw [← hl] at hm
      obtain ⟨hex, hle⟩ := firstOf_spec hm
      rw [← hdue] at hm
      rw [settle_first hm]
      obtain ⟨hP, hE, hW⟩ := A.runPlace h he hex hle
      exact ih hP hE (by omega)

end intime

/-- Work that is begun in order of time is in order of time: putting an earliest place first changes nothing. -/
theorem sift_sorted {l : List Flight} {c phase : Nat} (hs : l.Pairwise (fun x y => x.c ≤ y.c)) (h0 : ∀ x ∈ l, x.phase = 0) (hfirst : ∀ y ∈ l, c < y.c ∨ (c = y.c ∧ phase ≤ y.phase)) :
    sift l c phase = l := by
  induction l with
  | nil => rfl
  | cons x l ih =>
    obtain ⟨hx, hs⟩ := List.pairwise_cons.mp hs
    have ih := ih hs (fun y hy => h0 y (List.mem_cons_of_mem _ hy)) (fun y hy => hfirst y (List.mem_cons_of_mem _ hy))
    unfold sift at *
    by_cases hl : x.lies c phase = true
    · rw [List.filter_cons_of_pos (p := fun x : Flight => x.lies c phase) hl, List.filter_cons_of_neg (p := fun x : Flight => !x.lies c phase) (by simp [hl]), List.cons_append, ih]
    · have hnone : ∀ y ∈ l, ¬y.lies c phase = true := by
        intro y hy hc
        simp only [Flight.lies, decide_eq_true_eq] at hl hc
        have := hx y hy
        have := hfirst x List.mem_cons_self
        have := h0 x List.mem_cons_self
        have := h0 y (List.mem_cons_of_mem _ hy)
        omega
      rw [List.filter_eq_nil_iff.mpr hnone, List.nil_append] at ih
      rw [List.filter_cons_of_neg (p := fun x : Flight => x.lies c phase) hl, List.filter_cons_of_pos (p := fun x : Flight => !x.lies c phase) (by simpa using hl),
        List.filter_eq_nil_iff.mpr hnone, ih, List.nil_append]

end Sys2Proof.Machine

/-! SUPPORT. What a k-step leaves in the crucible (R78, R79, R84, R131). -/

namespace Sys2Proof.Machine

/-! ### Writes of many keys -/

/-- A key that writes name reads as they write it, where they agree on it. -/
theorem smGet_smPutAll_mem {α : Type} [DecidableEq α] (d : α) (m : List (Nat × α)) {l : List (Nat × α)} {q : Nat} {v : α} (hv : ∀ e ∈ l, e.1 = q → e.2 = v) (hq : ∃ e ∈ l, e.1 = q) :
    smGet d (smPutAll d m l) q = v := by
  induction l using List.reverseRecOn with
  | nil =>
    obtain ⟨e, he, -⟩ := hq
    exact absurd he List.not_mem_nil
  | append_singleton l e ih =>
    have hput : smPutAll d m (l ++ [e]) = smPut d (smPutAll d m l) e.1 e.2 := by
      unfold smPutAll
      rw [List.foldl_append]
      rfl
    rw [hput, smGet_smPut]
    split
    next he => exact hv e (List.mem_append_right _ (List.mem_singleton_self e)) he.symm
    next he =>
      refine ih (fun x hx => hv x (List.mem_append_left _ hx)) ?_
      obtain ⟨x, hx, hxq⟩ := hq
      rcases List.mem_append.mp hx with hx | hx
      · exact ⟨x, hx, hxq⟩
      · rw [List.mem_singleton.mp hx] at hxq
        exact absurd hxq.symm he

/-- Half entries of different places have different keys. -/
theorem crucKey_inj {n m h g r c r' c' : Nat} (hh : h < 32) (hg : g < 32) (hr : r < 64) (hc : c < 64) (hr' : r' < 64) (hc' : c' < 64) (he : crucKey n h r c = crucKey m g r' c') :
    n = m ∧ h = g ∧ r = r' ∧ c = c' := by
  unfold crucKey at he
  omega

/-! ### A k-step -/

/-- A k-step whose rows and columns are given element by element. -/
def kstepOf (n : Nat) (compact : Bool) (slot : Nat) (anchor : Int) (first : Bool) (a b : Nat → Opnd) (lr lc : Nat → Bool) : KStep where
  spar := n
  compact := compact
  slot := slot
  anchor := anchor
  first := first
  rows := (List.range 64).map a
  cols := (List.range 64).map b
  liveR := (List.range 64).map lr
  liveC := (List.range 64).map lc

section kstep
variable (n : Nat) (compact : Bool) (slot : Nat) (anchor : Int) (first : Bool) (a b : Nat → Opnd) (lr lc : Nat → Bool) (s : State)

/-- What a k-step makes of cell (r, c). -/
def kstepCell (r c : Nat) : CellOut := cellStep (viewBits compact) anchor (windowMax compact) first (s.entry n compact slot r c) ((a r).mul (b c))

/-- The half entries that a k-step writes. -/
def kstepHalves : List (Nat × Half) := (List.range 64).flatMap (fun r => (List.range 64).flatMap (fun c =>
  halvesOf n compact slot r c (kstepCell n compact slot anchor first a b s r c).bits (kstepCell n compact slot anchor first a b s r c).poison))

/-- A k-step writes its cells, and counts. -/
theorem kstepLand_eq : ∃ sat perr, kstepLand (kstepOf n compact slot anchor first a b lr lc) s =
    ((s.setHalves (kstepHalves n compact slot anchor first a b s)).count n sat 0 0 false).bump (A.sparCrucPerr n) 31 0 perr := by
  have houts : (((((List.range 64).map a).zip ((List.range 64).map lr)).zipIdx).flatMap (fun x => ((((List.range 64).map b).zip ((List.range 64).map lc)).zipIdx).map (fun y =>
      (x.2, y.2, x.1.2 && y.1.2, cellStep (viewBits compact) anchor (windowMax compact) first (s.entry n compact slot x.2 y.2) (x.1.1.mul y.1.1))))) =
      (List.range 64).flatMap (fun r => (List.range 64).map (fun c => (r, c, lr r && lc c, kstepCell n compact slot anchor first a b s r c))) := by
    rw [List.zip_map', List.zip_map', zipIdx_range_map, zipIdx_range_map, List.flatMap_map]
    simp only [List.map_map]
    rfl
  have hhalves : ((List.range 64).flatMap (fun r => (List.range 64).map (fun c => (r, c, lr r && lc c, kstepCell n compact slot anchor first a b s r c)))).flatMap
      (fun o => halvesOf n compact slot o.1 o.2.1 o.2.2.2.bits o.2.2.2.poison) = kstepHalves n compact slot anchor first a b s := by
    unfold kstepHalves
    rw [List.flatMap_assoc]
    simp only [List.flatMap_map]
  unfold kstepLand kstepOf
  dsimp only
  rw [houts, hhalves]
  exact ⟨_, _, rfl⟩

variable {n compact slot anchor first a b s}

theorem mem_kstepHalves {e : Nat × Half} : e ∈ kstepHalves n compact slot anchor first a b s ↔ ∃ r c, r < 64 ∧ c < 64 ∧
    e ∈ halvesOf n compact slot r c (kstepCell n compact slot anchor first a b s r c).bits (kstepCell n compact slot anchor first a b s r c).poison := by
  unfold kstepHalves
  simp only [List.mem_flatMap, List.mem_range]
  constructor
  · rintro ⟨r, hr, c, hc, he⟩
    exact ⟨r, c, hr, hc, he⟩
  · rintro ⟨r, c, hr, hc, he⟩
    exact ⟨r, hr, c, hc, he⟩

/-- What a half of an entry holds of its bits. -/
def halfBits (compact : Bool) (slot h bits : Nat) : BitVec 48 := BitVec.ofNat 48 (if compact = false ∧ h = 2 * slot + 1 then bits / 2 ^ 48 else bits)

/-- The halves of a cell: where they stand, and what they are written with. -/
theorem mem_halvesOf {r c bits p : Nat} {e : Nat × Half} : e ∈ halvesOf n compact slot r c bits p ↔
    ∃ h ∈ slotRecs compact slot, e = (crucKey n h r c, ⟨halfBits compact slot h bits, p, false⟩) := by
  unfold halvesOf slotRecs halfBits
  cases compact with
  | true => simp
  | false => simp

variable (hslot : ∀ h ∈ slotRecs compact slot, h < 32)
include hslot

/-- A half entry of the slot reads as the k-step wrote it. -/
theorem half_kstep {r c h : Nat} (hr : r < 64) (hc : c < 64) (hh : h ∈ slotRecs compact slot) : (s.setHalves (kstepHalves n compact slot anchor first a b s)).half n h r c =
    ⟨halfBits compact slot h (kstepCell n compact slot anchor first a b s r c).bits, (kstepCell n compact slot anchor first a b s r c).poison, false⟩ := by
  refine smGet_smPutAll_mem _ _ (fun e he hq => ?_) ⟨_, mem_kstepHalves.mpr ⟨r, c, hr, hc, mem_halvesOf.mpr ⟨h, hh, rfl⟩⟩, rfl⟩
  obtain ⟨r', c', hr', hc', he⟩ := mem_kstepHalves.mp he
  obtain ⟨g, hg, rfl⟩ := mem_halvesOf.mp he
  obtain ⟨-, rfl, rfl, rfl⟩ := crucKey_inj (hslot g hg) (hslot h hh) hr' hc' hr hc hq
  rfl

/-- Every other half entry is as it was. -/
theorem half_kstep_ne {m r c h : Nat} (hr : r < 64) (hc : c < 64) (hh : h < 32) (hne : ¬(m = n ∧ h ∈ slotRecs compact slot)) :
    (s.setHalves (kstepHalves n compact slot anchor first a b s)).half m h r c = s.half m h r c := by
  refine smGet_smPutAll_not_mem _ _ _ _ (fun e he hq => hne ?_)
  obtain ⟨r', c', hr', hc', he⟩ := mem_kstepHalves.mp he
  obtain ⟨g, hg, rfl⟩ := mem_halvesOf.mp he
  obtain ⟨rfl, rfl, -, -⟩ := crucKey_inj (hslot g hg) hh hr' hc' hr hc hq
  exact ⟨rfl, hg⟩

/-- An entry of the slot reads as the k-step wrote it, with fresh parity. -/
theorem entry_kstep {r c : Nat} (hr : r < 64) (hc : c < 64) : (s.setHalves (kstepHalves n compact slot anchor first a b s)).entry n compact slot r c =
    ⟨(kstepCell n compact slot anchor first a b s r c).bits, (kstepCell n compact slot anchor first a b s r c).poison, false⟩ := by
  have hlt : (kstepCell n compact slot anchor first a b s r c).bits < 2 ^ viewBits compact := by
    unfold kstepCell cellStep
    dsimp only
    split <;> exact lowBits_lt _ _
  unfold State.entry
  cases compact with
  | true =>
    rw [if_pos rfl, half_kstep hslot hr hc (by simp [slotRecs])]
    simp only [halfBits, viewBits] at hlt ⊢
    simp only [Bool.true_eq_false, false_and, if_false, BitVec.toNat_ofNat, Entry.mk.injEq, and_true]
    exact Nat.mod_eq_of_lt hlt
  | false =>
    rw [if_neg (by simp), half_kstep hslot hr hc (by simp [slotRecs]), half_kstep hslot hr hc (by simp [slotRecs])]
    simp only [halfBits, viewBits] at hlt ⊢
    simp only [true_and, if_true, BitVec.toNat_ofNat, Entry.mk.injEq, Nat.max_self, Bool.or_self, and_true]
    rw [if_neg (by omega)]
    norm_num at hlt
    omega

end kstep

/-! ### A cell after some k-steps -/

/-- An operand that is poisoned says so. -/
def Opnd.Sound (x : Opnd) : Prop := ∀ p, x = .bad p → p ≠ 0

theorem lowBits_add_lowBits (n : Nat) (x y : Int) : lowBits n ((lowBits n x : Int) + y) = lowBits n (x + y) := by
  have hpow : (0 : Int) < 2 ^ n := by positivity
  have hx : ((lowBits n x : Nat) : Int) = x % 2 ^ n := by
    unfold lowBits
    exact Int.toNat_of_nonneg (Int.emod_nonneg _ hpow.ne')
  unfold lowBits at hx ⊢
  rw [hx, Int.emod_add_emod]

section cell
variable (bits : Nat) (anchor lim : Int) (start : Bool) (e0 : Entry) (p : Nat → Opnd)

/-- What a cell holds after j k-steps of a word: what it held, or the sum of the placed products modulo 2^bits upon that or upon nothing (R131); poisoned where a product is, or where the word
continues and it was (R84, R138). -/
structure CellAfter (j : Nat) (e : Entry) : Prop where
  none : j = 0 → e = e0
  sum : 0 < j → e.bits = lowBits bits ((if start then 0 else (e0.bits : Int)) + ((List.range j).map (fun k => (place anchor lim (p k)).1)).sum)
  poison : 0 < j → (e.poison = 0 ↔ (∀ k < j, ∃ m x, p k = .val m x) ∧ (start = true ∨ (e0.poison = 0 ∧ e0.perr = false)))
  parity : 0 < j → e.perr = false

variable {bits anchor lim start e0 p}

theorem place_poison {x : Opnd} (h : x.Sound) : (place anchor lim x).2.1 = 0 ↔ ∃ m e, x = .val m e := by
  cases x with
  | val m e => exact ⟨fun _ => ⟨m, e, rfl⟩, fun _ => rfl⟩
  | bad q => exact ⟨fun h0 => absurd h0 (h q rfl), fun ⟨_, _, h⟩ => by cases h⟩

/-- The first k-step of a starting word writes its product. -/
theorem CellAfter.first (hp : (p 0).Sound) (e : Entry) : let o := cellStep bits anchor lim true e (p 0)
    CellAfter bits anchor lim true e0 p 1 ⟨o.bits, o.poison, false⟩ := by
  refine ⟨fun h => absurd h one_ne_zero, fun _ => ?_, fun _ => ?_, fun _ => rfl⟩
  · simp [cellStep]
  · have : (∀ k < 1, ∃ m x, p k = .val m x) ↔ ∃ m x, p 0 = .val m x := by simp
    rw [this]
    exact (place_poison hp).trans (by simp)

/-- A k-step that adds. -/
theorem CellAfter.adds {j : Nat} {e : Entry} (h : CellAfter bits anchor lim start e0 p j e) (hp : (p j).Sound) (hj : j = 0 → start = false) : let o := cellStep bits anchor lim false e (p j)
    CellAfter bits anchor lim start e0 p (j + 1) ⟨o.bits, o.poison, false⟩ := by
  have hall : (∀ k < j + 1, ∃ m x, p k = .val m x) ↔ (∀ k < j, ∃ m x, p k = .val m x) ∧ ∃ m x, p j = .val m x := Nat.forall_lt_succ_right
  have hbefore : (e.poison = 0 ∧ e.perr = false ↔ (∀ k < j, ∃ m x, p k = .val m x) ∧ (start = true ∨ (e0.poison = 0 ∧ e0.perr = false))) := by
    rcases Nat.eq_zero_or_pos j with rfl | hpos
    · rw [h.none rfl]
      simp [hj rfl]
    · rw [← h.poison hpos]
      simp [h.parity hpos]
  refine ⟨fun h0 => absurd h0 (Nat.succ_ne_zero j), fun _ => ?_, fun _ => ?_, fun _ => rfl⟩
  · change lowBits bits ((e.bits : Int) + (place anchor lim (p j)).1) = _
    rw [List.range_succ, List.map_append, List.sum_append]
    simp only [List.map_cons, List.map_nil, List.sum_cons, List.sum_nil, add_zero]
    rcases Nat.eq_zero_or_pos j with rfl | hpos
    · rw [h.none rfl, hj rfl]
      simp
    · rw [h.sum hpos, lowBits_add_lowBits, add_assoc]
  · have hpsn : max (max e.poison (place anchor lim (p j)).2.1) (if e.perr = true then 2 else 0) = 0 ↔ (e.poison = 0 ∧ e.perr = false) ∧ (place anchor lim (p j)).2.1 = 0 := by
      cases e.perr <;> simp
    refine hpsn.trans ?_
    rw [hbefore, hall, place_poison hp]
    exact and_right_comm

theorem CellAfter.step {j : Nat} {e : Entry} (h : CellAfter bits anchor lim start e0 p j e) (hp : (p j).Sound) :
    let o := cellStep bits anchor lim (start && decide (j = 0)) e (p j)
    CellAfter bits anchor lim start e0 p (j + 1) ⟨o.bits, o.poison, false⟩ := by
  by_cases hf : start = true ∧ j = 0
  · obtain ⟨rfl, rfl⟩ := hf
    exact CellAfter.first hp e
  · rw [show (start && decide (j = 0)) = false by simpa using hf]
    exact h.adds hp (fun h0 => by simpa [h0] using hf)

end cell

end Sys2Proof.Machine

/-! SUPPORT. MMA and CONV: what their stages read, and what their k-steps and the write of the descriptor leave (R80, R125 to R132, R243, R246). -/

namespace Sys2Proof.Machine

/-! ### Decoding -/

/-- Every record of the slot exists. -/
def TileF.SlotFits (f : TileF) : Prop := ∀ h ∈ slotRecs f.compact f.slot, h < 32

theorem decTile_some {conv : Bool} {s : State} {i : Issue} {f : TileF} (h : decTile conv s i = some f) :
    opOf i.word = (if conv then 0x41 else 0x40) ∧ (f.grp = 32 ∨ f.grp = 64 ∨ f.grp = 128) ∧ 0 < f.ksteps ∧ f.ksteps < 2 ^ 13 ∧ f.SlotFits := by
  unfold decTile at h
  dsimp only at h
  split at h
  · split at h
    · cases h
    · rw [Option.ite_none_right_eq_some] at h
      obtain ⟨⟨ho, -, -, -, -, hg, hk, -, -, hs, -⟩, h⟩ := h
      obtain rfl := Option.some.inj h
      have hk' : fld i.word 76 64 < 2 ^ (76 + 1 - 64) := fld_lt _ _ _
      have hs' : fld i.word 95 91 < 2 ^ (95 + 1 - 91) := fld_lt _ _ _
      refine ⟨headOk_op ho, ?_, Nat.pos_of_ne_zero hk, hk', ?_⟩
      · dsimp only
        interval_cases fld i.word 78 77 <;> simp
      · intro r hr
        unfold slotRecs at hr
        dsimp only at hr
        split at hr
        · rw [List.mem_singleton.mp hr]
          exact hs'
        next hc =>
          have := hs.resolve_left hc
          rcases List.mem_cons.mp hr with rfl | hr
          · omega
          · rw [List.mem_singleton.mp hr]
            omega
  · cases h

theorem TileF.rate_cases (f : TileF) : f.rate = (2, 1) ∨ f.rate = (1, 4) ∨ f.rate = (1, 1) := by
  unfold TileF.rate
  split
  · exact .inl rfl
  · split
    · exact .inr (.inl rfl)
    · exact .inr (.inr rfl)

theorem runWork_tile {conv : Bool} {u : State} {i : Issue} {f : TileF} (ho : opOf i.word = if conv then 0x41 else 0x40) (hd : decTile conv u i = some f) (k : Nat) (acc : List (Nat × Nat)) (c : Nat)
    (t : State) : runWork c (.stage i (u.hold i) k acc) t = tileStage conv f i (u.hold i) k acc c t := by
  have hd : decTile conv (t.held (u.hold i)) i = some f := hd
  cases conv with
  | true => simp only [runWork, stageOf, ho, if_true, stageWith, hd]
  | false => simp only [runWork, stageOf, ho, Bool.false_eq_true, if_false, stageWith, hd]

/-! ### What a stage reads -/

section reads
variable (conv : Bool) (u : State) (n : Nat) (f : TileF)

/-- Row r of A and column c of B in k-step x, each with its scale. -/
def tileRow (x r : Nat) : Opnd := (tileA conv u n f r x).mul (scaleOpnd f.sca (scaleCodes u n f.sca f.sa (x / f.grp)) r)
def tileCol (x c : Nat) : Opnd := (tileB conv u n f x c).mul (scaleOpnd f.scb (scaleCodes u n f.scb f.sb (x / f.grp)) c)

/-- The scale vectors of a group. -/
def tileCodes (g : Nat) : List (Nat × Nat) := scaleCodes u n f.sca f.sa g ++ scaleCodes u n f.scb f.sb g

/-- k-step x. -/
def tileKstep (x : Nat) : KStep :=
  kstepOf n f.compact f.slot (tileAnchor u n f) (f.start && decide (x = 0)) (tileRow conv u n f x) (tileCol conv u n f x)
    (fun r => belowB u n f.bnd.wRow (if conv then (r : Int) else f.bnd.oR + (r : Int))) (fun c => belowB u n f.bnd.wCol (f.bnd.oC + (c : Int)))

/-- The scales of A and of B, from the scale vectors of their group. -/
theorem scaleOpnd_a (g r : Nat) : scaleOpnd f.sca (if f.sca = 0 then [] else (tileCodes u n f g).take 64) r = scaleOpnd f.sca (scaleCodes u n f.sca f.sa g) r := by
  by_cases h : f.sca = 0
  · unfold scaleOpnd
    rw [if_pos h, if_pos h]
  · unfold tileCodes
    rw [if_neg h, List.take_left' (by simp [scaleCodes, h])]

theorem scaleOpnd_b (g c : Nat) : scaleOpnd f.scb (if f.sca = 0 then tileCodes u n f g else (tileCodes u n f g).drop 64) c = scaleOpnd f.scb (scaleCodes u n f.scb f.sb g) c := by
  unfold tileCodes
  split
  next h => rw [show scaleCodes u n f.sca f.sa g = [] from if_pos h, List.nil_append]
  next h => rw [List.drop_left' (by simp [scaleCodes, h])]

end reads

section kept
variable {u t : State} (x : Held) (hb : ∀ n a, (t.held x).loftByte n a = u.loftByte n a)
include hb

theorem elemAt_bytes (n base bits l : Nat) : elemAt (t.held x) n base bits l = elemAt u n base bits l := by
  unfold elemAt
  simp only [hb]

end kept

/-- What a word reads of a bay, with the registers of its issue, where the bay's bytes stand. -/
theorem tile_kept {conv : Bool} {u t : State} (i : Issue) (hb : ∀ n a, (t.held (u.hold i)).loftByte n a = u.loftByte n a) (n : Nat) (f : TileF) :
    (∀ r k, tileA conv (t.held (u.hold i)) n f r k = tileA conv u n f r k) ∧ (∀ k c, tileB conv (t.held (u.hold i)) n f k c = tileB conv u n f k c) ∧
      ∀ sc adr g, scaleCodes (t.held (u.hold i)) n sc adr g = scaleCodes u n sc adr g := by
  have hel := elemAt_bytes (u.hold i) hb
  refine ⟨fun r k => ?_, fun k c => ?_, fun sc adr g => ?_⟩
  · unfold tileA
    simp only [hel]
    rfl
  · unfold tileB
    simp only [hel]
    rfl
  · unfold scaleCodes
    simp only [hel]
    rfl

/-! ### What a stage begins -/

theorem foldl_later (c phase : Nat) (w : Nat → Work) (l : List Nat) (s : State) : l.foldl (fun t x => t.later c phase (w x)) s =
    { s with fab := { s.fab with flight := s.fab.flight ++ l.map (fun x => ⟨c, phase, w x⟩) } } := by
  induction l generalizing s with
  | nil => simp
  | cons x l ih =>
    rw [List.foldl_cons, ih, List.map_cons]
    unfold State.later
    rw [List.append_assoc]
    rfl

section stage
variable (conv : Bool) (u : State) (i : Issue) (f : TileF)

/-- The k-steps taken by the stages before k. -/
def TileF.taken (f : TileF) (k : Nat) : Nat := min (k * f.rate.1) f.ksteps

/-- What stage k begins in cycle c: its k-steps land together, and the next stage follows where k-steps are left. -/
def tileNew (k c : Nat) : List Flight :=
  (List.range' (f.taken k) (f.taken (k + 1) - f.taken k)).map (fun x => ⟨c + f.rate.2 + 8, 0, .kstep (tileKstep conv u i.spar.val f x)⟩) ++
    if (k + 1) * f.rate.1 < f.ksteps then [⟨c + f.rate.2, 3, .stage i (u.hold i) (k + 1) (tileCodes u i.spar.val f (k * f.rate.1 / f.grp))⟩] else []

/-- What a stage is carried: the scales of the group that it is in, where an earlier stage has read them. -/
def TileCarry (k : Nat) (acc : List (Nat × Nat)) : Prop := k * f.rate.1 % f.grp ≠ 0 → acc = tileCodes u i.spar.val f (k * f.rate.1 / f.grp)

variable {u i f} (hg : f.grp = 32 ∨ f.grp = 64 ∨ f.grp = 128)
include hg

theorem TileCarry.next (k : Nat) : TileCarry u i f (k + 1) (tileCodes u i.spar.val f (k * f.rate.1 / f.grp)) := by
  intro h
  congr 1
  rcases f.rate_cases with hr | hr | hr <;> rw [hr] at h ⊢ <;> rcases hg with hg | hg | hg <;> rw [hg] at h ⊢ <;> dsimp only at h ⊢ <;> omega

/-- The k-steps of a stage are of one group. -/
theorem tile_group {k x : Nat} (hx : k * f.rate.1 ≤ x) (hx' : x < (k + 1) * f.rate.1) : x / f.grp = k * f.rate.1 / f.grp := by
  rcases f.rate_cases with hr | hr | hr <;> rw [hr] at hx hx' ⊢ <;> rcases hg with hg | hg | hg <;> rw [hg] <;> dsimp only at hx hx' ⊢ <;> omega

omit hg in
/-- The k-steps that the array takes in a stage. -/
theorem tile_ksteps {k : Nat} (hk : k * f.rate.1 < f.ksteps) :
    ((List.range f.rate.1).map (fun d => k * f.rate.1 + d)).filter (fun x => decide (x < f.ksteps)) = List.range' (f.taken k) (f.taken (k + 1) - f.taken k) := by
  unfold TileF.taken
  rw [Nat.min_eq_left hk.le]
  rcases f.rate_cases with hr | hr | hr <;> rw [hr] at hk ⊢ <;> dsimp only at hk ⊢
  · by_cases hk2 : k * 2 + 1 < f.ksteps
    · rw [Nat.min_eq_left (by omega), show (k + 1) * 2 - k * 2 = 2 by omega]
      simp [List.range_succ, List.range', hk, hk2]
    · rw [Nat.min_eq_right (by omega), show f.ksteps - k * 2 = 1 by omega]
      simp [List.range_succ, List.range', hk, hk2]
  · rw [Nat.min_eq_left (by omega), show (k + 1) * 1 - k * 1 = 1 by omega]
    simp [List.range']
    omega
  · rw [Nat.min_eq_left (by omega), show (k + 1) * 1 - k * 1 = 1 by omega]
    simp [List.range']
    omega

theorem tileStage_eq {t : State} (hclean : t.fab.loft.Clean) (hb : ∀ n a, (t.held (u.hold i)).loftByte n a = u.loftByte n a) {k c : Nat} {acc : List (Nat × Nat)}
    (hacc : TileCarry u i f k acc) (hk : k * f.rate.1 < f.ksteps) :
    tileStage conv f i (u.hold i) k acc c t = { t with fab := { t.fab with flight := t.fab.flight ++ tileNew conv u i f k c } } := by
  obtain ⟨ha, hbb, hs⟩ := tile_kept (conv := conv) i hb i.spar.val f
  have hcodes : (if decide (k * f.rate.1 % f.grp = 0) = true then scaleCodes (t.held (u.hold i)) i.spar.val f.sca f.sa (k * f.rate.1 / f.grp) ++
      scaleCodes (t.held (u.hold i)) i.spar.val f.scb f.sb (k * f.rate.1 / f.grp) else acc) = tileCodes u i.spar.val f (k * f.rate.1 / f.grp) := by
    split
    · rw [hs, hs]
      rfl
    next h => exact hacc (by simpa using h)
  have hstep : ∀ x ∈ List.range' (f.taken k) (f.taken (k + 1) - f.taken k), (⟨i.spar.val, f.compact, f.slot, tileAnchor (t.held (u.hold i)) i.spar.val f, f.start && decide (x = 0),
      (List.range 64).map (fun r => (tileA conv (t.held (u.hold i)) i.spar.val f r x).mul
        (scaleOpnd f.sca (if f.sca = 0 then [] else (tileCodes u i.spar.val f (k * f.rate.1 / f.grp)).take 64) r)),
      (List.range 64).map (fun c => (tileB conv (t.held (u.hold i)) i.spar.val f x c).mul
        (scaleOpnd f.scb (if f.sca = 0 then tileCodes u i.spar.val f (k * f.rate.1 / f.grp) else (tileCodes u i.spar.val f (k * f.rate.1 / f.grp)).drop 64) c)),
      (List.range 64).map (fun (r : Nat) => belowB (t.held (u.hold i)) i.spar.val f.bnd.wRow (if conv then (r : Int) else f.bnd.oR + (r : Int))),
      (List.range 64).map (fun (c : Nat) => belowB (t.held (u.hold i)) i.spar.val f.bnd.wCol (f.bnd.oC + (c : Int)))⟩ : KStep) = tileKstep conv u i.spar.val f x := by
    intro x hx
    obtain ⟨hx1, hx2⟩ := List.mem_range'_1.mp hx
    unfold TileF.taken at hx1 hx2
    have hgr : x / f.grp = k * f.rate.1 / f.grp := tile_group hg (by omega) (by omega)
    simp only [scaleOpnd_a, scaleOpnd_b, ha, hbb, ← hgr]
    rfl
  have hport : ∀ (fl : List Flight) (accs : List (Nat × Nat)), ({ t with fab := { t.fab with flight := fl } } : State).portReads (u.hold i) i.spar.val accs =
      { t with fab := { t.fab with flight := fl } } := fun fl accs =>
    portReads_sound (s := { t with fab := { t.fab with flight := fl } }) hclean _ _ _
  unfold tileStage
  dsimp only
  rw [tile_ksteps hk, hcodes]
  rw [List.foldl_ext _ _ _ (fun (s : State) x hx => congrArg (fun y => s.later (c + f.rate.2 + 8) 0 (.kstep y)) (hstep x hx)), foldl_later, hport]
  unfold tileNew
  rw [Nat.add_one_mul]
  split
  · rw [← List.append_assoc]
    rfl
  · rw [List.append_nil]

end stage

end Sys2Proof.Machine

/-! SUPPORT. MMA and CONV: the slot while the word's k-steps land in order, and what they leave (R80, R84, R131, R132). -/

namespace Sys2Proof.Machine

/-! ### Operands are sound -/

theorem elOpnd_sound (f : Fmt) (cp : Nat × Nat) : (elOpnd f cp).Sound := by
  intro p h
  unfold elOpnd at h
  split at h
  next hp =>
    cases h
    exact hp
  · cases hv : f.value cp.1 with
    | none => rw [hv] at h; cases h; decide
    | some x => rw [hv] at h; cases h

theorem Opnd.Sound.mul {x y : Opnd} (hx : x.Sound) (hy : y.Sound) : (x.mul y).Sound := by
  intro p h
  cases x with
  | val m e =>
    cases y with
    | val m' e' => cases h
    | bad q => cases h; exact hy _ rfl
  | bad q =>
    cases y with
    | val m' e' => cases h; exact hx _ rfl
    | bad q' =>
      cases h
      have := hx q rfl
      omega

theorem scaleOpnd_sound (sc : Nat) (codes : List (Nat × Nat)) (i : Nat) : (scaleOpnd sc codes i).Sound := by
  intro p h
  unfold scaleOpnd at h
  split at h
  · cases h
  · exact scOpnd_bad h

theorem productOf_sound (conv : Bool) (u : State) (n : Nat) (f : TileF) (r c k : Nat) : (productOf conv u n f r c k).Sound := by
  have ha : (tileA conv u n f r k).Sound := by
    unfold tileA
    dsimp only
    split
    · split <;> exact elOpnd_sound _ _
    · split <;> exact elOpnd_sound _ _
  have hb : (tileB conv u n f k c).Sound := by
    unfold tileB
    split <;> exact elOpnd_sound _ _
  exact (ha.mul (scaleOpnd_sound _ _ _)).mul (hb.mul (scaleOpnd_sound _ _ _))

/-! ### The part after some k-steps -/

/-- Nothing but the crucible, the descriptors, the registers and the clock has changed. -/
def SlotOnly (u t : State) : Prop := ∃ (r : List (Nat × Word)) (cr : List (Nat × Half)) (de : List (Nat × Descr)) (l : List Flight) (y : Nat) (g : List (Nat × Nat)),
  t = { u with wire := [], regs := r, fab := { u.fab with crucible := cr, descr := de, flight := l, cyc := y, fresh := g } }

/-- After j k-steps of a tile matrix word, and its descriptor's write where `d` says so. -/
structure TileFrame (conv : Bool) (u : State) (n : Nat) (f : TileF) (j : Nat) (d : Bool) (t : State) : Prop where
  only : SlotOnly u t
  regs : ∀ a, a ∉ [A.sparSat n, A.sparUfz n, A.sparPoi n, A.sparCrucPerr n] → t.reg a = u.reg a
  poi : t.rf (A.sparPoi n) 31 0 = u.rf (A.sparPoi n) 31 0
  ufz : t.rf (A.sparUfz n) 31 0 = u.rf (A.sparUfz n) 31 0
  cells : ∀ r c, r < 64 → c < 64 → CellAfter (viewBits f.compact) (tileAnchor u n f) (windowMax f.compact) f.start (u.entry n f.compact f.slot r c) (productOf conv u n f r c) j
    (t.entry n f.compact f.slot r c)
  halves : ∀ m h r c, h < 32 → r < 64 → c < 64 → ¬(m = n ∧ h ∈ slotRecs f.compact f.slot) → t.half m h r c = u.half m h r c
  descr : ∀ m h, h < 32 → t.descr m h = if d = true ∧ m = n ∧ h ∈ slotRecs f.compact f.slot then ⟨f.compact, tileAnchor u n f⟩ else u.descr m h

section tileframe
variable {conv : Bool} {u t : State} {n : Nat} {f : TileF} {j : Nat} {d : Bool}

theorem entry_congr {s t : State} (h : t.fab.crucible = s.fab.crucible) (n : Nat) (compact : Bool) (slot r c : Nat) : t.entry n compact slot r c = s.entry n compact slot r c := by
  unfold State.entry State.half
  rw [h]

theorem TileFrame.start (conv : Bool) (u : State) (n : Nat) (f : TileF) : TileFrame conv u n f 0 false { u with wire := [] } where
  only := ⟨_, _, _, _, _, _, rfl⟩
  regs := fun _ _ => rfl
  poi := rfl
  ufz := rfl
  cells := fun _ _ _ _ => ⟨fun _ => rfl, fun h => absurd h (Nat.lt_irrefl 0), fun h => absurd h (Nat.lt_irrefl 0), fun h => absurd h (Nat.lt_irrefl 0)⟩
  halves := fun _ _ _ _ _ _ _ _ => rfl
  descr := fun _ _ _ => (if_neg (by simp)).symm

theorem TileFrame.clock (h : TileFrame conv u n f j d t) (l : List Flight) (y : Nat) (g : List (Nat × Nat)) :
    TileFrame conv u n f j d { t with fab := { t.fab with flight := l, cyc := y, fresh := g } } := by
  refine ⟨?_, h.regs, h.poi, h.ufz, h.cells, h.halves, h.descr⟩
  obtain ⟨r, cr, de, l', y', g', rfl⟩ := h.only
  exact ⟨r, cr, de, l, y, g, rfl⟩

/-- A k-step lands. -/
theorem TileFrame.kstep (h : TileFrame conv u n f j d t) (hslot : f.SlotFits) : TileFrame conv u n f (j + 1) d (kstepLand (tileKstep conv u n f j) t) ∧
    (kstepLand (tileKstep conv u n f j) t).fab.flight = t.fab.flight := by
  obtain ⟨sat, perr, heq⟩ := kstepLand_eq n f.compact f.slot (tileAnchor u n f) (f.start && decide (j = 0)) (tileRow conv u n f j) (tileCol conv u n f j)
    (fun r => belowB u n f.bnd.wRow (if conv then (r : Int) else f.bnd.oR + (r : Int))) (fun c => belowB u n f.bnd.wCol (f.bnd.oC + (c : Int))) t
  have heq : kstepLand (tileKstep conv u n f j) t = _ := heq
  generalize hH : kstepHalves n f.compact f.slot (tileAnchor u n f) (f.start && decide (j = 0)) (tileRow conv u n f j) (tileCol conv u n f j) t = H at heq
  obtain ⟨hc, r, g, ev, hcount, hev⟩ := (t.setHalves H).count_counted n sat 0 0 false
  have hev := hev rfl
  have hbump : ∀ a, a ≠ A.sparCrucPerr n → (kstepLand (tileKstep conv u n f j) t).reg a = ((t.setHalves H).count n sat 0 0 false).reg a := fun a ha => by
    rw [heq]
    exact State.reg_setReg_ne _ _ ha
  have hcruc : (kstepLand (tileKstep conv u n f j) t).fab.crucible = (t.setHalves H).fab.crucible ∧ (kstepLand (tileKstep conv u n f j) t).fab.descr = t.fab.descr ∧
      (kstepLand (tileKstep conv u n f j) t).fab.flight = t.fab.flight := by
    rw [heq, hcount]
    exact ⟨rfl, rfl, rfl⟩
  obtain ⟨hcr, hde, hfl⟩ := hcruc
  have honly : SlotOnly u (kstepLand (tileKstep conv u n f j) t) := by
    rw [heq, hcount, hev]
    obtain ⟨r', cr, de, l, y, g', rfl⟩ := h.only
    exact ⟨_, _, de, l, y, g, rfl⟩
  have hreg : ∀ a, (t.setHalves H).reg a = t.reg a := fun _ => rfl
  have hrf : ∀ a, (t.setHalves H).rf a 31 0 = t.rf a 31 0 := fun _ => rfl
  refine ⟨⟨honly, fun a ha => ?_, ?_, ?_, fun r c hr hcc => ?_, fun m hh r c hlt hr hcc hne => ?_, fun m hh hlt => ?_⟩, hfl⟩
  · simp only [List.mem_cons, List.not_mem_nil, or_false, not_or] at ha
    rw [hbump a ha.2.2.2, hc.regs a (by simp [ha]), hreg]
    exact h.regs a (by simp [ha])
  · refine (congrArg (fun w => fld w 31 0) (hbump _ (by unfold A.sparPoi A.sparCrucPerr; omega))).trans (hc.poi.trans ?_)
    rw [Nat.add_zero, Nat.min_eq_left (State.rf_lt _ _), hrf, h.poi]
  · refine (congrArg (fun w => fld w 31 0) (hbump _ (by unfold A.sparUfz A.sparCrucPerr; omega))).trans (hc.ufz.trans ?_)
    rw [Nat.add_zero, Nat.min_eq_left (State.rf_lt _ _), hrf, h.ufz]
  · rw [entry_congr hcr, ← hH, entry_kstep hslot hr hcc]
    exact (h.cells r c hr hcc).step (productOf_sound conv u n f r c j)
  · have hhalf : (kstepLand (tileKstep conv u n f j) t).half m hh r c = (t.setHalves H).half m hh r c := by
      unfold State.half
      rw [hcr]
    rw [hhalf, ← hH, half_kstep_ne hslot hr hcc hlt hne]
    exact h.halves m hh r c hlt hr hcc hne
  · have : (kstepLand (tileKstep conv u n f j) t).descr m hh = t.descr m hh := by
      unfold State.descr
      rw [hde]
    rw [this]
    exact h.descr m hh hlt

/-- The descriptor is written. -/
theorem TileFrame.setDescr (h : TileFrame conv u n f j false t) (hslot : f.SlotFits) : TileFrame conv u n f j true (t.setDescr n f.compact f.slot (tileAnchor u n f)) := by
  refine ⟨?_, h.regs, h.poi, h.ufz, h.cells, h.halves, fun m g hg => ?_⟩
  · obtain ⟨r', cr, de, l, y, g', rfl⟩ := h.only
    exact ⟨r', cr, _, l, y, g', rfl⟩
  · have hold := h.descr m g hg
    rw [if_neg (by simp)] at hold
    unfold State.descr State.setDescr at *
    dsimp only at *
    split
    next hin =>
      obtain ⟨-, rfl, hin⟩ := hin
      refine smGet_smPutAll_mem _ _ (fun e he _ => ?_) ⟨_, List.mem_map.mpr ⟨g, hin, rfl⟩, rfl⟩
      obtain ⟨x, -, rfl⟩ := List.mem_map.mp he
      rfl
    next hout =>
      rw [← hold]
      refine smGet_smPutAll_not_mem _ _ _ _ (fun e he hq => hout ?_)
      obtain ⟨x, hx, rfl⟩ := List.mem_map.mp he
      have := hslot x hx
      dsimp only at hq
      obtain ⟨rfl, rfl⟩ : n = m ∧ x = g := by omega
      exact ⟨rfl, rfl, hx⟩

theorem SlotOnly.bays (h : SlotOnly u t) : t.fab.loft = u.fab.loft ∧ ∀ j, t.job j = u.job j := by
  obtain ⟨r, cr, de, l, y, g, rfl⟩ := h
  exact ⟨rfl, fun _ => rfl⟩

/-- The bays read as they did. -/
theorem TileFrame.reads (h : TileFrame conv u n f j d t) (hp : ∀ a, u.aliasPair 1 a = none ∧ u.fitAlias 1 a = none) (x : Held) (m a : Nat) : (t.held x).loftByte m a = u.loftByte m a := by
  obtain ⟨hloft, hjob⟩ := h.only.bays
  have hpt : ∀ a, t.aliasPair 1 a = none ∧ t.fitAlias 1 a = none := fun a => by
    obtain ⟨h1, h2⟩ := alias_congr (s := u) (t := t) (fun b hb => h.regs b (by simp [A.sparSat, A.sparUfz, A.sparPoi, A.sparCrucPerr]; omega)) (fun j => by rw [hjob]) 1 a
    rw [h1, h2]
    exact hp a
  rw [held_loftByte_own hpt, loftByte_own hp, hloft]

end tileframe

/-! ### The work in flight -/

def Flight.isKstep (x : Flight) : Bool :=
  match x.work with
  | .kstep _ => true
  | _ => false

section tiling
variable (conv : Bool) (u : State) (i : Issue) (f : TileF)

/-- k-step x on its way. -/
def kstepFlight (x : Nat) : Flight := ⟨i.c.toNat + x / f.rate.1 * f.rate.2 + f.rate.2 + 8, 0, .kstep (tileKstep conv u i.spar.val f x)⟩

/-- The k-steps from j to before m, in order. -/
def kstepFlights (j m : Nat) : List Flight := (List.range' j (m - j)).map (kstepFlight conv u i f)

/-- Stage k, where k-steps are left. -/
def tileStages (k : Nat) (acc : List (Nat × Nat)) : List Flight := if k * f.rate.1 < f.ksteps then [⟨i.c.toNat + k * f.rate.2, 3, .stage i (u.hold i) k acc⟩] else []

/-- The write of the descriptor on its way. -/
def tileDescr : Flight := ⟨i.c.toNat + 1, 0, .setDescr i.spar.val f.compact f.slot (tileAnchor u i.spar.val f)⟩

/-- A tile matrix word under way: j k-steps have landed, the stages before k have come about, and `pend` says whether its descriptor is still to be written. -/
structure Tiling (j k : Nat) (pend : Bool) (acc : List (Nat × Nat)) (l : List Flight) (t : State) : Prop where
  le : j ≤ f.taken k
  carry : TileCarry u i f k acc
  starts : pend = true → f.start = true
  ksteps : l.filter (fun x => x.isKstep) = kstepFlights conv u i f j (f.taken k)
  others : (l.filter (fun x => !x.isKstep)).Perm (tileStages u i f k acc ++ if pend then [tileDescr u i f] else [])
  frame : TileFrame conv u i.spar.val f j (f.start && !pend) t

variable {conv u i f}

theorem TileF.rate_pos (f : TileF) : 0 < f.rate.1 ∧ f.rate.1 ≤ 2 ∧ f.rate.2 ≤ 4 := by
  rcases f.rate_cases with h | h | h <;> rw [h] <;> decide

theorem TileF.taken_mono (f : TileF) (k : Nat) : f.taken k ≤ f.taken (k + 1) := by
  unfold TileF.taken
  rw [Nat.add_one_mul]
  omega

theorem kstepFlights_cons {j m : Nat} (h : j < m) : kstepFlights conv u i f j m = kstepFlight conv u i f j :: kstepFlights conv u i f (j + 1) m := by
  unfold kstepFlights
  rw [show m - j = (m - (j + 1)) + 1 by omega, List.range'_succ, List.map_cons]

theorem kstepFlights_append {j m p : Nat} (h : j ≤ m) (h' : m ≤ p) : kstepFlights conv u i f j m ++ kstepFlights conv u i f m p = kstepFlights conv u i f j p := by
  unfold kstepFlights
  have hm : m = j + 1 * (m - j) := by omega
  rw [← List.map_append]
  congr 1
  rw [show List.range' m (p - m) = List.range' (j + 1 * (m - j)) (p - m) by rw [← hm], List.range'_append]
  congr 1
  omega

theorem kstepFlights_isKstep (j m : Nat) : ∀ x ∈ kstepFlights conv u i f j m, x.isKstep = true := by
  intro x hx
  obtain ⟨y, -, rfl⟩ := List.mem_map.mp hx
  rfl

theorem tileStages_isKstep (k : Nat) (acc : List (Nat × Nat)) : ∀ x ∈ tileStages u i f k acc, x.isKstep = false := by
  intro x hx
  unfold tileStages at hx
  split at hx
  · rw [List.mem_singleton.mp hx]
    rfl
  · exact absurd hx List.not_mem_nil

/-- What stage k begins. -/
theorem tileNew_eq {k : Nat} (hk : k * f.rate.1 < f.ksteps) : tileNew conv u i f k (i.c.toNat + k * f.rate.2) =
    kstepFlights conv u i f (f.taken k) (f.taken (k + 1)) ++ tileStages u i f (k + 1) (tileCodes u i.spar.val f (k * f.rate.1 / f.grp)) := by
  unfold tileNew kstepFlights tileStages
  rw [Nat.add_one_mul k f.rate.2, ← Nat.add_assoc]
  congr 1
  refine List.map_congr_left (fun x hx => ?_)
  obtain ⟨hx1, hx2⟩ := List.mem_range'_1.mp hx
  have hx' : x / f.rate.1 = k := by
    unfold TileF.taken at hx1 hx2
    rw [Nat.min_eq_left hk.le] at hx1 hx2
    exact Nat.div_eq_of_lt_le hx1 (by omega)
  unfold kstepFlight
  rw [hx']

/-- How much of a tile matrix word is still to come. -/
def tileLeft (f : TileF) : Work → Nat
  | .stage _ _ k _ => 4 * (f.ksteps - k * f.rate.1)
  | _ => 1

theorem toCome_tileNew {k : Nat} (hk : k * f.rate.1 < f.ksteps) (c : Nat) : toCome (tileLeft f) (tileNew conv u i f k c) < 4 * (f.ksteps - k * f.rate.1) := by
  have h1 : ∀ l : List Nat, toCome (tileLeft f) (l.map (fun x => (⟨c + f.rate.2 + 8, 0, .kstep (tileKstep conv u i.spar.val f x)⟩ : Flight))) = l.length := by
    intro l
    unfold toCome
    rw [List.map_map]
    simp [Function.comp_def, tileLeft]
  obtain ⟨hr, hr2, -⟩ := f.rate_pos
  unfold tileNew
  rw [toCome_append, h1, List.length_range']
  unfold TileF.taken
  rw [Nat.min_eq_left hk.le]
  have hnext : (k + 1) * f.rate.1 = k * f.rate.1 + f.rate.1 := Nat.add_one_mul k f.rate.1
  split
  · rw [toCome_cons, toCome_nil]
    dsimp only [tileLeft]
    omega
  · rw [toCome_nil]
    omega

end tiling

end Sys2Proof.Machine

/-! SUPPORT. MMA and CONV: their k-steps land one after another, and the obligation (R128 to R132, R137, R138, R241 to R246). -/

namespace Sys2Proof.Machine

/-! ### The order of the work -/

theorem filter_isKstep {l r : List Flight} (hl : ∀ x ∈ l, x.isKstep = true) (hr : ∀ x ∈ r, x.isKstep = false) :
    (l ++ r).filter (fun x => x.isKstep) = l ∧ (l ++ r).filter (fun x => !x.isKstep) = r := by
  rw [List.filter_append, List.filter_append, List.filter_eq_self.mpr hl, List.filter_eq_nil_iff.mpr (fun x hx => by simp [hr x hx]),
    List.filter_eq_nil_iff.mpr (fun x hx => by simp [hl x hx]), List.filter_eq_self.mpr (fun x hx => by simp [hr x hx])]
  exact ⟨List.append_nil l, List.nil_append r⟩

theorem filter_sift (p : Flight → Bool) (l : List Flight) (c phase : Nat) : (sift l c phase).filter p = sift (l.filter p) c phase := by
  unfold sift
  rw [List.filter_append]
  simp only [List.filter_filter, Bool.and_comm]

theorem sift_perm (l : List Flight) (c phase : Nat) : (sift l c phase).Perm l := List.filter_append_perm (fun x : Flight => x.lies c phase) l

section tiling
variable {conv : Bool} {u : State} {i : Issue} {f : TileF}

/-- k-steps land in order. -/
theorem kstepFlights_sorted (j m : Nat) : (kstepFlights conv u i f j m).Pairwise (fun x y => x.c ≤ y.c) := by
  refine List.pairwise_map.mpr ((List.pairwise_lt_range' (step := 1)).imp (fun {x y} h => ?_))
  have := Nat.mul_le_mul_right f.rate.2 (Nat.div_le_div_right (c := f.rate.1) h.le)
  unfold kstepFlight
  dsimp only
  omega

theorem kstepFlights_phase (j m : Nat) : ∀ x ∈ kstepFlights conv u i f j m, x.phase = 0 := by
  intro x hx
  obtain ⟨y, -, rfl⟩ := List.mem_map.mp hx
  rfl

theorem Tiling.sift {j k : Nat} {pend : Bool} {acc : List (Nat × Nat)} {l : List Flight} {t : State} {c phase : Nat} (hfirst : ∀ y ∈ l, c < y.c ∨ (c = y.c ∧ phase ≤ y.phase))
    (H : Tiling conv u i f j k pend acc l t) : Tiling conv u i f j k pend acc (sift l c phase) t where
  le := H.le
  carry := H.carry
  starts := H.starts
  ksteps := by
    rw [filter_sift, H.ksteps]
    refine sift_sorted (kstepFlights_sorted _ _) (kstepFlights_phase _ _) (fun y hy => hfirst y ?_)
    rw [← H.ksteps] at hy
    exact List.mem_of_mem_filter hy
  others := ((sift_perm l c phase).filter _).trans H.others
  frame := H.frame

/-! ### What a piece of work does -/

variable (hq : QuietBay u i.spar.val) (hg : f.grp = 32 ∨ f.grp = 64 ∨ f.grp = 128) (hslot : f.SlotFits)
  (hrun : ∀ (k : Nat) (acc : List (Nat × Nat)) (c : Nat) (t : State), runWork c (.stage i (u.hold i) k acc) t = tileStage conv f i (u.hold i) k acc c t)

/-- What a piece of a tile matrix word leaves in flight and of the slot. -/
def TileStep (conv : Bool) (u : State) (i : Issue) (f : TileF) (x : Flight) (l : List Flight) (s : State) : Prop :=
  ∃ new : List Flight, (runWork x.c x.work s).fab.flight = s.fab.flight ++ new ∧ (∃ j k pend acc, Tiling conv u i f j k pend acc (l ++ new) (runWork x.c x.work s)) ∧
    toCome (tileLeft f) new < tileLeft f x.work ∧ ∀ y ∈ new, y.c ≤ x.c + 1024

include hslot in
/-- A k-step lands: it is the next one. -/
theorem Tiling.kstep {j k : Nat} {pend : Bool} {acc : List (Nat × Nat)} {x : Flight} {l : List Flight} {t : State} (hx : x.isKstep = true)
    (H : Tiling conv u i f j k pend acc (x :: l) t) : TileStep conv u i f x l t := by
  have hk := H.ksteps
  have ho := H.others
  rw [List.filter_cons_of_pos (p := fun x : Flight => x.isKstep) hx] at hk
  rw [List.filter_cons_of_neg (p := fun x : Flight => !x.isKstep) (by simp [hx])] at ho
  have hj : j < f.taken k := by
    by_contra hj
    rw [show kstepFlights conv u i f j (f.taken k) = [] by unfold kstepFlights; rw [Nat.sub_eq_zero_of_le (not_lt.mp hj)]; rfl] at hk
    cases hk
  rw [kstepFlights_cons hj] at hk
  obtain ⟨rfl, hrest⟩ := List.cons.inj hk
  obtain ⟨hframe, hflight⟩ := H.frame.kstep hslot
  refine ⟨[], ?_, ⟨j + 1, k, pend, acc, ?_⟩, Nat.zero_lt_one, fun y hy => absurd hy List.not_mem_nil⟩
  · rw [List.append_nil]
    exact hflight
  · rw [List.append_nil]
    exact ⟨hj, H.carry, H.starts, hrest, ho, hframe⟩

include hslot in
/-- The descriptor is written. -/
theorem Tiling.setDescr {j k : Nat} {acc : List (Nat × Nat)} {l : List Flight} {t : State}
    (hk : l.filter (fun x => x.isKstep) = kstepFlights conv u i f j (f.taken k)) (ho : (l.filter (fun x => !x.isKstep)).Perm (tileStages u i f k acc))
    (H : Tiling conv u i f j k true acc (tileDescr u i f :: l) t) : TileStep conv u i f (tileDescr u i f) l t := by
  have hstart := H.starts rfl
  have hframe := H.frame
  rw [Bool.not_true, Bool.and_false] at hframe
  refine ⟨[], ?_, ⟨j, k, false, acc, ?_⟩, Nat.zero_lt_one, fun y hy => absurd hy List.not_mem_nil⟩
  · rw [List.append_nil]
    rfl
  · rw [List.append_nil]
    refine ⟨H.le, H.carry, (fun h => by cases h), hk, by simpa using ho, ?_⟩
    rw [hstart]
    exact hframe.setDescr hslot

include hq hg hrun in
/-- A stage comes about: its k-steps are begun, and the next stage where k-steps are left. -/
theorem Tiling.stage {j k : Nat} {pend : Bool} {acc : List (Nat × Nat)} {l : List Flight} {t : State} (hlt : k * f.rate.1 < f.ksteps)
    (hk : l.filter (fun x => x.isKstep) = kstepFlights conv u i f j (f.taken k)) (ho : (l.filter (fun x => !x.isKstep)).Perm (if pend then [tileDescr u i f] else []))
    (H : Tiling conv u i f j k pend acc (⟨i.c.toNat + k * f.rate.2, 3, .stage i (u.hold i) k acc⟩ :: l) t) :
    TileStep conv u i f ⟨i.c.toNat + k * f.rate.2, 3, .stage i (u.hold i) k acc⟩ l t := by
  have hclean : t.fab.loft.Clean := by
    rw [H.frame.only.bays.1]
    exact Mem.clean_of_nil hq.marks hq.flips
  have hnew := tileNew_eq (conv := conv) (u := u) (i := i) hlt
  obtain ⟨hnk, hno⟩ := filter_isKstep (kstepFlights_isKstep (conv := conv) (u := u) (i := i) (f := f) (f.taken k) (f.taken (k + 1)))
    (tileStages_isKstep (u := u) (i := i) (f := f) (k + 1) (tileCodes u i.spar.val f (k * f.rate.1 / f.grp)))
  rw [← hnew] at hnk hno
  have hstage := (hrun k acc (i.c.toNat + k * f.rate.2) t).trans
    (tileStage_eq (conv := conv) (c := i.c.toNat + k * f.rate.2) hg hclean (H.frame.reads hq.plain (u.hold i)) H.carry hlt)
  refine ⟨tileNew conv u i f k (i.c.toNat + k * f.rate.2), congrArg (fun s : State => s.fab.flight) hstage, ⟨j, k + 1, pend, tileCodes u i.spar.val f (k * f.rate.1 / f.grp), ?_⟩,
    toCome_tileNew hlt _, fun y hy => ?_⟩
  · refine ⟨H.le.trans (f.taken_mono k), TileCarry.next hg k, H.starts, ?_, ?_, ?_⟩
    · rw [List.filter_append, hk, hnk]
      exact kstepFlights_append H.le (f.taken_mono k)
    · rw [List.filter_append, hno]
      exact (List.perm_append_comm).trans (ho.append_left _)
    · dsimp only
      rw [hstage]
      exact H.frame.clock _ _ _
  · have := f.rate_pos
    unfold tileNew at hy
    rcases List.mem_append.mp hy with hy | hy
    · obtain ⟨x, -, rfl⟩ := List.mem_map.mp hy
      dsimp only
      omega
    · split at hy
      · rw [List.mem_singleton.mp hy]
        dsimp only
        omega
      · exact absurd hy List.not_mem_nil

include hq hg hslot hrun in
theorem tiling_inTime : InTime (tileLeft f) (fun l t => ∃ j k pend acc, Tiling conv u i f j k pend acc l t) where
  sift := fun hfirst ⟨j, k, pend, acc, H⟩ => ⟨j, k, pend, acc, H.sift hfirst⟩
  clock := fun l y g ⟨j, k, pend, acc, H⟩ => ⟨j, k, pend, acc, H.le, H.carry, H.starts, H.ksteps, H.others, H.frame.clock l y g⟩
  step := by
    rintro x l t ⟨j, k, pend, acc, H⟩
    change TileStep conv u i f x l t
    by_cases hx : x.isKstep = true
    · exact H.kstep hslot hx
    · have hk := H.ksteps
      have ho := H.others
      rw [List.filter_cons_of_neg (p := fun x : Flight => x.isKstep) hx] at hk
      rw [List.filter_cons_of_pos (p := fun x : Flight => !x.isKstep) (by simpa using hx)] at ho
      rcases List.mem_append.mp (ho.subset List.mem_cons_self) with hm | hm
      · unfold tileStages at hm
        split at hm
        next hlt =>
          obtain rfl := List.mem_singleton.mp hm
          refine H.stage hq hg hrun hlt hk ?_
          unfold tileStages at ho
          rw [if_pos hlt, List.singleton_append] at ho
          exact ho.cons_inv
        next => exact absurd hm List.not_mem_nil
      · cases pend with
        | false => exact absurd hm List.not_mem_nil
        | true =>
          obtain rfl := List.mem_singleton.mp hm
          exact H.setDescr hslot hk (ho.trans List.perm_append_comm).cons_inv

/-! ### What the word leaves -/

/-- All the work of a word has come about. -/
theorem Tiling.done {j k : Nat} {pend : Bool} {acc : List (Nat × Nat)} {t : State} (H : Tiling conv u i f j k pend acc [] t) : TileFrame conv u i.spar.val f f.ksteps f.start t := by
  have ho : tileStages u i f k acc ++ (if pend then [tileDescr u i f] else []) = [] := H.others.nil_eq.symm
  obtain ⟨hs, hp⟩ := List.append_eq_nil_iff.mp ho
  have hk : f.ksteps ≤ k * f.rate.1 := by
    by_contra hk
    unfold tileStages at hs
    rw [if_pos (not_le.mp hk)] at hs
    cases hs
  have hj : f.taken k - j = 0 := by
    have := congrArg List.length H.ksteps
    simpa [kstepFlights] using this.symm
  have hle := H.le
  have hframe := H.frame
  unfold TileF.taken at hj hle
  obtain rfl : j = f.ksteps := by omega
  cases pend with
  | true => cases hp
  | false => simpa using hframe

theorem TileFrame.wrote {n : Nat} {t : State} (hk : 0 < f.ksteps) (H : TileFrame conv u n f f.ksteps f.start t) (hflight : t.fab.flight = []) : TileWrote conv u t n f := by
  refine ⟨fun r c hr hc => ⟨(H.cells r c hr hc).sum hk, (H.cells r c hr hc).poison hk⟩, fun m h r c _ hh hr hc hne => H.halves m h r c hh hr hc hne, H.descr, H.regs, H.poi, H.ufz, ?_⟩
  obtain ⟨r, cr, de, l, y, g, rfl⟩ := H.only
  obtain rfl : l = [] := hflight
  rfl

/-- What is in flight as the word issues. -/
def tileBegun (u : State) (i : Issue) (f : TileF) : List Flight := ⟨i.c.toNat, 3, .stage i (u.hold i) 0 []⟩ :: if f.start then [tileDescr u i f] else []

theorem tileIssue_eq (hcalm : u.fab.flight = []) : tileIssue f i (u.hold i) u = { u with fab := { u.fab with flight := tileBegun u i f } } := by
  unfold tileIssue staged State.later tileBegun
  rw [hcalm]
  cases f.start <;> rfl

/-- The word as it issues. -/
theorem Tiling.start (conv : Bool) (u : State) (i : Issue) (hk : 0 < f.ksteps) :
    Tiling conv u i f 0 0 f.start [] (tileBegun u i f) { u with wire := [], fab := { u.fab with flight := tileBegun u i f } } := by
  have hfirst : tileStages u i f 0 [] = [⟨i.c.toNat, 3, .stage i (u.hold i) 0 []⟩] := by
    unfold tileStages
    rw [Nat.zero_mul, Nat.zero_mul, if_pos hk, Nat.add_zero]
  have hbegun : ∀ x ∈ tileBegun u i f, x.isKstep = false := by
    intro x hx
    unfold tileBegun at hx
    rcases List.mem_cons.mp hx with rfl | hx
    · rfl
    · split at hx
      · rw [List.mem_singleton.mp hx]
        rfl
      · exact absurd hx List.not_mem_nil
  obtain ⟨hks, hother⟩ := filter_isKstep (l := []) (fun x hx => absurd hx List.not_mem_nil) hbegun
  refine ⟨Nat.zero_le _, fun h => absurd (by rw [Nat.zero_mul, Nat.zero_mod]) h, id, ?_, ?_, ?_⟩
  · unfold kstepFlights TileF.taken
    rw [Nat.zero_mul, Nat.zero_min]
    exact hks
  · rw [hfirst]
    exact .of_eq hother
  · rw [Bool.and_not_self]
    exact (TileFrame.start conv u i.spar.val f).clock _ _ _

theorem toCome_tileBegun (u : State) (i : Issue) (f : TileF) : toCome (tileLeft f) (tileBegun u i f) ≤ 4 * f.ksteps + 1 := by
  unfold tileBegun
  rw [toCome_cons]
  have hstage : tileLeft f (.stage i (u.hold i) 0 []) = 4 * f.ksteps := by
    change 4 * (f.ksteps - 0 * f.rate.1) = _
    rw [Nat.zero_mul, Nat.sub_zero]
  rw [hstage]
  split
  · exact Nat.le_refl _
  · exact Nat.le_succ _

theorem tileBegun_cycle (u : State) (i : Issue) (f : TileF) : ∀ x ∈ tileBegun u i f, x.c ≤ i.c.toNat + 1 := by
  intro x hx
  unfold tileBegun at hx
  rcases List.mem_cons.mp hx with rfl | hx
  · exact Nat.le_succ _
  · split at hx
    · rw [List.mem_singleton.mp hx]
      exact Nat.le_refl _
    · exact absurd hx List.not_mem_nil

theorem tileWord_wrote {chk : State → Issue → TileF → Option IssueFault} {s : State} (hq : QuietBay (s.atIssue i) i.spar.val) (hi : Issues s i (decTile conv) chk f) :
    TileWrote conv (s.atIssue i) (settleAll (tileIssue f i ((s.atIssue i).hold i) (s.atIssue i))) i.spar.val f := by
  obtain ⟨-, hd, -⟩ := hi
  obtain ⟨ho, hg, hk, hk', hslot⟩ := decTile_some hd
  have hle := toCome_tileBegun (s.atIssue i) i f
  have hfew : toCome (tileLeft f) (tileBegun (s.atIssue i) i f) < 2 ^ 40 := by omega
  have hends : EndsBy (tileLeft f) (2 ^ 60) (tileBegun (s.atIssue i) i f) := fun x hx => by
    have := le_toCome (tileLeft f) hx
    have := tileBegun_cycle _ i f x hx
    have := i.c.isLt
    omega
  rw [tileIssue_eq hq.calm]
  obtain ⟨hflight, j, k, pend, acc, H⟩ := (tiling_inTime hq hg hslot (runWork_tile ho hd)).settle (e := 2 ^ 60) (c := 2 ^ 64) (phase := 4) (n := 2 ^ 40)
    (s := { s.atIssue i with wire := [], fab := { (s.atIssue i).fab with flight := tileBegun (s.atIssue i) i f } }) (by norm_num) ⟨_, _, _, _, Tiling.start conv (s.atIssue i) i hk⟩ hends hfew
  exact H.done.wrote hk hflight

end tiling

/-- Settles O17: the k-steps land one after another, each adding its placed product to every cell. -/
theorem tileMatrixWords : Obligations.TileMatrixWords := by
  intro s i f u hq
  exact ⟨fun hi => ⟨_, commandWord_begins tileIssue hi, tileWord_wrote hq hi⟩, fun hi => ⟨_, commandWord_begins tileIssue hi, tileWord_wrote hq hi⟩⟩

end Sys2Proof.Machine
